-- ==== Sys2Proof/Word.lean ====
section
/-! DEFINITION. The word types of the Fliveano C4 (R2, R214): a 64-bit word, a byte, an instruction word. -/

namespace Sys2Proof

/-- A 64-bit word: a scalar register, a control register, a doubleword of memory. -/
abbrev Word := BitVec 64

/-- One byte of memory. -/
abbrev Byte := BitVec 8

/-- One instruction word (R212). -/
abbrev IWord := BitVec 32

end Sys2Proof
end

