-- ==== Sys2Proof/Syntax.lean ====
section
/-! DEFINITION. The instructions and the device events of the opcode table, one constructor per row.
An operand is the bit field of the encoding (R213). A device event has no operand field: what it acts on (the
message, the flit, the unit) stands in the state, as the event that is present at the device (`State.ev`). The
instruction words come first and the events after them. -/

namespace Sys2Proof

/-- The rows of the opcode table. -/
inductive Instr where
  /-- R233: xd ← xa + xb, wrapping. -/
  | add (d : BitVec 5) (a : BitVec 5) (b : BitVec 5)
  /-- R233: xd ← xa − xb, wrapping. -/
  | sub (d : BitVec 5) (a : BitVec 5) (b : BitVec 5)
  /-- R233: Bitwise AND. -/
  | and (d : BitVec 5) (a : BitVec 5) (b : BitVec 5)
  /-- R233: Bitwise OR. -/
  | or (d : BitVec 5) (a : BitVec 5) (b : BitVec 5)
  /-- R233: Bitwise XOR. -/
  | xor (d : BitVec 5) (a : BitVec 5) (b : BitVec 5)
  /-- R233: a AND NOT b. -/
  | andn (d : BitVec 5) (a : BitVec 5) (b : BitVec 5)
  /-- R233: Logical shift left by b[5:0]. -/
  | sll (d : BitVec 5) (a : BitVec 5) (b : BitVec 5)
  /-- R233: Logical shift right by b[5:0]. -/
  | srl (d : BitVec 5) (a : BitVec 5) (b : BitVec 5)
  /-- R233: Arithmetic shift right by b[5:0]. -/
  | sra (d : BitVec 5) (a : BitVec 5) (b : BitVec 5)
  /-- R233: Rotate left by b[5:0]. -/
  | rol (d : BitVec 5) (a : BitVec 5) (b : BitVec 5)
  /-- R233: Low 64 bits of the product. -/
  | mul (d : BitVec 5) (a : BitVec 5) (b : BitVec 5)
  /-- R233: High 64 bits of the signed product. -/
  | mulh (d : BitVec 5) (a : BitVec 5) (b : BitVec 5)
  /-- R233: High 64 bits of the unsigned product. -/
  | mulhu (d : BitVec 5) (a : BitVec 5) (b : BitVec 5)
  /-- R234: Signed division toward zero; traps INT_DIVZERO on zero. -/
  | div (d : BitVec 5) (a : BitVec 5) (b : BitVec 5)
  /-- R234: Unsigned division. -/
  | divu (d : BitVec 5) (a : BitVec 5) (b : BitVec 5)
  /-- R234: Signed remainder. -/
  | rem (d : BitVec 5) (a : BitVec 5) (b : BitVec 5)
  /-- R234: Unsigned remainder. -/
  | remu (d : BitVec 5) (a : BitVec 5) (b : BitVec 5)
  /-- R233: Signed minimum. -/
  | min (d : BitVec 5) (a : BitVec 5) (b : BitVec 5)
  /-- R233: Signed maximum. -/
  | max (d : BitVec 5) (a : BitVec 5) (b : BitVec 5)
  /-- R233: Unsigned minimum. -/
  | minu (d : BitVec 5) (a : BitVec 5) (b : BitVec 5)
  /-- R233: Unsigned maximum. -/
  | maxu (d : BitVec 5) (a : BitVec 5) (b : BitVec 5)
  /-- R233: Signed less-than test. -/
  | slt (d : BitVec 5) (a : BitVec 5) (b : BitVec 5)
  /-- R233: Unsigned less-than test. -/
  | sltu (d : BitVec 5) (a : BitVec 5) (b : BitVec 5)
  /-- R233: Equality test. -/
  | seq (d : BitVec 5) (a : BitVec 5) (b : BitVec 5)
  /-- R233: Count leading zeros. -/
  | clz (d : BitVec 5) (a : BitVec 5)
  /-- R233: Count trailing zeros. -/
  | ctz (d : BitVec 5) (a : BitVec 5)
  /-- R233: Population count. -/
  | popc (d : BitVec 5) (a : BitVec 5)
  /-- R233: Bit reversal. -/
  | brev (d : BitVec 5) (a : BitVec 5)
  /-- R235: Gather the bits of a under mask b. -/
  | bext (d : BitVec 5) (a : BitVec 5) (b : BitVec 5)
  /-- R235: Scatter the low bits of a into mask b. -/
  | bdep (d : BitVec 5) (a : BitVec 5) (b : BitVec 5)
  /-- R233: xd ← a if b ≠ 0. -/
  | cmov (d : BitVec 5) (a : BitVec 5) (b : BitVec 5)
  /-- R233: 32-bit add, sign-extended. -/
  | addw (d : BitVec 5) (a : BitVec 5) (b : BitVec 5)
  /-- R236: Add a sign-extended immediate. -/
  | addi (d : BitVec 5) (a : BitVec 5) (i : BitVec 16)
  /-- R236: AND with a zero-extended immediate. -/
  | andi (d : BitVec 5) (a : BitVec 5) (i : BitVec 16)
  /-- R236: OR with a zero-extended immediate. -/
  | ori (d : BitVec 5) (a : BitVec 5) (i : BitVec 16)
  /-- R236: XOR with a zero-extended immediate. -/
  | xori (d : BitVec 5) (a : BitVec 5) (i : BitVec 16)
  /-- R236: Shift left by an immediate. -/
  | slli (d : BitVec 5) (a : BitVec 5) (s : BitVec 6)
  /-- R236: Logical shift right by an immediate. -/
  | srli (d : BitVec 5) (a : BitVec 5) (s : BitVec 6)
  /-- R236: Arithmetic shift right by an immediate. -/
  | srai (d : BitVec 5) (a : BitVec 5) (s : BitVec 6)
  /-- R236: Rotate left by an immediate. -/
  | roli (d : BitVec 5) (a : BitVec 5) (s : BitVec 6)
  /-- R236: Signed compare with an immediate. -/
  | slti (d : BitVec 5) (a : BitVec 5) (i : BitVec 16)
  /-- R236: Unsigned compare with a sign-extended immediate. -/
  | sltiu (d : BitVec 5) (a : BitVec 5) (i : BitVec 16)
  /-- R236: xd ← sext(imm16) << 16. -/
  | lui (d : BitVec 5) (i : BitVec 16)
  /-- R236: Insert imm16 at halfword q of xd. -/
  | movk (d : BitVec 5) (q : BitVec 2) (i : BitVec 16)
  /-- R238: f32 addition. -/
  | faddS (d : BitVec 5) (a : BitVec 5) (b : BitVec 5)
  /-- R238: f32 subtraction. -/
  | fsubS (d : BitVec 5) (a : BitVec 5) (b : BitVec 5)
  /-- R238: f32 multiplication. -/
  | fmulS (d : BitVec 5) (a : BitVec 5) (b : BitVec 5)
  /-- R238: f32 division. -/
  | fdivS (d : BitVec 5) (a : BitVec 5) (b : BitVec 5)
  /-- R238: f32 square root. -/
  | fsqrtS (d : BitVec 5) (a : BitVec 5)
  /-- R239: f32 IEEE minimum. -/
  | fminS (d : BitVec 5) (a : BitVec 5) (b : BitVec 5)
  /-- R239: f32 IEEE maximum. -/
  | fmaxS (d : BitVec 5) (a : BitVec 5) (b : BitVec 5)
  /-- R238: f32 fused a × b + xd. -/
  | fmaddS (d : BitVec 5) (a : BitVec 5) (b : BitVec 5)
  /-- R239: f32 equality compare. -/
  | feqS (d : BitVec 5) (a : BitVec 5) (b : BitVec 5)
  /-- R239: f32 less-than compare. -/
  | fltS (d : BitVec 5) (a : BitVec 5) (b : BitVec 5)
  /-- R239: f32 less-or-equal compare. -/
  | fleS (d : BitVec 5) (a : BitVec 5) (b : BitVec 5)
  /-- R238: f64 addition. -/
  | faddD (d : BitVec 5) (a : BitVec 5) (b : BitVec 5)
  /-- R238: f64 subtraction. -/
  | fsubD (d : BitVec 5) (a : BitVec 5) (b : BitVec 5)
  /-- R238: f64 multiplication. -/
  | fmulD (d : BitVec 5) (a : BitVec 5) (b : BitVec 5)
  /-- R238: f64 division. -/
  | fdivD (d : BitVec 5) (a : BitVec 5) (b : BitVec 5)
  /-- R238: f64 square root. -/
  | fsqrtD (d : BitVec 5) (a : BitVec 5)
  /-- R239: f64 IEEE minimum. -/
  | fminD (d : BitVec 5) (a : BitVec 5) (b : BitVec 5)
  /-- R239: f64 IEEE maximum. -/
  | fmaxD (d : BitVec 5) (a : BitVec 5) (b : BitVec 5)
  /-- R238: f64 fused a × b + xd. -/
  | fmaddD (d : BitVec 5) (a : BitVec 5) (b : BitVec 5)
  /-- R239: f64 equality compare. -/
  | feqD (d : BitVec 5) (a : BitVec 5) (b : BitVec 5)
  /-- R239: f64 less-than compare. -/
  | fltD (d : BitVec 5) (a : BitVec 5) (b : BitVec 5)
  /-- R239: f64 less-or-equal compare. -/
  | fleD (d : BitVec 5) (a : BitVec 5) (b : BitVec 5)
  /-- R240: f64 to f32 conversion. -/
  | fcvtSD (d : BitVec 5) (a : BitVec 5)
  /-- R240: f32 to f64 conversion. -/
  | fcvtDS (d : BitVec 5) (a : BitVec 5)
  /-- R240: i32 to f32 conversion. -/
  | fcvtSW (d : BitVec 5) (a : BitVec 5)
  /-- R240: f32 to i32 conversion with saturation. -/
  | fcvtWS (d : BitVec 5) (a : BitVec 5)
  /-- R240: i64 to f64 conversion. -/
  | fcvtDL (d : BitVec 5) (a : BitVec 5)
  /-- R240: f64 to i64 conversion with saturation. -/
  | fcvtLD (d : BitVec 5) (a : BitVec 5)
  /-- R240: f32 to bf16 conversion. -/
  | fcvtBfS (d : BitVec 5) (a : BitVec 5)
  /-- R240: bf16 to f32 conversion. -/
  | fcvtSBf (d : BitVec 5) (a : BitVec 5)
  /-- R249: Load a sign-extended byte. -/
  | ldb (d : BitVec 5) (a : BitVec 5) (h : BitVec 4) (o : BitVec 9)
  /-- R249: Load a zero-extended byte. -/
  | ldbu (d : BitVec 5) (a : BitVec 5) (h : BitVec 4) (o : BitVec 9)
  /-- R249: Load a sign-extended halfword. -/
  | ldh (d : BitVec 5) (a : BitVec 5) (h : BitVec 4) (o : BitVec 9)
  /-- R249: Load a zero-extended halfword. -/
  | ldhu (d : BitVec 5) (a : BitVec 5) (h : BitVec 4) (o : BitVec 9)
  /-- R249: Load a sign-extended word. -/
  | ldw (d : BitVec 5) (a : BitVec 5) (h : BitVec 4) (o : BitVec 9)
  /-- R249: Load a zero-extended word. -/
  | ldwu (d : BitVec 5) (a : BitVec 5) (h : BitVec 4) (o : BitVec 9)
  /-- R249: Load a doubleword. -/
  | ldd (d : BitVec 5) (a : BitVec 5) (h : BitVec 4) (o : BitVec 9)
  /-- R251: Store a byte. -/
  | stb (d : BitVec 5) (a : BitVec 5) (h : BitVec 4) (o : BitVec 9)
  /-- R251: Store a halfword. -/
  | sth (d : BitVec 5) (a : BitVec 5) (h : BitVec 4) (o : BitVec 9)
  /-- R251: Store a word. -/
  | stw (d : BitVec 5) (a : BitVec 5) (h : BitVec 4) (o : BitVec 9)
  /-- R251: Store a doubleword. -/
  | std (d : BitVec 5) (a : BitVec 5) (h : BitVec 4) (o : BitVec 9)
  /-- R255: Store one 4-bit element indivisibly. -/
  | stn (d : BitVec 5) (a : BitVec 5) (h : BitVec 4) (o : BitVec 9)
  /-- R256: Load a handle register from a handle word. -/
  | hset (d : BitVec 5) (a : BitVec 5)
  /-- R257: Read a handle register as a handle word. -/
  | hget (d : BitVec 5) (a : BitVec 5)
  /-- R257: Read an object entry's placement, format and rights. -/
  | hinfo (d : BitVec 5) (a : BitVec 5)
  /-- R257: Read an object's length. -/
  | hlen (d : BitVec 5) (a : BitVec 5)
  /-- R258: Create a sub-object entry with narrowed rights. -/
  | hsub (d : BitVec 5) (a : BitVec 5) (b : BitVec 5) (h : BitVec 4)
  /-- R259: Allocate and charge a new object. -/
  | oalloc (d : BitVec 5) (a : BitVec 5) (b : BitVec 5)
  /-- R260: Free an object or sub-object and release its charges. -/
  | ofree (a : BitVec 5)
  /-- R262: Atomic swap at home. -/
  | amoSwap (d : BitVec 5) (a : BitVec 5) (b : BitVec 5) (h : BitVec 4) (o : BitVec 2) (w : BitVec 1)
  /-- R262: Atomic compare-and-swap at home. -/
  | amoCas (d : BitVec 5) (a : BitVec 5) (b : BitVec 5) (h : BitVec 4) (o : BitVec 2) (w : BitVec 1)
  /-- R262: Atomic add at home. -/
  | amoAdd (d : BitVec 5) (a : BitVec 5) (b : BitVec 5) (h : BitVec 4) (o : BitVec 2) (w : BitVec 1)
  /-- R262: Atomic AND at home. -/
  | amoAnd (d : BitVec 5) (a : BitVec 5) (b : BitVec 5) (h : BitVec 4) (o : BitVec 2) (w : BitVec 1)
  /-- R262: Atomic OR at home. -/
  | amoOr (d : BitVec 5) (a : BitVec 5) (b : BitVec 5) (h : BitVec 4) (o : BitVec 2) (w : BitVec 1)
  /-- R262: Atomic XOR at home. -/
  | amoXor (d : BitVec 5) (a : BitVec 5) (b : BitVec 5) (h : BitVec 4) (o : BitVec 2) (w : BitVec 1)
  /-- R262: Atomic signed minimum. -/
  | amoMin (d : BitVec 5) (a : BitVec 5) (b : BitVec 5) (h : BitVec 4) (o : BitVec 2) (w : BitVec 1)
  /-- R262: Atomic signed maximum. -/
  | amoMax (d : BitVec 5) (a : BitVec 5) (b : BitVec 5) (h : BitVec 4) (o : BitVec 2) (w : BitVec 1)
  /-- R262: Atomic unsigned minimum. -/
  | amoMinu (d : BitVec 5) (a : BitVec 5) (b : BitVec 5) (h : BitVec 4) (o : BitVec 2) (w : BitVec 1)
  /-- R262: Atomic unsigned maximum. -/
  | amoMaxu (d : BitVec 5) (a : BitVec 5) (b : BitVec 5) (h : BitVec 4) (o : BitVec 2) (w : BitVec 1)
  /-- R262: Atomic f32 add with RNE. -/
  | amoFaddS (d : BitVec 5) (a : BitVec 5) (b : BitVec 5) (h : BitVec 4) (o : BitVec 2)
  /-- R265: Reduction add at home. -/
  | redAdd (a : BitVec 5) (b : BitVec 5) (h : BitVec 4) (o : BitVec 1) (w : BitVec 1)
  /-- R265: Reduction AND at home. -/
  | redAnd (a : BitVec 5) (b : BitVec 5) (h : BitVec 4) (o : BitVec 1) (w : BitVec 1)
  /-- R265: Reduction OR at home. -/
  | redOr (a : BitVec 5) (b : BitVec 5) (h : BitVec 4) (o : BitVec 1) (w : BitVec 1)
  /-- R265: Reduction XOR at home. -/
  | redXor (a : BitVec 5) (b : BitVec 5) (h : BitVec 4) (o : BitVec 1) (w : BitVec 1)
  /-- R265: Reduction signed minimum. -/
  | redMin (a : BitVec 5) (b : BitVec 5) (h : BitVec 4) (o : BitVec 1) (w : BitVec 1)
  /-- R265: Reduction signed maximum. -/
  | redMax (a : BitVec 5) (b : BitVec 5) (h : BitVec 4) (o : BitVec 1) (w : BitVec 1)
  /-- R265: Reduction unsigned minimum. -/
  | redMinu (a : BitVec 5) (b : BitVec 5) (h : BitVec 4) (o : BitVec 1) (w : BitVec 1)
  /-- R265: Reduction unsigned maximum. -/
  | redMaxu (a : BitVec 5) (b : BitVec 5) (h : BitVec 4) (o : BitVec 1) (w : BitVec 1)
  /-- R265: Reduction f32 add. -/
  | redFaddS (a : BitVec 5) (b : BitVec 5) (h : BitVec 4) (o : BitVec 1)
  /-- R265: Reduction f32 maximum. -/
  | redFmaxS (a : BitVec 5) (b : BitVec 5) (h : BitVec 4) (o : BitVec 1)
  /-- R283: Open a restartable region with a block signature. -/
  | rgn (s : BitVec 16)
  /-- R283: Open a non-restartable region. -/
  | rgnx (s : BitVec 16)
  /-- R242: Branch if equal. -/
  | beq (a : BitVec 5) (b : BitVec 5) (o : BitVec 16)
  /-- R242: Branch if not equal. -/
  | bne (a : BitVec 5) (b : BitVec 5) (o : BitVec 16)
  /-- R242: Branch if signed less. -/
  | blt (a : BitVec 5) (b : BitVec 5) (o : BitVec 16)
  /-- R242: Branch if signed greater or equal. -/
  | bge (a : BitVec 5) (b : BitVec 5) (o : BitVec 16)
  /-- R242: Branch if unsigned less. -/
  | bltu (a : BitVec 5) (b : BitVec 5) (o : BitVec 16)
  /-- R242: Branch if unsigned greater or equal. -/
  | bgeu (a : BitVec 5) (b : BitVec 5) (o : BitVec 16)
  /-- R243: Branch if a bit is set. -/
  | bbs (a : BitVec 5) (t : BitVec 6) (o : BitVec 15)
  /-- R243: Branch if a bit is clear. -/
  | bbc (a : BitVec 5) (t : BitVec 6) (o : BitVec 15)
  /-- R244: PC-relative jump. -/
  | j (o : BitVec 26)
  /-- R244: PC-relative jump and link into lk. -/
  | jal (o : BitVec 26)
  /-- R245: Jump to register. -/
  | jr (a : BitVec 5)
  /-- R245: Jump to register and link. -/
  | jalr (d : BitVec 5) (a : BitVec 5)
  /-- R270: Order accesses at a scope, cleaning and invalidating the caches below it. -/
  | fence (a : BitVec 5)
  /-- R271: Wait for remote stores, reductions and remote-tier stores, and deliver their deferred causes. -/
  | rfence
  /-- R272: Wait for and take an event line's value, with an acquire at cluster scope. -/
  | wait (d : BitVec 5) (a : BitVec 5)
  /-- R273: Signal an event line with a release at cluster scope. -/
  | evsig (a : BitVec 5) (b : BitVec 5)
  /-- R274: Arrive at an event-unit barrier and wait for its release. -/
  | barEvent (d : BitVec 5) (a : BitVec 5) (b : BitVec 5)
  /-- R274: Arrive at a completion barrier object and wait for its release. -/
  | barObject (d : BitVec 5) (b : BitVec 5) (h : BitVec 4)
  /-- R275: Acquire a cluster mutex, or wait for it with donation. -/
  | lock (a : BitVec 5)
  /-- R275: Release a cluster mutex. -/
  | unlock (a : BitVec 5)
  /-- R276: Make the context not ready for up to 32 cycles. -/
  | pause
  /-- R278: Define or remove a virtual cache. -/
  | vcdef (a : BitVec 5) (b : BitVec 5)
  /-- R279: Request a resize of a virtual cache. -/
  | vcsize (a : BitVec 5)
  /-- R279: Request re-parenting of a virtual cache. -/
  | vcpar (a : BitVec 5)
  /-- R280: Write a binding of an object entry. -/
  | vcbind (a : BitVec 5) (h : BitVec 4)
  /-- R280: Clear a binding of an object entry. -/
  | vcunb (a : BitVec 5) (h : BitVec 4)
  /-- R281: Clean a virtual cache or one object's lines in it. -/
  | vcwb (a : BitVec 5) (o : BitVec 1) (h : BitVec 4)
  /-- R281: Clean and invalidate a virtual cache or one object's lines in it. -/
  | vcinv (a : BitVec 5) (o : BitVec 1) (h : BitVec 4)
  /-- R282: Read a virtual cache's state. -/
  | vcq (d : BitVec 5) (a : BitVec 5)
  /-- R139: Capture the next n instructions and replay them with register strides. -/
  | rpt (a : BitVec 5) (b : BitVec 5) (n : BitVec 4)
  /-- R285: Start a helper context, or return the recorded helper on a restart. -/
  | start (d : BitVec 5) (a : BitVec 5) (b : BitVec 5)
  /-- R286: End a helper with a signal on line 31, or end the control context's run. -/
  | hexit
  /-- R287: Become a yield point at once. -/
  | yield
  /-- R288: Issue a copy-unit job from a job record. -/
  | cp (d : BitVec 5) (a : BitVec 5)
  /-- R289: Issue a multicast read job to named cores. -/
  | mcast (d : BitVec 5) (a : BitVec 5)
  /-- R290: Wait for a job's completion, reporting its fault once. -/
  | jwait (d : BitVec 5) (a : BitVec 5)
  /-- R290: Poll a job's state without waiting. -/
  | jpoll (d : BitVec 5) (a : BitVec 5)
  /-- R291: Request an object migration to FAST or SLOW. -/
  | tmig (d : BitVec 5) (a : BitVec 5) (h : BitVec 4)
  /-- R292: Enter a join of copy-unit queues. -/
  | cpjoin (d : BitVec 5) (a : BitVec 5)
  /-- R294: Post a packet to a device queue as a child task. -/
  | qpost (d : BitVec 5) (a : BitVec 5) (h : BitVec 4)
  /-- R295: Send a 64-byte mailbox message with a release at job scope. -/
  | send (a : BitVec 5) (h : BitVec 4)
  /-- R296: Receive a mailbox message, waiting while the ring is empty. -/
  | recv (d : BitVec 5) (a : BitVec 5) (h : BitVec 4)
  /-- R296: Try to receive a mailbox message without waiting. -/
  | qtry (d : BitVec 5) (a : BitVec 5) (h : BitVec 4)
  /-- R297: Add mailbox messages into a tile row segment. -/
  | rdqAdd (d : BitVec 5) (a : BitVec 5) (b : BitVec 5) (h : BitVec 4)
  /-- R297: Take the maximum of mailbox messages into a tile row segment. -/
  | rdqMax (d : BitVec 5) (a : BitVec 5) (b : BitVec 5) (h : BitVec 4)
  /-- R299: Gang superstep barrier with fences, a member record and copy-on-write arming. -/
  | sstep
  /-- R300: Start a job snapshot generation. -/
  | snap (d : BitVec 5) (h : BitVec 4)
  /-- R300: Read a job's snapshot state. -/
  | snapst (d : BitVec 5) (s : BitVec 2) (h : BitVec 4)
  /-- R301: Roll a job back to a sealed generation. -/
  | rollbk (a : BitVec 5) (h : BitVec 4)
  /-- R302: Raise SYSCALL at user level, or forward a monitor call at supervisor level. -/
  | trap (d : BitVec 5) (a : BitVec 5)
  /-- R303: Return from supervisor level to EPC. -/
  | eret
  /-- R304: Read a control register. -/
  | csrr (d : BitVec 5) (c : BitVec 11)
  /-- R304: Write a control register under its map. -/
  | csrw (a : BitVec 5) (c : BitVec 11)
  /-- R304: Set RW bits, or clear W1C bits, of a control register. -/
  | csrs (a : BitVec 5) (c : BitVec 11)
  /-- R305: Kill the current task with a result code. -/
  | halt (a : BitVec 5)
  /-- R305: Raise BRK, or halt for the debugger. -/
  | brk (i : BitVec 6)
  /-- R93: Measure a code object and grant it X. -/
  | seal (d : BitVec 5) (a : BitVec 5)
  /-- R305: Do nothing. -/
  | nop
  /-- R313: Load tile rows from memory with window conversion. -/
  | tld (d : BitVec 3) (h : BitVec 4) (s : BitVec 5) (x : BitVec 5)
  /-- R313: Store tile rows to memory with window encoding. -/
  | tst (d : BitVec 3) (h : BitVec 4) (s : BitVec 5) (x : BitVec 5)
  /-- R316: Zero tile words in a window. -/
  | tzero (d : BitVec 3) (s : BitVec 5)
  /-- R317: Copy tile rows. -/
  | tmov (d : BitVec 3) (s : BitVec 5) (x : BitVec 5)
  /-- R317: Transpose tile words. -/
  | ttr (d : BitVec 3) (s : BitVec 5) (x : BitVec 5)
  /-- R316: Broadcast KCONST into tile words. -/
  | tbc (d : BitVec 3) (s : BitVec 5)
  /-- R317: Gather tile rows by an index tile. -/
  | tgat (d : BitVec 3) (s : BitVec 5) (x : BitVec 5)
  /-- R319: Element-wise add. -/
  | vadd (d : BitVec 3) (a : BitVec 3) (b : BitVec 3) (s : BitVec 5) (x : BitVec 5) (y : BitVec 3)
  /-- R319: Element-wise subtract. -/
  | vsub (d : BitVec 3) (a : BitVec 3) (b : BitVec 3) (s : BitVec 5) (x : BitVec 5) (y : BitVec 3)
  /-- R319: Element-wise multiply. -/
  | vmul (d : BitVec 3) (a : BitVec 3) (b : BitVec 3) (s : BitVec 5) (x : BitVec 5) (y : BitVec 3)
  /-- R319: Element-wise fused multiply-add. -/
  | vfma (d : BitVec 3) (a : BitVec 3) (b : BitVec 3) (s : BitVec 5) (x : BitVec 5) (y : BitVec 3)
  /-- R319: Element-wise minimum. -/
  | vmin (d : BitVec 3) (a : BitVec 3) (b : BitVec 3) (s : BitVec 5) (x : BitVec 5) (y : BitVec 3)
  /-- R319: Element-wise maximum. -/
  | vmax (d : BitVec 3) (a : BitVec 3) (b : BitVec 3) (s : BitVec 5) (x : BitVec 5) (y : BitVec 3)
  /-- R319: Element-wise i32 AND. -/
  | vand (d : BitVec 3) (a : BitVec 3) (b : BitVec 3) (s : BitVec 5) (x : BitVec 5)
  /-- R319: Element-wise i32 OR. -/
  | vor (d : BitVec 3) (a : BitVec 3) (b : BitVec 3) (s : BitVec 5) (x : BitVec 5)
  /-- R319: Element-wise i32 XOR. -/
  | vxor (d : BitVec 3) (a : BitVec 3) (b : BitVec 3) (s : BitVec 5) (x : BitVec 5)
  /-- R319: Element-wise i32 shift left. -/
  | vshl (d : BitVec 3) (a : BitVec 3) (b : BitVec 3) (s : BitVec 5) (x : BitVec 5)
  /-- R319: Element-wise i32 arithmetic shift right. -/
  | vshr (d : BitVec 3) (a : BitVec 3) (b : BitVec 3) (s : BitVec 5) (x : BitVec 5)
  /-- R322: Element-wise 2^x. -/
  | vexp2 (d : BitVec 3) (a : BitVec 3) (s : BitVec 5)
  /-- R322: Element-wise reciprocal. -/
  | vrcp (d : BitVec 3) (a : BitVec 3) (s : BitVec 5)
  /-- R322: Element-wise reciprocal square root. -/
  | vrsqrt (d : BitVec 3) (a : BitVec 3) (s : BitVec 5)
  /-- R322: Element-wise log2. -/
  | vlog2 (d : BitVec 3) (a : BitVec 3) (s : BitVec 5)
  /-- R322: Element-wise tanh. -/
  | vtanh (d : BitVec 3) (a : BitVec 3) (s : BitVec 5)
  /-- R322: f32 absolute value. -/
  | vabsF32 (d : BitVec 3) (a : BitVec 3) (s : BitVec 5)
  /-- R322: bf16 absolute value. -/
  | vabsBf16 (d : BitVec 3) (a : BitVec 3) (s : BitVec 5)
  /-- R322: f32 negation. -/
  | vnegF32 (d : BitVec 3) (a : BitVec 3) (s : BitVec 5)
  /-- R322: bf16 negation. -/
  | vnegBf16 (d : BitVec 3) (a : BitVec 3) (s : BitVec 5)
  /-- R323: Convert f32 to bf16 into a part of the row. -/
  | vcvtBf16F32 (d : BitVec 3) (a : BitVec 3) (p : BitVec 3) (s : BitVec 5)
  /-- R323: Widen a bf16 part to f32. -/
  | vcvtF32Bf16 (d : BitVec 3) (a : BitVec 3) (p : BitVec 3) (s : BitVec 5)
  /-- R323: Convert f32 to f16 into a part of the row. -/
  | vcvtF16F32 (d : BitVec 3) (a : BitVec 3) (p : BitVec 3) (s : BitVec 5)
  /-- R323: Widen an f16 part to f32. -/
  | vcvtF32F16 (d : BitVec 3) (a : BitVec 3) (p : BitVec 3) (s : BitVec 5)
  /-- R323: Encode f32 to e4m3 into a part of the row. -/
  | vcvtE4m3F32 (d : BitVec 3) (a : BitVec 3) (p : BitVec 3) (s : BitVec 5)
  /-- R323: Widen an e4m3 part to f32. -/
  | vcvtF32E4m3 (d : BitVec 3) (a : BitVec 3) (p : BitVec 3) (s : BitVec 5)
  /-- R323: Encode f32 to e5m2 into a part of the row. -/
  | vcvtE5m2F32 (d : BitVec 3) (a : BitVec 3) (p : BitVec 3) (s : BitVec 5)
  /-- R323: Widen an e5m2 part to f32. -/
  | vcvtF32E5m2 (d : BitVec 3) (a : BitVec 3) (p : BitVec 3) (s : BitVec 5)
  /-- R323: Convert f32 to i32 with saturation. -/
  | vcvtI32F32 (d : BitVec 3) (a : BitVec 3) (s : BitVec 5)
  /-- R323: Convert i32 to f32. -/
  | vcvtF32I32 (d : BitVec 3) (a : BitVec 3) (s : BitVec 5)
  /-- R323: Look up cb4 indices in the codebook as bf16. -/
  | vcvtBf16Cb4 (d : BitVec 3) (a : BitVec 3) (p : BitVec 3) (s : BitVec 5)
  /-- R324: f32 equality element mask. -/
  | vcmpEqF32 (d : BitVec 3) (a : BitVec 3) (b : BitVec 3) (s : BitVec 5) (x : BitVec 5)
  /-- R324: bf16 equality element mask. -/
  | vcmpEqBf16 (d : BitVec 3) (a : BitVec 3) (b : BitVec 3) (s : BitVec 5) (x : BitVec 5)
  /-- R324: i32 equality element mask. -/
  | vcmpEqI32 (d : BitVec 3) (a : BitVec 3) (b : BitVec 3) (s : BitVec 5) (x : BitVec 5)
  /-- R324: f32 inequality element mask. -/
  | vcmpNeF32 (d : BitVec 3) (a : BitVec 3) (b : BitVec 3) (s : BitVec 5) (x : BitVec 5)
  /-- R324: bf16 inequality element mask. -/
  | vcmpNeBf16 (d : BitVec 3) (a : BitVec 3) (b : BitVec 3) (s : BitVec 5) (x : BitVec 5)
  /-- R324: i32 inequality element mask. -/
  | vcmpNeI32 (d : BitVec 3) (a : BitVec 3) (b : BitVec 3) (s : BitVec 5) (x : BitVec 5)
  /-- R324: f32 less-than element mask. -/
  | vcmpLtF32 (d : BitVec 3) (a : BitVec 3) (b : BitVec 3) (s : BitVec 5) (x : BitVec 5)
  /-- R324: bf16 less-than element mask. -/
  | vcmpLtBf16 (d : BitVec 3) (a : BitVec 3) (b : BitVec 3) (s : BitVec 5) (x : BitVec 5)
  /-- R324: i32 less-than element mask. -/
  | vcmpLtI32 (d : BitVec 3) (a : BitVec 3) (b : BitVec 3) (s : BitVec 5) (x : BitVec 5)
  /-- R324: f32 less-or-equal element mask. -/
  | vcmpLeF32 (d : BitVec 3) (a : BitVec 3) (b : BitVec 3) (s : BitVec 5) (x : BitVec 5)
  /-- R324: bf16 less-or-equal element mask. -/
  | vcmpLeBf16 (d : BitVec 3) (a : BitVec 3) (b : BitVec 3) (s : BitVec 5) (x : BitVec 5)
  /-- R324: i32 less-or-equal element mask. -/
  | vcmpLeI32 (d : BitVec 3) (a : BitVec 3) (b : BitVec 3) (s : BitVec 5) (x : BitVec 5)
  /-- R325: Bitwise select by the old tD contents. -/
  | vsel (d : BitVec 3) (a : BitVec 3) (b : BitVec 3) (s : BitVec 5) (x : BitVec 5)
  /-- R326: Fixed-tree sum of each row. -/
  | vsum (d : BitVec 3) (a : BitVec 3) (y : BitVec 3) (s : BitVec 5)
  /-- R326: Fixed-tree maximum of each row. -/
  | vmaxr (d : BitVec 3) (a : BitVec 3) (y : BitVec 3) (s : BitVec 5)
  /-- R327: Permute 32-bit words of each row. -/
  | vperm (d : BitVec 3) (a : BitVec 3) (b : BitVec 3) (s : BitVec 5)
  /-- R328: Evaluate a postfix program per f32 element. -/
  | fuseF32 (d : BitVec 3) (a : BitVec 3) (b : BitVec 3) (s : BitVec 5) (x : BitVec 5)
  /-- R328: Evaluate a postfix program per bf16 element. -/
  | fuseBf16 (d : BitVec 3) (a : BitVec 3) (b : BitVec 3) (s : BitVec 5) (x : BitVec 5)
  /-- R330: Matrix multiply-accumulate with bf16 operands. -/
  | mmaBf16 (d : BitVec 3) (a : BitVec 3) (s : BitVec 5) (x : BitVec 5)
  /-- R330: Matrix multiply-accumulate with f16 operands. -/
  | mmaF16 (d : BitVec 3) (a : BitVec 3) (s : BitVec 5) (x : BitVec 5)
  /-- R330: Matrix multiply-accumulate with e4m3 operands. -/
  | mmaE4m3 (d : BitVec 3) (a : BitVec 3) (s : BitVec 5) (x : BitVec 5)
  /-- R330: Matrix multiply-accumulate with e5m2 operands. -/
  | mmaE5m2 (d : BitVec 3) (a : BitVec 3) (s : BitVec 5) (x : BitVec 5)
  /-- R330: Matrix multiply-accumulate with codebook weights. -/
  | mmaCb4 (d : BitVec 3) (a : BitVec 3) (s : BitVec 5) (x : BitVec 5)
  /-- R332: Load a weight slot from a global object. -/
  | wbld (o : BitVec 3) (x : BitVec 5)
  /-- R333: Set the core's lattice mode once the queue has drained. -/
  | lmode (m : BitVec 3)
  /-- R334: Wait for lattice completion, order it against scalar accesses, and deliver deferred causes. -/
  | lfence
  /-- R338: Evaluate a state-space layer, choosing each chunk's form automatically. -/
  | ssm (d : BitVec 3) (x : BitVec 5)
  /-- R338: Evaluate a state-space layer in chunked form only. -/
  | ssmC (d : BitVec 3) (x : BitVec 5)
  /-- R338: Evaluate a state-space layer in recurrent form only. -/
  | ssmR (d : BitVec 3) (x : BitVec 5)
  /-- R17: On power good and reset release, the device runs the ordered start-up sequence from boot ROM to accepting ADMIT packets. -/
  | deviceStart
  /-- R78: A start-up step that fails or exceeds 2 s resets the device and records the reason in the boot status register. -/
  | startStepTimeout
  /-- R78: Loss of standby power clears the failed-start count. -/
  | standbyPowerLoss
  /-- R13: Loss of lock on a derived clock raises CLOCK_FAULT, and a single-block unit is taken out of service. -/
  | clockFault
  /-- R16: A die reaching 95 °C raises THERMAL_WARN to the monitor. -/
  | thermalWarn
  /-- R16: A die reaching 110 °C raises THERMAL_TRIP and resets the partitions that hold its blocks. -/
  | thermalTrip
  /-- R16: A tripped die that falls below 90 °C accepts work again. -/
  | thermalRecover
  /-- R16: The power limit being exceeded for 1 ms raises POWER_CAP and reduces the matrix grant rate. -/
  | powerCap
  /-- R21: A received Solder flit is CRC-checked; a failure requests a replay from that flit. -/
  | solderFlit
  /-- R21: After 16 consecutive failed replays, the Solder interface retrains; after three failed retrainings it is marked absent. -/
  | d2dRetrain
  /-- R24: A Fliveano data or idle flit is checked, acknowledged, relayed or NAKed under go-back-N retry. -/
  | linkFlitReceive
  /-- R24: The link error counter passing 64 in one millisecond raises LINK_CRC. -/
  | linkCrc
  /-- R24: After 8 consecutive failed replays of one flit, the link retrains with its traffic stopped. -/
  | linkRetrain
  /-- R24: A third failed retraining takes the link down; the device raises LINK_DOWN and reroutes or fails the link's requests. -/
  | linkDown
  /-- R29: A TRAIN_REQ control flit makes the receiver enter retraining together with the sender. -/
  | trainReq
  /-- R29: A TRAIN_DONE control flit makes both sides leave retraining and resume from the acknowledged LSEQ. -/
  | trainDone
  /-- R29: An EACK control flit applies cumulative end-to-end acknowledgements, or is forwarded by a relay. -/
  | eack
  /-- R29: An ECHO control flit is answered at once with an ECHO_REPLY. -/
  | echo
  /-- R29: An ECHO_REPLY control flit lets the sender measure the link round trip. -/
  | echoReply
  /-- R29: An IDSET control flit assigns the receiving device its id and domain tag, hop by hop. -/
  | idset
  /-- R28: A cross-device TC0 request is handled against its source's replay table: performed, discarded, or answered from the stored result. -/
  | e2eRequestArrive
  /-- R27: A request with no response after 20 µs is retransmitted with its ESEQ on the current route. -/
  | e2eRetransmit
  /-- R27: After 8 retransmissions, the request fails with ATOMIC_LOST or REMOTE_FAIL. -/
  | e2eRequestFail
  /-- R27: An unacknowledged result with no following request for 10 µs makes the sender send an EACK control flit. -/
  | e2eAckTimer
  /-- R39: A switch takes a message, checks its header, routes it adaptively or deterministically, and replicates multicasts and markers. -/
  | switchReceive
  /-- R44: A free switch output chooses the next message: TC3, then promoted heads, then weighted round robin. -/
  | outputArbitrate
  /-- R45: A head whose age reaches its class threshold is promoted. -/
  | agePromote
  /-- R176: A read request is served at a VC bank or home slice, fetching from the parent or DRAM on a miss. -/
  | rd
  /-- R179: A byte-masked write of up to 8 bytes is merged at its stage and acknowledged. -/
  | wr
  /-- R171: A half-line write, write-back, flush, forward or purge with its byte mask is merged at the parent or home. -/
  | wrh
  /-- R178: An atomic is performed at the home slice's arithmetic unit in the line's single order, with scope checking. -/
  | atom
  /-- R265: A reduction is performed at the home slice and acknowledged, recording a release if ordered. -/
  | red
  /-- R255: A nibble store is performed at home as a masked atomic on one 4-bit element. -/
  | nib
  /-- R295: A mailbox message is stored in slot TAIL at the queue's home slice and acknowledged, or logged if it crosses a cut. -/
  | sendMsg
  /-- R294: A packet is stored in a device queue's slot TAIL, the old TAIL is returned, and the packet is handed to the dispatcher. -/
  | qpostMsg
  /-- R296: A take request removes slot HEAD and answers MSG, answers EMPTY, or waits in a pending entry. -/
  | take
  /-- R38: A TAKECAN withdraws a waiting TAKE of the same CTXID and tag. -/
  | takecan
  /-- R168: A remote store is written into the named core's local memory and acknowledged. -/
  | rst
  /-- R168: A remote load reads the named core's local memory. -/
  | rld
  /-- R169: The line is invalidated in the receiving cluster's L1 caches. -/
  | inv
  /-- R164: A copy-unit or migration line read is served as BDATA. -/
  | brd
  /-- R405: A multicast read opens a multicast record at the serving stage, or joins a live one. -/
  | mrd
  /-- R164: A copy-unit half-line write is merged and acknowledged with LACK. -/
  | bwrh
  /-- R58: A migration line copy or forward is written to the destination copy and acknowledged. -/
  | mfwd
  /-- R250: Read data returns to the requester, completing the load or fill. -/
  | rdata
  /-- R38: An acknowledgement completes a write, reduction or remote store at the requester. -/
  | ack
  /-- R262: An atomic result returns the old value to the issuing context. -/
  | ares
  /-- R296: A taken message is written to local memory and completes recv, qtry or an rdq element. -/
  | msg
  /-- R296: An EMPTY reply completes qtry with 0. -/
  | empty
  /-- R164: A line acknowledgement of TC2 data counts toward completion of a copy or migration job. -/
  | lack
  /-- R38: A FAIL reply raises its cause in the delivery class of the issuing instruction. -/
  | fail
  /-- R164: Copy-read data arrives and is written toward its destination, or into local memory by the network interface. -/
  | bdata
  /-- R405: A multicast line is delivered by a network interface to the named cores once the notices it needs are held. -/
  | mdata
  /-- R404: A multicast setup installs a delivery entry at a network interface and is acknowledged. -/
  | msetup
  /-- R405: A join notice is counted, and adds the joiner's delivery from line f on. -/
  | mjoin
  /-- R185: The first snapshot marker of a generation makes an endpoint cut-pending, and non-core endpoints cut at once. -/
  | marker
  /-- R189: A count reply is summed up the tree, and equal totals at the initiator move the snapshot to sealing. -/
  | creply
  /-- R189: A count poll makes each endpoint answer with its current counts. -/
  | cpoll
  /-- R141: An event message carries a signal, arrival, unlock, waiter wake or barrier release to an event unit. -/
  | event
  /-- R119: A scheduler message delivers a pre-emption request, resume, gang-barrier release or yield-point report. -/
  | sched
  /-- R173: A reshaping step is carried out at a placed bank, or its reply advances the VC controller's state. -/
  | vcstep
  /-- R104: A superstep rollback message makes a gang member stop, discard its region and restore its barrier state. -/
  | sroll
  /-- R38: Monitor and security-engine traffic, including key installation, is handled under Pewter's layouts. -/
  | mon
  /-- R38: A message with an unknown OP, a wrong PLEN or reserved request bits is discarded and logged as a tag failure. -/
  | unknownMessage
  /-- R176: A DRAM fill or write of a pending entry completes, and the merged requests are served in arrival order. -/
  | dramComplete
  /-- R177: When a pending entry frees, the oldest spilled request is fetched back from the spill queue. -/
  | spillFetch
  /-- R111: The home slice performs an arrival at a completion barrier, releasing and waking its waiters when NEED is met. -/
  | barrierArrive
  /-- R57: When the last line copy and forward are acknowledged, the placement switches, the source charge is released, and any queued transit starts. -/
  | migrationEnd
  /-- R180: The serving stage sends the next line of a multicast record as a replicated TC2 message. -/
  | mcastSend
  /-- R406: When every line owed to a requester is acknowledged, the slice sends its completion, finishing the multicast job. -/
  | mcastComplete
  /-- R348: A block's translation queue reads a page-map entry for merged misses and fills the cluster caches, or raises PAGE_MISS. -/
  | translationRead
  /-- R86: The security engine installs the next context-key generation in every network interface, releasing stalled senders. -/
  | keyGenerationInstall
  /-- R62: A host write to a queue's TAIL is accepted, or puts the queue in ERROR on overrun. -/
  | tailWrite
  /-- R64: The host records consumed completion records, freeing completion-ring room for packet starts. -/
  | cplheadWrite
  /-- R60: A write of one to STATUS.CFGREJ clears it. -/
  | statusClear
  /-- R63: CTRL ENABLE checks the configuration and enters RUNNING, or ERROR with ECODE 5. -/
  | queueEnable
  /-- R63: CTRL PAUSE moves a running queue to PAUSED. -/
  | queuePause
  /-- R63: CTRL RESUME moves a paused queue to RUNNING. -/
  | queueResume
  /-- R63: CTRL DISABLE moves a running or paused queue to DRAINING. -/
  | queueDisable
  /-- R63: CTRL RESET on an ERROR queue sets HEAD to TAIL, clears STATUS and disables the queue. -/
  | queueReset
  /-- R60: A write to RINGBASE, RINGCFG, CPLBASE or CPLCFG is accepted only in DISABLED and is otherwise discarded with CFGREJ. -/
  | queueConfigWrite
  /-- R90: A TELDATA read returns the indexed register, or zero with an audit log when the index is off the allow-list. -/
  | teldataRead
  /-- R6: A write to a register with no row of its own updates its RW fields under its map. -/
  | registerWrite
  /-- R63: A running queue reads the next packet from the host ring and advances HEAD. -/
  | takePacket
  /-- R65: A packet starts in ring order once FENCE, WAIT and completion-ring room allow, and is checked in order. -/
  | packetStart
  /-- R69: A completing packet arrives at CBAR, writes its completion record, and sends its MSI-X vector. -/
  | packetComplete
  /-- R67: A NOP packet completes at once. -/
  | nopPacket
  /-- R67: A LAUNCH packet runs COUNT instances as a one-node graph on its placement. -/
  | launch
  /-- R113: A GRAPH packet checks the task graph, reads its barrier base generations, and dispatches its nodes. -/
  | graph
  /-- R67: A COPY packet runs a copy-unit job of ROWS × LEN bytes, or writes firmware flash in minimal mode. -/
  | copy
  /-- R67: A SIGNAL packet arrives at a barrier with generation GEN. -/
  | signal
  /-- R67: A WAIT packet holds later packets until its barrier releases generation GEN. -/
  | waitPacket
  /-- R67: A WAIT that times out completes with TIMEOUT and puts the queue in ERROR with ECODE 4. -/
  | waitTimeout
  /-- R70: A RESYNC packet writes the device summary to a host buffer. -/
  | resync
  /-- R67: A SNAPSHOT packet acts as snap on the job and completes when the snapshot is sealed. -/
  | snapshot
  /-- R67: An ADMIT packet creates a context with its reservations, keys and tables, and binds its queues. -/
  | admitPacket
  /-- R67: A RETIRE packet kills the context's tasks, releases its resources, unbinds its queues and erases its keys. -/
  | retire
  /-- R96: A monitor call creates a partition: port owners, leaf switches, tier mappings and a MEAS4 extension. -/
  | partCreate
  /-- R98: A partition reset purges its messages, kills its tasks, empties its caches and zeroes its SRAM. -/
  | partReset
  /-- R97: A monitor call retires all contexts of a partition, resets it, and frees its ports and blocks. -/
  | partDestroy
  /-- R170: A monitor call admits banks to, or releases banks from, a context. -/
  | banks
  /-- R348: A monitor call drops an object's cached translations from the partition and waits for old accesses to finish. -/
  | mapFlush
  /-- R84: A monitor call writes a signed attestation report for a context. -/
  | report
  /-- R91: A monitor call copies audit ring entries out and reports the entries dropped. -/
  | auditRead
  /-- R77: A monitor call stages a new Pewter image on the shadows. -/
  | pewterUpdate
  /-- R77: At the primary's quiescent point, the shadows take over the active roles and the firewalls swap profiles. -/
  | pewterHandover
  /-- R75: A monitor call verifies and loads a signed policy image. -/
  | policyLoad
  /-- R75: A monitor call unloads a policy image version that no function pins. -/
  | policyUnload
  /-- R75: A monitor call repins a virtual function to an image version, effective at its next period. -/
  | policyPin
  /-- R416: A monitor call poisons one doubleword of the caller's memory at its home slice. -/
  | errinj
  /-- R94: A debug token on the debug port is verified; on success the device resets partitions, erases keys, and opens the port. -/
  | debugToken
  /-- R110: The dispatcher starts an instance on a fully free slot and releases the gang barrier's generation. -/
  | gangStart
  /-- R116: The dispatcher chooses a process by lowest pass and a queue by priority, then reserves or pre-empts a fitting slot. -/
  | dispatchDecision
  /-- R115: At the start of a scheduling period, function slices are computed from their shares. -/
  | periodStart
  /-- R115: At the end of a function's slice, its running tasks are pre-empted and SLICE_END is raised. -/
  | sliceEnd
  /-- R119: A pre-emption request stops each context at its boundary, drains the lattice queue, and saves the instance. -/
  | preempt
  /-- R119: A rgnx region still open 100 µs after the request kills the task with PREEMPTED. -/
  | preemptTimeout
  /-- R120: A pre-empted instance is restored all or nothing on a free slot and restarts at RGNPC. -/
  | resume
  /-- R123: A context reaching 4,096 cycles of pause becomes a yield point, and may be pre-empted for a lower pre-empted instance. -/
  | yieldPoint
  /-- R113: When every control context of an instance has executed hexit, the instance completes and its node may arrive at OUT. -/
  | instanceComplete
  /-- R346: A context enters its supervisor handler once no other context of the core is at supervisor level. -/
  | trapEntry
  /-- R350: The control context takes the oldest unread notice at an instruction boundary outside supervisor level. -/
  | noticeEntry
  /-- R346: A context at supervisor level for 1 ms without eret raises WATCHDOG, and its task is killed. -/
  | watchdog
  /-- R276: A pausing context becomes ready again after 32 cycles. -/
  | pauseExpire
  /-- R131: A frame fill or write-back on the local-memory port completes and the context may issue. -/
  | frameFill
  /-- R152: The arbiter grants eligible queue heads by weighted accumulators, starting matrix work, ssm chunks or rewiring. -/
  | latticeGrant
  /-- R151: After 24 cycles of rewiring, the winning head is granted. -/
  | rewireComplete
  /-- R157: The movement unit moves one row of a data-movement instruction, in round robin over the cores. -/
  | movementServe
  /-- R310: A lattice instruction completes, ORing its flags and recording deferred causes. -/
  | latticeComplete
  /-- R164: A copy-unit queue starts its head job and issues line reads in round robin. -/
  | copyJobStart
  /-- R142: A store to an event line ORs into VALUE, sets PEND, and wakes waiters. -/
  | eventLineStore
  /-- R143: A store to an event-unit barrier is an arrival that may release the barrier. -/
  | eventBarStore
  /-- R144: A store to a mutex unlocks it and hands it to the oldest waiter. -/
  | mutexStore
  /-- R141: A supervisor write sets BARCFG.NEED without releasing anything. -/
  | barcfgWrite
  /-- R186: A cut-pending core takes its snapshot cut as each context reaches a region entry. -/
  | coreCut
  /-- R188: The first live write to an armed unit stalls until the unit has been copied to the store. -/
  | cowCopy
  /-- R189: Every 8 µs while counts differ, the initiator sends a count poll down the tree. -/
  | countPoll
  /-- R189: Once the manifest is written, GEN advances, MHEAD is set and SNAP_NOTICE is raised. -/
  | snapshotSeal
  /-- R190: A failed snapshot stops copying and logging, and writes a failed manifest when possible. -/
  | snapshotFail
  /-- R188: After sealing, the home slices copy the not-yet-copied dirty pages of the generation in the background. -/
  | backgroundCopy
  /-- R104: Poison consumed in a rollable superstep rolls the gang back to its last sstep. -/
  | superstepRollback
  /-- R101: An uncorrectable metadata or unowned-unit error resets the owning partition or takes the unit out of service. -/
  | partitionMetadataError
  /-- R73: A request that crossed no link and has had no response for 20 µs fails with REMOTE_FAIL at the requester. -/
  | requestTimeout
  /-- R212: An instruction fetch at a misaligned PC, at or beyond LENGTH, inside a pool range, or on a bad page raises its cause precisely. -/
  | fetchFault
  /-- R227: A fetched word that is not an assigned encoding, or that has non-zero reserved or zero fields, raises ILL_ZERO, ILL_ONES, ILL_OP, ILL_FN or ILL_RSV precisely. -/
  | illegalWord
  /-- R32: A host TDISP request moves a virtual function's TDI between CONFIG_UNLOCKED, CONFIG_LOCKED, RUN and ERROR. -/
  | tdiStateChange
  /-- R33: A host CXL.mem access to the capacity-tier window is served, with back-invalidation. -/
  | cxlMemRequest
  /-- R33: A host coherence request over CXL.cache reaches a home slice that holds host memory lines. -/
  | cxlCacheSnoop
  /-- R52: A completion or an abort returns from host memory for a tier 2 access, a ring read or a completion-record write. -/
  | hostMemoryCompletion
  /-- R75: A faulting policy image makes its function fall back to equal weights and the default slice, and raises FW_ASSERT. -/
  | policyImageFault
  /-- R94: A debugger command on an open debug port halts, single-steps or resumes cores, or accesses memories at its level. -/
  | debugPortCommand
  /-- R21: A Solder retraining ends within 10 µs, and held traffic resumes, or the failure counts toward marking the interface absent. -/
  | d2dRetrainEnd
  /-- R192: A device of DEVMASK receives the rollback that another device's rollbk started, and performs the steps of R192 for its part of the job. -/
  | jobRollbackRequest
  deriving DecidableEq, Repr

end Sys2Proof
end

