-- ==== Sys2Proof/WellFormed.lean ====
section
/-! DEFINITION. What makes an instruction well formed beyond the fixed bits of its word: the checks of R227 steps 4 to 6
that look at a field of the encoding. -/

namespace Sys2Proof

/-- Step 4 of R227: the type codes 6 and 7 of major 0x29 are no function code. -/
def Instr.fnOk (i : Instr) : Bool :=
  match i with
  | .vadd _ _ _ _ _ y => decide (y.toNat < 6)
  | .vsub _ _ _ _ _ y => decide (y.toNat < 6)
  | .vmul _ _ _ _ _ y => decide (y.toNat < 6)
  | .vfma _ _ _ _ _ y => decide (y.toNat < 6)
  | .vmin _ _ _ _ _ y => decide (y.toNat < 6)
  | .vmax _ _ _ _ _ y => decide (y.toNat < 6)
  | _ => true

/-- Step 5 of R227: the fields that must be zero for a value of another field (R281). -/
def Instr.rsvOk (i : Instr) : Bool :=
  match i with
  | .vcwb _ o h => decide (o = 1 ∨ h = 0)
  | .vcinv _ o h => decide (o = 1 ∨ h = 0)
  | _ => true

/-- Step 6 of R227: a register field beyond its use: a handle field of 16 to 31, h0 as a destination (R256, R257), a part
number beyond its range (R321, R323), a type of R326 above 5, a mode above 1 (R333). -/
def Instr.regOk (i : Instr) : Bool :=
  match i with
  | .hset d _ => decide (1 ≤ d.toNat) && decide (d.toNat < 16)
  | .hget _ a => decide (a.toNat < 16)
  | .hinfo _ a => decide (a.toNat < 16)
  | .hlen _ a => decide (a.toNat < 16)
  | .vcvtBf16F32 _ _ p _ => decide (p.toNat < 2)
  | .vcvtF32Bf16 _ _ p _ => decide (p.toNat < 2)
  | .vcvtF16F32 _ _ p _ => decide (p.toNat < 2)
  | .vcvtF32F16 _ _ p _ => decide (p.toNat < 2)
  | .vcvtE4m3F32 _ _ p _ => decide (p.toNat < 4)
  | .vcvtF32E4m3 _ _ p _ => decide (p.toNat < 4)
  | .vcvtE5m2F32 _ _ p _ => decide (p.toNat < 4)
  | .vcvtF32E5m2 _ _ p _ => decide (p.toNat < 4)
  | .vcvtBf16Cb4 _ _ p _ => decide (p.toNat < 4)
  | .vsum _ _ y _ => decide (y.toNat < 6)
  | .vmaxr _ _ y _ => decide (y.toNat < 6)
  | .lmode m => decide (m.toNat < 2)
  | _ => true

/-- A well-formed instruction: one whose word passes steps 1 to 6 of R227. -/
def Instr.wellFormed (i : Instr) : Bool := i.fnOk && i.rsvOk && i.regOk

end Sys2Proof
end

