-- ==== Sys2Proof/Decode.lean ====
section
/-! DEFINITION. The decoder of R213, R226 and R227, total on every word, and the encoder written from the same tables. -/

namespace Sys2Proof

/-- The `n` bits of a word from bit `lo`. -/
def fld (w : IWord) (lo n : Nat) : BitVec n := BitVec.ofNat n (w.toNat / 2 ^ lo)

/-- The same field as a number. -/
def fldN (w : IWord) (lo n : Nat) : Nat := w.toNat / 2 ^ lo % 2 ^ n

/-- `some i` when a condition on the fixed bits holds. -/
def onlyIf (c : Bool) (i : Instr) : Option Instr := if c then some i else none

/-- Major 0x01 (R226). -/
def decode01 (w : IWord) : Option Instr :=
  let f := fldN w 0 11
  if f = 0 then some (.add (fld w 21 5) (fld w 16 5) (fld w 11 5)) else
  if f = 1 then some (.sub (fld w 21 5) (fld w 16 5) (fld w 11 5)) else
  if f = 2 then some (.and (fld w 21 5) (fld w 16 5) (fld w 11 5)) else
  if f = 3 then some (.or (fld w 21 5) (fld w 16 5) (fld w 11 5)) else
  if f = 4 then some (.xor (fld w 21 5) (fld w 16 5) (fld w 11 5)) else
  if f = 5 then some (.andn (fld w 21 5) (fld w 16 5) (fld w 11 5)) else
  if f = 6 then some (.sll (fld w 21 5) (fld w 16 5) (fld w 11 5)) else
  if f = 7 then some (.srl (fld w 21 5) (fld w 16 5) (fld w 11 5)) else
  if f = 8 then some (.sra (fld w 21 5) (fld w 16 5) (fld w 11 5)) else
  if f = 9 then some (.rol (fld w 21 5) (fld w 16 5) (fld w 11 5)) else
  if f = 10 then some (.mul (fld w 21 5) (fld w 16 5) (fld w 11 5)) else
  if f = 11 then some (.mulh (fld w 21 5) (fld w 16 5) (fld w 11 5)) else
  if f = 12 then some (.mulhu (fld w 21 5) (fld w 16 5) (fld w 11 5)) else
  if f = 13 then some (.div (fld w 21 5) (fld w 16 5) (fld w 11 5)) else
  if f = 14 then some (.divu (fld w 21 5) (fld w 16 5) (fld w 11 5)) else
  if f = 15 then some (.rem (fld w 21 5) (fld w 16 5) (fld w 11 5)) else
  if f = 16 then some (.remu (fld w 21 5) (fld w 16 5) (fld w 11 5)) else
  if f = 17 then some (.min (fld w 21 5) (fld w 16 5) (fld w 11 5)) else
  if f = 18 then some (.max (fld w 21 5) (fld w 16 5) (fld w 11 5)) else
  if f = 19 then some (.minu (fld w 21 5) (fld w 16 5) (fld w 11 5)) else
  if f = 20 then some (.maxu (fld w 21 5) (fld w 16 5) (fld w 11 5)) else
  if f = 21 then some (.slt (fld w 21 5) (fld w 16 5) (fld w 11 5)) else
  if f = 22 then some (.sltu (fld w 21 5) (fld w 16 5) (fld w 11 5)) else
  if f = 23 then some (.seq (fld w 21 5) (fld w 16 5) (fld w 11 5)) else
  if f = 24 then onlyIf (fldN w 11 5 == 0) (.clz (fld w 21 5) (fld w 16 5)) else
  if f = 25 then onlyIf (fldN w 11 5 == 0) (.ctz (fld w 21 5) (fld w 16 5)) else
  if f = 26 then onlyIf (fldN w 11 5 == 0) (.popc (fld w 21 5) (fld w 16 5)) else
  if f = 27 then onlyIf (fldN w 11 5 == 0) (.brev (fld w 21 5) (fld w 16 5)) else
  if f = 28 then some (.bext (fld w 21 5) (fld w 16 5) (fld w 11 5)) else
  if f = 29 then some (.bdep (fld w 21 5) (fld w 16 5) (fld w 11 5)) else
  if f = 30 then some (.cmov (fld w 21 5) (fld w 16 5) (fld w 11 5)) else
  if f = 31 then some (.addw (fld w 21 5) (fld w 16 5) (fld w 11 5)) else
  none

/-- Major 0x02 (R226). -/
def decode02 (w : IWord) : Option Instr :=
  some (.addi (fld w 21 5) (fld w 16 5) (fld w 0 16))

/-- Major 0x03 (R226). -/
def decode03 (w : IWord) : Option Instr :=
  some (.andi (fld w 21 5) (fld w 16 5) (fld w 0 16))

/-- Major 0x04 (R226). -/
def decode04 (w : IWord) : Option Instr :=
  some (.ori (fld w 21 5) (fld w 16 5) (fld w 0 16))

/-- Major 0x05 (R226). -/
def decode05 (w : IWord) : Option Instr :=
  some (.xori (fld w 21 5) (fld w 16 5) (fld w 0 16))

/-- Major 0x06 (R226). -/
def decode06 (w : IWord) : Option Instr :=
  let f := fldN w 6 2
  if f = 0 then onlyIf (fldN w 8 8 == 0) (.slli (fld w 21 5) (fld w 16 5) (fld w 0 6)) else
  if f = 1 then onlyIf (fldN w 8 8 == 0) (.srli (fld w 21 5) (fld w 16 5) (fld w 0 6)) else
  if f = 2 then onlyIf (fldN w 8 8 == 0) (.srai (fld w 21 5) (fld w 16 5) (fld w 0 6)) else
  if f = 3 then onlyIf (fldN w 8 8 == 0) (.roli (fld w 21 5) (fld w 16 5) (fld w 0 6)) else
  none

/-- Major 0x07 (R226). -/
def decode07 (w : IWord) : Option Instr :=
  some (.slti (fld w 21 5) (fld w 16 5) (fld w 0 16))

/-- Major 0x08 (R226). -/
def decode08 (w : IWord) : Option Instr :=
  some (.sltiu (fld w 21 5) (fld w 16 5) (fld w 0 16))

/-- Major 0x09 (R226). -/
def decode09 (w : IWord) : Option Instr :=
  onlyIf (fldN w 16 5 == 0) (.lui (fld w 21 5) (fld w 0 16))

/-- Major 0x0A (R226). -/
def decode0A (w : IWord) : Option Instr :=
  onlyIf (fldN w 18 3 == 0) (.movk (fld w 21 5) (fld w 16 2) (fld w 0 16))

/-- Major 0x0B (R226). -/
def decode0B (w : IWord) : Option Instr :=
  let f := fldN w 0 11
  if f = 0 then some (.faddS (fld w 21 5) (fld w 16 5) (fld w 11 5)) else
  if f = 1 then some (.fsubS (fld w 21 5) (fld w 16 5) (fld w 11 5)) else
  if f = 2 then some (.fmulS (fld w 21 5) (fld w 16 5) (fld w 11 5)) else
  if f = 3 then some (.fdivS (fld w 21 5) (fld w 16 5) (fld w 11 5)) else
  if f = 4 then onlyIf (fldN w 11 5 == 0) (.fsqrtS (fld w 21 5) (fld w 16 5)) else
  if f = 5 then some (.fminS (fld w 21 5) (fld w 16 5) (fld w 11 5)) else
  if f = 6 then some (.fmaxS (fld w 21 5) (fld w 16 5) (fld w 11 5)) else
  if f = 7 then some (.fmaddS (fld w 21 5) (fld w 16 5) (fld w 11 5)) else
  if f = 8 then some (.feqS (fld w 21 5) (fld w 16 5) (fld w 11 5)) else
  if f = 9 then some (.fltS (fld w 21 5) (fld w 16 5) (fld w 11 5)) else
  if f = 10 then some (.fleS (fld w 21 5) (fld w 16 5) (fld w 11 5)) else
  if f = 11 then some (.faddD (fld w 21 5) (fld w 16 5) (fld w 11 5)) else
  if f = 12 then some (.fsubD (fld w 21 5) (fld w 16 5) (fld w 11 5)) else
  if f = 13 then some (.fmulD (fld w 21 5) (fld w 16 5) (fld w 11 5)) else
  if f = 14 then some (.fdivD (fld w 21 5) (fld w 16 5) (fld w 11 5)) else
  if f = 15 then onlyIf (fldN w 11 5 == 0) (.fsqrtD (fld w 21 5) (fld w 16 5)) else
  if f = 16 then some (.fminD (fld w 21 5) (fld w 16 5) (fld w 11 5)) else
  if f = 17 then some (.fmaxD (fld w 21 5) (fld w 16 5) (fld w 11 5)) else
  if f = 18 then some (.fmaddD (fld w 21 5) (fld w 16 5) (fld w 11 5)) else
  if f = 19 then some (.feqD (fld w 21 5) (fld w 16 5) (fld w 11 5)) else
  if f = 20 then some (.fltD (fld w 21 5) (fld w 16 5) (fld w 11 5)) else
  if f = 21 then some (.fleD (fld w 21 5) (fld w 16 5) (fld w 11 5)) else
  if f = 22 then onlyIf (fldN w 11 5 == 0) (.fcvtSD (fld w 21 5) (fld w 16 5)) else
  if f = 23 then onlyIf (fldN w 11 5 == 0) (.fcvtDS (fld w 21 5) (fld w 16 5)) else
  if f = 24 then onlyIf (fldN w 11 5 == 0) (.fcvtSW (fld w 21 5) (fld w 16 5)) else
  if f = 25 then onlyIf (fldN w 11 5 == 0) (.fcvtWS (fld w 21 5) (fld w 16 5)) else
  if f = 26 then onlyIf (fldN w 11 5 == 0) (.fcvtDL (fld w 21 5) (fld w 16 5)) else
  if f = 27 then onlyIf (fldN w 11 5 == 0) (.fcvtLD (fld w 21 5) (fld w 16 5)) else
  if f = 28 then onlyIf (fldN w 11 5 == 0) (.fcvtBfS (fld w 21 5) (fld w 16 5)) else
  if f = 29 then onlyIf (fldN w 11 5 == 0) (.fcvtSBf (fld w 21 5) (fld w 16 5)) else
  none

/-- Major 0x0C (R226). -/
def decode0C (w : IWord) : Option Instr :=
  let f := fldN w 9 3
  if f = 0 then some (.ldb (fld w 21 5) (fld w 16 5) (fld w 12 4) (fld w 0 9)) else
  if f = 1 then some (.ldbu (fld w 21 5) (fld w 16 5) (fld w 12 4) (fld w 0 9)) else
  if f = 2 then some (.ldh (fld w 21 5) (fld w 16 5) (fld w 12 4) (fld w 0 9)) else
  if f = 3 then some (.ldhu (fld w 21 5) (fld w 16 5) (fld w 12 4) (fld w 0 9)) else
  if f = 4 then some (.ldw (fld w 21 5) (fld w 16 5) (fld w 12 4) (fld w 0 9)) else
  if f = 5 then some (.ldwu (fld w 21 5) (fld w 16 5) (fld w 12 4) (fld w 0 9)) else
  if f = 6 then some (.ldd (fld w 21 5) (fld w 16 5) (fld w 12 4) (fld w 0 9)) else
  none

/-- Major 0x0D (R226). -/
def decode0D (w : IWord) : Option Instr :=
  let f := fldN w 9 3
  if f = 0 then some (.stb (fld w 21 5) (fld w 16 5) (fld w 12 4) (fld w 0 9)) else
  if f = 1 then some (.sth (fld w 21 5) (fld w 16 5) (fld w 12 4) (fld w 0 9)) else
  if f = 2 then some (.stw (fld w 21 5) (fld w 16 5) (fld w 12 4) (fld w 0 9)) else
  if f = 3 then some (.std (fld w 21 5) (fld w 16 5) (fld w 12 4) (fld w 0 9)) else
  if f = 4 then some (.stn (fld w 21 5) (fld w 16 5) (fld w 12 4) (fld w 0 9)) else
  none

/-- Major 0x0E (R226). -/
def decode0E (w : IWord) : Option Instr :=
  let f := fldN w 0 5
  if f = 0 then onlyIf (fldN w 5 11 == 0) (.hset (fld w 21 5) (fld w 16 5)) else
  if f = 1 then onlyIf (fldN w 5 11 == 0) (.hget (fld w 21 5) (fld w 16 5)) else
  if f = 2 then onlyIf (fldN w 5 11 == 0) (.hinfo (fld w 21 5) (fld w 16 5)) else
  if f = 3 then onlyIf (fldN w 5 11 == 0) (.hlen (fld w 21 5) (fld w 16 5)) else
  if f = 4 then onlyIf (fldN w 9 2 == 0) (.hsub (fld w 21 5) (fld w 16 5) (fld w 11 5) (fld w 5 4)) else
  if f = 5 then onlyIf (fldN w 5 6 == 0) (.oalloc (fld w 21 5) (fld w 16 5) (fld w 11 5)) else
  if f = 6 then onlyIf (fldN w 5 11 == 0 && fldN w 21 5 == 0) (.ofree (fld w 16 5)) else
  none

/-- Major 0x0F (R226). -/
def decode0F (w : IWord) : Option Instr :=
  let f := fldN w 0 5
  if f = 0 then some (.amoSwap (fld w 21 5) (fld w 16 5) (fld w 11 5) (fld w 7 4) (fld w 5 2) (fld w 0 1)) else
  if f = 1 then some (.amoSwap (fld w 21 5) (fld w 16 5) (fld w 11 5) (fld w 7 4) (fld w 5 2) (fld w 0 1)) else
  if f = 2 then some (.amoCas (fld w 21 5) (fld w 16 5) (fld w 11 5) (fld w 7 4) (fld w 5 2) (fld w 0 1)) else
  if f = 3 then some (.amoCas (fld w 21 5) (fld w 16 5) (fld w 11 5) (fld w 7 4) (fld w 5 2) (fld w 0 1)) else
  if f = 4 then some (.amoAdd (fld w 21 5) (fld w 16 5) (fld w 11 5) (fld w 7 4) (fld w 5 2) (fld w 0 1)) else
  if f = 5 then some (.amoAdd (fld w 21 5) (fld w 16 5) (fld w 11 5) (fld w 7 4) (fld w 5 2) (fld w 0 1)) else
  if f = 6 then some (.amoAnd (fld w 21 5) (fld w 16 5) (fld w 11 5) (fld w 7 4) (fld w 5 2) (fld w 0 1)) else
  if f = 7 then some (.amoAnd (fld w 21 5) (fld w 16 5) (fld w 11 5) (fld w 7 4) (fld w 5 2) (fld w 0 1)) else
  if f = 8 then some (.amoOr (fld w 21 5) (fld w 16 5) (fld w 11 5) (fld w 7 4) (fld w 5 2) (fld w 0 1)) else
  if f = 9 then some (.amoOr (fld w 21 5) (fld w 16 5) (fld w 11 5) (fld w 7 4) (fld w 5 2) (fld w 0 1)) else
  if f = 10 then some (.amoXor (fld w 21 5) (fld w 16 5) (fld w 11 5) (fld w 7 4) (fld w 5 2) (fld w 0 1)) else
  if f = 11 then some (.amoXor (fld w 21 5) (fld w 16 5) (fld w 11 5) (fld w 7 4) (fld w 5 2) (fld w 0 1)) else
  if f = 12 then some (.amoMin (fld w 21 5) (fld w 16 5) (fld w 11 5) (fld w 7 4) (fld w 5 2) (fld w 0 1)) else
  if f = 13 then some (.amoMin (fld w 21 5) (fld w 16 5) (fld w 11 5) (fld w 7 4) (fld w 5 2) (fld w 0 1)) else
  if f = 14 then some (.amoMax (fld w 21 5) (fld w 16 5) (fld w 11 5) (fld w 7 4) (fld w 5 2) (fld w 0 1)) else
  if f = 15 then some (.amoMax (fld w 21 5) (fld w 16 5) (fld w 11 5) (fld w 7 4) (fld w 5 2) (fld w 0 1)) else
  if f = 16 then some (.amoMinu (fld w 21 5) (fld w 16 5) (fld w 11 5) (fld w 7 4) (fld w 5 2) (fld w 0 1)) else
  if f = 17 then some (.amoMinu (fld w 21 5) (fld w 16 5) (fld w 11 5) (fld w 7 4) (fld w 5 2) (fld w 0 1)) else
  if f = 18 then some (.amoMaxu (fld w 21 5) (fld w 16 5) (fld w 11 5) (fld w 7 4) (fld w 5 2) (fld w 0 1)) else
  if f = 19 then some (.amoMaxu (fld w 21 5) (fld w 16 5) (fld w 11 5) (fld w 7 4) (fld w 5 2) (fld w 0 1)) else
  if f = 20 then some (.amoFaddS (fld w 21 5) (fld w 16 5) (fld w 11 5) (fld w 7 4) (fld w 5 2)) else
  none

/-- Major 0x10 (R226). -/
def decode10 (w : IWord) : Option Instr :=
  let f := fldN w 0 5
  if f = 0 then onlyIf (fldN w 5 1 == 0 && fldN w 21 5 == 0) (.redAdd (fld w 16 5) (fld w 11 5) (fld w 7 4) (fld w 6 1) (fld w 0 1)) else
  if f = 1 then onlyIf (fldN w 5 1 == 0 && fldN w 21 5 == 0) (.redAdd (fld w 16 5) (fld w 11 5) (fld w 7 4) (fld w 6 1) (fld w 0 1)) else
  if f = 2 then onlyIf (fldN w 5 1 == 0 && fldN w 21 5 == 0) (.redAnd (fld w 16 5) (fld w 11 5) (fld w 7 4) (fld w 6 1) (fld w 0 1)) else
  if f = 3 then onlyIf (fldN w 5 1 == 0 && fldN w 21 5 == 0) (.redAnd (fld w 16 5) (fld w 11 5) (fld w 7 4) (fld w 6 1) (fld w 0 1)) else
  if f = 4 then onlyIf (fldN w 5 1 == 0 && fldN w 21 5 == 0) (.redOr (fld w 16 5) (fld w 11 5) (fld w 7 4) (fld w 6 1) (fld w 0 1)) else
  if f = 5 then onlyIf (fldN w 5 1 == 0 && fldN w 21 5 == 0) (.redOr (fld w 16 5) (fld w 11 5) (fld w 7 4) (fld w 6 1) (fld w 0 1)) else
  if f = 6 then onlyIf (fldN w 5 1 == 0 && fldN w 21 5 == 0) (.redXor (fld w 16 5) (fld w 11 5) (fld w 7 4) (fld w 6 1) (fld w 0 1)) else
  if f = 7 then onlyIf (fldN w 5 1 == 0 && fldN w 21 5 == 0) (.redXor (fld w 16 5) (fld w 11 5) (fld w 7 4) (fld w 6 1) (fld w 0 1)) else
  if f = 8 then onlyIf (fldN w 5 1 == 0 && fldN w 21 5 == 0) (.redMin (fld w 16 5) (fld w 11 5) (fld w 7 4) (fld w 6 1) (fld w 0 1)) else
  if f = 9 then onlyIf (fldN w 5 1 == 0 && fldN w 21 5 == 0) (.redMin (fld w 16 5) (fld w 11 5) (fld w 7 4) (fld w 6 1) (fld w 0 1)) else
  if f = 10 then onlyIf (fldN w 5 1 == 0 && fldN w 21 5 == 0) (.redMax (fld w 16 5) (fld w 11 5) (fld w 7 4) (fld w 6 1) (fld w 0 1)) else
  if f = 11 then onlyIf (fldN w 5 1 == 0 && fldN w 21 5 == 0) (.redMax (fld w 16 5) (fld w 11 5) (fld w 7 4) (fld w 6 1) (fld w 0 1)) else
  if f = 12 then onlyIf (fldN w 5 1 == 0 && fldN w 21 5 == 0) (.redMinu (fld w 16 5) (fld w 11 5) (fld w 7 4) (fld w 6 1) (fld w 0 1)) else
  if f = 13 then onlyIf (fldN w 5 1 == 0 && fldN w 21 5 == 0) (.redMinu (fld w 16 5) (fld w 11 5) (fld w 7 4) (fld w 6 1) (fld w 0 1)) else
  if f = 14 then onlyIf (fldN w 5 1 == 0 && fldN w 21 5 == 0) (.redMaxu (fld w 16 5) (fld w 11 5) (fld w 7 4) (fld w 6 1) (fld w 0 1)) else
  if f = 15 then onlyIf (fldN w 5 1 == 0 && fldN w 21 5 == 0) (.redMaxu (fld w 16 5) (fld w 11 5) (fld w 7 4) (fld w 6 1) (fld w 0 1)) else
  if f = 16 then onlyIf (fldN w 5 1 == 0 && fldN w 21 5 == 0) (.redFaddS (fld w 16 5) (fld w 11 5) (fld w 7 4) (fld w 6 1)) else
  if f = 17 then onlyIf (fldN w 5 1 == 0 && fldN w 21 5 == 0) (.redFmaxS (fld w 16 5) (fld w 11 5) (fld w 7 4) (fld w 6 1)) else
  none

/-- Major 0x11 (R226). -/
def decode11 (w : IWord) : Option Instr :=
  let f := fldN w 25 1
  if f = 0 then onlyIf (fldN w 16 9 == 0) (.rgn (fld w 0 16)) else
  if f = 1 then onlyIf (fldN w 16 9 == 0) (.rgnx (fld w 0 16)) else
  none

/-- Major 0x12 (R226). -/
def decode12 (w : IWord) : Option Instr :=
  some (.beq (fld w 21 5) (fld w 16 5) (fld w 0 16))

/-- Major 0x13 (R226). -/
def decode13 (w : IWord) : Option Instr :=
  some (.bne (fld w 21 5) (fld w 16 5) (fld w 0 16))

/-- Major 0x14 (R226). -/
def decode14 (w : IWord) : Option Instr :=
  some (.blt (fld w 21 5) (fld w 16 5) (fld w 0 16))

/-- Major 0x15 (R226). -/
def decode15 (w : IWord) : Option Instr :=
  some (.bge (fld w 21 5) (fld w 16 5) (fld w 0 16))

/-- Major 0x16 (R226). -/
def decode16 (w : IWord) : Option Instr :=
  some (.bltu (fld w 21 5) (fld w 16 5) (fld w 0 16))

/-- Major 0x17 (R226). -/
def decode17 (w : IWord) : Option Instr :=
  some (.bgeu (fld w 21 5) (fld w 16 5) (fld w 0 16))

/-- Major 0x18 (R226). -/
def decode18 (w : IWord) : Option Instr :=
  some (.bbs (fld w 21 5) (fld w 15 6) (fld w 0 15))

/-- Major 0x19 (R226). -/
def decode19 (w : IWord) : Option Instr :=
  some (.bbc (fld w 21 5) (fld w 15 6) (fld w 0 15))

/-- Major 0x1A (R226). -/
def decode1A (w : IWord) : Option Instr :=
  some (.j (fld w 0 26))

/-- Major 0x1B (R226). -/
def decode1B (w : IWord) : Option Instr :=
  some (.jal (fld w 0 26))

/-- Major 0x1C (R226). -/
def decode1C (w : IWord) : Option Instr :=
  let f := fldN w 0 11
  if f = 0 then onlyIf (fldN w 11 5 == 0 && fldN w 21 5 == 0) (.jr (fld w 16 5)) else
  if f = 1 then onlyIf (fldN w 11 5 == 0) (.jalr (fld w 21 5) (fld w 16 5)) else
  none

/-- Major 0x1D (R226). -/
def decode1D (w : IWord) : Option Instr :=
  let f := fldN w 0 5
  if f = 0 then onlyIf (fldN w 5 11 == 0 && fldN w 21 5 == 0) (.fence (fld w 16 5)) else
  if f = 1 then onlyIf (fldN w 5 21 == 0) (.rfence) else
  if f = 2 then onlyIf (fldN w 5 11 == 0) (.wait (fld w 21 5) (fld w 16 5)) else
  if f = 3 then onlyIf (fldN w 5 6 == 0 && fldN w 21 5 == 0) (.evsig (fld w 16 5) (fld w 11 5)) else
  if f = 4 then (if fldN w 5 6 == 0 then some (.barEvent (fld w 21 5) (fld w 16 5) (fld w 11 5)) else if fldN w 9 2 == 1 && fldN w 16 5 == 0 then some (.barObject (fld w 21 5) (fld w 11 5) (fld w 5 4)) else none) else
  if f = 5 then onlyIf (fldN w 5 11 == 0 && fldN w 21 5 == 0) (.lock (fld w 16 5)) else
  if f = 6 then onlyIf (fldN w 5 11 == 0 && fldN w 21 5 == 0) (.unlock (fld w 16 5)) else
  if f = 7 then onlyIf (fldN w 5 21 == 0) (.pause) else
  none

/-- Major 0x1E (R226). -/
def decode1E (w : IWord) : Option Instr :=
  let f := fldN w 0 5
  if f = 0 then onlyIf (fldN w 5 6 == 0 && fldN w 21 5 == 0) (.vcdef (fld w 16 5) (fld w 11 5)) else
  if f = 1 then onlyIf (fldN w 5 11 == 0 && fldN w 21 5 == 0) (.vcsize (fld w 16 5)) else
  if f = 2 then onlyIf (fldN w 5 11 == 0 && fldN w 21 5 == 0) (.vcpar (fld w 16 5)) else
  if f = 3 then onlyIf (fldN w 9 7 == 0 && fldN w 21 5 == 0) (.vcbind (fld w 16 5) (fld w 5 4)) else
  if f = 4 then onlyIf (fldN w 9 7 == 0 && fldN w 21 5 == 0) (.vcunb (fld w 16 5) (fld w 5 4)) else
  if f = 5 then onlyIf (fldN w 10 6 == 0 && fldN w 21 5 == 0) (.vcwb (fld w 16 5) (fld w 9 1) (fld w 5 4)) else
  if f = 6 then onlyIf (fldN w 10 6 == 0 && fldN w 21 5 == 0) (.vcinv (fld w 16 5) (fld w 9 1) (fld w 5 4)) else
  if f = 7 then onlyIf (fldN w 5 11 == 0) (.vcq (fld w 21 5) (fld w 16 5)) else
  none

/-- Major 0x1F (R226). -/
def decode1F (w : IWord) : Option Instr :=
  let f := fldN w 0 5
  if f = 0 then onlyIf (fldN w 9 2 == 0 && fldN w 21 5 == 0) (.rpt (fld w 16 5) (fld w 11 5) (fld w 5 4)) else
  if f = 1 then onlyIf (fldN w 5 6 == 0) (.start (fld w 21 5) (fld w 16 5) (fld w 11 5)) else
  if f = 2 then onlyIf (fldN w 5 21 == 0) (.hexit) else
  if f = 3 then onlyIf (fldN w 5 21 == 0) (.yield) else
  none

/-- Major 0x20 (R226). -/
def decode20 (w : IWord) : Option Instr :=
  let f := fldN w 0 5
  if f = 0 then onlyIf (fldN w 5 11 == 0) (.cp (fld w 21 5) (fld w 16 5)) else
  if f = 1 then onlyIf (fldN w 5 11 == 0) (.mcast (fld w 21 5) (fld w 16 5)) else
  if f = 2 then onlyIf (fldN w 5 11 == 0) (.jwait (fld w 21 5) (fld w 16 5)) else
  if f = 3 then onlyIf (fldN w 5 11 == 0) (.jpoll (fld w 21 5) (fld w 16 5)) else
  if f = 4 then onlyIf (fldN w 9 7 == 0) (.tmig (fld w 21 5) (fld w 16 5) (fld w 5 4)) else
  if f = 5 then onlyIf (fldN w 5 11 == 0) (.cpjoin (fld w 21 5) (fld w 16 5)) else
  none

/-- Major 0x21 (R226). -/
def decode21 (w : IWord) : Option Instr :=
  let f := fldN w 0 5
  if f = 0 then onlyIf (fldN w 9 7 == 0) (.qpost (fld w 21 5) (fld w 16 5) (fld w 5 4)) else
  if f = 1 then onlyIf (fldN w 9 7 == 0 && fldN w 21 5 == 0) (.send (fld w 16 5) (fld w 5 4)) else
  if f = 2 then onlyIf (fldN w 9 7 == 0) (.recv (fld w 21 5) (fld w 16 5) (fld w 5 4)) else
  if f = 3 then onlyIf (fldN w 9 7 == 0) (.qtry (fld w 21 5) (fld w 16 5) (fld w 5 4)) else
  if f = 4 then onlyIf (fldN w 9 2 == 0) (.rdqAdd (fld w 21 5) (fld w 16 5) (fld w 11 5) (fld w 5 4)) else
  if f = 5 then onlyIf (fldN w 9 2 == 0) (.rdqMax (fld w 21 5) (fld w 16 5) (fld w 11 5) (fld w 5 4)) else
  none

/-- Major 0x22 (R226). -/
def decode22 (w : IWord) : Option Instr :=
  let f := fldN w 0 5
  if f = 0 then onlyIf (fldN w 5 21 == 0) (.sstep) else
  if f = 1 then onlyIf (fldN w 9 12 == 0) (.snap (fld w 21 5) (fld w 5 4)) else
  if f = 2 then onlyIf (fldN w 11 10 == 0) (.snapst (fld w 21 5) (fld w 9 2) (fld w 5 4)) else
  if f = 3 then onlyIf (fldN w 9 7 == 0 && fldN w 21 5 == 0) (.rollbk (fld w 16 5) (fld w 5 4)) else
  none

/-- Major 0x23 (R226). -/
def decode23 (w : IWord) : Option Instr :=
  let f := fldN w 0 5
  if f = 0 then onlyIf (fldN w 5 11 == 0) (.trap (fld w 21 5) (fld w 16 5)) else
  if f = 1 then onlyIf (fldN w 5 21 == 0) (.eret) else
  if f = 2 then onlyIf (fldN w 16 5 == 0) (.csrr (fld w 21 5) (fld w 5 11)) else
  if f = 3 then onlyIf (fldN w 21 5 == 0) (.csrw (fld w 16 5) (fld w 5 11)) else
  if f = 4 then onlyIf (fldN w 21 5 == 0) (.csrs (fld w 16 5) (fld w 5 11)) else
  if f = 5 then onlyIf (fldN w 5 11 == 0 && fldN w 21 5 == 0) (.halt (fld w 16 5)) else
  if f = 6 then onlyIf (fldN w 11 15 == 0) (.brk (fld w 5 6)) else
  if f = 7 then onlyIf (fldN w 5 11 == 0) (.seal (fld w 21 5) (fld w 16 5)) else
  if f = 8 then onlyIf (fldN w 5 21 == 0) (.nop) else
  none

/-- Major 0x28 (R226). -/
def decode28 (w : IWord) : Option Instr :=
  let f := fldN w 0 7
  if f = 0 then onlyIf (fldN w 17 2 == 0) (.tld (fld w 23 3) (fld w 19 4) (fld w 12 5) (fld w 7 5)) else
  if f = 1 then onlyIf (fldN w 17 2 == 0) (.tst (fld w 23 3) (fld w 19 4) (fld w 12 5) (fld w 7 5)) else
  if f = 2 then onlyIf (fldN w 7 5 == 0 && fldN w 17 6 == 0) (.tzero (fld w 23 3) (fld w 12 5)) else
  if f = 3 then onlyIf (fldN w 17 6 == 0) (.tmov (fld w 23 3) (fld w 12 5) (fld w 7 5)) else
  if f = 4 then onlyIf (fldN w 17 6 == 0) (.ttr (fld w 23 3) (fld w 12 5) (fld w 7 5)) else
  if f = 5 then onlyIf (fldN w 7 5 == 0 && fldN w 17 6 == 0) (.tbc (fld w 23 3) (fld w 12 5)) else
  if f = 6 then onlyIf (fldN w 17 6 == 0) (.tgat (fld w 23 3) (fld w 12 5) (fld w 7 5)) else
  none

/-- Major 0x29 (R226). -/
def decode29 (w : IWord) : Option Instr :=
  let f := fldN w 0 7
  if f = 0 then some (.vadd (fld w 23 3) (fld w 20 3) (fld w 17 3) (fld w 12 5) (fld w 7 5) (fld w 0 3)) else
  if f = 1 then some (.vadd (fld w 23 3) (fld w 20 3) (fld w 17 3) (fld w 12 5) (fld w 7 5) (fld w 0 3)) else
  if f = 2 then some (.vadd (fld w 23 3) (fld w 20 3) (fld w 17 3) (fld w 12 5) (fld w 7 5) (fld w 0 3)) else
  if f = 3 then some (.vadd (fld w 23 3) (fld w 20 3) (fld w 17 3) (fld w 12 5) (fld w 7 5) (fld w 0 3)) else
  if f = 4 then some (.vadd (fld w 23 3) (fld w 20 3) (fld w 17 3) (fld w 12 5) (fld w 7 5) (fld w 0 3)) else
  if f = 5 then some (.vadd (fld w 23 3) (fld w 20 3) (fld w 17 3) (fld w 12 5) (fld w 7 5) (fld w 0 3)) else
  if f = 6 then some (.vadd (fld w 23 3) (fld w 20 3) (fld w 17 3) (fld w 12 5) (fld w 7 5) (fld w 0 3)) else
  if f = 7 then some (.vadd (fld w 23 3) (fld w 20 3) (fld w 17 3) (fld w 12 5) (fld w 7 5) (fld w 0 3)) else
  if f = 8 then some (.vsub (fld w 23 3) (fld w 20 3) (fld w 17 3) (fld w 12 5) (fld w 7 5) (fld w 0 3)) else
  if f = 9 then some (.vsub (fld w 23 3) (fld w 20 3) (fld w 17 3) (fld w 12 5) (fld w 7 5) (fld w 0 3)) else
  if f = 10 then some (.vsub (fld w 23 3) (fld w 20 3) (fld w 17 3) (fld w 12 5) (fld w 7 5) (fld w 0 3)) else
  if f = 11 then some (.vsub (fld w 23 3) (fld w 20 3) (fld w 17 3) (fld w 12 5) (fld w 7 5) (fld w 0 3)) else
  if f = 12 then some (.vsub (fld w 23 3) (fld w 20 3) (fld w 17 3) (fld w 12 5) (fld w 7 5) (fld w 0 3)) else
  if f = 13 then some (.vsub (fld w 23 3) (fld w 20 3) (fld w 17 3) (fld w 12 5) (fld w 7 5) (fld w 0 3)) else
  if f = 14 then some (.vsub (fld w 23 3) (fld w 20 3) (fld w 17 3) (fld w 12 5) (fld w 7 5) (fld w 0 3)) else
  if f = 15 then some (.vsub (fld w 23 3) (fld w 20 3) (fld w 17 3) (fld w 12 5) (fld w 7 5) (fld w 0 3)) else
  if f = 16 then some (.vmul (fld w 23 3) (fld w 20 3) (fld w 17 3) (fld w 12 5) (fld w 7 5) (fld w 0 3)) else
  if f = 17 then some (.vmul (fld w 23 3) (fld w 20 3) (fld w 17 3) (fld w 12 5) (fld w 7 5) (fld w 0 3)) else
  if f = 18 then some (.vmul (fld w 23 3) (fld w 20 3) (fld w 17 3) (fld w 12 5) (fld w 7 5) (fld w 0 3)) else
  if f = 19 then some (.vmul (fld w 23 3) (fld w 20 3) (fld w 17 3) (fld w 12 5) (fld w 7 5) (fld w 0 3)) else
  if f = 20 then some (.vmul (fld w 23 3) (fld w 20 3) (fld w 17 3) (fld w 12 5) (fld w 7 5) (fld w 0 3)) else
  if f = 21 then some (.vmul (fld w 23 3) (fld w 20 3) (fld w 17 3) (fld w 12 5) (fld w 7 5) (fld w 0 3)) else
  if f = 22 then some (.vmul (fld w 23 3) (fld w 20 3) (fld w 17 3) (fld w 12 5) (fld w 7 5) (fld w 0 3)) else
  if f = 23 then some (.vmul (fld w 23 3) (fld w 20 3) (fld w 17 3) (fld w 12 5) (fld w 7 5) (fld w 0 3)) else
  if f = 24 then some (.vfma (fld w 23 3) (fld w 20 3) (fld w 17 3) (fld w 12 5) (fld w 7 5) (fld w 0 3)) else
  if f = 25 then some (.vfma (fld w 23 3) (fld w 20 3) (fld w 17 3) (fld w 12 5) (fld w 7 5) (fld w 0 3)) else
  if f = 26 then some (.vfma (fld w 23 3) (fld w 20 3) (fld w 17 3) (fld w 12 5) (fld w 7 5) (fld w 0 3)) else
  if f = 27 then some (.vfma (fld w 23 3) (fld w 20 3) (fld w 17 3) (fld w 12 5) (fld w 7 5) (fld w 0 3)) else
  if f = 28 then some (.vfma (fld w 23 3) (fld w 20 3) (fld w 17 3) (fld w 12 5) (fld w 7 5) (fld w 0 3)) else
  if f = 29 then some (.vfma (fld w 23 3) (fld w 20 3) (fld w 17 3) (fld w 12 5) (fld w 7 5) (fld w 0 3)) else
  if f = 30 then some (.vfma (fld w 23 3) (fld w 20 3) (fld w 17 3) (fld w 12 5) (fld w 7 5) (fld w 0 3)) else
  if f = 31 then some (.vfma (fld w 23 3) (fld w 20 3) (fld w 17 3) (fld w 12 5) (fld w 7 5) (fld w 0 3)) else
  if f = 32 then some (.vmin (fld w 23 3) (fld w 20 3) (fld w 17 3) (fld w 12 5) (fld w 7 5) (fld w 0 3)) else
  if f = 33 then some (.vmin (fld w 23 3) (fld w 20 3) (fld w 17 3) (fld w 12 5) (fld w 7 5) (fld w 0 3)) else
  if f = 34 then some (.vmin (fld w 23 3) (fld w 20 3) (fld w 17 3) (fld w 12 5) (fld w 7 5) (fld w 0 3)) else
  if f = 35 then some (.vmin (fld w 23 3) (fld w 20 3) (fld w 17 3) (fld w 12 5) (fld w 7 5) (fld w 0 3)) else
  if f = 36 then some (.vmin (fld w 23 3) (fld w 20 3) (fld w 17 3) (fld w 12 5) (fld w 7 5) (fld w 0 3)) else
  if f = 37 then some (.vmin (fld w 23 3) (fld w 20 3) (fld w 17 3) (fld w 12 5) (fld w 7 5) (fld w 0 3)) else
  if f = 38 then some (.vmin (fld w 23 3) (fld w 20 3) (fld w 17 3) (fld w 12 5) (fld w 7 5) (fld w 0 3)) else
  if f = 39 then some (.vmin (fld w 23 3) (fld w 20 3) (fld w 17 3) (fld w 12 5) (fld w 7 5) (fld w 0 3)) else
  if f = 40 then some (.vmax (fld w 23 3) (fld w 20 3) (fld w 17 3) (fld w 12 5) (fld w 7 5) (fld w 0 3)) else
  if f = 41 then some (.vmax (fld w 23 3) (fld w 20 3) (fld w 17 3) (fld w 12 5) (fld w 7 5) (fld w 0 3)) else
  if f = 42 then some (.vmax (fld w 23 3) (fld w 20 3) (fld w 17 3) (fld w 12 5) (fld w 7 5) (fld w 0 3)) else
  if f = 43 then some (.vmax (fld w 23 3) (fld w 20 3) (fld w 17 3) (fld w 12 5) (fld w 7 5) (fld w 0 3)) else
  if f = 44 then some (.vmax (fld w 23 3) (fld w 20 3) (fld w 17 3) (fld w 12 5) (fld w 7 5) (fld w 0 3)) else
  if f = 45 then some (.vmax (fld w 23 3) (fld w 20 3) (fld w 17 3) (fld w 12 5) (fld w 7 5) (fld w 0 3)) else
  if f = 46 then some (.vmax (fld w 23 3) (fld w 20 3) (fld w 17 3) (fld w 12 5) (fld w 7 5) (fld w 0 3)) else
  if f = 47 then some (.vmax (fld w 23 3) (fld w 20 3) (fld w 17 3) (fld w 12 5) (fld w 7 5) (fld w 0 3)) else
  if f = 48 then some (.vand (fld w 23 3) (fld w 20 3) (fld w 17 3) (fld w 12 5) (fld w 7 5)) else
  if f = 49 then some (.vor (fld w 23 3) (fld w 20 3) (fld w 17 3) (fld w 12 5) (fld w 7 5)) else
  if f = 50 then some (.vxor (fld w 23 3) (fld w 20 3) (fld w 17 3) (fld w 12 5) (fld w 7 5)) else
  if f = 51 then some (.vshl (fld w 23 3) (fld w 20 3) (fld w 17 3) (fld w 12 5) (fld w 7 5)) else
  if f = 52 then some (.vshr (fld w 23 3) (fld w 20 3) (fld w 17 3) (fld w 12 5) (fld w 7 5)) else
  none

/-- Major 0x2A (R226). -/
def decode2A (w : IWord) : Option Instr :=
  let f := fldN w 0 7
  if f = 0 then onlyIf (fldN w 7 5 == 0 && fldN w 17 3 == 0) (.vexp2 (fld w 23 3) (fld w 20 3) (fld w 12 5)) else
  if f = 1 then onlyIf (fldN w 7 5 == 0 && fldN w 17 3 == 0) (.vrcp (fld w 23 3) (fld w 20 3) (fld w 12 5)) else
  if f = 2 then onlyIf (fldN w 7 5 == 0 && fldN w 17 3 == 0) (.vrsqrt (fld w 23 3) (fld w 20 3) (fld w 12 5)) else
  if f = 3 then onlyIf (fldN w 7 5 == 0 && fldN w 17 3 == 0) (.vlog2 (fld w 23 3) (fld w 20 3) (fld w 12 5)) else
  if f = 4 then onlyIf (fldN w 7 5 == 0 && fldN w 17 3 == 0) (.vtanh (fld w 23 3) (fld w 20 3) (fld w 12 5)) else
  if f = 5 then onlyIf (fldN w 7 5 == 0 && fldN w 17 3 == 0) (.vabsF32 (fld w 23 3) (fld w 20 3) (fld w 12 5)) else
  if f = 6 then onlyIf (fldN w 7 5 == 0 && fldN w 17 3 == 0) (.vabsBf16 (fld w 23 3) (fld w 20 3) (fld w 12 5)) else
  if f = 7 then onlyIf (fldN w 7 5 == 0 && fldN w 17 3 == 0) (.vnegF32 (fld w 23 3) (fld w 20 3) (fld w 12 5)) else
  if f = 8 then onlyIf (fldN w 7 5 == 0 && fldN w 17 3 == 0) (.vnegBf16 (fld w 23 3) (fld w 20 3) (fld w 12 5)) else
  if f = 9 then onlyIf (fldN w 7 5 == 0) (.vcvtBf16F32 (fld w 23 3) (fld w 20 3) (fld w 17 3) (fld w 12 5)) else
  if f = 10 then onlyIf (fldN w 7 5 == 0) (.vcvtF32Bf16 (fld w 23 3) (fld w 20 3) (fld w 17 3) (fld w 12 5)) else
  if f = 11 then onlyIf (fldN w 7 5 == 0) (.vcvtF16F32 (fld w 23 3) (fld w 20 3) (fld w 17 3) (fld w 12 5)) else
  if f = 12 then onlyIf (fldN w 7 5 == 0) (.vcvtF32F16 (fld w 23 3) (fld w 20 3) (fld w 17 3) (fld w 12 5)) else
  if f = 13 then onlyIf (fldN w 7 5 == 0) (.vcvtE4m3F32 (fld w 23 3) (fld w 20 3) (fld w 17 3) (fld w 12 5)) else
  if f = 14 then onlyIf (fldN w 7 5 == 0) (.vcvtF32E4m3 (fld w 23 3) (fld w 20 3) (fld w 17 3) (fld w 12 5)) else
  if f = 15 then onlyIf (fldN w 7 5 == 0) (.vcvtE5m2F32 (fld w 23 3) (fld w 20 3) (fld w 17 3) (fld w 12 5)) else
  if f = 16 then onlyIf (fldN w 7 5 == 0) (.vcvtF32E5m2 (fld w 23 3) (fld w 20 3) (fld w 17 3) (fld w 12 5)) else
  if f = 17 then onlyIf (fldN w 7 5 == 0 && fldN w 17 3 == 0) (.vcvtI32F32 (fld w 23 3) (fld w 20 3) (fld w 12 5)) else
  if f = 18 then onlyIf (fldN w 7 5 == 0 && fldN w 17 3 == 0) (.vcvtF32I32 (fld w 23 3) (fld w 20 3) (fld w 12 5)) else
  if f = 19 then onlyIf (fldN w 7 5 == 0) (.vcvtBf16Cb4 (fld w 23 3) (fld w 20 3) (fld w 17 3) (fld w 12 5)) else
  none

/-- Major 0x2B (R226). -/
def decode2B (w : IWord) : Option Instr :=
  let f := fldN w 0 7
  if f = 0 then some (.vcmpEqF32 (fld w 23 3) (fld w 20 3) (fld w 17 3) (fld w 12 5) (fld w 7 5)) else
  if f = 1 then some (.vcmpEqBf16 (fld w 23 3) (fld w 20 3) (fld w 17 3) (fld w 12 5) (fld w 7 5)) else
  if f = 2 then some (.vcmpEqI32 (fld w 23 3) (fld w 20 3) (fld w 17 3) (fld w 12 5) (fld w 7 5)) else
  if f = 3 then some (.vcmpNeF32 (fld w 23 3) (fld w 20 3) (fld w 17 3) (fld w 12 5) (fld w 7 5)) else
  if f = 4 then some (.vcmpNeBf16 (fld w 23 3) (fld w 20 3) (fld w 17 3) (fld w 12 5) (fld w 7 5)) else
  if f = 5 then some (.vcmpNeI32 (fld w 23 3) (fld w 20 3) (fld w 17 3) (fld w 12 5) (fld w 7 5)) else
  if f = 6 then some (.vcmpLtF32 (fld w 23 3) (fld w 20 3) (fld w 17 3) (fld w 12 5) (fld w 7 5)) else
  if f = 7 then some (.vcmpLtBf16 (fld w 23 3) (fld w 20 3) (fld w 17 3) (fld w 12 5) (fld w 7 5)) else
  if f = 8 then some (.vcmpLtI32 (fld w 23 3) (fld w 20 3) (fld w 17 3) (fld w 12 5) (fld w 7 5)) else
  if f = 9 then some (.vcmpLeF32 (fld w 23 3) (fld w 20 3) (fld w 17 3) (fld w 12 5) (fld w 7 5)) else
  if f = 10 then some (.vcmpLeBf16 (fld w 23 3) (fld w 20 3) (fld w 17 3) (fld w 12 5) (fld w 7 5)) else
  if f = 11 then some (.vcmpLeI32 (fld w 23 3) (fld w 20 3) (fld w 17 3) (fld w 12 5) (fld w 7 5)) else
  if f = 12 then some (.vsel (fld w 23 3) (fld w 20 3) (fld w 17 3) (fld w 12 5) (fld w 7 5)) else
  if f = 13 then onlyIf (fldN w 7 5 == 0) (.vsum (fld w 23 3) (fld w 20 3) (fld w 17 3) (fld w 12 5)) else
  if f = 14 then onlyIf (fldN w 7 5 == 0) (.vmaxr (fld w 23 3) (fld w 20 3) (fld w 17 3) (fld w 12 5)) else
  if f = 15 then onlyIf (fldN w 7 5 == 0) (.vperm (fld w 23 3) (fld w 20 3) (fld w 17 3) (fld w 12 5)) else
  none

/-- Major 0x2C (R226). -/
def decode2C (w : IWord) : Option Instr :=
  let f := fldN w 0 7
  if f = 0 then some (.fuseF32 (fld w 23 3) (fld w 20 3) (fld w 17 3) (fld w 12 5) (fld w 7 5)) else
  if f = 1 then some (.fuseBf16 (fld w 23 3) (fld w 20 3) (fld w 17 3) (fld w 12 5) (fld w 7 5)) else
  none

/-- Major 0x2D (R226). -/
def decode2D (w : IWord) : Option Instr :=
  let f := fldN w 0 7
  if f = 0 then onlyIf (fldN w 17 3 == 0) (.mmaBf16 (fld w 23 3) (fld w 20 3) (fld w 12 5) (fld w 7 5)) else
  if f = 1 then onlyIf (fldN w 17 3 == 0) (.mmaF16 (fld w 23 3) (fld w 20 3) (fld w 12 5) (fld w 7 5)) else
  if f = 2 then onlyIf (fldN w 17 3 == 0) (.mmaE4m3 (fld w 23 3) (fld w 20 3) (fld w 12 5) (fld w 7 5)) else
  if f = 3 then onlyIf (fldN w 17 3 == 0) (.mmaE5m2 (fld w 23 3) (fld w 20 3) (fld w 12 5) (fld w 7 5)) else
  if f = 4 then onlyIf (fldN w 17 3 == 0) (.mmaCb4 (fld w 23 3) (fld w 20 3) (fld w 12 5) (fld w 7 5)) else
  if f = 5 then onlyIf (fldN w 12 8 == 0 && fldN w 23 3 == 0) (.wbld (fld w 20 3) (fld w 7 5)) else
  if f = 6 then onlyIf (fldN w 7 16 == 0) (.lmode (fld w 23 3)) else
  if f = 7 then onlyIf (fldN w 7 19 == 0) (.lfence) else
  none

/-- Major 0x2E (R226). -/
def decode2E (w : IWord) : Option Instr :=
  let f := fldN w 0 7
  if f = 0 then onlyIf (fldN w 12 11 == 0) (.ssm (fld w 23 3) (fld w 7 5)) else
  if f = 1 then onlyIf (fldN w 12 11 == 0) (.ssmC (fld w 23 3) (fld w 7 5)) else
  if f = 2 then onlyIf (fldN w 12 11 == 0) (.ssmR (fld w 23 3) (fld w 7 5)) else
  none

/-- The instruction a word encodes when its fixed bits are right (steps 1 to 5 of R227). -/
def decodeRaw (w : IWord) : Option Instr :=
  let m := fldN w 26 6
  if m = 0x01 then decode01 w else
  if m = 0x02 then decode02 w else
  if m = 0x03 then decode03 w else
  if m = 0x04 then decode04 w else
  if m = 0x05 then decode05 w else
  if m = 0x06 then decode06 w else
  if m = 0x07 then decode07 w else
  if m = 0x08 then decode08 w else
  if m = 0x09 then decode09 w else
  if m = 0x0A then decode0A w else
  if m = 0x0B then decode0B w else
  if m = 0x0C then decode0C w else
  if m = 0x0D then decode0D w else
  if m = 0x0E then decode0E w else
  if m = 0x0F then decode0F w else
  if m = 0x10 then decode10 w else
  if m = 0x11 then decode11 w else
  if m = 0x12 then decode12 w else
  if m = 0x13 then decode13 w else
  if m = 0x14 then decode14 w else
  if m = 0x15 then decode15 w else
  if m = 0x16 then decode16 w else
  if m = 0x17 then decode17 w else
  if m = 0x18 then decode18 w else
  if m = 0x19 then decode19 w else
  if m = 0x1A then decode1A w else
  if m = 0x1B then decode1B w else
  if m = 0x1C then decode1C w else
  if m = 0x1D then decode1D w else
  if m = 0x1E then decode1E w else
  if m = 0x1F then decode1F w else
  if m = 0x20 then decode20 w else
  if m = 0x21 then decode21 w else
  if m = 0x22 then decode22 w else
  if m = 0x23 then decode23 w else
  if m = 0x28 then decode28 w else
  if m = 0x29 then decode29 w else
  if m = 0x2A then decode2A w else
  if m = 0x2B then decode2B w else
  if m = 0x2C then decode2C w else
  if m = 0x2D then decode2D w else
  if m = 0x2E then decode2E w else
  none

/-- R227: the instruction of a word, or none when one of steps 1 to 6 refuses it. -/
def decode (w : IWord) : Option Instr :=
  match decodeRaw w with
  | some i => if i.wellFormed then some i else none
  | none => none

/-- A word with no field. -/
def enc0 (base : Nat) : IWord := BitVec.ofNat 32 base

/-- A word with one field, at its lowest bit. -/
def enc1 {i : Nat} (base : Nat) (a : BitVec i) (la : Nat) : IWord := BitVec.ofNat 32 (base + a.toNat * 2 ^ la)

/-- A word with two fields. -/
def enc2 {i j : Nat} (base : Nat) (a : BitVec i) (la : Nat) (b : BitVec j) (lb : Nat) : IWord :=
  BitVec.ofNat 32 (base + a.toNat * 2 ^ la + b.toNat * 2 ^ lb)

/-- A word with three fields. -/
def enc3 {i j k : Nat} (base : Nat) (a : BitVec i) (la : Nat) (b : BitVec j) (lb : Nat) (c : BitVec k) (lc : Nat) : IWord :=
  BitVec.ofNat 32 (base + a.toNat * 2 ^ la + b.toNat * 2 ^ lb + c.toNat * 2 ^ lc)

/-- A word with four fields. -/
def enc4 {i j k l : Nat} (base : Nat) (a : BitVec i) (la : Nat) (b : BitVec j) (lb : Nat) (c : BitVec k) (lc : Nat)
    (d : BitVec l) (ld : Nat) : IWord :=
  BitVec.ofNat 32 (base + a.toNat * 2 ^ la + b.toNat * 2 ^ lb + c.toNat * 2 ^ lc + d.toNat * 2 ^ ld)

/-- A word with five fields. -/
def enc5 {i j k l m : Nat} (base : Nat) (a : BitVec i) (la : Nat) (b : BitVec j) (lb : Nat) (c : BitVec k) (lc : Nat)
    (d : BitVec l) (ld : Nat) (e : BitVec m) (le : Nat) : IWord :=
  BitVec.ofNat 32 (base + a.toNat * 2 ^ la + b.toNat * 2 ^ lb + c.toNat * 2 ^ lc + d.toNat * 2 ^ ld + e.toNat * 2 ^ le)

/-- A word with six fields. -/
def enc6 {i j k l m n : Nat} (base : Nat) (a : BitVec i) (la : Nat) (b : BitVec j) (lb : Nat) (c : BitVec k) (lc : Nat)
    (d : BitVec l) (ld : Nat) (e : BitVec m) (le : Nat) (f : BitVec n) (lf : Nat) : IWord :=
  BitVec.ofNat 32 (base + a.toNat * 2 ^ la + b.toNat * 2 ^ lb + c.toNat * 2 ^ lc + d.toNat * 2 ^ ld + e.toNat * 2 ^ le
    + f.toNat * 2 ^ lf)

/-- The word of an instruction (R213, R226). An event of the device has no word and gives 0. -/
def encode (i : Instr) : IWord :=
  match i with
  | .add d a b => enc3 0x04000000 d 21 a 16 b 11
  | .sub d a b => enc3 0x04000001 d 21 a 16 b 11
  | .and d a b => enc3 0x04000002 d 21 a 16 b 11
  | .or d a b => enc3 0x04000003 d 21 a 16 b 11
  | .xor d a b => enc3 0x04000004 d 21 a 16 b 11
  | .andn d a b => enc3 0x04000005 d 21 a 16 b 11
  | .sll d a b => enc3 0x04000006 d 21 a 16 b 11
  | .srl d a b => enc3 0x04000007 d 21 a 16 b 11
  | .sra d a b => enc3 0x04000008 d 21 a 16 b 11
  | .rol d a b => enc3 0x04000009 d 21 a 16 b 11
  | .mul d a b => enc3 0x0400000A d 21 a 16 b 11
  | .mulh d a b => enc3 0x0400000B d 21 a 16 b 11
  | .mulhu d a b => enc3 0x0400000C d 21 a 16 b 11
  | .div d a b => enc3 0x0400000D d 21 a 16 b 11
  | .divu d a b => enc3 0x0400000E d 21 a 16 b 11
  | .rem d a b => enc3 0x0400000F d 21 a 16 b 11
  | .remu d a b => enc3 0x04000010 d 21 a 16 b 11
  | .min d a b => enc3 0x04000011 d 21 a 16 b 11
  | .max d a b => enc3 0x04000012 d 21 a 16 b 11
  | .minu d a b => enc3 0x04000013 d 21 a 16 b 11
  | .maxu d a b => enc3 0x04000014 d 21 a 16 b 11
  | .slt d a b => enc3 0x04000015 d 21 a 16 b 11
  | .sltu d a b => enc3 0x04000016 d 21 a 16 b 11
  | .seq d a b => enc3 0x04000017 d 21 a 16 b 11
  | .clz d a => enc2 0x04000018 d 21 a 16
  | .ctz d a => enc2 0x04000019 d 21 a 16
  | .popc d a => enc2 0x0400001A d 21 a 16
  | .brev d a => enc2 0x0400001B d 21 a 16
  | .bext d a b => enc3 0x0400001C d 21 a 16 b 11
  | .bdep d a b => enc3 0x0400001D d 21 a 16 b 11
  | .cmov d a b => enc3 0x0400001E d 21 a 16 b 11
  | .addw d a b => enc3 0x0400001F d 21 a 16 b 11
  | .addi d a i => enc3 0x08000000 d 21 a 16 i 0
  | .andi d a i => enc3 0x0C000000 d 21 a 16 i 0
  | .ori d a i => enc3 0x10000000 d 21 a 16 i 0
  | .xori d a i => enc3 0x14000000 d 21 a 16 i 0
  | .slli d a s => enc3 0x18000000 d 21 a 16 s 0
  | .srli d a s => enc3 0x18000040 d 21 a 16 s 0
  | .srai d a s => enc3 0x18000080 d 21 a 16 s 0
  | .roli d a s => enc3 0x180000C0 d 21 a 16 s 0
  | .slti d a i => enc3 0x1C000000 d 21 a 16 i 0
  | .sltiu d a i => enc3 0x20000000 d 21 a 16 i 0
  | .lui d i => enc2 0x24000000 d 21 i 0
  | .movk d q i => enc3 0x28000000 d 21 q 16 i 0
  | .faddS d a b => enc3 0x2C000000 d 21 a 16 b 11
  | .fsubS d a b => enc3 0x2C000001 d 21 a 16 b 11
  | .fmulS d a b => enc3 0x2C000002 d 21 a 16 b 11
  | .fdivS d a b => enc3 0x2C000003 d 21 a 16 b 11
  | .fsqrtS d a => enc2 0x2C000004 d 21 a 16
  | .fminS d a b => enc3 0x2C000005 d 21 a 16 b 11
  | .fmaxS d a b => enc3 0x2C000006 d 21 a 16 b 11
  | .fmaddS d a b => enc3 0x2C000007 d 21 a 16 b 11
  | .feqS d a b => enc3 0x2C000008 d 21 a 16 b 11
  | .fltS d a b => enc3 0x2C000009 d 21 a 16 b 11
  | .fleS d a b => enc3 0x2C00000A d 21 a 16 b 11
  | .faddD d a b => enc3 0x2C00000B d 21 a 16 b 11
  | .fsubD d a b => enc3 0x2C00000C d 21 a 16 b 11
  | .fmulD d a b => enc3 0x2C00000D d 21 a 16 b 11
  | .fdivD d a b => enc3 0x2C00000E d 21 a 16 b 11
  | .fsqrtD d a => enc2 0x2C00000F d 21 a 16
  | .fminD d a b => enc3 0x2C000010 d 21 a 16 b 11
  | .fmaxD d a b => enc3 0x2C000011 d 21 a 16 b 11
  | .fmaddD d a b => enc3 0x2C000012 d 21 a 16 b 11
  | .feqD d a b => enc3 0x2C000013 d 21 a 16 b 11
  | .fltD d a b => enc3 0x2C000014 d 21 a 16 b 11
  | .fleD d a b => enc3 0x2C000015 d 21 a 16 b 11
  | .fcvtSD d a => enc2 0x2C000016 d 21 a 16
  | .fcvtDS d a => enc2 0x2C000017 d 21 a 16
  | .fcvtSW d a => enc2 0x2C000018 d 21 a 16
  | .fcvtWS d a => enc2 0x2C000019 d 21 a 16
  | .fcvtDL d a => enc2 0x2C00001A d 21 a 16
  | .fcvtLD d a => enc2 0x2C00001B d 21 a 16
  | .fcvtBfS d a => enc2 0x2C00001C d 21 a 16
  | .fcvtSBf d a => enc2 0x2C00001D d 21 a 16
  | .ldb d a h o => enc4 0x30000000 d 21 a 16 h 12 o 0
  | .ldbu d a h o => enc4 0x30000200 d 21 a 16 h 12 o 0
  | .ldh d a h o => enc4 0x30000400 d 21 a 16 h 12 o 0
  | .ldhu d a h o => enc4 0x30000600 d 21 a 16 h 12 o 0
  | .ldw d a h o => enc4 0x30000800 d 21 a 16 h 12 o 0
  | .ldwu d a h o => enc4 0x30000A00 d 21 a 16 h 12 o 0
  | .ldd d a h o => enc4 0x30000C00 d 21 a 16 h 12 o 0
  | .stb d a h o => enc4 0x34000000 d 21 a 16 h 12 o 0
  | .sth d a h o => enc4 0x34000200 d 21 a 16 h 12 o 0
  | .stw d a h o => enc4 0x34000400 d 21 a 16 h 12 o 0
  | .std d a h o => enc4 0x34000600 d 21 a 16 h 12 o 0
  | .stn d a h o => enc4 0x34000800 d 21 a 16 h 12 o 0
  | .hset d a => enc2 0x38000000 d 21 a 16
  | .hget d a => enc2 0x38000001 d 21 a 16
  | .hinfo d a => enc2 0x38000002 d 21 a 16
  | .hlen d a => enc2 0x38000003 d 21 a 16
  | .hsub d a b h => enc4 0x38000004 d 21 a 16 b 11 h 5
  | .oalloc d a b => enc3 0x38000005 d 21 a 16 b 11
  | .ofree a => enc1 0x38000006 a 16
  | .amoSwap d a b h o w => enc6 0x3C000000 d 21 a 16 b 11 h 7 o 5 w 0
  | .amoCas d a b h o w => enc6 0x3C000002 d 21 a 16 b 11 h 7 o 5 w 0
  | .amoAdd d a b h o w => enc6 0x3C000004 d 21 a 16 b 11 h 7 o 5 w 0
  | .amoAnd d a b h o w => enc6 0x3C000006 d 21 a 16 b 11 h 7 o 5 w 0
  | .amoOr d a b h o w => enc6 0x3C000008 d 21 a 16 b 11 h 7 o 5 w 0
  | .amoXor d a b h o w => enc6 0x3C00000A d 21 a 16 b 11 h 7 o 5 w 0
  | .amoMin d a b h o w => enc6 0x3C00000C d 21 a 16 b 11 h 7 o 5 w 0
  | .amoMax d a b h o w => enc6 0x3C00000E d 21 a 16 b 11 h 7 o 5 w 0
  | .amoMinu d a b h o w => enc6 0x3C000010 d 21 a 16 b 11 h 7 o 5 w 0
  | .amoMaxu d a b h o w => enc6 0x3C000012 d 21 a 16 b 11 h 7 o 5 w 0
  | .amoFaddS d a b h o => enc5 0x3C000014 d 21 a 16 b 11 h 7 o 5
  | .redAdd a b h o w => enc5 0x40000000 a 16 b 11 h 7 o 6 w 0
  | .redAnd a b h o w => enc5 0x40000002 a 16 b 11 h 7 o 6 w 0
  | .redOr a b h o w => enc5 0x40000004 a 16 b 11 h 7 o 6 w 0
  | .redXor a b h o w => enc5 0x40000006 a 16 b 11 h 7 o 6 w 0
  | .redMin a b h o w => enc5 0x40000008 a 16 b 11 h 7 o 6 w 0
  | .redMax a b h o w => enc5 0x4000000A a 16 b 11 h 7 o 6 w 0
  | .redMinu a b h o w => enc5 0x4000000C a 16 b 11 h 7 o 6 w 0
  | .redMaxu a b h o w => enc5 0x4000000E a 16 b 11 h 7 o 6 w 0
  | .redFaddS a b h o => enc4 0x40000010 a 16 b 11 h 7 o 6
  | .redFmaxS a b h o => enc4 0x40000011 a 16 b 11 h 7 o 6
  | .rgn s => enc1 0x44000000 s 0
  | .rgnx s => enc1 0x46000000 s 0
  | .beq a b o => enc3 0x48000000 a 21 b 16 o 0
  | .bne a b o => enc3 0x4C000000 a 21 b 16 o 0
  | .blt a b o => enc3 0x50000000 a 21 b 16 o 0
  | .bge a b o => enc3 0x54000000 a 21 b 16 o 0
  | .bltu a b o => enc3 0x58000000 a 21 b 16 o 0
  | .bgeu a b o => enc3 0x5C000000 a 21 b 16 o 0
  | .bbs a t o => enc3 0x60000000 a 21 t 15 o 0
  | .bbc a t o => enc3 0x64000000 a 21 t 15 o 0
  | .j o => enc1 0x68000000 o 0
  | .jal o => enc1 0x6C000000 o 0
  | .jr a => enc1 0x70000000 a 16
  | .jalr d a => enc2 0x70000001 d 21 a 16
  | .fence a => enc1 0x74000000 a 16
  | .rfence => enc0 0x74000001
  | .wait d a => enc2 0x74000002 d 21 a 16
  | .evsig a b => enc2 0x74000003 a 16 b 11
  | .barEvent d a b => enc3 0x74000004 d 21 a 16 b 11
  | .barObject d b h => enc3 0x74000204 d 21 b 11 h 5
  | .lock a => enc1 0x74000005 a 16
  | .unlock a => enc1 0x74000006 a 16
  | .pause => enc0 0x74000007
  | .vcdef a b => enc2 0x78000000 a 16 b 11
  | .vcsize a => enc1 0x78000001 a 16
  | .vcpar a => enc1 0x78000002 a 16
  | .vcbind a h => enc2 0x78000003 a 16 h 5
  | .vcunb a h => enc2 0x78000004 a 16 h 5
  | .vcwb a o h => enc3 0x78000005 a 16 o 9 h 5
  | .vcinv a o h => enc3 0x78000006 a 16 o 9 h 5
  | .vcq d a => enc2 0x78000007 d 21 a 16
  | .rpt a b n => enc3 0x7C000000 a 16 b 11 n 5
  | .start d a b => enc3 0x7C000001 d 21 a 16 b 11
  | .hexit => enc0 0x7C000002
  | .yield => enc0 0x7C000003
  | .cp d a => enc2 0x80000000 d 21 a 16
  | .mcast d a => enc2 0x80000001 d 21 a 16
  | .jwait d a => enc2 0x80000002 d 21 a 16
  | .jpoll d a => enc2 0x80000003 d 21 a 16
  | .tmig d a h => enc3 0x80000004 d 21 a 16 h 5
  | .cpjoin d a => enc2 0x80000005 d 21 a 16
  | .qpost d a h => enc3 0x84000000 d 21 a 16 h 5
  | .send a h => enc2 0x84000001 a 16 h 5
  | .recv d a h => enc3 0x84000002 d 21 a 16 h 5
  | .qtry d a h => enc3 0x84000003 d 21 a 16 h 5
  | .rdqAdd d a b h => enc4 0x84000004 d 21 a 16 b 11 h 5
  | .rdqMax d a b h => enc4 0x84000005 d 21 a 16 b 11 h 5
  | .sstep => enc0 0x88000000
  | .snap d h => enc2 0x88000001 d 21 h 5
  | .snapst d s h => enc3 0x88000002 d 21 s 9 h 5
  | .rollbk a h => enc2 0x88000003 a 16 h 5
  | .trap d a => enc2 0x8C000000 d 21 a 16
  | .eret => enc0 0x8C000001
  | .csrr d c => enc2 0x8C000002 d 21 c 5
  | .csrw a c => enc2 0x8C000003 a 16 c 5
  | .csrs a c => enc2 0x8C000004 a 16 c 5
  | .halt a => enc1 0x8C000005 a 16
  | .brk i => enc1 0x8C000006 i 5
  | .seal d a => enc2 0x8C000007 d 21 a 16
  | .nop => enc0 0x8C000008
  | .tld d h s x => enc4 0xA0000000 d 23 h 19 s 12 x 7
  | .tst d h s x => enc4 0xA0000001 d 23 h 19 s 12 x 7
  | .tzero d s => enc2 0xA0000002 d 23 s 12
  | .tmov d s x => enc3 0xA0000003 d 23 s 12 x 7
  | .ttr d s x => enc3 0xA0000004 d 23 s 12 x 7
  | .tbc d s => enc2 0xA0000005 d 23 s 12
  | .tgat d s x => enc3 0xA0000006 d 23 s 12 x 7
  | .vadd d a b s x y => enc6 0xA4000000 d 23 a 20 b 17 s 12 x 7 y 0
  | .vsub d a b s x y => enc6 0xA4000008 d 23 a 20 b 17 s 12 x 7 y 0
  | .vmul d a b s x y => enc6 0xA4000010 d 23 a 20 b 17 s 12 x 7 y 0
  | .vfma d a b s x y => enc6 0xA4000018 d 23 a 20 b 17 s 12 x 7 y 0
  | .vmin d a b s x y => enc6 0xA4000020 d 23 a 20 b 17 s 12 x 7 y 0
  | .vmax d a b s x y => enc6 0xA4000028 d 23 a 20 b 17 s 12 x 7 y 0
  | .vand d a b s x => enc5 0xA4000030 d 23 a 20 b 17 s 12 x 7
  | .vor d a b s x => enc5 0xA4000031 d 23 a 20 b 17 s 12 x 7
  | .vxor d a b s x => enc5 0xA4000032 d 23 a 20 b 17 s 12 x 7
  | .vshl d a b s x => enc5 0xA4000033 d 23 a 20 b 17 s 12 x 7
  | .vshr d a b s x => enc5 0xA4000034 d 23 a 20 b 17 s 12 x 7
  | .vexp2 d a s => enc3 0xA8000000 d 23 a 20 s 12
  | .vrcp d a s => enc3 0xA8000001 d 23 a 20 s 12
  | .vrsqrt d a s => enc3 0xA8000002 d 23 a 20 s 12
  | .vlog2 d a s => enc3 0xA8000003 d 23 a 20 s 12
  | .vtanh d a s => enc3 0xA8000004 d 23 a 20 s 12
  | .vabsF32 d a s => enc3 0xA8000005 d 23 a 20 s 12
  | .vabsBf16 d a s => enc3 0xA8000006 d 23 a 20 s 12
  | .vnegF32 d a s => enc3 0xA8000007 d 23 a 20 s 12
  | .vnegBf16 d a s => enc3 0xA8000008 d 23 a 20 s 12
  | .vcvtBf16F32 d a p s => enc4 0xA8000009 d 23 a 20 p 17 s 12
  | .vcvtF32Bf16 d a p s => enc4 0xA800000A d 23 a 20 p 17 s 12
  | .vcvtF16F32 d a p s => enc4 0xA800000B d 23 a 20 p 17 s 12
  | .vcvtF32F16 d a p s => enc4 0xA800000C d 23 a 20 p 17 s 12
  | .vcvtE4m3F32 d a p s => enc4 0xA800000D d 23 a 20 p 17 s 12
  | .vcvtF32E4m3 d a p s => enc4 0xA800000E d 23 a 20 p 17 s 12
  | .vcvtE5m2F32 d a p s => enc4 0xA800000F d 23 a 20 p 17 s 12
  | .vcvtF32E5m2 d a p s => enc4 0xA8000010 d 23 a 20 p 17 s 12
  | .vcvtI32F32 d a s => enc3 0xA8000011 d 23 a 20 s 12
  | .vcvtF32I32 d a s => enc3 0xA8000012 d 23 a 20 s 12
  | .vcvtBf16Cb4 d a p s => enc4 0xA8000013 d 23 a 20 p 17 s 12
  | .vcmpEqF32 d a b s x => enc5 0xAC000000 d 23 a 20 b 17 s 12 x 7
  | .vcmpEqBf16 d a b s x => enc5 0xAC000001 d 23 a 20 b 17 s 12 x 7
  | .vcmpEqI32 d a b s x => enc5 0xAC000002 d 23 a 20 b 17 s 12 x 7
  | .vcmpNeF32 d a b s x => enc5 0xAC000003 d 23 a 20 b 17 s 12 x 7
  | .vcmpNeBf16 d a b s x => enc5 0xAC000004 d 23 a 20 b 17 s 12 x 7
  | .vcmpNeI32 d a b s x => enc5 0xAC000005 d 23 a 20 b 17 s 12 x 7
  | .vcmpLtF32 d a b s x => enc5 0xAC000006 d 23 a 20 b 17 s 12 x 7
  | .vcmpLtBf16 d a b s x => enc5 0xAC000007 d 23 a 20 b 17 s 12 x 7
  | .vcmpLtI32 d a b s x => enc5 0xAC000008 d 23 a 20 b 17 s 12 x 7
  | .vcmpLeF32 d a b s x => enc5 0xAC000009 d 23 a 20 b 17 s 12 x 7
  | .vcmpLeBf16 d a b s x => enc5 0xAC00000A d 23 a 20 b 17 s 12 x 7
  | .vcmpLeI32 d a b s x => enc5 0xAC00000B d 23 a 20 b 17 s 12 x 7
  | .vsel d a b s x => enc5 0xAC00000C d 23 a 20 b 17 s 12 x 7
  | .vsum d a y s => enc4 0xAC00000D d 23 a 20 y 17 s 12
  | .vmaxr d a y s => enc4 0xAC00000E d 23 a 20 y 17 s 12
  | .vperm d a b s => enc4 0xAC00000F d 23 a 20 b 17 s 12
  | .fuseF32 d a b s x => enc5 0xB0000000 d 23 a 20 b 17 s 12 x 7
  | .fuseBf16 d a b s x => enc5 0xB0000001 d 23 a 20 b 17 s 12 x 7
  | .mmaBf16 d a s x => enc4 0xB4000000 d 23 a 20 s 12 x 7
  | .mmaF16 d a s x => enc4 0xB4000001 d 23 a 20 s 12 x 7
  | .mmaE4m3 d a s x => enc4 0xB4000002 d 23 a 20 s 12 x 7
  | .mmaE5m2 d a s x => enc4 0xB4000003 d 23 a 20 s 12 x 7
  | .mmaCb4 d a s x => enc4 0xB4000004 d 23 a 20 s 12 x 7
  | .wbld o x => enc2 0xB4000005 o 20 x 7
  | .lmode m => enc1 0xB4000006 m 23
  | .lfence => enc0 0xB4000007
  | .ssm d x => enc2 0xB8000000 d 23 x 7
  | .ssmC d x => enc2 0xB8000001 d 23 x 7
  | .ssmR d x => enc2 0xB8000002 d 23 x 7
  | .deviceStart => 0
  | .startStepTimeout => 0
  | .standbyPowerLoss => 0
  | .clockFault => 0
  | .thermalWarn => 0
  | .thermalTrip => 0
  | .thermalRecover => 0
  | .powerCap => 0
  | .solderFlit => 0
  | .d2dRetrain => 0
  | .linkFlitReceive => 0
  | .linkCrc => 0
  | .linkRetrain => 0
  | .linkDown => 0
  | .trainReq => 0
  | .trainDone => 0
  | .eack => 0
  | .echo => 0
  | .echoReply => 0
  | .idset => 0
  | .e2eRequestArrive => 0
  | .e2eRetransmit => 0
  | .e2eRequestFail => 0
  | .e2eAckTimer => 0
  | .switchReceive => 0
  | .outputArbitrate => 0
  | .agePromote => 0
  | .rd => 0
  | .wr => 0
  | .wrh => 0
  | .atom => 0
  | .red => 0
  | .nib => 0
  | .sendMsg => 0
  | .qpostMsg => 0
  | .take => 0
  | .takecan => 0
  | .rst => 0
  | .rld => 0
  | .inv => 0
  | .brd => 0
  | .mrd => 0
  | .bwrh => 0
  | .mfwd => 0
  | .rdata => 0
  | .ack => 0
  | .ares => 0
  | .msg => 0
  | .empty => 0
  | .lack => 0
  | .fail => 0
  | .bdata => 0
  | .mdata => 0
  | .msetup => 0
  | .mjoin => 0
  | .marker => 0
  | .creply => 0
  | .cpoll => 0
  | .event => 0
  | .sched => 0
  | .vcstep => 0
  | .sroll => 0
  | .mon => 0
  | .unknownMessage => 0
  | .dramComplete => 0
  | .spillFetch => 0
  | .barrierArrive => 0
  | .migrationEnd => 0
  | .mcastSend => 0
  | .mcastComplete => 0
  | .translationRead => 0
  | .keyGenerationInstall => 0
  | .tailWrite => 0
  | .cplheadWrite => 0
  | .statusClear => 0
  | .queueEnable => 0
  | .queuePause => 0
  | .queueResume => 0
  | .queueDisable => 0
  | .queueReset => 0
  | .queueConfigWrite => 0
  | .teldataRead => 0
  | .registerWrite => 0
  | .takePacket => 0
  | .packetStart => 0
  | .packetComplete => 0
  | .nopPacket => 0
  | .launch => 0
  | .graph => 0
  | .copy => 0
  | .signal => 0
  | .waitPacket => 0
  | .waitTimeout => 0
  | .resync => 0
  | .snapshot => 0
  | .admitPacket => 0
  | .retire => 0
  | .partCreate => 0
  | .partReset => 0
  | .partDestroy => 0
  | .banks => 0
  | .mapFlush => 0
  | .report => 0
  | .auditRead => 0
  | .pewterUpdate => 0
  | .pewterHandover => 0
  | .policyLoad => 0
  | .policyUnload => 0
  | .policyPin => 0
  | .errinj => 0
  | .debugToken => 0
  | .gangStart => 0
  | .dispatchDecision => 0
  | .periodStart => 0
  | .sliceEnd => 0
  | .preempt => 0
  | .preemptTimeout => 0
  | .resume => 0
  | .yieldPoint => 0
  | .instanceComplete => 0
  | .trapEntry => 0
  | .noticeEntry => 0
  | .watchdog => 0
  | .pauseExpire => 0
  | .frameFill => 0
  | .latticeGrant => 0
  | .rewireComplete => 0
  | .movementServe => 0
  | .latticeComplete => 0
  | .copyJobStart => 0
  | .eventLineStore => 0
  | .eventBarStore => 0
  | .mutexStore => 0
  | .barcfgWrite => 0
  | .coreCut => 0
  | .cowCopy => 0
  | .countPoll => 0
  | .snapshotSeal => 0
  | .snapshotFail => 0
  | .backgroundCopy => 0
  | .superstepRollback => 0
  | .partitionMetadataError => 0
  | .requestTimeout => 0
  | .fetchFault => 0
  | .illegalWord => 0
  | .tdiStateChange => 0
  | .cxlMemRequest => 0
  | .cxlCacheSnoop => 0
  | .hostMemoryCompletion => 0
  | .policyImageFault => 0
  | .debugPortCommand => 0
  | .d2dRetrainEnd => 0
  | .jobRollbackRequest => 0

/-- Step 3 of R227: an unassigned major. -/
def majorBad (m : Nat) : Bool := m == 0 || (0x24 ≤ m && m ≤ 0x27) || 0x2F ≤ m

/-- Step 4 of R227: a function code outside the row of R226. -/
def fnBad (w : IWord) : Bool :=
  let m := fldN w 26 6
  if m = 0x01 then decide (32 ≤ fldN w 0 11) else
  if m = 0x0B then decide (30 ≤ fldN w 0 11) else
  if m = 0x0C then decide (7 ≤ fldN w 9 3) else
  if m = 0x0D then decide (5 ≤ fldN w 9 3) else
  if m = 0x0E then decide (7 ≤ fldN w 0 5) else
  if m = 0x0F then decide (21 ≤ fldN w 0 5) else
  if m = 0x10 then decide (18 ≤ fldN w 0 5) else
  if m = 0x1C then decide (2 ≤ fldN w 0 11) else
  if m = 0x1D then decide (8 ≤ fldN w 0 5) else
  if m = 0x1E then decide (8 ≤ fldN w 0 5) else
  if m = 0x1F then decide (4 ≤ fldN w 0 5) else
  if m = 0x20 then decide (6 ≤ fldN w 0 5) else
  if m = 0x21 then decide (6 ≤ fldN w 0 5) else
  if m = 0x22 then decide (4 ≤ fldN w 0 5) else
  if m = 0x23 then decide (9 ≤ fldN w 0 5) else
  if m = 0x28 then decide (7 ≤ fldN w 0 7) else
  if m = 0x2A then decide (20 ≤ fldN w 0 7) else
  if m = 0x2B then decide (16 ≤ fldN w 0 7) else
  if m = 0x2C then decide (2 ≤ fldN w 0 7) else
  if m = 0x2D then decide (8 ≤ fldN w 0 7) else
  if m = 0x2E then decide (3 ≤ fldN w 0 7) else
  if m = 0x29 then decide (53 ≤ fldN w 0 7) || (decide (fldN w 0 7 < 48) && decide (6 ≤ fldN w 0 3)) else
  false

/-- R227 steps 1 to 6 and R228: the cause of a word that is no instruction, and the detail of EVAL [35:32]. -/
def illegalCause (w : IWord) : Nat × Nat :=
  if w = 0 then (0x00, 0)
  else if w = BitVec.ofNat 32 0xFFFFFFFF then (0x01, 0)
  else if majorBad (fldN w 26 6) then (0x02, 0)
  else if fnBad w then (0x03, 0)
  else match decodeRaw w with
    | none => (0x04, 0)
    | some i => if i.rsvOk then (0x07, 5) else (0x04, 0)

/-- The decoder as the opcode table numbers an instruction's bits: one 32-bit word, little-endian (R212). -/
def decodeTableWord (nbits w : Nat) : Option Instr := decode (BitVec.ofNat 32 (w % 2 ^ nbits))

end Sys2Proof
end

