-- ==== Sys2Proof/Config.lean ====
section
/-! DEFINITION. What an implementation fixes, and the free values: opaque constants with no body, of which nothing can be
proved. Every use of one is a log entry. -/

namespace Sys2Proof

/-- A value the spec leaves open, fresh for every number (log entry 6). -/
opaque Config.freeValue : Nat → Word

/-- How many fabric cycles the n-th step takes (R4, R232: timing never changes a result; log entry 7). -/
opaque Config.stepTime : Nat → Nat

/-- Whether a Falcon-1024 signature over bytes verifies under a key (R78, R80, R94; log entry 8). -/
opaque Config.falconVerify : List Byte → List Byte → List Byte → Bool

/-- The Falcon-1024 signature the device makes over bytes under a key (R81, R84; log entry 8). -/
opaque Config.falconSign : List Byte → List Byte → List Byte

/-- How many bytes a Falcon-1024 signature of the device has (R84; log entry 8). -/
opaque Config.sigLength : Nat

/-- The public half of a key derived from a seed (R81; log entry 8). -/
opaque Config.falconPublic : List Byte → List Byte

/-- The bits of the true random source (R81, R86; log entry 8). -/
opaque Config.random : Nat → List Byte

/-- The bytes that a page shows once the keys it was written under are gone (R89; log entry 109). -/
opaque Config.deadByte : Nat → Nat → Byte

/-- A byte of a page of another device when this device reads it for itself in one step: the number of the step, the device, the
context, the handle, the page and the offset (log entry 45). -/
opaque Config.peerByte : Nat → Nat → Nat → Nat → Nat → Nat → Byte

/-- The 64 KiB pages of a capacity channel that the window of host-managed device memory takes (R33; log entry 26). -/
opaque Config.windowPages : Nat → Nat

/-- The boot ROM's contents (R82; log entry 8). -/
opaque Config.bootRom : List Byte

/-- What a policy image chooses (R75, R115, R116): the number `n` of an image; the device holds each to its range (log entry
22). -/
opaque Config.policyWord : List Byte → Nat → Nat

end Sys2Proof
end

