-- ==== Sys2Proof/Machine/Bits.lean ====
section
/-! DEFINITION. Bit fields, sign extension, byte order (R2) and finite maps kept as sorted lists. -/

namespace Sys2Proof.Machine

/-- Bits `[hi:lo]` of `w`, as a number. -/
def bits {n : Nat} (w : BitVec n) (hi lo : Nat) : Nat := w.toNat / 2 ^ lo % 2 ^ (hi + 1 - lo)

/-- Bit `i` of `w`. -/
def bit {n : Nat} (w : BitVec n) (i : Nat) : Bool := w.getLsbD i

/-- `w` with bits `[hi:lo]` replaced by the low bits of `v`. -/
def setBits (w : Word) (hi lo v : Nat) : Word :=
  let k := 2 ^ (hi + 1 - lo)
  BitVec.ofNat 64 (w.toNat % 2 ^ lo + v % k * 2 ^ lo + w.toNat / 2 ^ (hi + 1) * 2 ^ (hi + 1))

/-- A number as a word. -/
def word (n : Nat) : Word := BitVec.ofNat 64 n

/-- 1 for true, 0 for false. -/
def b2n (b : Bool) : Nat := if b then 1 else 0

/-- 1 for true, 0 for false, as a word. -/
def b2w (b : Bool) : Word := if b then 1 else 0

/-- R229 `sext`: the low `n` bits of `v` as a two's-complement integer. -/
def sextN (n v : Nat) : Int :=
  let u := v % 2 ^ n
  if n = 0 then 0 else if 2 ^ (n - 1) ≤ u then (u : Int) - (2 ^ n : Nat) else u

/-- An immediate of any width sign-extended to 64 bits. -/
def sext64 {n : Nat} (v : BitVec n) : Word := v.signExtend 64

/-- The integer `z` modulo `2 ^ 64`. -/
def wordOfInt (z : Int) : Word := BitVec.ofInt 64 z

/-- The number held by bytes, the first byte lowest (R2: little-endian). -/
def leNat : List Byte → Nat
  | [] => 0
  | b :: bs => b.toNat + 256 * leNat bs

/-- The `n` bytes of `v`, lowest first (R2). -/
def leBytes : Nat → Nat → List Byte
  | 0, _ => []
  | n + 1, v => BitVec.ofNat 8 v :: leBytes n (v / 256)

/-- Chunks of `k` elements, in order; a last short chunk is kept. `fuel` bounds their number. -/
def chunksOf {α : Type} (k : Nat) : Nat → List α → List (List α)
  | 0, _ => []
  | fuel + 1, l => if l.isEmpty then [] else l.take k :: chunksOf k fuel (l.drop k)

/-- Ceiling of `a / b`. -/
def ceilDiv (a b : Nat) : Nat := (a + b - 1) / b

/-- The number of bits `n` needs. -/
def bitLen (n : Nat) : Nat := if n = 0 then 0 else n.log2 + 1

/-- Replace element `i` of a list. -/
def listSet {α : Type} : List α → Nat → α → List α
  | [], _, _ => []
  | _ :: t, 0, v => v :: t
  | x :: t, i + 1, v => x :: listSet t i v

/-- The position of the first element that satisfies `p`. -/
def firstIdx {α : Type} (p : α → Bool) : List α → Option Nat
  | [] => none
  | x :: t => if p x then some 0 else (firstIdx p t).map (· + 1)

/-- The smallest number at or above `n` that `p` accepts, looking at `fuel` numbers. -/
def searchUp (p : Nat → Bool) : Nat → Nat → Option Nat
  | 0, _ => none
  | fuel + 1, n => if p n then some n else searchUp p fuel (n + 1)

/-- A finite map from numbers, kept as a list sorted by key. -/
abbrev NMap (α : Type) := List (Nat × α)

/-- The value at a key. -/
def NMap.look {α : Type} (m : NMap α) (k : Nat) : Option α :=
  match m with
  | [] => none
  | (j, v) :: t => if j = k then some v else NMap.look t k

/-- The value at a key, or a default. -/
def NMap.get {α : Type} (m : NMap α) (k : Nat) (d : α) : α := (m.look k).getD d

/-- The map with one key set; a new key goes to its place in the order. -/
def NMap.put {α : Type} (m : NMap α) (k : Nat) (v : α) : NMap α :=
  match m with
  | [] => [(k, v)]
  | (j, w) :: t =>
    if j = k then (k, v) :: t
    else if k < j then (k, v) :: (j, w) :: t
    else (j, w) :: NMap.put t k v

/-- The map without a key. -/
def NMap.del {α : Type} (m : NMap α) (k : Nat) : NMap α := m.filter (fun p => p.1 != k)

/-- Bit `i` of a number. -/
def nbit (n i : Nat) : Bool := n.testBit i

/-- The positions of the one bits of `n` below `w`, in ascending order. -/
def onesOf (n w : Nat) : List Nat := (List.range w).filter (fun i => n.testBit i)

/-- The number of one bits of `n` below `w`. -/
def popCount (n w : Nat) : Nat := (onesOf n w).length

end Sys2Proof.Machine
end

