-- ==== Sys2Proof/Machine/Mem.lean ====
section
/-! DEFINITION. A byte store in one canonical form: cells with strictly rising addresses, none of them zero.
An address that is not listed reads as zero (log entry 2). -/

namespace Sys2Proof.Machine

/-- A byte store. Its canonical form is `Mem.wf`. -/
structure Mem where
  /-- the bytes that are not zero -/
  cells  : List Host.Cell
  /-- R100: the doublewords (address / 8) that carry poison -/
  poison : List Nat
  deriving DecidableEq, Repr

/-- The store with nothing listed. -/
def Mem.empty : Mem := ⟨[], []⟩

/-- What an address that is not listed reads as (log entry 2). -/
def Mem.unlisted : Byte := 0

/-- Look one address up in a list of cells. -/
def cellLook : List Host.Cell → Nat → Byte
  | [], _ => Mem.unlisted
  | (k, v) :: t, a => if k = a then v else cellLook t a

/-- Read one byte. -/
def Mem.get (m : Mem) (a : Nat) : Byte := cellLook m.cells a

/-- The cells that bytes laid from address `a` give: the zero bytes give none. -/
def cellsOf : Nat → List Byte → List Host.Cell
  | _, [] => []
  | a, b :: bs => if b = Mem.unlisted then cellsOf (a + 1) bs else (a, b) :: cellsOf (a + 1) bs

/-- Write consecutive bytes from address `a`. A doubleword that is rewritten whole loses its poison, one that is
rewritten in part keeps it (R100). -/
def Mem.putRange (m : Mem) (a : Nat) (bs : List Byte) : Mem :=
  ⟨m.cells.filter (fun c => c.1 < a) ++ cellsOf a bs ++ m.cells.filter (fun c => a + bs.length ≤ c.1),
   m.poison.filter (fun d => 8 * d < a ∨ a + bs.length < 8 * d + 8)⟩

/-- Write one byte. -/
def Mem.put (m : Mem) (a : Nat) (b : Byte) : Mem := m.putRange a [b]

/-- Read `n` consecutive bytes from address `a`. -/
def Mem.getRange (m : Mem) (a n : Nat) : List Byte := (List.range n).map (fun i => m.get (a + i))

/-- The runs of bytes whose mask bit is set, each with its place; `acc` is the run that is open. -/
def maskRuns : Nat → List Byte → Nat → List Byte → List (Nat × List Byte)
  | i, [], _, acc => if acc.isEmpty then [] else [(i - acc.length, acc)]
  | i, b :: bs, mask, acc =>
    if mask % 2 = 1 then maskRuns (i + 1) bs (mask / 2) (acc ++ [b])
    else if acc.isEmpty then maskRuns (i + 1) bs (mask / 2) []
    else (i - acc.length, acc) :: maskRuns (i + 1) bs (mask / 2) []

/-- Write the bytes whose mask bit is set, the others unchanged (R179). -/
def Mem.putMasked (m : Mem) (a : Nat) (bs : List Byte) (mask : Nat) : Mem :=
  (maskRuns 0 bs mask []).foldl (fun m r => m.putRange (a + r.1) r.2) m

/-- Zero `n` consecutive bytes and take their poison away. -/
def Mem.clearRange (m : Mem) (a n : Nat) : Mem :=
  ⟨m.cells.filter (fun c => c.1 < a ∨ a + n ≤ c.1), m.poison.filter (fun d => 8 * d < a ∨ a + n < 8 * d + 8)⟩

/-- Insert a doubleword into a rising list. -/
def insertRising (d : Nat) : List Nat → List Nat
  | [] => [d]
  | x :: t => if d < x then d :: x :: t else if d = x then x :: t else x :: insertRising d t

/-- R100: mark the doubleword that holds address `a` as poisoned. -/
def Mem.addPoison (m : Mem) (a : Nat) : Mem := ⟨m.cells, insertRising (a / 8) m.poison⟩

/-- Whether a byte of the range lies in a poisoned doubleword. -/
def Mem.poisoned (m : Mem) (a n : Nat) : Bool := m.poison.any (fun d => a < 8 * d + 8 ∧ 8 * d < a + n)

/-- Copy `n` bytes from `src` of another store to `dst`, with their poison (R100); both addresses are multiples of 8
where poison is to travel. -/
def Mem.copyRange (m : Mem) (dst : Nat) (from_ : Mem) (src n : Nat) : Mem :=
  let mid := (from_.cells.filter (fun c => src ≤ c.1 ∧ c.1 < src + n)).map (fun c => (c.1 - src + dst, c.2))
  let pz := (from_.poison.filter (fun d => src ≤ 8 * d ∧ 8 * d + 8 ≤ src + n)).map (fun d => (8 * d - src + dst) / 8)
  ⟨m.cells.filter (fun c => c.1 < dst) ++ mid ++ m.cells.filter (fun c => dst + n ≤ c.1),
   pz.foldl (fun l d => insertRising d l) (m.poison.filter (fun d => 8 * d < dst ∨ dst + n < 8 * d + 8))⟩

/-- The number in `n` bytes at `a`, little-endian (R2). -/
def Mem.getLE (m : Mem) (a n : Nat) : Nat := leNat (m.getRange a n)

/-- Store a number in `n` bytes at `a`, little-endian (R2). -/
def Mem.putLE (m : Mem) (a n v : Nat) : Mem := m.putRange a (leBytes n v)

/-- The addresses rise strictly and no cell is what an unlisted address reads as. -/
def risingFrom : Nat → List Host.Cell → Bool
  | _, [] => true
  | lo, (k, v) :: t => decide (lo ≤ k) && decide (v ≠ Mem.unlisted) && risingFrom (k + 1) t

/-- The numbers rise strictly. -/
def risingNat : Nat → List Nat → Bool
  | _, [] => true
  | lo, k :: t => decide (lo ≤ k) && risingNat (k + 1) t

/-- The canonical form: addresses strictly rising, no entry equal to what an unlisted address reads as. -/
def Mem.wf (m : Mem) : Bool := risingFrom 0 m.cells && risingNat 0 m.poison

end Sys2Proof.Machine
end

