-- ==== Sys2Proof/Machine/State.lean ====
section
/-! DEFINITION. The state of one Fliveano C4 device: plain data holding every piece of state the spec gives it, and the
state right after reset. Units that have never been touched are absent from their map and stand at their reset value. -/

namespace Sys2Proof.Machine

/-! ## Messages and events -/

/-- A fabric message (R37): the header fields, the payload in 8-byte words with a mark for each poisoned one (R100), and
whether its GMAC tag checks (R87).
The payload is held in the clear: the encryption of R37 and R85 has no effect that an endpoint can observe (log entry 3).
`eseq` and `key` are no part of the message: what the hub root knows of it, the ESEQ of a request between devices and of the
request that a response answers (R27, R29), and the context whose key the sender encrypts it with, 0 for the monitor's (R37, R86;
log entry 136). -/
structure Msg where
  ddev    : Nat
  dep     : Nat
  sdev    : Nat
  sep     : Nat
  tc      : Nat
  mc      : Bool
  col     : Bool
  plen    : Nat
  rsv     : Nat
  tagid   : Nat
  op      : Nat
  mcmask  : Nat
  part    : Nat
  rsv2    : Nat
  mctr    : Nat
  payload : List Word
  poison  : Nat
  tagOk   : Bool
  eseq    : Nat
  key     : Nat
  deriving DecidableEq, Repr

/-- The message of zeros. -/
def Msg.zero : Msg := ⟨0, 0, 0, 0, 0, false, false, 0, 0, 0, 0, 0, 0, 0, 0, [], 0, true, 0, 0⟩

/-- One message inside a link flit with its end-to-end word (R29): ESEQ and CACK for TC0 and TC1 messages; `via` is the link
over which a relayed message came, plus 1, and 0 for a message of this device (R25). -/
structure LinkMsg where
  msg  : Msg
  e2e  : Option Word
  via  : Nat
  deriving DecidableEq, Repr

/-- A Fliveano flit (R23) or a Solder flit (R21): the header fields, the messages a data flit completes, the bytes 8–247
of a control flit as words, and whether the CRC checks. -/
structure Flit where
  lseq  : Nat
  lack  : Nat
  ackv  : Bool
  nak   : Bool
  stop  : Nat
  kind  : Nat
  rsv   : Nat
  msgs  : List LinkMsg
  words : List Word
  crcOk : Bool
  deriving DecidableEq, Repr

/-- The flit of zeros. -/
def Flit.zero : Flit := ⟨0, 0, false, false, 0, 0, 0, [], [], true⟩

/-- What a device event acts on: where it happens, further numbers, and a message or a flit. Which field an event reads
is said at its meaning. -/
structure Ev where
  at_   : Nat
  x     : Nat
  y     : Nat
  z     : Nat
  words : List Word
  msg   : Msg
  flit  : Flit
  deriving DecidableEq, Repr

/-- The event of zeros. -/
def Ev.zero : Ev := ⟨0, 0, 0, 0, [], Msg.zero, Flit.zero⟩

/-! ## The context of a core -/

/-- A handle register (R165): the index and the hidden generation. -/
structure Handle where
  index : BitVec 16
  gen   : BitVec 16
  deriving DecidableEq, Repr

/-- Where a deferred cause is delivered (R342). -/
inductive DPoint where
  | lfence | rfence
  deriving DecidableEq, Repr

/-- A pending deferred cause (R349), with the reason of R347. -/
structure Deferred where
  cause   : Nat
  eval    : Word
  point   : DPoint
  preason : Nat
  deriving DecidableEq, Repr

/-- A trap to be taken (R346): cause, EVAL, the class and the reason of R347. -/
structure TrapReq where
  cause   : Nat
  eval    : Word
  cls     : Nat
  preason : Nat
  epc     : Word
  deriving DecidableEq, Repr

/-- The repeat sequencer (R139, R140): the captured words, and where the replay stands. -/
structure RptFrame where
  need    : Nat
  words   : List IWord
  base    : Word
  passes  : Nat
  strides : Word
  pass    : Nat
  pos     : Nat
  active  : Bool
  deriving DecidableEq, Repr

/-- The region-signature checker (R105, R106). -/
structure SigState where
  live     : Bool
  opening  : Word
  expected : Nat
  crc      : Nat
  missed   : Option Word
  deriving DecidableEq, Repr

/-- What a context that is not ready waits for (R127, R269). -/
inductive Wait where
  | line (i d : Nat)
  | mutex (m : Nat)
  | barEvent (b g : Nat)
  | barObject (index : Nat) (g : Nat)
  | latticeEmpty
  | latticeRoom
  | lrow
  | writeRoom
  | remote (tag : Nat)
  | fetch (tag : Nat)
  | remoteIdle
  | remoteRoom
  | jobRoom (q : Nat)
  | job (q seq : Nat)
  | queueRoom (index : Nat)
  | queueMsg (index : Nat)
  | children
  | vcOpen (v : Nat)
  | transit (pmap : Nat)
  | pause
  | yielded
  | fill
  | supervisor
  | monitor
  | snapCopy
  | restart
  | homeRoom (slice : Nat)
  | translation (key : Nat)
  | fetchMap (key : Nat)
  | halted
  deriving DecidableEq, Repr

/-- The wait of `bar` or `sstep` after its effect (R269): for generation `g` of a barrier, then xd and the acquire. -/
structure BarWait where
  event : Bool
  which : Nat
  gen   : Nat
  xd    : Nat
  sstep : Bool
  deriving DecidableEq, Repr

/-- An answer from the network for a context (R38). -/
structure Reply where
  tag    : Nat
  op     : Nat
  words  : List Word
  poison : Nat
  deriving DecidableEq, Repr

/-! ## Accesses -/

/-- Where the bytes of an access live (R49): a tier 0 or 1 byte store address, a host IOVA, a peer page, or nowhere. -/
inductive Home where
  | mem (key : Nat)
  | host (iova : Nat)
  | peer (dev ctx hnd page off : Nat)
  | gone
  deriving DecidableEq, Repr

/-- An entry of an object table (R165), read from memory. -/
structure Ent where
  index  : Nat
  key    : Nat
  base   : Nat
  len    : Nat
  die    : Nat
  tier   : Nat
  mig    : Nat
  qv     : Bool
  qt     : Bool
  acct   : Nat
  fmt    : Nat
  cbslot : Nat
  gen    : Nat
  owner  : Nat
  rights : Nat
  binds  : Word
  pmap   : Nat
  poolh  : Nat
  npool  : Nat
  rsvBad : Bool
  deriving DecidableEq, Repr

/-- An access that passed R166: its entry, offset, and the homes of its bytes page by page. -/
structure Acc where
  ent   : Ent
  off   : Nat
  homes : List (Nat × Home)
  deriving DecidableEq, Repr

/-- One hardware context (R126, R214, R222, R345): its registers and its place. -/
structure Ctx where
  live       : Bool
  sup        : Bool
  pc         : Word
  regs       : Vector Word 32
  h          : Vector Handle 16
  fcsr       : Word
  scope      : Word
  cbsel      : Word
  wctl       : Word
  epc        : Word
  ecause     : Word
  eval       : Word
  estat      : Word
  tvec       : Word
  scratch    : Word
  rgnpc      : Word
  rgnskip    : Word
  instret    : Word
  lcount     : Nat
  rgnx       : Bool
  restarting : Bool
  rpt        : Option RptFrame
  sig        : SigState
  deferred   : List Deferred
  drops      : Nat
  wait       : Option Wait
  barWait    : Option BarWait
  trapPend   : Option TrapReq
  poisonKill : Bool
  starts     : List Nat
  startPos   : Nat
  delivered  : NMap Nat
  pauseCount : Nat
  pauseLeft  : Nat
  yieldPoint : Bool
  /-- its region was opened after a pre-emption request had reached the core: the region that the request found has ended (R138) -/
  preempt    : Bool
  replies    : List Reply
  cutDone    : Bool
  supSince   : Nat
  ibuf       : Option (Word × IWord)
  /-- an entry of a page map that the translation queue has read for the context and found refusing (R348): its address, the word -/
  mapRead    : Option (Nat × Word)
  /-- the leaf of the access in progress while the context waits in it (R172) -/
  onPath     : Option Nat
  /-- the access whose request to another device is not answered yet, as it passed its checks (R166, R262) -/
  access     : Option Acc
  /-- an invalidation has met the line that the access fetches: no stage keeps it (R169, R360) -/
  noFill     : Bool
  /-- word 0 of the descriptor of the queue of another device from which the context's `rdq` takes (R297) -/
  farDesc    : Option Word
  /-- the wait of a `bar` of the context's supervisor code, apart from that of its user level (R269, R346) -/
  supBar     : Option BarWait
  /-- the cycles at supervisor level since a pre-emption request, which its bound is extended by (R119) -/
  supSpent   : Nat
  deriving DecidableEq, Repr

/-! ## The core -/

/-- A line held in an L1 data cache or a virtual cache (R169, R171): the object address of the line divided by 128, the
home of its first byte, the VALID and DIRTY masks, the bytes, the poison mask of its 16 doublewords, and the L1 holders
recorded for it (clusters for a VC line). -/
structure CLine where
  la     : Nat
  home   : Nat
  valid  : Nat
  dirty  : Nat
  data   : List Byte
  poison : Nat
  holders : Nat
  deriving DecidableEq, Repr

/-- What an entry of the write queue will do (R252, R255, R266). -/
inductive WqKind where
  | store
  | nib (high : Bool) (v : Nat)
  | red (op : Nat) (size : Nat) (b : Word) (release : Bool) (scope : Nat)
  deriving DecidableEq, Repr

/-- One entry of a core's write queue (R252). -/
structure WqEntry where
  ctx    : Nat
  kind   : WqKind
  handle : Nat
  off    : Nat
  oaddr  : Nat
  home   : Home
  leaf   : Nat
  bytes  : List Byte
  sup    : Bool
  deriving DecidableEq, Repr

/-- An operation sent to another device, or to another network interface, and not yet answered (R27): `link` is the link it
was last sent on, once it has left (R30); `held` says that its sender keeps it back until an earlier request for the line has been
answered (R253, R422; log entry 137). -/
structure Remote where
  tag     : Nat
  core    : Nat
  ctx     : Nat
  load    : Bool
  handle  : Nat
  off     : Nat
  dev     : Nat
  eseq    : Nat
  atomic  : Bool
  msg     : Msg
  sent    : Nat
  retries : Nat
  link    : Option Nat
  held    : Bool
  deriving DecidableEq, Repr

/-- A range of an operand of `ssm` (R337): its entry, its offset, its length and its homes page by page. -/
structure Span where
  ent   : Ent
  off   : Nat
  len   : Nat
  homes : List (Nat × Home)
  deriving DecidableEq, Repr

/-- A lattice instruction in a queue with what it captured at entry (R150, R217, R306): the operand words, the mask, the
object with its homes page by page, the codebook slot, the saturate control and the window format; the cause its handle
check found (R314); how far it is; the flags and causes it will record at its completion (R310); the tiles it reads as they
were or the codebook slot it reads, the SSCB words, the ranges of the chunk that is granted, the CODE and DETAIL still to be
written (R341), the lines of other devices that have arrived and those asked for. -/
structure LEntry where
  instr   : Instr
  ctx     : Nat
  xs1     : Word
  xs2     : Word
  mask    : Nat
  index   : Nat
  base    : Nat
  off     : Nat
  leaf    : Nat
  homes   : List (Nat × Home)
  cbslot  : Nat
  sat     : Bool
  fmt     : Nat
  fault   : Option (Nat × Word)
  row     : Nat
  chunk   : Nat
  flags   : Nat
  bad     : Option Word
  causes  : List Deferred
  params  : List Word
  spans   : List Span
  poke    : Option (Nat × Nat)
  src     : Mem
  lines   : NMap (List Byte)
  asked   : List Nat
  finished : Bool
  seq     : Nat
  deriving DecidableEq, Repr

/-- An event line (R141, R142). -/
structure ELine where
  value : Nat
  pend  : Bool
  deriving DecidableEq, Repr

/-- An event-unit barrier (R141, R143): the arrivals of GEN by (core, context). -/
structure EBar where
  gen     : Nat
  need    : Nat
  arrived : List (Nat × Nat)
  deriving DecidableEq, Repr

/-- A mutex of the event unit (R141, R144): held, the owner, and the waiters in arrival order. -/
structure Mutex where
  held    : Bool
  gang    : Nat
  ctx     : Nat
  owner   : Nat
  waiters : List (Nat × Nat)
  deriving DecidableEq, Repr

/-- A weight-buffer slot descriptor (R158). The bytes of the slot stand in `State.slots`. -/
structure Slot where
  valid    : Bool
  fmt      : Nat
  krows    : Nat
  ctxid    : Nat
  handle   : Handle
  off      : Nat
  gen      : Nat
  codebook : Mem
  deriving DecidableEq, Repr

/-- What a member wrote at its last `sstep` (R104 step 4, R193), as it stood when the barrier was released: the contexts, the
lattice registers, line 31 and the event resources of the plan, the slots, the numbers of the copy jobs, local memory, the J
pages, how many rollbacks were made, and the barrier objects at which the gang has arrived since, each with its GEN and HAVE. -/
structure StepRecord where
  ctxs     : List Ctx
  lqst     : Word
  lweight  : Word
  lmem     : Mem
  objects  : List (Nat × Mem)
  rolls    : Nat
  line31   : ELine
  lines    : NMap ELine
  bars     : NMap EBar
  mutexes  : NMap Mutex
  slots    : NMap Slot
  jobSeq0  : Nat
  jobSeq1  : Nat
  barriers : List (Nat × Nat × Nat)
  deriving DecidableEq, Repr

/-- One scalar core with its lattice queue, frame cache, write queue and L1 (R126, R131, R150, R169, R252). -/
structure Core where
  ctxs     : Vector Ctx 11
  sregs    : Vector Word 32
  lqst     : Word
  lweight  : Word
  lq       : List LEntry
  inflight : List LEntry
  lseq     : Nat
  acc      : Int
  rfcnt    : Nat
  wq       : List WqEntry
  l1       : List CLine
  /-- the lines of the L1 instruction cache (R1, R93) -/
  l1i      : List CLine
  frames   : List (Nat × Bool)
  line31   : ELine
  task     : Nat
  inst     : Nat
  gangIdx  : Nat
  gangSize : Nat
  code     : Handle
  plan     : List Word
  ended    : Bool
  sstepn   : Nat
  sstepG   : Nat
  rollable : Bool
  stepRec  : Option StepRecord
  /-- the core has executed an `sstep` whose barrier is not released (R104) -/
  stepNew  : Bool
  jobSeq0  : Nat
  jobSeq1  : Nat
  snapGen  : Nat
  /-- the generation of the core's newest cut (R182); `snapGen` is the one whose colour its messages carry -/
  cutGen   : Nat
  snapPhase : Nat
  lastCtx  : Nat
  sent     : Nat
  recv     : Nat
  preempt  : Bool
  rollHalt : Bool
  /-- a rollback message has arrived and a context is at supervisor level (R421) -/
  rollAsk  : Bool
  debugHalt : Bool
  debugStep : Bool
  nextTag  : Nat
  cowLmem  : Mem
  cowGran  : List Nat
  /-- the CTXID whose contents local memory and the tiles hold (R89); 0 for none -/
  holder   : Nat
  deriving DecidableEq, Repr

/-! ## The cluster -/

/-- What a copy-unit job does (R163, R289, R291, R292); a COPY packet runs one for its queue (R67). -/
inductive JobKind where
  | copy
  | mcast (cores : Nat)
  | migrate (pmap : Nat)
  | join (mask : Nat) (upto : List Nat)
  | packet (queue idx : Nat)
  deriving DecidableEq, Repr

/-- A job of a copy-unit queue (R162, R163, R290): its record, how far it is, its fault, and the lines of other devices that have
come for its next piece, each with its poison mask in two bytes behind it. -/
structure Job where
  seq      : Nat
  ctxid    : Nat
  core     : Nat
  kind     : JobKind
  srch     : Handle
  srcoff   : Nat
  dsth     : Handle
  dstoff   : Nat
  scope    : Nat
  rows     : Nat
  len      : Nat
  sstride  : Nat
  dstride  : Nat
  started  : Bool
  pos      : Nat
  lines    : Nat
  tag      : Nat
  done     : Bool
  fault    : Nat
  faultH   : Nat
  reported : Bool
  got      : NMap (List Byte)
  deriving DecidableEq, Repr

/-- A delivery entry of a network interface (R404): the id, the cores of the cluster, DST, COUNT, and the lines that each
core has received. -/
structure Delivery where
  id    : Nat
  cores : Nat
  dst   : Nat
  count : Nat
  got   : List (Nat × Nat)
  deriving DecidableEq, Repr

/-- A join notice that a network interface holds (R405): the record's id, the joiner's id, the first joined line, and the
slice that sent it. -/
structure JoinNote where
  of_  : Nat
  by_  : Nat
  line : Nat
  src  : Nat
  deriving DecidableEq, Repr

/-- One cluster: event unit, lattice array, weight slots, copy unit and network interface (R147, R141, R162). -/
structure Cluster where
  lines     : NMap ELine
  bars      : NMap EBar
  mutexes   : NMap Mutex
  matrix    : Bool
  rewire    : Option (Nat × Nat)
  moveNext  : Nat
  /-- the queue whose turn it is at the copy unit (R164) -/
  jobNext   : Nat
  slots     : NMap Slot
  jobs      : NMap (List Job)
  deliv     : List Delivery
  joins     : List JoinNote
  held      : List Msg
  tcache    : NMap Word
  sent      : Nat
  recv      : Nat
  snapGen   : Nat
  deriving DecidableEq, Repr

/-! ## Virtual caches and homes -/

/-- A reshaping operation of a VC (R173, R174): the new size or the new parent. -/
inductive VcOp where
  | size (k : Nat)
  | parent (p : Nat)
  deriving DecidableEq, Repr

/-- The controller's state of a reshaping (R173, R174), and the hand-over to a queued operation (R399). -/
inductive VcPhase where
  | cut | evict | move | flush | forward | purge | reset | handover
  deriving DecidableEq, Repr

/-- A virtual cache of a context (R170, R171): size, placement, parent, lines (least recently used first) and the
operations of its controller (R175). -/
structure Vc where
  k       : Nat
  blocks  : Nat
  banks   : Nat
  parent  : Nat
  lines   : List CLine
  op      : Option (VcOp × VcPhase)
  queued  : Option VcOp
  replies : List Nat
  moved   : List Nat
  deriving DecidableEq, Repr

/-- A charge recorded with a page map (R56). -/
structure Charge where
  acct  : Nat
  tier  : Nat
  pages : Nat
  deriving DecidableEq, Repr

/-- A transit of an object between tiers (R57, R58): the destination pages by object page, the lines copied, the jobs
that complete with it, and those of the queued request. -/
structure Transit where
  toSlow  : Bool
  dest    : Nat
  copied  : Nat
  total   : Nat
  jobs    : List (Nat × Nat × Nat)
  qjobs   : List (Nat × Nat × Nat)
  deriving DecidableEq, Repr

/-- What the device records with a page map (R56, R57, R260): the context, the allocating handle, the charges and a
transit. -/
structure MapRec where
  ctxid   : Nat
  alloc   : Nat
  charges : List Charge
  sealed  : Bool
  base    : Nat
  npages  : Nat
  die     : Nat
  transit : Option Transit
  deriving DecidableEq, Repr

/-- An admitted context (R54, R67, R83). -/
structure Proc where
  part     : Nat
  proc     : Nat
  vf       : Nat
  weight   : Nat
  prot     : Bool
  resH     : Nat
  resC     : Nat
  usedH    : Nat
  usedC    : Nat
  otbase   : Nat
  otlen    : Nat
  acctbase : Nat
  cbbase   : Nat
  save     : Nat
  qfirst   : Nat
  qcount   : Nat
  vcs      : NMap Vc
  banks    : NMap Nat
  cmeas    : List Byte
  retired  : Bool
  nextObj  : Nat
  /-- the pages of tiers 0 and 1 that its objects have left, which its keys still open (R89) -/
  left     : List Nat
  deriving DecidableEq, Repr

/-- A request waiting at a home slice (R176, R177); `line` is that of the pending entry that a waiting TAKE holds (R38). -/
structure HomeReq where
  ep   : Nat
  msg  : Msg
  line : Nat
  deriving DecidableEq, Repr

/-- A pending entry of a home slice (R176): the line and the merged requests in arrival order. -/
structure HomeEntry where
  line : Nat
  reqs : List HomeReq
  deriving DecidableEq, Repr

/-- A live multicast record of a serving stage (R180, R405): its id, the VC when the stage is one, the lines not sent and
those sent, each by its index and its place (a home address, or an object address at a VC), the clusters its lines go to,
the joins applied, the lines that are owed an acknowledgement by (id, line, cluster), the reads to be answered by
(id, endpoint, tag), the ids that a poisoned line has gone to, and whether a line of another device is asked for. -/
structure McastRec where
  id     : Nat
  ctxid  : Nat
  handle : Nat
  vc     : Nat
  block  : Nat
  part   : Nat
  lines  : List (Nat × Nat)
  sent   : List (Nat × Nat)
  mask   : Nat
  joins  : Nat
  owed   : List (Nat × Nat × Nat)
  asks   : List (Nat × Nat × Nat)
  bad    : List Nat
  asking : Bool
  deriving DecidableEq, Repr

/-- One home slice (R176, R177, R363): pending entries, spilled requests, and the release node of each sync line. -/
structure Slice where
  entries : List HomeEntry
  spill   : List HomeReq
  takes   : List HomeReq
  records : List McastRec
  sent    : Nat
  recv    : Nat
  snapGen : Nat
  deriving DecidableEq, Repr

/-! ## Partitions, queues, tasks -/

/-- A command packet the device has taken (R65): its number in the ring, its words, and the task whose child it is (R114; 0
for a host's packet). -/
structure Packet where
  idx    : Nat
  words  : List Word
  parent : Nat
  /-- left over by a RESET of its queue: it completes with ABORTED and never starts (R63) -/
  aborted : Bool
  deriving DecidableEq, Repr

/-- A started packet that has not completed (R64, R69). -/
structure Running where
  pkt   : Packet
  task  : Nat
  since : Nat
  deriving DecidableEq, Repr

/-- A host hardware work queue (R59–R64). -/
structure HostQueue where
  tail      : Nat
  head      : Nat
  cplhead   : Nat
  cpltail   : Nat
  ecode     : Nat
  cfgrej    : Bool
  qstate    : Nat
  ringbase  : Nat
  ringcfg   : Nat
  cplbase   : Nat
  cplcfg    : Nat
  owner     : Nat
  waiting   : List Packet
  running   : List Running
  rsv       : Nat
  retiring  : Bool
  lastStart : Nat
  deriving DecidableEq, Repr

/-- A node of a task graph (R112, R113). -/
structure Node where
  code    : Nat
  entry   : Nat
  plan    : Nat
  cores   : List Nat
  slotw   : Nat
  count   : Nat
  argh    : Nat
  arg0    : Word
  arg1    : Word
  ins     : List (Nat × Nat)
  out     : Nat
  outGen  : Nat
  started : Nat
  done    : Nat
  finished : Bool
  deriving DecidableEq, Repr

/-- Where an instance stands (R110, R119, R120). -/
inductive InstState where
  | running | preempting | saved
  deriving DecidableEq, Repr

/-- An instance of a node (R109, R110): its number, its slot's cores, its images when saved, the time of a pre-emption request,
whether a donated slot is owed to it (R124), the instance that resumes on the slot it frees (R123, R124; 0 for none), the context
whose waiter donates to it, under whose slice it then runs (R124; 0 for none), and when it was saved (R121). -/
structure Inst where
  id      : Nat
  task    : Nat
  node    : Nat
  index   : Nat
  cores   : List Nat
  st      : InstState
  images  : List Nat
  reqTime : Nat
  donate  : Bool
  next    : Nat
  lender  : Nat
  savedAt : Nat
  deriving DecidableEq, Repr

/-- Who is told when a task's graph completes (R67, R114). -/
inductive TaskOwner where
  | packet (q idx : Nat)
  | none
  deriving DecidableEq, Repr

/-- A task: one LAUNCH or GRAPH (R109, R113, R114). -/
structure Task where
  id        : Nat
  ctxid     : Nat
  part      : Nat
  prio      : Nat
  owner     : TaskOwner
  nodes     : List Node
  children  : Nat
  childFault : Option Nat
  dead      : Option Nat
  stale     : Bool
  order     : Nat
  deriving DecidableEq, Repr

/-- One process of a function in the dispatcher (R116). -/
structure Process where
  vf     : Nat
  proc   : Nat
  weight : Nat
  pass   : Nat
  active : Bool
  deriving DecidableEq, Repr

/-- A hard partition with its dispatcher (R95, R96, R115, R116): its blocks and spine ports, the tier mappings fixed at its
creation, the processes, the function whose slice runs, its end, the slices that follow and the functions of the period; the pages given out and held;
the cores reserved for an item (R110), the item that a reservation puts before all others (R117), how often each has been
passed over; and the job it belongs to. -/
structure Part where
  blocks   : Nat
  ports    : Nat
  slices   : NMap (List Nat)
  chans    : List Nat
  procs    : List Process
  sliceVf  : Nat
  sliceEnd : Nat
  slicesLeft : List (Nat × Nat)
  inPeriod : List Nat
  nextH    : NMap Nat
  nextC    : Nat
  reserved : List (Nat × List Nat)
  focus    : Nat
  passed   : NMap Nat
  job      : Nat
  deriving DecidableEq, Repr

/-! ## Save images -/

/-- A core image of a save object (R352): what it holds. Its bytes stand in the object's memory as well, in the clear (R85, log
entry 3), and a resume takes from them what R352 lays out (log entry 130). -/
structure CoreImage where
  lmem     : Mem
  tiles    : Mem
  lqst     : Word
  lweight  : Word
  line31   : ELine
  gangIdx  : Nat
  sstepn   : Nat
  sstepG   : Nat
  stepRec  : Option StepRecord
  /-- the core has executed an `sstep` whose barrier is not released (R104) -/
  stepNew  : Bool
  rollable : Bool
  lines    : NMap ELine
  bars     : NMap EBar
  mutexes  : NMap Mutex
  jobs     : List (List Job)
  jobSeq0  : Nat
  jobSeq1  : Nat
  slots    : NMap Slot
  ctxs     : List Ctx
  code     : Handle
  plan     : List Word
  ended    : Bool
  deriving DecidableEq, Repr

/-! ## Snapshots -/

/-- A core's part of a snapshot (R186, R191): the core and its instance, whether its cut is complete, its local memory
and tiles, its other registers, and its cluster's event unit. -/
structure CoreCut where
  core   : Nat
  inst   : Nat
  taken  : Bool
  lmem   : Mem
  tiles  : Mem
  image  : CoreImage
  lines  : NMap ELine
  bars   : NMap EBar
  mutexes : NMap Mutex
  /-- the copy-on-write units written since, with the place of their copies in the store (R188): granule 0 to 255, tile 256 + t -/
  units  : List (Nat × Option Nat)
  deriving DecidableEq, Repr

/-- A page of a J object in a snapshot, with its offset in the store once it has one, its copy once it is made, and
whether the store holds it (R188, R191). -/
structure PageCut where
  ctxid  : Nat
  handle : Nat
  page   : Nat
  key    : Nat
  offset : Option Nat
  bytes  : Option Mem
  stored : Bool
  deriving DecidableEq, Repr

/-- An entry of a channel log (R191). -/
structure LogEntry where
  ctxid  : Nat
  queue  : Nat
  sender : Nat
  words  : List Word
  deriving DecidableEq, Repr

/-- The copy of a saved instance that the dispatcher makes at its cut (R186), and its place in the store once it is there. -/
structure SavedCut where
  inst   : Nat
  images : List CoreImage
  offset : Option Nat
  deriving DecidableEq, Repr

/-- A snapshot generation: in progress, sealed or failed (R185–R191): whether a unit of this device has taken its cut; the
records; the counts of every endpoint by its id, and the replies of the tree by node × 4,096 + child (R189); the totals of each
device; the partitions whose dispatcher has cut, with the tasks and the instances of that moment; the parts of the manifest
that other devices have sent, by half word, and the end of their pages in the store. -/
structure Snap where
  gen      : Nat
  prev     : Nat
  full     : Bool
  failed   : Nat
  sealed   : Bool
  began    : Bool
  cuts     : List CoreCut
  pages    : List PageCut
  log      : List LogEntry
  sent     : Nat
  counts   : NMap (Nat × Nat)
  tree     : NMap (Nat × Nat)
  replies  : NMap (Nat × Nat)
  manifest : Nat
  images   : List SavedCut
  dcuts    : List Nat
  tasks    : NMap Task
  insts    : NMap Inst
  others   : NMap (NMap Nat)
  extra    : Nat
  deriving DecidableEq, Repr

/-- A page of a J object of a job, and whether it was written since the last cut (R188, R192). -/
structure JPage where
  ctxid   : Nat
  handle  : Nat
  page    : Nat
  key     : Nat
  written : Bool
  deriving DecidableEq, Repr

/-- A job (R181) by the number of its object's home plus 1: the object and its owner, the initiator's sender word (device
and endpoint), its partitions and devices, its generations, newest first, and the pages that have been seen at a cut. -/
structure JobState where
  ctxid   : Nat
  handle  : Nat
  owner   : Nat
  home    : Nat
  parts   : Nat
  devmask : Nat
  snaps   : List Snap
  pages   : List JPage
  lastFail : Nat
  fullNext : Bool
  pollAt  : Nat
  waiters : List (Nat × Nat)
  /-- the `rollbk` that waits for every device: the context that issued it (core × 16 + context), the generation, and the
  devices still to reach step 6 (R301) -/
  roll    : Option (Nat × Nat × Nat)
  /-- a rollback that waits for saves in progress (R353): the generation, and the device that asked for it -/
  goal    : Option (Nat × Nat)
  deriving DecidableEq, Repr

/-! ## Links, switches -/

/-- A Fliveano link (R22–R26): the sequence numbers, the flits kept until acknowledged, and its counters; whether a flit has
been received (ACKV of R23), the stop bits that this device raises (R25), the flits that wait for room among the unacknowledged
ones (KIND, words, NAK), and since when it retrains. -/
structure Link where
  trained  : Bool
  down     : Bool
  sendSeq  : Nat
  recvSeq  : Nat
  unacked  : List Flit
  out      : List Flit
  naks     : Nat
  errors   : Nat
  errSince : Nat
  retrain  : Bool
  retrains : Nat
  failed   : Nat
  stop     : Nat
  rtt      : Nat
  echo     : Word
  waiting  : List LinkMsg
  until_   : Nat
  heard    : Bool
  raised   : Nat
  owed     : List (Nat × List Word × Bool)
  since    : Nat
  deriving DecidableEq, Repr

/-- A Solder interface (R21). -/
structure Solder where
  seq      : Nat
  fails    : Nat
  retrain  : Bool
  retrains : Nat
  absent   : Bool
  held     : List (Nat × Nat × Msg)
  until_   : Nat
  deriving DecidableEq, Repr

/-- One entry of the replay table of a source device (R28). -/
structure Replay where
  eseq   : Nat
  done   : Bool
  result : List Word
  deriving DecidableEq, Repr

/-- The end-to-end state toward one peer device (R27, R28). -/
structure Peer where
  nextEseq : Nat
  acked    : List Nat
  cack     : Nat
  replays  : NMap Replay
  owedAck  : Bool
  owedAt   : Nat
  deriving DecidableEq, Repr

/-- A message in a switch with what R45 counts for it. -/
structure Queued where
  msg   : Msg
  input : Nat
  outs  : List Nat
  age   : NMap Nat
  prom  : List Nat
  deriving DecidableEq, Repr

/-- One switch (R34, R39, R42, R44–R48): the input queues by input and class, the pointers, the markers it has seen. -/
structure Switch where
  queues  : NMap (List Queued)
  tie     : Nat
  ptr     : NMap Nat
  used    : NMap Nat
  tc3ptr  : NMap Nat
  weights : NMap Nat
  stops   : NMap Nat
  seen    : List (Nat × Nat)
  deriving DecidableEq, Repr

/-! ## The device, its monitor and its host side -/

/-- The phase of the device (R17, R78). -/
inductive Phase where
  | off | running | minimal
  deriving DecidableEq, Repr

/-- A fault-log record (R70 section 4, R91). -/
structure FaultRec where
  cause : Nat
  cls   : Nat
  core  : Nat
  ctxid : Nat
  eval  : Word
  deriving DecidableEq, Repr

/-- An entry of the audit ring (R91). -/
structure Audit where
  seq   : Nat
  time  : Nat
  code  : Nat
  arg0  : Word
  arg1  : Word
  deriving DecidableEq, Repr

/-- A loaded policy image (R75) and its version. -/
structure Policy where
  version : Nat
  image   : List Byte
  deriving DecidableEq, Repr

/-- The Pewter monitor and the security engine (R71–R94). -/
structure Monitor where
  version    : Nat
  staged     : Option (Nat × List Byte)
  tabver     : Nat
  roles      : NMap Nat
  faults     : List FaultRec
  audit      : List Audit
  auditSeq   : Nat
  auditLost  : Nat
  meas       : NMap (List Byte)
  measLog    : List (Nat × Nat × List Byte)
  reportKey  : List Byte
  cert       : List Byte
  policies   : List Policy
  pins       : NMap Nat
  /-- the functions repinned since their last period began (R75) -/
  repinned   : List Nat
  policyNow  : NMap Nat
  policyBad  : List Nat
  firewalls  : NMap Nat
  /-- PMASK of each column cluster (R73) -/
  pmasks     : NMap Nat
  telidx     : NMap Nat
  counters   : NMap Nat
  inbox      : List Msg
  flushes    : List Ev
  jobDomain  : List Byte
  debugOpen  : Nat
  debugArm   : Bool
  debugNonce : List Byte
  /-- whether no token has used the nonce (R94 step 2) -/
  nonceFresh : Bool
  debugOut   : List Word
  /-- the key of each context, and at 65,536 that of the monitor's messages (R81) -/
  keys       : NMap (List Byte)
  /-- the XTS key pair of each context, and at 65,536 the monitor's (R81, R88) -/
  xtsKeys    : NMap (List Byte × List Byte)
  /-- the two generations of each context's key: CTXID × 2 + parity (R86) -/
  genKeys    : NMap (List Byte)
  /-- the newest key generation that every network interface of a partition holds, 1 where none is listed (R86) -/
  keygen     : NMap Nat
  deriving DecidableEq, Repr

/-- The boot and presence state (R17–R19, R78). -/
structure Boot where
  phase     : Phase
  step      : Nat
  reason    : Nat
  fails     : Nat
  lifecycle : Nat
  fuseSeed  : List Byte
  fuseRows  : NMap Word
  blocks    : Nat
  hbm       : Nat
  cap       : Nat
  links     : Nat
  cxl       : Bool
  /-- the 64 KiB pages of each capacity channel that the CXL.mem window takes (R33) -/
  window    : List Nat
  flash     : Mem
  /-- spines (0 to 63) and the hub root (64) that are out of service (R19, R101) -/
  shut      : List Nat
  deriving DecidableEq, Repr

/-- The host's side of the device (R32, R33, R52, R69, R90): messages to the host in order, TDI states, the line that CXL.mem read last,
the IOVA pages that the host refuses, and the register that a function read last. -/
structure HostSide where
  msix    : List (Nat × Nat)
  tdi     : NMap Nat
  cxlRead : List Word
  denied  : List Nat
  regRead : Word
  deriving DecidableEq, Repr

/-! ## The whole state -/

/-- The state of the device. -/
structure State where
  /-- tier 0 and tier 1 memory of every partition -/
  mem     : Mem
  /-- host memory by IOVA (tier 2, the rings, the records) -/
  host    : Mem
  /-- local memory: core × 2^18 + byte (R167) -/
  lmem    : Mem
  /-- tiles: ((core × 8 + tile) × 128 + row) × 512 + byte (R147) -/
  tiles   : Mem
  /-- weight-buffer bytes: (cluster × 16 + slot) × 2^17 + byte (R158) -/
  slots   : Mem
  /-- cores by package-wide number -/
  cores   : NMap Core
  /-- clusters by package-wide number -/
  clusters : NMap Cluster
  /-- admitted contexts by CTXID -/
  procs   : NMap Proc
  /-- the device's record of each page map, by its address in `mem` -/
  maps    : NMap MapRec
  /-- release node of each sync line, by line (R363) -/
  sync    : NMap Nat
  /-- home slices by package-wide number -/
  slices  : NMap Slice
  /-- the home slice of each host page that has been mapped, by its IOVA divided by 65,536 (R49) -/
  hostHomes : NMap Nat
  /-- the pages that a migration has left, by address, and where their contents stand (R58) -/
  moved   : NMap Nat
  /-- the sender word of the message in each mailbox slot, by the slot's home (R296) -/
  senders : NMap Nat
  /-- hard partitions by number -/
  parts   : NMap Part
  queues  : NMap HostQueue
  tasks   : NMap Task
  insts   : NMap Inst
  images  : NMap CoreImage
  jobs    : NMap JobState
  links   : NMap Link
  solders : NMap Solder
  peers   : NMap Peer
  routes  : NMap Nat
  switches : NMap Switch
  owners  : NMap Nat
  remotes : List Remote
  net     : List Msg
  mctrs   : NMap Nat
  tqueue  : List (Nat × Nat)
  devId   : Nat
  hot     : Nat
  capped  : Bool
  boot    : Boot
  mon     : Monitor
  hostSide : HostSide
  nextTask : Nat
  nextInst : Nat
  nextCtx : Nat
  nextPkt : Nat
  /-- fabric cycles since device reset (R4, R223) -/
  clk     : Nat
  /-- the model's own counter of steps (log entry 7) -/
  stepNo  : Nat
  /-- the model's own counter of free values (log entry 6) -/
  freeNo  : Nat
  /-- the context that issues (core, context); `exec` of an instruction word acts on it (log entry 1) -/
  cur     : Nat × Nat
  /-- the event that is present; `exec` of an event acts on it (log entry 1) -/
  ev      : Ev
  /-- events that are due, in order (log entry 1) -/
  agenda  : List (Instr × Ev)
  /-- whether the next step is an engine's (log entry 1) -/
  engineTurn : Bool
  /-- where the engines' round robin stands (log entry 1) -/
  engineNext : Nat
  /-- the core that issued last (log entry 1) -/
  lastCore : Nat
  /-- the colour of the message whose write is in progress; none for a write that no message makes (R183, R184; log entry 1) -/
  colour  : Option Bool
  deriving DecidableEq, Repr

/-- Why the machine stops with a fault. Every meaning of this model answers a next state: the spec gives each instruction
and each event an effect, a trap or a wait. No path raises this one; it is safe, since a stop proves nothing false. -/
inductive Fault where
  /-- Raised by nothing; it stands for a machine check that the spec does not describe. Safe. -/
  | machineCheck
  deriving DecidableEq, Repr

/-- Why the machine has no meaning for an instruction. -/
inductive Refusal where
  /-- An instruction that is not modelled, raised by an arm of `exec` only. Safe: the machine stops. -/
  | notModelled (mnemonic : String)
  deriving DecidableEq, Repr

/-! ## Units as they stand before their first use -/

/-- The handle register of reset: h0, and the null handle of the others (R214; log entry 4). -/
def Handle.zero : Handle := ⟨0, 0⟩

/-- The signature checker with no block open (R106). -/
def SigState.idle : SigState := ⟨false, 0, 0, 0xFFFF, none⟩

/-- A context that is not live: registers 0, SCOPE 0x02 (R67, R126, R223). -/
def Ctx.zero : Ctx :=
  { live := false, sup := false, pc := 0, regs := Vector.replicate 32 0, h := Vector.replicate 16 Handle.zero, fcsr := 0,
    scope := 2, cbsel := 0, wctl := 0, epc := 0, ecause := 0, eval := 0, estat := 0, tvec := 0, scratch := 0, rgnpc := 0,
    rgnskip := 0, instret := 0, lcount := 0, rgnx := false, restarting := false, rpt := none, sig := SigState.idle,
    deferred := [], drops := 0, wait := none, barWait := none, trapPend := none, poisonKill := false, starts := [],
    startPos := 0, delivered := [], pauseCount := 0, pauseLeft := 0, yieldPoint := false, preempt := false, replies := [],
    cutDone := false, supSince := 0, ibuf := none, mapRead := none, onPath := none, access := none,
    noFill := false, farDesc := none, supBar := none, supSpent := 0 }

/-- An event line at reset (R141). -/
def ELine.zero : ELine := ⟨0, false⟩

/-- A core with no task: LWEIGHT 0xF8, LQST 0 (R153, R155). -/
def Core.idle : Core :=
  { ctxs := Vector.replicate 11 Ctx.zero, sregs := Vector.replicate 32 0, lqst := 0, lweight := 0xF8, lq := [],
    inflight := [], lseq := 0, acc := 0, rfcnt := 0, wq := [], l1 := [], l1i := [], frames := [], line31 := ELine.zero, task := 0,
    inst := 0, gangIdx := 0, gangSize := 0, code := Handle.zero, plan := [], ended := false, sstepn := 0, sstepG := 0,
    rollable := true, stepRec := none, stepNew := false, jobSeq0 := 1, jobSeq1 := 1, snapGen := 0, cutGen := 0, snapPhase := 0,
    lastCtx := 10, sent := 0, recv := 0, preempt := false, rollHalt := false, rollAsk := false, debugHalt := false, debugStep := false,
    nextTag := 0, cowLmem := Mem.empty, cowGran := [], holder := 0 }

/-- A barrier of the event unit at reset (R141). -/
def EBar.zero : EBar := ⟨0, 0, []⟩

/-- A mutex at reset (R141). -/
def Mutex.zero : Mutex := ⟨false, 0, 0, 0, []⟩

/-- A weight slot at reset: not valid (R158). -/
def Slot.zero : Slot := ⟨false, 0, 0, 0, Handle.zero, 0, 0, Mem.empty⟩

/-- A cluster at reset: vector wiring, empty queues. -/
def Cluster.zero : Cluster :=
  { lines := [], bars := [], mutexes := [], matrix := false, rewire := none, moveNext := 0, jobNext := 0, slots := [],
    jobs := [], deliv := [], joins := [], held := [], tcache := [], sent := 0,
    recv := 0, snapGen := 0 }

/-- A home slice at reset: no entry, nothing spilled (R17 step 5). -/
def Slice.zero : Slice := ⟨[], [], [], [], 0, 0, 0⟩

/-- A host queue at reset: DISABLED, every register 0 (R60). -/
def HostQueue.zero : HostQueue := ⟨0, 0, 0, 0, 0, false, 0, 0, 0, 0, 0, 0, [], [], 0, false, 0⟩

/-- A link at reset: not trained (R17 step 6). -/
def Link.zero : Link :=
  ⟨false, false, 0, 0, [], [], 0, 0, 0, false, 0, 0, 0, 0, 0, [], 0, false, 0, [], 0⟩

/-- A Solder interface at reset. -/
def Solder.zero : Solder := ⟨0, 0, false, 0, false, [], 0⟩

/-- A peer device before the first request (R27, R28). -/
def Peer.zero : Peer := ⟨0, [], 0, [], false, 0⟩

/-- A switch at reset: empty queues (R17 step 5). -/
def Switch.zero : Switch := ⟨[], 0, [], [], [], [], [], []⟩

/-- The monitor before start-up. -/
def Monitor.zero : Monitor :=
  { version := 0, staged := none, tabver := 0, roles := [], faults := [], audit := [], auditSeq := 0, auditLost := 0,
    meas := [], measLog := [], reportKey := [], cert := [], policies := [], pins := [], repinned := [], policyNow := [],
    policyBad := [], firewalls := [], pmasks := [], telidx := [], counters := [], inbox := [], flushes := [], jobDomain := [],
    debugOpen := 0, debugArm := false, debugNonce := List.replicate 32 0, nonceFresh := false, debugOut := [], keys := [],
    xtsKeys := [], genKeys := [], keygen := [] }

/-- The boot state before start-up: every unit present (R1, R10; the fuses are the part's own, log entry 4). -/
def Boot.zero : Boot :=
  { phase := .off, step := 0, reason := 0, fails := 0, lifecycle := 0, fuseSeed := List.replicate 32 0,
    fuseRows := [], blocks := 2 ^ 32 - 1, hbm := 2 ^ 256 - 1, cap := 2 ^ 128 - 1, links := 2 ^ 16 - 1, cxl := false, window := [],
    flash := Mem.empty, shut := [] }

/-- The host side at reset: every TDI in CONFIG_UNLOCKED (R32). -/
def HostSide.zero : HostSide := ⟨[], [], [], [], 0⟩

/-- The machine right after reset is released, before the first step: power is good, nothing has started, and the
start-up sequence (R17) is the event that is due. -/
def State.reset : State :=
  { mem := Mem.empty, host := Mem.empty, lmem := Mem.empty, tiles := Mem.empty, slots := Mem.empty, cores := [],
    clusters := [], procs := [], maps := [], sync := [], slices := [], hostHomes := [], moved := [], senders := [], parts := [], queues := [], tasks := [],
    insts := [], images := [], jobs := [], links := [], solders := [], peers := [], routes := [], switches := [], owners := [],
    remotes := [], net := [], mctrs := [], tqueue := [], devId := 0, hot := 0, capped := false, boot := Boot.zero,
    mon := Monitor.zero, hostSide := HostSide.zero, nextTask := 1, nextInst := 1, nextCtx := 1, nextPkt := 1, clk := 0, stepNo := 0,
    freeNo := 0, cur := (0, 0), ev := Ev.zero, agenda := [(.deviceStart, Ev.zero)], engineTurn := false,
    engineNext := 0, lastCore := 0, colour := none }

end Sys2Proof.Machine
end

