-- ==== Sys2Proof/Machine/Cause.lean ====
section
/-! DEFINITION. The cause codes of R343. -/

namespace Sys2Proof.Machine.Cause

/-- R343: ILL_ZERO. -/
abbrev illZero : Nat := 0x00
/-- R343: ILL_ONES. -/
abbrev illOnes : Nat := 0x01
/-- R343: ILL_OP. -/
abbrev illOp : Nat := 0x02
/-- R343: ILL_FN. -/
abbrev illFn : Nat := 0x03
/-- R343: ILL_RSV. -/
abbrev illRsv : Nat := 0x04
/-- R343: ILL_PRIV. -/
abbrev illPriv : Nat := 0x05
/-- R343: ILL_FRAME. -/
abbrev illFrame : Nat := 0x06
/-- R343: ILL_REG. -/
abbrev illReg : Nat := 0x07
/-- R343: ILL_MODE. -/
abbrev illMode : Nat := 0x08
/-- R343: FUSE_STACK. -/
abbrev fuseStack : Nat := 0x09
/-- R343: RPT_NEST. -/
abbrev rptNest : Nat := 0x0A
/-- R343: EXEC_POOL. -/
abbrev execPool : Nat := 0x0B
/-- R343: FETCH_BOUND. -/
abbrev fetchBound : Nat := 0x0C
/-- R343: FETCH_ALIGN. -/
abbrev fetchAlign : Nat := 0x0D
/-- R343: SIG_MISMATCH. -/
abbrev sigMismatch : Nat := 0x0E
/-- R343: BRK. -/
abbrev brk : Nat := 0x0F
/-- R343: H_INVALID. -/
abbrev hInvalid : Nat := 0x10
/-- R343: H_STALE. -/
abbrev hStale : Nat := 0x11
/-- R343: H_RIGHT_R. -/
abbrev hRightR : Nat := 0x12
/-- R343: H_RIGHT_W. -/
abbrev hRightW : Nat := 0x13
/-- R343: H_RIGHT_X. -/
abbrev hRightX : Nat := 0x14
/-- R343: H_RIGHT_A. -/
abbrev hRightA : Nat := 0x15
/-- R343: H_RIGHT_S. -/
abbrev hRightS : Nat := 0x16
/-- R343: H_BOUND. -/
abbrev hBound : Nat := 0x17
/-- R343: H_ALIGN. -/
abbrev hAlign : Nat := 0x18
/-- R343: ATOMIC_ALIGN. -/
abbrev atomicAlign : Nat := 0x19
/-- R343: WINDOW_SCALAR. -/
abbrev windowScalar : Nat := 0x1A
/-- R343: SYNC_STORE. -/
abbrev syncStore : Nat := 0x1B
/-- R343: H_WX. -/
abbrev hWx : Nat := 0x1C
/-- R343: QUOTA. -/
abbrev quota : Nat := 0x1D
/-- R343: OBJ_FULL. -/
abbrev objFull : Nat := 0x1E
/-- R343: TIER_UNAVAIL. -/
abbrev tierUnavail : Nat := 0x1F
/-- R343: PAGE_MISS. -/
abbrev pageMiss : Nat := 0x20
/-- R343: PAGE_PROT. -/
abbrev pageProt : Nat := 0x21
/-- R343: SCOPE_VIOLATION. -/
abbrev scopeViolation : Nat := 0x22
/-- R343: VC_UNDEF. -/
abbrev vcUndef : Nat := 0x23
/-- R343: VC_BUSY. -/
abbrev vcBusy : Nat := 0x24
/-- R343: VC_RANGE. -/
abbrev vcRange : Nat := 0x25
/-- R343: VC_CYCLE. -/
abbrev vcCycle : Nat := 0x26
/-- R343: VC_DEPTH. -/
abbrev vcDepth : Nat := 0x27
/-- R343: REMOTE_FAIL. -/
abbrev remoteFail : Nat := 0x28
/-- R343: UNCORR_DATA. -/
abbrev uncorrData : Nat := 0x29
/-- R343: SPILL_EXHAUSTED. -/
abbrev spillExhausted : Nat := 0x2A
/-- R343: ATOMIC_LOST. -/
abbrev atomicLost : Nat := 0x2B
/-- R343: LINK_DOWN. -/
abbrev linkDown : Nat := 0x2C
/-- R343: MCAST_MASK. -/
abbrev mcastMask : Nat := 0x2D
/-- R343: DEADLOCK_SELF. -/
abbrev deadlockSelf : Nat := 0x30
/-- R343: MUTEX_OWNER. -/
abbrev mutexOwner : Nat := 0x31
/-- R343: BAR_STALE. -/
abbrev barStale : Nat := 0x32
/-- R343: BAR_OVERRUN. -/
abbrev barOverrun : Nat := 0x33
/-- R343: Q_TYPE. -/
abbrev qType : Nat := 0x34
/-- R343: Q_CLOSED. -/
abbrev qClosed : Nat := 0x35
/-- R343: JOB_ID. -/
abbrev jobId : Nat := 0x36
/-- R343: JOB_FAULT. -/
abbrev jobFault : Nat := 0x37
/-- R343: CP_RECORD. -/
abbrev cpRecord : Nat := 0x38
/-- R343: CP_JOIN. -/
abbrev cpJoin : Nat := 0x39
/-- R343: SSM_PARAM. -/
abbrev ssmParam : Nat := 0x3A
/-- R343: SSM_FORM. -/
abbrev ssmForm : Nat := 0x3B
/-- R343: MMA_SHAPE. -/
abbrev mmaShape : Nat := 0x3C
/-- R343: WB_SLOT. -/
abbrev wbSlot : Nat := 0x3D
/-- R343: RDQ_TYPE. -/
abbrev rdqType : Nat := 0x3E
/-- R343: FP_NV. -/
abbrev fpNv : Nat := 0x40
/-- R343: FP_DZ. -/
abbrev fpDz : Nat := 0x41
/-- R343: FP_OF. -/
abbrev fpOf : Nat := 0x42
/-- R343: FP_UF. -/
abbrev fpUf : Nat := 0x43
/-- R343: FP_NX. -/
abbrev fpNx : Nat := 0x44
/-- R343: INT_DIVZERO. -/
abbrev intDivzero : Nat := 0x45
/-- R343: CVT_RANGE. -/
abbrev cvtRange : Nat := 0x46
/-- R343: LANE_FLAGS. -/
abbrev laneFlags : Nat := 0x47
/-- R343: SYSCALL. -/
abbrev syscall : Nat := 0x50
/-- R343: PREEMPTED. -/
abbrev preempted : Nat := 0x51
/-- R343: SLICE_END. -/
abbrev sliceEnd : Nat := 0x52
/-- R343: HELPER_LIMIT. -/
abbrev helperLimit : Nat := 0x53
/-- R343: HELPER_FAULT. -/
abbrev helperFault : Nat := 0x54
/-- R343: HELPER_ORPHAN. -/
abbrev helperOrphan : Nat := 0x55
/-- R343: ROLLBACK_RESUME. -/
abbrev rollbackResume : Nat := 0x56
/-- R343: SSTEP_ROLLBACK. -/
abbrev sstepRollback : Nat := 0x57
/-- R343: SNAP_NOTICE. -/
abbrev snapNotice : Nat := 0x58
/-- R343: DEBUG_HALT. -/
abbrev debugHalt : Nat := 0x59
/-- R343: WATCHDOG. -/
abbrev watchdog : Nat := 0x5A
/-- R343: CSR_UNDEF. -/
abbrev csrUndef : Nat := 0x5B
/-- R343: CSR_RO. -/
abbrev csrRo : Nat := 0x5C
/-- R343: SEAL_FAIL. -/
abbrev sealFail : Nat := 0x5D
/-- R343: ERET_STATE. -/
abbrev eretState : Nat := 0x5E
/-- R343: YIELD_FORCED. -/
abbrev yieldForced : Nat := 0x5F
/-- R343: ECC_CORRECTED. -/
abbrev eccCorrected : Nat := 0x60
/-- R343: ECC_UNCORR_META. -/
abbrev eccUncorrMeta : Nat := 0x61
/-- R343: LINK_CRC. -/
abbrev linkCrc : Nat := 0x62
/-- R343: LINK_RETRAIN. -/
abbrev linkRetrain : Nat := 0x63
/-- R343: D2D_RETRAIN. -/
abbrev d2dRetrain : Nat := 0x64
/-- R343: THERMAL_WARN. -/
abbrev thermalWarn : Nat := 0x65
/-- R343: THERMAL_TRIP. -/
abbrev thermalTrip : Nat := 0x66
/-- R343: POWER_CAP. -/
abbrev powerCap : Nat := 0x67
/-- R343: PARTITION_RESET. -/
abbrev partitionReset : Nat := 0x68
/-- R343: NEIGHBOUR_STALL. -/
abbrev neighbourStall : Nat := 0x69
/-- R343: FW_ASSERT. -/
abbrev fwAssert : Nat := 0x6A
/-- R343: FW_UPDATE. -/
abbrev fwUpdate : Nat := 0x6B
/-- R343: AUDIT_OVERFLOW. -/
abbrev auditOverflow : Nat := 0x6C
/-- R343: CLOCK_FAULT. -/
abbrev clockFault : Nat := 0x6D
/-- R343: HOME_OVERLOAD. -/
abbrev homeOverload : Nat := 0x6E
/-- R343: TIER_DEGRADED. -/
abbrev tierDegraded : Nat := 0x6F

end Sys2Proof.Machine.Cause
end

