-- ==== Sys2Proof/Machine/Ops.lean ====
section
/-! DEFINITION. The operations every meaning is written in: reading and writing registers, retiring, regions, the
signature checker, waiting, and taking an exception (R346) with the return beside it. -/

namespace Sys2Proof.Machine

/-- Why an instruction does not retire in this step: it raises a cause (with EVAL, class and the reason of R347), it waits
(R127, R269), or its region restarts (R106). -/
inductive Stop where
  | trap (cause : Nat) (eval : Word) (cls : Nat) (preason : Nat)
  | wait (w : Wait)
  | restart
  deriving DecidableEq, Repr

/-- What a step answers. -/
abbrev Outcome := Host.Outcome State Fault Refusal

/-- A computation on the state that may stop. -/
abbrev M := EStateM Stop State

/-! ## Units of the state -/

/-- Core `c`. -/
def State.core (s : State) (c : Nat) : Core := s.cores.get c Core.idle

/-- The state with core `c` replaced. -/
def State.setCore (s : State) (c : Nat) (k : Core) : State := { s with cores := s.cores.put c k }

/-- Change core `c`. -/
def State.modCore (s : State) (c : Nat) (f : Core → Core) : State := s.setCore c (f (s.core c))

/-- Cluster `k`. -/
def State.cluster (s : State) (k : Nat) : Cluster := s.clusters.get k Cluster.zero

/-- Change cluster `k`. -/
def State.modCluster (s : State) (k : Nat) (f : Cluster → Cluster) : State :=
  { s with clusters := s.clusters.put k (f (s.cluster k)) }

/-- Context `i` of a core. -/
def Core.ctx (k : Core) (i : Nat) : Ctx := (k.ctxs[i]?).getD Ctx.zero

/-- A core with context `i` replaced. -/
def Core.setCtx (k : Core) (i : Nat) (x : Ctx) : Core := { k with ctxs := k.ctxs.setIfInBounds i x }

/-- Context `i` of core `c`. -/
def State.ctx (s : State) (c i : Nat) : Ctx := (s.core c).ctx i

/-- The state with context `i` of core `c` replaced. -/
def State.setCtx (s : State) (c i : Nat) (x : Ctx) : State := s.modCore c (fun k => k.setCtx i x)

/-- Change context `i` of core `c`. -/
def State.modCtx (s : State) (c i : Nat) (f : Ctx → Ctx) : State := s.setCtx c i (f (s.ctx c i))

/-- The core that issues. -/
def State.curCore (s : State) : Core := s.core s.cur.1

/-- The context that issues. -/
def State.curCtx (s : State) : Ctx := s.ctx s.cur.1 s.cur.2

/-- Change the core that issues. -/
def State.modCurCore (s : State) (f : Core → Core) : State := s.modCore s.cur.1 f

/-- Change the context that issues. -/
def State.modCur (s : State) (f : Ctx → Ctx) : State := s.modCtx s.cur.1 s.cur.2 f

/-- The cluster of the core that issues. -/
def State.curCluster (s : State) : Nat := s.cur.1 / 8

/-- An admitted context. -/
def State.proc? (s : State) (ctxid : Nat) : Option Proc := s.procs.look ctxid

/-- The task of core `c`. -/
def State.taskOf (s : State) (c : Nat) : Option Task := s.tasks.look (s.core c).task

/-- The CTXID a core runs for (R223). -/
def State.ctxidOf (s : State) (c : Nat) : Nat := match s.taskOf c with
  | some t => t.ctxid
  | none => 0

/-- Home slice `n`. -/
def State.slice (s : State) (n : Nat) : Slice := s.slices.get n Slice.zero

/-- Change home slice `n`. -/
def State.modSlice (s : State) (n : Nat) (f : Slice → Slice) : State := { s with slices := s.slices.put n (f (s.slice n)) }

/-- Host queue `q`. -/
def State.queue (s : State) (q : Nat) : HostQueue := s.queues.get q HostQueue.zero

/-- Change host queue `q`. -/
def State.modQueue (s : State) (q : Nat) (f : HostQueue → HostQueue) : State :=
  { s with queues := s.queues.put q (f (s.queue q)) }

/-! ## Where things lie in memory -/

/-- A byte of tier `t` of a partition; tier 0 has one address space a die (R50; log entry 9). -/
def memKey (part tier die addr : Nat) : Nat := ((part * 4 + tier) * 4 + die) * 2 ^ 56 + addr

/-- A partition by number. -/
def State.part (s : State) (p : Nat) : Part :=
  s.parts.get p
    { blocks := 0, ports := 0, slices := [], chans := [], procs := [], sliceVf := 0, sliceEnd := 0,
      slicesLeft := [], inPeriod := [], nextH := [], nextC := 0, reserved := [], focus := 0, passed := [], job := 0 }

/-- Change a partition. -/
def State.modPart (s : State) (p : Nat) (f : Part → Part) : State := { s with parts := s.parts.put p (f (s.part p)) }

/-- The die whose tier-0 space holds the tables of a partition's contexts: the lowest with a home slice (log entry 9). -/
def Part.tableDie (p : Part) : Nat :=
  match p.slices.filter (fun d => !d.2.isEmpty) with
  | [] => 0
  | d :: _ => d.1

/-- A tier-0 address of a table (OTBASE, PMAP, ACCTBASE, CBBASE) as a byte of memory. -/
def State.tableKey (s : State) (part addr : Nat) : Nat := memKey part 0 (s.part part).tableDie addr

/-! ## Home slices (R50, R51, R107) -/

/-- The partition, tier, die and tier address of a byte of memory. -/
def keyParts (key : Nat) : Nat × Nat × Nat × Nat :=
  (key / 2 ^ 56 / 16, key / 2 ^ 56 / 4 % 4, key / 2 ^ 56 % 4, key % 2 ^ 56)

/-- R50, R51: the package-wide home slice of a byte of tier 0 or 1. -/
def State.sliceOf (s : State) (key : Nat) : Option Nat :=
  let (p, t, d, a) := keyParts key
  if t = 0 then
    let l := (s.part p).slices.get d []
    if l.isEmpty then none else l[a / 128 % l.length]?
  else
    let n := (s.part p).chans
    if n.isEmpty then none
    else match n[a / 4096 % n.length]? with
      | some ch => some (ch / 4 * 8 + 2 * (ch % 4) + a / 128 % 2)
      | none => none

/-- R50, R51, R107: whether the slice and the channel of a line are still in service. -/
def State.inService (s : State) (key : Nat) : Bool :=
  let (p, t, _, a) := keyParts key
  match s.sliceOf key with
  | none => false
  | some n =>
    s.boot.blocks.testBit (n / 8) &&
      (if t = 0 then s.boot.hbm.testBit n
       else match (s.part p).chans[a / 4096 % (s.part p).chans.length]? with
         | some ch => s.boot.cap.testBit ch
         | none => false)

/-- Whether a byte range that the device reads of its own tables is lost or carries poison (R50, R100, R107). -/
def State.tableLost (s : State) (key n : Nat) : Bool := !s.inService key || s.mem.poisoned key n

/-- Add an event to those that are due. -/
def State.post (s : State) (i : Instr) (e : Ev) : State := { s with agenda := s.agenda ++ [(i, e)] }

/-- A free value (log entry 6), with the counter it is drawn from advanced. -/
def State.free (s : State) : Word × State := (Config.freeValue s.freeNo, { s with freeNo := s.freeNo + 1 })

/-- Core cycles since device reset (R4, R13). -/
def State.cycle (s : State) : Nat := s.clk / 2

/-- Fabric cycles in 1 ms (R4: 1.88 GHz). -/
def msCycles : Nat := 1880000

/-- R223 TIME: 10 ns at each edge of the 100 MHz reference; 18.8 fabric cycles an edge. -/
def State.time (s : State) : Nat := 10 * (s.clk * 5 / 94)

/-- A context in `pause` wakes (R276): the cycles since its issue count toward R123, and at 4,096 it becomes a yield
point. -/
def State.wakeCtx (s : State) (c i : Nat) : State :=
  let x := s.ctx c i
  if x.wait = some .pause then
    let n := x.pauseCount + (s.cycle - x.pauseLeft)
    let now := decide (4096 ≤ n) && !x.yieldPoint
    let s := s.setCtx c i { x with wait := none, pauseCount := n, yieldPoint := x.yieldPoint || now }
    if now then s.post .yieldPoint { Ev.zero with at_ := c, x := i } else s
  else s

/-- Every context of a core in `pause` wakes. -/
def State.wakeCore (s : State) (c : Nat) : State :=
  if (s.core c).ctxs.any (fun x => x.wait == some .pause) then (List.range 11).foldl (fun s i => s.wakeCtx c i) s else s

/-! ## Scalar registers (R130, R214) -/

/-- Register `r` of the context that issues: x0 reads zero; at supervisor level the core's supervisor frame (R130). -/
def State.x (s : State) (r : BitVec 5) : Word :=
  if r = 0 then 0
  else if s.curCtx.sup then (s.curCore.sregs[r.toNat]?).getD 0
  else (s.curCtx.regs[r.toNat]?).getD 0

/-- The frame number the context uses: its own, or 11 for supervisor level (R130). -/
def State.frameNo (s : State) : Nat := if s.curCtx.sup then 11 else s.cur.2

/-- Mark a frame of the frame cache dirty (R131). -/
def markDirty (fs : List (Nat × Bool)) (n : Nat) : List (Nat × Bool) :=
  fs.map (fun f => if f.1 = n then (n, true) else f)

/-- Write register `r`; a write to x0 is discarded (R214). -/
def State.setX (s : State) (r : BitVec 5) (v : Word) : State :=
  if r = 0 then s
  else
    let n := s.frameNo
    let s := s.modCurCore (fun k => { k with frames := markDirty k.frames n })
    if s.curCtx.sup then s.modCurCore (fun k => { k with sregs := k.sregs.setIfInBounds r.toNat v })
    else s.modCur (fun x => { x with regs := x.regs.setIfInBounds r.toNat v })

/-- Handle register `n` (R214). -/
def State.hreg (s : State) (n : Nat) : Handle := (s.curCtx.h[n]?).getD Handle.zero

/-- Write handle register `n`. -/
def State.setH (s : State) (n : Nat) (v : Handle) : State := s.modCur (fun x => { x with h := x.h.setIfInBounds n v })

/-- Read a scalar register. -/
def readX (r : BitVec 5) : M Word := do return (← get).x r

/-- Write a scalar register. -/
def writeX (r : BitVec 5) (v : Word) : M Unit := modify (fun s => s.setX r v)

/-- Raise a cause precisely (R229 `trap`). -/
def trap {α : Type} (cause : Nat) (eval : Word) : M α := throw (.trap cause eval 0 0)

/-- Raise a cause whose EVAL the spec does not give for the case: a free value (log entry 6). -/
def trapFree {α : Type} (cause : Nat) : M α := do
  let s ← get
  set s.free.2
  throw (.trap cause s.free.1 0 0)

/-- Not ready: the context waits and executes the instruction again (R269). -/
def waitFor {α : Type} (w : Wait) : M α := throw (.wait w)

/-- Wait when a condition holds. -/
def waitIf (c : Bool) (w : Wait) : M Unit := if c then waitFor w else pure ()

/-- Raise a cause when a condition holds. -/
def trapIf (c : Bool) (cause : Nat) (eval : Word) : M Unit := if c then trap cause eval else pure ()

/-- Change the clusters that a test picks. -/
def State.mapClusters (s : State) (p : Nat → Bool) (f : Cluster → Cluster) : State :=
  { s with clusters := s.clusters.map (fun k => if p k.1 then (k.1, f k.2) else k) }

/-! ## Retiring (R231, R139) -/

/-- The repeat sequencer after one replayed instruction (R139): the next place, or the end of the frame. -/
def RptFrame.next (f : RptFrame) : Option RptFrame × Word :=
  let after := f.base + word (4 * f.words.length)
  let here := fun (p : Nat) => f.base + word (4 * p)
  if f.pos + 1 < f.words.length then (some { f with pos := f.pos + 1 }, here (f.pos + 1))
  else if f.pass + 1 < f.passes then (some { f with pos := 0, pass := f.pass + 1 }, here 0)
  else (none, after)

/-- The context after its instruction retired: INSTRET counts it, and the PC moves on, inside a frame by the
sequencer. -/
def Ctx.retire (x : Ctx) : Ctx :=
  match x.rpt with
  | some f =>
    if f.active ∧ f.need ≤ f.words.length then
      let n := f.next
      { x with instret := x.instret + 1, rpt := n.1, pc := n.2 }
    else { x with instret := x.instret + 1, pc := x.pc + 4 }
  | none => { x with instret := x.instret + 1, pc := x.pc + 4 }

/-- Retire the instruction of the context that issues. -/
def State.retire (s : State) : State := s.modCur Ctx.retire

/-- Retire with the next PC given. -/
def State.retireTo (s : State) (target : Word) : State :=
  s.modCur (fun x => { x with instret := x.instret + 1, pc := target })

/-- Retire the instruction of the context that issues. -/
def retire : M Unit := modify State.retire

/-- A scalar instruction that only writes a register (R231). -/
def alu (d : BitVec 5) (v : Word) (s : State) : Outcome := .next ((s.setX d v).retire)

/-! ## Regions (R133–R138, R421) -/

/-- Region entry by forward execution (R136): RGNPC, RGNSKIP and lcount, the start record (R285) and the delivered event
values (R272). -/
def Ctx.enterRegion (x : Ctx) (entry : Word) : Ctx :=
  { x with rgnpc := entry, rgnskip := 0, lcount := 0, starts := [], startPos := 0, delivered := [], restarting := false }

/-- A region entry of a core that is cut-pending is where its context takes the cut (R186). -/
def State.atEntry (s : State) : State :=
  if s.curCore.snapPhase = 1 ∧ ¬ s.curCtx.cutDone then
    s.post .coreCut { Ev.zero with at_ := s.cur.1, x := s.cur.2 }
  else s

/-- `rgn` or `rgnx` at the PC opens a region (R133, R136, R283). On a restart the opening word at RGNPC does not clear
RGNSKIP. At supervisor level nothing opens (R421). -/
def State.openRegion (s : State) (nonRestart : Bool) : State :=
  let x := s.curCtx
  if x.sup then s
  else if x.restarting ∧ x.pc = x.rgnpc then s.modCur (fun x => { x with restarting := false, rgnx := nonRestart })
  else (s.modCur (fun x => { x.enterRegion x.pc with rgnx := nonRestart, preempt := s.curCore.preempt })).atEntry

/-- The restart of an event line with a value given back (R272). -/
def ELine.giveBack (l : ELine) (v : Nat) : ELine := ⟨l.value ||| v, true⟩

/-- Event line `i` as core `c` sees it: line 31 is the core's own (R141). -/
def State.line (s : State) (c i : Nat) : ELine :=
  if i = 31 then (s.core c).line31 else (s.cluster (c / 8)).lines.get i ELine.zero

/-- Write event line `i` of core `c`'s cluster. -/
def State.setLine (s : State) (c i : Nat) (l : ELine) : State :=
  if i = 31 then s.modCore c (fun k => { k with line31 := l })
  else s.modCluster (c / 8) (fun k => { k with lines := k.lines.put i l })

/-- Discard the partial region of a context and go back to RGNPC (R136): RGNSKIP is kept, the sequencer is abandoned
(R140), the checker's state is dropped (R106), the delivered event values go back to their lines (R272). -/
def State.discard (s : State) (c i : Nat) : State :=
  let x := s.ctx c i
  let s := x.delivered.foldl (fun s p => s.setLine c p.1 ((s.line c p.1).giveBack p.2)) s
  s.modCtx c i (fun x => { x with
    pc := x.rgnpc, lcount := 0, rpt := none, sig := { SigState.idle with missed := x.sig.missed }, delivered := [],
    restarting := true, startPos := 0, wait := none, mapRead := none, access := none, noFill := false, farDesc := none })

/-- R229 `commit`: a commit instruction retires and opens a region of the same kind at the next instruction. -/
def State.commit (s : State) : State :=
  let s := s.retire
  if s.curCtx.sup then s.modCur (fun x => { x with pauseCount := 0, yieldPoint := false })
  else (s.modCur (fun x => { x.enterRegion x.pc with
    pauseCount := 0, yieldPoint := false, preempt := s.curCore.preempt })).atEntry

/-- Retire a commit instruction. `rollable` says that R103 lets the superstep stay rollable. -/
def commitInstr (rollable : Bool) : M Unit := modify (fun s =>
  let s := if rollable then s else s.modCurCore (fun k => { k with rollable := false })
  s.commit)

/-! ## The signature checker (R105, R106) -/

/-- CRC-16/CCITT-FALSE, one bit of the register (R105). -/
def crcBits : Nat → Nat → Nat
  | 0, c => c
  | n + 1, c => crcBits n (if c / 0x8000 % 2 = 1 then (c * 2 % 0x10000) ^^^ 0x1021 else c * 2 % 0x10000)

/-- CRC-16/CCITT-FALSE, one byte. -/
def crcByte (c b : Nat) : Nat := crcBits 8 (c ^^^ (b * 256))

/-- CRC-16/CCITT-FALSE over a word, least significant byte first (R105). -/
def crcWord (c : Nat) (w : IWord) : Nat :=
  (leBytes 4 w.toNat).foldl (fun c b => crcByte c b.toNat) c

/-- The opening word of a block starts the checker, with its sig16 field taken as zero. -/
def Ctx.sigOpen (x : Ctx) (w : IWord) : Ctx :=
  let c := crcWord 0xFFFF (BitVec.ofNat 32 (w.toNat / 0x10000 * 0x10000))
  { x with sig := ⟨true, x.pc, w.toNat % 0x10000, c, x.sig.missed⟩ }

/-- A fetched word enters the hash of the block that is open. -/
def Ctx.sigWord (x : Ctx) (w : IWord) : Ctx :=
  if x.sig.live then { x with sig := { x.sig with crc := crcWord x.sig.crc w } } else x

/-- R106: the check before an instruction that ends a block retires. -/
def endBlock : M Unit := do
  let s ← get
  let x := s.curCtx
  let g := x.sig
  if !g.live then pure ()
  else if g.crc = g.expected then modify (fun s => s.modCur (fun x => { x with sig := SigState.idle }))
  else
    let bad := word (g.expected + g.crc * 0x10000)
    if x.sup ∨ x.rgnx ∨ g.missed = some g.opening then
      modify (fun s => s.modCur (fun x => { x with sig := SigState.idle }))
      trap Cause.sigMismatch bad
    else
      modify (fun s => s.modCur (fun x => { x with sig := { SigState.idle with missed := some g.opening } }))
      throw .restart

/-! ## Notes for the monitor -/

/-- Append to the monitor's fault log (R70 section 4, R342). -/
def State.logFault (s : State) (cause cls core ctxid : Nat) (eval : Word) : State :=
  { s with mon := { s.mon with faults := s.mon.faults ++ [⟨cause, cls, core, ctxid, eval⟩] } }

/-- A cause is raised to the monitor (R341, R107) with an EVAL that the spec does not give (log entry 6). -/
def State.raiseMonitor (s : State) (cause : Nat) : State :=
  let (v, s) := s.free
  s.logFault cause 2 0xFFFF 0 v

/-- Append to the audit ring (R91): the kind, SRC, WHERE and ADDR of the entry. A full ring drops and counts it;
AUDIT_OVERFLOW is raised to the monitor as the ring fills, once for each time. -/
def State.audit (s : State) (kind src where_ : Nat) (addr : Word) : State :=
  if 4096 ≤ s.mon.audit.length then { s with mon := { s.mon with auditLost := s.mon.auditLost + 1 } }
  else
    let e : Audit := ⟨s.mon.auditSeq, s.time, kind, word (src % 65536 * 2 ^ 24 + where_ % 65536 * 256 + kind), addr⟩
    let t := { s with mon := { s.mon with audit := s.mon.audit ++ [e], auditSeq := s.mon.auditSeq + 1 } }
    if s.mon.audit.length = 4095 then t.raiseMonitor Cause.auditOverflow else t

/-- A draw of the security engine's random bit generator (R81); no draw is made twice. -/
def State.draw (s : State) : List Byte × State := (Config.random s.freeNo, { s with freeNo := s.freeNo + 1 })

/-! ## Taking an exception (R346) -/

/-- The first cause stands: a task that is killed keeps it (R113). -/
def Task.kill (t : Task) (cause : Nat) : Task :=
  match t.dead with
  | some _ => t
  | none => { t with dead := some cause }

/-- A core with nothing running on it; its task and its place stay until the instance is released, and the stores that have retired are
still to be performed (R69). -/
def Core.stop (k : Core) : Core :=
  let stopped := k.ctxs.map (fun x => { x with live := false, wait := none, barWait := none, supBar := none, trapPend := none })
  { k with ctxs := stopped, lq := [], ended := true, rollHalt := false, rollAsk := false }

/-- Kill a task: its cores stop, and the event that ends its graph is due (R113, R305, R346). -/
def State.killTask (s : State) (tid cause : Nat) : State :=
  match s.tasks.look tid with
  | none => s
  | some t =>
    let s := { s with tasks := s.tasks.put tid (t.kill cause) }
    let mine := (s.insts.filter (fun p => p.2.task = tid && p.2.st != .saved)).map (fun p => p.2)
    let s := mine.foldl (fun s j => j.cores.foldl (fun s c => s.modCore c Core.stop) s) s
    s.post .instanceComplete { Ev.zero with at_ := tid, x := 1 }

/-- Whether another context of the core is at supervisor level (R346). -/
def Core.otherSup (k : Core) (i : Nat) : Bool :=
  (List.range 11).any (fun j => j != i && (k.ctx j).live && (k.ctx j).sup)

/-- The value of ESTAT that a trap entry writes (R345, R346). -/
def Ctx.estatAt (x : Ctx) (cls preason : Nat) : Word :=
  let (pass, pos, inFrame) := match x.rpt with
    | some f => if f.active ∧ f.need ≤ f.words.length then (f.pass, f.pos, 1) else (0, 0, 0)
    | none => (0, 0, 0)
  word (pass * 2 ^ 32 + min x.drops 255 * 2 ^ 24 + pos * 2 ^ 20 + inFrame * 2 ^ 19 + cls * 2 ^ 17 + preason * 2 ^ 15)

/-- The registers of a context that enters its handler (R346): EPC, ECAUSE, EVAL, ESTAT, the level and the PC. The
delivery of a deferred cause clears the drop count (R349); the checker's state is dropped (R106). A frame stands still
until the return, and so does a capture that is not complete; ILL_FRAME and RPT_NEST abandon it, since nothing of it is
replayed (R139; log entry 114). -/
def Ctx.enterTrap (x : Ctx) (r : TrapReq) (now : Nat) : Ctx :=
  let keep := match x.rpt with
    | some f =>
      if f.words.length < f.need ∧ (r.cause = Cause.illFrame ∨ r.cause = Cause.rptNest) then none
      else some { f with active := false }
    | none => none
  { x with
    epc := r.epc &&& 0xFFFFFFFFFFFF, ecause := word r.cause, eval := r.eval, estat := x.estatAt r.cls r.preason,
    sup := true, pc := x.tvec &&& 0xFFFFFFFFFFFC, drops := if r.cls = 1 then 0 else x.drops, rpt := keep,
    sig := SigState.idle, wait := none, trapPend := none, supSince := now, mapRead := none, access := none, noFill := false, farDesc := none, supBar := none,
    poisonKill := x.poisonKill || r.cause == Cause.uncorrData }

/-- The cores of the gang that runs on core `c`, in gang order (R109). -/
def State.gang (s : State) (c : Nat) : List Nat := match s.insts.look (s.core c).inst with
  | some i => i.cores
  | none => []

/-- The superstep that a rollback of core `c`'s gang repeats: a member that has not counted the release of the barrier yet is one behind,
and counts it first (R104, R299). -/
def State.rollStep (s : State) (c : Nat) : Nat :=
  let steps := (s.gang c).map (fun m => (s.core m).sstepn)
  (steps.find? (fun n => !steps.contains ((n + 1) % 2 ^ 32))).getD (s.core c).sstepn

/-- R102: whether the consumption of poison that EVAL names is met by a rollback of the superstep: the plan has ROLL, the
word lies in a member's local memory (index 0, or a gang window, FMT 15), a tile or an object with J (a weight slot is none of them:
log entry 18), every member is rollable
(R103), and fewer than 3 rollbacks have been made. -/
def State.rollApplies (s : State) (c : Nat) (eval : Word) : Bool :=
  let index := bits eval 63 48
  let inJ := (index == 0 && decide (bits eval 47 0 < 0x1000000)) || (match s.proc? (s.ctxidOf c) with
    | some p => (s.mem.get (s.tableKey p.part (p.otbase + 64 * index + 24))).getLsbD 6 ||
        bits (word (s.mem.getLE (s.tableKey p.part (p.otbase + 64 * index + 16)) 8)) 49 46 == 15
    | none => false)
  let ready := (s.gang c).all (fun m => (s.core m).rollable && (match (s.core m).stepRec with
    | some r => decide (r.rolls < 3)
    | none => false))
  bit ((s.core c).plan.getD 0 0) 0 && inJ && ready && !(s.gang c).isEmpty

/-- R346 `take`: a context at supervisor level is killed with its task; one whose core already has a context at supervisor
level waits; otherwise it enters its handler. -/
def State.takeTrap (s : State) (c i : Nat) (r : TrapReq) : State :=
  let x := s.ctx c i
  if r.cause = Cause.uncorrData ∧ ¬ x.sup ∧ s.rollApplies c r.eval then
    s.post .superstepRollback { Ev.zero with at_ := c, x := i }
  else if x.sup then
    (s.logFault r.cause r.cls c (s.ctxidOf c) r.eval).killTask (s.core c).task r.cause
  else if (s.core c).otherSup i then
    s.modCtx c i (fun x => { x with trapPend := some r, wait := some .supervisor })
  else s.modCtx c i (fun x => x.enterTrap r s.clk)

/-- Run an instruction of the context that issues. -/
def runInstr (m : M Unit) (s : State) : Outcome :=
  match m s with
  | .ok _ t => .next t
  | .error (.trap cause eval cls preason) t =>
    .next (t.takeTrap t.cur.1 t.cur.2 ⟨cause, eval, cls, preason, t.curCtx.pc⟩)
  | .error (.wait w) t => .next (t.modCur (fun x => { x with wait := some w }))
  | .error .restart t => .next (t.discard t.cur.1 t.cur.2)

/-- Raise a cause precisely at the instruction of the context that issues (R229 `trap`). -/
def raiseAt (cause : Nat) (eval : Word) (s : State) : Outcome :=
  .next (s.takeTrap s.cur.1 s.cur.2 ⟨cause, eval, 0, 0, s.curCtx.pc⟩)

/-- Run an event of the device: it acts on the event that is present, and every event has an effect. -/
def runEvent (f : Ev → State → State) (s : State) : Outcome := .next (f s.ev s)

/-! ## The return (R303, R140, R420) -/

/-- The frame of a context that returns from its handler: a replay goes on at the position of ESTAT (R140), and a capture
goes on where EPC is the address of the next word that it captures (log entry 114). -/
def Ctx.frameAfter (x : Ctx) : Option RptFrame := match x.rpt with
  | some f =>
    if f.words.length < f.need then
      if x.epc = f.base + word (4 * f.words.length) then some { f with active := true } else none
    else if bit x.estat 19 then some { f with pass := bits x.estat 63 32, pos := bits x.estat 23 20, active := true }
    else none
  | none => none

/-- The registers of a context that returns from its handler: PC ← EPC, user level, the frame position of ESTAT. -/
def Ctx.returnFrom (x : Ctx) : Ctx :=
  { x with sup := false, pc := x.epc, rpt := x.frameAfter, instret := x.instret + 1, sig := { SigState.idle with missed := x.sig.missed } }

/-- Whether `eret` refuses ESTAT (R346): a reserved bit, FRAME with no captured frame or a position beyond it, CLASS 3. -/
def Ctx.eretBad (x : Ctx) : Bool :=
  bits x.estat 14 0 != 0 || bits x.estat 18 17 == 3 ||
    (bit x.estat 19 && (match x.rpt with
      | some f => decide (f.words.length < f.need ∨ f.words.length ≤ bits x.estat 23 20)
      | none => true))

/-- R228: EVAL of a cause of R227 about instruction `i`, with the detail of [35:32]. -/
def wordEval (i : Instr) (detail : Nat) : Word := word (detail * 2 ^ 32 + (encode i).toNat)

/-- R268: the control word of a register operand has a reserved bit: ILL_RSV with detail 1 (xa) or 2 (xb). -/
def rsv {α : Type} (i : Instr) (detail : Nat) : M α := trap Cause.illRsv (wordEval i detail)

end Sys2Proof.Machine
end

