-- ==== Sys2Proof/Machine/Alu.lean ====
section
/-! DEFINITION. The integer instructions of majors 0x01 to 0x0A (R233 to R236). -/

namespace Sys2Proof.Machine

/-! ## Shared operations -/

/-- The shift amount of a register (R233): its low 6 bits. -/
def shiftAmt (b : Word) : Nat := bits b 5 0

/-- R233 `clz`. -/
def clzW (a : Word) : Word := word (64 - bitLen a.toNat)

/-- R233 `ctz`. -/
def ctzW (a : Word) : Word := word ((searchUp a.toNat.testBit 64 0).getD 64)

/-- R233 `popc`. -/
def popcW (a : Word) : Word := word (popCount a.toNat 64)

/-- R235 `bext` over the bit positions from `i` on: `n` positions are left, `j` is the next bit of the result. -/
def bextFrom (a b : Nat) : Nat → Nat → Nat → Nat
  | 0, _, _ => 0
  | n + 1, i, j =>
    if b.testBit i then b2n (a.testBit i) * 2 ^ j + bextFrom a b n (i + 1) (j + 1) else bextFrom a b n (i + 1) j

/-- R235 `bdep` likewise: `j` is the next bit of the source. -/
def bdepFrom (a b : Nat) : Nat → Nat → Nat → Nat
  | 0, _, _ => 0
  | n + 1, i, j =>
    if b.testBit i then b2n (a.testBit j) * 2 ^ i + bdepFrom a b n (i + 1) (j + 1) else bdepFrom a b n (i + 1) j

/-- R234: a division; a zero divisor raises INT_DIVZERO with EVAL a, and the destination is unchanged. -/
def divide (d : BitVec 5) (a b v : Word) (s : State) : Outcome :=
  if b = 0 then raiseAt Cause.intDivzero a s else alu d v s

/-- The signed quotient, truncated toward zero; the overflow case gives −2^63 (R234). -/
def quotS (a b : Word) : Word := wordOfInt (a.toInt.tdiv b.toInt)

/-- The signed remainder, with the sign of the dividend (R234). -/
def remS (a b : Word) : Word := wordOfInt (a.toInt.tmod b.toInt)

/-! ## Register operations (R233) -/

/-- R233 `add`. -/
def execAdd (d a b : BitVec 5) (s : State) : Outcome := alu d (s.x a + s.x b) s
/-- R233 `sub`. -/
def execSub (d a b : BitVec 5) (s : State) : Outcome := alu d (s.x a - s.x b) s
/-- R233 `and`. -/
def execAnd (d a b : BitVec 5) (s : State) : Outcome := alu d (s.x a &&& s.x b) s
/-- R233 `or`. -/
def execOr (d a b : BitVec 5) (s : State) : Outcome := alu d (s.x a ||| s.x b) s
/-- R233 `xor`. -/
def execXor (d a b : BitVec 5) (s : State) : Outcome := alu d (s.x a ^^^ s.x b) s
/-- R233 `andn`. -/
def execAndn (d a b : BitVec 5) (s : State) : Outcome := alu d (s.x a &&& ~~~ s.x b) s
/-- R233 `sll`. -/
def execSll (d a b : BitVec 5) (s : State) : Outcome := alu d (s.x a <<< shiftAmt (s.x b)) s
/-- R233 `srl`. -/
def execSrl (d a b : BitVec 5) (s : State) : Outcome := alu d (s.x a >>> shiftAmt (s.x b)) s
/-- R233 `sra`. -/
def execSra (d a b : BitVec 5) (s : State) : Outcome := alu d ((s.x a).sshiftRight (shiftAmt (s.x b))) s
/-- R233 `rol`. -/
def execRol (d a b : BitVec 5) (s : State) : Outcome := alu d ((s.x a).rotateLeft (shiftAmt (s.x b))) s
/-- R233 `mul`. -/
def execMul (d a b : BitVec 5) (s : State) : Outcome := alu d (s.x a * s.x b) s
/-- R233 `mulh`: the product is exact, its high 64 bits are its floor quotient by 2^64. -/
def execMulh (d a b : BitVec 5) (s : State) : Outcome :=
  alu d (wordOfInt (((s.x a).toInt * (s.x b).toInt) / (2 ^ 64 : Nat))) s
/-- R233 `mulhu`. -/
def execMulhu (d a b : BitVec 5) (s : State) : Outcome := alu d (word ((s.x a).toNat * (s.x b).toNat / 2 ^ 64)) s
/-- R234 `div`. -/
def execDiv (d a b : BitVec 5) (s : State) : Outcome := divide d (s.x a) (s.x b) (quotS (s.x a) (s.x b)) s
/-- R234 `divu`. -/
def execDivu (d a b : BitVec 5) (s : State) : Outcome :=
  divide d (s.x a) (s.x b) (word ((s.x a).toNat / (s.x b).toNat)) s
/-- R234 `rem`. -/
def execRem (d a b : BitVec 5) (s : State) : Outcome := divide d (s.x a) (s.x b) (remS (s.x a) (s.x b)) s
/-- R234 `remu`. -/
def execRemu (d a b : BitVec 5) (s : State) : Outcome :=
  divide d (s.x a) (s.x b) (word ((s.x a).toNat % (s.x b).toNat)) s
/-- R233 `min`. -/
def execMin (d a b : BitVec 5) (s : State) : Outcome := alu d (if (s.x a).slt (s.x b) then s.x a else s.x b) s
/-- R233 `max`. -/
def execMax (d a b : BitVec 5) (s : State) : Outcome := alu d (if (s.x a).slt (s.x b) then s.x b else s.x a) s
/-- R233 `minu`. -/
def execMinu (d a b : BitVec 5) (s : State) : Outcome := alu d (if (s.x a).ult (s.x b) then s.x a else s.x b) s
/-- R233 `maxu`. -/
def execMaxu (d a b : BitVec 5) (s : State) : Outcome := alu d (if (s.x a).ult (s.x b) then s.x b else s.x a) s
/-- R233 `slt`. -/
def execSlt (d a b : BitVec 5) (s : State) : Outcome := alu d (b2w ((s.x a).slt (s.x b))) s
/-- R233 `sltu`. -/
def execSltu (d a b : BitVec 5) (s : State) : Outcome := alu d (b2w ((s.x a).ult (s.x b))) s
/-- R233 `seq`. -/
def execSeq (d a b : BitVec 5) (s : State) : Outcome := alu d (b2w (s.x a == s.x b)) s
/-- R233 `clz`. -/
def execClz (d a : BitVec 5) (s : State) : Outcome := alu d (clzW (s.x a)) s
/-- R233 `ctz`. -/
def execCtz (d a : BitVec 5) (s : State) : Outcome := alu d (ctzW (s.x a)) s
/-- R233 `popc`. -/
def execPopc (d a : BitVec 5) (s : State) : Outcome := alu d (popcW (s.x a)) s
/-- R233 `brev`. -/
def execBrev (d a : BitVec 5) (s : State) : Outcome := alu d (s.x a).reverse s
/-- R235 `bext`. -/
def execBext (d a b : BitVec 5) (s : State) : Outcome :=
  alu d (word (bextFrom (s.x a).toNat (s.x b).toNat 64 0 0)) s
/-- R235 `bdep`. -/
def execBdep (d a b : BitVec 5) (s : State) : Outcome :=
  alu d (word (bdepFrom (s.x a).toNat (s.x b).toNat 64 0 0)) s
/-- R233 `cmov`: with b = 0 xd keeps its value. -/
def execCmov (d a b : BitVec 5) (s : State) : Outcome := alu d (if s.x b ≠ 0 then s.x a else s.x d) s
/-- R233 `addw`. -/
def execAddw (d a b : BitVec 5) (s : State) : Outcome :=
  alu d (((s.x a).setWidth 32 + (s.x b).setWidth 32).signExtend 64) s

/-! ## Immediate operations (R236) -/

/-- R236 `addi`. -/
def execAddi (d a : BitVec 5) (i : BitVec 16) (s : State) : Outcome := alu d (s.x a + sext64 i) s
/-- R236 `andi`. -/
def execAndi (d a : BitVec 5) (i : BitVec 16) (s : State) : Outcome := alu d (s.x a &&& i.setWidth 64) s
/-- R236 `ori`. -/
def execOri (d a : BitVec 5) (i : BitVec 16) (s : State) : Outcome := alu d (s.x a ||| i.setWidth 64) s
/-- R236 `xori`. -/
def execXori (d a : BitVec 5) (i : BitVec 16) (s : State) : Outcome := alu d (s.x a ^^^ i.setWidth 64) s
/-- R236 `slli`. -/
def execSlli (d a : BitVec 5) (n : BitVec 6) (s : State) : Outcome := alu d (s.x a <<< n.toNat) s
/-- R236 `srli`. -/
def execSrli (d a : BitVec 5) (n : BitVec 6) (s : State) : Outcome := alu d (s.x a >>> n.toNat) s
/-- R236 `srai`. -/
def execSrai (d a : BitVec 5) (n : BitVec 6) (s : State) : Outcome := alu d ((s.x a).sshiftRight n.toNat) s
/-- R236 `roli`. -/
def execRoli (d a : BitVec 5) (n : BitVec 6) (s : State) : Outcome := alu d ((s.x a).rotateLeft n.toNat) s
/-- R236 `slti`. -/
def execSlti (d a : BitVec 5) (i : BitVec 16) (s : State) : Outcome := alu d (b2w ((s.x a).slt (sext64 i))) s
/-- R236 `sltiu`. -/
def execSltiu (d a : BitVec 5) (i : BitVec 16) (s : State) : Outcome := alu d (b2w ((s.x a).ult (sext64 i))) s
/-- R236 `lui`. -/
def execLui (d : BitVec 5) (i : BitVec 16) (s : State) : Outcome := alu d (sext64 i <<< 16) s
/-- R236 `movk`: bits [16q + 15 : 16q] of xd replaced. -/
def execMovk (d : BitVec 5) (q : BitVec 2) (i : BitVec 16) (s : State) : Outcome :=
  alu d (setBits (s.x d) (16 * q.toNat + 15) (16 * q.toNat) i.toNat) s

end Sys2Proof.Machine
end

