-- ==== Sys2Proof/Machine/Cut.lean ====
section
/-! DEFINITION. The endpoints of a job and their cuts (R35, R36, R181, R183, R184, R187, R188): the numbers of endpoints, the
colour and the counts of messages, the cut of a home slice, and the copy-on-write units. -/

namespace Sys2Proof.Machine

/-! ## Endpoints (R35, R36) -/

/-- The endpoint of the network interface of a cluster (R35, R36). -/
def niEndpoint (cl : Nat) : Nat := cl / 64 * 512 + cl / 8 % 8 * 64 + cl % 8 / 2 * 16 + cl % 2 * 2

/-- The endpoint of a home slice, package-wide number (R35, R36). -/
def sliceEndpoint (n : Nat) : Nat := n / 64 * 512 + n / 8 % 8 * 64 + n % 8 / 2 * 16 + 12 + n % 2 * 2

/-- The endpoint of the copy unit of a cluster (R35, R36). -/
def cuEndpoint (cl : Nat) : Nat := cl / 64 * 512 + cl / 8 % 8 * 64 + cl % 8 / 2 * 16 + 4 + cl % 2

/-- The cluster of a network-interface endpoint (R35, R36). -/
def epCluster (ep : Nat) : Nat := ep / 512 % 4 * 64 + ep / 64 % 8 * 8 + ep / 16 % 4 * 2 + ep % 16 / 2 % 2

/-- The home slice of an endpoint (R35, R36). -/
def epSlice (ep : Nat) : Nat := ep / 512 % 4 * 64 + ep / 64 % 8 * 8 + ep / 16 % 4 * 2 + (ep % 16 - 12) / 2

/-- Every message of one generation carries its sender's colour (R183): the parity of its cut. -/
def parity (n : Nat) : Bool := n % 2 == 1

/-- The cluster whose network interface or copy unit an endpoint is, when it is one (R35). -/
def niOf (ep : Nat) : Option Nat :=
  if ep < 2048 ∧ ep % 16 < 6 then
    some (if ep % 16 < 4 then epCluster ep else ep / 512 % 4 * 64 + ep / 64 % 8 * 8 + ep / 16 % 4 * 2 + ep % 2)
  else none

/-- Whether an endpoint is a home slice. -/
def isSlice (ep : Nat) : Bool := ep < 2048 && 12 ≤ ep % 16

/-- Whether an endpoint is a bank group (R35). -/
def isBank (ep : Nat) : Bool := ep < 2048 && 6 ≤ ep % 16 && ep % 16 < 12

/-- Whether a message is counted (R183). -/
def Msg.counted (m : Msg) : Bool :=
  (m.op == 0x02) || (m.op == 0x03) || (m.op == 0x04) || (m.op == 0x05) || (m.op == 0x06) || (m.op == 0x07) || (m.op == 0x08) ||
    (m.op == 0x0B) || (m.op == 0x23) || (0x60 ≤ m.op && m.op ≤ 0x6F)

/-- A counted message leaves core `c` (R183). -/
def State.countSent (s : State) (c : Nat) : State := s.modCore c (fun k => { k with sent := (k.sent + 1) % 2 ^ 32 })

/-- The partition that holds a core's block, or 0 (R96). -/
def State.partOfBlock (s : State) (b : Nat) : Nat :=
  match s.parts.find? (fun p => p.2.blocks.testBit b) with
  | some p => p.1
  | none => 0

/-! ## Jobs and generations (R181) -/

/-- Change a job. -/
def State.modJob (s : State) (n : Nat) (f : JobState → JobState) : State := match s.jobs.look n with
  | some j => { s with jobs := s.jobs.put n (f j) }
  | none => s

/-- Change one generation of a job. -/
def State.modSnap (s : State) (n gen : Nat) (f : Snap → Snap) : State :=
  s.modJob n (fun j => { j with snaps := j.snaps.map (fun m => if m.gen = gen then f m else m) })

/-- The generation in progress of a job. -/
def JobState.current (j : JobState) : Option Snap := j.snaps.find? (fun m => !m.sealed && m.failed == 0)

/-- The job of a block, by its partition (R181). -/
def State.jobOfBlock (s : State) (b : Nat) : Nat := (s.part (s.partOfBlock b)).job

/-- The generation in progress of a block's job, with the job's number (R181). -/
def State.snapOfBlock (s : State) (b : Nat) : Option (Nat × Snap) :=
  if s.jobs.isEmpty then none
  else match s.jobs.look (s.jobOfBlock b) with
    | none => none
    | some j => j.current.map (fun m => (s.jobOfBlock b, m))

/-- The snapshot in progress of the job that core `c`'s partition takes part in (R181). -/
def State.inProgress (s : State) (c : Nat) : Option Snap := (s.snapOfBlock (c / 64)).map (fun p => p.2)

/-! ## Counts and the cut of a home slice (R183, R184, R186) -/

/-- What an endpoint counted enters its count of a generation. -/
def Snap.count (m : Snap) (ep sent recv : Nat) : Snap :=
  let old := m.counts.get ep (0, 0)
  { m with counts := m.counts.put ep ((old.1 + sent) % 2 ^ 32, (old.2 + recv) % 2 ^ 32) }

/-- Home slice `sl` takes its cut for a generation of job `n` (R184, R186): its counts are closed, and it replies (R189). -/
def State.cutSlice (s : State) (n gen sl : Nat) : State :=
  let k := s.slice sl
  if k.snapGen = gen then s
  else
    ((s.modSnap n gen (fun m => m.count (sliceEndpoint sl) k.sent k.recv)).modSlice sl (fun k =>
      { k with sent := 0, recv := 0, snapGen := gen })).post .coreCut { Ev.zero with at_ := sl, x := 12 }

/-- A counted message of colour `col` reaches home slice `sl` (R183): after the slice's cut, one of the old colour is counted
for the generation that ends; before it, one of the new colour makes the slice cut first (R184). -/
def State.sliceRecv (s : State) (sl : Nat) (col : Bool) : State :=
  let one := fun (s : State) => s.modSlice sl (fun k => { k with recv := (k.recv + 1) % 2 ^ 32 })
  match s.snapOfBlock (sl / 8) with
  | none => one s
  | some (n, m) =>
    if !m.began then one s
    else if col = parity m.gen then one (s.cutSlice n m.gen sl)
    else if (s.slice sl).snapGen = m.gen then s.modSnap n m.gen (fun m => m.count (sliceEndpoint sl) 0 1)
    else one s

/-! ## Pages (R184, R188) -/

/-- The end of the copies of pages that the generations of a job hold in its store; the next copy goes there (R188). -/
def JobState.storeEnd (j : JobState) : Nat :=
  let live := j.snaps.filter (fun m => m.failed == 0)
  ((live.flatMap (fun (m : Snap) => m.pages.filterMap (fun (p : PageCut) => p.offset))).map (fun (o : Nat) => o + 65536) ++ live.map (fun (m : Snap) => m.extra)).foldl max 0

/-- R188: the first live write to an armed page copies it first, in the generations picked: the page takes its content, at the
next offset of the store, and the copy is written there. -/
def State.cowPageIn (s : State) (pick : Snap → Bool) (key : Nat) : State :=
  if s.jobs.isEmpty then s
  else
    let page := key / 65536 * 65536
    let bare := fun (p : PageCut) => p.key == page && p.bytes.isNone
    let fix := fun (j : JobState) (p : PageCut) =>
      if bare p then
        { p with bytes := some (Mem.empty.copyRange 0 s.mem page 65536), offset := some (p.offset.getD j.storeEnd) }
      else p
    let hit := fun (m : Snap) => m.failed == 0 && pick m && m.pages.any bare
    if s.jobs.any (fun j => j.2.snaps.any hit) then
      State.post { s with jobs := s.jobs.map (fun (j : Nat × JobState) => (j.1, { j.2 with
          snaps := j.2.snaps.map (fun (m : Snap) => if hit m then { m with pages := m.pages.map (fix j.2) } else m) })) } .cowCopy
        { Ev.zero with at_ := page }
    else s

/-- The same in every generation that has not failed. -/
def State.cowPage (s : State) (key : Nat) : State := s.cowPageIn (fun _ => true) key

/-- R184: a crossing write is also applied to the snapshot image of the bytes it writes; so is a write of before the slice's
cut, when its page has been copied already. -/
def State.crossPage (s : State) (key : Nat) (bs : List Byte) (mask : Nat) : State :=
  let page := key / 65536 * 65536
  let fix := fun (p : PageCut) =>
    if p.key = page then { p with bytes := p.bytes.map (fun m => m.putMasked (key - page) bs mask), stored := false } else p
  let hit := fun (m : Snap) => m.failed == 0 && !m.sealed && m.pages.any (fun p => p.key == page && p.bytes.isSome)
  if s.jobs.any (fun j => j.2.snaps.any hit) then
    State.post { s with jobs := s.jobs.map (fun (j : Nat × JobState) => (j.1, { j.2 with
        snaps := j.2.snaps.map (fun (m : Snap) => if hit m then { m with pages := m.pages.map fix } else m) })) } .cowCopy
      { Ev.zero with at_ := page }
  else s

/-- R188, R192: a page that a write touches is in the dirty set of the job whose page it is. -/
def State.markPage (s : State) (key : Nat) : State :=
  if s.jobs.isEmpty then s
  else
    let page := key / 65536 * 65536
    { s with jobs := s.jobs.map (fun j => (j.1, { j.2 with
        pages := j.2.pages.map (fun (d : JPage) => if d.key = page then { d with written := true } else d) })) }

/-- A page that is written after the device's first cut and before that of its slice belongs to the generation (R188). -/
def State.listPage (s : State) (n gen key : Nat) : State :=
  let page := key / 65536 * 65536
  match (s.jobs.look n).bind (fun j => j.pages.find? (fun d => d.key == page)) with
  | none => s
  | some d => s.modSnap n gen (fun m => if m.pages.any (fun p => p.key == page) then m
      else { m with pages := m.pages ++ [⟨d.ctxid, d.handle, d.page, d.key, none, none, false⟩] })

/-- The newest copy of a page that a job's generations before `gen` hold. -/
def JobState.copyBefore (j : JobState) (gen key : Nat) : Option Mem :=
  (j.snaps.filter (fun m => m.failed == 0 && m.gen != gen)).findSome? (fun m =>
    (m.pages.find? (fun p => p.key == key)).bind (fun p => p.bytes))

/-- A page that a crossing write meets belongs to the generation, too: when no live write has come before, as it stands, and otherwise
as the generation before holds it, since nothing had been written between the two cuts (R184, R191). -/
def State.listCrossed (s : State) (n gen key : Nat) : State :=
  let page := key / 65536 * 65536
  match s.jobs.look n with
  | none => s
  | some j => match j.pages.find? (fun d => d.key == page) with
    | none => s
    | some d =>
      if (j.snaps.find? (fun m => m.gen == gen)).any (fun m => m.pages.any (fun p => p.key == page)) then s
      else
        let old := if d.written then j.copyBefore gen page else none
        s.modSnap n gen (fun m => { m with
          pages := m.pages ++ [⟨d.ctxid, d.handle, d.page, d.key, old.map (fun _ => j.storeEnd), old, false⟩] })

/-- What a write at home slice `sl` does to the snapshots (R184, R187, R188): a write of the new colour makes the slice cut
first; a live write copies its page first; a crossing write, or one of before the cut, goes to the image as well. -/
def State.noteWrite (s : State) (sl : Option Nat) (key : Nat) (bs : List Byte) (mask : Nat) : State :=
  if s.jobs.isEmpty then s
  else match sl.bind (fun k => (s.snapOfBlock (k / 8)).map (fun g => (k, g))) with
    | none => (s.cowPage key).markPage key
    | some (k, n, m) =>
      if !m.began then (s.cowPageIn (fun o => o.gen != m.gen) key).markPage key
      else
        let s := if s.colour = some (parity m.gen) then s.cutSlice n m.gen k else s
        if (s.slice k).snapGen ≠ m.gen then
          ((s.cowPageIn (fun o => o.gen != m.gen) key).crossPage key bs mask).listPage n m.gen key
        else if s.colour = some (!parity m.gen) then
          ((((s.cowPageIn (fun o => o.gen != m.gen) key).listCrossed n m.gen key)).crossPage key bs mask).markPage key
        else (s.cowPage key).markPage key

/-! ## Granules and tiles (R188) -/

/-- The newest generation for which a core has taken its cut: its units stay armed until the next cut (R188). -/
def State.armedCut (s : State) (c : Nat) : Option (Nat × Snap × CoreCut) :=
  if s.jobs.isEmpty then none
  else match s.jobs.look (s.jobOfBlock (c / 64)) with
    | none => none
    | some j => j.snaps.findSome? (fun m => if m.failed = 0 then
        (m.cuts.find? (fun q => q.core == c && q.taken && q.inst == (s.core c).inst)).map (fun q => (s.jobOfBlock (c / 64), m, q)) else none)

/-- R188: the first write to unit `u` of core `c` since its cut has the unit copied to the store. -/
def State.cowUnit (s : State) (c u : Nat) : State := match s.armedCut c with
  | none => s
  | some (n, m, q) =>
    if q.units.any (fun x => x.1 == u) then s
    else (s.modSnap n m.gen (fun m => { m with
      cuts := m.cuts.map (fun q => if q.core = c then { q with units := q.units ++ [(u, none)] } else q) })).post .cowCopy
        { Ev.zero with at_ := u, x := c + 1, y := n, z := m.gen }

/-- R184, R188: a crossing write goes to the copy of a unit as well; one that the store holds is written there again. -/
def State.recopyUnit (s : State) (c u : Nat) : State := match s.armedCut c with
  | none => s
  | some (n, m, q) =>
    if q.units.any (fun x => x.1 == u && x.2.isSome) then s.post .cowCopy { Ev.zero with at_ := u, x := c + 1, y := n, z := m.gen } else s

/-- R186, R187: the granule of 1 KiB that holds a local byte. -/
def granule (off : Nat) : Nat := off / 1024

/-- The same for the granules of `n` bytes of local memory. -/
def State.cowGranules (s : State) (c off n : Nat) : State :=
  if s.jobs.isEmpty ∨ n = 0 then s
  else (List.range (granule (off + n - 1) - granule off + 1)).foldl (fun s i => s.cowUnit c (granule off + i)) s

end Sys2Proof.Machine
end

