-- ==== Sys2Proof/Machine/Float.lean ====
section
/-! DEFINITION. The number formats and the exact arithmetic of R194 to R211: a value is unpacked to an exact dyadic
number, the operation is done exactly, and the result is rounded once. -/

namespace Sys2Proof.Machine

/-- A floating-point format (R194): exponent bits, fraction bits, bias; `noInf` is the e4m3 rule. -/
structure Fmt where
  ebits : Nat
  fbits : Nat
  bias  : Nat
  noInf : Bool
  deriving DecidableEq, Repr

/-- R194: f64. -/
def Fmt.f64 : Fmt := ⟨11, 52, 1023, false⟩
/-- R194: f32. -/
def Fmt.f32 : Fmt := ⟨8, 23, 127, false⟩
/-- R194: f16. -/
def Fmt.f16 : Fmt := ⟨5, 10, 15, false⟩
/-- R194: bf16. -/
def Fmt.bf16 : Fmt := ⟨8, 7, 127, false⟩
/-- R194: e4m3. -/
def Fmt.e4m3 : Fmt := ⟨4, 3, 7, true⟩
/-- R194: e5m2. -/
def Fmt.e5m2 : Fmt := ⟨5, 2, 15, false⟩

/-- The bits of a format. -/
def Fmt.width (f : Fmt) : Nat := 1 + f.ebits + f.fbits

/-- An unpacked value: a NaN (signalling or not), an infinity, or the exact number `±m · 2 ^ e`. -/
inductive FVal where
  | nan (signalling : Bool)
  | inf (neg : Bool)
  | fin (neg : Bool) (m : Nat) (e : Int)
  deriving DecidableEq, Repr

/-- The five flags of R205, in the order of FCSR.FLAGS: [4] NV, [3] DZ, [2] OF, [1] UF, [0] NX. -/
abbrev Flags5 := BitVec 5

/-- No flag. -/
def Flags5.none : Flags5 := 0
/-- NV. -/
def Flags5.nv : Flags5 := 16
/-- DZ. -/
def Flags5.dz : Flags5 := 8
/-- OF, always with NX (R205). -/
def Flags5.ofnx : Flags5 := 5
/-- UF. -/
def Flags5.uf : Flags5 := 2
/-- NX. -/
def Flags5.nx : Flags5 := 1

/-- NV when `b`. -/
def nvIf (b : Bool) : Flags5 := if b then Flags5.nv else Flags5.none

/-- R194: the value of a bit pattern. -/
def Fmt.unpack (f : Fmt) (b : Nat) : FVal :=
  let neg := b.testBit (f.ebits + f.fbits)
  let ex := b / 2 ^ f.fbits % 2 ^ f.ebits
  let fr := b % 2 ^ f.fbits
  let eLow : Int := 1 - (f.bias : Int) - f.fbits
  if ex = 0 then .fin neg fr eLow
  else if ex = 2 ^ f.ebits - 1 ∧ ¬ f.noInf then
    if fr = 0 then .inf neg else .nan (decide (fr < 2 ^ (f.fbits - 1)))
  else if f.noInf ∧ ex = 2 ^ f.ebits - 1 ∧ fr = 2 ^ f.fbits - 1 then .nan false
  else .fin neg (2 ^ f.fbits + fr) ((ex : Int) - f.bias - f.fbits)

/-- R196: the canonical NaN: the positive quiet pattern. -/
def Fmt.canonNan (f : Fmt) : Nat :=
  if f.noInf then (2 ^ f.ebits - 1) * 2 ^ f.fbits + (2 ^ f.fbits - 1)
  else (2 ^ f.ebits - 1) * 2 ^ f.fbits + 2 ^ (f.fbits - 1)

/-- The sign bit of a pattern. -/
def Fmt.sign (f : Fmt) (neg : Bool) : Nat := if neg then 2 ^ (f.ebits + f.fbits) else 0

/-- The infinity of a format; e4m3 has none and gives its NaN (R204). -/
def Fmt.infBits (f : Fmt) (neg : Bool) : Nat :=
  if f.noInf then f.canonNan else f.sign neg + (2 ^ f.ebits - 1) * 2 ^ f.fbits

/-- R194: the largest finite value. -/
def Fmt.maxBits (f : Fmt) (neg : Bool) : Nat :=
  f.sign neg + (if f.noInf then (2 ^ f.ebits - 1) * 2 ^ f.fbits + (2 ^ f.fbits - 2)
    else (2 ^ f.ebits - 2) * 2 ^ f.fbits + (2 ^ f.fbits - 1))

/-- R201: the rounding modes of FCSR.RM. -/
inductive RM where
  | rne | rtz | rdn | rup
  deriving DecidableEq, Repr

/-- FCSR.RM (R201, R206). -/
def RM.ofBits : Nat → RM
  | 0 => .rne
  | 1 => .rtz
  | 2 => .rdn
  | _ => .rup

/-- R201: whether a magnitude `q` with a remainder is rounded up; `half` compares the remainder with one half. -/
def RM.up (rm : RM) (neg odd inexact : Bool) (half : Ordering) : Bool :=
  match rm with
  | .rne => half == .gt || (half == .eq && odd)
  | .rtz => false
  | .rdn => inexact && neg
  | .rup => inexact && !neg

/-- Round `m · 2 ^ e` (a little more when `sticky`) to a multiple of `2 ^ q`: the multiple, and whether it differs. -/
def roundAt (rm : RM) (neg : Bool) (m : Nat) (e q : Int) (sticky : Bool) : Nat × Bool :=
  if q ≤ e then (m * 2 ^ (e - q).toNat + (if rm.up neg false sticky .lt then 1 else 0), sticky)
  else
    let n := (q - e).toNat
    let hi := m / 2 ^ n
    let lo := m % 2 ^ n
    let inexact := sticky || lo != 0
    let half := compare (2 * lo + (if sticky then 1 else 0)) (2 ^ n)
    (hi + (if rm.up neg (hi % 2 == 1) inexact half then 1 else 0), inexact)

/-- R201: round the non-zero number `±m · 2 ^ e` (a little more in magnitude when `sticky`) to a format.
A caller that sets `sticky` gives at least two bits more than the format's precision. -/
def Fmt.round (f : Fmt) (rm : RM) (neg : Bool) (m : Nat) (e : Int) (sticky : Bool) : Nat × Flags5 :=
  if m = 0 ∧ ¬ sticky then (f.sign neg, Flags5.none)
  else
    let eMin : Int := 1 - (f.bias : Int)
    let top : Int := (m.log2 : Int) + e
    let qFree := top - f.fbits
    let q := max qFree (eMin - f.fbits)
    let r := roundAt rm neg m e q sticky
    let free := roundAt rm neg m e qFree sticky
    -- R201: tininess is detected after rounding, with the exponent unbounded
    let tiny := decide (top < eMin) && !(decide (top = eMin - 1) && decide (free.1 = 2 ^ (f.fbits + 1)))
    let carry := decide (r.1 = 2 ^ (f.fbits + 1))
    let man := if carry then 2 ^ f.fbits else r.1
    let qq := if carry then q + 1 else q
    let bexp : Nat := if man < 2 ^ f.fbits then 0 else (qq + f.fbits + f.bias).toNat
    let frac := if man < 2 ^ f.fbits then man else man - 2 ^ f.fbits
    let ovf := if f.noInf then decide (2 ^ f.ebits - 1 < bexp) || (bexp == 2 ^ f.ebits - 1 && frac == 2 ^ f.fbits - 1)
      else decide (2 ^ f.ebits - 1 ≤ bexp)
    if ovf then
      let toInf := match rm with
        | .rne => true
        | .rtz => false
        | .rdn => neg
        | .rup => !neg
      (if toInf then f.infBits neg else f.maxBits neg, Flags5.ofnx)
    else
      (f.sign neg + bexp * 2 ^ f.fbits + frac,
        (if r.2 then Flags5.nx else 0) ||| (if tiny && r.2 then Flags5.uf else 0))

/-- Round an unpacked value to a format. A NaN gives the canonical NaN (R196). -/
def Fmt.pack (f : Fmt) (rm : RM) (v : FVal) : Nat × Flags5 :=
  match v with
  | .nan _ => (f.canonNan, Flags5.none)
  | .inf neg => (f.infBits neg, Flags5.none)
  | .fin neg m e => f.round rm neg m e false

/-- Whether a value is a NaN. -/
def FVal.isNan : FVal → Bool
  | .nan _ => true
  | _ => false

/-- Whether a value is a signalling NaN. -/
def FVal.isSig : FVal → Bool
  | .nan s => s
  | _ => false

/-- Whether a value is an infinity. -/
def FVal.isInf : FVal → Bool
  | .inf _ => true
  | _ => false

/-- Whether a value is a zero. -/
def FVal.isZero : FVal → Bool
  | .fin _ m _ => m == 0
  | _ => false

/-- The sign of a value. A NaN has none. -/
def FVal.neg? : FVal → Bool
  | .nan _ => false
  | .inf n => n
  | .fin n _ _ => n

/-- The value with its sign flipped. -/
def FVal.negate : FVal → FVal
  | .nan s => .nan s
  | .inf n => .inf (!n)
  | .fin n m e => .fin (!n) m e

/-- The magnitude of a value. -/
def FVal.abs : FVal → FVal
  | .nan s => .nan s
  | .inf _ => .inf false
  | .fin _ m e => .fin false m e

/-- A zero of a sign. -/
def FVal.zero (neg : Bool) : FVal := .fin neg 0 0

/-- An integer as a value. -/
def FVal.ofInt (z : Int) : FVal := .fin (decide (z < 0)) z.natAbs 0

/-- R205, R211: the exact product of factors, and whether it is invalid (a zero and an infinity, or a signalling NaN). -/
def mulVals (fs : List FVal) : FVal × Bool :=
  let invalid := fs.any FVal.isSig || (fs.any FVal.isZero && fs.any FVal.isInf)
  let neg := fs.foldl (fun s v => xor s v.neg?) false
  if invalid || fs.any FVal.isNan then (.nan false, invalid)
  else if fs.any FVal.isInf then (.inf neg, false)
  else
    let p := fs.foldl (fun (acc : Nat × Int) v => match v with
      | .fin _ m e => (acc.1 * m, acc.2 + e)
      | _ => acc) (1, 0)
    (.fin neg p.1 p.2, false)

/-- The least exponent of the terms. -/
def minExp : List FVal → Option Int
  | [] => none
  | .fin _ m e :: t => if m = 0 then minExp t else match minExp t with
    | none => some e
    | some x => some (min e x)
  | _ :: t => minExp t

/-- The exact sum of the finite terms, in units of `2 ^ e`. -/
def sumAt (e : Int) : List FVal → Int
  | [] => 0
  | .fin n m x :: t =>
    let z : Int := if m = 0 then 0 else (m * 2 ^ (x - e).toNat : Nat)
    sumAt e t + (if n then -z else z)
  | _ :: t => sumAt e t

/-- R205, R209, R211: the exact sum of terms, and whether it is invalid (a signalling NaN term, or infinite terms of
both signs). An exact zero is -0 when every term is -0, and in RDN when not every term is +0. -/
def sumVals (rm : RM) (ts : List FVal) : FVal × Bool :=
  let both := ts.any (fun v => v == .inf true) && ts.any (fun v => v == .inf false)
  let invalid := both || ts.any FVal.isSig
  if invalid || ts.any FVal.isNan then (.nan false, invalid)
  else if ts.any FVal.isInf then (.inf (ts.any (fun v => v == .inf true)), false)
  else match minExp ts with
    | none =>
      let allNeg := ts.all FVal.neg?
      let allPos := ts.all (fun v => !v.neg?)
      (.zero (if rm == .rdn then !allPos else allNeg && !ts.isEmpty), false)
    | some e =>
      let z := sumAt e ts
      if z = 0 then (.zero (rm == .rdn), false) else (.fin (decide (z < 0)) z.natAbs e, false)

/-- A rounded result with its flags. -/
structure FRes where
  bits  : Nat
  flags : Flags5
  deriving DecidableEq, Repr

/-- Pack an exact value with an invalid mark. -/
def packInv (f : Fmt) (rm : RM) (v : FVal × Bool) : FRes :=
  let p := f.pack rm v.1
  ⟨p.1, p.2 ||| nvIf v.2⟩

/-- a + b, rounded once. -/
def fAdd (f : Fmt) (rm : RM) (a b : FVal) : FRes := packInv f rm (sumVals rm [a, b])

/-- a − b, rounded once. -/
def fSub (f : Fmt) (rm : RM) (a b : FVal) : FRes := packInv f rm (sumVals rm [a, b.negate])

/-- a × b, rounded once. -/
def fMul (f : Fmt) (rm : RM) (a b : FVal) : FRes := packInv f rm (mulVals [a, b])

/-- a × b + c, rounded once (R202); 0 × ∞ is invalid whatever c is (R238). -/
def fFma (f : Fmt) (rm : RM) (a b c : FVal) : FRes :=
  let p := mulVals [a, b]
  let s := sumVals rm [p.1, c]
  packInv f rm (s.1, s.2 || p.2)

/-- a / b, rounded once (R238). -/
def fDiv (f : Fmt) (rm : RM) (a b : FVal) : FRes :=
  let neg := xor a.neg? b.neg?
  let invalid := a.isSig || b.isSig || (a.isZero && b.isZero) || (a.isInf && b.isInf)
  if invalid || a.isNan || b.isNan then ⟨f.canonNan, nvIf invalid⟩
  else match a, b with
    | .inf _, _ => ⟨f.infBits neg, Flags5.none⟩
    | _, .inf _ => ⟨f.sign neg, Flags5.none⟩
    | .fin _ ma ea, .fin _ mb eb =>
      if mb = 0 then ⟨f.infBits neg, Flags5.dz⟩
      else if ma = 0 then ⟨f.sign neg, Flags5.none⟩
      else
        let k := f.fbits + 4 + bitLen mb
        let q := ma * 2 ^ k / mb
        let r := f.round rm neg q (ea - eb - k) (ma * 2 ^ k % mb != 0)
        ⟨r.1, r.2⟩
    | _, _ => ⟨f.canonNan, Flags5.none⟩

/-- The integer square root, one bit of the result at a time from bit `i - 1` down. -/
def isqrtFrom (n : Nat) : Nat → Nat → Nat
  | 0, r => r
  | i + 1, r => if (r + 2 ^ i) * (r + 2 ^ i) ≤ n then isqrtFrom n i (r + 2 ^ i) else isqrtFrom n i r

/-- The integer square root. -/
def isqrt (n : Nat) : Nat := isqrtFrom n (bitLen n / 2 + 1) 0

/-- √a, rounded once (R238). -/
def fSqrt (f : Fmt) (rm : RM) (a : FVal) : FRes :=
  match a with
  | .nan s => ⟨f.canonNan, nvIf s⟩
  | .inf neg => if neg then ⟨f.canonNan, Flags5.nv⟩ else ⟨f.infBits false, Flags5.none⟩
  | .fin neg m e =>
    if m = 0 then ⟨f.sign neg, Flags5.none⟩
    else if neg then ⟨f.canonNan, Flags5.nv⟩
    else
      let k := 2 * (f.fbits + 4)
      let k := if (e - k) % 2 = 0 then k else k + 1
      let n := m * 2 ^ k
      let r := isqrt n
      let p := f.round rm false r ((e - k) / 2) (r * r != n)
      ⟨p.1, p.2⟩

/-- The order of two values that are not NaNs; the zeros compare equal. -/
def FVal.cmp (a b : FVal) : Ordering :=
  match a, b with
  | .inf x, .inf y => if x = y then .eq else if x then .lt else .gt
  | .inf x, _ => if x then .lt else .gt
  | _, .inf y => if y then .gt else .lt
  | .fin _ ma ea, .fin _ mb eb =>
    let e := min ea eb
    let z := fun (n : Bool) (m : Nat) (x : Int) => (let w : Int := (m * 2 ^ (x - e).toNat : Nat); if n then -w else w)
    compare (z a.neg? ma ea) (z b.neg? mb eb)
  | _, _ => .eq

/-- The order with -0 below +0 (R205). -/
def FVal.cmpTotal (a b : FVal) : Ordering :=
  match a.cmp b with
  | .eq => if a.isZero && b.isZero then
      (if a.neg? = b.neg? then .eq else if a.neg? then .lt else .gt) else .eq
  | o => o

/-- R205, R239: IEEE 754-2019 minimum or maximum, exact. -/
def minMaxVal (isMax : Bool) (a b : FVal) : FVal × Bool :=
  if a.isNan || b.isNan then (.nan false, a.isSig || b.isSig)
  else match a.cmpTotal b with
    | .lt => (if isMax then b else a, false)
    | _ => (if isMax then a else b, false)

/-- `fmin`, `fmax` (R239). -/
def fMinMax (f : Fmt) (isMax : Bool) (a b : FVal) : FRes := packInv f .rne (minMaxVal isMax a b)

/-- The four compares (R239, R324). -/
inductive Cmp where
  | eq | ne | lt | le
  deriving DecidableEq, Repr

/-- The truth of a compare on an order. -/
def Cmp.test (c : Cmp) (o : Ordering) : Bool :=
  match c with
  | .eq => o == .eq
  | .ne => o != .eq
  | .lt => o == .lt
  | .le => o != .gt

/-- R205: a compare is false for a NaN, but for `ne`; NV only for a signalling NaN. -/
def fCmp (c : Cmp) (a b : FVal) : Bool × Flags5 :=
  if a.isNan || b.isNan then (c == .ne, nvIf (a.isSig || b.isSig))
  else (c.test (a.cmp b), Flags5.none)

/-- R203: a conversion between floating-point formats. -/
def fConv (g : Fmt) (rm : RM) (a : FVal) : FRes :=
  let p := g.pack rm a
  ⟨p.1, p.2 ||| nvIf a.isSig⟩

/-- R203: a float to an integer of `w` bits; the range test uses the rounded value. -/
def fToInt (w : Nat) (rm : RM) (a : FVal) : Int × Flags5 :=
  let hi : Int := 2 ^ (w - 1) - 1
  let lo : Int := -2 ^ (w - 1)
  match a with
  | .nan _ => (0, Flags5.nv)
  | .inf neg => (if neg then lo else hi, Flags5.nv)
  | .fin neg m e =>
    if m = 0 then (0, Flags5.none)
    else if 200 < (m.log2 : Int) + e then (if neg then lo else hi, Flags5.nv)
    else
      let r := roundAt rm neg m e 0 false
      let z : Int := if neg then -(r.1 : Int) else r.1
      if z < lo then (lo, Flags5.nv) else if hi < z then (hi, Flags5.nv)
      else (z, if r.2 then Flags5.nx else Flags5.none)

/-- R203: an integer to a float. -/
def fOfInt (f : Fmt) (rm : RM) (z : Int) : FRes :=
  let p := f.pack rm (.ofInt z)
  ⟨p.1, p.2⟩

/-- R204: an encoding into e4m3 or e5m2, RNE with the saturate control. -/
def encodeFp8 (f : Fmt) (sat : Bool) (a : FVal) : FRes :=
  match a with
  | .nan s => ⟨f.canonNan, nvIf s⟩
  | .inf neg =>
    if f.noInf then ⟨if sat then f.maxBits neg else f.canonNan, Flags5.nv⟩ else ⟨f.infBits neg, Flags5.none⟩
  | .fin neg m e =>
    let p := f.round .rne neg m e false
    if p.2 &&& 4 = 4 then ⟨if sat then f.maxBits neg else f.infBits neg, Flags5.ofnx⟩ else ⟨p.1, p.2⟩

/-- The encoding into any format: R204 for the FP8 formats, RNE otherwise. -/
def encodeTo (f : Fmt) (sat : Bool) (a : FVal) : FRes :=
  if f.width = 8 then encodeFp8 f sat a else fConv f .rne a

end Sys2Proof.Machine
end

