-- ==== Sys2Proof/Machine/Operands.lean ====
section
/-! DEFINITION. Operand forms: immediates and offsets (R215), the object table (R165), handle words (R247), the checks of
R166, and the translation of object pages (R347, R348). -/

namespace Sys2Proof.Machine

/-! ## Immediates and offsets (R215, R249) -/

/-- The effective byte offset of format M: x(xa) signed, plus the sign-extended immediate times the size (R249). -/
def State.effOff (s : State) (a : BitVec 5) (o : BitVec 9) (size : Nat) : Int := (s.x a).toInt + o.toInt * size

/-- A PC-relative target: the word offset of the instruction, sign-extended (R215). -/
def relTarget {n : Nat} (pc : Word) (off : BitVec n) : Word := pc + sext64 off * 4

/-- The low 48 bits of an offset, for EVAL (R248). -/
def off48 (o : Int) : Nat := (o % (2 ^ 48 : Nat)).toNat

/-- EVAL of a handle cause: the index in [63:48], the offset below (R248). -/
def hEval (index : Nat) (low : Nat) : Word := word (index * 2 ^ 48 + low)

/-! ## Object-table entries (R165) -/

/-- The eight words of an entry decoded (R165). -/
def entOfWords (index key : Nat) (w : List Word) : Ent :=
  let g := fun i => w.getD i 0
  let bindRsv := (List.range 4).any (fun j => bits (g 4) (16 * j + 7) (16 * j + 6) != 0)
  { index := index, key := key, base := bits (g 0) 47 0, len := bits (g 1) 47 0, die := bits (g 2) 63 62,
    tier := bits (g 2) 61 60, mig := bits (g 2) 59 58, qv := bit (g 2) 57, qt := bit (g 2) 56, acct := bits (g 2) 55 50,
    fmt := bits (g 2) 49 46, cbslot := bits (g 2) 45 34, gen := bits (g 2) 15 0, owner := bits (g 3) 63 48,
    rights := bits (g 3) 6 0, binds := g 4, pmap := bits (g 5) 63 12 * 4096, poolh := bits (g 6) 63 48,
    npool := bits (g 6) 47 43,
    rsvBad := bits (g 0) 63 48 != 0 || bits (g 1) 63 48 != 0 || bits (g 2) 33 16 != 0 || bits (g 3) 47 7 != 0 || bindRsv
      || bits (g 5) 11 0 != 0 || bits (g 6) 42 0 != 0 || g 7 != 0 || (8 ≤ bits (g 2) 49 46 && bits (g 2) 49 46 ≤ 14)
      || 16 < bits (g 6) 47 43 }

/-- PLACE as a byte (R53). -/
def Ent.place (e : Ent) : Nat := e.die * 64 + e.tier * 16 + e.mig * 4 + b2n e.qv * 2 + b2n e.qt

/-- The words of an entry. -/
def Ent.words (e : Ent) : List Word :=
  [word e.base, word e.len,
    word (e.place * 2 ^ 56 + e.acct * 2 ^ 50 + e.fmt * 2 ^ 46 + e.cbslot * 2 ^ 34 + e.gen),
    word (e.owner * 2 ^ 48 + e.rights), e.binds, word e.pmap, word (e.poolh * 2 ^ 48 + e.npool * 2 ^ 43), 0]

/-- The address of entry `index` of a context's table. -/
def State.entKey (s : State) (p : Proc) (index : Nat) : Nat := s.tableKey p.part (p.otbase + 64 * index)

/-- Eight-byte words of memory. -/
def State.memWords (s : State) (key n : Nat) : List Word :=
  (List.range n).map (fun i => word (s.mem.getLE (key + 8 * i) 8))

/-- Entry `index` of a context's object table; none beyond OTLEN. -/
def State.ent (s : State) (ctxid index : Nat) : Option Ent :=
  match s.proc? ctxid with
  | none => none
  | some p =>
    if index < p.otlen then some (entOfWords index (s.entKey p index) (s.memWords (s.entKey p index) 8)) else none

/-- Write an entry back. -/
def State.putEnt (s : State) (e : Ent) : State :=
  { s with mem := s.mem.putRange e.key (e.words.flatMap (fun w => leBytes 8 w.toNat)) }

/-- A free entry of the object table has LENGTH 0 (R165). -/
def Ent.free (e : Ent) : Bool := e.len == 0

/-- The home slices of the die an entry names are not none, for tier 0 (R50, step 1 of R166). -/
def State.hasHome (s : State) (ctxid : Nat) (e : Ent) : Bool :=
  e.tier != 0 || (match s.proc? ctxid with
    | some p => !((s.part p.part).slices.get e.die []).isEmpty
    | none => false)

/-- A context's entry that passes step 1 of R166. -/
def State.liveEnt (s : State) (ctxid index : Nat) : Option Ent :=
  match s.ent ctxid index with
  | some e => if index != 0 && !e.free && !e.rsvBad && s.hasHome ctxid e then some e else none
  | none => none

/-- A handle word (R247) with GV 1. -/
def handleWord (index gen : Nat) : Word := word (2 ^ 32 + gen * 65536 + index)

/-! ## Rights (R165, R166 step 3) -/

/-- The bit numbers of RIGHTS. -/
abbrev rR : Nat := 0
/-- W -/
abbrev rW : Nat := 1
/-- X -/
abbrev rX : Nat := 2
/-- A -/
abbrev rA : Nat := 3
/-- S -/
abbrev rS : Nat := 4
/-- M -/
abbrev rM : Nat := 5
/-- J -/
abbrev rJ : Nat := 6

/-- The cause of a missing right; M raises H_RIGHT_R and J raises H_RIGHT_S (R166). -/
def rightCause (r : Nat) : Nat :=
  if r = rR ∨ r = rM then Cause.hRightR else if r = rW then Cause.hRightW else if r = rX then Cause.hRightX
  else if r = rA then Cause.hRightA else Cause.hRightS

/-- A cause found by a check, with EVAL and the reason of R347. -/
structure Bad where
  cause   : Nat
  eval    : Word
  preason : Nat
  deriving DecidableEq, Repr

/-- A cause with no reason of R347. -/
def Bad.of (cause : Nat) (eval : Word) : Bad := ⟨cause, eval, 0⟩

/-- Raise a found cause precisely. -/
def raise {α : Type} (b : Bad) : M α := throw (.trap b.cause b.eval 0 b.preason)

/-- Raise what a check found, or go on. -/
def ofCheck {α : Type} (r : Except Bad α) : M α :=
  match r with
  | .ok a => pure a
  | .error b => raise b

/-- The line of an entry of the object table is lost or poisoned: an access that names the entry consumes the poison (R50, R101). -/
def State.entLost (s : State) (ctxid index : Nat) : Bool := match s.proc? ctxid with
  | some p => index != 0 && decide (index < p.otlen) && s.tableLost (s.entKey p index) 64
  | none => false

/-- A handle names an entry that has been freed since: it is stale rather than invalid (R261; log entry 140). -/
def State.freedUnder (s : State) (ctxid : Nat) (h : Handle) : Bool := match s.ent ctxid h.index.toNat with
  | some e => h.index != 0 && e.free && e.gen != h.gen.toNat
  | none => false

/-- Steps 1 and 2 of R166. -/
def State.checkLive (s : State) (ctxid : Nat) (h : Handle) (low : Nat) : Except Bad Ent :=
  if s.entLost ctxid h.index.toNat then .error (Bad.of Cause.uncorrData (hEval h.index.toNat low))
  else match s.liveEnt ctxid h.index.toNat with
  | none => .error (Bad.of (if s.freedUnder ctxid h then Cause.hStale else Cause.hInvalid) (hEval h.index.toNat low))
  | some e => if e.gen = h.gen.toNat then .ok e else .error (Bad.of Cause.hStale (hEval h.index.toNat low))

/-- Step 3 of R166: the first missing right of a list. -/
def checkRights (index : Nat) (rights : Nat) : List Nat → Except Bad Unit
  | [] => .ok ()
  | r :: t => if rights.testBit r then checkRights index rights t
    else .error (Bad.of (rightCause r) (hEval index r))

/-! ## Page translation (R347, R348) -/

/-- What an access wants of its page. -/
inductive Use where
  | read | write | fetch
  deriving DecidableEq, Repr

/-- R52, R347: whether a reserved bit of a page entry is set. -/
def pteRsv (w : Word) : Bool :=
  bit w 60 || (match bits w 59 58 with
    | 2 => bits w 57 40 != 0
    | 3 => false
    | _ => bits w 57 40 != 0)

/-- Step 7 of R166 on a page entry. -/
def checkPte (w : Word) (use : Use) (ev : Word) : Except Bad Unit :=
  if !bit w 63 then .error (Bad.of Cause.pageMiss ev)
  else if pteRsv w then .error ⟨Cause.pageProt, ev, 3⟩
  else match use with
    | .read => .ok ()
    | .write => if bit w 61 || bit w 62 then .error ⟨Cause.pageProt, ev, 1⟩ else .ok ()
    | .fetch => if bit w 62 then .ok () else .error ⟨Cause.pageProt, ev, 2⟩

/-- The address in memory of the page map that an entry names. -/
def State.mapKey (s : State) (ctxid : Nat) (e : Ent) : Nat :=
  match s.proc? ctxid with
  | some p => s.tableKey p.part e.pmap
  | none => 0

/-- The device's record of the page map that an entry names; a map that supervisor code wrote has no allocating handle and
no recorded charge (R56). -/
def State.mapOf (s : State) (ctxid : Nat) (e : Ent) : MapRec :=
  (s.maps.look (s.mapKey ctxid e)).getD ⟨ctxid, 0, [], false, e.base, ceilDiv e.len 65536, e.die, none⟩

/-- The object address of byte 0 of an object's page map: what the device records of the object the map was made for, when
the entry lies in that object; BASE for any other entry that names the map (R258, R347; log entry 10). -/
def State.mapBase (s : State) (ctxid : Nat) (e : Ent) : Nat :=
  match s.maps.look (s.mapKey ctxid e) with
  | some r => if r.base ≤ e.base && e.base < r.base + 65536 * r.npages then r.base else e.base
  | none => e.base

/-- The address in memory of the page-map entry for an offset of an object (R347). -/
def State.pteKey (s : State) (ctxid : Nat) (e : Ent) (off : Nat) : Nat :=
  match s.proc? ctxid with
  | none => 0
  | some p => s.tableKey p.part (e.pmap + 8 * ((e.base + off - s.mapBase ctxid e) / 65536))

/-- The home of a byte, from its page entry (R49, R52). -/
def homeOf (part die : Nat) (pte : Word) (inPage : Nat) : Home :=
  match bits pte 59 58 with
  | 0 => .mem (memKey part 0 die (bits pte 39 0 * 65536 + inPage))
  | 1 => .mem (memKey part 1 0 (bits pte 39 0 * 65536 + inPage))
  | 2 => .host (bits pte 39 0 * 65536 + inPage)
  | _ => .peer (bits pte 57 52) (bits pte 51 36) (bits pte 35 20) (bits pte 19 0) inPage

/-- Step 7 of R166 for one byte, by the map in memory. -/
def State.translate (s : State) (ctxid : Nat) (e : Ent) (off : Nat) (use : Use) (ev : Word) : Except Bad Home :=
  let pte := word (s.mem.getLE (s.pteKey ctxid e off) 8)
  if s.tableLost (s.pteKey ctxid e off) 8 then .error (Bad.of Cause.uncorrData ev)
  else match checkPte pte use ev with
  | .error b => .error b
  | .ok _ =>
    let part := match s.proc? ctxid with
      | some p => p.part
      | none => 0
    .ok (homeOf part e.die pte ((e.base + off - s.mapBase ctxid e) % 65536))

/-- R49: a page-map entry enters a cluster's translation cache. A host page gets the home slice that first maps it: that with the
number of the cluster that asked first (log entry 98). -/
def State.mapPage (s : State) (cl key : Nat) (pte : Word) : State :=
  let s := s.modCluster cl (fun k => { k with tcache := k.tcache.put key pte })
  if bits pte 59 58 = 2 ∧ (s.hostHomes.look (bits pte 39 0)).isNone then { s with hostHomes := s.hostHomes.put (bits pte 39 0) cl }
  else s

/-- R348: the same through a cluster's translation cache. A hit that would refuse the access is read again from the map:
the cache may drop an entry at any time. -/
def State.translateVia (s : State) (cl ctxid : Nat) (e : Ent) (off : Nat) (use : Use) (ev : Word) :
    Except Bad Home × State :=
  let key := s.pteKey ctxid e off
  let part := match s.proc? ctxid with
    | some p => p.part
    | none => 0
  let inPage := (e.base + off - s.mapBase ctxid e) % 65536
  let hit := match (s.cluster cl).tcache.look key with
    | some w => (match checkPte w use ev with
      | .ok _ => some w
      | .error _ => none)
    | none => none
  match hit with
  | some w => (.ok (homeOf part e.die w inPage), s)
  | none =>
    let pte := word (s.mem.getLE key 8)
    if s.tableLost key 8 then (.error (Bad.of Cause.uncorrData ev), s)
    else match checkPte pte use ev with
    | .error b => (.error b, s)
    | .ok _ =>
      (.ok (homeOf part e.die pte inPage), s.mapPage cl key pte)

/-- Whether a cluster's translation cache holds an entry that serves an access. -/
def State.mapCached (s : State) (cl key : Nat) (use : Use) : Bool := match (s.cluster cl).tcache.look key with
  | some w => (match checkPte w use 0 with
    | .ok _ => true
    | .error _ => false)
  | none => false

/-- R348: a miss goes to the translation queue of its block, where misses on one page merge; none when the queue is full. -/
def State.queueMiss (s : State) (block key : Nat) : Option State :=
  if s.tqueue.contains (block, key) then some s
  else if 256 ≤ (s.tqueue.filter (fun t => t.1 == block)).length then none
  else some { s with tqueue := s.tqueue ++ [(block, key)] }

/-- The offsets of the first byte an access has in each 64 KiB page of the map. -/
def pageStarts (rel size : Nat) : List Nat :=
  (List.range (if size = 0 then 1 else (rel + size - 1) / 65536 - rel / 65536 + 1)).map (fun i =>
    if i = 0 then 0 else (rel / 65536 + i) * 65536 - rel)

/-- Step 7 for every page an access touches: the home of the first byte in each. -/
def translateAll (cl ctxid : Nat) (e : Ent) (off : Nat) (use : Use) (ev : Word) : List Nat → State →
    Except Bad (List (Nat × Home)) × State
  | [], s => (.ok [], s)
  | d :: t, s => match s.translateVia cl ctxid e (off + d) use ev with
    | (.error b, s) => (.error b, s)
    | (.ok h, s) => match translateAll cl ctxid e off use ev t s with
      | (.error b, s) => (.error b, s)
      | (.ok r, s) => (.ok ((d, h) :: r), s)

/-! ## The checks of R166 -/

/-- What an access needs. -/
structure Need where
  rights : List Nat
  size   : Nat
  plain  : Bool
  align  : Nat
  atomic : Bool
  use    : Use
  deriving DecidableEq, Repr

/-- Step 6 of R166: a scalar access, an atomic and a reduction are aligned by their address, BASE plus the offset, so that none
straddles a line (R178, R258; log entry 97); a range is aligned by its offset (R313). -/
def Need.misaligned (n : Need) (e : Ent) (off : Nat) : Bool :=
  n.align != 0 && (if n.align = n.size ∧ e.fmt ≠ 15 then e.base + off else off) % n.align != 0

/-- Steps 1 to 6 of R166 in order for a global object; a gang window grants R and W only (R168). -/
def State.checkEnt (s : State) (ctxid : Nat) (h : Handle) (off : Int) (n : Need) : Except Bad Ent :=
  let ev := hEval h.index.toNat (off48 off)
  match s.checkLive ctxid h (off48 off) with
  | .error b => .error b
  | .ok e => match checkRights e.index (if e.fmt = 15 then e.rights % 4 else e.rights) n.rights with
    | .error b => .error b
    | .ok _ =>
      if n.plain && e.rights.testBit rS then .error (Bad.of Cause.syncStore ev)
      else if off < 0 || (e.len : Int) < off + n.size then .error (Bad.of Cause.hBound ev)
      else if n.misaligned e off.toNat then
        .error (Bad.of (if n.atomic then Cause.atomicAlign else Cause.hAlign) ev)
      else .ok e

/-- Add an amount to the place of a home. -/
def Home.plus (h : Home) (d : Nat) : Home :=
  match h with
  | .mem k => .mem (k + d)
  | .host a => .host (a + d)
  | .peer v c n p o => .peer v c n p (o + d)
  | .gone => .gone

/-- The home of byte `d` of an access. -/
def Acc.homeAt (a : Acc) (d : Nat) : Home :=
  a.homes.foldl (fun acc p => if p.1 ≤ d then p.2.plus (d - p.1) else acc) .gone

end Sys2Proof.Machine
end

