-- ==== Sys2Proof/Machine/Path.lean ====
section
/-! DEFINITION. The path of an access (R169–R172, R176, R179): L1 data cache, virtual caches from the leaf to home, and the
home of a line; the write queue (R252); releases and acquires on a path (R359, R360). Every stage merges only the bytes its
mask names. -/

namespace Sys2Proof.Machine

/-! ## Homes (R49 to R52) -/

/-- Read `n` bytes at a home, with whether poison is among them. A line whose home is gone reads as poison (R107). The bytes of
a page of another device come in replies; where the device reads such a page in one step they are free values (log entry 45). -/
def State.homeRead (s : State) (h : Home) (n : Nat) : List Byte × Bool :=
  match h with
  | .mem key => if s.inService key then (s.mem.getRange key n, s.mem.poisoned key n) else (List.replicate n 0, true)
  | .host a => (s.host.getRange a n, s.host.poisoned a n)
  | .peer dev rctx rhnd page off => ((List.range n).map (fun i => Config.peerByte s.stepNo dev rctx rhnd page (off + i)), false)
  | .gone => (List.replicate n 0, true)

/-- The bytes of a store that memory accepts: the USED fields of an account table (R55), MIG, QV, QT of PLACE (R53) and
the CODE bit of a page entry (R347) take no store. DIE and TIER take none while MIG is not 0. -/
def State.roMask (s : State) (key n mask : Nat) : Nat :=
  let hits := (s.procs.filter (fun p => !p.2.retired)).foldl (fun m p =>
    let a := s.tableKey p.2.part (p.2.acctbase * 1024)
    (List.range n).foldl (fun m i =>
      let k := key + i
      let inAcct := a ≤ k && k < a + 1024 && ((k - a) % 16 < 4 || (8 ≤ (k - a) % 16 && (k - a) % 16 < 12))
      if inAcct && m.testBit i then m - 2 ^ i else m) m) mask
  hits

/-- Whether a byte lies in a page map that a live entry of some context names (R347). -/
def State.namedMap (s : State) (k : Nat) : Bool := s.procs.any (fun p => !p.2.retired && (List.range p.2.otlen).any (fun i =>
  match s.liveEnt p.1 i with
  | some e =>
    let a := s.tableKey p.2.part e.pmap
    e.fmt != 15 && decide (a ≤ k ∧ k < a + 8 * ceilDiv e.len 65536)
  | none => false))

/-- The byte of PLACE and the byte of a page entry that hold RO fields, with the bits a store may change. -/
def State.roByte (s : State) (k : Nat) (new : Byte) : Byte :=
  let old := s.mem.get k
  let place := s.procs.any (fun p =>
    let t := s.tableKey p.2.part p.2.otbase
    !p.2.retired && t ≤ k && k < t + 64 * p.2.otlen && (k - t) % 64 = 23)
  let pte := decide (k % 8 = 7) && (s.maps.any (fun r => r.1 ≤ k && k < r.1 + 8 * r.2.npages) || s.namedMap k)
  if place then (if old &&& 0x0C = 0 then (new &&& 0xF0) ||| (old &&& 0x0F) else old)
  else if pte then (new &&& 0xBF) ||| (old &&& 0x40)
  else new

/-- Page `i` of a map in transit, when it is mapped: its address now and at the destination (R58). -/
def State.pageMove (s : State) (mkey : Nat) (r : MapRec) (t : Transit) (i : Nat) : Option (Nat × Nat) :=
  let w := word (s.mem.getLE (mkey + 8 * i) 8)
  if !bit w 63 then none
  else match homeOf (keyParts mkey).1 r.die w 0 with
    | .mem k => some (k, t.dest + 65536 * i)
    | _ => none

/-- R58: where a write to a line that a transit has copied already is forwarded. -/
def State.forwardTo (s : State) (key : Nat) : List Nat :=
  s.maps.flatMap (fun r => match r.2.transit with
    | none => []
    | some t => (List.range r.2.npages).filterMap (fun p => match s.pageMove r.1 r.2 t p with
      | some (k, d) => if k = key / 65536 * 65536 ∧ p * 512 + key % 65536 / 128 < t.copied then some (d + key % 65536) else none
      | none => none))

/-- A request word Q0 (R38). -/
def q0Word (size addr : Nat) : Word := word (size * 2 ^ 61 + addr % 2 ^ 56)

/-- A request word Q1 (R38). -/
def q1Word (ctxid scope ord vc aop core handle : Nat) : Word :=
  word (ctxid * 2 ^ 48 + scope * 2 ^ 40 + ord * 2 ^ 38 + vc * 2 ^ 32 + aop * 2 ^ 27 + core * 2 ^ 24 + handle)

/-- The endpoint of a bank, by package block and bank number within it (R35, R36, R170). -/
def bankEndpoint (block bank : Nat) : Nat := block / 8 * 512 + block % 8 * 64 + bank / 2 / 6 * 16 + 6 + bank / 2 % 6

/-- Whether a message is a request, which begins with Q0 and Q1 (R38). -/
def isRequest (op : Nat) : Bool := (1 ≤ op && op ≤ 0x0D) || (0x21 ≤ op && op ≤ 0x24)

/-- A message of this device (R37). A request inside the device is encrypted with the key of the context that Q1 names; a message
that names none with the monitor's (log entry 136). -/
def mkMsg (ddev dep sdev sep tc op tag part : Nat) (col : Bool) (payload : List Word) : Msg :=
  { ddev := ddev, dep := dep, sdev := sdev, sep := sep, tc := tc, mc := false, col := col, plen := payload.length,
    rsv := 0, tagid := tag, op := op, mcmask := 0, part := part, rsv2 := 0, mctr := 0, payload := payload, poison := 0, tagOk := true, eseq := 0,
    key := if isRequest op then bits (payload.getD 1 0) 63 48 else 0 }

/-- Header word 0 of a message (R37), for the audit ring. -/
def Msg.header0 (m : Msg) : Word :=
  word (m.ddev * 2 ^ 58 + m.dep * 2 ^ 46 + m.sdev * 2 ^ 40 + m.sep * 2 ^ 28 + m.tc * 2 ^ 26 + b2n m.mc * 2 ^ 25 +
    b2n m.col * 2 ^ 24 + m.plen * 2 ^ 19 + m.rsv * 2 ^ 16 + m.tagid)

/-- Whether an endpoint of this device is in the firmware column: its cluster has firewall registers (R72, R73). -/
def State.columnEp (s : State) (dev ep : Nat) : Bool := dev == s.devId && (match niOf ep with
  | some cl => (s.mon.firewalls.look cl).isSome
  | none => false)

/-- The four permissions of a firewall register that apply: egress, TC3, TC0 and TC1, TC2 from bit 0 on (R73). -/
def fwPerms (w : Nat) : Nat := if w / 256 % 2 = 1 then w / 512 % 16 else w % 16

/-- R73: the firewall of a column cluster keeps a message to an endpoint outside the column in. -/
def State.egressRefuses (s : State) (m : Msg) : Bool := m.sdev == s.devId && (match (niOf m.sep).bind s.mon.firewalls.look with
  | some w => fwPerms w % 2 == 0 && !s.columnEp m.ddev m.dep
  | none => false)

/-- The newest generation of a context's key that every network interface of its partition holds (R86). -/
def State.keygenOf (s : State) (key : Nat) : Nat := s.mon.keygen.get key 1

/-- A sender's counter for a key (R37). -/
def State.mctr (s : State) (sep key : Nat) : Nat := s.mctrs.get (key * 4096 + sep) 0

/-- A message takes its sender's counter for its key (R37, R86); the first sender to enter a generation of a key has the next one
installed in the partition. -/
def State.stamp (s : State) (m : Msg) : Msg × State :=
  let n := s.mctr m.sep m.key
  let g := (n + 1) / 2 ^ 39
  let s := { s with mctrs := s.mctrs.put (m.key * 4096 + m.sep) (n + 1) }
  ({ m with mctr := n % 2 ^ 40 },
    if (n + 1) % 2 ^ 39 = 0 ∧ s.keygenOf m.key = g then s.post .keyGenerationInstall { Ev.zero with at_ := m.key, x := g + 1 } else s)

/-- Whether a stamped message belongs to a generation of its key that is not installed: its sender stalls (R86). The counter of the
sender says which generation MCTR[39] stands for. -/
def State.keyStall (s : State) (m : Msg) : Bool :=
  let now := s.mctr m.sep m.key
  let full := now - (now + 2 ^ 40 - m.mctr) % 2 ^ 40
  decide (s.keygenOf m.key < full / 2 ^ 39)

/-- Put a message into the fabric, with the sender's counter (R37, R86). A message that the sender's firewall keeps in is
discarded and logged (R73). -/
def State.inject (s : State) (m : Msg) : State :=
  if s.egressRefuses m then
    let cl := (niOf m.sep).getD 0
    s.audit 3 (cl * 8) cl m.header0
  else
    let (m, s) := s.stamp m
    { s with net := s.net ++ [m] }

/-- The address a request to a peer device carries: the page and the byte (R52). RCTX and RHND travel in Q1. -/
def peerAddr (page off : Nat) : Nat := page * 65536 + off

/-- The line of another device that a request names (R38, R52). -/
def Msg.farLine (m : Msg) : Nat × Nat × Nat × Nat :=
  (m.ddev, bits (m.payload.getD 1 0) 63 48, bits (m.payload.getD 1 0) 15 0, bits (m.payload.getD 0 0) 55 0 / 128)

/-- Whether a request of a path acts on the bytes of a line: RD, WR, WRH, ATOM, RED or NIB (R38). -/
def Msg.onLine (m : Msg) : Bool := 1 ≤ m.op && m.op ≤ 6

/-- An earlier request for the same line of another device must be answered before a later one leaves, when one of them writes: so
accesses to one location are performed in the order in which they were sent (R178, R253, R422; log entry 137). -/
def Remote.goesBefore (q : Remote) (m : Msg) : Bool :=
  q.dev == m.ddev && q.msg.onLine && m.onLine && q.msg.farLine == m.farLine && (2 ≤ q.msg.op || 2 ≤ m.op)

/-- Send a request of core `core` to another device (R27): it takes the next ESEQ of that device and waits for its answer. -/
def State.sendRemote (s : State) (dev core ctx : Nat) (load atomic : Bool) (handle off : Nat) (m : Msg) : State :=
  let p := s.peers.get dev Peer.zero
  let m := { m with eseq := p.nextEseq, key := s.ctxidOf core }
  let held := s.remotes.any (fun q => q.goesBefore m)
  let r : Remote := ⟨m.tagid, core, ctx, load, handle, off, dev, p.nextEseq, atomic, m, s.clk, 0, none, held⟩
  let s := if m.counted then s.countSent core else s
  let s := { s with peers := s.peers.put dev { p with nextEseq := (p.nextEseq + 1) % 2 ^ 32 }, remotes := s.remotes ++ [r] }
  if held then s else s.inject m

/-- The requests that nothing holds back any more leave, in their order (log entry 137). -/
def State.releaseHeld (s : State) : State :=
  (s.remotes.filter (fun r => r.held)).foldl (fun s r =>
    if (s.remotes.takeWhile (fun q => q != r)).any (fun q => q.goesBefore r.msg) then s
    else ({ s with remotes := s.remotes.map (fun q => if q = r then { q with held := false, sent := s.clk } else q) }).inject r.msg) s

/-- A fresh tag of a core's network interface (R37); its low bits name the core. -/
def State.newTag (s : State) (c : Nat) : Nat × State :=
  (((s.core c).nextTag * 8 + c % 8) % 65536, s.modCore c (fun k => { k with nextTag := k.nextTag + 1 }))

/-- Run a change as if core `c`, context `i` issued. -/
def State.asCtx (s : State) (c i : Nat) (f : State → State) : State :=
  let old := s.cur
  { f { s with cur := (c, i) } with cur := old }

/-- The context on whose account a write-back of context `ctxid` goes out: the one that issues, when it is one of its cores, or else
context 0 of its first core (log entry 138). -/
def State.payer (s : State) (ctxid : Nat) : Nat × Nat :=
  if s.ctxidOf s.cur.1 = ctxid then s.cur
  else match s.cores.find? (fun k => s.ctxidOf k.1 == ctxid) with
    | some k => (k.1, 0)
    | none => s.cur

/-- A write of context `ctxid` to a page of another device (R52): one WRH for each half line with bytes to write, from endpoint `sep`
to the hub root of that device, which alone knows the home slice (log entry 90). `pz` marks the doublewords, from that of the first byte
on, that travel with poison (R100). -/
def State.sendPeerWrite (s : State) (ctxid sep dev rctx rhnd page off : Nat) (bs : List Byte) (mask pz : Nat) : State :=
  let (c, i) := s.payer ctxid
  -- the bytes laid into their half lines
  let base := off / 64 * 64
  let full := List.replicate (off - base) (0 : Byte) ++ bs
  let fmask := mask * 2 ^ (off - base)
  let bad := pz * 2 ^ ((off - base) / 8)
  (chunksOf 64 4 full).zipIdx.foldl (fun s p =>
    let m := fmask / 2 ^ (64 * p.2) % 2 ^ 64
    if m = 0 then s
    else
      let (tag, s) := s.newTag c
      let data := (p.1 ++ List.replicate (64 - p.1.length) (0 : Byte))
      let words := (chunksOf 8 8 data).map (fun b => word (leNat b))
      let msg := mkMsg dev 0x800 s.devId sep 0 0x03 tag (s.partOfBlock (c / 64)) (parity (s.core c).snapGen)
        ([q0Word 5 (peerAddr page (base + 64 * p.2)), q1Word rctx 0 0 0 0 (c % 8) rhnd, word m] ++ words)
      s.sendRemote dev c i false false rhnd (peerAddr page off)
        { msg with poison := bad / 2 ^ (8 * p.2) % 2 ^ 8 * 2 ^ 3 }) s

/-- Raw write of masked bytes at a home, with the forward of a transit (R58). -/
def State.homePoke (s : State) (h : Home) (bs : List Byte) (mask : Nat) : State :=
  match h with
  | .mem key =>
    let fwd := s.forwardTo key
    let s := if s.inService key then
        let s := s.noteWrite (s.sliceOf key) key bs mask
        { s with mem := s.mem.putMasked key bs mask }
      else s
    fwd.foldl (fun s k => if s.inService k then { s with mem := s.mem.putMasked k bs mask } else s) s
  | .host a => if s.hostSide.denied.contains (a / 65536) then s else { s with host := s.host.putMasked a bs mask }
  | .peer dev rctx rhnd page off => s.sendPeerWrite (s.ctxidOf s.cur.1) (niEndpoint (s.cur.1 / 8)) dev rctx rhnd page off bs mask 0
  | .gone => s

/-- A home as a number, for a cache line's record of it. -/
def Home.code : Home → Nat
  | .mem k => 4 * k
  | .host a => 4 * a + 1
  | .peer d c n p o => 4 * ((((d * 65536 + c) * 65536 + n) * 2 ^ 20 + p) * 65536 + o) + 2
  | .gone => 3

/-- The home a number stands for. -/
def Home.ofCode (n : Nat) : Home :=
  match n % 4 with
  | 0 => .mem (n / 4)
  | 1 => .host (n / 4)
  | 2 =>
    let q := n / 4
    .peer (q / 65536 / 2 ^ 20 / 65536 / 65536) (q / 65536 / 2 ^ 20 / 65536 % 65536) (q / 65536 / 2 ^ 20 % 65536)
      (q / 65536 % 2 ^ 20) (q % 65536)
  | _ => .gone

/-! ## Fields that take no store (R53, R55, R111, R181, R347, R351) -/

/-- A word of a home with fields that take no store: the number of the word's home, its RO bytes, and the bits of which a
non-zero write discards the whole word. -/
structure Guard where
  word_ : Nat
  ro    : Nat
  rsv   : Nat
  deriving DecidableEq, Repr

/-- The home of a byte of a live object, as its map has it. -/
def State.homeOfByte (s : State) (ctxid : Nat) (e : Ent) (off : Nat) : Option Home := match s.translate ctxid e off .read 0 with
  | .ok h => some h
  | .error _ => none

/-- The number of the home of a byte that lies some bytes on. -/
def Home.codeAt (h : Home) (n : Nat) : Nat := h.code + 4 * n

/-- GEN and HAVE of the completion barriers of a context, objects of 16 bytes with the S right, and their reserved bits (R111). -/
def State.barrierGuards (s : State) (ctxid : Nat) (p : Proc) : List Guard :=
  (List.range p.otlen).flatMap (fun i => match s.liveEnt ctxid i with
    | some e =>
      if e.len = 16 ∧ e.rights.testBit rS then match s.homeOfByte ctxid e 0 with
        | some h => [⟨h.codeAt 0, 0xF3, 0⟩, ⟨h.codeAt 8, 0xFE, 0⟩]
        | none => []
      else []
    | none => [])

/-- The RO fields of the header of a context's save object (R351). -/
def State.saveGuards (s : State) (ctxid : Nat) (p : Proc) : List Guard := match s.liveEnt ctxid p.save with
  | none => []
  | some e => match s.homeOfByte ctxid e 0 with
    | none => []
    | some h => [⟨h.codeAt 0, 0x0F, 0⟩, ⟨h.codeAt 16, 0xF0, 0⟩] ++ (List.range 5).map (fun i => ⟨h.codeAt (24 + 8 * i), 0xFF, 0⟩)

/-- The RO and reserved fields of the job objects that the device knows (R181; log entry 116). -/
def State.jobGuards (s : State) : List Guard := s.jobs.flatMap (fun j =>
  let h := Home.ofCode (j.1 - 1)
  [⟨h.codeAt 0, 0xFF, 0⟩, ⟨h.codeAt 8, 0x3F, 0xFFFFFFFC⟩, ⟨h.codeAt 24, 0xF0, 0xFFFFFFFF00000000⟩] ++
    (List.range 4).map (fun i => ⟨h.codeAt (32 + 8 * i), 0xFF, 0⟩))

/-- The words with fields that take no store. -/
def State.guards (s : State) : List Guard :=
  (s.procs.filter (fun p => !p.2.retired)).flatMap (fun p => s.barrierGuards p.1 p.2 ++ s.saveGuards p.1 p.2) ++ s.jobGuards

/-- Whether a byte lies in the bitmap of images of a save object, 0x2000 to 0x3FFF, which is RO (R351). -/
def State.inBitmap (s : State) (code : Nat) : Bool := (s.procs.filter (fun p => !p.2.retired)).any (fun p =>
  match s.liveEnt p.1 p.2.save with
  | none => false
  | some e => match s.homeOfByte p.1 e 0x2000 with
    | none => false
    | some h => code % 4 == h.code % 4 && h.codeAt 0 ≤ code && code < h.codeAt 0x2000)

/-- What is left of a mask of bytes from a home on after one guarded word. -/
def Guard.keep (g : Guard) (code : Nat) (bs : List Byte) (mask : Nat) : Nat :=
  let inWord := fun (i : Nat) => (code + 4 * i) % 4 == g.word_ % 4 && g.word_ ≤ code + 4 * i && code + 4 * i < g.word_ + 32
  let byte := fun (i : Nat) => (code + 4 * i - g.word_) / 4
  let mine := (List.range bs.length).filter (fun i => inWord i && mask.testBit i)
  let whole := mine.any (fun i => (bs.getD i 0).toNat &&& (g.rsv / 2 ^ (8 * byte i) % 256) != 0)
  mine.foldl (fun m i => if whole || g.ro.testBit (byte i) then m - 2 ^ i else m) mask

/-- The bytes of a store that the guarded words of its home accept. -/
def State.guarded (s : State) (h : Home) (bs : List Byte) (mask : Nat) : Nat :=
  let m := s.guards.foldl (fun m g => g.keep h.code bs m) mask
  if s.inBitmap h.code then 0 else m

/-- A store, write-back or forward that reaches home (R179), with the fields that take no store left as they are. -/
def State.homeStore (s : State) (h : Home) (bs : List Byte) (mask : Nat) : State :=
  match h with
  | .mem key =>
    let bs2 := (List.range bs.length).map (fun i => s.roByte (key + i) (bs.getD i 0))
    s.homePoke h bs2 (s.guarded h bs (s.roMask key bs.length mask))
  | .host _ => s.homePoke h bs (s.guarded h bs mask)
  | _ => s.homePoke h bs mask

/-- The doublewords of a line whose bit is set take poison at home, and where a transit has copied them (R58, R100). -/
def State.markHome (s : State) (h : Home) (pz : Nat) : State :=
  match h with
  | .mem key => (onesOf pz 16).foldl (fun s i =>
      let ks := (key + 8 * i) :: s.forwardTo (key + 8 * i)
      { s with mem := ks.foldl (fun m k => m.addPoison k) s.mem }) s
  | .host a => { s with host := (onesOf pz 16).foldl (fun m i => m.addPoison (a + 8 * i)) s.host }
  | _ => s

/-- Defer a cause to a context (R349): at most 4 are held, a fifth is dropped and counted. -/
def Ctx.defer (x : Ctx) (d : Deferred) : Ctx :=
  if x.deferred.length < 4 then { x with deferred := x.deferred ++ [d] } else { x with drops := min 255 (x.drops + 1) }

/-- R229 `defer`. -/
def State.defer (s : State) (c i cause : Nat) (eval : Word) (point : DPoint) : State :=
  s.modCtx c i (fun x => x.defer ⟨cause, eval, point, 0⟩)

/-- Whether an access to host memory is aborted by the host (R52). -/
def State.hostDenies (s : State) (h : Home) : Bool := match h with
  | .host a => s.hostSide.denied.contains (a / 65536)
  | _ => false

/-- EVAL of REMOTE_FAIL for an access that the host aborts: the device and the ESEQ of R30, which such an access has not; they are
free values (log entry 6). -/
def State.abortEval (s : State) : Word × State := (word (s.free.1.toNat % 2 ^ 38), s.free.2)

/-- An access to home of a context that has retired: one that the host aborts has no effect and defers REMOTE_FAIL to the next
`rfence` (R254, R266, R267; log entry 138). -/
def State.unlessDenied (s : State) (who : Nat × Nat) (h : Home) (f : State → State) : State :=
  if s.hostDenies h then
    let (v, s) := s.abortEval
    s.defer who.1 who.2 Cause.remoteFail v .rfence
  else f s

/-- A store, write-back or forward of a line of context `ctxid` that endpoint `sep` sends home, with the poison of its doublewords
(R100, R179, R422). -/
def State.homeStoreBy (s : State) (ctxid sep : Nat) (h : Home) (bs : List Byte) (mask pz : Nat) : State :=
  match h with
  | .peer dev rctx rhnd page off => s.sendPeerWrite ctxid sep dev rctx rhnd page off bs mask pz
  | _ => s.unlessDenied (s.payer ctxid) h (fun s => (s.homeStore h bs mask).markHome h pz)

/-! ## Lines of a cache -/

/-- All 128 bytes of a line. -/
def lineMask : Nat := 2 ^ 128 - 1

/-- Merge masked bytes into a line of bytes. -/
def mergeBytes : List Byte → List Byte → Nat → List Byte
  | [], _, _ => []
  | o :: os, [], m => o :: mergeBytes os [] (m / 2)
  | o :: os, n :: ns, m => (if m % 2 = 1 then n else o) :: mergeBytes os ns (m / 2)

/-- The poison mask of the 16 doublewords of a line at home. -/
def State.linePoison (s : State) (h : Home) : Nat :=
  match h with
  | .mem key => if s.inService key then
      (List.range 16).foldl (fun m i => if s.mem.poisoned (key + 8 * i) 8 then m + 2 ^ i else m) 0 else 0xFFFF
  | .host a => (List.range 16).foldl (fun m i => if s.host.poisoned (a + 8 * i) 8 then m + 2 ^ i else m) 0
  | .peer .. => 0
  | .gone => 0xFFFF

/-- The doublewords that a byte mask touches. -/
def dirtyWords (mask : Nat) : Nat := (List.range 16).foldl (fun m i => if mask / 2 ^ (8 * i) % 256 = 0 then m else m + 2 ^ i) 0

/-- R100: the doublewords a masked write rewrites whole lose their poison. -/
def clearPoison (poison mask : Nat) : Nat :=
  (List.range 16).foldl (fun p i =>
    if p.testBit i && (mask / 2 ^ (8 * i)) % 256 = 255 then p - 2 ^ i else p) poison

/-- The poison of a line after a masked write: a doubleword rewritten whole has the mark that came, one written in part keeps
its own as well (R100). -/
def mergePoison (old mask pz : Nat) : Nat := clearPoison old mask ||| pz

/-- The home of a line, from the home of one of its bytes. -/
def Home.lineOf (h : Home) (inLine : Nat) : Home :=
  match h with
  | .mem k => .mem (k - inLine)
  | .host a => .host (a - inLine)
  | .peer d c n p o => .peer d c n p (o - inLine)
  | .gone => .gone

/-- The line with address `la` among the lines of a cache. -/
def findLine (ls : List CLine) (la : Nat) : Option CLine := ls.find? (fun l => l.la == la)

/-- Put a line back where it stood, or last when it is new (R398: a write-back changes no recency). -/
def keepLine (ls : List CLine) (l : CLine) : List CLine :=
  if ls.any (fun x => x.la == l.la) then ls.map (fun x => if x.la = l.la then l else x) else ls ++ [l]

/-- Put a line last: the most recently used. -/
def touchLine (ls : List CLine) (l : CLine) : List CLine := ls.filter (fun x => x.la != l.la) ++ [l]

/-! ## Virtual caches (R170, R171) -/

/-- VC `v` of a context. -/
def State.vc (s : State) (ctxid v : Nat) : Option Vc := match s.proc? ctxid with
  | some p => p.vcs.look v
  | none => none

/-- Change an admitted context. -/
def State.modProc (s : State) (ctxid : Nat) (f : Proc → Proc) : State := match s.proc? ctxid with
  | some p => { s with procs := s.procs.put ctxid (f p) }
  | none => s

/-- Change VC `v`. -/
def State.modVc (s : State) (ctxid v : Nat) (f : Vc → Vc) : State :=
  s.modProc ctxid (fun p => match p.vcs.look v with
    | some c => { p with vcs := p.vcs.put v (f c) }
    | none => p)

/-- The stages from VC `v` to home, `v` first; 0 is home (R172). A tree has at most 6 levels. -/
def vcPath (vcs : NMap Vc) : Nat → Nat → List Nat
  | 0, _ => []
  | fuel + 1, v => if v = 0 then [] else match vcs.look v with
    | some c => v :: vcPath vcs fuel c.parent
    | none => []

/-- The path from a leaf. -/
def State.path (s : State) (ctxid leaf : Nat) : List Nat := match s.proc? ctxid with
  | some p => vcPath p.vcs 7 leaf
  | none => []

/-- R171: the set of a line in a VC of 2^k lines, and the ways of a set. -/
def vcSet (k la : Nat) : Nat × Nat := if k < 3 then (0, 2 ^ k) else (la % (2 ^ k / 8), 8)

/-- The placed banks: (block, bank) in ascending order. -/
def placedBanks (blocks banks : Nat) : List (Nat × Nat) :=
  (onesOf blocks 32).flatMap (fun b => (onesOf banks 48).map (fun k => (b, k)))

/-- The bank that holds a line (R171): the set modulo the number of placed banks, in ascending order, and the set within that
bank. -/
def Vc.bankOf (c : Vc) (la : Nat) : (Nat × Nat) × Nat :=
  let bs := placedBanks c.blocks c.banks
  let set := (vcSet c.k la).1
  (bs.getD (set % max bs.length 1) (0, 0), set / max bs.length 1)

/-- The endpoint that sends a request for a line from a stage (R422): the bank group of the line's set in VC `src`, or, with 0,
the network interface of the core that issues. -/
def State.sender (s : State) (ctxid src la : Nat) : Nat := match s.vc ctxid src with
  | some c => if src = 0 then niEndpoint (s.cur.1 / 8) else bankEndpoint (c.bankOf la).1.1 (c.bankOf la).1.2
  | none => niEndpoint (s.cur.1 / 8)

/-- The leaf of an entry for a cluster (R172): the first binding with a VC and the cluster's bit. -/
def leafOf (binds : Word) (clusterInBlock : Nat) : Nat :=
  ((List.range 4).foldl (fun acc j =>
    if acc != 0 then acc
    else
      let b := bits binds (16 * j + 15) (16 * j)
      if b % 64 != 0 && (b / 256).testBit clusterInBlock then b % 64 else 0) 0)

/-- The leaf of an entry for core `c`. -/
def Ent.leaf (e : Ent) (c : Nat) : Nat := leafOf e.binds (c / 8 % 8)

/-- An access whose line is on its way from another device, when it is one of those picked: the line is asked for again, so that no
stage keeps bytes from before the invalidation or write-back that has met it (R169, R171, R360; log entry 139). -/
def Ctx.spoil (x : Ctx) (sel : CLine → Bool) : Ctx := match x.wait, x.access with
  | some (.remote _), some a =>
    if sel ⟨(a.ent.base + a.off) / 128, 0, 0, 0, [], 0, 0⟩ then { x with noFill := true } else x
  | _, _ => x

/-- The lines on their way to the cores picked are spoiled. -/
def State.spoilFills (s : State) (who : Nat → Bool) (sel : CLine → Bool) : State :=
  let hit := fun (k : Nat × Core) => who k.1 && k.2.ctxs.any (fun x => x.access.isSome)
  if s.cores.any hit then
    { s with cores := s.cores.map (fun k => if hit k then (k.1, { k.2 with ctxs := k.2.ctxs.map (fun x => x.spoil sel) }) else k) }
  else s

/-- The lines on their way to the cores of a context are spoiled. -/
def State.spoilCtx (s : State) (ctxid : Nat) (sel : CLine → Bool) : State := s.spoilFills (fun c => s.ctxidOf c == ctxid) sel

/-- Invalidate a line in the L1 of core `c`, which ends a `pause` there (R169, R276). -/
def State.l1Drop (s : State) (c la : Nat) : State :=
  let s := s.spoilFills (fun j => j == c) (fun l => l.la == la)
  let k := s.core c
  if k.l1.any (fun l => l.la == la) then
    (s.modCore c (fun k => { k with l1 := k.l1.filter (fun l => l.la != la) })).wakeCore c
  else s

/-- The cores of a cluster. -/
def coresOf (cl : Nat) : List Nat := (List.range 8).map (fun i => cl * 8 + i)

/-- Invalidate a line in every L1 of the clusters of a mask, but for one cluster (R171). -/
def State.l1DropClusters (s : State) (ctxid la holders except_ : Nat) : State :=
  (onesOf holders 256).foldl (fun s cl =>
    if cl = except_ then s
    else (coresOf cl).foldl (fun s c => if s.ctxidOf c = ctxid then s.l1Drop c la else s) s) s

/-- R169: before a store of core `c` becomes visible, the line leaves every other L1 of the cluster that holds it. -/
def State.snoop (s : State) (ctxid c la : Nat) : State :=
  (coresOf (c / 8)).foldl (fun s j => if j != c && s.ctxidOf j = ctxid then s.l1Drop j la else s) s

/-- The lines of a VC that share the set of a line, least recently used first. -/
def Vc.mates (c : Vc) (la : Nat) : List CLine := c.lines.filter (fun x => (vcSet c.k x.la).1 == (vcSet c.k la).1 && x.la != la)

/-- The least recently used line of the set, when a new line finds no way free (R171). -/
def Vc.victim (c : Vc) (la : Nat) : Option CLine :=
  if (c.mates la).length < (vcSet c.k la).2 then none else (c.mates la).head?

/-- A victim leaves a VC, and its L1 copies with it (log entry 95). -/
def State.evicted (s : State) (ctxid v : Nat) (w : CLine) : State :=
  ((s.spoilCtx ctxid (fun l => l.la == w.la)).l1DropClusters ctxid w.la w.holders 256).modVc ctxid v (fun c => { c with
    lines := c.lines.filter (fun x => x.la != w.la) })

/-- Store masked bytes of a line at a stage (R171): the VC's line becomes M without a fetch, a victim in M is written back first
and its L1 copies go (log entry 95); with no VC left, the bytes reach home. `cl` is the cluster the store came from, 256 for
none, or 257 for a write-back, which changes no recency (R398); `src` is the VC that sends the bytes, or 0; `pz` marks the
doublewords that carry poison (R100). -/
def storeAt (ctxid cl src la : Nat) (home : Home) (bs : List Byte) (mask pz : Nat) : List Nat → State → State
  | [], s => s.homeStoreBy ctxid (s.sender ctxid src la) home bs mask pz
  | v :: up, s => match s.vc ctxid v with
    | none => storeAt ctxid cl src la home bs mask pz up s
    | some c =>
      let old := (findLine c.lines la).getD ⟨la, home.code, 0, 0, List.replicate 128 0, 0, 0⟩
      let s := s.l1DropClusters ctxid la old.holders cl
      let l : CLine := { old with
        valid := old.valid ||| mask, dirty := old.dirty ||| mask, data := mergeBytes old.data bs mask,
        poison := mergePoison old.poison mask pz, holders := if cl < 256 ∧ old.holders.testBit cl then 2 ^ cl else 0 }
      let put := if cl = 257 then keepLine else touchLine
      match c.victim la with
      | none => s.modVc ctxid v (fun c => { c with lines := put c.lines l })
      | some w =>
        let s := if w.dirty = 0 then s else
          storeAt ctxid 257 v w.la (Home.ofCode w.home) w.data w.dirty (w.poison &&& dirtyWords w.dirty) up s
        (s.evicted ctxid v w).modVc ctxid v (fun c => { c with lines := put c.lines l })

/-- Fetch a line from a stage (R171): a VC whose needed bytes are all VALID serves it; otherwise it fetches the whole line from
its parent and merges, keeping its DIRTY bytes. `sup` is the line as it came from another device, when its home is there. -/
def fetchAt (ctxid cl la : Nat) (home : Home) (sup : Option (List Byte × Nat)) (need : Nat) :
    List Nat → State → (List Byte × Nat) × State
  | [], s => (sup.getD ((s.homeRead home 128).1, s.linePoison home), s)
  | v :: up, s => match s.vc ctxid v with
    | none => fetchAt ctxid cl la home sup need up s
    | some c =>
      let hold := fun (h : Nat) => if cl < 256 ∧ ¬ h.testBit cl then h + 2 ^ cl else h
      match (findLine c.lines la).bind (fun l => if l.valid &&& need = need then some l else none) with
      | some l =>
        ((l.data, l.poison),
          s.modVc ctxid v (fun c => { c with lines := touchLine c.lines { l with holders := hold l.holders } }))
      | none =>
        let (p, s) := fetchAt ctxid cl la home sup lineMask up s
        let old := (findLine c.lines la).getD ⟨la, home.code, 0, 0, List.replicate 128 0, 0, 0⟩
        let l : CLine := { old with
          valid := lineMask, data := mergeBytes p.1 old.data old.dirty,
          poison := mergePoison p.2 old.dirty (old.poison &&& dirtyWords old.dirty), holders := hold old.holders }
        let s := match c.victim la with
          | none => s
          | some w =>
            let s := if w.dirty = 0 then s else
              storeAt ctxid 257 v w.la (Home.ofCode w.home) w.data w.dirty (w.poison &&& dirtyWords w.dirty) up s
            s.evicted ctxid v w
        ((l.data, l.poison), s.modVc ctxid v (fun c => { c with lines := touchLine c.lines l }))

/-- Write the M lines of `v` that `sel` picks to the first stage of a path; each becomes S (R171 clean). -/
def State.cleanVcTo (s : State) (ctxid v : Nat) (up : List Nat) (sel : CLine → Bool) : State :=
  match s.vc ctxid v with
  | none => s
  | some c =>
    let dirty := c.lines.filter (fun l => l.dirty != 0 && sel l)
    let s := if dirty.isEmpty then s else s.spoilCtx ctxid (fun l => dirty.any (fun d => d.la == l.la))
    let s := dirty.foldl (fun s l =>
      storeAt ctxid 257 v l.la (Home.ofCode l.home) l.data l.dirty (l.poison &&& dirtyWords l.dirty) up s) s
    s.modVc ctxid v (fun c => { c with lines := c.lines.map (fun l => if sel l then { l with dirty := 0 } else l) })

/-- Write every M line of `v` that `sel` picks back to its parent; each becomes S (R171 clean). -/
def State.cleanVc (s : State) (ctxid v : Nat) (sel : CLine → Bool) : State :=
  match s.vc ctxid v with
  | none => s
  | some c => s.cleanVcTo ctxid v (s.path ctxid c.parent) sel

/-- The lines that `sel` picks leave a VC, and their L1 copies with them (log entry 95). -/
def State.dropVc (s : State) (ctxid v : Nat) (sel : CLine → Bool) : State :=
  match s.vc ctxid v with
  | none => s
  | some c =>
    ((c.lines.filter sel).foldl (fun s l => s.l1DropClusters ctxid l.la l.holders 256) (s.spoilCtx ctxid sel)).modVc ctxid v (fun c => { c with
      lines := c.lines.filter (fun l => !sel l) })

/-- Clean, then set every line that `sel` picks to I (R171 invalidate). -/
def State.invalVc (s : State) (ctxid v : Nat) (sel : CLine → Bool) : State := (s.cleanVc ctxid v sel).dropVc ctxid v sel

/-- A VC of a path that is being reshaped, so that an access waits at its bank (R173); at a hand-over its bank admits
waiting accesses (R399). -/
def State.reshaping (s : State) (ctxid : Nat) (path : List Nat) : Option Nat :=
  path.find? (fun v => match s.vc ctxid v with
    | some c => (match c.op with
      | some (_, ph) => ph != .handover
      | none => false)
    | none => false)

/-! ## The write queue (R252) -/

/-- R262, R265: the new value of an atomic of a size on the old one; none writes nothing. `m` is the operation of R262. -/
def amoNew (m size old b expect : Nat) : Option Nat :=
  let w := 8 * size
  let sg := fun (n : Nat) => sextN w n
  match m with
  | 0 => some b
  | 1 => if old = expect then some b else none
  | 2 => some ((old + b) % 2 ^ w)
  | 3 => some (old &&& b)
  | 4 => some (old ||| b)
  | 5 => some (old ^^^ b)
  | 6 => some (if sg old ≤ sg b then old else b)
  | 7 => some (if sg b ≤ sg old then old else b)
  | 8 => some (min old b)
  | 9 => some (max old b)
  | _ => none

/-- R202, R207: f32 addition at the home slice, RNE, no flag. -/
def fadd32 (a b : Nat) : Nat := (fAdd .f32 .rne (Fmt.f32.unpack a) (Fmt.f32.unpack b)).bits

/-- R265: the f32 maximum of R205 at the home slice. -/
def fmax32 (a b : Nat) : Nat := (fMinMax .f32 true (Fmt.f32.unpack a) (Fmt.f32.unpack b)).bits

/-- The new value of a reduction by its code: 0–9 as `amoNew` numbers them, 20 fadd.s, 21 fmax.s. -/
def redNew (code size old b : Nat) : Nat :=
  if code = 20 then fadd32 old b else if code = 21 then fmax32 old b else (amoNew code size old b 0).getD old

/-- The doubleword of memory that holds a byte is consumed as poison (R100, R101). -/
def State.homePoisoned (s : State) (h : Home) (n : Nat) : Bool := (s.homeRead h n).2

/-- R354: the node word of a scope byte for core `c` of context `ctxid`. -/
def State.node (s : State) (c ctxid scope : Nat) : Nat :=
  match scope with
  | 0 => s.devId * 2 ^ 11 + c
  | 1 => 2 ^ 24 + s.devId * 2 ^ 8 + c / 8
  | 2 => 2 * 2 ^ 24 + s.devId
  | 3 => 3 * 2 ^ 24
  | v => v * 2 ^ 24 + s.devId * 2 ^ 16 + ctxid

/-- The line a home lies in, for the record of R363. -/
def Home.syncLine (h : Home) : Nat :=
  match h with
  | .mem k => 4 * (k / 128)
  | .host a => 4 * (a / 128) + 1
  | .peer .. => h.code / 128 * 128 + 2
  | .gone => 3

/-- Remove a line from the path of the issuer: clean, then invalidate, its L1 and every VC from the leaf to home (R178). -/
def State.pathClean (s : State) (c ctxid leaf la : Nat) : State :=
  let s := s.l1Drop c la
  (s.path ctxid leaf).foldl (fun s v => s.invalVc ctxid v (fun l => l.la == la)) s

/-- Clean every VC of a list that a scope leaves below it, from the leaf upward (R359). -/
def State.cleanBelow (s : State) (ctxid : Nat) (below : List Nat) : State :=
  below.foldl (fun s v => s.cleanVc ctxid v (fun _ => true)) s

/-- All VCs of a context, deepest first, that have `v` or an ancestor chain below a scope's stage (R356): for package and
job every VC of the paths; for a VC scope the descendants of it; for core and cluster none. -/
def vcsBelow (vcs : NMap Vc) (scope : Nat) (leaves : List Nat) : List Nat :=
  let paths := leaves.map (fun l => vcPath vcs 7 l)
  let cut := paths.map (fun p =>
    if scope = 2 ∨ scope = 3 then p
    else if 0x41 ≤ scope ∧ scope ≤ 0x7F then (if p.contains (scope - 0x40) then p.takeWhile (fun v => v != scope - 0x40) else [])
    else [])
  -- a VC comes before its parent: order by depth, deepest first
  let all := cut.flatten.eraseDups
  (List.range 7).reverse.flatMap (fun d => all.filter (fun v => (vcPath vcs 7 v).length = d))

/-- The leaves of core `c`'s paths: the VC of every live entry of the context's table whose binding names the cluster. -/
def State.leaves (s : State) (c ctxid : Nat) : List Nat :=
  match s.proc? ctxid with
  | none => []
  | some p =>
    let used := ((List.range p.otlen).map (fun i =>
      let w := word (s.mem.getLE (s.entKey p i + 32) 8)
      if s.mem.getLE (s.entKey p i + 8) 6 = 0 then 0 else leafOf w (c / 8 % 8))).eraseDups
    used.filter (fun v => v != 0)

/-- The VCs below a scope on the paths of core `c` (R270, R359). -/
def State.below (s : State) (c ctxid scope : Nat) : List Nat :=
  match s.proc? ctxid with
  | none => []
  | some p => if p.vcs.isEmpty then [] else vcsBelow p.vcs scope (s.leaves c ctxid)

/-- A counted message of core `c` that reaches its home slice in the step that sends it: the sender counts it, and the slice,
with the colour of its generation or, when the core has not cut for the generation in progress, as a crossing one (R183, R184). -/
def State.countOwn (s : State) (c : Nat) (h : Home) : State :=
  match h with
  | .mem key => match s.sliceOf key with
    | none => s
    | some n => (s.countSent c).sliceRecv n (parity (s.core c).snapGen)
  | _ => s

/-- Run a write of core `c` with its colour (R183): old when a snapshot is in progress that the core has not cut for. The
lines the write left dirty are written back at once while the snapshot runs, so that no stage mixes colours (log
entry 12). -/
def State.coloured (s : State) (c ctxid leaf la : Nat) (f : State → State) : State :=
  match s.inProgress c with
  | none => f s
  | some _ =>
    let s := f { s with colour := some (parity (s.core c).snapGen) }
    let s := (s.path ctxid leaf).foldl (fun s v => s.cleanVc ctxid v (fun l => l.la == la)) s
    { s with colour := none }

/-- The function code of R265 of a reduction. -/
def redCode (op size : Nat) : Nat :=
  if op = 20 then 16 else if op = 21 then 17 else 2 * (if op = 2 then 0 else op - 2) + (if size = 8 then 1 else 0)

/-- Send a nibble or a reduction of the write queue to another device (R27, R52). -/
def State.sendPeerOp (s : State) (c : Nat) (w : WqEntry) (dev rctx rhnd page off op size scope ord aop : Nat)
    (more : List Word) : State :=
  let (tag, s) := s.newTag c
  let m := mkMsg dev 0x800 s.devId (niEndpoint (c / 8)) 0 op tag (s.partOfBlock (c / 64)) (parity (s.core c).snapGen)
    ([q0Word size (peerAddr page off), q1Word rctx scope ord 0 aop (c % 8) rhnd] ++ more)
  s.sendRemote dev c w.ctx false (op == 0x05) w.handle w.off m

/-- Send one entry of core `c`'s write queue on: a store goes to the first stage of its path, a nibble and a reduction to
home once the path is clean (R178, R252, R255, R266): what goes to another device waits there for the write-backs of its line (log
entry 137). On this device it is performed there in this step (log entry 129). -/
def State.performOne (s : State) (c : Nat) (w : WqEntry) : State :=
  let ctxid := s.ctxidOf c
  let la := w.oaddr / 128
  let inLine := w.oaddr % 128
  let lineHome := w.home.lineOf inLine
  let path := s.path ctxid w.leaf
  match w.kind with
  | .store =>
    let mask := (2 ^ w.bytes.length - 1) * 2 ^ inLine
    let line := List.replicate inLine 0 ++ w.bytes ++ List.replicate (128 - inLine - w.bytes.length) 0
    let s := (s.snoop ctxid c la).spoilFills (fun j => j == c) (fun l => l.la == la)
    let s := s.modCore c (fun k => { k with
      l1 := k.l1.map (fun l => if l.la = la then
        { l with data := mergeBytes l.data line mask, poison := clearPoison l.poison mask } else l) })
    storeAt ctxid (c / 8) 0 la lineHome line mask 0 path s
  | .nib high v =>
    let s := s.snoop ctxid c la
    let s := s.pathClean c ctxid w.leaf la
    match w.home with
    | .peer dev rctx rhnd page off =>
      s.sendPeerOp c w dev rctx rhnd page off 0x06 0 0 0 0 [word (b2n high * 256 + v)]
    | _ => s.unlessDenied (c, w.ctx) w.home (fun s =>
        let old := ((s.homeRead w.home 1).1.getD 0 0).toNat
        let new := if high then v * 16 + old % 16 else old / 16 * 16 + v
        s.homeStore w.home [BitVec.ofNat 8 new] 1)
  | .red op size b release scope =>
    let s := if release then s.cleanBelow ctxid (s.below c ctxid scope) else s
    let s := s.snoop ctxid c la
    let s := s.pathClean c ctxid w.leaf la
    match w.home with
    | .peer dev rctx rhnd page off =>
      s.sendPeerOp c w dev rctx rhnd page off 0x05 (if size = 4 then 2 else 3) (if release then scope else 0)
        (if release then 2 else 0) (redCode op size) [b]
    | _ => s.unlessDenied (c, w.ctx) w.home (fun s =>
        let r := s.homeRead w.home size
        if r.2 then s.defer c w.ctx Cause.uncorrData (hEval w.handle w.off) .rfence
        else
          let new := redNew op size (leNat r.1) (b.toNat % 2 ^ (8 * size))
          let s := s.homeStore w.home (leBytes size new) (2 ^ size - 1)
          if release then { s with sync := s.sync.put w.home.syncLine (s.node c ctxid scope) } else s)

/-- The same with the colour of the core (R183). -/
def State.performWq (s : State) (c : Nat) (w : WqEntry) : State :=
  s.coloured c (s.ctxidOf c) w.leaf (w.oaddr / 128) (fun s => s.asCtx c w.ctx (fun s =>
    (if (s.path (s.ctxidOf c) w.leaf).isEmpty || w.kind != .store then s.countOwn c w.home else s).performOne c w))

/-- Drain the oldest entry of core `c`'s write queue. -/
def State.drainOne (s : State) (c : Nat) : State :=
  match (s.core c).wq with
  | [] => s
  | w :: t => (s.modCore c (fun k => { k with wq := t })).performWq c w

/-- Drain the `n` oldest entries. -/
def drainN (c : Nat) : Nat → State → State
  | 0, s => s
  | n + 1, s => drainN c n (s.drainOne c)

/-- Drain the whole write queue of core `c`. -/
def State.drain (s : State) (c : Nat) : State := drainN c (s.core c).wq.length s

/-- Drain the queue up to the last entry that satisfies `p`. -/
def State.drainThrough (s : State) (c : Nat) (p : WqEntry → Bool) : State :=
  let q := (s.core c).wq
  let n := q.length - (q.reverse.takeWhile (fun w => !p w)).length
  drainN c n s

/-- Stores that supervisor code made may name a table the device is about to read: they leave the queue first
(R165, R252; log entry 11). -/
def State.drainTables (s : State) (c : Nat) : State := s.drainThrough c (fun w => w.sup)

/-! ## Release and acquire (R359, R360) -/

/-- The release of core `c` at a scope: the write queue is drained and every VC below the scope is cleaned. -/
def State.release (s : State) (c scope : Nat) : State :=
  let s := s.drain c
  s.cleanBelow (s.ctxidOf c) (s.below c (s.ctxidOf c) scope)

/-- Whether a scope byte is wider than cluster for the L1 (R169). -/
def wideScope (scope : Nat) : Bool := scope == 2 || scope == 3 || (0x41 ≤ scope && scope ≤ 0x7F)

/-- Invalidate the lines of core `c`'s L1 that `sel` picks, which ends a `pause` there (R169, R276). -/
def State.l1Clear (s : State) (c : Nat) (sel : CLine → Bool) : State :=
  let s := s.spoilFills (fun j => j == c) sel
  if (s.core c).l1.any sel then (s.modCore c (fun k => { k with l1 := k.l1.filter (fun l => !sel l) })).wakeCore c else s

/-- The acquire of core `c` at a scope: every VC below it is invalidated, and the L1 when the scope is wide. -/
def State.acquire (s : State) (c scope : Nat) : State :=
  let ctxid := s.ctxidOf c
  let s := (s.below c ctxid scope).foldl (fun s v => s.invalVc ctxid v (fun _ => true)) s
  if wideScope scope then s.l1Clear c (fun _ => true) else s

/-! ## Reading through the path (R358) -/

/-- The bytes `[i, i + n)` of a line as a mask. -/
def byteMask (i n : Nat) : Nat := (2 ^ n - 1) * 2 ^ i

/-- Whether a fetch of some bytes of a line goes on to the line's home: no stage of the path can serve it (R171). -/
def State.reachesHome (s : State) (ctxid la : Nat) : Nat → List Nat → Bool
  | _, [] => true
  | need, v :: up => match s.vc ctxid v with
    | none => s.reachesHome ctxid la need up
    | some c =>
      !(findLine c.lines la).any (fun l => l.valid &&& need == need) && s.reachesHome ctxid la lineMask up

/-- Whether the first stage of a path has the whole of a line, so that the L1 can take it. -/
def State.lineWhole (s : State) (ctxid la : Nat) (path : List Nat) : Bool := match path.find? (fun v => (s.vc ctxid v).isSome) with
  | none => true
  | some v => match s.vc ctxid v with
    | some c => (findLine c.lines la).any (fun l => l.valid == lineMask)
    | none => true

/-- A line enters a cache of 32 KiB with 4 ways (R1): which of the 64 sets a line has and which way is replaced are log
entry 96. -/
def fourWay (ls : List CLine) (l : CLine) : List CLine :=
  let mates := ls.filter (fun x => x.la % 64 == l.la % 64 && x.la != l.la)
  touchLine (if mates.length < 4 then ls else match mates.head? with
    | some d => ls.filter (fun x => x.la != d.la)
    | none => ls) l

/-- The line of an access in core `c`'s L1, fetched on a miss from the first stage of its path (R169). A VC that has only some
bytes of the line, with those of the access among them, serves them, and the L1 takes nothing (R171). -/
def State.l1Line (s : State) (c ctxid leaf la : Nat) (lineHome : Home) (sup : Option (List Byte × Nat)) (need : Nat) : CLine × State :=
  match findLine (s.core c).l1 la with
  | some l => (l, s.modCore c (fun k => { k with l1 := touchLine k.l1 l }))
  | none =>
    let (p, s) := fetchAt ctxid (c / 8) la lineHome sup need (s.path ctxid leaf) s
    let l : CLine := ⟨la, lineHome.code, lineMask, 0, p.1, p.2, 0⟩
    if !s.lineWhole ctxid la (s.path ctxid leaf) then (l, s)
    else (l, s.modCore c (fun k => { k with l1 := fourWay k.l1 l }))

/-- The line of an instruction fetch in core `c`'s L1 instruction cache, filled on a miss from the first stage of the path of
the code object (R1, R93). -/
def State.codeLine (s : State) (c ctxid leaf la : Nat) (lineHome : Home) : CLine × State :=
  match findLine (s.core c).l1i la with
  | some l => (l, s.modCore c (fun k => { k with l1i := touchLine k.l1i l }))
  | none =>
    let (p, s) := fetchAt ctxid 256 la lineHome none lineMask (s.path ctxid leaf) s
    let l : CLine := ⟨la, lineHome.code, lineMask, 0, p.1, p.2, 0⟩
    (l, s.modCore c (fun k => { k with l1i := fourWay k.l1i l }))

/-- Whether a doubleword of a line that the bytes `[i, i + n)` touch is poisoned. -/
def lineBad (poison i n : Nat) : Bool := (List.range 16).any (fun j => poison.testBit j && i < 8 * j + 8 && 8 * j < i + n)

end Sys2Proof.Machine
end

