-- ==== Sys2Proof/Machine/Access.lean ====
section
/-! DEFINITION. The accesses of the context that issues: R166 with the device's tables up to date, loads and stores of
global objects through the path (R250, R252, R253), of other devices (R52), and of local memory with its frames (R132,
R167). -/

namespace Sys2Proof.Machine

/-- The first stage that is being reshaped among those that the picked entries of a core's write queue go on to (R173). -/
def State.queueShut (s : State) (c : Nat) (p : WqEntry → Bool) : Option Nat :=
  ((s.core c).wq.filter p).findSome? (fun w => s.reshaping (s.ctxidOf c) (s.path (s.ctxidOf c) w.leaf))

/-- Stores of supervisor code leave the write queue before the device reads a table (log entry 11). -/
def tablesCurrent : M Unit := do
  let s ← get
  if s.curCore.wq.any (fun w => w.sup) then
    match s.queueShut s.cur.1 (fun _ => true) with
    | some v => waitFor (.vcOpen v)
    | none => modify (fun s => s.drainTables s.cur.1)
  else pure ()

/-- Steps 1 to 6 of R166 for the core that issues. -/
def checkEntry (h : Handle) (off : Int) (n : Need) : M Ent := do
  tablesCurrent
  let s ← get
  ofCheck (s.checkEnt (s.ctxidOf s.cur.1) h off n)

/-- R348: an access waits while the translation queue of its block reads an entry that its cluster does not hold. One that the queue
has read for it and that refuses the access raises its cause, whatever the map holds by now: the misses have merged into one read. -/
def pagesRead (keys : List Nat) (use : Use) (ev : Word) : M Unit := do
  let s ← get
  match keys.find? (fun k => !s.mapCached s.curCluster k use) with
  | none => pure ()
  | some k =>
    let read := match s.curCtx.mapRead with
      | some (r, w) => if r = k then some w else none
      | none => none
    modify (fun s => s.modCur (fun x => { x with mapRead := none }))
    match read with
    | some w => do
      trapIf (s.tableLost k 8) Cause.uncorrData ev
      ofCheck (checkPte w use ev)
    | none => match (← get).queueMiss (s.cur.1 / 64) k with
      | none => waitFor .restart
      | some t => do
        set t
        waitFor (.translation k)

/-- Step 7 of R166: the homes of the bytes of a checked access. -/
def checkPages (e : Ent) (off : Nat) (n : Need) : M Acc := do
  let s ← get
  let ctxid := s.ctxidOf s.cur.1
  let rel := e.base + off - s.mapBase ctxid e
  pagesRead ((pageStarts rel n.size).map (fun d => s.pteKey ctxid e (off + d))) n.use (hEval e.index off)
  let s ← get
  match translateAll s.curCluster ctxid e off n.use (hEval e.index off) (pageStarts rel n.size) s with
  | (.error b, _) => raise b
  | (.ok hs, t) =>
    set t
    pure ⟨e, off, hs⟩

/-- R229 `check_handle` for a global object: steps 1 to 7. -/
def checkHandle (h : Handle) (off : Int) (n : Need) : M Acc := do
  let e ← checkEntry h off n
  checkPages e off.toNat n

/-- The leaf of an access of the context that issues (R172): that of its binding, or the one it had when it began to wait. -/
def State.accLeaf (s : State) (e : Ent) : Nat := s.curCtx.onPath.getD (e.leaf s.cur.1)

/-- The access in progress keeps its path while it waits (R172). -/
def keepPath (leaf : Nat) : M Unit := modify (fun s => s.modCur (fun x => { x with onPath := some leaf }))

/-- An access waits at a bank that is being reshaped (R173). -/
def pathOpen (ctxid leaf : Nat) : M Unit := do
  let s ← get
  match s.reshaping ctxid (s.path ctxid leaf) with
  | some v => do
    keepPath leaf
    waitFor (.vcOpen v)
  | none => pure ()

/-- The queue of the core can be sent on: no stage of an entry's path is being reshaped (R173). -/
def queueOpen : M Unit := do
  let s ← get
  match s.queueShut s.cur.1 (fun _ => true) with
  | some v => waitFor (.vcOpen v)
  | none => pure ()

/-- R253: what the queue holds for a line goes on before the line is accessed. -/
def lineCurrent (la : Nat) : M Unit := do
  let s ← get
  if s.curCore.wq.any (fun w => w.oaddr / 128 == la) then
    queueOpen
    modify (fun s => s.drainThrough s.cur.1 (fun w => w.oaddr / 128 == la))
  else pure ()

/-- Raise REMOTE_FAIL for an access that the host aborts (R52, R267). -/
def hostAbort {α : Type} : M α := do
  let s ← get
  let (v, t) := s.abortEval
  set t
  trap Cause.remoteFail v

/-- Take the reply to the request of the context, if it is there. -/
def takeReply (tag : Nat) : M (Option Reply) := do
  let s ← get
  match s.curCtx.replies.find? (fun r => r.tag == tag) with
  | none => pure none
  | some r =>
    modify (fun s => s.modCur (fun x => { x with replies := x.replies.filter (fun q => q.tag != tag) }))
    pure (some r)

/-- The tag of the request the context waits for. -/
def pendingTag : M (Option Nat) := do
  let s ← get
  match s.curCtx.wait with
  | some (.remote t) => pure (some t)
  | _ => pure none

/-- The access whose request is not answered yet: it has passed its checks, and they are not made again (R166, R262). -/
def pendingAccess : M (Option Acc) := do
  let s ← get
  match s.curCtx.wait with
  | some (.remote _) => pure s.curCtx.access
  | _ => pure none

/-- The access of an instruction, checked when it is first executed. -/
def checked (fresh : M Acc) : M Acc := do
  match ← pendingAccess with
  | some a => pure a
  | none => fresh

/-- The access whose request is about to leave. -/
def keepAccess (a : Acc) : M Unit := modify (fun s => s.modCur (fun x => { x with access := some a }))

/-- The line that an access waited for has come, but an invalidation or a write-back has met it on its way: it is asked for again
(log entry 139). -/
def dropSpoiled : M Unit := do
  let x := (← get).curCtx
  match x.noFill, x.wait with
  | true, some (.remote t) =>
    if x.replies.any (fun r => r.tag == t && r.op != 0x4F) then
      modify (fun s => s.modCur (fun x => { x with
        wait := none, noFill := false, replies := x.replies.filter (fun r => r.tag != t) }))
    else pure ()
  | _, _ => pure ()

/-- Send a request for the context and wait for its answer; when the answer is there, take it. A FAIL raises its cause
(R38); `cause` is that of an answer that never came (R27). -/
def request (build : Nat → State → State) : M Reply := do
  match ← pendingTag with
  | some t =>
    match ← takeReply t with
    | some r =>
      modify (fun s => s.modCur (fun x => { x with wait := none, access := none, noFill := false }))
      if r.op = 0x4F then
        let w := r.words.getD 0 0
        throw (.trap (bits w 63 56) (r.words.getD 1 0) 0 0)
      else pure r
    | none => waitFor (.remote t)
  | none =>
    let s ← get
    let (tag, s) := s.newTag s.cur.1
    set (build tag s)
    waitFor (.remote tag)

/-- A request message of the core that issues to another device (R27, R52). -/
def State.peerMsg (s : State) (dev tag op size page off ord scope aop rctx rhnd : Nat) (more : List Word) : Msg :=
  let c := s.cur.1
  mkMsg dev 0x800 s.devId (niEndpoint (c / 8)) 0 op tag (s.partOfBlock (c / 64)) (parity (s.core c).snapGen)
    ([q0Word size (peerAddr page off), q1Word rctx scope ord 0 aop (c % 8) rhnd] ++ more)

/-- The code of a size in Q0 (R38). -/
def sizeCode (n : Nat) : Nat := if n = 1 then 0 else if n = 2 then 1 else if n = 4 then 2 else if n = 8 then 3
  else if n = 16 then 4 else if n = 64 then 5 else 7

/-- The line of another device that holds a byte at page offset `off`, `i` bytes into the line: asked for by the endpoint of the
last stage of the path, at which the context waits (R27, R422). -/
def fetchFar (ctxid leaf la i dev rctx rhnd page off : Nat) (a : Acc) : M Reply := do
  keepPath leaf
  keepAccess a
  request (fun tag s =>
    let m := s.peerMsg dev tag 0x01 7 page (off - i) 0 0 0 rctx rhnd []
    s.sendRemote dev s.cur.1 s.cur.2 true false a.ent.index a.off
      { m with sep := s.sender ctxid ((s.path ctxid leaf).getLast?.getD 0) la })

/-- The line that a reply brings, with the poison of its doublewords. -/
def Reply.line (r : Reply) : List Byte × Nat := (r.words.flatMap (fun w => leBytes 8 w.toNat), r.poison)

/-- A scalar load of a global object (R250): `n` bytes as a number, or UNCORR_DATA on poison (R101). A line of another device
that no stage of the path can serve is fetched first, and every stage keeps it (R171); an access that waits for one is held at
its bank, and completes under the shape it found there (R173). -/
def loadGlobal (a : Acc) (n : Nat) : M Nat := do
  dropSpoiled
  let s ← get
  let c := s.cur.1
  let ctxid := s.ctxidOf c
  let leaf := s.accLeaf a.ent
  let oaddr := a.ent.base + a.off
  let la := oaddr / 128
  let i := oaddr % 128
  let home := a.homeAt 0
  let tag ← pendingTag
  if tag.isNone then do
    pathOpen ctxid leaf
    lineCurrent la
  else pure ()
  let s ← get
  let far := (findLine s.curCore.l1 la).isNone && s.reachesHome ctxid la (byteMask i n) (s.path ctxid leaf)
  let sup ← match home, far || tag.isSome with
    | .peer dev rctx rhnd page off, true => do
      let r ← fetchFar ctxid leaf la i dev rctx rhnd page off a
      pure (some r.line)
    | _, _ => pure none
  let s ← get
  if s.hostDenies home && far then hostAbort
  else
    let (l, t) := s.l1Line c ctxid leaf la (home.lineOf i) sup (byteMask i n)
    set t
    if lineBad l.poison i n then trap Cause.uncorrData (hEval a.ent.index a.off)
    else pure (leNat ((l.data.drop i).take n))

/-! ## W and X exclusion (R92) -/

/-- Whether an entry that holds W covers a byte of a page marked as code. -/
def State.coversCode (s : State) (ctxid : Nat) (e : Ent) : Bool :=
  e.rights.testBit rW && !e.free && e.fmt != 15 &&
    (pageStarts (e.base - s.mapBase ctxid e) e.len).any (fun d => (s.mem.get (s.pteKey ctxid e d + 7)).getLsbD 6)

/-- The pages marked as code in every map but one. -/
def State.codePages (s : State) (mkey : Nat) : List Home :=
  (s.maps.filter (fun r => r.1 != mkey && r.2.sealed)).flatMap (fun r => (List.range r.2.npages).filterMap (fun i =>
    let w := word (s.mem.getLE (r.1 + 8 * i) 8)
    if bit w 62 then some (homeOf (keyParts r.1).1 r.2.die w 0) else none))

/-- R92: whether a store of bytes at a home would leave an object-table entry or a page-map entry that breaks the exclusion
of W and X. The test is made on the line as the store would leave it. -/
def State.wxBad (s : State) (h : Home) (bs : List Byte) : Bool :=
  match h with
  | .mem key =>
    let new := (List.range bs.length).map (fun i => s.roByte (key + i) (bs.getD i 0))
    let t := { s with mem := s.mem.putRange key new }
    let hits := fun (a n : Nat) => a < key + bs.length && key < a + n
    s.procs.any (fun p =>
      let tab := s.tableKey p.2.part p.2.otbase
      (hits tab (64 * p.2.otlen) && ((key + bs.length - 1 - tab) / 64 + 1 - (key - tab) / 64 != 0) &&
        (List.range ((key + bs.length - 1 - tab) / 64 + 1 - (key - tab) / 64)).any (fun k =>
          let i := (key - tab) / 64 + k
          match s.ent p.1 i, t.ent p.1 i with
          | some old, some e => (!old.rights.testBit rX && e.rights.testBit rX) || t.coversCode p.1 e
          | _, _ => false)) ||
      (s.maps.any (fun r => r.2.sealed) && (List.range p.2.otlen).any (fun i => match s.ent p.1 i with
        | some e =>
          let mkey := s.tableKey p.2.part e.pmap
          e.rights.testBit rW && !e.free && e.fmt != 15 && (pageStarts (e.base - s.mapBase p.1 e) e.len).any (fun d =>
            let k := s.pteKey p.1 e d
            let w := word (t.mem.getLE k 8)
            hits k 8 && !bit w 61 && (s.codePages mkey).contains (homeOf p.2.part e.die w 0))
        | none => false)))
  | _ => false

/-- Raise H_WX when a store would break R92. -/
def exclusion (a : Acc) (bs : List Byte) : M Unit := do
  let s ← get
  trapIf (s.wxBad (a.homeAt 0) bs) Cause.hWx (hEval a.ent.index a.off)

/-- A store enters the write queue (R252); a full queue makes the context wait. -/
def enqueue (a : Acc) (kind : WqKind) (bs : List Byte) : M Unit := do
  let s ← get
  waitIf (16 ≤ s.curCore.wq.length) .writeRoom
  let w : WqEntry := ⟨s.cur.2, kind, a.ent.index, a.off, a.ent.base + a.off, a.homeAt 0, a.ent.leaf s.cur.1, bs, s.curCtx.sup⟩
  modify (fun s => s.modCurCore (fun k => { k with wq := k.wq ++ [w] }))

/-- A write to an object without J, or any write but those of R103, ends the superstep's rollability. -/
def noteWrite (e : Ent) : M Unit :=
  if e.rights.testBit rJ then pure ()
  else modify (fun s => s.modCurCore (fun k => { k with rollable := false }))

/-! ## Local memory (R167, R132) -/

/-- A byte of local memory of core `c` in `State.lmem`. -/
def lkey (c off : Nat) : Nat := c * 2 ^ 18 + off

/-- The first byte of the frames (R130). -/
def frameBase : Nat := 0x3F400

/-- The value of a frame's register: context 0–10, or 11 for supervisor level; x0 reads zero (R130). -/
def Core.frameReg (k : Core) (f r : Nat) : Word :=
  if r = 0 then 0 else if f = 11 then (k.sregs[r]?).getD 0 else ((k.ctx f).regs[r]?).getD 0

/-- Write a register through its frame slot; the slot of x0 is ignored (R130, R132). -/
def Core.setFrameReg (k : Core) (f r : Nat) (v : Word) : Core :=
  if r = 0 then k
  else
    let k := { k with frames := markDirty k.frames f }
    if f = 11 then { k with sregs := k.sregs.setIfInBounds r v }
    else k.setCtx f { k.ctx f with regs := (k.ctx f).regs.setIfInBounds r v }

/-- The 256 bytes of a frame as written back (R130). -/
def Core.frameBytes (k : Core) (f : Nat) : List Byte := (List.range 32).flatMap (fun r => leBytes 8 (k.frameReg f r).toNat)

/-- The core's own write into its local memory. While its cut is pending, it also goes to the image of every granule that
an arriving write has copied (R187). -/
def State.ownWrite (s : State) (c off : Nat) (bs : List Byte) : State :=
  let s := s.cowGranules c off bs.length
  let s := { s with lmem := s.lmem.putRange (lkey c off) bs }
  if (s.core c).cowGran.isEmpty then s
  else bs.zipIdx.foldl (fun s p =>
    if (s.core c).cowGran.contains (granule (off + p.2)) then
      s.modCore c (fun k => { k with cowLmem := k.cowLmem.put (off + p.2) p.1 })
    else s) s

/-- Write a frame back to local memory (R131). -/
def State.writeBack (s : State) (c f : Nat) : State := s.ownWrite c (frameBase + 256 * f) ((s.core c).frameBytes f)

/-- Write every dirty frame of a core back (R131). -/
def State.writeBackAll (s : State) (c : Nat) : State :=
  let s := (List.range 12).foldl (fun s f => s.writeBack c f) s
  s.modCore c (fun k => { k with frames := k.frames.map (fun f => (f.1, false)) })

/-- The bytes a scalar access of the core itself reads in local memory: a frame's are the registers (R132). -/
def State.localRead (s : State) (c off n : Nat) : List Byte :=
  if off < frameBase then s.lmem.getRange (lkey c off) n
  else
    let f := (off - frameBase) / 256
    let r := (off - frameBase) % 256 / 8
    ((leBytes 8 ((s.core c).frameReg f r).toNat).drop (off % 8)).take n

/-- A scalar store of the core itself in local memory (R132, R167). -/
def State.localWrite (s : State) (c off : Nat) (bs : List Byte) : State :=
  if off < frameBase then s.ownWrite c off bs
  else
    let f := (off - frameBase) / 256
    let r := (off - frameBase) % 256 / 8
    let old := leBytes 8 ((s.core c).frameReg f r).toNat
    let new := old.take (off % 8) ++ bs ++ old.drop (off % 8 + bs.length)
    s.modCore c (fun k => k.setFrameReg f r (word (leNat new)))

/-- A write of another agent into local memory (remote stores, copies): the frame range takes none (R132). `col` is the
parity of the writer's generation. Before the core's cut, a write of the new colour copies its granule first (R186); after
it, a write of the old colour goes to the image too (R184). The answer says whether it was written. -/
def State.foreignWrite (s : State) (c off : Nat) (bs : List Byte) (col : Bool) : Bool × State :=
  if frameBase < off + bs.length then (false, s)
  else
    let s := match s.inProgress c with
      | none => s
      | some n =>
        let newCol := parity n.gen
        if (s.core c).snapGen != n.gen then
          if col = newCol ∧ ¬ (s.core c).cowGran.contains (granule off) then
            let g := granule off
            s.modCore c (fun k => { k with
              cowGran := g :: k.cowGran, cowLmem := k.cowLmem.copyRange (g * 1024) s.lmem (lkey c (g * 1024)) 1024 })
          else if col ≠ newCol ∧ (s.core c).cowGran.contains (granule off) then
            s.modCore c (fun k => { k with cowLmem := k.cowLmem.putRange off bs })
          else s
        else if col ≠ newCol then
          let s := s.recopyUnit c (granule off)
          { s with jobs := s.jobs.map (fun (j : Nat × JobState) => (j.1, { j.2 with snaps := j.2.snaps.map (fun (m : Snap) =>
              if m.gen = n.gen then
                { m with cuts := m.cuts.map (fun (q : CoreCut) => if q.core = c then { q with lmem := q.lmem.putRange off bs } else q) }
              else m) })) }
        else s
    let s := s.cowGranules c off bs.length
    (true, { s with lmem := s.lmem.putRange (lkey c off) bs })

end Sys2Proof.Machine
end

