-- ==== Sys2Proof/Machine/EventUnit.lean ====
section
/-! DEFINITION. The event unit of a cluster (R141 to R144, R272 to R275): lines, barriers and mutexes. -/

namespace Sys2Proof.Machine

/-- The contexts of a cluster (of one core for line 31) that wait on event line `l`. -/
def State.lineWaiters (s : State) (c l : Nat) : List (Nat × Nat × Nat) :=
  let cs := if l = 31 then [c] else coresOf (c / 8)
  cs.flatMap (fun k => (List.range 11).filterMap (fun i => match (s.ctx k i).wait with
    | some (.line j d) => if j = l then some (k, i, d) else none
    | _ => none))

/-- A context takes a value from line `l` (R272): xd, the delivered value, and the wait retires. -/
def State.takeValue (s : State) (l d v : Nat) : State :=
  let s := (s.setX (BitVec.ofNat 5 d) (word v)).retire
  s.modCur (fun x => { x with
    wait := none, delivered := if x.sup then x.delivered else x.delivered.put l (x.delivered.get l 0 ||| v) })

/-- R276: the contexts in `pause` of a cluster wake. -/
def State.wakePause (s : State) (cl : Nat) : State :=
  (coresOf cl).foldl (fun s c =>
    if (s.cores.look c).isNone then s
    else s.wakeCore c) s

/-- R142: a store of `v` to line `l` of core `c`'s cluster; the contexts then waiting on it take its value. -/
def State.signal (s : State) (c l v : Nat) : State :=
  let s := s.wakePause (c / 8)
  let old := s.line c l
  let new : ELine := ⟨old.value ||| v % 2 ^ 32, true⟩
  match s.lineWaiters c l with
  | [] => s.setLine c l new
  | ws =>
    let s := s.setLine c l ELine.zero
    ws.foldl (fun s w => s.asCtx w.1 w.2.1 (fun s => s.takeValue l w.2.2 new.value)) s

/-- Barrier `b` of a cluster. -/
def State.ebar (s : State) (cl b : Nat) : EBar := (s.cluster cl).bars.get b EBar.zero

/-- Write a barrier of a cluster. -/
def State.setEbar (s : State) (cl b : Nat) (v : EBar) : State :=
  s.modCluster cl (fun k => { k with bars := k.bars.put b v })

/-- EVAL of a barrier or mutex cause of the event unit (R344). -/
def unitEval (n gen : Nat) : Word := word (gen * 65536 + n)

/-- R143: an arrival of a context at a barrier of the event unit. Contexts that wait for the old generation find it
released. -/
def State.barArrive (s : State) (c i b g : Nat) : Except Bad State :=
  let e := s.ebar (c / 8) b
  if g != e.gen then .error (Bad.of Cause.barStale (unitEval b e.gen))
  else if e.arrived.contains (c, i) then .error (Bad.of Cause.barOverrun (unitEval b e.gen))
  else
    let arrived := e.arrived ++ [(c, i)]
    if max e.need 1 ≤ arrived.length then
      .ok ((s.wakePause (c / 8)).setEbar (c / 8) b ⟨(e.gen + 1) % 256, e.need, []⟩)
    else .ok (s.setEbar (c / 8) b { e with arrived := arrived })

/-- Mutex `m` of a cluster. -/
def State.mutex (s : State) (cl m : Nat) : Mutex := (s.cluster cl).mutexes.get m Mutex.zero

/-- Write a mutex of a cluster. -/
def State.setMutex (s : State) (cl m : Nat) (v : Mutex) : State :=
  s.modCluster cl (fun k => { k with mutexes := k.mutexes.put m v })

/-- The mutex owned by a context: its gang index, context number and instance (R141, R275). -/
def Mutex.own (k : Core) (i : Nat) (waiters : List (Nat × Nat)) : Mutex := ⟨true, k.gangIdx, i, k.inst, waiters⟩

/-- Whether a context of core `k` is the recorded owner, by its gang index and context number (R275). -/
def Mutex.ownedBy (m : Mutex) (k : Core) (i : Nat) : Bool :=
  m.held && m.gang == k.gangIdx && m.ctx == i

/-! ## The exchange plan (R298) -/

/-- LINES, BARS and MTXS of a plan, as one test: kind 0, 1 or 2, number `n`. -/
def inPlan (plan : List Word) (kind n : Nat) : Bool :=
  let w := plan.getD 1 0
  match kind with
  | 0 => n < 31 && bit w n
  | 1 => n < 16 && bit w (32 + n)
  | _ => n < 16 && bit w (48 + n)

/-- The entries of a map that a plan names. -/
def planned {α : Type} (plan : List Word) (kind : Nat) (m : NMap α) : NMap α := m.filter (fun p => inPlan plan kind p.1)

/-- The entries of a map that a plan does not name. -/
def unplanned {α : Type} (plan : List Word) (kind : Nat) (m : NMap α) : NMap α := m.filter (fun p => !inPlan plan kind p.1)

/-- The event resources of a plan as they were recorded take the place of those of a cluster (R145). Who waits for a mutex
there waits on. -/
def Cluster.putPlan (k : Cluster) (plan : List Word) (lines : NMap ELine) (bars : NMap EBar) (mutexes : NMap Mutex) : Cluster :=
  { k with
    lines := lines.foldl (fun (m : NMap ELine) l => m.put l.1 l.2) (unplanned plan 0 k.lines),
    bars := bars.foldl (fun (m : NMap EBar) b => m.put b.1 b.2) (unplanned plan 1 k.bars),
    mutexes := (List.range 16).foldl (fun (m : NMap Mutex) n =>
      if inPlan plan 2 n then m.put n { mutexes.get n Mutex.zero with waiters := (k.mutexes.get n Mutex.zero).waiters } else m) k.mutexes }

/-- A mutex of a cluster that is free goes to its oldest waiter, whose `lock` retires (R144). -/
def State.grantMutex (s : State) (cl m : Nat) : State :=
  let x := s.mutex cl m
  match x.held, x.waiters with
  | false, w :: rest => (s.setMutex cl m (Mutex.own (s.core w.1) w.2 rest)).asCtx w.1 w.2 (fun s =>
      (s.modCur (fun x => { x with wait := none })).commit)
  | _, _ => s

/-- R144: an unlock by a context. The oldest waiter gets the mutex, and its `lock` retires. -/
def State.unlock (s : State) (c i m : Nat) : Except Bad State :=
  let x := s.mutex (c / 8) m
  if !x.ownedBy (s.core c) i then .error (Bad.of Cause.mutexOwner (unitEval m 0))
  else
    let s := s.wakePause (c / 8)
    .ok ((s.setMutex (c / 8) m { Mutex.zero with waiters := x.waiters }).grantMutex (c / 8) m)

/-- A context leaves every list of waiters (R269). -/
def State.withdraw (s : State) (c i : Nat) : State :=
  match (s.ctx c i).wait with
  | some (.mutex m) =>
    let x := s.mutex (c / 8) m
    s.setMutex (c / 8) m { x with waiters := x.waiters.filter (fun w => w != (c, i)) }
  | _ => s

/-- R141: a load in the event window consumes nothing. -/
def State.eventRead (s : State) (c off : Nat) : Word :=
  let cl := c / 8
  if off < 0x100 then
    let l := s.line c (off / 8)
    word (b2n l.pend * 2 ^ 32 + l.value)
  else if off < 0x180 then
    let b := s.ebar cl ((off - 0x100) / 8)
    word (b.gen * 65536 + b.need * 256 + b.arrived.length)
  else if off < 0x200 then
    let m := s.mutex cl ((off - 0x180) / 8)
    word (b2n m.held * 65536 + m.gang % 4096 * 16 + m.ctx)
  else if off < 0x280 then word (s.ebar cl ((off - 0x200) / 8)).need
  else 0

/-- R141: a write of BARCFG: reserved bits and 89 to 127 discard it; it releases nothing (R143). -/
def State.writeBarcfg (s : State) (cl b : Nat) (v : Word) : State :=
  if 88 < v.toNat then s else s.setEbar cl b { s.ebar cl b with need := v.toNat }

/-! ## Releases and acquires of the context that issues (R359, R360) -/

/-- Whether a request to another device that is not answered yet counts as one of context `i` of core `c`: one that it sent, or a
write-back that a VC of its CTXID sent, which may hold stores of it (R270, R359). -/
def State.owedBy (s : State) (c i : Nat) (r : Remote) : Bool :=
  r.dev != s.devId && ((r.core == c && r.ctx == i) || (r.msg.op == 0x03 && isBank r.msg.sep && s.ctxidOf r.core == s.ctxidOf c))

/-- Whether operations of a context on other devices are not yet answered. -/
def State.remoteOf (s : State) (c i : Nat) : Bool := s.remotes.any (s.owedBy c i)

/-- The same for the context that issues. -/
def State.remoteBusy (s : State) : Bool := s.remoteOf s.cur.1 s.cur.2

/-- Whether stores, `stn`, atomics or cleans of the context that issues are not yet acknowledged by another device: reductions are
not among what a fence orders (R270). -/
def State.storesBusy (s : State) : Bool :=
  s.remotes.any (fun r => s.owedBy s.cur.1 s.cur.2 r && (r.msg.op == 0x02 || r.msg.op == 0x03 || r.msg.op == 0x04 || r.msg.op == 0x06))

/-- The VCs that a release or an acquire at a scope touches: those below it, and the VC of a VC scope itself, into which they are
cleaned (R359, R368). -/
def State.scopeVcs (s : State) (c ctxid scope : Nat) : List Nat :=
  s.below c ctxid scope ++ (if 0x41 ≤ scope ∧ scope ≤ 0x7F then [scope - 0x40] else [])

/-- At package and at job scope the cleans of lines of other devices are acknowledged (R270, R356). -/
def cleansAcked (scope : Nat) : M Unit := do
  let s ← get
  waitIf ((scope == 2 || scope == 3) && s.storesBusy) .remoteIdle

/-- A release at a scope (R359): the write queue is drained, and every VC below the scope is cleaned; at package and
job scope, stores to other devices are acknowledged. It waits while a VC concerned is being reshaped. -/
def releaseAt (scope : Nat) : M Unit := do
  queueOpen
  let s ← get
  let c := s.cur.1
  let ctxid := s.ctxidOf c
  match s.reshaping ctxid (s.scopeVcs c ctxid scope) with
  | some v => waitFor (.vcOpen v)
  | none =>
    modify (fun s => s.release c scope)
    cleansAcked scope

/-- An instruction that acquires after its effect has its effect only when the acquire can follow in the same step, so that it is
executed whole or not at all (R133). One that waits for an answer goes on waiting for it. -/
def acquireOpen (scope : Nat) : M Unit := do
  let s ← get
  let ctxid := s.ctxidOf s.cur.1
  match s.reshaping ctxid (s.scopeVcs s.cur.1 ctxid scope) with
  | none => pure ()
  | some v => match ← pendingTag with
    | some t => waitFor (.remote t)
    | none => waitFor (.vcOpen v)

/-- An acquire at a scope (R360). -/
def acquireAt (scope : Nat) : M Unit := do
  let s ← get
  let c := s.cur.1
  let ctxid := s.ctxidOf c
  match s.reshaping ctxid (s.scopeVcs c ctxid scope) with
  | some v => waitFor (.vcOpen v)
  | none => modify (fun s => s.acquire c scope)

/-- An acquire whose cleans are acknowledged before what it belongs to is reported (R365). -/
def settleAt (scope : Nat) : M Unit := do
  acquireAt scope
  cleansAcked scope

/-- Run a check that changes the state. -/
def ofChange (r : Except Bad State) : M Unit := do
  let s ← ofCheck r
  set s

/-- `evsig` and a store to an event line: a release at cluster scope, the signal, and the commit (R142, R273). -/
def signalLine (l v : Nat) : M Unit := do
  releaseAt 1
  modify (fun s => s.signal s.cur.1 l v)
  commitInstr false

/-- A store to a barrier of the event unit (R143): the arrival without the wait. -/
def arriveEvent (b g : Nat) : M Unit := do
  releaseAt 1
  let s ← get
  ofChange (s.barArrive s.cur.1 s.cur.2 b g)
  commitInstr true

/-- A store to a mutex, and `unlock` (R144). -/
def unlockMutex (m : Nat) : M Unit := do
  releaseAt 1
  let s ← get
  ofChange (s.unlock s.cur.1 s.cur.2 m)
  commitInstr true

end Sys2Proof.Machine
end

