-- ==== Sys2Proof/Machine/LoadStore.lean ====
section
/-! DEFINITION. Scalar loads and stores (R248 to R255). -/

namespace Sys2Proof.Machine

/-! ## Local memory and the event window (R167, R141) -/

/-- The checks of R166 and R167 on a scalar access through h0. -/
def localCheck (off : Int) (size : Nat) : Except Bad Unit :=
  let ev := hEval 0 (off48 off)
  if off < 0 || 0x201000 < off + size then .error (Bad.of Cause.hBound ev)
  else if off.toNat % size != 0 then .error (Bad.of Cause.hAlign ev)
  else if 0x200000 ≤ off then (if size = 8 then .ok () else .error (Bad.of Cause.hAlign ev))
  else if 0x40000 ≤ off then .error (Bad.of Cause.windowScalar ev)
  else .ok ()

/-- A load through h0 (R250). -/
def loadLocal (off : Int) (size : Nat) : M Nat := do
  ofCheck (localCheck off size)
  let s ← get
  let c := s.cur.1
  let o := off.toNat
  if 0x200000 ≤ o then pure (s.eventRead c (o - 0x200000)).toNat
  else if o < frameBase && s.lmem.poisoned (lkey c o) size then trap Cause.uncorrData (hEval 0 o)
  else pure (leNat (s.localRead c o size))

/-- A store in the event window (R141 to R144). `w` is the instruction, for EVAL of ILL_PRIV. -/
def storeEvent (w : Instr) (o : Nat) (v : Word) : M Unit := do
  if o < 0x100 then do
    endBlock
    signalLine (o / 8) (bits v 31 0)
  else if o < 0x180 then do
    endBlock
    arriveEvent ((o - 0x100) / 8) (bits v 7 0)
  else if o < 0x200 then do
    endBlock
    unlockMutex ((o - 0x180) / 8)
  else if o < 0x280 then do
    let s ← get
    trapIf (!s.curCtx.sup) Cause.illPriv (wordEval w 0)
    modify (fun s => s.writeBarcfg (s.cur.1 / 8) ((o - 0x200) / 8) v)
    retire
  else retire

/-- A store through h0 (R252). -/
def storeLocal (w : Instr) (off : Int) (size : Nat) (v : Word) : M Unit := do
  ofCheck (localCheck off size)
  let o := off.toNat
  if 0x200000 ≤ o then storeEvent w (o - 0x200000) v
  else
    modify (fun s => s.localWrite s.cur.1 o (leBytes size v.toNat))
    retire

/-! ## The gang window (R168) -/

/-- The core and the local byte that an offset of a gang window names, as the gang stands. -/
def State.gangTarget (s : State) (off : Nat) : Option (Nat × Nat) :=
  ((s.gang s.cur.1)[off / 0x40000]?).map (fun m => (m, off % 0x40000))

/-- Send a message of the core that issues to a network interface of this device; its answer is awaited by its tag. -/
def State.sendLocal (s : State) (target op tag size addr handle off : Nat) (load : Bool) (more : List Word) : State :=
  let c := s.cur.1
  let m := mkMsg s.devId (niEndpoint (target / 8)) s.devId (niEndpoint (c / 8)) 0 op tag (s.partOfBlock (c / 64))
    (parity (s.core c).snapGen) ([q0Word size addr, q1Word (s.ctxidOf c) 0 0 0 0 (target % 8) handle] ++ more)
  let r : Remote := ⟨tag, c, s.cur.2, load, handle, off, s.devId, 0, false, m, s.clk, 0, none, false⟩
  let s := if m.counted then s.countSent c else s
  { s with remotes := s.remotes ++ [r] }.inject m

/-- A remote load (R168); it consumes the poison of the word that it reads (R101). -/
def loadGang (e : Ent) (off size : Nat) : M Nat := do
  let s ← get
  match s.gangTarget off with
  | none => trap Cause.hBound (hEval e.index off)
  | some (m, o) =>
    keepAccess ⟨e, off, []⟩
    let r ← request (fun tag s => s.sendLocal m 0x0C tag (sizeCode size) o e.index off true [])
    trapIf (r.poison != 0) Cause.uncorrData (hEval e.index off)
    pure ((r.words.getD 0 0).toNat % 2 ^ (8 * size))

/-- A remote store or a remote nibble (R168, R255): it retires at once, and RFCNT counts it. -/
def storeGang (e : Ent) (off size op : Nat) (v : Word) : M Unit := do
  let s ← get
  match s.gangTarget off with
  | none => trap Cause.hBound (hEval e.index off)
  | some (m, o) =>
    endBlock
    waitIf (255 ≤ s.curCore.rfcnt) .remoteRoom
    let (tag, t) := (← get).newTag s.cur.1
    set (t.sendLocal m op tag (sizeCode size) o e.index off false [v])
    modify (fun s => s.modCurCore (fun k => { k with rfcnt := k.rfcnt + 1 }))
    commitInstr true

/-! ## Loads (R249) -/

/-- A load of `size` bytes at an effective offset of a handle register. -/
def loadBytes (h : BitVec 4) (off : Int) (size : Nat) : M Nat := do
  if h = 0 then loadLocal off size
  else
    let s ← get
    let need : Need := ⟨[rR], size, false, size, false, .read⟩
    let a ← checked (do
      let e ← checkEntry (s.hreg h.toNat) off need
      if e.fmt = 15 then pure ⟨e, off.toNat, []⟩
      else
        let a ← checkPages e off.toNat need
        trapIf (e.fmt != 0) Cause.windowScalar (hEval e.index (off48 off))
        pure a)
    if a.ent.fmt = 15 then loadGang a.ent a.off size else loadGlobal a size

/-- A load into a register; `ext` extends the value. -/
def load (d a : BitVec 5) (h : BitVec 4) (o : BitVec 9) (size : Nat) (ext : Nat → Word) (s : State) : Outcome :=
  runInstr (do
    let v ← loadBytes h (s.effOff a o size) size
    writeX d (ext v)
    retire) s

/-- Sign extension of a loaded value of `n` bits. -/
def extS (n v : Nat) : Word := wordOfInt (sextN n v)

/-- R249 `ldb`. -/
def execLdb (d a : BitVec 5) (h : BitVec 4) (o : BitVec 9) (s : State) : Outcome := load d a h o 1 (extS 8) s
/-- R249 `ldbu`. -/
def execLdbu (d a : BitVec 5) (h : BitVec 4) (o : BitVec 9) (s : State) : Outcome := load d a h o 1 word s
/-- R249 `ldh`. -/
def execLdh (d a : BitVec 5) (h : BitVec 4) (o : BitVec 9) (s : State) : Outcome := load d a h o 2 (extS 16) s
/-- R249 `ldhu`. -/
def execLdhu (d a : BitVec 5) (h : BitVec 4) (o : BitVec 9) (s : State) : Outcome := load d a h o 2 word s
/-- R249 `ldw`. -/
def execLdw (d a : BitVec 5) (h : BitVec 4) (o : BitVec 9) (s : State) : Outcome := load d a h o 4 (extS 32) s
/-- R249 `ldwu`. -/
def execLdwu (d a : BitVec 5) (h : BitVec 4) (o : BitVec 9) (s : State) : Outcome := load d a h o 4 word s
/-- R249 `ldd`. -/
def execLdd (d a : BitVec 5) (h : BitVec 4) (o : BitVec 9) (s : State) : Outcome := load d a h o 8 word s

/-! ## Stores (R251) -/

/-- A store of `size` bytes at an effective offset of a handle register. -/
def storeBytes (w : Instr) (h : BitVec 4) (off : Int) (size : Nat) (v : Word) : M Unit := do
  if h = 0 then storeLocal w off size v
  else
    let s ← get
    let need : Need := ⟨[rW], size, true, size, false, .write⟩
    let e ← checkEntry (s.hreg h.toNat) off need
    if e.fmt = 15 then storeGang e off.toNat size 0x0B (word (v.toNat % 2 ^ (8 * size)))
    else
      let a ← checkPages e off.toNat need
      trapIf (e.fmt != 0) Cause.windowScalar (hEval e.index (off48 off))
      exclusion a (leBytes size v.toNat)
      enqueue a .store (leBytes size v.toNat)
      noteWrite e
      retire

/-- A store of a register. -/
def store (w : Instr) (d a : BitVec 5) (h : BitVec 4) (o : BitVec 9) (size : Nat) (s : State) : Outcome :=
  runInstr (storeBytes w h (s.effOff a o size) size (s.x d)) s

/-- R251 `stb`. -/
def execStb (d a : BitVec 5) (h : BitVec 4) (o : BitVec 9) (s : State) : Outcome := store (.stb d a h o) d a h o 1 s
/-- R251 `sth`. -/
def execSth (d a : BitVec 5) (h : BitVec 4) (o : BitVec 9) (s : State) : Outcome := store (.sth d a h o) d a h o 2 s
/-- R251 `stw`. -/
def execStw (d a : BitVec 5) (h : BitVec 4) (o : BitVec 9) (s : State) : Outcome := store (.stw d a h o) d a h o 4 s
/-- R251 `std`. -/
def execStd (d a : BitVec 5) (h : BitVec 4) (o : BitVec 9) (s : State) : Outcome := store (.std d a h o) d a h o 8 s

/-! ## The nibble store (R255) -/

/-- The checks of R166 and R255 on a nibble through h0: window 0 or 5. -/
def nibbleCheck (b : Int) : Except Bad Unit :=
  let ev := hEval 0 (off48 b)
  if b < 0 || 0x201000 < b + 1 then .error (Bad.of Cause.hBound ev)
  else if 0x200000 ≤ b then .error (Bad.of Cause.hAlign ev)
  else if b.toNat / 0x40000 = 0 || b.toNat / 0x40000 = 5 then .ok ()
  else .error (Bad.of Cause.windowScalar ev)

/-- A byte with one nibble replaced. -/
def putNibble (old : Nat) (high : Bool) (v : Nat) : Nat := if high then v * 16 + old % 16 else old / 16 * 16 + v

/-- `stn` on element `e` of a handle register. -/
def storeNibble (h : BitVec 4) (e : Int) (v : Nat) : M Unit := do
  let b := e / 2
  let high := e % 2 == 1
  if h = 0 then
    ofCheck (nibbleCheck b)
    modify (fun s =>
      let o := b.toNat % 0x40000
      let old := ((s.localRead s.cur.1 o 1).getD 0 0).toNat
      s.localWrite s.cur.1 o [BitVec.ofNat 8 (putNibble old high v)])
    retire
  else
    let s ← get
    let need : Need := ⟨[rW], 1, true, 1, false, .write⟩
    let t ← checkEntry (s.hreg h.toNat) b need
    if t.fmt = 15 then storeGang t b.toNat 1 0x06 (word (b2n high * 256 + v))
    else
      let a ← checkPages t b.toNat need
      trapIf (t.fmt != 0 && t.fmt != 5) Cause.windowScalar (hEval t.index (off48 b))
      let u ← get
      exclusion a [BitVec.ofNat 8 (putNibble ((u.homeRead (a.homeAt 0) 1).1.getD 0 0).toNat high v)]
      enqueue a (.nib high v) []
      noteWrite t
      retire

/-- R255 `stn`. -/
def execStn (d a : BitVec 5) (h : BitVec 4) (o : BitVec 9) (s : State) : Outcome :=
  runInstr (storeNibble h (s.effOff a o 1) (bits (s.x d) 3 0)) s

end Sys2Proof.Machine
end

