-- ==== Sys2Proof/Machine/Atomics.lean ====
section
/-! DEFINITION. Atomics and reductions at memory (R262 to R266), with the scope checker (R354, R355, R363). -/

namespace Sys2Proof.Machine

/-! ## Scopes -/

/-- R355: whether the node of `scope` for core `c`'s access to an object includes a recorded node. -/
def State.includes (s : State) (c ctxid : Nat) (e : Ent) (scope node : Nat) : Bool :=
  let kind := node / 2 ^ 24
  let low := node % 2 ^ 24
  let dev := if kind = 0 then low / 2048 else if kind = 1 then low / 256 else if kind = 2 then low else low / 65536
  match scope with
  | 0 => node == s.node c ctxid 0
  | 1 => (kind == 1 && node == s.node c ctxid 1) || (kind == 0 && dev == s.devId && low % 2048 / 8 == c / 8)
  | 2 => kind != 3 && dev == s.devId
  | 3 => true
  | v =>
    let u := v - 0x40
    let cluster := if kind = 0 then low % 2048 / 8 else low % 256
    if kind = 0 ∨ kind = 1 then dev == s.devId && (s.path ctxid (e.leaf (cluster * 8))).contains u
    else 0x41 ≤ kind && dev == s.devId && low % 65536 == ctxid
      && (s.path ctxid (kind - 0x40)).contains u

/-- EVAL of the causes about a VC (R344): the detail and V. -/
def vcEval (detail v : Nat) : Word := word (v * 256 + detail)

/-- R263: the scope checks of an ordered atomic or reduction, before anything is performed. -/
def State.scopeCheck (s : State) (ctxid leaf scope : Nat) : Except Bad Unit :=
  if scope < 0x40 then .ok ()
  else
    let v := scope - 0x40
    if (s.vc ctxid v).isNone then .error (Bad.of Cause.vcUndef (vcEval 0 v))
    else if (s.path ctxid leaf).contains v then .ok ()
    else .error (Bad.of Cause.vcRange (vcEval 5 v))

/-! ## The checks shared by atomics and reductions -/

/-- R262: the handle checks, the FMT rule, and the scope checks when ordered. -/
def atomicAccess (h : BitVec 4) (off : Int) (size : Nat) (ordered : Bool) : M Acc := do
  let s ← get
  if h = 0 then trap Cause.hRightA (hEval 0 rA)
  else
    checked (do
      let acc ← checkHandle (s.hreg h.toNat) off ⟨[rA], size, false, size, true, .write⟩
      trapIf (acc.ent.fmt != 0) Cause.windowScalar (hEval acc.ent.index acc.off)
      let s ← get
      if ordered then ofCheck (s.scopeCheck (s.ctxidOf s.cur.1) (acc.ent.leaf s.cur.1) (bits s.curCtx.scope 7 0)) else pure ()
      pure acc)

/-! ## Atomics (R262 to R264) -/

/-- The new value of an atomic: the operation of R262 by its number, or 20 for `amo.fadd.s`. -/
def atomNew (m size old b expect : Nat) : Option Nat := if m = 20 then some (fadd32 old b) else amoNew m size old b expect

/-- The value an atomic writes to xd (R262). -/
def atomOld (m size old : Nat) : Word :=
  if m = 20 then word (old % 2 ^ 32) else if size = 4 then wordOfInt (sextN 32 old) else word old

/-- Perform an atomic at a home of this device (R262, R363): the old value, or the cause. -/
def State.atomHome (s : State) (c ctxid : Nat) (a : Acc) (m size ord b expect scope : Nat) : Except Bad (Nat × State) :=
  let home := a.homeAt 0
  let line := home.syncLine
  let r := s.homeRead home size
  let old := leNat r.1
  let viol := match s.sync.look line with
    | some n => if (ord = 1 ∨ ord = 3) ∧ ¬ s.includes c ctxid a.ent scope n then some n else none
    | none => none
  match viol with
  | some n => .error (Bad.of Cause.scopeViolation (word (a.ent.index * 2 ^ 48 + scope * 2 ^ 32 + n)))
  | none =>
    if r.2 then .error (Bad.of Cause.uncorrData (hEval a.ent.index a.off))
    else if (match atomNew m size old b expect with
        | some v => s.wxBad home (leBytes size v)
        | none => false) then .error (Bad.of Cause.hWx (hEval a.ent.index a.off))
    else
      let s := match atomNew m size old b expect with
        | some v => s.homeStore home (leBytes size v) (2 ^ size - 1)
        | none => s
      let s := if ord = 2 ∨ ord = 3 then { s with sync := s.sync.put line (s.node c ctxid scope) } else s
      .ok (old, s)

/-- An atomic: operation `m`, code `aop` for a message to another device. -/
def atomic (d a b : BitVec 5) (h : BitVec 4) (ord m size aop : Nat) (s : State) : Outcome :=
  runInstr (do
    endBlock
    let acc ← atomicAccess h (s.x a).toInt size (ord != 0)
    let s1 ← get
    let c := s1.cur.1
    let ctxid := s1.ctxidOf c
    let scope := bits s1.curCtx.scope 7 0
    let leaf := s1.accLeaf acc.ent
    let la := (acc.ent.base + acc.off) / 128
    let operand := (s.x b).toNat % 2 ^ (8 * size)
    let expect := (s.x d).toNat % 2 ^ (8 * size)
    let acquires := ord = 1 ∨ ord = 3
    let old ← match acc.homeAt 0 with
      | .peer dev rctx rhnd page off => do
        let first ← pendingTag
        if first.isNone then do
          pathOpen ctxid leaf
          lineCurrent la
          if ord = 2 ∨ ord = 3 then releaseAt scope else pure ()
          modify (fun s => s.pathClean c ctxid leaf la)
          keepPath leaf
          keepAccess acc
        else if acquires then acquireOpen scope else pure ()
        let r ← request (fun tag s =>
          s.sendRemote dev c s.cur.2 false true acc.ent.index acc.off
            (s.peerMsg dev tag 0x04 (sizeCode size) page off (if ord = 0 then 0 else scope) ord aop rctx rhnd
              [word operand, word (if m = 1 then expect else 0)]))
        pure ((r.words.getD 0 0).toNat % 2 ^ (8 * size))
      | home => do
        if s1.hostDenies home then hostAbort else pure ()
        pathOpen ctxid leaf
        lineCurrent la
        if acquires then acquireOpen scope else pure ()
        if ord = 2 ∨ ord = 3 then releaseAt scope else pure ()
        let s2 ← get
        let s2 := (s2.snoop ctxid c la).coloured c ctxid leaf la (fun s => s.pathClean c ctxid leaf la)
        let s2 := s2.countOwn c (acc.homeAt 0)
        let (v, s3) ← ofCheck ({ s2 with colour := some (parity (s2.core c).snapGen) }.atomHome c ctxid acc m size ord operand expect scope)
        set { s3 with colour := none }
        pure v
    if acquires then acquireAt scope else pure ()
    writeX d (atomOld m size old)
    commitInstr (acc.ent.rights.testBit rJ)) s

/-- An atomic of R262 by its number and width. -/
def amo (d a b : BitVec 5) (h : BitVec 4) (o : BitVec 2) (w : BitVec 1) (m : Nat) (s : State) : Outcome :=
  atomic d a b h o.toNat m (if w = 1 then 8 else 4) (2 * m + w.toNat) s

/-- R262 `amo.swap`. -/
def execAmoSwap (d a b : BitVec 5) (h : BitVec 4) (o : BitVec 2) (w : BitVec 1) (s : State) : Outcome := amo d a b h o w 0 s
/-- R262 `amo.cas`. -/
def execAmoCas (d a b : BitVec 5) (h : BitVec 4) (o : BitVec 2) (w : BitVec 1) (s : State) : Outcome := amo d a b h o w 1 s
/-- R262 `amo.add`. -/
def execAmoAdd (d a b : BitVec 5) (h : BitVec 4) (o : BitVec 2) (w : BitVec 1) (s : State) : Outcome := amo d a b h o w 2 s
/-- R262 `amo.and`. -/
def execAmoAnd (d a b : BitVec 5) (h : BitVec 4) (o : BitVec 2) (w : BitVec 1) (s : State) : Outcome := amo d a b h o w 3 s
/-- R262 `amo.or`. -/
def execAmoOr (d a b : BitVec 5) (h : BitVec 4) (o : BitVec 2) (w : BitVec 1) (s : State) : Outcome := amo d a b h o w 4 s
/-- R262 `amo.xor`. -/
def execAmoXor (d a b : BitVec 5) (h : BitVec 4) (o : BitVec 2) (w : BitVec 1) (s : State) : Outcome := amo d a b h o w 5 s
/-- R262 `amo.min`. -/
def execAmoMin (d a b : BitVec 5) (h : BitVec 4) (o : BitVec 2) (w : BitVec 1) (s : State) : Outcome := amo d a b h o w 6 s
/-- R262 `amo.max`. -/
def execAmoMax (d a b : BitVec 5) (h : BitVec 4) (o : BitVec 2) (w : BitVec 1) (s : State) : Outcome := amo d a b h o w 7 s
/-- R262 `amo.minu`. -/
def execAmoMinu (d a b : BitVec 5) (h : BitVec 4) (o : BitVec 2) (w : BitVec 1) (s : State) : Outcome := amo d a b h o w 8 s
/-- R262 `amo.maxu`. -/
def execAmoMaxu (d a b : BitVec 5) (h : BitVec 4) (o : BitVec 2) (w : BitVec 1) (s : State) : Outcome := amo d a b h o w 9 s
/-- R262 `amo.fadd.s`. -/
def execAmoFaddS (d a b : BitVec 5) (h : BitVec 4) (o : BitVec 2) (s : State) : Outcome := atomic d a b h o.toNat 20 4 20 s

/-! ## Reductions (R265, R266) -/

/-- A reduction: it enters the write queue, after the release of ord 2. -/
def reduction (a b : BitVec 5) (h : BitVec 4) (release : Bool) (m size : Nat) (s : State) : Outcome :=
  runInstr (do
    endBlock
    let acc ← atomicAccess h (s.x a).toInt size release
    let s1 ← get
    let scope := bits s1.curCtx.scope 7 0
    if release then releaseAt scope else pure ()
    let s2 ← get
    exclusion acc (leBytes size (redNew m size (leNat (s2.homeRead (acc.homeAt 0) size).1) ((s.x b).toNat % 2 ^ (8 * size))))
    enqueue acc (.red m size (word ((s.x b).toNat % 2 ^ (8 * size))) release scope) []
    commitInstr (acc.ent.rights.testBit rJ)) s

/-- A reduction of R265 by its operation and width. -/
def red (a b : BitVec 5) (h : BitVec 4) (o w : BitVec 1) (m : Nat) (s : State) : Outcome :=
  reduction a b h (o == 1) m (if w = 1 then 8 else 4) s

/-- R265 `red.add`. -/
def execRedAdd (a b : BitVec 5) (h : BitVec 4) (o w : BitVec 1) (s : State) : Outcome := red a b h o w 2 s
/-- R265 `red.and`. -/
def execRedAnd (a b : BitVec 5) (h : BitVec 4) (o w : BitVec 1) (s : State) : Outcome := red a b h o w 3 s
/-- R265 `red.or`. -/
def execRedOr (a b : BitVec 5) (h : BitVec 4) (o w : BitVec 1) (s : State) : Outcome := red a b h o w 4 s
/-- R265 `red.xor`. -/
def execRedXor (a b : BitVec 5) (h : BitVec 4) (o w : BitVec 1) (s : State) : Outcome := red a b h o w 5 s
/-- R265 `red.min`. -/
def execRedMin (a b : BitVec 5) (h : BitVec 4) (o w : BitVec 1) (s : State) : Outcome := red a b h o w 6 s
/-- R265 `red.max`. -/
def execRedMax (a b : BitVec 5) (h : BitVec 4) (o w : BitVec 1) (s : State) : Outcome := red a b h o w 7 s
/-- R265 `red.minu`. -/
def execRedMinu (a b : BitVec 5) (h : BitVec 4) (o w : BitVec 1) (s : State) : Outcome := red a b h o w 8 s
/-- R265 `red.maxu`. -/
def execRedMaxu (a b : BitVec 5) (h : BitVec 4) (o w : BitVec 1) (s : State) : Outcome := red a b h o w 9 s
/-- R265 `red.fadd.s`. -/
def execRedFaddS (a b : BitVec 5) (h : BitVec 4) (o : BitVec 1) (s : State) : Outcome := reduction a b h (o == 1) 20 4 s
/-- R265 `red.fmax.s`. -/
def execRedFmaxS (a b : BitVec 5) (h : BitVec 4) (o : BitVec 1) (s : State) : Outcome := reduction a b h (o == 1) 21 4 s

end Sys2Proof.Machine
end

