-- ==== Sys2Proof/Machine/Branch.lean ====
section
/-! DEFINITION. Branches and jumps (R242 to R246). Each ends a signature block and is checked before it retires (R106). -/

namespace Sys2Proof.Machine

/-- R242: a branch to `target` when `taken`, else to the next word. -/
def branch (taken : Bool) (target : Word) (s : State) : Outcome :=
  runInstr (do
    endBlock
    modify (fun t => if taken then t.retireTo target else t.retireTo (t.curCtx.pc + 4))) s

/-- A jump that writes a link register, or none (x0). -/
def jump (link : BitVec 5) (target : Word) (s : State) : Outcome :=
  runInstr (do
    endBlock
    modify (fun t => (t.setX link (t.curCtx.pc + 4)).retireTo target)) s

/-- The link register (R214): x31. -/
abbrev lk : BitVec 5 := 31

/-- R242 `beq`. -/
def execBeq (a b : BitVec 5) (o : BitVec 16) (s : State) : Outcome :=
  branch (s.x a == s.x b) (relTarget s.curCtx.pc o) s
/-- R242 `bne`. -/
def execBne (a b : BitVec 5) (o : BitVec 16) (s : State) : Outcome :=
  branch (s.x a != s.x b) (relTarget s.curCtx.pc o) s
/-- R242 `blt`. -/
def execBlt (a b : BitVec 5) (o : BitVec 16) (s : State) : Outcome :=
  branch ((s.x a).slt (s.x b)) (relTarget s.curCtx.pc o) s
/-- R242 `bge`. -/
def execBge (a b : BitVec 5) (o : BitVec 16) (s : State) : Outcome :=
  branch (!(s.x a).slt (s.x b)) (relTarget s.curCtx.pc o) s
/-- R242 `bltu`. -/
def execBltu (a b : BitVec 5) (o : BitVec 16) (s : State) : Outcome :=
  branch ((s.x a).ult (s.x b)) (relTarget s.curCtx.pc o) s
/-- R242 `bgeu`. -/
def execBgeu (a b : BitVec 5) (o : BitVec 16) (s : State) : Outcome :=
  branch (!(s.x a).ult (s.x b)) (relTarget s.curCtx.pc o) s
/-- R243 `bbs`. -/
def execBbs (a : BitVec 5) (t : BitVec 6) (o : BitVec 15) (s : State) : Outcome :=
  branch (bit (s.x a) t.toNat) (relTarget s.curCtx.pc o) s
/-- R243 `bbc`. -/
def execBbc (a : BitVec 5) (t : BitVec 6) (o : BitVec 15) (s : State) : Outcome :=
  branch (!bit (s.x a) t.toNat) (relTarget s.curCtx.pc o) s
/-- R244 `j`. -/
def execJ (o : BitVec 26) (s : State) : Outcome := jump 0 (relTarget s.curCtx.pc o) s
/-- R244 `jal`. -/
def execJal (o : BitVec 26) (s : State) : Outcome := jump lk (relTarget s.curCtx.pc o) s
/-- R245 `jr`. -/
def execJr (a : BitVec 5) (s : State) : Outcome := jump 0 (s.x a) s
/-- R245 `jalr`. -/
def execJalr (d a : BitVec 5) (s : State) : Outcome := jump d (s.x a) s

end Sys2Proof.Machine
end

