-- ==== Sys2Proof/Machine/Objects.lean ====
section
/-! DEFINITION. Handle and object instructions (R247, R256 to R261) and the charges of R55 and R56. -/

namespace Sys2Proof.Machine

/-! ## Handle words -/

/-- EVAL of a cause with a detail in [35:32] (R344). -/
def detEval (index detail : Nat) : Word := word (index * 2 ^ 48 + detail * 2 ^ 32)

/-- The fields of a handle word (R247). -/
structure HWord where
  index : Nat
  gen   : Nat
  gv    : Bool
  rsv   : Bool
  deriving DecidableEq, Repr

/-- Read a handle word. -/
def hword (w : Word) : HWord := ⟨bits w 15 0, bits w 31 16, bit w 32, bits w 63 33 != 0⟩

/-- OTLEN of a context. -/
def State.otlen (s : State) (ctxid : Nat) : Nat := match s.proc? ctxid with
  | some p => p.otlen
  | none => 0

/-- The entry a consumed handle word names, when the word is in form (R247). -/
def State.wordEnt (s : State) (ctxid : Nat) (w : HWord) : Except Bad Ent :=
  let bad := Bad.of Cause.hInvalid (detEval w.index 0)
  if w.rsv || w.index == 0 then .error bad
  else match s.ent ctxid w.index with
    | some e => .ok e
    | none => .error bad

/-- `hset` on a context: the handle register's new value (R256). -/
def State.hsetOf (s : State) (ctxid : Nat) (w : HWord) : Except Bad Handle :=
  match s.wordEnt ctxid w with
  | .error b => .error b
  | .ok e =>
    if e.free then .error (Bad.of Cause.hInvalid (detEval w.index 0))
    else if w.gv && w.gen != e.gen then .error (Bad.of Cause.hStale (detEval w.index 0))
    else .ok ⟨BitVec.ofNat 16 w.index, BitVec.ofNat 16 e.gen⟩

/-- R256 `hset`. -/
def execHset (d a : BitVec 5) (s : State) : Outcome :=
  runInstr (do
    tablesCurrent
    let s1 ← get
    let h ← ofCheck (s1.hsetOf (s1.ctxidOf s1.cur.1) (hword (s.x a)))
    modify (fun s => s.setH d.toNat h)
    retire) s

/-- R257 `hget`. -/
def execHget (d a : BitVec 5) (s : State) : Outcome :=
  let h := s.hreg a.toNat
  alu d (if a = 0 then 0 else handleWord h.index.toNat h.gen.toNat) s

/-- R257: read something of the entry a handle register names; `local_` is the value for h0. -/
def ofEntry (d a : BitVec 5) (local_ : Word) (f : State → Ent → Word) (s : State) : Outcome :=
  runInstr (do
    if a = 0 then writeX d local_
    else do
      tablesCurrent
      let s1 ← get
      let e ← ofCheck (s1.checkLive (s1.ctxidOf s1.cur.1) (s1.hreg a.toNat) 0)
      writeX d (f s1 e)
    retire) s

/-- R257 `hinfo`. -/
def execHinfo (d a : BitVec 5) (s : State) : Outcome :=
  ofEntry d a 0x30000 (fun _ e =>
    word (e.place * 2 ^ 56 + e.acct * 2 ^ 50 + e.fmt * 2 ^ 46 + e.cbslot * 2 ^ 34 + e.rights * 2 ^ 16 + e.gen)) s

/-- R257 `hlen`. -/
def execHlen (d a : BitVec 5) (s : State) : Outcome :=
  ofEntry d a 0x40000 (fun s e => if e.fmt = 15 then word (s.curCore.gangSize * 0x40000) else word e.len) s

/-! ## Sub-objects (R258) -/

/-- The lowest free entry from 1 upward. -/
def State.freeEntry (s : State) (ctxid : Nat) : Option Nat :=
  searchUp (fun i => match s.ent ctxid i with
    | some e => e.free
    | none => false) (s.otlen ctxid) 1

/-- The entry that `hsub` makes from a source at index `i`, with GEN as given. -/
def subEnt (src : Ent) (i key gen ctxid off len rmask fmt : Nat) : Ent :=
  { src with
    index := i, key := key, base := src.base + off, len := len, rights := rmask &&& src.rights,
    fmt := if fmt = 15 then src.fmt else fmt, gen := gen, owner := ctxid, poolh := 0, npool := 0 }

/-- R258: the checks of `hsub` and the entry it writes; nothing is written when the target holds it already. -/
def State.subOf (s : State) (ctxid : Nat) (h : Handle) (isLocal : Bool) (a b : Word) : Except Bad (Ent × Bool) :=
  let index := h.index.toNat
  let rmask := bits a 63 57
  let fmt := bits a 56 53
  let off := bits a 47 0
  let target := bits b 63 48
  let len := bits b 47 0
  let inv := fun (d : Nat) => Bad.of Cause.hInvalid (detEval index d)
  if isLocal then .error (Bad.of Cause.hInvalid (detEval 0 3))
  else match s.checkLive ctxid h 0 with
    | .error b => .error b
    | .ok src =>
      if src.fmt = 15 then .error (inv 3)
      else if bits a 52 48 != 0 || (8 ≤ fmt && fmt ≤ 14) then .error (inv 1)
      else if rmask.testBit rW && rmask.testBit rX then .error (Bad.of Cause.hWx (hEval index 0))
      else if len = 0 || src.len < off + len then .error (Bad.of Cause.hBound (hEval index off))
      else if target != 0 && s.otlen ctxid ≤ target then .error (inv 2)
      else
        let full := Bad.of Cause.objFull (word (s.otlen ctxid))
        match (if target = 0 then s.freeEntry ctxid else some target) with
        | none => .error full
        | some i => match s.ent ctxid i with
          | none => .error full
          | some old =>
            let same := subEnt src i old.key old.gen ctxid off len rmask fmt
            let new := subEnt src i old.key ((old.gen + 1) % 65536) ctxid off len rmask fmt
            if old.free then .ok (new, true)
            else if old.words == same.words then .ok (old, false)
            else .error full

/-- A sub-object has its source's page map, which the device records from then on, so that both are translated alike
(R258). -/
def State.recordMap (s : State) (ctxid : Nat) (e : Ent) : State :=
  { s with maps := s.maps.put (s.mapKey ctxid e) (s.mapOf ctxid e) }

/-- R258 `hsub`. -/
def execHsub (d a b : BitVec 5) (h : BitVec 4) (s : State) : Outcome :=
  runInstr (do
    tablesCurrent
    let s1 ← get
    let r ← ofCheck (s1.subOf (s1.ctxidOf s1.cur.1) (s1.hreg h.toNat) (h == 0) (s.x a) (s.x b))
    let src ← ofCheck (s1.checkLive (s1.ctxidOf s1.cur.1) (s1.hreg h.toNat) 0)
    modify (fun s => if r.2 then (s.recordMap (s1.ctxidOf s1.cur.1) src).putEnt r.1 else s)
    writeX d (handleWord r.1.index r.1.gen)
    retire) s

/-! ## Accounts (R55, R56) -/

/-- The address of an account's word for a tier: word 0 for tier 0, word 1 for tier 1. -/
def State.acctKey (s : State) (p : Proc) (acct tier : Nat) : Nat :=
  s.tableKey p.part (p.acctbase * 1024 + 16 * acct + 8 * tier)

/-- EVAL of QUOTA and TIER_UNAVAIL (R259). -/
def chargeEval (pages tier acct : Nat) : Word := word (pages * 2 ^ 32 + tier * 256 + acct)

/-- Add `pages` (or take them away) to the USED count of an account and of the context. -/
def State.addUsed (s : State) (ctxid acct tier pages : Nat) (give : Bool) : State :=
  match s.proc? ctxid with
  | none => s
  | some p =>
    let k := s.acctKey p acct tier
    let upd := fun (u : Nat) => if give then u - pages else u + pages
    let s := { s with mem := s.mem.putLE k 4 (upd (s.mem.getLE k 4)) }
    s.modProc ctxid (fun p => if tier = 0 then { p with usedH := upd p.usedH } else { p with usedC := upd p.usedC })

/-- R56 `charge`. -/
def State.charge (s : State) (ctxid acct tier pages : Nat) : Except Bad State :=
  match s.proc? ctxid with
  | none => .error (Bad.of Cause.quota (chargeEval pages tier acct))
  | some p =>
    let k := s.acctKey p acct tier
    if s.tableLost k 8 then .error (Bad.of Cause.uncorrData (hEval 0 (2 ^ 47 + p.acctbase * 1024 + 16 * acct + 8 * tier)))
    else if s.mem.getLE (k + 4) 4 < s.mem.getLE k 4 + pages then .error (Bad.of Cause.quota (chargeEval pages tier acct))
    else if (if tier = 0 then p.resH < p.usedH + pages else p.resC < p.usedC + pages) then
      .error (Bad.of Cause.tierUnavail (chargeEval pages tier acct))
    else .ok (s.addUsed ctxid acct tier pages false)

/-! ## Allocation (R259) -/

/-- Take `n` pages of a tier of a partition: the first page number (log entry 13). -/
def State.takePages (s : State) (part tier die n : Nat) : Nat × State :=
  let p := s.part part
  if tier = 0 then (p.nextH.get die 0, s.modPart part (fun p => { p with nextH := p.nextH.put die (p.nextH.get die 0 + n) }))
  else (p.nextC, s.modPart part (fun p => { p with nextC := p.nextC + n }))

/-- The end of every range of object addresses that a context's table names (log entry 13). -/
def State.objectTop (s : State) (ctxid : Nat) : Nat :=
  (List.range (s.otlen ctxid)).foldl (fun m i => match s.ent ctxid i with
    | some e => if e.free then m else max m (e.base + e.len)
    | none => m) 0

/-- Give an object its pages, page map and range of object addresses (R259, R347): its entry, and the state. -/
def State.makeObject (s : State) (ctxid index key gen len rights die tier fmt acct : Nat) : Ent × State :=
  match s.proc? ctxid with
  | none => (entOfWords index key [], s)
  | some p =>
    let n := ceilDiv len 65536
    let tdie := (s.part p.part).tableDie
    let (first, s) := s.takePages p.part tier die n
    let (mapPage, s) := s.takePages p.part 0 tdie (ceilDiv (8 * n) 65536)
    let pmap := mapPage * 65536
    let mkey := s.tableKey p.part pmap
    let ptes := (List.range n).flatMap (fun i => leBytes 8 (2 ^ 63 + tier * 2 ^ 58 + (first + i)))
    let base := ceilDiv (max p.nextObj (s.objectTop ctxid)) 65536 * 65536
    let dataKey := memKey p.part tier (if tier = 0 then die else 0) (first * 65536)
    let s := { s with mem := ((s.mem.clearRange dataKey (n * 65536)).clearRange mkey (8 * n)).putRange mkey ptes }
    let s := { s with maps := s.maps.put mkey ⟨ctxid, index, [⟨acct, tier, n⟩], false, base, n, die, none⟩ }
    let s := s.modProc ctxid (fun p => { p with nextObj := base + n * 65536 })
    (⟨index, key, base, len, die, tier, 0, false, false, acct, fmt, 0, gen, ctxid, rights, 0, pmap, 0, 0, false⟩, s)

/-- R259: the checks of `oalloc`, the charge and the new entry. -/
def State.allocOf (s : State) (ctxid : Nat) (a b : Word) : Except Bad (Ent × State) :=
  let len := bits a 47 0
  let rights := bits b 20 14
  let die := bits b 13 12
  let tier := bits b 11 10
  let fmt := bits b 9 6
  let acct := bits b 5 0
  let n := ceilDiv len 65536
  let home := match s.proc? ctxid with
    | some p => !((s.part p.part).slices.get die []).isEmpty
    | none => false
  if bits a 63 48 != 0 || len = 0 then .error (Bad.of Cause.hInvalid (detEval 0 1))
  else if bits b 63 21 != 0 || 7 < fmt then .error (Bad.of Cause.hInvalid (detEval 0 2))
  else if rights.testBit rX then .error (Bad.of Cause.hWx (hEval 0 0))
  else if 2 ≤ tier || (tier = 0 && !home) then .error (Bad.of Cause.tierUnavail (chargeEval n tier acct))
  else match s.freeEntry ctxid with
    | none => .error (Bad.of Cause.objFull (word (s.otlen ctxid)))
    | some i => match s.charge ctxid acct tier n, s.ent ctxid i with
      | .error e, _ => .error e
      | .ok s, some old =>
        let (e, s) := s.makeObject ctxid i old.key ((old.gen + 1) % 65536) len rights die tier fmt acct
        .ok (e, s.putEnt e)
      | .ok _, none => .error (Bad.of Cause.objFull (word (s.otlen ctxid)))

/-- R259 `oalloc`. -/
def execOalloc (d a b : BitVec 5) (s : State) : Outcome :=
  runInstr (do
    endBlock
    tablesCurrent
    let s1 ← get
    let r ← ofCheck (s1.allocOf (s1.ctxidOf s1.cur.1) (s.x a) (s.x b))
    set r.2
    writeX d (handleWord r.1.index r.1.gen)
    commitInstr false) s

/-! ## Release (R260, R261) -/

/-- Remove the lines of a range of object addresses from every VC of a context without write-back, and from the L1s of
its cores (R172, R260). -/
def State.dropLines (s : State) (ctxid base len : Nat) : State :=
  let out := fun (l : CLine) => !(base / 128 ≤ l.la && l.la * 128 < base + len)
  let s := s.modProc ctxid (fun p => { p with vcs := p.vcs.map (fun v => (v.1, { v.2 with lines := v.2.lines.filter out })) })
  { s with cores := s.cores.map (fun k =>
      if s.ctxidOf k.1 = ctxid then (k.1, { k.2 with l1 := k.2.l1.filter out }) else k) }

/-- R261: requests that the queues of the context's cores still hold for a range are performed and lost with the object. -/
def State.dropQueued (s : State) (ctxid base len : Nat) : State :=
  { s with cores := s.cores.map (fun k =>
      if s.ctxidOf k.1 = ctxid then
        (k.1, { k.2 with wq := k.2.wq.filter (fun w => !(base ≤ w.oaddr && w.oaddr < base + len)) })
      else k) }

/-- The memory addresses of the pages a map names. -/
def State.mapPages (s : State) (mkey : Nat) (r : MapRec) : List Nat :=
  (List.range r.npages).filterMap (fun i =>
    match homeOf (keyParts mkey).1 r.die (word (s.mem.getLE (mkey + 8 * i) 8)) 0 with
    | .mem k => some k
    | _ => none)

/-- Mark or clear CODE in the page entries that an object covers, and drop their cached copies (R93). -/
def State.markCode (s : State) (ctxid : Nat) (e : Ent) (on : Bool) : State :=
  (pageStarts (e.base - s.mapBase ctxid e) e.len).foldl (fun s d =>
    let k := s.pteKey ctxid e d
    let b := s.mem.get (k + 7)
    let s := { s with mem := s.mem.put (k + 7) (if on then b ||| 0x40 else b &&& 0xBF) }
    s.mapClusters (fun _ => true) (fun c => { c with tcache := c.tcache.del k })) s

/-- The tier addresses of the bytes of an entry, page by page: the first and the number. -/
def State.byteSpans (s : State) (ctxid : Nat) (e : Ent) : List (Nat × Nat) :=
  (pageStarts (e.base - s.mapBase ctxid e) e.len).filterMap (fun d => match s.translate ctxid e d .read 0 with
    | .ok (.mem k) => some (k, min (e.len - d) (65536 - k % 65536))
    | _ => none)

/-- Whether two entries of a context cover a byte of memory that both can name: by one map, or by two maps that name one page. -/
def State.sameBytes (s : State) (ctxid : Nat) (o e : Ent) : Bool :=
  o.fmt != 15 && ((o.pmap == e.pmap && o.base < e.base + e.len && e.base < o.base + o.len) ||
    (s.byteSpans ctxid o).any (fun p => (s.byteSpans ctxid e).any (fun q => p.1 < q.1 + q.2 && q.1 < p.1 + p.2)))

/-- Whether another entry of the context holds X on a byte of an entry. -/
def State.codeElsewhere (s : State) (ctxid : Nat) (e : Ent) : Bool :=
  (List.range (s.otlen ctxid)).any (fun i => i != e.index && (match s.ent ctxid i with
    | some o => !o.free && o.rights.testBit rX && s.sameBytes ctxid o e
    | none => false))

/-- A sealed object that is freed is zeroed, and the marks on its pages go (R93). A sub-object of code that another entry still holds
is no sealed object of its own (log entry 119). -/
def State.unseal (s : State) (ctxid : Nat) (e : Ent) : State :=
  if !e.rights.testBit rX || s.codeElsewhere ctxid e then s
  else
    let spans := s.byteSpans ctxid e
    let s := { s with mem := spans.foldl (fun (m : Mem) (p : Nat × Nat) => m.clearRange p.1 p.2) s.mem }
    s.markCode ctxid e false

/-- Free one entry of a table: LENGTH 0 and the next generation. -/
def State.freeEnt (s : State) (e : Ent) : State := s.putEnt { e with len := 0, gen := (e.gen + 1) % 65536 }

/-- The CODE marks of the pages of a map go, with the copies that the clusters hold (R93). -/
def State.clearMarks (s : State) (mkey npages : Nat) : State :=
  let s := { s with mem := (List.range npages).foldl (fun m i => m.put (mkey + 8 * i + 7) (m.get (mkey + 8 * i + 7) &&& 0xBF)) s.mem }
  s.mapClusters (fun _ => true) (fun c => { c with
    tcache := c.tcache.filter (fun (y : Nat × Word) => !(mkey ≤ y.1 && y.1 < mkey + 8 * npages)) })

/-- R260: free the object of a page map whole. -/
def State.freeObject (s : State) (ctxid mkey : Nat) (r : MapRec) (pmap : Nat) : State :=
  let bytes := r.npages * 65536
  let pages := s.mapPages mkey r
  let s := (s.dropQueued ctxid r.base bytes).dropLines ctxid r.base bytes
  let s := { s with sync := s.sync.filter (fun y => !(y.1 % 4 == 0 && pages.any (fun k => k / 65536 == y.1 / 4 * 128 / 65536))) }
  let s := r.charges.foldl (fun s c => s.addUsed ctxid c.acct c.tier c.pages true) s
  let s := if r.sealed then ({ s with mem := pages.foldl (fun m k => m.clearRange k 65536) s.mem }).clearMarks mkey r.npages else s
  let s := (List.range (s.otlen ctxid)).foldl (fun s i => match s.ent ctxid i with
    | some e => if !e.free && e.pmap == pmap && i != 0 then s.freeEnt e else s
    | none => s) s
  ({ s with maps := s.maps.del mkey }).modProc ctxid (fun p => { p with left := p.left ++ pages })

/-- R260 `ofree` on a handle word. During a transit of the object it waits for the end of it (R57). -/
def freeWord (w : HWord) : M Unit := do
  tablesCurrent
  let s ← get
  let ctxid := s.ctxidOf s.cur.1
  let e ← ofCheck (s.wordEnt ctxid w)
  if e.free then
    if w.gv && e.gen == (w.gen + 1) % 65536 then pure () else trap Cause.hInvalid (detEval w.index 0)
  else do
    trapIf (w.gv && w.gen != e.gen) Cause.hStale (detEval w.index 0)
    trapIf (e.owner != ctxid) Cause.hInvalid (detEval w.index 4)
    let mkey := match s.proc? ctxid with
      | some p => s.tableKey p.part e.pmap
      | none => 0
    match s.maps.look mkey with
    | some r =>
      if r.alloc = w.index then
        match r.transit with
        | some _ => waitFor (.transit mkey)
        | none => modify (fun s => s.freeObject ctxid mkey r e.pmap)
      else modify (fun s => (s.unseal ctxid e).freeEnt e)
    | none => modify (fun s => (s.unseal ctxid e).freeEnt e)

/-- R260 `ofree`. -/
def execOfree (a : BitVec 5) (s : State) : Outcome :=
  runInstr (do
    freeWord (hword (s.x a))
    retire) s

end Sys2Proof.Machine
end

