-- ==== Sys2Proof/Machine/Barrier.lean ====
section
/-! DEFINITION. Completion barrier objects (R111) and the rest of `bar` and `sstep` after their effect (R269, R274,
R299). -/

namespace Sys2Proof.Machine

/-- What the two words of a completion barrier hold (R111). -/
structure OBar where
  gen   : Nat
  need  : Nat
  have_ : Nat
  scope : Nat
  deriving DecidableEq, Repr

/-- Read a barrier object at its home. -/
def State.obar (s : State) (h : Home) : OBar :=
  let r := (s.homeRead h 16).1
  let w0 := leNat (r.take 8)
  ⟨w0 / 2 ^ 32, w0 / 65536 % 65536, w0 % 65536, leNat (r.drop 8) % 256⟩

/-- Write word 0 of a barrier object at its home. -/
def State.putObar (s : State) (h : Home) (b : OBar) : State :=
  s.homePoke h (leBytes 8 (b.gen % 2 ^ 32 * 2 ^ 32 + b.need * 65536 + b.have_)) 0xFF

/-- The home of byte 0 of an object of a context, by its index; none when it is not live or its page is not mapped. -/
def State.objHome (s : State) (ctxid index : Nat) : Option Home :=
  match s.liveEnt ctxid index with
  | none => none
  | some e => match s.translate ctxid e 0 .read 0 with
    | .ok h => some h
    | .error _ => none

/-- GEN of a barrier object of a context; 0 where there is none. -/
def State.objGen (s : State) (ctxid index : Nat) : Nat := match s.objHome ctxid index with
  | some h => (s.obar h).gen
  | none => 0

/-- R111 `arrive`: whether the arrival counts, and the state. -/
def State.objArrive (s : State) (h : Home) (g : Nat) : Bool × State :=
  let b := s.obar h
  if g != b.gen then (false, s)
  else if max b.need 1 ≤ b.have_ + 1 then (true, s.putObar h { b with have_ := 0, gen := (b.gen + 1) % 2 ^ 32 })
  else (true, s.putObar h { b with have_ := b.have_ + 1 })

/-- R110: the dispatcher's release of a gang barrier: HAVE is cleared and GEN advances by one. -/
def State.objRelease (s : State) (h : Home) : State :=
  let b := s.obar h
  s.putObar h { b with have_ := 0, gen := (b.gen + 1) % 2 ^ 32 }

/-- EVAL of a cause about a barrier object (R344). -/
def barEval (index gen : Nat) : Word := word (index * 2 ^ 48 + gen * 65536)

/-- A barrier object through a handle register, with the S right (R274). -/
def barAccess (h : Handle) (isLocal : Bool) : M Acc := checked (do
  trapIf isLocal Cause.hInvalid (detEval 0 3)
  let s ← get
  let e ← ofCheck (s.checkLive (s.ctxidOf s.cur.1) h 0)
  trapIf (e.fmt == 15) Cause.hInvalid (detEval e.index 3)
  checkHandle h 0 ⟨[rS], 16, false, 0, false, .write⟩)

/-- The page of another device where the object lies, if it does. -/
def Acc.peer? (a : Acc) : Option (Nat × Nat × Nat × Nat × Nat) := match a.homeAt 0 with
  | .peer d c n p o => some (d, c, n, p, o)
  | _ => none

/-- The wait of a context's `bar` or `sstep`, at the level at which it runs (R269, R346). -/
def Ctx.bar? (x : Ctx) : Option BarWait := if x.sup then x.supBar else x.barWait

/-- Set the wait of a context's `bar` or `sstep`, at the level at which it runs. -/
def Ctx.setBar (x : Ctx) (w : Option BarWait) : Ctx := if x.sup then { x with supBar := w } else { x with barWait := w }

/-- What a `bar` or `sstep` that has retired waits for. -/
def BarWait.wait (w : BarWait) : Wait := if w.event then .barEvent w.which w.gen else .barObject w.which w.gen

/-- What waits at a barrier is recorded with the context (R269). -/
def awaitBar (w : BarWait) : M Unit := modify (fun s => s.modCur (fun x => { x.setBar (some w) with wait := some w.wait }))

/-! ## A barrier object of another device -/

/-- AOP of an ATOM that is about a barrier object: R262 gives the code to no atomic (log entry 14). -/
def barrierAop : Nat := 31

/-- An ATOM to the barrier object at a page of another device: one arrival with generation `g`, or, for none, a reading of GEN
(log entry 14). -/
def State.barMsg (s : State) (dev tag page o rctx rhnd : Nat) (g : Option Nat) : Msg :=
  s.peerMsg dev tag 0x04 4 page o 0 0 barrierAop rctx rhnd
    [word (match g with
      | some g => 2 ^ 32 + g
      | none => 0), 0]

/-- GEN as an answer to such a request brings it: what it was before the arrival. -/
def Reply.gen (r : Reply) : Nat := bits (r.words.getD 0 0) 31 0

/-- Arrive at a barrier object of another device, then wait (R52, R274). The release before the arrival is at job scope, which
holds every scope that an object shared between devices can name (log entry 14). -/
def arriveFar (a : Acc) (dev rctx rhnd page o g d : Nat) : M Unit := do
  if (← pendingTag).isNone then releaseAt 3 else pure ()
  keepAccess a
  let r ← request (fun tag s => s.sendRemote dev s.cur.1 s.cur.2 false true a.ent.index 0
    (s.barMsg dev tag page o rctx rhnd (some g)))
  trapIf (r.gen != g) Cause.barStale (barEval a.ent.index r.gen)
  commitInstr true
  awaitBar ⟨false, a.ent.index, g, d, false⟩

/-- The J pages of a context, of memory and of the host, each by the code of its home (R104). -/
def State.jPages (s : State) (ctxid : Nat) : List Nat :=
  match s.proc? ctxid with
  | none => []
  | some p =>
    ((List.range p.otlen).flatMap (fun i => match s.liveEnt ctxid i with
      | some e =>
        if e.rights.testBit rJ then
          (List.range (ceilDiv e.len 65536)).filterMap (fun n => match s.translate ctxid e (n * 65536) .read 0 with
            | .ok (.mem k) => some (Home.mem (k / 65536 * 65536)).code
            | .ok (.host a) => some (Home.host (a / 65536 * 65536)).code
            | _ => none)
        else []
      | none => [])).eraseDups

/-- The content of a page, by the code of its home. -/
def State.pageCopy (s : State) (code : Nat) : Mem := match Home.ofCode code with
  | .mem k => Mem.empty.copyRange 0 s.mem k 65536
  | .host a => Mem.empty.copyRange 0 s.host a 65536
  | _ => Mem.empty

/-- Every VC of a context is cleaned, deepest first, so that home holds the newest bytes. -/
def State.cleanAll (s : State) (ctxid : Nat) : State :=
  match s.proc? ctxid with
  | none => s
  | some p => s.cleanBelow ctxid (vcsBelow p.vcs 2 (p.vcs.map (fun v => v.1)))

/-- The valid loads of the context of core `c` in the slots of its cluster (R161). -/
def State.heldSlots (s : State) (c : Nat) : NMap Slot :=
  (s.cluster (c / 8)).slots.filter (fun d => d.2.valid && d.2.ctxid == s.ctxidOf c)

/-- A context as the record of R104 holds it: the one that executed the `sstep` stands after it. -/
def Ctx.afterStep (x : Ctx) : Ctx := match x.bar? with
  | some w => if w.sstep then x.setBar none else x
  | none => x

/-- The record of a member at the release of the gang's barrier (R104, R193); who waits for a mutex locks it again. -/
def State.stepRecord (s : State) (c : Nat) (pages : List (Nat × Mem)) : StepRecord :=
  let k := s.core c
  let cl := s.cluster (c / 8)
  { ctxs := k.ctxs.toList.map Ctx.afterStep, lqst := k.lqst, lweight := k.lweight, lmem := Mem.empty.copyRange 0 s.lmem (lkey c 0) 0x40000,
    objects := pages, rolls := 0, line31 := k.line31, lines := planned k.plan 0 cl.lines, bars := planned k.plan 1 cl.bars,
    mutexes := planned k.plan 2 cl.mutexes, slots := s.heldSlots c, jobSeq0 := k.jobSeq0, jobSeq1 := k.jobSeq1, barriers := [] }

/-- A member arrives at a barrier object: the records of its gang hold what the object was before the first arrival of the
superstep (R104; log entry 115). -/
def State.noteBarrier (s : State) (home : Home) : State :=
  let b := s.obar home
  (s.gang s.cur.1).foldl (fun s m => s.modCore m (fun k => { k with stepRec := k.stepRec.map (fun r =>
    if r.barriers.any (fun p => p.1 == home.code) then r else { r with barriers := r.barriers ++ [(home.code, b.gen, b.have_)] }) })) s

/-- R193: at the release of a gang's `sstep` barrier its copy-on-write is armed: every member's local memory and the J
pages of the context are recorded, after its frames are written back. -/
def State.armStep (s : State) (i : Inst) : State :=
  match i.cores with
  | [] => s
  | c :: _ =>
    if bit ((s.core c).plan.getD 0 0) 0 then
      let ctxid := s.ctxidOf c
      let s := i.cores.foldl (fun s m => (s.drain m).writeBackAll m) s
      let s := s.cleanAll ctxid
      let pages := (s.jPages ctxid).map (fun k => (k, s.pageCopy k))
      i.cores.foldl (fun s m => s.modCore m (fun k => { k with
        rollable := true, stepNew := false, stepRec := if k.stepNew then some (s.stepRecord m pages) else none })) s
    else s

/-- The instances whose plan names a barrier as GBAR and whose members wait for a generation of it. -/
def State.stepGangs (s : State) (ctxid index g : Nat) : List Inst :=
  (s.insts.filter (fun p => p.2.st != .saved && p.2.cores.any (fun c =>
    s.ctxidOf c == ctxid && bits ((s.core c).plan.getD 0 0) 47 32 == index &&
      (s.core c).ctxs.any (fun x => match x.bar? with
        | some w => w.sstep && w.gen == g
        | none => false)))).map (fun p => p.2)

/-- The arrival of the context that issues at an object, then the wait (R274 steps 2 and 3). The release of a gang barrier
arms the copy-on-write of R193. -/
def arriveObject (e : Ent) (home : Home) (g d : Nat) (sstep rollable : Bool) : M Unit := do
  let s ← get
  let s := if rollable then s.noteBarrier home else s
  let (ok, t) := s.objArrive home g
  trapIf (!ok) Cause.barStale (barEval e.index (s.obar home).gen)
  set t
  commitInstr rollable
  awaitBar ⟨false, e.index, g, d, sstep⟩
  modify (fun s =>
    if (s.obar home).gen != g then (s.stepGangs (s.ctxidOf s.cur.1) e.index g).foldl (fun s i => s.armStep i) s else s)

/-- A barrier object that another device holds, by its index: its page there. -/
def State.objFar (s : State) (ctxid index : Nat) : Option (Nat × Nat × Nat × Nat × Nat) := match s.objHome ctxid index with
  | some (.peer d c n p o) => some (d, c, n, p, o)
  | _ => none

/-- The scope of a barrier object, by its index; of one that another device holds, the job (log entry 14). -/
def State.objScope (s : State) (ctxid index : Nat) : Nat := match s.objHome ctxid index with
  | some (.peer ..) => 3
  | some h => (s.obar h).scope
  | none => 2

/-- Whether the generation that a `bar` or `sstep` waits for is over: where the object lies on another device, its GEN is read
there (log entry 14). -/
def barOver (w : BarWait) : M Bool := do
  let s ← get
  match (if w.event then none else s.objFar (s.ctxidOf s.cur.1) w.which) with
  | some (dev, rctx, rhnd, page, o) => do
    let r ← request (fun tag s => s.sendRemote dev s.cur.1 s.cur.2 true false w.which 0
      (s.barMsg dev tag page o rctx rhnd none))
    pure (r.gen != w.gen)
  | none => pure true

/-- R274 step 4 and R299 step 4: the generation is released; xd and the acquire, or SSTEPN and g. A generation of another
device's object that is not over is asked about again. -/
def finishBar (w : BarWait) : M Unit := do
  if ← barOver w then do
    let s ← get
    let c := s.cur.1
    if w.event then
      acquireAt 1
      writeX (BitVec.ofNat 5 w.xd) (word ((w.gen + 1) % 256))
    else
      acquireAt (s.objScope (s.ctxidOf c) w.which)
      if w.sstep then
        modify (fun s => s.modCurCore (fun k => { k with
          sstepn := (k.sstepn + 1) % 2 ^ 32, sstepG := (k.sstepG + 1) % 2 ^ 32 }))
      else writeX (BitVec.ofNat 5 w.xd) (word ((w.gen + 1) % 2 ^ 32))
    modify (fun s => s.modCur (fun x => { x.setBar none with wait := none }))
  else modify (fun s => s.modCur (fun x => { x with wait := some w.wait }))

end Sys2Proof.Machine
end

