-- ==== Sys2Proof/Machine/Sync.lean ====
section
/-! DEFINITION. Fences and cluster events: major 0x1D (R268 to R276). -/

namespace Sys2Proof.Machine

/-- R268: the bits of xa's value above `hi` must be zero. -/
def needZeroA (i : Instr) (v : Word) (hi : Nat) : M Unit := if v.toNat / 2 ^ (hi + 1) = 0 then pure () else rsv i 1

/-- R268: the bits of xb's value above `hi` must be zero. -/
def needZeroB (i : Instr) (v : Word) (hi : Nat) : M Unit := if v.toNat / 2 ^ (hi + 1) = 0 then pure () else rsv i 2

/-- Whether a byte is a scope of R223. -/
def isScope (v : Nat) : Bool := v < 4 || (0x41 ≤ v && v ≤ 0x7F)

/-- R270 `fence`. -/
def execFence (a : BitVec 5) (s : State) : Outcome :=
  runInstr (do
    let v := s.x a
    needZeroA (.fence a) v 7
    let sc := bits v 7 0
    trapIf (!isScope sc) Cause.vcRange (vcEval 6 0)
    trapIf (0x41 ≤ sc && (s.vc (s.ctxidOf s.cur.1) (sc - 0x40)).isNone) Cause.vcUndef (vcEval 0 (sc - 0x40))
    releaseAt sc
    acquireAt sc
    retire) s

/-- The oldest deferred cause that belongs to a point is delivered there (R349): it leaves the list. -/
def deliver (p : DPoint) : M Unit := do
  let s ← get
  match s.curCtx.deferred.find? (fun d => d.point == p) with
  | none => pure ()
  | some d =>
    modify (fun s => s.modCur (fun x => { x with deferred := x.deferred.erase d }))
    throw (.trap d.cause d.eval 1 d.preason)

/-- R271: the lines of stores to tiers 2 and 3 leave the VCs of a context. -/
def State.cleanRemote (s : State) (ctxid : Nat) : State :=
  match s.proc? ctxid with
  | none => s
  | some p =>
    let vs := vcsBelow p.vcs 2 (p.vcs.map (fun v => v.1))
    vs.foldl (fun s v => s.cleanVc ctxid v (fun l => l.home % 4 == 1 || l.home % 4 == 2)) s

/-- What `rfence` waits for (R271). -/
def remoteSettled : M Unit := do
  queueOpen
  let s ← get
  let ctxid := s.ctxidOf s.cur.1
  match s.reshaping ctxid ((s.proc? ctxid).map (fun p => p.vcs.map (fun v => v.1)) |>.getD []) with
  | some v => waitFor (.vcOpen v)
  | none =>
    modify (fun s => (s.drain s.cur.1).cleanRemote ctxid)
    let s ← get
    waitIf (s.curCore.rfcnt != 0 || s.remoteBusy) .remoteIdle

/-- R271 `rfence`. -/
def execRfence (s : State) : Outcome :=
  runInstr (do
    remoteSettled
    deliver .rfence
    retire) s

/-- R272 `wait`. -/
def execWait (d a : BitVec 5) (s : State) : Outcome :=
  runInstr (do
    needZeroA (.wait d a) (s.x a) 4
    let l := bits (s.x a) 4 0
    let e := s.line s.cur.1 l
    waitIf (!e.pend) (.line l d.toNat)
    modify (fun s => (s.setLine s.cur.1 l ELine.zero).takeValue l d.toNat e.value)
    acquireAt 1) s

/-- R273 `evsig`. -/
def execEvsig (a b : BitVec 5) (s : State) : Outcome :=
  runInstr (do
    endBlock
    needZeroA (.evsig a b) (s.x a) 4
    signalLine (bits (s.x a) 4 0) (bits (s.x b) 31 0)) s

/-- R274 `bar`, the event form. -/
def execBarEvent (d a b : BitVec 5) (s : State) : Outcome :=
  runInstr (do
    endBlock
    needZeroA (.barEvent d a b) (s.x a) 3
    needZeroB (.barEvent d a b) (s.x b) 7
    let n := bits (s.x a) 3 0
    let g := bits (s.x b) 7 0
    arriveEvent n g
    awaitBar ⟨true, n, g, d.toNat, false⟩) s

/-- R274 `bar`, the object form. -/
def execBarObject (d b : BitVec 5) (h : BitVec 4) (s : State) : Outcome :=
  runInstr (do
    endBlock
    needZeroB (.barObject d b h) (s.x b) 31
    let a ← barAccess (s.hreg h.toNat) (h == 0)
    match a.peer? with
    | some (dev, rctx, rhnd, page, o) => arriveFar a dev rctx rhnd page o (bits (s.x b) 31 0) d.toNat
    | none => do
      let s1 ← get
      releaseAt (s1.obar (a.homeAt 0)).scope
      arriveObject a.ent (a.homeAt 0) (bits (s.x b) 31 0) d.toNat false true) s

/-- The gang slots of a placement (R109). -/
def Node.slots (n : Node) : List (List Nat) :=
  if n.slotw = 0 then [n.cores] else chunksOf n.slotw n.cores.length n.cores

/-- R124: whether the instance of a mutex's owner is saved and fits the waiter's slot, which is a slot of its node. -/
def State.donates (s : State) (owner waiter : Nat) : Bool :=
  match s.insts.look owner, s.insts.look waiter with
  | some o, some w =>
    o.st == .saved && (match s.tasks.look o.task with
      | some t => match t.nodes[o.node]? with
        | some n => n.slots.contains w.cores
        | none => false
      | none => false)
  | _, _ => false

/-- R275 `lock`. A waiter of a mutex whose owner is saved donates its slot (R124). -/
def execLock (a : BitVec 5) (s : State) : Outcome :=
  runInstr (do
    endBlock
    needZeroA (.lock a) (s.x a) 3
    let m := bits (s.x a) 3 0
    let (c, i) := s.cur
    let x := s.mutex (c / 8) m
    trapIf (x.ownedBy s.curCore i) Cause.deadlockSelf (unitEval m 0)
    if x.held then do
      if x.waiters.contains (c, i) then pure ()
      else modify (fun s =>
        let s := s.setMutex (c / 8) m { x with waiters := x.waiters ++ [(c, i)] }
        match s.insts.look x.owner with
        | some o =>
          if o.st == .saved then
            let s := { s with insts := s.insts.put x.owner { o with donate := true, lender := s.ctxidOf c } }
            if s.donates x.owner s.curCore.inst then s.post .preempt { Ev.zero with at_ := s.curCore.inst, x := 2, y := x.owner } else s
          else s
        | none => s)
      waitFor (.mutex m)
    else do
      modify (fun s => s.setMutex (c / 8) m (Mutex.own s.curCore i []))
      acquireAt 1
      commitInstr true) s

/-- R275 `unlock`. -/
def execUnlock (a : BitVec 5) (s : State) : Outcome :=
  runInstr (do
    endBlock
    needZeroA (.unlock a) (s.x a) 3
    unlockMutex (bits (s.x a) 3 0)) s

/-- R276 `pause`. -/
def execPause (s : State) : Outcome :=
  .next (s.retire.modCur (fun x => { x with wait := some .pause, pauseLeft := s.cycle }))

end Sys2Proof.Machine
end

