-- ==== Sys2Proof/Machine/VcOps.lean ====
section
/-! DEFINITION. Virtual cache instructions, major 0x1E (R277 to R282), and the controller's steps of a reshaping (R170 to
R175). -/

namespace Sys2Proof.Machine

/-! ## The VC word (R277) -/

/-- V. -/
def vcV (w : Word) : Nat := bits w 5 0
/-- SLOT. -/
def vcSlot (w : Word) : Nat := bits w 7 6
/-- CLMASK. -/
def vcClmask (w : Word) : Nat := bits w 15 8
/-- K. -/
def vcK (w : Word) : Nat := bits w 21 16
/-- PARENT. -/
def vcParent (w : Word) : Nat := bits w 29 24
/-- BLOCKS. -/
def vcBlocks (w : Word) : Nat := bits w 63 32

/-- The bits of the VC word that an instruction does not use must be zero: `used` has a one at each bit that it uses. -/
def vcUnused (i : Instr) (w : Word) (used : Nat) : M Unit :=
  if w.toNat &&& (2 ^ 64 - 1 - used) = 0 then pure () else rsv i 1

/-- Raise a VC cause (R344). -/
def vcTrap {α : Type} (cause detail v : Nat) : M α := trap cause (vcEval detail v)

/-! ## Placement (R170) -/

/-- The number of placed banks. -/
def placedN (blocks banks : Nat) : Nat := popCount blocks 32 * popCount banks 48

/-- R170: n is a power of two, 1 when k < 3, at most 2^k / 8 otherwise. -/
def placeOk (k blocks banks : Nat) : Bool :=
  let n := placedN blocks banks
  n != 0 && 2 ^ n.log2 == n && (if k < 3 then n == 1 else n ≤ 2 ^ k / 8)

/-- The parent a VC will have after the operations it has accepted (R174). -/
def Vc.parentAfter (c : Vc) : Nat :=
  match c.queued, c.op with
  | some (.parent p), _ => p
  | _, some (.parent p, _) => p
  | _, _ => c.parent

/-- The size a VC will have after the operations it has accepted (R279). -/
def Vc.sizeAfter (c : Vc) : Nat :=
  match c.queued, c.op with
  | some (.size k), _ => k
  | _, some (.size k, _) => k
  | _, _ => c.k

/-- The lines of a bank that the VCs of a context take, but for VC `v`. -/
def Proc.bankUsed (p : Proc) (v block bank : Nat) : Nat :=
  (p.vcs.filter (fun c => c.1 != v && c.2.blocks.testBit block && c.2.banks.testBit bank)).foldl
    (fun n c => n + 2 ^ max c.2.k c.2.sizeAfter / placedN c.2.blocks c.2.banks) 0

/-- R170: every placed bank is admitted, present, and has room. -/
def State.banksOk (s : State) (p : Proc) (v k blocks banks : Nat) : Bool :=
  (placedBanks blocks banks).all (fun b =>
    s.boot.blocks.testBit b.1 && (p.banks.get b.1 0).testBit b.2 &&
      p.bankUsed v b.1 b.2 + 2 ^ k / placedN blocks banks ≤ 4096)

/-- The depth of a VC: home is 0 (R170). -/
def vcDepth (vcs : NMap Vc) (v : Nat) : Nat := (vcPath vcs 64 v).length

/-- Whether a VC is `v` or lies below it. -/
def vcUnder (vcs : NMap Vc) (v u : Nat) : Bool := (vcPath vcs 64 u).contains v

/-- The tree as it will stand after every accepted operation of `v` (R174). -/
def treeAfter (vcs : NMap Vc) (v : Nat) : NMap Vc :=
  vcs.map (fun c => if c.1 = v then (c.1, { c.2 with parent := c.2.parentAfter }) else c)

/-! ## Reshaping (R173, R174, R399) -/

/-- The number of a controller's state in a VCSTEP message (log entry 15). -/
def VcPhase.code : VcPhase → Nat
  | .cut => 1
  | .evict => 2
  | .move => 3
  | .flush => 4
  | .forward => 5
  | .purge => 6
  | .reset => 7
  | .handover => 8

/-- The state after a state (R173, R174); none is OPEN. -/
def VcPhase.next (op : VcOp) : VcPhase → Option VcPhase
  | .cut => match op with
    | .size _ => some .evict
    | .parent _ => some .flush
  | .evict => some .move
  | .move => none
  | .flush => some .forward
  | .forward => some .purge
  | .purge => some .reset
  | .reset => none
  | .handover => none

/-- The endpoint of a VC's controller: the bank group of its lowest placed bank (R173). -/
def Vc.controller (c : Vc) : Nat := match placedBanks c.blocks c.banks with
  | [] => 0
  | b :: _ => bankEndpoint b.1 b.2

/-- Send a reshaping step to every placed bank in TC3 (R173, R38). -/
def State.sendStep (s : State) (ctxid v : Nat) (c : Vc) (ph : VcPhase) : State :=
  let part := match s.proc? ctxid with
    | some p => p.part
    | none => 0
  (placedBanks c.blocks c.banks).zipIdx.foldl (fun s b =>
    s.inject (mkMsg s.devId (bankEndpoint b.1.1 b.1.2) s.devId c.controller 3 0x77 b.2 part false
      [word (ph.code * 2 ^ 56 + v * 2 ^ 50 + ctxid)])) s

/-- The lines that a resize keeps: in each new set the most recent ways (R173 EVICT). Lines stand least recent first. -/
def keptLines (k : Nat) (ls : List CLine) : List CLine :=
  ls.zipIdx.filterMap (fun l =>
    let set := vcSet k l.1.la
    let later := (ls.drop (l.2 + 1)).filter (fun x => (vcSet k x.la).1 == set.1)
    if later.length < set.2 then some l.1 else none)

/-- What happens on entering a state (R173, R174). FLUSH, FORWARD and PURGE write each line to the stage the rule names; what v
holds modified at RESET is written back before it goes. -/
def State.enterPhase (s : State) (ctxid v : Nat) (op : VcOp) (ph : VcPhase) : State :=
  match s.vc ctxid v with
  | none => s
  | some c =>
    let oldPath := s.path ctxid c.parent
    let newPath := match op with
      | .parent p => s.path ctxid p
      | .size _ => []
    let lca := oldPath.find? (fun u => newPath.contains u)
    let upTo := fun (l : List Nat) => match lca with
      | some a => l.takeWhile (fun u => u != a)
      | none => l
    let fromLca := match lca with
      | some a => oldPath.dropWhile (fun u => u != a)
      | none => []
    let moved := fun (l : CLine) => c.moved.contains l.la
    let s := match ph, op with
      | .evict, .size k =>
        let keep := (keptLines k c.lines).map (fun (l : CLine) => l.la)
        s.invalVc ctxid v (fun l => !keep.contains l.la)
      | .flush, _ =>
        let dirty := (c.lines.filter (fun (l : CLine) => l.dirty != 0)).map (fun (l : CLine) => l.la)
        (s.cleanVc ctxid v (fun _ => true)).modVc ctxid v (fun c => { c with moved := dirty })
      | .forward, _ => (upTo oldPath).foldl (fun s u => s.cleanVc ctxid u moved) s
      | .purge, _ => (upTo newPath).reverse.foldl (fun s u => (s.cleanVcTo ctxid u fromLca moved).dropVc ctxid u moved) s
      | .reset, .parent p => (s.invalVc ctxid v (fun _ => true)).modVc ctxid v (fun c => { c with parent := p, moved := [] })
      | _, _ => s
    let s := s.modVc ctxid v (fun c => { c with op := some (op, ph), replies := [] })
    s.sendStep ctxid v c ph

/-- The states that write lines to the stages before v. -/
def VcPhase.writes : VcPhase → Bool
  | .evict => true
  | .flush => true
  | .forward => true
  | .purge => true
  | _ => false

/-- Requests that banks of a context have sent to other devices and that are not answered yet: write-backs that await their
acknowledgement, and fetches of accesses that a bank holds (R173, R422). -/
def State.bankOwed (s : State) (ctxid : Nat) : Bool :=
  s.remotes.any (fun r => r.dev != s.devId && isBank r.msg.sep && s.ctxidOf r.core == ctxid)

/-- Whether the operation of VC `v` goes on to its next state: every bank has answered, what the state before has sent is
acknowledged, and no stage that the next state writes to is being reshaped itself, since its bank lets write-backs wait like any
access (R173, R175). -/
def State.stepReady (s : State) (ctxid v : Nat) : Bool :=
  match s.vc ctxid v with
  | none => false
  | some c => match c.op with
    | none => false
    | some (op, ph) =>
      let stages := s.path ctxid c.parent ++ (match op with
        | .parent p => s.path ctxid p
        | .size _ => [])
      let busy := match ph.next op with
        | some n => n.writes && (s.reshaping ctxid stages).isSome
        | none => false
      ph != .handover && decide (placedN c.blocks c.banks ≤ c.replies.length) && !(s.bankOwed ctxid) && !busy

/-- Begin an operation (R175). -/
def State.startOp (s : State) (ctxid v : Nat) (op : VcOp) : State := s.enterPhase ctxid v op .cut

/-- Accept an operation: it starts at once, or is queued (R175). -/
def State.acceptOp (s : State) (ctxid v : Nat) (c : Vc) (op : VcOp) : State :=
  if c.op.isNone then s.startOp ctxid v op else s.modVc ctxid v (fun c => { c with queued := some op })

/-- The controller's answer to the last reply of a state: the next state, or OPEN. The new size is in force at OPEN (R400).
A queued operation waits for the hand-over of R399. -/
def State.stepDone (s : State) (ctxid v : Nat) : State :=
  match s.vc ctxid v with
  | none => s
  | some c => match c.op with
    | none => s
    | some (op, ph) => match ph.next op with
      | some n => s.enterPhase ctxid v op n
      | none =>
        s.modVc ctxid v (fun c => { c with
          k := (match op with
            | .size k => k
            | .parent _ => c.k),
          op := c.queued.map (fun q => (q, .handover)), replies := [] })

/-- R399: when every waiting access has been admitted, the cut of the queued operation reaches the banks. -/
def State.handOver (s : State) (ctxid v : Nat) : State :=
  match s.vc ctxid v with
  | none => s
  | some c => match c.op with
    | some (op, .handover) => (s.modVc ctxid v (fun c => { c with queued := none })).startOp ctxid v op
    | _ => s

/-- R38, R399 VCSTEP: a bank answers a step; the controller collects the answers. -/
def execVcstep (s : State) : Outcome :=
  runEvent (fun e s =>
    let w := e.msg.payload.getD 0 0
    let st := bits w 63 56
    let v := bits w 55 50
    let ctxid := bits w 15 0
    if st < 0x80 then
      s.inject { e.msg with dep := e.msg.sep, sep := e.msg.dep, payload := [word (w.toNat + 2 ^ 63)] }
    else match s.vc ctxid v with
      | none => s
      | some c => match c.op with
        | none => s
        | some (_, ph) =>
          if ph.code != st - 0x80 || c.replies.contains e.msg.tagid then s
          else
            let got := c.replies ++ [e.msg.tagid]
            let s := s.modVc ctxid v (fun c => { c with replies := got })
            if s.stepReady ctxid v then s.stepDone ctxid v else s) s

/-- The operations that go on now: (context, VC). -/
def State.stepsDue (s : State) : List (Nat × Nat) :=
  s.procs.flatMap (fun p => p.2.vcs.filterMap (fun v => if s.stepReady p.1 v.1 then some (p.1, v.1) else none))

/-! ## The instructions -/

/-- The context that issues with its record. -/
def issuer : M (Nat × Proc) := do
  let s ← get
  let ctxid := s.ctxidOf s.cur.1
  match s.proc? ctxid with
  | some p => pure (ctxid, p)
  | none => trap Cause.hInvalid 0

/-- Whether a binding of a live entry names a VC. -/
def State.bound (s : State) (ctxid v : Nat) : Bool :=
  (List.range (s.otlen ctxid)).any (fun i => match s.ent ctxid i with
    | some e => !e.free && (List.range 4).any (fun j => bits e.binds (16 * j + 5) (16 * j) == v)
    | none => false)

/-- R278: the removal of a VC. -/
def vcRemove (ctxid v : Nat) (p : Proc) : M Unit := do
  match p.vcs.look v with
  | none => pure ()
  | some c =>
    let s ← get
    let child := p.vcs.any (fun u => u.2.parent == v || u.2.parentAfter == v)
    trapIf (c.op.isSome || child || s.bound ctxid v) Cause.vcBusy (vcEval 0 v)
    match s.reshaping ctxid (s.path ctxid c.parent) with
    | some u => waitFor (.vcOpen u)
    | none =>
      modify (fun s => s.cleanVc ctxid v (fun _ => true))
      let t ← get
      waitIf t.remoteBusy .remoteIdle
      modify (fun s => (s.dropVc ctxid v (fun _ => true)).modProc ctxid (fun p => { p with vcs := p.vcs.del v }))

/-- R278 `vcdef`. -/
def execVcdef (a b : BitVec 5) (s : State) : Outcome :=
  runInstr (do
    let w := s.x a
    let i : Instr := .vcdef a b
    vcUnused i w (2 ^ 64 - 2 ^ 32 + 0x3F000000 + 0x3F0000 + 0x3F)
    needZeroB i (s.x b) 47
    let (ctxid, p) ← issuer
    let v := vcV w
    let k := vcK w
    let blocks := vcBlocks w
    let banks := bits (s.x b) 47 0
    let par := vcParent w
    trapIf (v == 0) Cause.vcRange (vcEval 4 v)
    if k = 0 then vcRemove ctxid v p
    else
      let same := match p.vcs.look v with
        | some c => c.k == k && c.blocks == blocks && c.banks == banks && c.parent == par
        | none => false
      if same then pure ()
      else do
        trapIf (p.vcs.look v).isSome Cause.vcRange (vcEval 4 v)
        trapIf (22 < k) Cause.vcRange (vcEval 1 v)
        trapIf (!placeOk k blocks banks) Cause.vcRange (vcEval 2 v)
        let t ← get
        trapIf (!t.banksOk p v k blocks banks) Cause.vcRange (vcEval 3 v)
        trapIf (par != 0 && (p.vcs.look par).isNone) Cause.vcUndef (vcEval 0 v)
        trapIf (5 < vcDepth p.vcs par) Cause.vcDepth (vcEval 0 v)
        modify (fun s => s.modProc ctxid (fun p => { p with
          vcs := p.vcs.put v ⟨k, blocks, banks, par, [], none, none, [], []⟩ }))
    retire) s

/-- R279 `vcsize`. -/
def execVcsize (a : BitVec 5) (s : State) : Outcome :=
  runInstr (do
    let w := s.x a
    vcUnused (.vcsize a) w (0x3F0000 + 0x3F)
    let (ctxid, p) ← issuer
    let v := vcV w
    let k := vcK w
    trapIf (k == 0 || 22 < k) Cause.vcRange (vcEval 1 v)
    match p.vcs.look v with
    | none => vcTrap Cause.vcUndef 0 v
    | some c => do
      let t ← get
      trapIf (!placeOk k c.blocks c.banks) Cause.vcRange (vcEval 2 v)
      trapIf (!t.banksOk p v k c.blocks c.banks) Cause.vcRange (vcEval 3 v)
      if k = c.sizeAfter then pure ()
      else do
        trapIf (c.op.isSome && c.queued.isSome) Cause.vcBusy (vcEval 0 v)
        modify (fun s => s.acceptOp ctxid v c (.size k))
    retire) s

/-- R279 `vcpar`. -/
def execVcpar (a : BitVec 5) (s : State) : Outcome :=
  runInstr (do
    let w := s.x a
    vcUnused (.vcpar a) w (0x3F000000 + 0x3F)
    let (ctxid, p) ← issuer
    let v := vcV w
    let par := vcParent w
    match p.vcs.look v with
    | none => vcTrap Cause.vcUndef 0 v
    | some c => do
      let tree := treeAfter p.vcs v
      trapIf (par != 0 && (tree.look par).isNone) Cause.vcUndef (vcEval 0 v)
      trapIf (par == v || vcUnder tree v par) Cause.vcCycle (vcEval 0 v)
      let below := (tree.filter (fun u => vcUnder tree v u.1)).foldl (fun n u => max n (vcDepth tree u.1 - vcDepth tree v)) 0
      trapIf (6 < vcDepth tree par + 1 + below) Cause.vcDepth (vcEval 0 v)
      if par = c.parentAfter then pure ()
      else do
        trapIf (c.op.isSome && c.queued.isSome) Cause.vcBusy (vcEval 0 v)
        modify (fun s => s.acceptOp ctxid v c (.parent par))
    retire) s

/-- The entry of a handle register for `vcbind` and the like: steps 1 and 2 of R166; h0 is no object (R268). -/
def boundEnt (h : BitVec 4) : M Ent := do
  trapIf (h == 0) Cause.hInvalid (detEval 0 3)
  tablesCurrent
  let s ← get
  let e ← ofCheck (s.checkLive (s.ctxidOf s.cur.1) (s.hreg h.toNat) 0)
  trapIf (e.fmt == 15) Cause.hInvalid (detEval e.index 3)
  pure e

/-- Write one binding of an entry. -/
def State.setBind (s : State) (e : Ent) (slot v : Nat) : State :=
  s.putEnt { e with binds := setBits e.binds (16 * slot + 15) (16 * slot) v }

/-- The owner check of R280. -/
def ownEnt (e : Ent) : M Unit := do
  let s ← get
  trapIf (e.owner != s.ctxidOf s.cur.1) Cause.hInvalid (detEval e.index 4)

/-- R280 `vcbind`. -/
def execVcbind (a : BitVec 5) (h : BitVec 4) (s : State) : Outcome :=
  runInstr (do
    let w := s.x a
    vcUnused (.vcbind a h) w 0xFFFF
    let e ← boundEnt h
    ownEnt e
    let (_, p) ← issuer
    let v := vcV w
    trapIf (v != 0 && (p.vcs.look v).isNone) Cause.vcUndef (vcEval 0 v)
    modify (fun s => s.setBind e (vcSlot w) (if v = 0 then 0 else vcClmask w * 256 + v))
    retire) s

/-- R280 `vcunb`. -/
def execVcunb (a : BitVec 5) (h : BitVec 4) (s : State) : Outcome :=
  runInstr (do
    let w := s.x a
    vcUnused (.vcunb a h) w 0xC0
    let e ← boundEnt h
    ownEnt e
    modify (fun s => s.setBind e (vcSlot w) 0)
    retire) s

/-- The lines that `vcwb` and `vcinv` treat: all, or those of an object (R281). -/
def vcLines (o : BitVec 1) (h : BitVec 4) : M (CLine → Bool) := do
  if o = 1 then
    let e ← boundEnt h
    pure (fun l => e.base / 128 ≤ l.la && l.la * 128 < e.base + e.len)
  else pure (fun _ => true)

/-- R281: `vcwb`, or `vcinv` when `inv`. -/
def vcTreat (inv : Bool) (i : Instr) (a : BitVec 5) (o : BitVec 1) (h : BitVec 4) (s : State) : Outcome :=
  runInstr (do
    let w := s.x a
    vcUnused i w 0x3F
    let sel ← vcLines o h
    let (ctxid, p) ← issuer
    let v := vcV w
    if v = 0 then
      if inv then modify (fun s => s.l1Clear s.cur.1 sel) else pure ()
    else do
      trapIf (p.vcs.look v).isNone Cause.vcUndef (vcEval 0 v)
      let t ← get
      match t.reshaping ctxid (t.path ctxid v) with
      | some u => waitFor (.vcOpen u)
      | none =>
        modify (fun s => if inv then s.invalVc ctxid v sel else s.cleanVc ctxid v sel)
        -- write-backs to another device are awaited; the clean finds nothing to do when the word is executed again
        let t ← get
        waitIf t.remoteBusy .remoteIdle
    retire) s

/-- R281 `vcwb`. -/
def execVcwb (a : BitVec 5) (o : BitVec 1) (h : BitVec 4) (s : State) : Outcome := vcTreat false (.vcwb a o h) a o h s

/-- R281 `vcinv`. -/
def execVcinv (a : BitVec 5) (o : BitVec 1) (h : BitVec 4) (s : State) : Outcome := vcTreat true (.vcinv a o h) a o h s

/-- The word that `vcq` reads (R282). -/
def vcqWord (vcs : NMap Vc) (v : Nat) : Word :=
  if v = 0 then word (2 ^ 63)
  else match vcs.look v with
    | none => 0
    | some c =>
      word (2 ^ 63 + b2n c.op.isSome * 2 ^ 62 + b2n c.queued.isSome * 2 ^ 61 + c.parent * 2 ^ 48 + vcDepth vcs v * 2 ^ 40
        + c.k * 2 ^ 32 + (c.lines.filter (fun l => l.dirty != 0)).length)

/-- R282 `vcq`. -/
def execVcq (d a : BitVec 5) (s : State) : Outcome :=
  runInstr (do
    let w := s.x a
    vcUnused (.vcq d a) w 0x3F
    let (_, p) ← issuer
    writeX d (vcqWord p.vcs (vcV w))
    retire) s

end Sys2Proof.Machine
end

