-- ==== Sys2Proof/Machine/Supervisor.lean ====
section
/-! DEFINITION. What the device itself reads and writes in objects of a context, and the notice ring of the save object
(R350, R351). -/

namespace Sys2Proof.Machine

/-- The home of byte `off` of an object, as the device finds it by the map in memory. -/
def State.objAt (s : State) (ctxid index off : Nat) : Option Home :=
  match s.liveEnt ctxid index with
  | none => none
  | some e => match s.translate ctxid e off .read 0 with
    | .ok h => some h
    | .error _ => none

/-- Read `n` bytes of an object, line by line; a byte that has no home reads zero, one of another device is free (log entry 45). -/
def State.devRead (s : State) (ctxid index off n : Nat) : List Byte :=
  (List.range (ceilDiv (off % 128 + n) 128)).flatMap (fun i =>
    let a := if i = 0 then off else off / 128 * 128 + 128 * i
    let b := min (off + n) (off / 128 * 128 + 128 * (i + 1))
    match s.objAt ctxid index a with
    | some h => (s.homeRead h (b - a)).1
    | none => List.replicate (b - a) 0)

/-- Write bytes of an object, line by line. -/
def State.devWrite (s : State) (ctxid index off : Nat) (bs : List Byte) : State :=
  (List.range (ceilDiv (off % 128 + bs.length) 128)).foldl (fun s i =>
    let a := if i = 0 then off else off / 128 * 128 + 128 * i
    let b := min (off + bs.length) (off / 128 * 128 + 128 * (i + 1))
    match s.objAt ctxid index a with
    | some h => s.homePoke h ((bs.drop (a - off)).take (b - a)) (2 ^ (b - a) - 1)
    | none => s) s

/-- An 8-byte word of an object. -/
def State.devWord (s : State) (ctxid index off : Nat) : Word := word (leNat (s.devRead ctxid index off 8))

/-- Write an 8-byte word of an object. -/
def State.devPut (s : State) (ctxid index off : Nat) (w : Word) : State := s.devWrite ctxid index off (leBytes 8 w.toNat)

/-- A word of the header of a context's save object (R351). -/
def State.saveWord (s : State) (ctxid i : Nat) : Word := match s.proc? ctxid with
  | some p => s.devWord ctxid p.save (8 * i)
  | none => 0

/-- SVEC: the initial TVEC of a context (R345, R351). -/
def State.svec (s : State) (ctxid : Nat) : Word := s.saveWord ctxid 1

/-- R350: append an asynchronous cause to the notice ring of a context; a full ring drops it and counts it. -/
def State.notice (s : State) (ctxid cause : Nat) (eval : Word) (core task : Nat) : State :=
  match s.proc? ctxid with
  | none => s
  | some p =>
    let w2 := s.saveWord ctxid 2
    let tail := bits w2 63 32
    let head := bits w2 31 0
    if 1024 ≤ (tail + 2 ^ 32 - head) % 2 ^ 32 then
      s.devPut ctxid p.save 24 (word ((bits (s.saveWord ctxid 3) 31 0 + 1) % 2 ^ 32))
    else
      let at_ := 0x8000 + 32 * (tail % 1024)
      let s := s.devPut ctxid p.save at_ (word s.time)
      let s := s.devPut ctxid p.save (at_ + 8) (word (cause * 2 ^ 56 + core % 65536 * 2 ^ 32 + task % 2 ^ 32))
      let s := s.devPut ctxid p.save (at_ + 16) eval
      let s := s.devPut ctxid p.save (at_ + 24) 0
      s.devPut ctxid p.save 16 (word ((tail + 1) % 2 ^ 32 * 2 ^ 32 + head))

/-- A notice to every context of a partition (R99, R107, R177). -/
def State.noticePart (s : State) (part cause : Nat) (eval : Word) : State :=
  (s.procs.filter (fun p => p.2.part == part && !p.2.retired)).foldl (fun s p => s.notice p.1 cause eval 0xFFFF 0) s

/-! ## Images of the save object (R351) -/

/-- Where image `i` of a context's save object stands in the map of images. -/
def imageKey (ctxid i : Nat) : Nat := ctxid * 65536 + i

/-- Up to `n` images of a context that are not in use (R351). -/
def State.freeImages (s : State) (ctxid n : Nat) : List Nat :=
  ((List.range (min (bits (s.saveWord ctxid 0) 63 32) 65536)).filter
    (fun i => (s.images.look (imageKey ctxid i)).isNone)).take n

/-- Set or clear the bit of image `i` in the bitmap of the save object. -/
def State.imageBit (s : State) (ctxid i : Nat) (on : Bool) : State := match s.proc? ctxid with
  | none => s
  | some p =>
    let off := 0x2000 + i / 8
    let b := leNat (s.devRead ctxid p.save off 1)
    let clear := b - b / 2 ^ (i % 8) % 2 * 2 ^ (i % 8)
    s.devWrite ctxid p.save off (leBytes 1 (if on then clear + 2 ^ (i % 8) else clear))

/-- Free an image by its place in the map. -/
def State.dropImage (s : State) (key : Nat) : State :=
  ({ s with images := s.images.del key }).imageBit (key / 65536) (key % 65536) false

end Sys2Proof.Machine
end

