-- ==== Sys2Proof/Machine/Control.lean ====
section
/-! DEFINITION. Regions, repeat frames and helpers: majors 0x11 and 0x1F (R283 to R287). -/

namespace Sys2Proof.Machine

/-- `rgn` and `rgnx`: the region (R283) and the signature block (R105). -/
def openBlock (i : Instr) (nonRestart : Bool) (s : State) : Outcome :=
  .next (((s.openRegion nonRestart).modCur (fun x => x.sigOpen (encode i))).retire)

/-- R283 `rgn`. -/
def execRgn (g : BitVec 16) (s : State) : Outcome := openBlock (.rgn g) false s

/-- R283 `rgnx`. -/
def execRgnx (g : BitVec 16) (s : State) : Outcome := openBlock (.rgnx g) true s

/-- R139, R221 `rpt`: the sequencer captures the next `n + 1` words. -/
def execRpt (a b : BitVec 5) (n : BitVec 4) (s : State) : Outcome :=
  let strides := s.x b
  if bits strides 63 18 ≠ 0 then raiseAt Cause.illRsv (wordEval (.rpt a b n) 6) s
  else
    .next (s.retire.modCur (fun x => { x with
      rpt := some ⟨n.toNat + 1, [], x.pc, bits (s.x a) 31 0, strides, 0, 0, true⟩ }))

/-- HLPMASK.LIVE: bit n is set while helper n is live (R129). -/
def Core.liveMask (k : Core) : Nat :=
  (List.range 11).foldl (fun m i => if i != 0 && (k.ctx i).live then m + 2 ^ i else m) 0

/-- The registers of a new context (R67, R126, R285): entry, x1, x2, x3, and the region that its entry opens. -/
def Ctx.fresh (entry : Word) (x1 x2 x3 tvec : Word) : Ctx :=
  let regs := (((Vector.replicate 32 (0 : Word)).setIfInBounds 1 x1).setIfInBounds 2 x2).setIfInBounds 3 x3
  ({ Ctx.zero with live := true, pc := entry, regs := regs, tvec := tvec }).enterRegion entry

/-- A helper's context (R285). -/
def Ctx.helper (control : Ctx) (entry x1 : Word) (n : Nat) (tvec : Word) : Ctx :=
  { Ctx.fresh entry x1 0 (word n) tvec with
    h := control.h.setIfInBounds 0 Handle.zero, fcsr := control.fcsr, scope := control.scope, cbsel := control.cbsel,
    wctl := control.wctl }

/-- R285 `start`. -/
def execStart (d a b : BitVec 5) (s : State) : Outcome :=
  runInstr (do
    let x := s.curCtx
    trapIf (s.cur.2 != 0) Cause.helperLimit 0xFF
    if !x.sup && x.startPos < x.starts.length then do
      writeX d (word (x.starts.getD x.startPos 0))
      modify (fun s => s.modCur (fun x => { x with startPos := x.startPos + 1 }))
    else
      match searchUp (fun n => !(s.curCore.ctx n).live) 10 1 with
      | none => trap Cause.helperLimit 10
      | some n => do
        let h := x.helper (s.x a) (s.x b) n (s.svec (s.ctxidOf s.cur.1))
        modify (fun s => s.modCurCore (fun k => k.setCtx n h))
        writeX d (word n)
        modify (fun s => s.modCur (fun x =>
          if x.sup then x else { x with starts := x.starts ++ [n], startPos := x.startPos + 1 }))
    retire) s

/-- A helper ends (R128): its frame is written back, and line 31 of its core is signalled, with another value and
HELPER_FAULT when its supervisor ends it. -/
def endHelper : M Unit := do
  releaseAt 1
  modify (fun s =>
    let (c, n) := s.cur
    let x := s.curCtx
    let s := s.writeBack c n
    let s := s.setCtx c n { x with live := false, sup := false, wait := none, instret := x.instret + 1 }
    let s := s.signal c 31 (if x.sup then 2 ^ (16 + n) else 2 ^ n)
    if x.sup then
      s.notice (s.ctxidOf c) Cause.helperFault (word ((bits x.ecause 7 0) * 256 + n)) c (s.core c).task
    else s)

/-- R286 `hexit`. -/
def execHexit (s : State) : Outcome :=
  runInstr (do
    if s.cur.2 = 0 then do
      let live := s.curCore.liveMask
      trapIf (live != 0) Cause.helperOrphan (word live)
      queueOpen
      modify (fun s =>
        let c := s.cur.1
        let s := (s.drain c).writeBack c 0
        (s.modCur (fun x => { x with live := false, sup := false, wait := none, instret := x.instret + 1 })).modCurCore
          (fun k => { k with ended := true }))
    else endHelper) s

/-- R287 `yield`. -/
def execYield (s : State) : Outcome :=
  .next ((s.retire.modCur (fun x => { x with wait := some .yielded, yieldPoint := true })).post .yieldPoint
    { Ev.zero with at_ := s.cur.1, x := s.cur.2 })

end Sys2Proof.Machine
end

