-- ==== Sys2Proof/Machine/Engine.lean ====
section
/-! DEFINITION. Engine jobs: major 0x20 (R162, R163, R288 to R292) and the placement states of a migration (R57). -/

namespace Sys2Proof.Machine

/-! ## Job queues (R162, R290) -/

/-- The number of a core's queue in its cluster (R162). -/
def jobQueue (c q : Nat) : Nat := 2 * (c % 8) + q

/-- The jobs that a queue keeps, oldest first. -/
def State.jobsOf (s : State) (cl q : Nat) : List Job := (s.cluster cl).jobs.get q []

/-- Replace the jobs of a queue. -/
def State.setJobs (s : State) (cl q : Nat) (js : List Job) : State :=
  s.modCluster cl (fun k => { k with jobs := k.jobs.put q js })

/-- The queue keeps 32 jobs: the oldest completed one makes room for a new one, and one that has not completed stays (R288,
R290). -/
def keepNewest (js : List Job) : List Job := if js.length ≤ 32 then js else js.eraseP (fun j => j.done)

/-- Whether a queue has room for a job (R288). -/
def State.jobRoom (s : State) (cl q : Nat) : Bool := ((s.jobsOf cl q).filter (fun j => !j.done)).length < 32

/-- The next sequence number of a core's queue (R162). -/
def Core.jobSeq (k : Core) (q : Nat) : Nat := if q = 0 then k.jobSeq0 else k.jobSeq1

/-- The id of a job (R162). -/
def jobWord (c q seq : Nat) : Word := word (c % 8 * 2 ^ 29 + q * 2 ^ 28 + seq)

/-- Enter a job into queue `q` of core `c`: the state. The sequence number advances modulo 2^28. -/
def State.enterJob (s : State) (c q : Nat) (j : Job) : State :=
  let n := jobQueue c q
  let s := s.setJobs (c / 8) n (keepNewest (s.jobsOf (c / 8) n ++ [j]))
  s.modCore c (fun k =>
    let next := (k.jobSeq q + 1) % 2 ^ 28
    if q = 0 then { k with jobSeq0 := next } else { k with jobSeq1 := next })

/-- A job with nothing done. -/
def Job.new (seq ctxid core : Nat) (kind : JobKind) (scope : Nat) : Job :=
  ⟨seq, ctxid, core, kind, Handle.zero, 0, Handle.zero, 0, scope, 1, 0, 0, 0, false, 0, 0, 0, false, 0, 0, false, []⟩

/-- The handle that an index of a record names when the job is issued: the entry's generation at that moment (log entry
16). -/
def State.indexHandle (s : State) (ctxid index : Nat) : Handle :=
  ⟨BitVec.ofNat 16 index, BitVec.ofNat 16 (match s.ent ctxid index with
    | some e => e.gen
    | none => 0)⟩

/-- Whether a byte is a scope of R223 whose VC, if it names one, is defined (R288). -/
def State.scopeOk (s : State) (ctxid v : Nat) : Bool :=
  isScope v && (v < 0x40 || (s.vc ctxid (v - 0x40)).isSome)

/-- The record of 32 bytes at an offset of local memory, as words (R288). -/
def State.record (s : State) (c off : Nat) : List Word :=
  (List.range 4).map (fun i => word (leNat (s.localRead c (off + 8 * i) 8)))

/-- Whether the offset of a record is legal (R288). -/
def recordAt (v : Word) : Bool := v.toNat % 8 == 0 && v.toNat + 32 ≤ 0x40000

/-- Issue a job of queue `q`: it waits for room, then enters, and xd receives its id. -/
def issueJob (d : BitVec 5) (q : Nat) (mk : State → Nat → Job) : M Unit := do
  let s ← get
  let c := s.cur.1
  waitIf (!s.jobRoom (c / 8) (jobQueue c q)) (.jobRoom (jobQueue c q))
  queueOpen
  modify (fun s => s.drain c)
  let s ← get
  let seq := s.curCore.jobSeq q
  set (s.enterJob c q (mk s seq))
  writeX d (jobWord c q seq)

/-- R103: whether a copy leaves the superstep rollable: it writes local memory, that of a gang member through a gang window
included (R168), or a J object. -/
def State.copyRollable (s : State) (ctxid dsth : Nat) : Bool :=
  dsth == 0 || (match s.ent ctxid dsth with
    | some e => e.fmt == 15 || e.rights.testBit rJ
    | none => false)

/-- R288 `cp`. -/
def execCp (d a : BitVec 5) (s : State) : Outcome :=
  runInstr (do
    endBlock
    let off := s.x a
    trapIf (!recordAt off) Cause.cpRecord 1
    let c := s.cur.1
    let ctxid := s.ctxidOf c
    let w := s.record c off.toNat
    let g := fun (i : Nat) => w.getD i 0
    let scope := bits (g 2) 62 55
    let rows := bits (g 2) 54 40
    let len := bits (g 2) 39 0
    trapIf (!s.scopeOk ctxid scope) Cause.cpRecord 2
    trapIf (2 ≤ rows && bits (g 3) 31 0 < len) Cause.cpRecord 3
    let q := b2n (bit (g 2) 63)
    issueJob d q (fun s seq => { Job.new seq ctxid c .copy scope with
      srch := s.indexHandle ctxid (bits (g 0) 63 48), srcoff := bits (g 0) 47 0,
      dsth := s.indexHandle ctxid (bits (g 1) 63 48), dstoff := bits (g 1) 47 0,
      rows := max rows 1, len := len, sstride := bits (g 3) 63 32, dstride := bits (g 3) 31 0 })
    commitInstr (s.copyRollable ctxid (bits (g 1) 63 48))) s

/-- The id slots of a cluster's interface that live multicasts hold (R403); a job holds its slot in `rows`. -/
def State.mcastSlots (s : State) (cl : Nat) : List Nat :=
  (List.range 16).flatMap (fun q => (s.jobsOf cl q).filterMap (fun j => match j.kind with
    | .mcast _ => if j.done then none else some j.rows
    | _ => none))

/-- R289 `mcast`. -/
def execMcast (d a : BitVec 5) (s : State) : Outcome :=
  runInstr (do
    endBlock
    let off := s.x a
    trapIf (!recordAt off) Cause.cpRecord 1
    let c := s.cur.1
    let ctxid := s.ctxidOf c
    let w := s.record c off.toNat
    let g := fun (i : Nat) => w.getD i 0
    let srcoff := bits (g 0) 47 0
    let scope := bits (g 2) 62 55
    let len := bits (g 2) 39 0
    let dst := bits (g 3) 17 0
    let cores := (g 1).toNat
    trapIf (srcoff % 128 != 0 || len % 128 != 0 || dst % 128 != 0 || len == 0) Cause.cpRecord 1
    trapIf (bits (g 2) 53 40 != 0 || bits (g 3) 63 18 != 0 || !s.scopeOk ctxid scope || 0x3F400 < dst + len)
      Cause.cpRecord 2
    let outside := !bit (g 2) 54 && (onesOf cores 64).any (fun i => i / 8 != c / 8 % 8)
    let stranger := (onesOf cores 64).any (fun i => !(s.gang c).contains (c / 64 * 64 + i))
    trapIf (cores == 0 || outside || stranger) Cause.mcastMask (g 1)
    let slots := s.mcastSlots (c / 8)
    match searchUp (fun i => !slots.contains i) 4 0 with
    | none => waitFor (.jobRoom (jobQueue c (b2n (bit (g 2) 63))))
    | some slot => do
      issueJob d (b2n (bit (g 2) 63)) (fun s seq => { Job.new seq ctxid c (.mcast cores) scope with
        srch := s.indexHandle ctxid (bits (g 0) 63 48), srcoff := srcoff, dstoff := dst, len := len, rows := slot })
      commitInstr false) s

/-! ## Waiting for jobs (R290) -/

/-- The fields of a job id, when it is one of this core's that has been issued. -/
def State.jobId (s : State) (c : Nat) (v : Nat) : Option (Nat × Nat) :=
  let q := v / 2 ^ 28 % 2
  let seq := v % 2 ^ 28
  let age := ((s.core c).jobSeq q + 2 ^ 28 - seq) % 2 ^ 28
  if v / 2 ^ 29 != c % 8 || seq == 0 || age == 0 || 2 ^ 27 < age then none else some (q, seq)

/-- A job among those its queue keeps: the newest with its number. -/
def State.findJob (s : State) (c q seq : Nat) : Option Job :=
  (s.jobsOf (c / 8) (jobQueue c q)).reverse.find? (fun j => j.seq == seq)

/-- Mark the fault of a job reported. -/
def State.reportJob (s : State) (c q seq : Nat) : State :=
  let n := jobQueue c q
  s.setJobs (c / 8) n ((s.jobsOf (c / 8) n).map (fun j => if j.seq = seq then { j with reported := true } else j))

/-- The check of a job id (R290). -/
def jobArg (i : Instr) (v : Word) : M (Nat × Nat) := do
  needZeroA i v 31
  let s ← get
  match s.jobId s.cur.1 v.toNat with
  | some r => pure r
  | none => trap Cause.jobId v

/-- R290 `jwait`. -/
def execJwait (d a : BitVec 5) (s : State) : Outcome :=
  runInstr (do
    let (q, seq) ← jobArg (.jwait d a) (s.x a)
    let c := s.cur.1
    match s.findJob c q seq with
    | none => do
      settleAt 3
      writeX d 0
    | some j => do
      waitIf (!j.done) (.job (jobQueue c q) seq)
      if j.fault != 0 && !j.reported then do
        modify (fun s => s.reportJob c q seq)
        trap Cause.jobFault (word (bits (s.x a) 31 0 * 2 ^ 32 + j.faultH * 256 + j.fault))
      else do
        settleAt j.scope
        writeX d (if j.fault = 0 then 0 else 1)
    retire) s

/-- R290 `jpoll`. -/
def execJpoll (d a : BitVec 5) (s : State) : Outcome :=
  runInstr (do
    let (q, seq) ← jobArg (.jpoll d a) (s.x a)
    match s.findJob s.cur.1 q seq with
    | none => do
      settleAt 3
      writeX d 1
    | some j =>
      if j.done then do
        settleAt j.scope
        writeX d (if j.fault = 0 then 1 else 2)
      else writeX d 0
    retire) s

/-- R290: the scope of a join's acquire. -/
def joinScope (ss : List Nat) : Nat :=
  match ss.eraseDups with
  | [] => 0
  | [v] => v
  | vs => if vs.contains 3 then 3 else 2

/-- R292 `cpjoin`. -/
def execCpjoin (d a : BitVec 5) (s : State) : Outcome :=
  runInstr (do
    let v := s.x a
    needZeroA (.cpjoin d a) v 16
    let mask := bits v 15 0
    trapIf (mask == 0) Cause.cpJoin 0
    let c := s.cur.1
    issueJob d (bits v 16 16) (fun s seq =>
      let named := (onesOf mask 16).flatMap (fun q => s.jobsOf (c / 8) q)
      let upto := (List.range 16).map (fun q => match (s.jobsOf (c / 8) q).getLast? with
        | some j => j.seq + 1
        | none => 0)
      Job.new seq (s.ctxidOf c) c (.join mask upto) (joinScope (named.map (fun j => j.scope))))
    retire) s

/-! ## Migration (R57, R291) -/

/-- Change the placement of every entry that shares a page map, in one step (R58). -/
def State.placeAll (s : State) (ctxid pmap : Nat) (f : Ent → Ent) : State :=
  (List.range (s.otlen ctxid)).foldl (fun s i => match s.ent ctxid i with
    | some e => if !e.free && e.pmap == pmap && i != 0 then s.putEnt (f e) else s
    | none => s) s

/-- The record of an entry's map; a map that supervisor code wrote gets its allocating handle at its first `tmig` (R56). -/
def State.mapRec (s : State) (ctxid : Nat) (e : Ent) : MapRec :=
  let r := s.mapOf ctxid e
  if r.alloc = 0 then { r with alloc := e.index } else r

/-- Begin a transit of a map (R57): the destination pages, and MIG of every entry. -/
def State.startTransit (s : State) (ctxid mkey : Nat) (e : Ent) (r : MapRec) (toSlow : Bool)
    (jobs : List (Nat × Nat × Nat)) : State :=
  let part := (keyParts mkey).1
  let (first, s) := s.takePages part (if toSlow then 1 else 0) e.die r.npages
  let dest := memKey part (if toSlow then 1 else 0) (if toSlow then 0 else e.die) (first * 65536)
  let t : Transit := ⟨toSlow, dest, 0, r.npages * 512, jobs, []⟩
  let s := { s with maps := s.maps.put mkey { r with transit := some t, die := e.die } }
  s.placeAll ctxid e.pmap (fun e => { e with mig := if toSlow then 2 else 1 })

/-- Record a charge with a map (R56). -/
def MapRec.addCharge (r : MapRec) (acct tier pages : Nat) : MapRec := { r with charges := r.charges ++ [⟨acct, tier, pages⟩] }

/-- R57: the effect of a request, by the state of the object: whether the job is complete at once, and the state. -/
def State.requestMove (s : State) (ctxid : Nat) (e : Ent) (toSlow : Bool) (job : Nat × Nat × Nat) :
    Except Bad (Bool × State) :=
  let mkey := s.mapKey ctxid e
  let r := s.mapRec ctxid e
  let tier := if toSlow then 1 else 0
  match r.transit with
  | none =>
    if e.tier = tier then .ok (true, { s with maps := s.maps.put mkey r })
    else match s.charge ctxid e.acct tier r.npages with
      | .error b => .error b
      | .ok s => .ok (false, s.startTransit ctxid mkey e (r.addCharge e.acct tier r.npages) toSlow [job])
  | some t =>
    if e.qv then
      .ok (false, { s with maps := s.maps.put mkey { r with transit := some { t with qjobs := t.qjobs ++ [job] } } })
    else if t.toSlow = toSlow then
      .ok (false, { s with maps := s.maps.put mkey { r with transit := some { t with jobs := t.jobs ++ [job] } } })
    else match s.charge ctxid e.acct tier r.npages with
      | .error b => .error b
      | .ok s =>
        let r := r.addCharge e.acct tier r.npages
        let s := { s with maps := s.maps.put mkey { r with transit := some { t with qjobs := [job] } } }
        .ok (false, s.placeAll ctxid e.pmap (fun e => { e with qv := true, qt := toSlow }))

/-- R291 `tmig`. -/
def execTmig (d a : BitVec 5) (h : BitVec 4) (s : State) : Outcome :=
  runInstr (do
    let v := s.x a
    needZeroA (.tmig d a h) v 1
    let toSlow := bit v 0
    let q := bits v 1 1
    trapIf (h == 0) Cause.hInvalid (detEval 0 3)
    let e0 ← checkEntry (s.hreg h.toNat) 0 ⟨[], 0, false, 0, false, .write⟩
    trapIf (e0.fmt == 15) Cause.hInvalid (detEval e0.index 3)
    let e ← checkEntry (s.hreg h.toNat) 0 ⟨[rW], 0, false, 0, false, .write⟩
    let c := s.cur.1
    let ctxid := s.ctxidOf c
    trapIf (2 ≤ e.tier) Cause.tierUnavail (chargeEval (ceilDiv e.len 65536) (b2n toSlow) e.acct)
    let t ← get
    let n := jobQueue c q
    waitIf (!t.jobRoom (c / 8) n) (.jobRoom n)
    queueOpen
    let (done, t) ← ofCheck (t.requestMove ctxid e toSlow (c / 8, n, t.curCore.jobSeq q))
    set t
    issueJob d q (fun _ seq => { Job.new seq ctxid c (.migrate e.pmap) 0 with done := done })
    retire) s

end Sys2Proof.Machine
end

