-- ==== Sys2Proof/Machine/Tile.lean ====
section
/-! DEFINITION. Tiles (R147, R148) and the lattice flags (R155). -/

namespace Sys2Proof.Machine

/-- The first byte of a tile row in `State.tiles` (R147). -/
def rowKey (c t row : Nat) : Nat := ((c * 8 + t) * 128 + row) * 512

/-- The bytes of a tile row, from byte `b` on. -/
def State.rowBytes (s : State) (c t row b n : Nat) : List Byte := s.tiles.getRange (rowKey c t row + b) n

/-- Write bytes of a tile row. -/
def State.putRow (s : State) (c t row b : Nat) (bs : List Byte) : State :=
  let s := s.cowUnit c (256 + t)
  { s with tiles := s.tiles.putRange (rowKey c t row + b) bs }

/-- Whether a byte of a tile row carries poison. -/
def State.rowPoisoned (s : State) (c t row b n : Nat) : Bool := s.tiles.poisoned (rowKey c t row + b) n

/-- R155: the pending LANE_FLAGS of a context takes in further flags, or a new one is deferred (R349). -/
def Ctx.laneFlags (x : Ctx) (hit : Nat) : Ctx :=
  if x.deferred.any (fun d => d.cause == Cause.laneFlags) then
    { x with deferred := x.deferred.map (fun d =>
        if d.cause = Cause.laneFlags then { d with eval := d.eval ||| word hit } else d) }
  else x.defer ⟨Cause.laneFlags, word hit, .lfence, 0⟩

/-- R155: a lattice instruction of context `i` completes with flags: FLAGS of LQST, and LANE_FLAGS for the enabled ones. -/
def State.latticeFlags (s : State) (c i : Nat) (fl : Flags5) : State :=
  if fl = 0 then s
  else
    let q := (s.core c).lqst
    let s := s.modCore c (fun k => { k with lqst := k.lqst ||| word (fl.toNat * 256) })
    let hit := fl.toNat &&& bits q 20 16
    if hit = 0 then s else s.modCtx c i (fun x => x.laneFlags hit)

/-- The lattice of core `c` holds nothing and has nothing in flight. -/
def Core.latticeIdle (k : Core) : Bool := k.lq.isEmpty && k.inflight.isEmpty

end Sys2Proof.Machine
end

