-- ==== Sys2Proof/Machine/Queues.lean ====
section
/-! DEFINITION. Queues and mailboxes: major 0x21 (R293 to R297). -/

namespace Sys2Proof.Machine

/-! ## The descriptor (R293) -/

/-- A queue descriptor. -/
structure QDesc where
  kind   : Nat
  closed : Bool
  prio   : Nat
  elem   : Nat
  log2   : Nat
  tail   : Nat
  head   : Nat
  bad    : Bool
  deriving DecidableEq, Repr

/-- Read a descriptor; `len` is the object's LENGTH. -/
def qdesc (w0 w1 : Word) (len : Nat) : QDesc :=
  let kind := bits w0 63 60
  let l := bits w0 47 43
  { kind := kind, closed := bit w0 59, prio := bits w0 58 56, elem := bits w0 55 54, log2 := l, tail := bits w1 63 32,
    head := bits w1 31 0,
    bad := (kind != 1 && kind != 2) || bits w0 53 48 != 0 || bits w0 42 0 != 0 || l == 0 || 17 ≤ l || len < 64 + 64 * 2 ^ l }

/-- The messages a queue holds. -/
def QDesc.count (q : QDesc) : Nat := (q.tail + 2 ^ 32 - q.head) % 2 ^ 32

/-- Whether the ring is full. -/
def QDesc.full (q : QDesc) : Bool := 2 ^ q.log2 ≤ q.count

/-- The offset of slot `k` (R293). -/
def QDesc.slot (q : QDesc) (k : Nat) : Nat := 64 + 64 * (k % 2 ^ q.log2)

/-- The descriptor of a queue object at its home. -/
def State.qdescAt (s : State) (h : Home) (len : Nat) : QDesc :=
  let r := (s.homeRead h 16).1
  qdesc (word (leNat (r.take 8))) (word (leNat (r.drop 8))) len

/-- Write TAIL and HEAD. -/
def State.putTailHead (s : State) (h : Home) (tail head : Nat) : State :=
  s.homePoke (h.plus 8) (leBytes 8 (tail % 2 ^ 32 * 2 ^ 32 + head % 2 ^ 32)) 0xFF

/-- The descriptor of a queue of a context, by the object's index; none when it is not live. -/
def State.queueOf (s : State) (ctxid index : Nat) : Option (QDesc × Home) :=
  match s.liveEnt ctxid index, s.objAt ctxid index 0 with
  | some e, some h => some (s.qdescAt h e.len, h)
  | _, _ => none

/-! ## Messages with their poison (R100) -/

/-- The poison mask of the 8 doublewords at an address. -/
def Mem.poison8 (m : Mem) (a : Nat) : Nat :=
  (List.range 8).foldl (fun p i => if m.poisoned (a + 8 * i) 8 then p + 2 ^ i else p) 0

/-- Mark the doublewords of a mask as poisoned. -/
def Mem.setPoison8 (m : Mem) (a mask : Nat) : Mem := (onesOf mask 8).foldl (fun m i => m.addPoison (a + 8 * i)) m

/-- The 64 bytes of a slot with their poison. -/
def State.slotRead (s : State) (h : Home) : List Byte × Nat :=
  ((s.homeRead h 64).1, match h with
    | .mem k => s.mem.poison8 k
    | .host k => s.host.poison8 k
    | _ => 0)

/-- Write the 64 bytes of a slot with their poison, and remember the sender (R296). -/
def State.slotWrite (s : State) (h : Home) (bs : List Byte) (poison sender : Nat) : State :=
  let s := (s.homePoke h bs (2 ^ 64 - 1)).markHome h poison
  { s with senders := s.senders.put h.code sender }

/-- The sender word of R296: the device id and the endpoint. -/
def senderWord (dev ep : Nat) : Nat := dev % 64 * 4096 + ep % 4096

/-- The home slice of a queue with the generation in progress of its job, once a cut of this device has begun. -/
def State.queueCut (s : State) (h : Home) : Option (Nat × Nat × Snap) := match h with
  | .mem key => ((s.sliceOf key).bind (fun k => (s.snapOfBlock (k / 8)).map (fun g => (k, g)))).filter (fun g => g.2.2.began)
  | _ => none

/-- The colour with which a message of colour `col` is written into queue `h` (R184): a crossing message is written to the live
queue alone, since its log entry stands for it. -/
def State.postColour (s : State) (h : Home) (col : Bool) : Option Bool := match s.queueCut h with
  | none => none
  | some (k, _, m) => if col != parity m.gen && (s.slice k).snapGen == m.gen then none else some col

/-- R184, R191: a message of the old colour that reaches queue `h` after the cut of its home slice goes to the channel log of the
snapshot in progress; poison in it fails the generation (R190). -/
def State.logCrossing (s : State) (h : Home) (ctxid index sender : Nat) (col : Bool) (words : List Word) (poison : Nat) : State :=
  match s.queueCut h with
  | none => s
  | some (k, n, m) =>
    if (s.slice k).snapGen ≠ m.gen ∨ col = parity m.gen then s
    else
      let s := s.modSnap n m.gen (fun m => { m with log := m.log ++ [⟨ctxid, index, sender, words⟩] })
      if poison = 0 then s else s.post .snapshotFail { Ev.zero with at_ := n, x := m.gen, y := 2 }

/-- One step of a queue's order: put a message or packet in slot TAIL (R293). -/
def State.post64 (s : State) (ctxid index : Nat) (q : QDesc) (h : Home) (bs : List Byte) (poison sender : Nat)
    (col : Bool) : State :=
  let s := { s with colour := s.postColour h col }
  let s := match s.objAt ctxid index (q.slot q.tail) with
    | some k => s.slotWrite k bs poison sender
    | none => s
  let s := { s.putTailHead h (q.tail + 1) q.head with colour := none }
  s.logCrossing h ctxid index sender col ((chunksOf 8 8 bs).map (fun b => word (leNat b))) poison

/-- One step of a queue's order: take slot HEAD: the sender, the bytes and their poison. A crossing taker takes the message out
of the image as well, so that it is neither lost nor seen twice (R192; log entry 125). -/
def State.take64 (s : State) (ctxid index : Nat) (q : QDesc) (h : Home) (col : Bool) : (Nat × List Byte × Nat) × State :=
  let next := { { s with colour := some col }.putTailHead h q.tail (q.head + 1) with colour := none }
  match s.objAt ctxid index (q.slot q.head) with
  | some k =>
    let r := s.slotRead k
    ((s.senders.get k.code 0, r.1, r.2), next)
  | none => ((0, List.replicate 64 0, 0), next)

/-! ## The checks shared by the group (R293) -/

/-- Step 1: the queue handle. h0 and gang windows are no global object (R268). -/
def queueHandle (h : Handle) (isLocal : Bool) (rights : List Nat) (use : Use) : M Acc := checked (do
  trapIf isLocal Cause.hInvalid (detEval 0 3)
  tablesCurrent
  let s ← get
  let e ← ofCheck (s.checkLive (s.ctxidOf s.cur.1) h 0)
  trapIf (e.fmt == 15) Cause.hInvalid (detEval e.index 3)
  checkHandle h 0 ⟨rights, 0, false, 0, false, use⟩)

/-- Step 2: the local offset of 64 bytes. -/
def slotOffset (v : Word) : M Nat := do
  trapIf (v.toNat % 64 != 0) Cause.hAlign (hEval 0 (bits v 47 0))
  trapIf (0x3F400 < v.toNat + 64) Cause.hBound (hEval 0 (bits v 47 0))
  pure v.toNat

/-- EVAL of a queue cause (R344). -/
def qEval (index : Nat) : Word := word (index * 2 ^ 48)

/-- Step 3 and the kind. -/
def queueDesc (a : Acc) (kind : Nat) : M QDesc := do
  let s ← get
  let q := s.qdescAt (a.homeAt 0) a.ent.len
  trapIf (q.bad || (q.elem == 3 && kind != 3)) Cause.qType (qEval a.ent.index)
  trapIf (q.kind != (if kind = 1 then 1 else 2)) Cause.qType (qEval a.ent.index)
  pure q

/-- The page of a slot (step 7 of R166). -/
def slotPage (a : Acc) (off : Nat) (use : Use) : M Unit := do
  let _ ← checkPages a.ent off ⟨[], 64, false, 0, false, use⟩
  pure ()

/-- The 64 bytes of local memory as message words. -/
def State.localWords (s : State) (c off : Nat) : List Word :=
  (chunksOf 8 8 (s.localRead c off 64)).map (fun b => word (leNat b))

/-- A SEND or QPOST of 64 bytes of local memory to a queue of another device, with their poison (R38, R100). -/
def State.slotMsg (s : State) (dev tag op page o rctx rhnd off : Nat) : Msg :=
  let c := s.cur.1
  { s.peerMsg dev tag op 3 page (o + 8) 0 0 0 rctx rhnd (s.localWords c off) with poison := 4 * s.lmem.poison8 (lkey c off) }

/-- Bytes of message words. -/
def wordsBytes (ws : List Word) : List Byte := ws.flatMap (fun w => leBytes 8 w.toNat)

/-- The sender word of the core that issues. -/
def State.mySender (s : State) : Nat := senderWord s.devId (niEndpoint (s.cur.1 / 8))

/-! ## The instructions -/

/-- The number of a device-side queue object among the queues: past those of the host. -/
def devQueue (ctxid handle : Nat) : Nat := 65536 + ctxid * 65536 + handle

/-- A packet in a device-side queue object is handed to the dispatcher (R117, R294): the object takes part as a running queue
of its context, at the priority of its descriptor. -/
def State.handPacket (s : State) (ctxid handle prio : Nat) (p : Packet) : State :=
  s.modQueue (devQueue ctxid handle) (fun q => { q with
    qstate := 1, owner := 65536 + ctxid, ringcfg := prio * 32, waiting := q.waiting ++ [p] })

/-- The outstanding children of a task (R114). -/
def State.children (s : State) (task : Nat) : Nat := match s.tasks.look task with
  | some t => t.children
  | none => 0

/-- R294 `qpost`. -/
def execQpost (d a : BitVec 5) (h : BitVec 4) (s : State) : Outcome :=
  runInstr (do
    endBlock
    let acc ← queueHandle (s.hreg h.toNat) (h == 0) [rS, rW] .write
    let off ← slotOffset (s.x a)
    let c := s.cur.1
    let ctxid := s.ctxidOf c
    match acc.peer? with
    | some (dev, rctx, rhnd, page, o) => do
      if (← pendingTag).isNone then waitIf (4096 ≤ s.children s.curCore.task) .children else pure ()
      keepAccess acc
      let r ← request (fun tag s => s.sendRemote dev c s.cur.2 false true acc.ent.index 0
        (s.slotMsg dev tag 0x08 page o rctx rhnd off))
      writeX d (r.words.getD 0 0)
    | none => do
      let q ← queueDesc acc 1
      trapIf q.closed Cause.qClosed (qEval acc.ent.index)
      let task := s.curCore.task
      waitIf q.full (.queueRoom acc.ent.index)
      waitIf (4096 ≤ s.children task) .children
      slotPage acc (q.slot q.tail) .write
      modify (fun s =>
        let s := s.countOwn c (acc.homeAt 0)
        let ws := s.localWords c off
        let s := s.post64 ctxid acc.ent.index q (acc.homeAt 0) (s.localRead c off 64)
          (s.lmem.poison8 (lkey c off)) s.mySender (parity s.curCore.snapGen)
        let s := { s with tasks := match s.tasks.look task with
          | some t => s.tasks.put task { t with children := t.children + 1 }
          | none => s.tasks }
        s.handPacket ctxid acc.ent.index q.prio ⟨q.tail, ws, task, false⟩)
      writeX d (word q.tail)
    commitInstr false) s

/-- R295 `send`. -/
def execSend (a : BitVec 5) (h : BitVec 4) (s : State) : Outcome :=
  runInstr (do
    endBlock
    let acc ← queueHandle (s.hreg h.toNat) (h == 0) [rS, rW] .write
    let off ← slotOffset (s.x a)
    let c := s.cur.1
    let ctxid := s.ctxidOf c
    match acc.peer? with
    | some (dev, rctx, rhnd, page, o) => do
      let first ← pendingTag
      if first.isNone then releaseAt 3 else pure ()
      keepAccess acc
      let _ ← request (fun tag s => s.sendRemote dev c s.cur.2 false false acc.ent.index 0
        (s.slotMsg dev tag 0x07 page o rctx rhnd off))
      pure ()
    | none => do
      let q ← queueDesc acc 2
      trapIf q.closed Cause.qClosed (qEval acc.ent.index)
      waitIf q.full (.queueRoom acc.ent.index)
      slotPage acc (q.slot q.tail) .write
      releaseAt 3
      modify (fun s => (s.countOwn c (acc.homeAt 0)).post64 ctxid acc.ent.index q (acc.homeAt 0)
        (s.localRead c off 64) (s.lmem.poison8 (lkey c off)) s.mySender (parity s.curCore.snapGen))
    commitInstr false) s

/-- Write a taken message into local memory. -/
def State.putMsg (s : State) (c off : Nat) (bs : List Byte) (poison : Nat) : State :=
  let s := s.ownWrite c off bs
  { s with lmem := s.lmem.setPoison8 (lkey c off) poison }

/-- `recv`, and `qtry` when it does not wait (R296). -/
def takeMsg (d a : BitVec 5) (h : BitVec 4) (try_ : Bool) (s : State) : Outcome :=
  runInstr (do
    endBlock
    let acc ← queueHandle (s.hreg h.toNat) (h == 0) [rS, rR] .read
    let off ← slotOffset (s.x a)
    let c := s.cur.1
    let ctxid := s.ctxidOf c
    let mark := if try_ then 2 ^ 63 else 0
    match acc.peer? with
    | some (dev, rctx, rhnd, page, o) => do
      if (← pendingTag).isSome then acquireOpen 3 else pure ()
      keepAccess acc
      let r ← request (fun tag s => s.sendRemote dev c s.cur.2 false true acc.ent.index 0
        (s.peerMsg dev tag 0x09 3 page (o + 8) 0 0 0 rctx rhnd [b2w try_]))
      if r.op = 0x45 then writeX d 0
      else do
        modify (fun s => s.putMsg c off (wordsBytes ((r.words.drop 1).take 8)) (r.poison / 2))
        acquireAt 3
        writeX d (word (mark + (r.words.getD 0 0).toNat))
    | none => do
      let q ← queueDesc acc 2
      if q.count = 0 then do
        trapIf q.closed Cause.qClosed (qEval acc.ent.index)
        if try_ then writeX d 0 else waitFor (.queueMsg acc.ent.index)
      else do
        slotPage acc (q.slot q.head) .read
        acquireOpen 3
        let t ← get
        let (m, t) := t.take64 ctxid acc.ent.index q (acc.homeAt 0) (parity t.curCore.snapGen)
        set (t.putMsg c off m.2.1 m.2.2)
        acquireAt 3
        writeX d (word (mark + m.1))
    commitInstr false) s

/-- R296 `recv`. -/
def execRecv (d a : BitVec 5) (h : BitVec 4) (s : State) : Outcome := takeMsg d a h false s

/-- R296 `qtry`. -/
def execQtry (d a : BitVec 5) (h : BitVec 4) (s : State) : Outcome := takeMsg d a h true s

/-- R297: one element of a reduction: the row's and the message's 32 bits, f32 or i32. -/
def rdqElem (isMax isF32 : Bool) (r m : Nat) : FRes :=
  if isF32 then
    let a := Fmt.f32.unpack r
    let b := Fmt.f32.unpack m
    if isMax then fMinMax .f32 true a b else fAdd .f32 .rne a b
  else if isMax then ⟨if sextN 32 m ≤ sextN 32 r then r else m, Flags5.none⟩
  else ⟨(r + m) % 2 ^ 32, Flags5.none⟩

/-- R297: reduce a message into 16 elements of a row: the new bytes and the flags. -/
def rdqRow (isMax isF32 : Bool) (row msg : List Byte) : List Byte × Flags5 :=
  let rs := (chunksOf 4 16 row).zip (chunksOf 4 16 msg) |>.map (fun p => rdqElem isMax isF32 (leNat p.1) (leNat p.2))
  (rs.flatMap (fun r => leBytes 4 r.bits), rs.foldl (fun f r => f ||| r.flags) 0)

/-- The region entry of a context that stops at an `rdq` is the `rdq` itself, with RGNSKIP 0 (R137); none opens at supervisor
level (R421). -/
def Ctx.atRdq (x : Ctx) : Ctx := if x.sup then x else x.enterRegion x.pc

/-- The ring is empty: the context waits for a message, and a pre-emption or an interrupt finds it at the `rdq` (R137, R297). -/
def rdqWait {α : Type} (index : Nat) : M α := do
  modify (fun s => s.modCur Ctx.atRdq)
  waitFor (.queueMsg index)

/-- One message of `rdq` is committed: the row, the flags, xd, and the region entry. Poison of the message is that of its slot,
`at_` (R101); that of the row, which has neither handle nor byte offset, is reported with index 0 and offset 0 (log entry 18). -/
def rdqCommit (isMax isF32 : Bool) (d : BitVec 5) (xb : Word) (bs : List Byte) (poison : Nat) (at_ : Word) : M Unit := modify (fun s =>
  let c := s.cur.1
  let t := bits xb 2 0
  let row := bits xb 9 3
  let b := 64 * bits xb 12 10
  let r := rdqRow isMax isF32 (s.rowBytes c t row b 64) bs
  let old := s.rowPoisoned c t row b 64
  let s := (s.putRow c t row b r.1).latticeFlags c s.cur.2 r.2
  let s := if poison != 0 then s.defer c s.cur.2 Cause.uncorrData at_ .lfence
    else if old then s.defer c s.cur.2 Cause.uncorrData (hEval 0 0) .lfence else s
  let s := s.setX d (s.x d + 1)
  s.modCur Ctx.atRdq)

/-- `rdq.add` and `rdq.max` (R297): one message at a time; the instruction retires when xd has reached the target. Of a queue of
another device the descriptor's word 0 is read there first (log entry 141). -/
def rdq (i : Instr) (isMax : Bool) (d a b : BitVec 5) (h : BitVec 4) (s : State) : Outcome :=
  runInstr (do
    endBlock
    let acc ← queueHandle (s.hreg h.toNat) (h == 0) [rS, rR] .read
    needZeroA i (s.x a) 31
    needZeroB i (s.x b) 12
    let c := s.cur.1
    let ctxid := s.ctxidOf c
    match acc.peer? with
    | some (dev, rctx, rhnd, page, o) => match s.curCtx.farDesc with
      | none => do
        -- the descriptor is read first: only it says what the elements are
        keepAccess acc
        let r ← request (fun tag s => s.sendRemote dev c s.cur.2 true false acc.ent.index 0
          (s.peerMsg dev tag 0x01 3 page o 0 0 0 rctx rhnd []))
        modify (fun s => s.modCur (fun x => { x with farDesc := some (r.words.getD 0 0) }))
        waitFor .restart
      | some w => do
        trapIf (bits w 55 54 == 0 || bits w 55 54 == 3) Cause.rdqType (qEval acc.ent.index)
        if (s.x a).toNat ≤ (s.x d).toNat then do
          modify (fun s => s.modCur (fun x => { x with farDesc := none }))
          commitInstr false
        else do
          waitIf (!s.curCore.latticeIdle) .lrow
          modify (fun s => s.modCur Ctx.atRdq)
          keepAccess acc
          let r ← request (fun tag s => s.sendRemote dev c s.cur.2 false true acc.ent.index 0
            (s.peerMsg dev tag 0x09 3 page (o + 8) 0 0 0 rctx rhnd [2]))
          let (v, t) := (← get).free
          set t
          rdqCommit isMax (bits w 55 54 == 1) d (s.x b) (wordsBytes ((r.words.drop 1).take 8)) (r.poison / 2)
            (hEval acc.ent.index (v.toNat % 2 ^ 48))
    | none => do
      let q ← queueDesc acc 3
      trapIf (q.elem == 0 || q.elem == 3) Cause.rdqType (qEval acc.ent.index)
      if (s.x a).toNat ≤ (s.x d).toNat then commitInstr false
      else if q.count = 0 then do
        trapIf q.closed Cause.qClosed (qEval acc.ent.index)
        rdqWait acc.ent.index
      else do
        waitIf (!s.curCore.latticeIdle) .lrow
        slotPage acc (q.slot q.head) .read
        let t ← get
        let (m, t) := t.take64 ctxid acc.ent.index q (acc.homeAt 0) (parity t.curCore.snapGen)
        set t
        rdqCommit isMax (q.elem == 1) d (s.x b) m.2.1 m.2.2 (hEval acc.ent.index (q.slot q.head))) s

/-- R297 `rdq.add`. -/
def execRdqAdd (d a b : BitVec 5) (h : BitVec 4) (s : State) : Outcome := rdq (.rdqAdd d a b h) false d a b h s

/-- R297 `rdq.max`. -/
def execRdqMax (d a b : BitVec 5) (h : BitVec 4) (s : State) : Outcome := rdq (.rdqMax d a b h) true d a b h s

end Sys2Proof.Machine
end

