-- ==== Sys2Proof/Machine/Image.lean ====
section
/-! DEFINITION. The core images of a save object (R351, R352): the words of their records, and their way into memory and back. -/

namespace Sys2Proof.Machine

/-- The image of a core with nothing in it. -/
def CoreImage.zero : CoreImage :=
  { lmem := Mem.empty, tiles := Mem.empty, lqst := 0, lweight := 0, line31 := ELine.zero, gangIdx := 0, sstepn := 0,
    sstepG := 0, stepRec := none, stepNew := false, rollable := false, lines := [], bars := [], mutexes := [], jobs := [], jobSeq0 := 0,
    jobSeq1 := 0, slots := [], ctxs := [], code := Handle.zero, plan := [], ended := false }

/-! ## Records (R191, R352) -/

/-- The start record of a context as a word (R285, R352): the count and the numbers. -/
def startWord (l : List Nat) : Word := word (l.reverse.foldl (fun a n => (a * 16 + n) % 2 ^ 56) 0 * 16 + min l.length 15)

/-- The 32 words of a context record (R352). -/
def Ctx.record (x : Ctx) : List Word :=
  let hs := (List.range 8).map (fun i =>
    let a := (x.h[2 * i]?).getD Handle.zero
    let b := (x.h[2 * i + 1]?).getD Handle.zero
    word (b.gen.toNat * 2 ^ 48 + b.index.toNat * 2 ^ 32 + a.gen.toNat * 2 ^ 16 + a.index.toNat))
  let bar := match x.barWait with
    | some w => word (w.which * 2 ^ 32 + w.gen)
    | none => 0
  let rpt := match x.rpt with
    | some f => word f.words.length
    | none => 0
  let ds := (List.range 4).flatMap (fun i => match x.deferred[i]? with
    | some d => [word d.cause, d.eval]
    | none => [0, 0])
  [x.rgnpc, x.rgnskip, x.epc, x.ecause, x.eval, x.estat, x.tvec, x.scratch, x.fcsr, x.scope, x.cbsel, x.wctl] ++ hs ++
    [word (b2n x.live + 2 * b2n x.barWait.isSome), bar, startWord x.starts, rpt] ++ ds

/-- The word of an event line, a barrier and a mutex, in the layout of R141. -/
def ELine.word (l : ELine) : Word := Machine.word (b2n l.pend * 2 ^ 32 + l.value)
/-- A barrier. -/
def EBar.word (b : EBar) : Word := Machine.word (b.gen * 65536 + b.need * 256 + b.arrived.length)
/-- A mutex. -/
def Mutex.word (m : Mutex) : Word := Machine.word (b2n m.held * 65536 + m.gang % 4096 * 16 + m.ctx)

/-- Words padded with zeros to `n`. -/
def padWords (n : Nat) (ws : List Word) : List Word := ws ++ List.replicate (n - ws.length) 0

/-- The event line that a word of R141 holds. -/
def ELine.ofWord (w : Word) : ELine := ⟨bits w 31 0, bit w 32⟩

/-- HLPMASK.LIVE of a core (R129). -/
def CoreImage.liveWord (m : CoreImage) : Word :=
  Machine.word ((List.range 11).foldl (fun a i => if i != 0 && (m.ctxs.getD i Ctx.zero).live then a + 2 ^ i else a) 0)

/-- A job record of an image, 16 bytes (R162, R352): the id and the completion, and the cause and the handle of a fault that has not
been reported (log entry 130). -/
def Job.record (j : Job) (q : Nat) : List Word :=
  let open_ := j.fault != 0 && !j.reported
  [word ((jobWord j.core q j.seq).toNat + b2n j.done * 2 ^ 32 + (if open_ then j.fault * 2 ^ 40 else 0)), word (if open_ then j.faultH else 0)]

/-- A slot descriptor of an image, 32 bytes (R158, R352; log entry 130). -/
def Slot.record (x : Slot) : List Word :=
  [word (b2n x.valid * 2 ^ 63 + x.fmt * 2 ^ 48 + x.krows * 2 ^ 16 + x.ctxid),
    word (x.handle.gen.toNat * 2 ^ 16 + x.handle.index.toNat), word x.off, word x.gen]

/-- The delivered event values of a context, 4 bytes for each of its 32 lines (R272, R352). -/
def Ctx.deliveredWords (x : Ctx) : List Word :=
  (List.range 16).map (fun i => word (x.delivered.get (2 * i) 0 % 2 ^ 32 + x.delivered.get (2 * i + 1) 0 % 2 ^ 32 * 2 ^ 32))

/-- The core record and the context records of an image, from its byte 0xC0000 on (R352): 512 words, and 32 for each context. -/
def CoreImage.words (m : CoreImage) : List Word :=
  let plan := (List.range 32).map (fun i => (m.lines.look i).elim 0 ELine.word) ++
    (List.range 16).map (fun i => (m.bars.look i).elim 0 EBar.word) ++ (List.range 16).map (fun i => (m.mutexes.look i).elim 0 Mutex.word)
  let jobs := [0, 1].flatMap (fun q => padWords 64 ((m.jobs.getD q []).flatMap (fun j => j.record q)))
  let slots := (List.range 16).flatMap (fun i => (m.slots.look i).elim [0, 0, 0, 0] Slot.record)
  padWords 512 (padWords 32 [m.lqst, m.lweight, m.liveWord, m.line31.word] ++ plan ++ jobs ++ slots ++
      m.ctxs.flatMap Ctx.deliveredWords) ++
    m.ctxs.flatMap (fun x => if x.live then x.record else List.replicate 32 0)

/-- The bytes of an image (R352). -/
def imageSize : Nat := 0xC2000

/-- An image as it lies in the save object (R352). -/
def CoreImage.bytes (m : CoreImage) : Mem :=
  ((Mem.empty.copyRange 0 m.lmem 0 0x40000).copyRange 0x40000 m.tiles 0 0x80000).putRange 0xC0000 (wordsBytes m.words)

/-- A context with the registers that its record holds, as far as they can be written (R345, R352). -/
def Ctx.reread (x : Ctx) (b : Mem) (o : Nat) : Ctx :=
  let w := fun (i mask : Nat) => word (b.getLE (o + 8 * i) 8 &&& mask)
  let all := 2 ^ 64 - 1
  if !x.live then x
  else { x with
    rgnpc := w 0 0xFFFFFFFFFFFC, rgnskip := w 1 0xFFFFFFFF, epc := w 2 0xFFFFFFFFFFFF, ecause := w 3 0xFF, eval := w 4 all,
    estat := w 5 all, tvec := w 6 (all - 3), scratch := w 7 all, fcsr := w 8 0x1F7F,
    scope := (let v := w 9 all; if isScope v.toNat then v else x.scope), cbsel := w 10 0xFFF, wctl := w 11 1,
    h := Vector.ofFn (fun (i : Fin 16) =>
      ⟨BitVec.ofNat 16 (b.getLE (o + 96 + 4 * i.val) 2), BitVec.ofNat 16 (b.getLE (o + 98 + 4 * i.val) 2)⟩) }

/-- An image with what its bytes in the save object hold: what stands in no place of R352, or in none that the rule lays out bit by
bit, stays as the device kept it (log entry 130). -/
def CoreImage.reread (m : CoreImage) (b : Mem) : CoreImage :=
  let w := fun (o : Nat) => word (b.getLE (0xC0000 + o) 8)
  { m with
    lmem := Mem.empty.copyRange 0 b 0 0x40000, tiles := Mem.empty.copyRange 0 b 0x40000 0x80000,
    lqst := w 0 &&& 0x1F1F80, lweight := w 8 &&& 0xFF, line31 := ELine.ofWord (w 0x18),
    lines := m.lines.map (fun (l : Nat × ELine) => (l.1, ELine.ofWord (w (0x100 + 8 * l.1)))),
    ctxs := m.ctxs.zipIdx.map (fun (p : Ctx × Nat) => p.1.reread b (0xC1000 + 256 * p.2)) }

/-! ## Memory of an object, a stretch at a time -/

/-- The stretches of a range of an object that lie in one page each: the place in the range and the length. -/
def State.stretches (s : State) (ctxid index off n : Nat) : List (Nat × Nat) := match s.liveEnt ctxid index with
  | none => []
  | some e =>
    let rel := e.base + off - s.mapBase ctxid e
    (pageStarts rel n).map (fun d => (d, min (n - d) (65536 - (rel + d) % 65536)))

/-- Whether every line of a stretch of memory is in service. -/
def State.servedAll (s : State) (key n : Nat) : Bool :=
  (List.range (ceilDiv (key % 128 + n) 128)).all (fun i => s.inService (key / 128 * 128 + 128 * i))

/-- Write `n` bytes of a store to an object, with their poison, line by line (R100). -/
def State.putLines (s : State) (ctxid index off : Nat) (m : Mem) (src n : Nat) : State :=
  (List.range (ceilDiv (off % 128 + n) 128)).foldl (fun s i =>
    let a := if i = 0 then off else off / 128 * 128 + 128 * i
    let b := min (off + n) (off / 128 * 128 + 128 * (i + 1))
    let at_ := src + (a - off)
    let pz := (List.range 16).foldl (fun z k => if 8 * k < b - a && m.poisoned (at_ + 8 * k) 8 then z + 2 ^ k else z) 0
    match s.objAt ctxid index a with
    | some h => (s.homePoke h (m.getRange at_ (b - a)) (2 ^ (b - a) - 1)).markHome h pz
    | none => s) s

/-- Write `n` bytes of a store to an object. A stretch of this device's memory that no snapshot, transit or missing channel has to
do with is copied at once, which gives what its lines one by one would. -/
def State.putStore (s : State) (ctxid index off : Nat) (m : Mem) (n : Nat) : State :=
  (s.stretches ctxid index off n).foldl (fun s p =>
    match s.objAt ctxid index (off + p.1) with
    | some (.mem key) =>
      if s.jobs.isEmpty && (s.forwardTo key).isEmpty && s.servedAll key p.2 then { s with mem := s.mem.copyRange key m p.1 p.2 }
      else s.putLines ctxid index (off + p.1) m p.1 p.2
    | _ => s.putLines ctxid index (off + p.1) m p.1 p.2) s

/-- The bytes of a stretch of a home; lines whose channel is gone read as poison (R107), and those of another device are not
read. -/
def State.takeStretch (s : State) (h : Home) (n : Nat) : Option Mem :=
  match h with
  | .mem key =>
    let m := Mem.empty.copyRange 0 s.mem key n
    some (if s.servedAll key n then m
      else (List.range (n / 8)).foldl (fun m i =>
        if s.inService (key + 8 * i) then m else (m.putRange (8 * i) (List.replicate 8 0)).addPoison (8 * i)) m)
  | .host a => some (Mem.empty.copyRange 0 s.host a n)
  | _ => none

/-- Read `n` bytes of an object into a store; none when a page of them is not mapped or is on another device. -/
def State.takeStore (s : State) (ctxid index off n : Nat) : Option Mem :=
  match s.stretches ctxid index off n with
  | [] => none
  | ps => ps.foldl (fun r p => match r, (s.objAt ctxid index (off + p.1)).bind (fun h => s.takeStretch h p.2) with
    | some m, some b => some (m.copyRange p.1 b 0 p.2)
    | _, _ => none) (some Mem.empty)

/-! ## Images (R351, R353) -/

/-- The place of image `i` in a save object (R351). -/
def imageOff (i : Nat) : Nat := 0x10000 + i * imageSize

/-- An image is written to its place, and its bit is set. A core whose run has ended has nothing to write (R119). -/
def State.putImage (s : State) (key : Nat) (m : CoreImage) : State :=
  let t := { s with images := s.images.put key m }
  let t := match s.proc? (key / 65536) with
    | some p => if m.ended then t else t.putStore (key / 65536) p.save (imageOff (key % 65536)) m.bytes imageSize
    | none => t
  t.imageBit (key / 65536) (key % 65536) true

/-- An image as its bytes in the save object have it. -/
def State.imageAt (s : State) (key : Nat) : CoreImage :=
  let m := s.images.get key CoreImage.zero
  match s.proc? (key / 65536) with
  | some p => if m.ended then m
    else (s.takeStore (key / 65536) p.save (imageOff (key % 65536)) imageSize).elim m m.reread
  | none => m

end Sys2Proof.Machine
end

