-- ==== Sys2Proof/Machine/Snapshot.lean ====
section
/-! DEFINITION. The job-wide snapshot (R181 to R191, R414, R417): the job object, the cut of every endpoint, the tree of replies,
the store, the manifest. -/

namespace Sys2Proof.Machine

/-- Change the cores that a test picks. -/
def State.mapCores (s : State) (p : Nat → Bool) (f : Core → Core) : State :=
  { s with cores := s.cores.map (fun k => if p k.1 then (k.1, f k.2) else k) }

/-- Change the home slices that a test picks. -/
def State.mapSlices (s : State) (p : Nat → Bool) (f : Slice → Slice) : State :=
  { s with slices := s.slices.map (fun k => if p k.1 then (k.1, f k.2) else k) }

/-- Change every VC of the contexts that a test picks. -/
def State.mapVcs (s : State) (p : Proc → Bool) (f : Vc → Vc) : State :=
  { s with procs := s.procs.map (fun c =>
      if p c.2 then (c.1, { c.2 with vcs := c.2.vcs.map (fun v => (v.1, f v.2)) }) else c) }

/-! ## The job object (R181) -/

/-- The number of a job: the place of its object at home, plus 1. -/
def jobNo (h : Home) : Nat := h.code + 1

/-- Word `i` of a job object. -/
def State.jobWord (s : State) (j : JobState) (i : Nat) : Word := s.devWord j.ctxid j.handle (8 * i)

/-- Write GEN and CUR. -/
def State.putGenCur (s : State) (j : JobState) (gen cur : Nat) : State :=
  s.devPut j.ctxid j.handle 0 (word (gen % 2 ^ 32 * 2 ^ 32 + cur % 2 ^ 32))

/-- Write PHASE, and MHEAD when one is given. -/
def State.putPhase (s : State) (j : JobState) (phase : Nat) (mhead : Option Nat) : State :=
  let w := s.jobWord j 1
  let w := match mhead with
    | some m => setBits w 47 32 m
    | none => w
  s.devPut j.ctxid j.handle 8 (setBits w 1 0 phase)

/-- Whether this device started the job's snapshots: its object lies here. -/
def State.initiates (s : State) (j : JobState) : Bool := j.home / 4096 == s.devId

/-- The partitions of a job (R181). -/
def JobState.partList (j : JobState) : List Nat := onesOf j.parts 32

/-- The contexts of a job on this device. -/
def State.jobCtxs (s : State) (j : JobState) : List Nat :=
  (s.procs.filter (fun p => j.parts.testBit p.2.part && !p.2.retired)).map (fun p => p.1)

/-- Whether a block belongs to a job's partitions. -/
def State.jobBlock (s : State) (j : JobState) (b : Nat) : Bool :=
  s.boot.blocks.testBit b && s.parts.any (fun p => j.parts.testBit p.1 && p.2.blocks.testBit b)

/-- The blocks of a job on this device. -/
def State.jobBlocks (s : State) (j : JobState) : List Nat := (List.range 32).filter (fun b => s.jobBlock j b)

/-- The clusters of a job on this device; its home slices have the same numbers. -/
def State.jobUnits (s : State) (j : JobState) : List Nat := (s.jobBlocks j).flatMap (fun b => (List.range 8).map (fun i => 8 * b + i))

/-- The lowest-numbered cluster of a job on this device. -/
def State.jobCluster (s : State) (j : JobState) : Nat := 8 * ((s.jobBlocks j).headD 0)

/-- The pages of the J objects of a context (R188); a page that several entries name is listed once. -/
def State.jPageList (s : State) (ctxid : Nat) : List JPage :=
  (List.range (s.otlen ctxid)).flatMap (fun i => match s.liveEnt ctxid i with
    | some e =>
      if e.rights.testBit rJ && e.fmt != 15 then
        (List.range (ceilDiv e.len 65536)).filterMap (fun n => match s.translate ctxid e (n * 65536) .read 0 with
          | .ok (.mem k) => some ⟨ctxid, i, n, k / 65536 * 65536, true⟩
          | _ => none)
      else []
    | none => [])

/-- The first record of each page. -/
def firstPages : List JPage → List Nat → List JPage
  | [], _ => []
  | p :: t, seen => if seen.contains p.key then firstPages t seen else p :: firstPages t (p.key :: seen)

/-! ## Starting a generation (R185) -/

/-- The message of a marker: the four classes carry the same one (R185). -/
def markerMsg (ddev dep sdev sep tc part handle gen : Nat) : Msg :=
  mkMsg ddev dep sdev sep tc 0x72 handle part (parity gen) [word gen]

/-- The markers that leave the initiator (R185): one of each class on each port of its network interface; the switches flood
them. -/
def State.sendMarkers (s : State) (j : JobState) (c gen : Nat) : State :=
  let ep := niEndpoint (c / 8)
  let leaf := ep / 512 * 32 + ep / 64 % 8 * 4 + ep / 16 % 4
  (List.range 8).foldl (fun (s : State) i =>
    let (m, s) := s.stamp (markerMsg s.devId ep s.devId ep (i / 2) (s.partOfBlock (c / 64)) j.handle gen)
    s.post .switchReceive { Ev.zero with at_ := leaf, x := ep % 16 + i % 2, msg := m }) s

/-- A generation that starts (R185). -/
def Snap.new (gen prev : Nat) (full : Bool) : Snap :=
  { gen := gen, prev := prev, full := full, failed := 0, sealed := false, began := false, cuts := [], pages := [], log := [],
    sent := 0, counts := [], tree := [], replies := [], manifest := 0, images := [], dcuts := [], tasks := [], insts := [],
    others := [], extra := 0 }

/-- The job's partitions by PARTS, or the owner's (R181). -/
def partsOf (w3 : Word) (ownPart : Nat) : Nat := if bits w3 31 0 = 0 then 2 ^ ownPart else bits w3 31 0

/-- Bind the partitions of a job to it (R181). -/
def State.bindParts (s : State) (n : Nat) (j : JobState) : State :=
  { s with parts := s.parts.map (fun (p : Nat × Part) => if j.parts.testBit p.1 then (p.1, { p.2 with job := n }) else p) }

/-- The state of a job as its object stands, or as recorded. -/
def State.jobOf (s : State) (n ctxid handle : Nat) (e : Ent) (sep : Nat) : JobState :=
  let part := match s.proc? e.owner with
    | some p => p.part
    | none => s.partOfBlock 0
  let old := s.jobs.look n
  let parts := partsOf (s.devWord ctxid handle 24) part
  let mask := (s.devWord ctxid handle 16).toNat
  match old with
  | some j => { j with ctxid := ctxid, handle := handle, owner := e.owner, parts := parts, devmask := mask, home := sep }
  | none => ⟨ctxid, handle, e.owner, sep, parts, mask, [], [], 0, false, 0, [], none, none⟩

/-- A message of the monitors to the other devices of a job (log entry 17). -/
def State.tellJob (s : State) (j : JobState) (w : Word) : State :=
  ((onesOf j.devmask 64).filter (fun d => d != s.devId)).foldl (fun s d =>
    s.inject (mkMsg d 0x800 s.devId (niEndpoint (s.jobCluster j)) 3 0x7A j.handle (j.partList.getD 0 0) false [w])) s

/-- A word of a message of the monitors: its kind and what it says (log entry 17). -/
def monWord (kind v : Nat) : Word := word (kind * 2 ^ 56 + v % 2 ^ 56)

/-- Start generation CUR + 1 of a job from core `c` (R185). The other devices hear the partitions and the devices of the job. -/
def State.startSnap (s : State) (n ctxid handle : Nat) (e : Ent) (c : Nat) : State :=
  let j := s.jobOf n ctxid handle e (senderWord s.devId (niEndpoint (c / 8)))
  let w0 := s.jobWord j 0
  let gen := (bits w0 31 0 + 1) % 2 ^ 32
  let full := j.fullNext || j.snaps.all (fun m => !m.sealed)
  let mhead := bits (s.jobWord j 1) 47 32
  let j := { j with snaps := Snap.new gen (if full then 0 else mhead) full :: j.snaps }
  let s := ({ s with jobs := s.jobs.put n j }).bindParts n j
  let s := (s.putGenCur j (bits w0 63 32) gen).putPhase j 1 none
  let s := ((s.tellJob j (monWord 6 j.parts)).tellJob j (monWord 8 (j.devmask % 2 ^ 32))).tellJob j (monWord 9 (j.devmask / 2 ^ 32))
  s.sendMarkers j c gen

/-! ## The cut of this device (R184, R186) -/

/-- The record of a core at the cut of the units that cut at once: its cluster's event unit, and the newest job of each of
its queues (R186). -/
def State.cutRecord (s : State) (c : Nat) : CoreCut :=
  let k := s.core c
  let cl := s.cluster (c / 8)
  { core := c, inst := k.inst, taken := false, lmem := Mem.empty, tiles := Mem.empty,
    image := { CoreImage.zero with
      line31 := k.line31, jobSeq0 := k.jobSeq0, jobSeq1 := k.jobSeq1, ctxs := (List.range 11).map (fun i => { k.ctx i with live := false }) },
    lines := cl.lines, bars := cl.bars, mutexes := cl.mutexes, units := [] }

/-- The cores of a job that run an instance. -/
def State.jobCores (s : State) (j : JobState) : List Nat :=
  (s.cores.filter (fun k => s.jobBlock j (k.1 / 64) && k.2.inst != 0)).map (fun k => k.1)

/-- The first unit of this device is about to take its cut: what the caches hold goes home with the old colour (log entry 12),
and the J pages written since the previous cut are listed (R188). The first call for a generation acts. -/
def State.beginCut (s : State) (n gen : Nat) : State :=
  match s.jobs.look n with
  | none => s
  | some j => match j.snaps.find? (fun m => m.gen == gen && !m.began) with
    | none => s
    | some m =>
      let ctxs := s.jobCtxs j
      let s := ctxs.foldl (fun s i => s.cleanAll i) s
      let now := firstPages (ctxs.flatMap (fun i => s.jPageList i)) []
      let isNew := fun (p : JPage) => match j.pages.find? (fun o => o.key == p.key) with
        | some o => o.written
        | none => true
      let listed := if m.full then now else now.filter isNew
      (s.modSnap n gen (fun m => { m with
        began := true, pages := listed.map (fun p => (⟨p.ctxid, p.handle, p.page, p.key, none, none, false⟩ : PageCut)) })).modJob n
          (fun j => { j with pages := now.map (fun p => { p with written := false }) })

/-- The dispatcher of partition `p` takes its cut (R186): it copies the saved images, and notes the tasks and the instances as
they stand, from which a rollback goes on (R192; log entry 121). -/
def State.cutDispatcher (s : State) (n gen p : Nat) : State :=
  let tasks : NMap Task := s.tasks.filter (fun t => t.2.part == p)
  let insts : NMap Inst := s.insts.filter (fun i => (tasks.look i.2.task).isSome)
  let saved := insts.filter (fun i => i.2.st == .saved)
  let s := s.modSnap n gen (fun m =>
    let new := saved.filter (fun i => !m.images.any (fun c => c.inst == i.1) && !m.cuts.any (fun q => q.inst == i.1))
    { m with
      dcuts := p :: m.dcuts, tasks := tasks.foldl (fun (l : NMap Task) t => NMap.put l t.1 t.2) m.tasks,
      insts := insts.foldl (fun (l : NMap Inst) i => NMap.put l i.1 i.2) m.insts,
      images := m.images ++ new.map (fun i => ⟨i.1, i.2.images.filterMap (fun k => (s.images.look k).map (fun _ => s.imageAt k)), none⟩) })
  saved.foldl (fun s i => s.post .backgroundCopy { Ev.zero with at_ := n, x := gen, y := i.1 }) s

/-- The lowest-numbered cluster of a partition: its dispatcher cuts with it (log entry 122). -/
def State.partCluster (s : State) (p : Nat) : Nat := 8 * ((searchUp (fun b => (s.part p).blocks.testBit b) 32 0).getD 0)

/-- The network interface, the event unit and the copy unit of a cluster take their cut, and its cores become cut-pending; a core
with no instance has nothing to cut (R184, R186; log entry 122). -/
def State.cutCluster (s : State) (n gen cl : Nat) : State :=
  let k := s.cluster cl
  if k.snapGen = gen then s
  else
    let fresh := (coresOf cl).filter (fun c => (s.core c).snapGen != gen)
    let busy := fresh.filter (fun c => (s.core c).inst != 0)
    let idle := fresh.filter (fun c => (s.core c).inst == 0)
    let cuts := busy.map s.cutRecord
    let insts := busy.filterMap (fun c => s.insts.look (s.core c).inst)
    let sent := (idle.map (fun c => (s.core c).sent)).sum
    let s := s.modSnap n gen (fun m => { m.count (niEndpoint cl) (k.sent + sent) k.recv with
      cuts := m.cuts ++ cuts, insts := insts.foldl (fun (l : NMap Inst) (i : Inst) => NMap.put l i.id i) m.insts })
    let s := s.modCluster cl (fun k => { k with sent := 0, recv := 0, snapGen := gen })
    let s := idle.foldl (fun s c => s.modCore c (fun k => { k with snapGen := gen, cutGen := gen, snapPhase := 2, sent := 0 })) s
    let s := busy.foldl (fun s c => s.modCore c (fun k => { k with
      snapPhase := 1, ctxs := k.ctxs.map (fun x => { x with cutDone := false }) })) s
    let p := s.partOfBlock (cl / 8)
    let s := if cl = s.partCluster p then s.cutDispatcher n gen p else s
    s.post .coreCut { Ev.zero with at_ := cl, x := 13 }

/-- The endpoint `ep` becomes cut-pending: the units that cut at once do (R184, R186). -/
def State.cutAt (s : State) (ep n gen : Nat) : State := match (s.jobs.look n).bind (fun j => j.current) with
  | none => s
  | some m =>
    if m.gen ≠ gen then s
    else if isSlice ep then (s.beginCut n gen).cutSlice n gen (epSlice ep)
    else match niOf ep with
      | some cl => (s.beginCut n gen).cutCluster n gen cl
      | none => s

/-- The job and the generation whose cut core `c` is to take. -/
def State.pendingCut (s : State) (c : Nat) : Option (Nat × Snap) := s.snapOfBlock (c / 64)

/-! ## The tree of replies (R189) -/

/-- Whether an endpoint has taken its cut; a cluster has when all its cores have. -/
def State.unitDone (s : State) (m : Snap) (ep : Nat) : Bool :=
  if isSlice ep then (s.slice (epSlice ep)).snapGen == m.gen
  else match niOf ep with
    | some cl => (s.cluster cl).snapGen == m.gen && m.cuts.all (fun q => q.core / 8 != cl || q.taken)
    | none => false

/-- The network interface that gathers the replies of a block. -/
def blockNode (b : Nat) : Nat := niEndpoint (8 * b)

/-- The children of a node: the endpoints of its block; at the lowest block of a die, the nodes of the die's other blocks; at the
lowest block of the device, the nodes of the other dies (R189). -/
def State.treeChildren (s : State) (j : JobState) (ep : Nat) : List Nat :=
  let bs := s.jobBlocks j
  match niOf ep with
  | none => []
  | some cl =>
    let b := cl / 8
    if cl % 8 ≠ 0 ∨ !bs.contains b then []
    else
      let own := (List.range 8).flatMap (fun i => [niEndpoint (8 * b + i), sliceEndpoint (8 * b + i)])
      let lowest := bs.all (fun x => x / 8 != b / 8 || b ≤ x)
      let mates := if lowest then (bs.filter (fun x => x / 8 == b / 8 && x != b)).map blockNode else []
      let leads := bs.filter (fun x => x / 8 != b / 8 && bs.all (fun y => y / 8 != x / 8 || x ≤ y))
      own ++ mates ++ (if bs.head? = some b then leads.map blockNode else [])

/-- The node above another node of the tree. -/
def State.treeParent (s : State) (j : JobState) (ep : Nat) : Nat :=
  let bs := s.jobBlocks j
  let b := ((niOf ep).getD 0) / 8
  match bs.find? (fun x => x / 8 == b / 8) with
  | some d => if d = b then blockNode (bs.headD 0) else blockNode d
  | none => ep

/-- A reply on its way up the tree, or to the initiator. -/
def creplyMsg (s : State) (j : JobState) (ddev dep sep gen sent recv : Nat) : Msg :=
  mkMsg ddev dep s.devId sep 3 0x73 j.handle (j.partList.getD 0 0) (parity gen) [word (sent % 2 ^ 32 * 2 ^ 32 + recv % 2 ^ 32)]

/-- 8 µs in fabric cycles. -/
def us8 : Nat := 15040

/-- The totals of a device reach the initiator (R189): when every device has answered, equal totals end the counting, and unequal
ones start the polls. -/
def State.noteDevice (s : State) (n gen dev sent recv : Nat) : State :=
  let s := s.modSnap n gen (fun m => { m with replies := m.replies.put dev (sent, recv) })
  match s.jobs.look n with
  | none => s
  | some j => match j.current with
    | none => s
    | some m =>
      if m.gen ≠ gen ∨ !(onesOf j.devmask 64).all (fun d => (m.replies.look d).isSome) then s
      else
        let sent : Nat := (m.replies.map (fun (r : Nat × Nat × Nat) => r.2.1)).sum % 2 ^ 32
        let recv : Nat := (m.replies.map (fun (r : Nat × Nat × Nat) => r.2.2)).sum % 2 ^ 32
        if sent = recv then
          let s := (s.putPhase j 3 none).modJob n (fun j => { j with pollAt := 0 })
          ((s.modSnap n gen (fun m => { m with sent := sent })).tellJob j (monWord 7 gen)).post .snapshotSeal { Ev.zero with at_ := n, x := gen }
        else if j.pollAt = 0 then (s.putPhase j 2 none).modJob n (fun j => { j with pollAt := s.clk + us8 })
        else s

/-- A child's reply reaches a node of the tree; when all have come, the node passes their sum on (R189). -/
def State.noteChild (s : State) (n gen node child sent recv : Nat) : State :=
  let s := s.modSnap n gen (fun m => { m with tree := m.tree.put (node * 4096 + child) (sent, recv) })
  match s.jobs.look n with
  | none => s
  | some j => match j.current with
    | none => s
    | some m =>
      let replies := (s.treeChildren j node).map (fun c => m.tree.look (node * 4096 + c))
      if m.gen ≠ gen ∨ replies.any Option.isNone then s
      else
        let sum := fun (f : Nat × Nat → Nat) => ((replies.filterMap id).map f).sum % 2 ^ 32
        let (a, b) := (sum (fun r => r.1), sum (fun r => r.2))
        let up := s.treeParent j node
        if up ≠ node then s.inject (creplyMsg s j s.devId up node gen a b)
        else if s.initiates j ∧ j.home % 4096 = node then s.noteDevice n gen s.devId a b
        else s.inject (creplyMsg s j (j.home / 4096) (j.home % 4096) node gen a b)

/-- An endpoint that has taken its cut replies with its counts of the moment (R189). -/
def State.replyUnit (s : State) (n : Nat) (m : Snap) (ep : Nat) : State :=
  match s.jobs.look n with
  | none => s
  | some j =>
    if !s.unitDone m ep then s
    else
      let r := m.counts.get ep (0, 0)
      let node := ep / 64 * 64
      if node = ep then s.noteChild n m.gen node ep r.1 r.2
      else s.inject (creplyMsg s j s.devId node ep m.gen r.1 r.2)

/-- A count poll at a node or an endpoint (R189): a node polls its children. -/
def State.pollAtEp (s : State) (n ep : Nat) : State :=
  match s.jobs.look n with
  | none => s
  | some j => match j.current with
    | none => s
    | some m =>
      let cs := s.treeChildren j ep
      if cs.isEmpty then s.replyUnit n m ep
      else
        let s := s.modSnap n m.gen (fun m => { m with tree := m.tree.filter (fun (x : Nat × Nat × Nat) => x.1 / 4096 != ep) })
        cs.foldl (fun s c => if c = ep then s.replyUnit n m ep
          else s.inject (mkMsg s.devId c s.devId ep 3 0x74 j.handle (j.partList.getD 0 0) (parity m.gen) [word m.gen])) s

/-- Fail a generation in progress (R190): the event that ends it is due. -/
def State.failSnap (s : State) (n gen cause : Nat) : State :=
  s.post .snapshotFail { Ev.zero with at_ := n, x := gen, y := cause }

/-! ## The store (R188, R190) -/

/-- The bytes of a copy-on-write unit: a granule, or a tile. -/
def unitSize (u : Nat) : Nat := if u < 256 then 1024 else 65536

/-- The bytes that the copy of a saved image takes: the tiles and the local memory. -/
def savedSize : Nat := 0xC0000

/-- The copies of granules, tiles and saved images fill the store from its end downwards (log entry 123): the bytes they take. -/
def JobState.unitEnd (j : JobState) : Nat :=
  ((j.snaps.filter (fun m => m.failed == 0)).map (fun m =>
    (m.cuts.map (fun q => (q.units.map (fun u => if u.2.isSome then unitSize u.1 else 0)).sum)).sum +
      (m.images.map (fun c => if c.offset.isSome then savedSize * c.images.length else 0)).sum)).sum

/-- The store object of a job: its owner's entry STORE. -/
def State.jobStore (s : State) (j : JobState) : Option Ent := s.liveEnt j.owner (bits (s.jobWord j 1) 63 48)

/-- Copy bytes into the store object of a job (R188); none when it cannot hold them. On a device that does not hold the store the
copies stay in the device (log entry 124). -/
def State.storeCopy (s : State) (j : JobState) (off n : Nat) (m : Mem) : Option State :=
  if !s.initiates j then some s
  else match s.jobStore j with
    | none => none
    | some e => if e.len < off + n + j.unitEnd then none else some (s.devWrite j.owner (bits (s.jobWord j 1) 63 48) off (m.getRange 0 n))

/-- The place of `n` bytes below the copies that end the store; none when they would meet the pages. -/
def State.unitPlace (s : State) (j : JobState) (n : Nat) : Option Nat :=
  if !s.initiates j then some 0
  else match s.jobStore j with
    | none => none
    | some e => if e.len < j.unitEnd + n + j.storeEnd then none else some (e.len - j.unitEnd - n)

/-- Write bytes into the store at a place that fits. -/
def State.storePut (s : State) (j : JobState) (off : Nat) (bs : List Byte) : State :=
  if s.initiates j then s.devWrite j.owner (bits (s.jobWord j 1) 63 48) off bs else s

/-- A copy could not be made: the generation fails, if it is still in progress (R190). -/
def State.copyFails (s : State) (n gen cause : Nat) : State := match (s.jobs.look n).bind (fun j => j.current) with
  | some m => if m.gen = gen then s.failSnap n gen cause else s
  | none => s

/-- R188: the recorded copies of a page are written to the store; poison in one fails the generation, and so does a store that
cannot hold it (R190). -/
def State.storePage (s : State) (page : Nat) : State :=
  s.jobs.foldl (fun s (k : Nat × JobState) =>
    (k.2.snaps.flatMap (fun m => if m.failed = 0 then (m.pages.filter (fun p => p.key == page && !p.stored)).map (fun p => (m.gen, p)) else [])).foldl
      (fun s (q : Nat × PageCut) => match q.2.bytes, q.2.offset with
        | some b, some o =>
          if b.poisoned 0 65536 then s.copyFails k.1 q.1 2
          else match s.storeCopy ((s.jobs.look k.1).getD k.2) o 65536 b with
            | none => s.copyFails k.1 q.1 1
            | some s => s.modSnap k.1 q.1 (fun m => { m with
                pages := m.pages.map (fun p => if p.key = page then { p with stored := true } else p) })
        | _, _ => s) s) s

/-- R188: unit `u` of core `c` as it was at its cut is copied to the store; a crossing write has it written again where it stands. -/
def State.storeUnit (s : State) (n gen c u : Nat) : State :=
  match (s.jobs.look n).bind (fun j => (j.snaps.find? (fun m => m.gen == gen)).map (fun m => (j, m))) with
  | none => s
  | some (j, m) => match m.cuts.find? (fun q => q.core == c) with
    | none => s
    | some q => match ((q.units.find? (fun x => x.1 == u)).bind (fun x => x.2)).orElse (fun _ => s.unitPlace j (unitSize u)) with
      | none => s.copyFails n gen 1
      | some o =>
        let bs := if u < 256 then q.lmem.getRange (u * 1024) 1024 else q.tiles.getRange ((u - 256) * 65536) 65536
        (s.storePut j o bs).modSnap n gen (fun m => { m with cuts := m.cuts.map (fun q =>
          if q.core = c then { q with units := q.units.map (fun x => if x.1 = u then (u, some o) else x) } else q) })

/-- R186: the dispatcher's copy of a saved instance is written to the store: for each core, the tiles, then the local memory. -/
def State.storeSaved (s : State) (n gen inst : Nat) : State :=
  match (s.jobs.look n).bind (fun j => (j.snaps.find? (fun m => m.gen == gen)).map (fun m => (j, m))) with
  | none => s
  | some (j, m) => match m.images.find? (fun c => c.inst == inst && c.offset.isNone) with
    | none => s
    | some c => match s.unitPlace j (savedSize * c.images.length) with
      | none => s.copyFails n gen 1
      | some o =>
        let s := c.images.zipIdx.foldl (fun s (p : CoreImage × Nat) =>
          s.storePut j (o + savedSize * p.2) (p.1.tiles.getRange 0 0x80000 ++ p.1.lmem.getRange 0 0x40000)) s
        s.modSnap n gen (fun m => { m with images := m.images.map (fun x => if x.inst = inst then { x with offset := some o } else x) })

/-- Whether the copy of a saved instance is still to be made: a resume waits for it (R186). -/
def State.imageCopying (s : State) (inst : Nat) : Bool :=
  s.jobs.any (fun j => j.2.snaps.any (fun m => m.failed == 0 && !m.sealed && m.images.any (fun c => c.inst == inst && c.offset.isNone)))

/-! ## The cut of a core (R186, R187) -/

/-- The local memory of a core at its cut (R187): what the granules of arriving writes had copied, and the live content of
the others. -/
def State.cutLmem (s : State) (c : Nat) : Mem :=
  let k := s.core c
  k.cowGran.foldl (fun m g => m.copyRange (g * 1024) k.cowLmem (g * 1024) 1024)
    (Mem.empty.copyRange 0 s.lmem (lkey c 0) 0x40000)

/-- Core `c` completes its cut (R186): queued stores leave with the old colour, the frames are written back, the tiles and
the local memory are recorded; the granules that arriving writes have copied go to the store. -/
def State.finishCut (s : State) (c : Nat) : State :=
  match s.pendingCut c with
  | none => s.modCore c (fun k => { k with snapPhase := 0, cowGran := [], cowLmem := Mem.empty })
  | some (n, m) =>
    let s := (s.drain c).writeBackAll c
    let k := s.core c
    let lm := s.cutLmem c
    let ti := Mem.empty.copyRange 0 s.tiles (rowKey c 0 0) (8 * 128 * 512)
    let slots := s.heldSlots c
    let bad := lm.poisoned 0 0x40000 || ti.poisoned 0 0x80000
    let s := s.modSnap n m.gen (fun m => { m.count (niEndpoint (c / 8)) k.sent 0 with
      cuts := m.cuts.map (fun q => if q.core = c then { q with
        taken := true, lmem := lm, tiles := ti,
        image := { q.image with
          lqst := k.lqst, lweight := k.lweight, gangIdx := k.gangIdx, sstepn := k.sstepn,
          sstepG := k.sstepG, stepRec := k.stepRec, stepNew := k.stepNew, rollable := k.rollable, code := k.code, plan := k.plan,
          slots := slots, ended := k.ended } } else q) })
    let s := s.modCore c (fun x => { x with
      snapPhase := 2, snapGen := m.gen, cutGen := m.gen, sent := 0, cowGran := [], cowLmem := Mem.empty,
      ctxs := x.ctxs.map (fun y => { y with cutDone := false }) })
    let s := if bad then s.failSnap n m.gen 2 else s
    let s := k.cowGran.foldl (fun s g => s.cowUnit c g) s
    match s.pendingCut c with
    | some (n, m) => s.replyUnit n m (niEndpoint (c / 8))
    | none => s

/-- Whether a core has nothing more to wait for before its cut: every live context has taken it, and the lattice queue is
drained (R186). -/
def Core.cutReady (k : Core) : Bool :=
  k.snapPhase == 1 && k.latticeIdle && k.ctxs.all (fun x => !x.live || x.cutDone)

/-- The same, and no stage that its write queue goes on to is being reshaped (R173). -/
def State.cutReady (s : State) (c : Nat) : Bool := (s.core c).cutReady && (s.queueShut c (fun _ => true)).isNone

/-- A context takes the cut at a region entry (R186). Number 11 is no context: the core looks again whether its cut is
complete. -/
def State.cutCtx (s : State) (c i : Nat) : State :=
  match s.pendingCut c with
  | none => s
  | some (n, m) =>
    let s := if i < 11 ∧ (s.core c).snapPhase = 1 then
        let x := s.ctx c i
        let entry := { x with pc := x.rgnpc, rgnskip := 0, cutDone := false }
        (s.modSnap n m.gen (fun m => { m with cuts := m.cuts.map (fun q =>
          if q.core = c then { q with image := { q.image with ctxs := listSet q.image.ctxs i entry } } else q) })).modCtx c i
            (fun x => { x with cutDone := true })
      else s
    if s.cutReady c then s.finishCut c else s

/-! ## The manifest (R191, R417) -/

/-- A core record of a manifest: 480 words (R191). -/
def CoreCut.words (q : CoreCut) (dev store : Nat) : List Word :=
  let newest := fun (seq queue : Nat) => word (q.core % 8 * 2 ^ 29 + queue * 2 ^ 28 + (seq + 2 ^ 28 - 1) % 2 ^ 28)
  let lines := (List.range 31).map (fun i => (q.lines.get i ELine.zero).word) ++ [q.image.line31.word]
  let bars := (List.range 16).map (fun i => (q.bars.get i EBar.zero).word)
  let cfgs := (List.range 16).map (fun i => word (q.bars.get i EBar.zero).need)
  let muts := (List.range 16).map (fun i => (q.mutexes.get i Mutex.zero).word)
  padWords 8 [word q.core, word dev, word (bits q.image.lqst 7 7), q.image.lweight, q.image.liveWord, word store] ++
    padWords 8 [newest q.image.jobSeq0 0, newest q.image.jobSeq1 1] ++ padWords 112 (lines ++ bars ++ muts ++ cfgs) ++
    q.image.ctxs.flatMap (fun x => if x.live then x.record else List.replicate 32 0)

/-- A page entry of a manifest (R191). -/
def PageCut.words (p : PageCut) (dev : Nat) : List Word :=
  [word (dev * 2 ^ 48 + p.offset.getD 0), word (p.handle * 2 ^ 48 + p.ctxid * 2 ^ 32 + p.page)]

/-- A channel-log entry (R417). -/
def LogEntry.image (l : LogEntry) : List Word :=
  padWords 8 [word (l.ctxid * 2 ^ 48 + l.sender % 4096 * 2 ^ 32 + l.sender / 4096 * 2 ^ 16 + l.queue)] ++ padWords 8 l.words

/-- What a device gives to the manifest: how many core records, pages and log entries, and their words. -/
structure SnapPart where
  cores : Nat
  pages : Nat
  logs  : Nat
  coreW : List Word
  pageW : List Word
  logW  : List Word
  deriving DecidableEq, Repr

/-- The part of this device (R191). -/
def Snap.part (m : Snap) (dev store : Nat) : SnapPart :=
  ⟨m.cuts.length, m.pages.length, m.log.length, m.cuts.flatMap (fun c => c.words dev store), m.pages.flatMap (fun p => p.words dev),
    m.log.flatMap (fun l => l.image)⟩

/-- The half words in which a device sends its part, page offsets left open: two words of counts, then the three sections. -/
def SnapPart.halves (p : SnapPart) : List Nat :=
  ([word (p.cores * 2 ^ 32 + p.pages), word p.logs] ++ p.coreW ++ p.pageW ++ p.logW).flatMap (fun w => [bits w 31 0, bits w 63 32])

/-- Word `i` of what another device has sent. -/
def partWord (h : NMap Nat) (i : Nat) : Nat := h.get (2 * i) 0 + 2 ^ 32 * h.get (2 * i + 1) 0

/-- The words that a part has, by its two words of counts. -/
def partLength (h : NMap Nat) : Nat :=
  2 + 480 * (partWord h 0 / 2 ^ 32) + 2 * (partWord h 0 % 2 ^ 32) + 16 * partWord h 1

/-- Whether all of another device's part has come. -/
def partWhole (h : NMap Nat) : Bool :=
  [0, 1, 2, 3].all (fun i => (h.look i).isSome) && h.length == 2 * partLength h

/-- The part that another device has sent; its pages stand in the store from `base` on. -/
def partOf (h : NMap Nat) (base : Nat) : SnapPart :=
  let c := partWord h 0 / 2 ^ 32
  let p := partWord h 0 % 2 ^ 32
  let l := partWord h 1
  let ws := fun (from_ n : Nat) => (List.range n).map (fun i => word (partWord h (from_ + i)))
  ⟨c, p, l, ws 2 (480 * c),
    (List.range p).flatMap (fun i => [word (partWord h (2 + 480 * c + 2 * i) + base + 65536 * i), word (partWord h (2 + 480 * c + 2 * i + 1))]),
    ws (2 + 480 * c + 2 * p) (16 * l)⟩

/-- The parts of the other devices of a job, their pages placed one device after the other from `base` on; the end of the pages. -/
def Snap.otherParts (m : Snap) (devs : List Nat) (base : Nat) : List SnapPart × Nat :=
  devs.foldl (fun (r : List SnapPart × Nat) d =>
    let p := partOf (m.others.get d []) r.2
    (r.1 ++ [p], r.2 + 65536 * p.pages)) ([], base)

/-- The words of a manifest (R191). -/
def Snap.words (m : Snap) (ps : List SnapPart) (status : Nat) : List Word :=
  let sum := fun (f : SnapPart → Nat) => (ps.map f).sum
  [word (m.gen * 2 ^ 32 + m.prev * 65536 + b2n m.full * 2 + status), word (sum (fun p => p.cores) * 2 ^ 32 + sum (fun p => p.pages)),
    word (sum (fun p => p.logs)), word m.sent, 0, 0, 0, 0] ++ ps.flatMap (fun p => p.coreW) ++ ps.flatMap (fun p => p.pageW) ++
    ps.flatMap (fun p => p.logW)

/-- The other devices of a job. -/
def State.jobOthers (s : State) (j : JobState) : List Nat := (onesOf j.devmask 64).filter (fun d => d != s.devId)

/-- Write a manifest into the lowest free entry of the owner's table (R417): its index, or none when there is no entry or
the charge fails. -/
def State.writeManifest (s : State) (j : JobState) (m : Snap) (status : Nat) : Option (Nat × State) :=
  let store := bits (s.jobWord j 1) 63 48
  let ws := m.words (m.part s.devId store :: (m.otherParts (s.jobOthers j) j.storeEnd).1) status
  let len := 8 * ws.length
  match s.liveEnt j.owner store, s.freeEntry j.owner with
  | some st, some i => match s.ent j.owner i, s.charge j.owner st.acct st.tier (ceilDiv len 65536) with
    | some old, .ok t =>
      let (e, t) := t.makeObject j.owner i old.key ((old.gen + 1) % 65536) len 1 st.die st.tier 0 st.acct
      some (i, (t.putEnt e).devWrite j.owner i 0 (wordsBytes ws))
    | _, _ => none
  | _, _ => none

/-- SNAP_NOTICE and the like to every supervisor of a job on this device (R189, R190, R192). -/
def State.noticeJob (s : State) (j : JobState) (cause : Nat) (eval : Word) : State :=
  (s.jobCtxs j).foldl (fun s i => s.notice i cause eval 0xFFFF 0) s

/-- A snapshot is over on this device: no core is cut-pending, SNAPGEN.PHASE is 0 (R182), and every endpoint has the colour of the
generation, also one that took no cut (R190). -/
def State.leaveSnap (s : State) (j : JobState) (gen : Nat) : State :=
  let us := s.jobUnits j
  let s := us.foldl (fun s u =>
    let s := if (s.cluster u).snapGen = gen then s else s.modCluster u (fun k => { k with sent := 0, recv := 0, snapGen := gen })
    if (s.slice u).snapGen = gen then s else s.modSlice u (fun k => { k with sent := 0, recv := 0, snapGen := gen })) s
  (us.flatMap coresOf).foldl (fun s c => s.modCore c (fun k => { k with
    snapPhase := 0, snapGen := gen, cowGran := [], cowLmem := Mem.empty, sent := if k.snapGen = gen then k.sent else 0,
    ctxs := k.ctxs.map (fun x => { x with cutDone := false }) })) s

/-- Packets that wait for a generation complete (R67). -/
def State.snapDone (s : State) (n gen : Nat) (failed : Bool) : State :=
  match s.jobs.look n with
  | none => s
  | some j =>
    let s := j.waiters.foldl (fun s w => s.post .packetComplete { Ev.zero with
      at_ := w.1, x := w.2, y := if failed then 6 else 0, z := if failed then Cause.snapNotice + 256 * j.lastFail else gen }) s
    s.modJob n (fun j => { j with waiters := [] })

/-- The pages that are not copied yet get the next offsets of the store, in the order of the list. -/
def placePages : List PageCut → Nat → List PageCut
  | [], _ => []
  | p :: t, o => match p.offset with
    | some _ => p :: placePages t o
    | none => { p with offset := some o } :: placePages t (o + 65536)

/-- The store holds every copy of a job's generations. -/
def State.storeFits (s : State) (j : JobState) : Bool := match s.liveEnt j.owner (bits (s.jobWord j 1) 63 48) with
  | none => false
  | some e => j.storeEnd + j.unitEnd ≤ e.len

/-- An uncorrectable error stands in a copy of a page, or in a page that is still to be copied (R190). -/
def State.copyBad (s : State) (m : Snap) : Bool := m.pages.any (fun p => match p.bytes with
  | some b => b.poisoned 0 65536
  | none => s.mem.poisoned p.key 65536)

/-- The seal of a generation (R189): the manifest, GEN, MHEAD, PHASE and the notice; on another device than the
initiator's, the end of the logging. -/
def State.sealSnap (s : State) (n gen : Nat) : State :=
  match s.jobs.look n with
  | none => s
  | some j => match j.snaps.find? (fun m => m.gen == gen && !m.sealed && m.failed == 0) with
    | none => s
    | some m =>
      if !s.initiates j then
        (((s.modSnap n gen (fun m => { m with sealed := true })).leaveSnap j gen).noticeJob j Cause.snapNotice (word gen)).post
          .backgroundCopy { Ev.zero with at_ := n, x := gen }
      else if (s.jobOthers j).any (fun d => !partWhole (m.others.get d [])) then s
      else
        let m := { m with pages := placePages m.pages j.storeEnd }
        let s := s.modSnap n gen (fun _ => m)
        let j := (s.jobs.look n).getD j
        let extra := (m.otherParts (s.jobOthers j) j.storeEnd).2
        if s.copyBad m then s.failSnap n gen 2
        else if !s.storeFits { j with snaps := { m with extra := extra } :: j.snaps } then s.failSnap n gen 1
        else match s.writeManifest j m 0 with
        | none => s.failSnap n gen 1
        | some (i, s) =>
          let s := s.modSnap n gen (fun m => { m with sealed := true, manifest := i, extra := extra })
          let s := s.modJob n (fun j => { j with fullNext := false })
          let s := (s.putGenCur j gen gen).putPhase j 0 (some i)
          let s := ((s.leaveSnap j gen).noticeJob j Cause.snapNotice (word gen)).snapDone n gen false
          s.post .backgroundCopy { Ev.zero with at_ := n, x := gen }

/-- The failure of a generation (R190). -/
def State.failGen (s : State) (n gen cause : Nat) : State :=
  match s.jobs.look n with
  | none => s
  | some j => match j.snaps.find? (fun m => m.gen == gen && !m.sealed && m.failed == 0) with
    | none => s
    | some m =>
      let s := s.modSnap n gen (fun m => { m with failed := cause })
      let s := s.modJob n (fun j => { j with
        lastFail := cause,
        -- what the failed generation listed is still to be listed by the next
        pages := j.pages.map (fun p => if m.pages.any (fun q => q.key == p.key) then { p with written := true } else p) })
      let s := if s.initiates j then
          (match s.writeManifest j m 1 with
            | some (i, s) => s.modSnap n gen (fun m => { m with manifest := i })
            | none => s).putPhase j 0 none
        else s
      ((s.leaveSnap j gen).noticeJob j Cause.snapNotice (word (cause * 2 ^ 32 + gen))).snapDone n gen true

/-! ## The frames of a record -/

/-- The registers of a frame as they lie in local memory. -/
def frameRegs (m : Mem) (i : Nat) : Vector Word 32 := Vector.ofFn (fun r =>
  if r.val = 0 then 0 else word (m.getLE (frameBase + 256 * i + 8 * r.val) 8))

/-- A core with nothing on it: what it counts and numbers goes on. -/
def Core.released (k : Core) : Core :=
  { Core.idle with
    task := k.task, lseq := k.lseq, nextTag := k.nextTag, snapGen := k.snapGen, cutGen := k.cutGen,
    snapPhase := if k.snapPhase = 2 then 2 else 0, sent := k.sent, recv := k.recv, jobSeq0 := k.jobSeq0, jobSeq1 := k.jobSeq1,
    holder := k.holder }

/-- A core's copy jobs are gone. -/
def State.clearCore (s : State) (c : Nat) : State :=
  let qs := [jobQueue c 0, jobQueue c 1]
  s.modCluster (c / 8) (fun k => { k with jobs := k.jobs.filter (fun q => !qs.contains q.1) })

/-- A core whose queue is emptied wins no rewiring of its cluster any more (R151). -/
def State.dropWinner (s : State) (c : Nat) : State :=
  s.modCluster (c / 8) (fun k => if k.rewire.any (fun w => w.1 == c) then { k with rewire := none } else k)

/-- The cores of an instance have no task. -/
def State.freeCores (s : State) (cores : List Nat) : State :=
  cores.foldl (fun s c => ((s.clearCore c).dropWinner c).modCore c Core.released) s

end Sys2Proof.Machine
end

