-- ==== Sys2Proof/Machine/Recovery.lean ====
section
/-! DEFINITION. Supersteps and snapshots: major 0x22 (R298 to R301). -/

namespace Sys2Proof.Machine

/-- A privileged instruction below its level (R225, R227 step 7). -/
def privileged (i : Instr) : M Unit := do
  let s ← get
  trapIf (!s.curCtx.sup) Cause.illPriv (wordEval i 0)

/-! ## Supersteps -/

/-- GBAR of a plan (R298). -/
def Core.gbar (k : Core) : Nat := bits (k.plan.getD 0 0) 47 32

/-- The gang barrier of the core that issues: its entry and home (R298, R299). -/
def gangBarrier : M (Ent × Home) := do
  let s ← get
  let ctxid := s.ctxidOf s.cur.1
  let i := s.curCore.gbar
  trapIf (i == 0) Cause.hInvalid (detEval 0 6)
  match s.liveEnt ctxid i, s.objHome ctxid i with
  | some e, some h => pure (e, h)
  | _, _ => trap Cause.hInvalid (hEval i 0)

/-- The oldest deferred cause of the context is delivered at an `sstep` (R299 step 1, R349). -/
def deliverAny : M Unit := do
  let s ← get
  match s.curCtx.deferred with
  | [] => pure ()
  | d :: t =>
    modify (fun s => s.modCur (fun x => { x with deferred := t }))
    throw (.trap d.cause d.eval 1 d.preason)

/-- R299 `sstep`. -/
def execSstep (s : State) : Outcome :=
  runInstr (do
    endBlock
    let (e, home) ← gangBarrier
    remoteSettled
    let s1 ← get
    waitIf (!s1.curCore.latticeIdle) .latticeEmpty
    deliverAny
    releaseAt (s1.obar home).scope
    modify (fun s =>
      let s := s.writeBackAll s.cur.1
      s.modCurCore (fun k => { k with stepNew := true }))
    let s2 ← get
    arriveObject e home s2.curCore.sstepG 0 true true) s

/-! ## Snapshots -/

/-- A job object through a handle register, with the J right (R300). -/
def jobAccess (h : BitVec 4) : M (Acc × JobState × Nat) := do
  trapIf (h == 0) Cause.hInvalid (detEval 0 3)
  tablesCurrent
  let s ← get
  let ctxid := s.ctxidOf s.cur.1
  let e ← ofCheck (s.checkLive ctxid (s.hreg h.toNat) 0)
  trapIf (e.fmt == 15) Cause.hInvalid (detEval e.index 3)
  let a ← checkHandle (s.hreg h.toNat) 0 ⟨[rJ], 64, false, 0, false, .read⟩
  let t ← get
  let n := jobNo (a.homeAt 0)
  pure (a, t.jobOf n ctxid e.index e (senderWord t.devId (niEndpoint (t.cur.1 / 8))), n)

/-- R300 `snap`. The core that executes it is cut-pending as it retires (R414). -/
def execSnap (d : BitVec 5) (h : BitVec 4) (s : State) : Outcome :=
  runInstr (do
    endBlock
    let (a, j, n) ← jobAccess h
    trapIf (!j.devmask.testBit s.devId) Cause.hInvalid (detEval a.ent.index 8)
    let t ← get
    let cur := bits (t.jobWord j 0) 31 0
    if bits (t.jobWord j 1) 1 0 = 0 then do
      let c := t.cur.1
      modify (fun s => s.startSnap n j.ctxid j.handle a.ent c)
      writeX d (word (2 ^ 32 + (cur + 1) % 2 ^ 32))
      modify (fun s => match s.pendingCut c with
        | some (n, m) => s.cutAt (niEndpoint (c / 8)) n m.gen
        | none => s)
    else writeX d (word cur)
    commitInstr false) s

/-- R300 `snapst`. -/
def execSnapst (d : BitVec 5) (q : BitVec 2) (h : BitVec 4) (s : State) : Outcome :=
  runInstr (do
    trapIf (2 ≤ q.toNat) Cause.illRsv (wordEval (.snapst d q h) 0)
    let (_, j, n) ← jobAccess h
    let t ← get
    let w1 := t.jobWord j 1
    let fail := match t.jobs.look n with
      | some k => k.lastFail
      | none => 0
    writeX d (if q = 0 then t.jobWord j 0 else word (bits w1 47 32 * 2 ^ 48 + fail * 16 + bits w1 1 0))
    retire) s

/-- A rollback begins: the other devices are told (log entry 17), this one performs it next; the context that asked for it is
noted with the devices that it waits for (R301). -/
def State.startRollback (s : State) (n : Nat) (j : JobState) (caller g : Nat) : State :=
  let s := s.modJob n (fun k => { k with roll := some (caller, g, j.devmask ||| 2 ^ s.devId) })
  (s.tellJob j (monWord 2 g)).post .jobRollbackRequest { Ev.zero with at_ := n, x := g, y := s.devId }

/-- The sealed generations on the chain of manifests from one on: each names the one before it (R191, R301). -/
def manifestChain (snaps : List Snap) : Nat → Nat → List Nat
  | 0, _ => []
  | n + 1, i => if i = 0 then [] else match snaps.find? (fun m => m.sealed && m.manifest == i) with
    | some m => m.gen :: manifestChain snaps n m.prev
    | none => []

/-- Whether a generation can be rolled back to: it is on the chain from MHEAD; another device than the initiator's, which holds no
manifest, knows only that it is sealed (R301; log entry 124). -/
def State.onChain (s : State) (j : JobState) (g : Nat) : Bool :=
  if s.initiates j then (manifestChain j.snaps j.snaps.length (bits (s.jobWord j 1) 47 32)).contains g
  else j.snaps.any (fun m => m.sealed && m.gen == g)

/-- R301 `rollbk`. Inside the job it does not return: the context is among those that R192 resumes. Outside, it retires when every
device has reached step 6. -/
def execRollbk (a : BitVec 5) (h : BitVec 4) (s : State) : Outcome :=
  runInstr (do
    let i : Instr := .rollbk a h
    privileged i
    needZeroA i (s.x a) 31
    let (acc, j, n) ← jobAccess h
    let g := bits (s.x a) 31 0
    let t ← get
    let me := t.cur.1 * 16 + t.cur.2
    let old := (t.jobs.look n).getD j
    if old.roll = some (me, g, 0) then do
      modify (fun s => s.modJob n (fun j => { j with roll := none }))
      retire
    else do
      waitIf (old.roll.any (fun r => r.2.2 != 0)) .restart
      trapIf (!t.onChain old g) Cause.hInvalid (detEval acc.ent.index 7)
      modify (fun s => s.startRollback n j me g)
      waitFor .restart) s

end Sys2Proof.Machine
end

