-- ==== Sys2Proof/Machine/Shake.lean ====
section
/-! DEFINITION. SHAKE256 with a digest of 512 bits, the function that R71, R81 and R82 name (FIPS 202). The sponge is a list of 25
lanes, row by row; nothing of it is a table: the rotations come from the walk over the sheet, the round constants from their shift
register, which runs on from round to round. -/

namespace Sys2Proof.Machine

/-- A row of lanes turned left by `n` places. -/
def turned (n : Nat) (row : List Word) : List Word := row.drop n ++ row.take n

/-- The exclusive or of two lists of lanes. -/
def laneXor (p q : List Word) : List Word := List.zipWith (fun x y => x ^^^ y) p q

/-- The five rows of a sponge. -/
def spongeRows (s : List Word) : List (List Word) := chunksOf 5 5 s

/-- Each lane is changed by the parity of the column before it and by that of the column after it, turned by one bit. -/
def mixColumns (s : List Word) : List Word :=
  let parity := (spongeRows s).foldl laneXor (List.replicate 5 0)
  let change := laneXor (turned 4 parity) ((turned 1 parity).map (fun w => w.rotateLeft 1))
  (spongeRows s).flatMap (laneXor change)

/-- The walk over the sheet from column `x`, row `y`, with `left` lanes to go: the lane passed as the n-th is turned by
1 + 2 + … + n bits and put down where the walk goes next. -/
def walkLanes (s : List Word) : Nat → Nat → Nat → List Word → List Word
  | 0, _, _, out => out
  | left + 1, x, y, out =>
    let n := 24 - left
    let down := (2 * x + 3 * y) % 5
    walkLanes s left y down (listSet out (y + 5 * down) ((s.getD (x + 5 * y) 0).rotateLeft (n * (n + 1) / 2 % 64)))

/-- Each lane of a row is changed where the next one is clear and the one after it is set. -/
def mixRow (row : List Word) : List Word :=
  laneXor row (List.zipWith (fun p q => ~~~p &&& q) (turned 1 row) (turned 2 row))

/-- The shift register of the round constants moves on by one bit. -/
def registerNext (r : Nat) : Nat := if r < 128 then 2 * r else (2 * r) ^^^ 0x171

/-- The constant of a round, from the register: its next seven bits stand at the places 2^j − 1; with the register after it. -/
def roundBits (r : Nat) : Word × Nat :=
  (List.range 7).foldl (fun (c : Word × Nat) j => (c.1 ||| word (c.2 % 2 * 2 ^ (2 ^ j - 1)), registerNext c.2)) (0, r)

/-- One round of the permutation, with the register of the constants. -/
def spongeRound (c : List Word × Nat) : List Word × Nat :=
  let m := mixColumns c.1
  let k := roundBits c.2
  match (spongeRows (walkLanes m 24 1 0 m)).flatMap mixRow with
  | [] => ([], k.2)
  | first :: rest => ((first ^^^ k.1) :: rest, k.2)

/-- The 24 rounds. -/
def permute (s : List Word) : List Word := ((List.range 24).foldl (fun c _ => spongeRound c) (s, 1)).1

/-- The lanes that a block of at most 136 bytes fills, all 25 of them. -/
def blockLanes (b : List Byte) : List Word := (List.range 25).map (fun i => word (leNat ((b.drop (8 * i)).take 8)))

/-- The last block is closed by the top bit of its lane 16. -/
def closing : List Word := List.replicate 16 0 ++ word (2 ^ 63) :: List.replicate 8 0

/-- Take in a message, whose blocks are full but for the last, which holds the suffix of SHAKE as well. -/
def takeIn (s : List Word) : List (List Byte) → List Word
  | [] => s
  | [b] => permute (laneXor (laneXor s (blockLanes b)) closing)
  | b :: t => takeIn (permute (laneXor s (blockLanes b))) t

/-- SHAKE256 with 64 bytes of output. -/
def shake256 (m : List Byte) : List Byte :=
  ((takeIn (List.replicate 25 0) (chunksOf 136 (m.length / 136 + 1) (m ++ [0x1F]))).take 8).flatMap (fun w => leBytes 8 w.toNat)

/-- R82: the extension of a measurement register, and the digest of its record. -/
def extendMeas (m : List Byte) (t : Nat) (x : List Byte) : List Byte × List Byte :=
  let d := shake256 x
  (shake256 (m ++ leBytes 4 t ++ leBytes 8 x.length ++ d), d)

/-- The measurement register after reset: 64 zero bytes (R82). -/
def measZero : List Byte := List.replicate 64 0

end Sys2Proof.Machine
end

