-- ==== Sys2Proof/Machine/System.lean ====
section
/-! DEFINITION. System instructions: major 0x23 (R93, R222 to R225, R302 to R305). -/

namespace Sys2Proof.Machine

/-! ## Control registers (R222 to R224) -/

/-- Whether a number is assigned (R222). -/
def csrKnown (n : Nat) : Bool :=
  n ≤ 0x02 || (0x10 ≤ n && n ≤ 0x15) || (0x20 ≤ n && n ≤ 0x22) || n == 0x30 || n == 0x31 || (0x40 ≤ n && n ≤ 0x47) ||
    n == 0x50 || n == 0x51

/-- Whether a register is a supervisor register (R222). -/
def csrSup (n : Nat) : Bool := 0x40 ≤ n && n ≤ 0x47

/-- Whether the map of a register has no RW and no W1C field (R224). -/
def csrRo (n : Nat) : Bool :=
  n ≤ 0x02 || (0x20 ≤ n && n ≤ 0x22) || n == 0x30 || n == 0x31 || n == 0x50 || n == 0x51

/-- LQST as it reads (R155): BUSY and DEPTH are those of the queue. -/
def Core.lqstRead (k : Core) : Word := word ((k.lqst.toNat &&& 0x1F1F80) + b2n (!k.latticeIdle) * 64 + k.lq.length)

/-- The value of a control register for the context that issues (R129, R182, R223). -/
def State.csr (s : State) (n : Nat) : Word :=
  let x := s.curCtx
  let k := s.curCore
  match n with
  | 0x000 => word s.cycle
  | 0x001 => word s.time
  | 0x002 => x.instret
  | 0x010 => x.fcsr
  | 0x011 => k.lqstRead
  | 0x012 => k.lweight
  | 0x013 => x.cbsel
  | 0x014 => x.wctl
  | 0x015 => x.scope
  | 0x020 => word (s.ctxidOf s.cur.1)
  | 0x021 => word s.cur.1
  | 0x022 => word (k.gangSize * 65536 + k.gangIdx)
  | 0x030 => word k.rfcnt
  | 0x031 => word (s.cur.2 * 4096 + k.liveMask + 1)
  | 0x040 => x.epc
  | 0x041 => x.ecause
  | 0x042 => x.eval
  | 0x043 => x.estat
  | 0x044 => x.rgnpc
  | 0x045 => x.rgnskip
  | 0x046 => x.tvec
  | 0x047 => x.scratch
  | 0x050 => word (k.snapPhase * 2 ^ 32 + k.cutGen)
  | 0x051 => word k.sstepn
  | _ => 0

/-- The value a register of 2 fields takes: `old` outside the mask of RW bits, `v` inside; none when a bit of `rsv` is set,
which discards the write whole. -/
def field (old v : Word) (rw rsv : Nat) : Word :=
  if v.toNat &&& rsv ≠ 0 then old else (old &&& ~~~(word rw)) ||| (v &&& word rw)

/-- The bits from `n` upward. -/
def above (n : Nat) : Nat := 2 ^ 64 - 2 ^ n

/-- LQST after a write: FEN is written, a one in FLAGS clears the flag (R155). `set` is `csrs`. -/
def lqstWrite (old v : Word) (set : Bool) : Word :=
  if v.toNat &&& above 21 ≠ 0 then old
  else
    let fen := if set then bits old 20 16 ||| bits v 20 16 else bits v 20 16
    let flags := bits old 12 8 &&& (31 - bits v 12 8)
    word (fen * 65536 + flags * 256 + bits old 7 7 * 128)

/-- Write a control register under its map (R224, R304). `set` is `csrs`: the value is ORed into the RW fields. -/
def State.setCsr (s : State) (n : Nat) (v0 : Word) (set : Bool) : State :=
  let x := s.curCtx
  let k := s.curCore
  let w := fun (old : Word) (rw rsv : Nat) => field old (if set then (old &&& word rw) ||| v0 else v0) rw rsv
  match n with
  | 0x010 => s.modCur (fun x => { x with fcsr := w x.fcsr 0x1F7F (above 13 + 0x80) })
  | 0x011 => s.modCurCore (fun k => { k with lqst := lqstWrite k.lqst v0 set })
  | 0x012 => s.modCurCore (fun k => { k with lweight := w k.lweight (if x.sup then 0xFF else 0x0F) (above 8) })
  | 0x013 => s.modCur (fun x => { x with cbsel := w x.cbsel 0xFFF (above 12) })
  | 0x014 => s.modCur (fun x => { x with wctl := w x.wctl 1 (above 1) })
  | 0x015 =>
    let v := if set then x.scope ||| v0 else v0
    if isScope v.toNat then s.modCur (fun x => { x with scope := v }) else s
  | 0x040 => s.modCur (fun x => { x with epc := w x.epc 0xFFFFFFFFFFFF (above 48) })
  | 0x041 => s.modCur (fun x => { x with ecause := w x.ecause 0xFF (above 8) })
  | 0x042 => s.modCur (fun x => { x with eval := w x.eval (2 ^ 64 - 1) 0 })
  | 0x043 => s.modCur (fun x => { x with estat := w x.estat (2 ^ 64 - 1 - 0xFF000000) 0 })
  | 0x044 => s.modCur (fun x => { x with rgnpc := w x.rgnpc 0xFFFFFFFFFFFC (above 48) })
  | 0x045 => s.modCur (fun x => { x with rgnskip := w x.rgnskip 0xFFFFFFFF (above 32) })
  | 0x046 => s.modCur (fun x => { x with tvec := w x.tvec (2 ^ 64 - 4) 0 })
  | 0x047 => s.modCur (fun x => { x with scratch := w x.scratch (2 ^ 64 - 1) 0 })
  | _ => s.setCore s.cur.1 k

/-- The checks of R224; `write` is `csrw` or `csrs`. -/
def csrCheck (i : Instr) (n : Nat) (write : Bool) : M Unit := do
  trapIf (!csrKnown n) Cause.csrUndef (word n)
  let s ← get
  trapIf (csrSup n && !s.curCtx.sup) Cause.illPriv (wordEval i 0)
  trapIf (write && csrRo n) Cause.csrRo (word n)

/-- R304 `csrr`. -/
def execCsrr (d : BitVec 5) (c : BitVec 11) (s : State) : Outcome :=
  runInstr (do
    csrCheck (.csrr d c) c.toNat false
    writeX d (s.csr c.toNat)
    retire) s

/-- R304 `csrw`. -/
def execCsrw (a : BitVec 5) (c : BitVec 11) (s : State) : Outcome :=
  runInstr (do
    csrCheck (.csrw a c) c.toNat true
    modify (fun t => t.setCsr c.toNat (s.x a) false)
    retire) s

/-- R304 `csrs`. -/
def execCsrs (a : BitVec 5) (c : BitVec 11) (s : State) : Outcome :=
  runInstr (do
    csrCheck (.csrs a c) c.toNat true
    modify (fun t => t.setCsr c.toNat (s.x a) true)
    retire) s

/-! ## Traps and returns (R302, R303) -/

/-- The monitor call a number names (R76). -/
def monitorCall (n : Nat) : Option Instr :=
  match n with
  | 0x0001 => some .partCreate
  | 0x0002 => some .partReset
  | 0x0003 => some .partDestroy
  | 0x0010 => some .banks
  | 0x0011 => some .mapFlush
  | 0x0020 => some .report
  | 0x0021 => some .auditRead
  | 0x0030 => some .pewterUpdate
  | 0x0031 => some .policyLoad
  | 0x0032 => some .policyUnload
  | 0x0033 => some .policyPin
  | 0x0041 => some .errinj
  | _ => none

/-- The arguments of a monitor call: x1 to x8. -/
def State.callArgs (s : State) : List Word := (List.range 8).map (fun i => s.x (BitVec.ofNat 5 (i + 1)))

/-- R302 `trap`. At supervisor level the call is forwarded to the monitor, which serves it as an event of its own and
retires the `trap`. -/
def execTrap (d a : BitVec 5) (s : State) : Outcome :=
  runInstr (do
    if !s.curCtx.sup then do
      trapIf (d != 0) Cause.illRsv (wordEval (.trap d a) 0)
      trap Cause.syscall (s.x a)
    else
      match (if (s.x a).toNat < 65536 then monitorCall (s.x a).toNat else none) with
      | none => do
        writeX d 0xFF
        retire
      | some i => modify (fun s =>
          let e : Ev := { Ev.zero with at_ := s.cur.1, x := s.cur.2, y := d.toNat, words := s.callArgs }
          (s.post i e).modCur (fun x => { x with wait := some .monitor }))) s

/-- The kill of R101 at the end of the handler that UNCORR_DATA entered (R415, R420). -/
def State.poisonEnd (s : State) : State := s.killTask s.curCore.task Cause.uncorrData

/-- R303 `eret`. -/
def execEret (s : State) : Outcome :=
  runInstr (do
    privileged .eret
    let x := s.curCtx
    trapIf x.eretBad Cause.eretState x.estat
    if x.poisonKill then modify (fun s => s.poisonEnd)
    else modify (fun s =>
      -- since the later of the trap and a pre-emption request (R119 step 2)
      let since := match s.insts.look s.curCore.inst with
        | some j => max x.supSince j.reqTime
        | none => x.supSince
      s.modCur (fun x => { x.returnFrom with supSpent := x.supSpent + (s.clk - since) }))) s

/-! ## `halt`, `brk`, `nop` (R305) -/

/-- R305 `halt`. -/
def execHalt (a : BitVec 5) (s : State) : Outcome :=
  runInstr (do
    privileged (.halt a)
    modify (fun t => t.killTask t.curCore.task (bits (s.x a) 7 0))) s

/-- R305 `brk`. -/
def execBrk (i : BitVec 6) (s : State) : Outcome :=
  runInstr (do
    if 2 ≤ s.mon.debugOpen ∧ s.mon.debugArm then
      modify (fun s =>
        let s := s.modCurCore (fun k => { k with debugHalt := true })
        { s with mon := { s.mon with debugOut := s.mon.debugOut ++ [word (Cause.debugHalt * 2 ^ 56 + s.cur.1 * 2 ^ 32 + i.toNat)] } })
    else trap Cause.brk (word i.toNat)) s

/-- R305 `nop`. -/
def execNop (s : State) : Outcome := .next s.retire

/-! ## `seal` (R93) -/

/-- The bytes of an object as home holds them, page by page. -/
def State.objectBytes (s : State) (ctxid : Nat) (e : Ent) : List Byte := s.devRead ctxid e.index 0 e.len

/-- Another entry of the context that grants W to a byte of `e` (R93). -/
def State.writerOf (s : State) (ctxid : Nat) (e : Ent) : Option Nat :=
  searchUp (fun i => i != e.index && (match s.ent ctxid i with
    | some o => !o.free && o.rights.testBit rW && s.sameBytes ctxid o e
    | none => false)) (s.otlen ctxid) 1

/-- Extend the CMEAS of a context (R82, R83). -/
def State.extendCmeas (s : State) (ctxid t : Nat) (x : List Byte) : State :=
  match s.proc? ctxid with
  | none => s
  | some p =>
    let (m, d) := extendMeas p.cmeas t x
    let s := s.modProc ctxid (fun p => { p with cmeas := m })
    { s with mon := { s.mon with measLog := s.mon.measLog ++ [(6 + 65536 * ctxid, t, d)] } }

/-- All stores that a context has made become visible at package scope, whichever of its cores made them (R93). -/
def State.releaseAll (s : State) (ctxid : Nat) : State :=
  let cs := (s.cores.filter (fun k => s.ctxidOf k.1 == ctxid)).map (fun k => k.1)
  (cs.foldl (fun s c => s.drain c) s).cleanAll ctxid

/-- A range leaves every L1 instruction cache of the context's partition (R93). -/
def State.dropCode (s : State) (ctxid base len : Nat) : State :=
  let p := match s.proc? ctxid with
    | some p => p.part
    | none => 0
  s.mapCores (fun c => s.partOfBlock (c / 64) == p) (fun k => { k with
    l1i := k.l1i.filter (fun l => !(base / 128 ≤ l.la && l.la * 128 < base + len)) })

/-- The effect of `seal` on a checked entry. -/
def State.sealObject (s : State) (ctxid : Nat) (e : Ent) : State :=
  let s := s.releaseAll ctxid
  let x := leBytes 8 e.base ++ leBytes 8 e.len ++ s.objectBytes ctxid e
  let s := s.extendCmeas ctxid 3 x
  let s := s.putEnt { e with rights := (e.rights &&& 0x7D) ||| 4 }
  let s := (s.markCode ctxid e true).dropCode ctxid e.base e.len
  { s with maps := s.maps.put (s.mapKey ctxid e) { s.mapOf ctxid e with sealed := true } }

/-- R93 `seal`. -/
def execSeal (d a : BitVec 5) (s : State) : Outcome :=
  runInstr (do
    privileged (.seal d a)
    endBlock
    trapIf (bits (s.x a) 63 16 != 0) Cause.hInvalid (detEval (bits (s.x a) 15 0) 0)
    tablesCurrent
    let s1 ← get
    let c := s.cur.1
    let ctxid := s1.ctxidOf c
    let i := bits (s.x a) 15 0
    match s1.liveEnt ctxid i with
    | none => trap Cause.hInvalid (hEval i 0)
    | some e => do
      trapIf (e.fmt == 15) Cause.hInvalid (detEval i 3)
      trapIf (e.rights.testBit rX) Cause.sealFail 1
      trapIf (0x400000 < e.len) Cause.sealFail 2
      match s1.writerOf ctxid e with
      | some o => trap Cause.sealFail (word (0x300 + o))
      | none => do
        releaseAt 2
        modify (fun s => s.sealObject ctxid e)
        let s2 ← get
        writeX d (match s2.proc? ctxid with
          | some p => word (leNat (p.cmeas.take 8))
          | none => 0)
        commitInstr false) s

end Sys2Proof.Machine
end

