-- ==== Sys2Proof/Machine/Fabric.lean ====
section
/-! DEFINITION. The folded Clos fabric (R34 to R48): the switches, routing, arbitration and ageing, multicast and the flood of
markers; and the messages of R38 by their operation. -/

namespace Sys2Proof.Machine

/-! ## Operations (R38) -/

/-- The event that a message operation is, when R38 names it. -/
def msgInstr (op : Nat) : Option Instr :=
  if 0x60 ≤ op ∧ op ≤ 0x6F then some .mdata
  else match op with
  | 0x01 => some .rd
  | 0x02 => some .wr
  | 0x03 => some .wrh
  | 0x04 => some .atom
  | 0x05 => some .red
  | 0x06 => some .nib
  | 0x07 => some .sendMsg
  | 0x08 => some .qpostMsg
  | 0x09 => some .take
  | 0x0A => some .takecan
  | 0x0B => some .rst
  | 0x0C => some .rld
  | 0x0D => some .inv
  | 0x21 => some .brd
  | 0x22 => some .mrd
  | 0x23 => some .bwrh
  | 0x24 => some .mfwd
  | 0x41 => some .rdata
  | 0x42 => some .ack
  | 0x43 => some .ares
  | 0x44 => some .msg
  | 0x45 => some .empty
  | 0x46 => some .lack
  | 0x4F => some .fail
  | 0x50 => some .bdata
  | 0x70 => some .msetup
  | 0x71 => some .mjoin
  | 0x72 => some .marker
  | 0x73 => some .creply
  | 0x74 => some .cpoll
  | 0x75 => some .event
  | 0x76 => some .sched
  | 0x77 => some .vcstep
  | 0x78 => some .sroll
  | 0x7A => some .mon
  | _ => none

/-- Whether PLEN is that of the table (R38). -/
def plenOk (op n : Nat) : Bool :=
  if op = 0x41 then 1 ≤ n && n ≤ 16
  else if op = 0x50 ∨ (0x60 ≤ op ∧ op ≤ 0x6F) then n == 16
  else if op = 0x42 ∨ op = 0x45 ∨ op = 0x46 then n == 0
  else if 0x70 ≤ op ∨ op = 0x43 ∨ op = 0x4F then n == 1
  else if op = 0x44 then n == 9
  else if op = 0x03 ∨ op = 0x23 ∨ op = 0x24 then n == 11
  else if op = 0x04 then n == 4
  else if op = 0x07 ∨ op = 0x08 then n == 10
  else if op = 0x01 ∨ op = 0x0A ∨ op = 0x0C ∨ op = 0x0D ∨ op = 0x21 then n == 2
  else n == 3

/-- Whether the request words have reserved bits set, or the reserved SIZE (R38). -/
def Msg.reservedSet (m : Msg) : Bool :=
  let q0 := m.payload.getD 0 0
  let q1 := m.payload.getD 1 0
  isRequest m.op && (bits q0 60 56 != 0 || bits q0 63 61 == 6 || bits q1 23 16 != 0)

/-- The event of an arriving message: its operation, or UNKNOWN_MESSAGE (R38). -/
def Msg.event (m : Msg) : Instr :=
  if m.plen == m.payload.length && plenOk m.op m.plen && !m.reservedSet then (msgInstr m.op).getD .unknownMessage
  else .unknownMessage

/-- The request words decoded (R38). -/
structure Req where
  size   : Nat
  addr   : Nat
  ctxid  : Nat
  scope  : Nat
  ord    : Nat
  vc     : Nat
  aop    : Nat
  core   : Nat
  handle : Nat
  deriving DecidableEq, Repr

/-- Bytes of a SIZE (R38). -/
def sizeOfCode (n : Nat) : Nat := if n < 4 then 2 ^ n else if n = 4 then 16 else if n = 5 then 64 else 128

/-- The request words of a message. -/
def Msg.req (m : Msg) : Req :=
  let q0 := m.payload.getD 0 0
  let q1 := m.payload.getD 1 0
  { size := sizeOfCode (bits q0 63 61), addr := bits q0 55 0, ctxid := bits q1 63 48, scope := bits q1 47 40, ord := bits q1 39 38,
    vc := bits q1 37 32, aop := bits q1 31 27, core := bits q1 26 24, handle := bits q1 15 0 }

/-- Word `i` after the request words. -/
def Msg.word (m : Msg) (i : Nat) : Word := m.payload.getD (2 + i) 0

/-- Beats that a message occupies (R37). The rule's own example of a request without data, 1 beat, leaves out the two request words of
R38: with them the formula gives 2, and the formula holds here (log entry 133). -/
def Msg.beats (m : Msg) : Nat := ceilDiv (24 + 8 * m.plen) 32

/-! ## Switches and their ports (R34 to R36)

A leaf switch is block × 4 + leaf; the spines follow from 128, die × 16 + spine; the hub root is 192. -/

/-- The number of the hub root. -/
abbrev hubRoot : Nat := 192

/-- The number of spine `i` of a die. -/
def spineNo (die i : Nat) : Nat := 128 + die * 16 + i

/-- A down port named by its even number, with the odd one for an odd tag at a two-port endpoint (R36). -/
def downPort (p tag : Nat) : Nat := if p = 0 ∨ p = 2 ∨ p = 12 ∨ p = 14 then p + tag % 2 else p

/-- The endpoint that a down port leads to. -/
def portEndpoint (leaf p : Nat) : Nat :=
  let base := leaf / 32 * 512 + leaf / 4 % 8 * 64 + leaf % 4 * 16
  base + (if p < 4 ∨ 12 ≤ p then p / 2 * 2 else p)

/-- The first switch of a message that an endpoint sends, and its input port. A two-port endpoint sends from the port at which
it receives that tag (log entry 88). -/
def entryPort (ep tag : Nat) : Nat × Nat :=
  if 2048 ≤ ep then (hubRoot, 192 + ep % 256)
  else (ep / 512 % 4 * 32 + ep / 64 % 8 * 4 + ep / 16 % 4, downPort (ep % 16) tag)

/-- The owner register of an up port 32 to 46 of a spine (R47): VALID in bit 5, PART below. -/
def State.portOwner (s : State) (sw p : Nat) : Option Nat :=
  let v := s.owners.get ((sw - 128) * 16 + (p - 32)) 0
  if v / 32 % 2 = 1 then some (v % 32) else none

/-- The partition a block belongs to. -/
def State.blockOwner (s : State) (b : Nat) : Option Nat :=
  (s.parts.find? (fun p => p.2.blocks.testBit b)).map (fun p => p.1)

/-- The partition that owns an input port, when one owns it (R37, R47). -/
def State.inputOwner (s : State) (sw p : Nat) : Option Nat :=
  if sw < 128 then s.blockOwner (sw / 4)
  else if sw < hubRoot then (if p < 32 then s.blockOwner ((sw - 128) / 16 * 8 + p / 4) else if p < 47 then s.portOwner sw p else none)
  else if p < 192 then s.portOwner (spineNo (p / 48) (p % 48 / 3)) (44 + p % 3) else none

/-- The next switch and its input port behind an output port, or none when an endpoint stands there. The 192 die ports of the hub
root are numbered by die, spine and port (log entry 134). -/
def nextSwitch (sw p : Nat) : Option (Nat × Nat) :=
  if sw < 128 then (if p < 16 then none else some (spineNo (sw / 32) (p - 16), sw % 32))
  else if sw < hubRoot then
    let die := (sw - 128) / 16
    let i := (sw - 128) % 16
    if p < 32 then some (die * 32 + p, 16 + i)
    else if p < 38 then some (spineNo (die ^^^ 1) i, p)
    else if p < 44 then some (spineNo (die ^^^ 2) i, p)
    else if p < 47 then some (hubRoot, die * 48 + i * 3 + (p - 44))
    else none
  else if p < 192 then some (spineNo (p / 48) (p % 48 / 3), 44 + p % 3)
  else none

/-- Switch `sw`. -/
def State.switch (s : State) (sw : Nat) : Switch := s.switches.get sw Switch.zero

/-- Change a switch. -/
def State.modSwitch (s : State) (sw : Nat) (f : Switch → Switch) : State :=
  { s with switches := s.switches.put sw (f (s.switch sw)) }

/-! ## Routing (R39, R26, R48) -/

/-- The link toward a device (R26): PRI while it is up, otherwise ALT; none when the entry is not valid or no link is up. An absent link
is not up (R18). -/
def State.linkTo (s : State) (dev : Nat) : Option Nat :=
  let e := s.routes.get dev 0
  let up := fun (l : Nat) => match s.links.look l with
    | some k => k.trained && !k.down && s.boot.links.testBit l
    | none => false
  if e / 32768 % 2 = 0 then none
  else if up (e / 16 % 16) then some (e / 16 % 16)
  else if e / 256 % 2 = 1 ∧ up (e / 512 % 16) then some (e / 512 % 16)
  else none

/-- Beats that wait in a switch for an output in a class. -/
def Switch.load (k : Switch) (p tc : Nat) : Nat :=
  (k.queues.map (fun q => if q.1 % 4 = tc then ((q.2.filter (fun m => m.outs.contains p)).map (fun m => m.msg.beats)).sum else 0)).sum

/-- The port of a list with the fewest beats in a class; among equals the first at or after the tie pointer. -/
def Switch.pickPort (k : Switch) (tc : Nat) (ports : List Nat) : Option Nat :=
  let ring := ports.filter (fun p => k.tie ≤ p) ++ ports.filter (fun p => p < k.tie)
  match ring with
  | [] => none
  | p :: t => some (t.foldl (fun best q => if k.load q tc < k.load best tc then q else best) p)

/-- The ports of a set that a partition may use: those it owns, or those nobody owns when it owns none. -/
def State.usable (s : State) (sw part : Nat) (ports : List Nat) : List Nat :=
  let mine := ports.filter (fun p => s.portOwner sw p == some part)
  if mine.isEmpty then ports.filter (fun p => (s.portOwner sw p).isNone) else mine

/-- The interface between two edge neighbours is absent (R21): its traffic goes by way of the hub. Interfaces are numbered
0 to 3 for the edges 0–1, 2–3, 0–2, 1–3, and 4 + die for the hub. -/
def State.solderAbsent (s : State) (n : Nat) : Bool := match s.solders.look n with
  | some k => k.absent
  | none => false

/-- A spine or the hub root that is out of service (R19, R101): it takes no message, and no leaf switch sends up by it. -/
def State.shutSwitch (s : State) (sw : Nat) : Bool := decide (128 ≤ sw) && s.boot.shut.contains (sw - 128)

/-- The output port of a switch toward one endpoint of this device, and the tie pointer after it. Downward from the hub root it is one
of those of the destination's partition (R39). -/
def State.routeTo (s : State) (sw : Nat) (m : Msg) (dep : Nat) : Option Nat × Nat :=
  let k := s.switch sw
  let hub := 2048 ≤ dep
  let die := dep / 512 % 4
  let leaf := dep / 64 % 8 * 4 + dep / 16 % 4
  let adaptive := fun (ports : List Nat) => match k.pickPort m.tc ports with
    | some p => (some p, p + 1)
    | none => (none, k.tie)
  if sw < 128 then
    if !hub && sw = die * 32 + leaf then (some (downPort (dep % 16) m.tagid), k.tie)
    else adaptive (((List.range 16).filter (fun i => !s.shutSwitch (spineNo (sw / 32) i))).map (fun i => 16 + i))
  else if sw < hubRoot then
    let here := (sw - 128) / 16
    let up := s.usable sw m.part [44, 45, 46]
    if hub then adaptive up
    else if die = here then (some leaf, k.tie)
    else if die = here ^^^ 1 ∧ ¬ s.solderAbsent (here / 2) then adaptive (s.usable sw m.part [32, 33, 34, 35, 36, 37])
    else if die = here ^^^ 2 ∧ ¬ s.solderAbsent (2 + here % 2) then adaptive (s.usable sw m.part [38, 39, 40, 41, 42, 43])
    else adaptive up
  else if hub then (some (192 + dep % 256), k.tie)
  else
    let sp := spineNo die (leaf % 16)
    let ports := s.usable sp ((s.blockOwner (die * 8 + dep / 64 % 8)).getD 32) [44, 45, 46]
    (if ports.isEmpty then none else ports[dep % 16 % ports.length]?.map (fun p => die * 48 + leaf % 16 * 3 + (p - 44)), k.tie)

/-- The endpoints a message goes to: one, or the network interfaces of MCMASK (R48). A message for another device goes to
one of the four ports of its link, by its tag (log entry 135). -/
def State.targets (s : State) (m : Msg) : List Nat :=
  if m.ddev != s.devId then match s.linkTo m.ddev with
    | some l => [2048 + 4 * l + m.tagid % 4]
    | none => []
  else if m.mc then (onesOf m.mcmask 8).map (fun c => niEndpoint (m.dep / 512 % 4 * 64 + m.dep / 64 % 8 * 8 + c))
  else [m.dep]

/-- Whether the copy of a multicast that came in at port `p` of a switch serves an endpoint (R39, R48): at a leaf switch from
above, one below it; at a spine from a leaf switch, one that this leaf switch has not served itself; at a spine from the hub
root, one whose leaf switch the hub root reaches by this spine. -/
def servesFrom (sw p dep : Nat) : Bool :=
  let die := dep / 512 % 4
  let leaf := dep / 64 % 8 * 4 + dep / 16 % 4
  if sw < 128 then p < 16 || sw == die * 32 + leaf
  else if sw < hubRoot then
    if p < 32 then !(die == (sw - 128) / 16 && leaf == p) else p < 44 || leaf % 16 == (sw - 128) % 16
  else true

/-- The output ports of a message that came in at port `p` of a switch, each once, and the tie pointer. -/
def State.outsOf (s : State) (sw p : Nat) (m : Msg) : List Nat × Nat :=
  ((s.targets m).filter (fun dep => !(m.mc && m.ddev == s.devId) || servesFrom sw p dep)).foldl (fun (r : List Nat × Nat) dep => match s.routeTo sw m dep with
    | (some p, tie) => if r.1.contains p then r else (r.1 ++ [p], tie)
    | (none, _) => r) ([], (s.switch sw).tie)

/-- The job that a marker names (R185): by the handle in its TAGID and the job of the partition it comes from. -/
def State.markerJob (s : State) (m : Msg) : Nat := (s.part m.part).job

/-- The output ports over which a marker is flooded: the ports of the job's partitions, and at the hub root the links toward
the devices of DEVMASK (R185). -/
def State.floodPorts (s : State) (sw : Nat) (m : Msg) : List Nat :=
  match s.jobs.look (s.markerJob m) with
  | none => []
  | some j =>
    let mine := fun (p : Option Nat) => match p with
      | some n => j.parts.testBit n
      | none => false
    if sw < 128 then List.range 32
    else if sw < hubRoot then (List.range 47).filter (fun p => mine (s.inputOwner sw p))
    else
      ((List.range 192).filter (fun p => mine (s.inputOwner sw p))) ++
        ((onesOf j.devmask 64).filter (fun d => d != s.devId)).filterMap (fun d => (s.linkTo d).map (fun l => 192 + 4 * l)) |>.eraseDups

/-! ## Sending on a link (R23 to R27, R29) -/

/-- Link `l`. -/
def State.link (s : State) (l : Nat) : Link := s.links.get l Link.zero

/-- Change a link. -/
def State.modLink (s : State) (l : Nat) (f : Link → Link) : State := { s with links := s.links.put l (f (s.link l)) }

/-- The end-to-end state toward a device. -/
def State.peer (s : State) (d : Nat) : Peer := s.peers.get d Peer.zero

/-- Change the end-to-end state toward a device. -/
def State.modPeer (s : State) (d : Nat) (f : Peer → Peer) : State := { s with peers := s.peers.put d (f (s.peer d)) }

/-- The end-to-end word that the hub root adds to a request or a response (R29): the ESEQ and CACK. -/
def State.e2eWord (s : State) (m : Msg) : Option Word :=
  if m.tc < 2 then some (word (m.eseq * 2 ^ 32 + (s.peer m.ddev).cack)) else none

/-- Whether a waiting message may go into a flit: its class is not stopped (R23), and a request of this device is inside the
window of R27. -/
def State.mayLeave (s : State) (k : Link) (x : LinkMsg) : Bool :=
  !k.stop.testBit x.msg.tc && (x.msg.tc != 0 || x.msg.sdev != s.devId ||
    decide ((x.msg.eseq + 2 ^ 32 - (s.peer x.msg.ddev).cack) % 2 ^ 32 < 4096))

/-- A flit with the link's next sequence number, sent and kept until it is acknowledged (R24). LACK is valid once a flit has
been received, and STOP shows the stop bits this device raises (R23). -/
def Link.push (k : Link) (kind : Nat) (msgs : List LinkMsg) (words : List Word) (nak : Bool) : Link :=
  let f : Flit := ⟨k.sendSeq, (k.recvSeq + 1023) % 1024, k.heard, nak, k.raised, kind, 0, msgs, words, true⟩
  { k with sendSeq := (k.sendSeq + 1) % 1024, unacked := k.unacked ++ [f], out := k.out ++ [f] }

/-- Send an idle or a control flit. With 512 flits unacknowledged it waits for room (R24). -/
def Link.send (k : Link) (kind : Nat) (words : List Word) (nak : Bool) : Link :=
  if k.unacked.length < 512 then k.push kind [] words nak
  else if k.owed.contains (kind, words, nak) then k else { k with owed := k.owed ++ [(kind, words, nak)] }

/-- Send the idle and control flits that waited, as far as there is room. -/
def Link.sendOwed (k : Link) : Link := k.owed.foldl (fun (k : Link) o => k.send o.1 o.2.1 o.2.2) { k with owed := [] }

/-- Beats of a class that came over a link and have not gone on: at the hub root, and relayed toward another link (R25, R26). -/
def State.linkBeats (s : State) (l tc : Nat) : Nat :=
  (((s.switches.get hubRoot Switch.zero).queues.get ((192 + 4 * l) * 4 + tc) []).map (fun q => q.msg.beats)).sum +
    (s.links.map (fun k => ((k.2.waiting.filter (fun x => x.via == l + 1 && x.msg.tc == tc)).map (fun x => x.msg.beats)).sum)).sum

/-- Beats of a receive buffer of a link: 48 KiB (R25). -/
def linkRoom : Nat := 48 * 1024 / 32

/-- The beats that can be in flight in a round trip of 200 ns: 175 flits of 240 bytes (R1, R23, R25; log entry 87). -/
def linkFlight : Nat := 1313

/-- The stop bit of a class of a link after a change of its buffer (R25): raised while what may be in flight would no longer
fit, lowered when 8 beats more are free (R42; log entry 87). A change is shown in an idle flit at once. -/
def State.signalLink (s : State) (l tc : Nat) : State :=
  let free := linkRoom - s.linkBeats l tc
  let k := s.link l
  let old := k.raised.testBit tc
  let now := if free ≤ linkFlight then true else if linkFlight + 8 ≤ free then false else old
  if now == old ∨ !k.trained ∨ k.down then s
  else s.modLink l (fun k => ({ k with raised := k.raised ^^^ 2 ^ tc }).send 1 [] false)

/-- The request is last sent on a link (R30). -/
def State.noteLink (s : State) (m : Msg) (l : Nat) : State :=
  if m.tc = 0 ∧ m.sdev = s.devId then
    { s with remotes := s.remotes.map (fun r => if r.dev = m.ddev ∧ r.eseq = m.eseq then { r with link := some l } else r) }
  else s

/-- Send what waits at a link, one message a flit, while the link is up and holds fewer than 512 unacknowledged flits. A message of this
device takes its CACK as it leaves (R27). -/
def pumpLink (l : Nat) : Nat → State → State
  | 0, s => s
  | n + 1, s =>
    let k := s.link l
    if !k.trained || k.down || k.retrain || 512 ≤ k.unacked.length then s
    else match k.waiting.find? (s.mayLeave k) with
      | none => s
      | some x =>
        let y := if x.msg.sdev = s.devId then { x with e2e := x.e2e.bind (fun _ => s.e2eWord x.msg) } else x
        let s := s.modLink l (fun k => ({ k with waiting := k.waiting.erase x }).push 0 [y] [] false)
        let s := if x.via = 0 then s else s.signalLink (x.via - 1) x.msg.tc
        let s := if x.e2e.isSome ∧ x.msg.sdev = s.devId then s.modPeer x.msg.ddev (fun p => { p with owedAck := false }) else s
        pumpLink l n s

/-- Send everything that a link lets go. -/
def State.pump (s : State) (l : Nat) : State :=
  let s := s.modLink l Link.sendOwed
  pumpLink l (s.link l).waiting.length s

/-- A message leaves on the link that a route names. -/
def State.sendOn (s : State) (l : Nat) (x : LinkMsg) : State :=
  ((s.noteLink x.msg l).modLink l (fun k => { k with waiting := k.waiting ++ [x] })).pump l

/-! ## Buffers and stop signals (R42) -/

/-- Whether an input crosses Solder. -/
def crossesSolder (sw p : Nat) : Bool := (128 ≤ sw && sw < hubRoot && 32 ≤ p) || (sw == hubRoot && p < 192)

/-- Whether an input of the hub root is that of a Fliveano link (R34). -/
def fromLinkPort (sw p : Nat) : Bool := sw == hubRoot && 192 ≤ p && p < 256

/-- Free beats of an input's buffer for a class, at an input that no link feeds. -/
def Switch.free (k : Switch) (sw p tc : Nat) : Nat :=
  (if crossesSolder sw p then 96 else 32) - (((k.queues.get (p * 4 + tc) []).map (fun m => m.msg.beats)).sum)

/-- The stop signal after a change of the free space: raised at 8 beats, lowered at 16; across Solder at 40 and at 56. -/
def stopAfter (sw p free old : Nat) : Nat :=
  let x := crossesSolder sw p
  if free ≤ (if x then 40 else 8) then 1 else if (if x then 56 else 16) ≤ free then 0 else old

/-- Where an endpoint's input of a switch keeps the stop signal that the endpoint sees, beside those of the outputs. -/
def inputStop (p tc : Nat) : Nat := (1024 + p) * 4 + tc

/-- The sender on the other side of an input port: the switch and its output port, when it is a switch. -/
def upstream (sw p : Nat) : Option (Nat × Nat) :=
  if sw < 128 then (if p < 16 then none else some (spineNo (sw / 32) (p - 16), sw % 32))
  else if sw < hubRoot then
    let die := (sw - 128) / 16
    let i := (sw - 128) % 16
    if p < 32 then some (die * 32 + p, 16 + i)
    else if p < 38 then some (spineNo (die ^^^ 1) i, p)
    else if p < 44 then some (spineNo (die ^^^ 2) i, p)
    else some (hubRoot, die * 48 + i * 3 + (p - 44))
  else if p < 192 then some (spineNo (p / 48) (p % 48 / 3), 44 + p % 3) else none

/-- Tell the sender of an input whether its class may go on: the other side of a link by the stop bits of its flits (R25), a
switch by the stop signal of its output, an endpoint by that of the input. -/
def State.signalStop (s : State) (sw p tc : Nat) : State :=
  if fromLinkPort sw p then s.signalLink ((p - 192) / 4) tc
  else
    let f := (s.switch sw).free sw p tc
    let (u, key) := match upstream sw p with
      | some (u, q) => (u, q * 4 + tc)
      | none => (sw, inputStop p tc)
    s.modSwitch u (fun k => { k with stops := k.stops.put key (stopAfter sw p f (k.stops.get key 0)) })

/-! ## SWITCH_RECEIVE (R37, R39, R48, R101, R185) -/

/-- Whether the header check of a switch lets a message pass. A marker passes the ports of every partition of its job, which
R185 floods it over. -/
def State.headerOk (s : State) (sw p : Nat) (m : Msg) : Bool :=
  m.plen ≤ 16 && m.rsv == 0 && m.rsv2 == 0 && (match s.inputOwner sw p with
    | none => true
    | some o => m.part == o || (m.op == 0x72 && (match s.jobs.look (s.markerJob m) with
      | some j => j.parts.testBit o
      | none => false)))

/-- Put a message into an input queue of a switch. -/
def State.enqueueAt (s : State) (sw p : Nat) (m : Msg) (outs : List Nat) (tie : Nat) : State :=
  let q : Queued := ⟨m, p, outs, [], []⟩
  let s := s.modSwitch sw (fun k => { k with
    tie := tie, queues := k.queues.put (p * 4 + m.tc) (k.queues.get (p * 4 + m.tc) [] ++ [q]) })
  s.signalStop sw p m.tc

/-- A marker at a switch: the first copy is forwarded once per class, later ones are discarded. -/
def State.floodMarker (s : State) (sw p : Nat) (m : Msg) : State :=
  let key := (s.markerJob m, (m.payload.getD 0 0).toNat)
  if (s.switch sw).seen.contains key then s
  else
    let s := s.modSwitch sw (fun k => { k with seen := k.seen ++ [key] })
    let outs := s.floodPorts sw m
    (List.range 4).foldl (fun s tc => s.enqueueAt sw p { m with tc := tc } outs (s.switch sw).tie) s

/-- A message for another device cannot leave when no route is valid: the request fails at once with LINK_DOWN or, with no
valid entry, with REMOTE_FAIL (R26, R30). The FAIL is made at the hub root. -/
def State.noRoute (s : State) (m : Msg) : State :=
  if isRequest m.op ∧ m.sdev = s.devId then
    let cause := if s.routes.get m.ddev 0 / 32768 % 2 = 1 then Cause.linkDown else Cause.remoteFail
    s.post .fail { Ev.zero with at_ := m.sep, msg :=
      { mkMsg m.sdev m.sep m.ddev m.dep 1 0x4F m.tagid m.part m.col [word (cause * 2 ^ 56)] with eseq := m.eseq } }
  else s

/-- R39: switch `at_` takes a message at input `x`. -/
def execSwitchReceive (s : State) : Outcome :=
  runEvent (fun ev s =>
    let m := ev.msg
    if s.shutSwitch ev.at_ then s
    else if !s.headerOk ev.at_ ev.x m then
      let s := s.raiseMonitor Cause.eccUncorrMeta
      match s.inputOwner ev.at_ ev.x with
      | some p => s.post .partReset { Ev.zero with x := p, z := 1 }
      | none => s
    else if m.op = 0x72 ∧ m.ddev = s.devId then s.floodMarker ev.at_ ev.x m
    else
      let (outs, tie) := s.outsOf ev.at_ ev.x m
      if outs.isEmpty then s.noRoute m else s.enqueueAt ev.at_ ev.x m outs tie) s

/-! ## OUTPUT_ARBITRATE and AGE_PROMOTE (R44 to R46) -/

/-- The threshold of promotion of a class (R41); TC3 has none. -/
def ageLimit (tc : Nat) : Nat := if tc = 2 then 256 else 64

/-- WEIGHT of an input (R46). -/
def Switch.weight (k : Switch) (sw p : Nat) : Nat :=
  k.weights.get p (if (sw < 128 && p < 16) || (sw == hubRoot && 192 ≤ p) then 1 else 4)

/-- The eligible heads of an output: (input, class). -/
def Switch.heads (k : Switch) (out : Nat) : List (Nat × Nat) :=
  k.queues.filterMap (fun q => match q.2.head? with
    | some m => if m.outs.contains out && k.stops.get (out * 4 + q.1 % 4) 0 == 0 then some (q.1 / 4, q.1 % 4) else none
    | none => none)

/-- The age of a head for an output. -/
def Switch.ageOf (k : Switch) (h : Nat × Nat) (out : Nat) : Nat :=
  match (k.queues.get (h.1 * 4 + h.2) []).head? with
  | some m => m.age.get out 0
  | none => 0

/-- Whether a head is promoted for an output. -/
def Switch.promoted (k : Switch) (h : Nat × Nat) (out : Nat) : Bool :=
  match (k.queues.get (h.1 * 4 + h.2) []).head? with
  | some m => m.prom.contains out
  | none => false

/-- The rank of a class: TC1 before TC0 before TC2. -/
def classRank (tc : Nat) : Nat := if tc = 1 then 0 else if tc = 0 then 1 else 2

/-- The first of a list after `p` in ascending order, with wrap-around. -/
def nextAfter (p : Nat) (l : List Nat) : Option Nat :=
  let low := fun (xs : List Nat) => match xs with
    | [] => none
    | x :: t => some (t.foldl min x)
  (low (l.filter (fun x => p < x))).orElse (fun _ => low l)

/-- The choice of R44 at an output: the head, and the switch with its pointers moved. -/
def Switch.choose (k : Switch) (sw out : Nat) : Option (Nat × Nat) × Switch :=
  let hs := k.heads out
  let tc3 := (hs.filter (fun h => h.2 == 3)).map (fun h => h.1)
  match nextAfter (k.tc3ptr.get out 1000) tc3 with
  | some p => (some (p, 3), { k with tc3ptr := k.tc3ptr.put out p })
  | none =>
    let better := fun (a b : Nat × Nat) =>
      let x := k.ageOf a out
      let y := k.ageOf b out
      if x != y then y < x else if classRank a.2 != classRank b.2 then classRank a.2 < classRank b.2 else a.1 < b.1
    match hs.filter (fun h => k.promoted h out) with
    | h :: t => (some (t.foldl (fun a b => if better b a then b else a) h), k)
    | [] =>
      let ins := (hs.map (fun h => h.1)).eraseDups
      let cur := k.ptr.get out 0
      let pick := if ins.contains cur && k.used.get out 0 < k.weight sw cur then some (cur, k.used.get out 0 + 1)
        else (nextAfter cur ins).map (fun p => (p, 1))
      match pick with
      | none => (none, k)
      | some (p, n) =>
        let tc := ((hs.filter (fun h => h.1 == p)).map (fun h => h.2)).foldl
          (fun a b => if classRank b < classRank a then b else a) 2
        (some (p, tc), { k with ptr := k.ptr.put out p, used := k.used.put out n })

/-- The branch of a head toward an output has been granted: its age is cleared, and the head leaves its queue with the last
branch (R48). -/
def Switch.granted (k : Switch) (h : Nat × Nat) (out : Nat) : Switch :=
  let key := h.1 * 4 + h.2
  match k.queues.get key [] with
  | [] => k
  | m :: t =>
    let outs := m.outs.filter (fun o => o != out)
    { k with queues := k.queues.put key (if outs.isEmpty then t else { m with outs := outs } :: t) }

/-- The pending entries of a home slice that are taken: those of lines on the way, and those that hold a waiting TAKE (R38, R176). -/
def Slice.used (k : Slice) : Nat :=
  (k.entries.map (fun e => e.line) ++ (k.takes.map (fun r => r.line)).filter (fun l => !k.entries.any (fun e => e.line == l))).eraseDups.length

/-- A slice takes no further request: no entry is free and the spill queue is full (R177). -/
def Slice.spillShut (k : Slice) : Bool := 128 ≤ k.used && 32768 ≤ k.spill.length

/-- R177: the home slices that take no further request have the stop of TC0 raised at both of their ports. -/
def State.switchNow (s : State) (sw : Nat) : Switch :=
  let k := s.switch sw
  if sw < 128 then (s.slices.filter (fun n => sliceEndpoint n.1 / 16 == portEndpoint sw 12 / 16 && n.2.spillShut)).foldl
    (fun k n => { k with stops := (k.stops.put (sliceEndpoint n.1 % 16 * 4) 1).put ((sliceEndpoint n.1 % 16 + 1) * 4) 1 }) k
  else k

/-- The heads that were not granted age by the cycles the grant takes (R45); those that reach their threshold are due for
promotion. -/
def State.ageHeads (s : State) (sw out beats : Nat) : State :=
  ((s.switchNow sw).heads out).foldl (fun s h =>
    let key := h.1 * 4 + h.2
    match (s.switch sw).queues.get key [] with
    | [] => s
    | m :: t =>
      let age := min 511 (m.age.get out 0 + beats)
      let s := s.modSwitch sw (fun k => { k with queues := k.queues.put key ({ m with age := m.age.put out age } :: t) })
      if h.2 != 3 && ageLimit h.2 ≤ age && !m.prom.contains out then
        s.post .agePromote { Ev.zero with at_ := sw, x := key, y := out }
      else s) s

/-! ## Leaving a switch -/

/-- A message for another device leaves through the hub root (R26, R29). -/
def State.leave (s : State) (m : Msg) : State :=
  match s.linkTo m.ddev with
  | none => s.noRoute m
  | some l => s.sendOn l ⟨m, s.e2eWord m, 0⟩

/-- The interface that an input port of a switch receives from, with the direction: interface + 8 toward the die with the
higher number, or toward the hub. -/
def solderOf (sw p : Nat) : Nat :=
  if sw = hubRoot then 4 + p / 48 + 8
  else
    let die := (sw - 128) / 16
    if p < 38 then die / 2 + 8 * (die % 2) else if p < 44 then 2 + die % 2 + 8 * (die / 2) else 4 + die

/-- Whether the way to the next switch is over a Solder interface that is retraining (R21: stop signals hold its traffic). -/
def State.solderHeld (s : State) (sw out : Nat) : Bool := match nextSwitch sw out with
  | some (n, p) => crossesSolder n p && (s.solders.get (solderOf n p % 8) Solder.zero).retrain
  | none => false

/-- A message goes to the next switch, over Solder in a flit (R21). -/
def State.toSwitch (s : State) (n p : Nat) (m : Msg) : State :=
  if crossesSolder n p then
    let k := solderOf n p
    s.post .solderFlit { Ev.zero with at_ := k, x := p, y := n,
                                      flit := { Flit.zero with lseq := (s.solders.get k Solder.zero).seq, msgs := [⟨m, none, 0⟩] } }
  else s.post .switchReceive { Ev.zero with at_ := n, x := p, msg := m }

/-- The way to the next switch is over a Solder interface that is absent (R21). -/
def State.absentWay (s : State) (n p : Nat) : Bool := crossesSolder n p && s.solderAbsent (solderOf n p % 8)

/-- A message that was queued for an absent interface: at an edge it is routed anew, by way of the hub; a marker has gone that way
too (R185); what is bound for a die with no hub interface is lost with the die (R21). -/
def State.turnBack (s : State) (sw in_ n p : Nat) (m : Msg) : State :=
  if solderOf n p % 8 < 4 ∧ m.op ≠ 0x72 then s.post .switchReceive { Ev.zero with at_ := sw, x := in_, msg := m } else s

/-- A marker leaves for the devices of its job that a link leads to (R185). -/
def State.markerOut (s : State) (l : Nat) (m : Msg) : State := match s.jobs.look (s.markerJob m) with
  | none => s
  | some j => ((onesOf j.devmask 64).filter (fun d => d != s.devId && s.linkTo d == some l)).foldl (fun s d =>
      s.sendOn l ⟨{ m with ddev := d }, none, 0⟩) s

/-- A message leaves the last switch for its endpoint, or for a link. -/
def State.arrive (s : State) (sw out : Nat) (m : Msg) : State :=
  if m.op = 0x72 ∧ sw = hubRoot ∧ out < 256 then s.markerOut ((out - 192) / 4) m
  else if m.ddev != s.devId then s.leave m
  else s.post m.event { Ev.zero with at_ := if sw < 128 then portEndpoint sw out else 2048 + (out - 192), msg := m }

/-- R44: output `x` of switch `at_` chooses and sends a message. -/
def execOutputArbitrate (s : State) : Outcome :=
  runEvent (fun ev s =>
    let sw := ev.at_
    let out := ev.x
    if s.solderHeld sw out then s
    else match (s.switchNow sw).choose sw out with
    | (none, _) => s
    | (some h, k) => match (k.queues.get (h.1 * 4 + h.2) []).head? with
      | none => s
      | some q =>
        let s := { s with switches := s.switches.put sw ({ k with stops := (s.switch sw).stops }.granted h out) }
        let s := (s.ageHeads sw out q.msg.beats).signalStop sw h.1 h.2
        match nextSwitch sw out with
        | some (n, p) => if s.absentWay n p then s.turnBack sw h.1 n p q.msg else s.toSwitch n p q.msg
        | none => s.arrive sw out q.msg) s

/-- R45: the head of queue `x` (input × 4 + class) of switch `at_` is promoted for output `y`. -/
def execAgePromote (s : State) : Outcome :=
  runEvent (fun ev s => s.modSwitch ev.at_ (fun k => match k.queues.get ev.x [] with
    | [] => k
    | m :: t => { k with queues := k.queues.put ev.x ({ m with prom := ev.y :: m.prom } :: t) })) s

/-- The outputs at which a switch can send: (switch, output). -/
def State.readyOutputs (s : State) : List (Nat × Nat) :=
  s.switches.flatMap (fun k =>
    (((k.2.queues.filterMap (fun q => q.2.head?)).flatMap (fun m => m.outs)).eraseDups.filter (fun o => !((s.switchNow k.1).heads o).isEmpty && !s.solderHeld k.1 o)).map
      (fun o => (k.1, o)))

/-- The oldest message of an endpoint that its first switch has not stopped, and whose key generation is installed, enters the switch
(R42, R86). -/
def State.injectEvent (s : State) : Option (Ev × State) :=
  let goes := fun (m : Msg) =>
    let e := entryPort m.sep m.tagid
    (s.switch e.1).stops.get (inputStop e.2 m.tc) 0 == 0 && !s.keyStall m
  match s.net.find? goes with
  | none => none
  | some m =>
    let e := entryPort m.sep m.tagid
    some ({ Ev.zero with at_ := e.1, x := e.2, msg := m }, { s with net := s.net.erase m })

/-! ## What every endpoint does with an arriving message (R87, R73, R183, R184) -/

/-- R73: whether the firewall of a column cluster refuses a message. A cluster with no firewall register is none of the
column. -/
def State.firewallRefuses (s : State) (ep : Nat) (m : Msg) : Bool :=
  match niOf ep with
  | none => false
  | some cl => match s.mon.firewalls.look cl with
    | none => false
    | some w =>
      let perm := fwPerms w
      let allowed := if m.tc = 2 then perm / 8 % 2 else if m.tc = 3 then perm / 2 % 2 else perm / 4 % 2
      !(s.mon.pmasks.get cl 0).testBit m.part || (!s.columnEp m.sdev m.sep && allowed == 0)

/-- The block of an endpoint of this device. -/
def epBlock (ep : Nat) : Nat := ep / 512 % 4 * 8 + ep / 64 % 8

/-- The generation of the counts that an endpoint keeps. -/
def State.epGen (s : State) (ep : Nat) : Nat :=
  if isSlice ep then (s.slice (epSlice ep)).snapGen else match niOf ep with
    | some cl => (s.cluster cl).snapGen
    | none => 0

/-- Count a message in an endpoint's own count (R183). -/
def State.recvOne (s : State) (ep : Nat) : State :=
  if isSlice ep then s.modSlice (epSlice ep) (fun k => { k with recv := (k.recv + 1) % 2 ^ 32 })
  else match niOf ep with
    | some cl => s.modCluster cl (fun k => { k with recv := (k.recv + 1) % 2 ^ 32 })
    | none => s

/-- The job that another device starts snapshots of, of which this endpoint meets the new colour before any marker (R184). -/
def State.earlyJob (s : State) (ep : Nat) (m : Msg) : Option (Nat × JobState) :=
  let n := s.jobOfBlock (epBlock ep)
  match s.jobs.look n with
  | none => none
  | some j =>
    if j.home / 4096 ≠ s.devId ∧ j.current.isNone ∧ m.sdev ≠ s.devId ∧ j.devmask.testBit m.sdev ∧ m.col ≠ parity (s.epGen ep) then
      some (n, j) else none

/-- Count an arriving message (R183). The first one of the new colour makes the endpoint take its cut first, also on a device
that no marker has reached yet; after the cut, one of the old colour is a crossing one (R184; log entry 126). -/
def State.countRecv (s : State) (ep : Nat) (m : Msg) : State :=
  if !m.counted || 2048 ≤ ep then s
  else
    let s := match s.earlyJob ep m with
      | some (n, j) =>
        let g := Snap.new ((s.epGen ep + 1) % 2 ^ 32) 0 (j.fullNext || j.snaps.all (fun (g : Snap) => !g.sealed))
        { s with jobs := s.jobs.put n { j with snaps := g :: j.snaps } }
      | none => s
    match s.snapOfBlock (epBlock ep) with
    | none => s.recvOne ep
    | some (n, g) =>
      if m.col = parity g.gen then (s.cutAt ep n g.gen).recvOne ep
      else if s.epGen ep = g.gen then s.modSnap n g.gen (fun g => g.count (if isSlice ep then ep else niEndpoint ((niOf ep).getD 0)) 0 1)
      else s.recvOne ep

/-- Run a write of an arriving message with its colour (R184). -/
def State.withColour (s : State) (m : Msg) (f : State → State) : State := { (f { s with colour := some m.col }) with colour := none }

/-- SRC of the audit entry of a message that an endpoint discards (R87; log entry 142). -/
def auditSrc (ep : Nat) : Nat := match niOf ep with
  | some cl => cl * 8
  | none => 0xFFFF

/-- An endpoint takes a message: one whose tag fails is discarded and logged (R87), one that a firewall refuses is discarded
and logged (R73); another is counted and handled. SRC of such an entry is the first core of the interface's cluster, and 0xFFFF at an
endpoint with no core (log entry 142). -/
def takeMsgAt (f : Nat → Msg → State → State) (s : State) : Outcome :=
  runEvent (fun ev s =>
    let m := ev.msg
    let src := auditSrc ev.at_
    if !m.tagOk then s.audit 4 src m.part m.header0
    else if s.firewallRefuses ev.at_ m then s.audit 3 src (src / 8) m.header0
    else f ev.at_ m (s.countRecv ev.at_ m)) s

/-- R38: a message that no rule of the table lets pass is discarded and logged as a tag failure (R87), with SRC as for any other
(log entry 142). -/
def execUnknownMessage (s : State) : Outcome :=
  runEvent (fun ev s => s.audit 4 (auditSrc ev.at_) ev.msg.part ev.msg.header0) s

/-! ## Answers -/

/-- Mark the result of a request from another device in its replay table (R28). -/
def State.storeResult (s : State) (m : Msg) (op : Nat) (words : List Word) : State :=
  if m.sdev = s.devId ∨ m.tc ≠ 0 then s
  else s.modPeer m.sdev (fun p => match p.replays.look (m.eseq % 4096) with
    | some r => if r.eseq = m.eseq ∧ ¬ r.done then
        { p with replays := p.replays.put (m.eseq % 4096) { r with done := true, result := word op :: words } } else p
    | none => p)

/-- The message with which an endpoint answers a request: PART is that of the endpoint's block, and the hub root, which has none, keeps
the requester's; the key is that of the context that the request is for (R37; log entry 136). -/
def State.reply (s : State) (ep : Nat) (m : Msg) (op : Nat) (words : List Word) : Msg :=
  { mkMsg m.sdev m.sep s.devId ep (if op = 0x50 then 2 else 1) op m.tagid (if ep < 2048 then s.partOfBlock (epBlock ep) else m.part)
      (parity (s.epGen ep)) words with eseq := m.eseq, key := if m.sdev = s.devId then m.key else bits (m.payload.getD 1 0) 63 48 }

/-- An endpoint answers a request. -/
def State.answer (s : State) (ep : Nat) (m : Msg) (op : Nat) (words : List Word) (poison : Nat) : State :=
  (s.storeResult m op words).inject { s.reply ep m op words with poison := poison }

/-- An endpoint answers FAIL with a cause and a detail (R38). -/
def State.answerFail (s : State) (ep : Nat) (m : Msg) (cause detail : Nat) : State :=
  s.answer ep m 0x4F [word (cause * 2 ^ 56 + detail % 2 ^ 32)] 0

end Sys2Proof.Machine
end

