-- ==== Sys2Proof/Machine/Requests.lean ====
section
/-! DEFINITION. Requests at the stage that serves them (R38, R171, R176 to R180, R405, R52, R28): loads, stores, atomics, reductions,
queue operations, copy-unit reads and writes, remote accesses of local memory; the pending entries and the spill queue of
a home slice. -/

namespace Sys2Proof.Machine

/-! ## Where a request is served -/

/-- The place a request names: its context, the path from the receiving stage to home, the object address and the home of
its first byte, and the object-table entry. -/
structure Place where
  ctxid : Nat
  path  : List Nat
  oaddr : Nat
  home  : Home
  ent   : Ent
  deriving DecidableEq, Repr

/-- The bytes that a request names from its address on, so far as LENGTH bounds them (R52): those it writes up to the highest of
its mask, those it reads; of a line, whose stage asks for all of it, the first (log entry 99). -/
def Msg.extent (m : Msg) : Nat :=
  if m.op = 0x03 ∨ m.op = 0x23 ∨ m.op = 0x24 then max 1 ((m.word 0).toNat.log2 + 1)
  else if 0x07 ≤ m.op ∧ m.op ≤ 0x0A then 8
  else if m.req.size = 128 then 1 else m.req.size

/-- R52: the checks of a request from another device, in their order; a failed one gives a cause. -/
def State.peerPlace (s : State) (m : Msg) (rights : List Nat) : Except Nat Place :=
  let r := m.req
  match s.proc? r.ctxid with
  | none => .error Cause.hInvalid
  | some p =>
    if p.retired then .error Cause.hInvalid
    else match s.ent r.ctxid r.handle with
      | none => .error Cause.hInvalid
      | some e =>
        if e.free || e.owner != r.ctxid || !s.hasHome r.ctxid e then .error Cause.hInvalid
        else match rights.find? (fun i => !e.rights.testBit i) with
          | some i => .error (rightCause i)
          | none =>
            if e.len < r.addr + m.extent then .error Cause.hBound
            else match s.translate r.ctxid e r.addr .read 0 with
              | .ok (.peer _ _ _ _ _) => .error Cause.pageMiss
              | .ok h => .ok ⟨r.ctxid, [], e.base + r.addr, h, e⟩
              | .error b => .error b.cause

/-- The home slice of a place (R49 to R51). -/
def State.slicePlace (s : State) (h : Home) : Option Nat := match h with
  | .mem k => s.sliceOf k
  | .host a => s.hostHomes.look (a / 65536)
  | _ => none

/-- The tier that a request at a home slice names: that of the object, or the destination of a transit (R58). -/
def Ent.tierFor (e : Ent) (op : Nat) : Nat := if op = 0x24 then (if e.mig = 1 then 0 else 1) else e.tier

/-- The home that a tier address names at a slice. -/
def sliceHome (part tier ep addr : Nat) : Home :=
  if tier = 2 then .host addr else .mem (memKey part tier (if tier = 0 then ep / 512 % 4 else 0) addr)

/-- Whether a page of memory belongs to an object. -/
def State.ownsPage (s : State) (ctxid part : Nat) (e : Ent) (page : Nat) : Bool :=
  (pageStarts (e.base - s.mapBase ctxid e) e.len).any (fun d =>
    homeOf part e.die (word (s.mem.getLE (s.pteKey ctxid e d) 8)) 0 == .mem page)

/-- R58: the byte to which migrations have moved the one that a request at a home slice names, when the slice is no longer its
home: the page was of the tier that the object has now, or of the other. -/
def State.movedTo (s : State) (ep : Nat) (m : Msg) : Option Nat :=
  let r := m.req
  if s.moved.isEmpty || m.sdev != s.devId then none
  else match s.ent r.ctxid r.handle, s.proc? r.ctxid with
    | some e, some p =>
      let key := fun (tier : Nat) => memKey p.part tier (if tier = 0 then ep / 512 % 4 else 0) r.addr
      if 2 ≤ e.tier || s.ownsPage r.ctxid p.part e (key (e.tierFor m.op) / 65536 * 65536) then none
      else ([e.tierFor m.op, 1 - e.tierFor m.op].findSome? (fun t =>
        (s.moved.look (key t / 65536 * 65536)).filter (fun k => s.ownsPage r.ctxid p.part e k))).map (fun k => k + r.addr % 65536)
    | _, _ => none

/-- The place of a request: of another device under R52, at a home slice by its tier address, at a bank by its object
address (R38). -/
def State.placeOf (s : State) (ep : Nat) (m : Msg) (rights : List Nat) : Except Nat Place :=
  let r := m.req
  if m.sdev != s.devId then s.peerPlace m rights
  else match s.ent r.ctxid r.handle, s.proc? r.ctxid with
    | some e, some p =>
      if isSlice ep then .ok ⟨r.ctxid, [], r.addr, sliceHome p.part (e.tierFor m.op) ep r.addr, e⟩
      else match s.translate r.ctxid e (r.addr - e.base) .read 0 with
        | .ok h => .ok ⟨r.ctxid, vcPath p.vcs 7 r.vc, r.addr, h, e⟩
        | .error b => .error b.cause
    | _, _ => .error Cause.hInvalid

/-! ## Reads (RD, BRD) -/

/-- The bytes of a place, at most a line, with the poison mask of its doublewords. -/
def State.placeRead (s : State) (pl : Place) (n : Nat) : (List Byte × Nat) × State :=
  let i := pl.oaddr % 128
  if pl.path.isEmpty then
    (((s.homeRead pl.home n).1, (List.range (ceilDiv n 8)).foldl (fun m j =>
      if s.homePoisoned (pl.home.plus (8 * j)) (min 8 n) then m + 2 ^ j else m) 0), s)
  else
    let (p, s) := fetchAt pl.ctxid 256 (pl.oaddr / 128) (pl.home.lineOf i) none (byteMask i n) pl.path s
    (((p.1.drop i).take n, p.2 / 2 ^ (i / 8) % 2 ^ ceilDiv n 8), s)

/-- The words of bytes, the last padded with zeros. -/
def bytesWords (bs : List Byte) : List Word := (chunksOf 8 (bs.length + 1) bs).filterMap (fun b => if b.isEmpty then none else some (word (leNat b)))

/-- A read is served: the data goes back with its poison (R100); a page that the host refuses answers FAIL (R52). -/
def serveRead (ep : Nat) (m : Msg) (s : State) : State :=
  let n := m.req.size
  let op := if m.op = 0x21 then 0x50 else 0x41
  match s.placeOf ep m [rR] with
  | .error c => s.answerFail ep m c 0
  | .ok pl =>
    if s.hostDenies pl.home then s.answerFail ep m Cause.remoteFail 0
    else
      let (r, s) := s.placeRead pl n
      s.answer ep m op (bytesWords r.1) r.2

/-! ## Writes (WR, WRH, BWRH, MFWD) -/

/-- Masked bytes of one line are merged at a place, with the doublewords of it that carry poison (R100); `none` when the exclusion
of W and X forbids it (R92). -/
def State.placeWrite (s : State) (m : Msg) (pl : Place) (bs : List Byte) (mask pz : Nat) : Option State :=
  let i := pl.oaddr % 128
  let line := List.replicate i 0 ++ bs ++ List.replicate (128 - i - bs.length) 0
  let old := s.homeRead pl.home bs.length
  if pl.path.isEmpty && s.wxBad pl.home (mergeBytes old.1 bs mask) then none
  else some (s.withColour m (fun s =>
    storeAt pl.ctxid 256 0 (pl.oaddr / 128) (pl.home.lineOf i) line (mask * 2 ^ i) (pz * 2 ^ (i / 8)) pl.path s))

/-- The half line of a message and its mask. -/
def Msg.half (m : Msg) : List Byte × Nat :=
  (((List.range 8).flatMap (fun i => leBytes 8 (m.word (1 + i)).toNat)), (m.word 0).toNat)

/-- The bytes of a WR and their place in the payload doubleword: SIZE bytes at their byte position. -/
def Msg.small (m : Msg) : List Byte := ((leBytes 8 (m.word 0).toNat).drop (m.req.addr % 8)).take m.req.size

/-- A write is merged at its stage and acknowledged: ACK, or LACK for TC2 (R38, R179). -/
def serveWrite (ep : Nat) (m : Msg) (s : State) : State :=
  let ack := if m.tc = 2 then 0x46 else 0x42
  match s.placeOf ep m [rW] with
  | .error c => s.answerFail ep m c 0
  | .ok pl =>
    if s.hostDenies pl.home then s.answerFail ep m Cause.remoteFail 0
    else
      let d := if m.op = 0x02 then (m.small, 2 ^ m.req.size - 1) else m.half
      match s.placeWrite m pl d.1 d.2 (if m.op = 0x02 then m.poison / 4 % 2 else m.poison / 8 % 256) with
      | none => s.answerFail ep m Cause.hWx 0
      | some s => s.answer ep m ack [] 0

/-! ## Atomics, reductions, nibbles (ATOM, RED, NIB) -/

/-- The core that sent a request: its network interface and CORE. -/
def Msg.issuer (m : Msg) : Nat := epCluster m.sep * 8 + m.req.core

/-- The node word of a scope for the issuer of a message (R354). -/
def Msg.node (m : Msg) (ctxid scope : Nat) : Nat :=
  match scope with
  | 0 => m.sdev * 2 ^ 11 + m.issuer
  | 1 => 2 ^ 24 + m.sdev * 2 ^ 8 + m.issuer / 8
  | 2 => 2 * 2 ^ 24 + m.sdev
  | 3 => 3 * 2 ^ 24
  | v => v * 2 ^ 24 + m.sdev * 2 ^ 16 + ctxid

/-- R355: whether the scope of a message's acquire includes a recorded node. Of another device's VCs this device knows no tree: such a
scope includes its own node, and those of the issuer's cluster and its cores, whose path passes through it (log entry 57). -/
def State.msgIncludes (s : State) (m : Msg) (e : Ent) (ctxid scope node : Nat) : Bool :=
  if m.sdev = s.devId then s.includes m.issuer ctxid e scope node
  else
    let kind := node / 2 ^ 24
    let low := node % 2 ^ 24
    let dev := if kind = 0 then low / 2048 else if kind = 1 then low / 256 else if kind = 2 then low else low / 65536
    let near := dev == m.sdev && ((kind == 0 && low % 2048 / 8 == m.issuer / 8) || (kind == 1 && low % 256 == m.issuer / 8))
    match scope with
    | 2 => kind != 3 && dev == m.sdev
    | 3 => true
    | 0 => node == m.node ctxid 0
    | v => node == m.node ctxid v || near

/-- The operation of an AOP: its number in `amoNew`, or 20 for `fadd.s`, 21 for `fmax.s` (R262, R265). -/
def aopOf (op aop : Nat) : Nat :=
  if op = 0x04 then (if aop = 20 then 20 else aop / 2) else if aop = 16 then 20 else if aop = 17 then 21 else aop / 2 + 2

/-- R178: an atomic or a reduction is performed at home in the line's single order. -/
def serveAtomic (ep : Nat) (m : Msg) (s : State) : State :=
  let r := m.req
  match s.placeOf ep m [rA] with
  | .error c => s.answerFail ep m c 0
  | .ok pl =>
    let k := aopOf m.op r.aop
    let line := pl.home.syncLine
    let viol := match s.sync.look line with
      | some n => if m.op = 0x04 ∧ (r.ord = 1 ∨ r.ord = 3) ∧ ¬ s.msgIncludes m pl.ent pl.ctxid r.scope n then some n else none
      | none => none
    match viol with
    | some n => s.answerFail ep m Cause.scopeViolation n
    | none =>
      let old := s.homeRead pl.home r.size
      if s.hostDenies pl.home then s.answerFail ep m Cause.remoteFail 0
      else if old.2 || m.poison / 4 != 0 then s.answerFail ep m Cause.uncorrData 0
      else
        let v := leNat old.1
        let b := (m.word 0).toNat % 2 ^ (8 * r.size)
        let new := if m.op = 0x04 then atomNew k r.size v b ((m.word 1).toNat % 2 ^ (8 * r.size)) else some (redNew k r.size v b)
        let bad := match new with
          | some n => s.wxBad pl.home (leBytes r.size n)
          | none => false
        if bad then s.answerFail ep m Cause.hWx 0
        else
          let s := match new with
            | some n => s.withColour m (fun s => s.homeStore pl.home (leBytes r.size n) (2 ^ r.size - 1))
            | none => s
          let s := if r.ord = 2 ∨ r.ord = 3 then { s with sync := s.sync.put line (m.node pl.ctxid r.scope) } else s
          if m.op = 0x04 then s.answer ep m 0x43 [word v] 0 else s.answer ep m 0x42 [] 0

/-- R111: an ATOM about a barrier object, of another device (log entry 14): it arrives with the generation in its operand, when bit 32
of that is set, and is answered with GEN as it was. The release of a gang barrier arms the copy-on-write of R193. -/
def serveArrive (ep : Nat) (m : Msg) (s : State) : State :=
  match s.placeOf ep m [rS] with
  | .error c => s.answerFail ep m c 0
  | .ok pl =>
    let old := (s.obar pl.home).gen
    let s := if bit (m.word 0) 32 then
        let s := s.withColour m (fun s => (s.objArrive pl.home (bits (m.word 0) 31 0)).2)
        if (s.obar pl.home).gen != old then (s.stepGangs pl.ctxid m.req.handle old).foldl (fun s i => s.armStep i) s else s
      else s
    s.answer ep m 0x43 [word old] 0

/-- R255: a nibble at home: a masked atomic on one 4-bit element. -/
def serveNib (ep : Nat) (m : Msg) (s : State) : State :=
  match s.placeOf ep m [rW] with
  | .error c => s.answerFail ep m c 0
  | .ok pl =>
    if s.hostDenies pl.home then s.answerFail ep m Cause.remoteFail 0
    else
      let old := ((s.homeRead pl.home 1).1.getD 0 0).toNat
      let b := BitVec.ofNat 8 (putNibble old (bit (m.word 0) 8) (bits (m.word 0) 3 0))
      if s.wxBad pl.home [b] then s.answerFail ep m Cause.hWx 0
      else
        let s := s.withColour m (fun s => s.homeStore pl.home [b] 1)
        (if m.poison.testBit 2 then s.markHome (pl.home.lineOf (pl.oaddr % 8)) 1 else s).answer ep m 0x42 [] 0

/-! ## Queues (SEND, QPOST, TAKE, TAKECAN) -/

/-- The queue that a request names, with the rights it needs. -/
def State.queuePlace (s : State) (ep : Nat) (m : Msg) (rights : List Nat) : Except Nat (Place × QDesc × Home) :=
  match s.placeOf ep m rights with
  | .error c => .error c
  | .ok pl => match s.queueOf pl.ctxid m.req.handle with
    | none => .error Cause.hInvalid
    | some (q, h) =>
      -- `rdq` has a cause of its own for ELEM 3 (R297)
      if q.bad || (q.elem == 3 && !(m.op == 0x09 && bit (m.word 0) 1)) then .error Cause.qType else .ok (pl, q, h)

/-- The sender word of a message (R296). -/
def Msg.sender (m : Msg) : Nat := senderWord m.sdev m.sep

/-- The queue's partition: that of its context. -/
def State.ctxPart (s : State) (ctxid : Nat) : Nat := match s.proc? ctxid with
  | some p => p.part
  | none => 0

/-- SEND and QPOST: the message or packet goes into slot TAIL; a full queue makes the request wait (none). -/
def servePost (ep : Nat) (m : Msg) (s : State) : Option State :=
  match s.queuePlace ep m [rS, rW] with
  | .error c => some (s.answerFail ep m c 0)
  | .ok (pl, q, h) =>
    let kind := if m.op = 0x08 then 1 else 2
    if q.kind != kind then some (s.answerFail ep m Cause.qType 0)
    else if q.closed then some (s.answerFail ep m Cause.qClosed 0)
    else if q.full then none
    else
      let ws := (List.range 8).map (fun i => m.word i)
      let s := s.post64 pl.ctxid m.req.handle q h (wordsBytes ws) (m.poison / 4 % 256) m.sender m.col
      if m.op = 0x08 then
        let s := s.handPacket pl.ctxid m.req.handle q.prio ⟨q.tail, ws, 0, false⟩
        some (s.answer ep m 0x43 [word q.tail] 0)
      else some (s.answer ep m 0x42 [] 0)

/-- TAKE: slot HEAD is removed; an empty queue answers EMPTY to `qtry`, Q_CLOSED when it is closed, and else the request
waits (none). -/
def serveTake (ep : Nat) (m : Msg) (s : State) : Option State :=
  match s.queuePlace ep m [rS, rR] with
  | .error c => some (s.answerFail ep m c 0)
  | .ok (pl, q, h) =>
    let rdq := bit (m.word 0) 1
    if q.kind != 2 then some (s.answerFail ep m Cause.qType 0)
    else if rdq && (q.elem == 0 || q.elem == 3) then some (s.answerFail ep m Cause.rdqType 0)
    else if q.count = 0 then
      if q.closed then some (s.answerFail ep m Cause.qClosed 0)
      else if bit (m.word 0) 0 then some (s.answer ep m 0x45 [] 0)
      else none
    else
      let (r, s) := s.take64 pl.ctxid m.req.handle q h m.col
      some (s.answer ep m 0x44 (word r.1 :: bytesWords r.2.1) (r.2.2 * 2))

/-- The unit whose waiting requests are kept for an endpoint. -/
def waitUnit (ep : Nat) : Nat := if isSlice ep then epSlice ep else 4096 + ep

/-- TAKECAN: a waiting TAKE of the same CTXID and tag is withdrawn (R269). -/
def serveCancel (ep : Nat) (m : Msg) (s : State) : State :=
  let same := fun (q : HomeReq) => q.msg.op == 0x09 && q.msg.req.ctxid == m.req.ctxid && q.msg.tagid == m.tagid
  (s.modSlice (waitUnit ep) (fun k => { k with takes := k.takes.filter (fun q => !same q) })).answer ep m 0x42 [] 0

/-! ## Multicast: the serving stage (R180, R405, R406) -/

/-- The endpoint of a serving unit. -/
def unitEndpoint (u : Nat) : Nat := if u < 4096 then sliceEndpoint u else u - 4096

/-- A TAGID of R403. -/
def mcastTag (id idx : Nat) : Nat := id * 2048 + idx

/-- The lines that a multicast read names: each by its index and its place. At a slice they are the lines from the address
on, within its page, that the slice homes, by the code of their home; at a VC they are consecutive, by their address. -/
def State.readLines (s : State) (ep : Nat) (m : Msg) (pl : Place) : List (Nat × Nat) :=
  let n := bits (m.word 0) 10 0
  let idx := m.tagid % 2048
  let inPage := match pl.home with
    | .mem k => k % 65536
    | .host a => a % 65536
    | _ => 65536
  if isSlice ep then
    ((List.range (512 - inPage / 128)).filter (fun i => s.slicePlace (pl.home.plus (128 * i)) == some (epSlice ep))).take n |>.map
      (fun i => (idx + i, (pl.home.plus (128 * i)).code))
  else (List.range n).map (fun i => (idx + i, m.req.addr + 128 * i))

/-- The stages of a record at a VC, from that VC on. -/
def State.recPath (s : State) (r : McastRec) : List Nat := if r.vc = 0 then [] else match s.proc? r.ctxid with
  | some p => vcPath p.vcs 7 r.vc
  | none => []

/-- The home of a line of a record at a VC. -/
def State.recHome (s : State) (r : McastRec) (place : Nat) : Home := match s.ent r.ctxid r.handle with
  | some e => (match s.translate r.ctxid e (place - e.base) .read 0 with
    | .ok h => h
    | .error _ => .gone)
  | none => .gone

/-- Whether a line of a record has its home on another device and stands in no stage of the path. -/
def State.recAbsent (s : State) (r : McastRec) (place : Nat) : Bool := r.vc != 0 && (match s.recHome r place with
  | .peer .. => s.reachesHome r.ctxid (place / 128) lineMask (s.recPath r)
  | _ => false)

/-- The message of one line to its clusters. -/
def State.lineMsg (s : State) (u : Nat) (r : McastRec) (id op idx place mask : Nat) (mc : Bool) : Msg × State :=
  let (p, s) := if r.vc = 0 then (((s.homeRead (Home.ofCode place) 128).1, s.linePoison (Home.ofCode place)), s)
    else fetchAt r.ctxid 256 (place / 128) (s.recHome r place) none lineMask (s.recPath r) s
  let ep := unitEndpoint u
  let m := mkMsg s.devId (niEndpoint (r.block * 8 + (if mc then 0 else (onesOf mask 8).getD 0 0))) s.devId ep 2 op (mcastTag id idx) r.part
    (parity (s.epGen ep)) (bytesWords p.1)
  ({ m with mc := mc, mcmask := if mc then mask else 0, poison := p.2 }, s)

/-- Counted messages leave a serving unit (R183): a replicated line is counted once for each interface that counts it. -/
def State.unitSent (s : State) (u n : Nat) : State := s.modSlice u (fun k => { k with sent := (k.sent + n) % 2 ^ 32 })

/-- Change a record of a unit. -/
def State.modRec (s : State) (u id : Nat) (f : McastRec → McastRec) : State :=
  s.modSlice u (fun k => { k with records := k.records.map (fun r => if r.id = id then f r else r) })

/-- A line already sent goes to each of the joiner's clusters by unicast (R405). -/
def State.unicastLines (s : State) (u : Nat) (r : McastRec) (id mask : Nat) (ls : List (Nat × Nat)) : State :=
  ls.foldl (fun s l => (onesOf mask 8).foldl (fun s c =>
    let (m, s) := s.lineMsg u r id 0x60 l.1 l.2 (2 ^ c) false
    ((s.inject m).unitSent u 1).modRec u r.id (fun r => { r with
      owed := r.owed ++ [(id, l.1, c)], bad := if m.poison = 0 then r.bad else r.bad ++ [id] })) s) s

/-- The notices of a join to every interface that the record or the joiner names (R405). -/
def State.sendNotices (s : State) (u : Nat) (r : McastRec) (j mask f : Nat) : State :=
  (onesOf (r.mask ||| mask) 8).foldl (fun s c =>
    s.inject (mkMsg s.devId (niEndpoint (r.block * 8 + c)) s.devId (unitEndpoint u) 3 0x71 (mcastTag r.id f) r.part
      (parity (s.epGen (unitEndpoint u))) [word (r.id * 2 ^ 59 + j * 2 ^ 54 + f * 2 ^ 43)])) s

/-- A multicast read joins a live record (R405). -/
def State.joinRecord (s : State) (u : Nat) (r : McastRec) (m : Msg) (ls : List (Nat × Nat)) : State :=
  let j := m.tagid / 2048
  let later := ls.filter (fun l => r.lines.contains l)
  let sent := ls.filter (fun l => r.sent.contains l && !s.recAbsent r l.2)
  let s := s.modRec u r.id (fun r => { r with asks := r.asks ++ [(j, m.sep, m.tagid)] })
  let s := match later with
    | [] => s
    | l :: t =>
      let f := t.foldl (fun (a : Nat) (x : Nat × Nat) => min a x.1) l.1
      (s.sendNotices u r j m.mcmask f).modRec u r.id (fun r => { r with joins := r.joins + 1, mask := r.mask ||| m.mcmask })
  s.unicastLines u r j m.mcmask sent

/-- MRD (R405): the read opens a record at its stage, or joins a live one that holds any of its lines. The sixteenth join opens
a record of its own. -/
def serveMrd (ep : Nat) (m : Msg) (s : State) : State := match s.placeOf ep m [rR] with
  | .error c => s.answerFail ep m c 0
  | .ok pl =>
    let u := waitUnit ep
    let ls := s.readLines ep m pl
    let rec_ : McastRec := ⟨m.tagid / 2048, pl.ctxid, m.req.handle, m.req.vc, epCluster m.sep / 8, m.part, ls, [], m.mcmask, 0, [],
      [(m.tagid / 2048, m.sep, m.tagid)], [], false⟩
    let add := fun (s : State) (r : McastRec) => s.modSlice u (fun k => { k with records := k.records ++ [r] })
    match (s.slice u).records.find? (fun r => r.joins < 15 && r.ctxid == pl.ctxid && r.vc == m.req.vc &&
        ls.any (fun l => r.lines.contains l || r.sent.contains l)) with
    | none => add s rec_
    | some r =>
      let own := ls.filter (fun l => !r.lines.contains l && (!r.sent.contains l || s.recAbsent r l.2))
      let s := s.joinRecord u r m ls
      if own.isEmpty then s else add s { rec_ with lines := own }

/-! ## Serving -/

/-- A bank that is being reshaped makes the requests that reach it wait (R173). -/
def State.bankShut (s : State) (ep : Nat) (m : Msg) : Bool :=
  !isSlice ep && m.sdev == s.devId && m.req.vc != 0 && (match s.proc? m.req.ctxid with
    | some p => (s.reshaping m.req.ctxid (vcPath p.vcs 7 m.req.vc)).isSome
    | none => false)

/-- Serve a request at its stage; none when it must wait there. -/
def State.serve (s : State) (ep : Nat) (m : Msg) : Option State :=
  if s.bankShut ep m then none
  else match m.op with
  | 0x01 => some (serveRead ep m s)
  | 0x21 => some (serveRead ep m s)
  | 0x04 => some (if m.req.aop = barrierAop then serveArrive ep m s else serveAtomic ep m s)
  | 0x05 => some (serveAtomic ep m s)
  | 0x06 => some (serveNib ep m s)
  | 0x07 => servePost ep m s
  | 0x08 => servePost ep m s
  | 0x09 => serveTake ep m s
  | 0x0A => some (serveCancel ep m s)
  | 0x22 => some (serveMrd ep m s)
  | _ => some (serveWrite ep m s)

/-- A request goes to the home slice of its line. -/
def State.toSlice (s : State) (n : Nat) (m : Msg) : State := s.post m.event { Ev.zero with at_ := sliceEndpoint n, msg := m }

/-- R58: a request at a slice that is no longer the home of its line is sent on to the new home. -/
def State.sentOn (s : State) (r : HomeReq) : Option State :=
  if !isSlice r.ep then none
  else (s.movedTo r.ep r.msg).bind (fun k => (s.sliceOf k).map (fun n =>
    let q0 := r.msg.payload.getD 0 0
    s.toSlice n { r.msg with payload := r.msg.payload.set 0 (word (q0.toNat / 2 ^ 56 * 2 ^ 56 + k % 2 ^ 56)) }))

/-- The line of a request at a slice. -/
def State.reqLine (s : State) (ep : Nat) (m : Msg) : Nat := match s.placeOf ep m [] with
  | .ok pl => pl.home.code / 512
  | .error _ => m.req.addr / 128

/-- Serve a request, or let it wait at its stage in arrival order. -/
def State.serveOrWait (s : State) (r : HomeReq) : State := match s.sentOn r, s.serve r.ep r.msg with
  | some s, _ => s
  | none, some s => s
  | none, none => s.modSlice (waitUnit r.ep) (fun k => { k with takes := k.takes ++ [{ r with line := s.reqLine r.ep r.msg }] })

/-- The waiting requests that can be served now, by unit: the first of each. -/
def State.wakeable (s : State) : List (Nat × HomeReq) :=
  s.slices.filterMap (fun k => (k.2.takes.find? (fun r => (s.serve r.ep r.msg).isSome)).map (fun r => (k.1, r)))

/-- Serve a waiting request. -/
def State.wakeReq (s : State) (n : Nat) (r : HomeReq) : State :=
  (s.modSlice n (fun k => { k with takes := k.takes.erase r })).serveOrWait r

/-! ## Pending entries and the spill queue of a home slice (R176, R177) -/

/-- The partitions that use a slice are told that its spill queue is full (R177). -/
def State.spillFull (s : State) (n : Nat) : State :=
  s.noticePart (s.partOfBlock (n / 8)) Cause.spillExhausted (word n)

/-- Whether a line can have an entry of a slice: it holds one already, or one is free (R176). -/
def Slice.holds (k : Slice) (line : Nat) : Bool := k.takes.any (fun r => r.line == line) || decide (k.used < 128)

/-- A request reaches a slice: it merges into the entry of its line, opens one, or is spilled; behind spilled requests of
its line it is spilled too. What reaches a full spill queue in spite of the stop of TC0 is kept as well (log entry 89). -/
def State.atSlice (s : State) (ep : Nat) (m : Msg) : State :=
  let n := epSlice ep
  let k := s.slice n
  let line := s.reqLine ep m
  let r : HomeReq := ⟨ep, m, line⟩
  let behind := k.spill.any (fun q => s.reqLine q.ep q.msg == line)
  if !behind && k.entries.any (fun e => e.line == line) then
    s.modSlice n (fun k => { k with
      entries := k.entries.map (fun e => if e.line = line then { e with reqs := e.reqs ++ [r] } else e) })
  else if !behind && k.holds line then
    s.modSlice n (fun k => { k with entries := k.entries ++ [⟨line, [r]⟩] })
  else
    let s := s.modSlice n (fun k => { k with spill := k.spill ++ [r] })
    let len := k.spill.length + 1
    let s := if len = 16384 then s.raiseMonitor Cause.homeOverload else s
    if len = 32768 then s.spillFull n else s

/-- A request arrives at its stage: at a home slice it takes a pending entry, or is sent on to the line's new home (R58); the hub
root passes one of another device on to the home slice of the line (R52), from the input port of its link (R25); a bank serves it. -/
def State.arriveReq (s : State) (ep : Nat) (m : Msg) : State :=
  if isSlice ep then (s.sentOn ⟨ep, m, 0⟩).getD (s.atSlice ep m)
  else match m.sdev == s.devId, s.placeOf ep m [] with
    | false, .ok pl => (match s.slicePlace pl.home with
      | some n => s.post .switchReceive { Ev.zero with at_ := hubRoot, x := 192 + ep % 256, msg := { m with dep := sliceEndpoint n } }
      | none => s.serveOrWait ⟨ep, m, 0⟩)
    | _, _ => s.serveOrWait ⟨ep, m, 0⟩

/-- R176: entry `x` (a line) of slice `at_` has its line from DRAM; the merged requests are performed in arrival order, and
the entry is free. -/
def execDramComplete (s : State) : Outcome :=
  runEvent (fun ev s => match (s.slice ev.at_).entries.find? (fun e => e.line == ev.x) with
    | none => s
    | some e =>
      let s := s.modSlice ev.at_ (fun k => { k with entries := k.entries.filter (fun o => o.line != ev.x) })
      let s := e.reqs.foldl (fun s r => s.serveOrWait r) s
      if (s.slice ev.at_).spill.isEmpty then s else s.post .spillFetch { Ev.zero with at_ := ev.at_ }) s

/-- R177: the oldest spilled request of slice `at_` is fetched back: it merges, or takes the entry that is free. -/
def execSpillFetch (s : State) : Outcome :=
  runEvent (fun ev s =>
    let k := s.slice ev.at_
    match k.spill with
    | [] => s
    | r :: t =>
      let line := s.reqLine r.ep r.msg
      if k.entries.any (fun e => e.line == line) then
        s.modSlice ev.at_ (fun k => { k with
          spill := t, entries := k.entries.map (fun e => if e.line = line then { e with reqs := e.reqs ++ [r] } else e) })
      else if k.holds line then
        s.modSlice ev.at_ (fun k => { k with spill := t, entries := k.entries ++ [⟨line, [r]⟩] })
      else s) s

/-- The slices with an entry whose line DRAM can give: (slice, line). -/
def State.dramReady (s : State) : List (Nat × Nat) :=
  s.slices.flatMap (fun k => k.2.entries.map (fun e => (k.1, e.line)))

/-- RD (R176). -/
def execRd (s : State) : Outcome := takeMsgAt (fun ep m s => s.arriveReq ep m) s
/-- WR (R179). -/
def execWr (s : State) : Outcome := takeMsgAt (fun ep m s => s.arriveReq ep m) s
/-- WRH (R171). -/
def execWrh (s : State) : Outcome := takeMsgAt (fun ep m s => s.arriveReq ep m) s
/-- ATOM (R178). -/
def execAtom (s : State) : Outcome := takeMsgAt (fun ep m s => s.arriveReq ep m) s
/-- RED (R265). -/
def execRed (s : State) : Outcome := takeMsgAt (fun ep m s => s.arriveReq ep m) s
/-- SEND (R295). -/
def execSendMsg (s : State) : Outcome := takeMsgAt (fun ep m s => s.arriveReq ep m) s
/-- QPOST (R294). -/
def execQpostMsg (s : State) : Outcome := takeMsgAt (fun ep m s => s.arriveReq ep m) s
/-- TAKE (R296). -/
def execTake (s : State) : Outcome := takeMsgAt (fun ep m s => s.arriveReq ep m) s
/-- TAKECAN (R38, R269). -/
def execTakecan (s : State) : Outcome := takeMsgAt (fun ep m s => s.arriveReq ep m) s
/-- BRD (R164). -/
def execBrd (s : State) : Outcome := takeMsgAt (fun ep m s => s.arriveReq ep m) s
/-- BWRH (R164). -/
def execBwrh (s : State) : Outcome := takeMsgAt (fun ep m s => s.arriveReq ep m) s
/-- MRD (R405): like any request it takes a pending entry first, or is spilled (R48). -/
def execMrd (s : State) : Outcome := takeMsgAt (fun ep m s => s.arriveReq ep m) s
/-- MFWD (R58). -/
def execMfwd (s : State) : Outcome := takeMsgAt (fun ep m s => s.arriveReq ep m) s

/-! ## Local memory of the cores of a network interface (R168, R132, R169) -/

/-- The core that a message to a network interface names. -/
def niCore (ep : Nat) (m : Msg) : Nat := epCluster ep * 8 + m.req.core

/-- A word that came with poison leaves it in the doubleword of local memory that it was written to (R100). -/
def State.markLocal (s : State) (c off : Nat) (bad : Bool) : State :=
  if bad then { s with lmem := s.lmem.addPoison (lkey c off) } else s

/-- RST: a remote store is written into local memory; one that reaches the frame range is refused with REMOTE_FAIL (R132). -/
def execRst (s : State) : Outcome :=
  takeMsgAt (fun ep m s =>
    let bs := (leBytes 8 (m.word 0).toNat).take m.req.size
    match s.foreignWrite (niCore ep m) m.req.addr bs m.col with
    | (true, s) => (s.markLocal (niCore ep m) m.req.addr (m.poison.testBit 2)).answer ep m 0x42 [] 0
    | (false, s) => s.answerFail ep m Cause.remoteFail 0) s

/-- NIB: at a network interface a nibble of local memory; at a slice the nibble at home (R255). -/
def execNib (s : State) : Outcome :=
  takeMsgAt (fun ep m s =>
    if (niOf ep).isSome then
      let c := niCore ep m
      let old := (s.lmem.get (lkey c m.req.addr)).toNat
      match s.foreignWrite c m.req.addr [BitVec.ofNat 8 (putNibble old (bit (m.word 0) 8) (bits (m.word 0) 3 0))] m.col with
      | (true, s) => (s.markLocal c m.req.addr (m.poison.testBit 2)).answer ep m 0x42 [] 0
      | (false, s) => s.answerFail ep m Cause.remoteFail 0
    else s.arriveReq ep m) s

/-- RLD: the peer's local bytes; those of the frame range are as last written back (R132, R168). -/
def execRld (s : State) : Outcome :=
  takeMsgAt (fun ep m s =>
    let c := niCore ep m
    let n := m.req.size
    s.answer ep m 0x41 [word (leNat (s.lmem.getRange (lkey c m.req.addr) n))]
      (if s.lmem.poisoned (lkey c m.req.addr) n then 1 else 0)) s

/-- INV: the line leaves every L1 of the receiving cluster (R169). -/
def execInv (s : State) : Outcome :=
  takeMsgAt (fun ep m s =>
    let mine := (coresOf (epCluster ep)).filter (fun c => s.ctxidOf c == m.req.ctxid)
    (mine.foldl (fun s c => s.l1Drop c (m.req.addr / 128)) s).answer ep m 0x42 [] 0) s

end Sys2Proof.Machine
end

