-- ==== Sys2Proof/Machine/Jobs.lean ====
section
/-! DEFINITION. The jobs of the copy units and the multicast records as what waits for lines of other devices (R162 to R164, R180,
R422). -/

namespace Sys2Proof.Machine

/-! ## Jobs of a cluster -/

/-- The first job of a queue that has not completed. -/
def State.headJob (s : State) (cl q : Nat) : Option Job := (s.jobsOf cl q).find? (fun j => !j.done)

/-- Change a job, by its queue and number. -/
def State.modJobAt (s : State) (cl q seq : Nat) (f : Job → Job) : State :=
  s.setJobs cl q ((s.jobsOf cl q).map (fun j => if j.seq = seq ∧ ¬ j.done then f j else j))

/-- A job completes; that of a COPY packet completes its packet (R67), once what it wrote is visible at package scope and in host
memory (R69). -/
def State.endJob (s : State) (cl q seq fault faultH : Nat) : State :=
  match (s.jobsOf cl q).find? (fun j => j.seq == seq && !j.done) with
  | none => s
  | some j =>
    let s := s.modJobAt cl q seq (fun j => { j with done := true, fault := fault, faultH := faultH, tag := 0, lines := 0 })
    match j.kind with
    | .packet hq i => (s.cleanAll j.ctxid).post .packetComplete { Ev.zero with at_ := hq, x := i, y := if fault = 0 then 0 else 6, z := fault }
    | _ => s

/-- The queues of a cluster that hold jobs. -/
def State.jobQueues (s : State) (cl : Nat) : List Nat := (s.cluster cl).jobs.map (fun p => p.1)

/-- A job that has moved poison has a fault (R101). -/
def Job.consumed (j : Job) : Job := { j with fault := Cause.uncorrData, faultH := j.srch.index.toNat }

/-- A job that has written what comes before byte `pos`. -/
def Job.at_ (j : Job) (pos : Nat) : Job := { j with pos := pos, tag := 0, got := [] }

/-! ## Lines of other devices -/

/-- The agent under which a copy queue asks for a line behind a VC: no context of a core and no lattice entry has it. -/
def copyAgent (q : Nat) : Nat := 64 + q

/-- The line that a job waits for has come. -/
def State.jobLine (s : State) (cl q : Nat) (j : Job) (bytes : List Byte) : State :=
  s.modJobAt cl q j.seq (fun k => { k with
    tag := 0, got := k.got.map (fun (g : Nat × List Byte) => if g.2.isEmpty then (g.1, bytes) else g) })

/-- The agent under which a VC asks for a line of another device that a multicast needs. -/
def mcastAgent : Nat := 96

/-- The records that wait for a line from another device: the unit, the record, and the place of the line. -/
def State.recsAsking (s : State) (q : Remote) : List (Nat × McastRec × Nat) :=
  s.slices.flatMap (fun k => k.2.records.filterMap (fun r => match r.lines with
    | l :: _ => if r.asking && unitEndpoint k.1 == q.msg.sep && (s.recHome r l.2).code == q.off then some (k.1, r, l.2) else none
    | [] => none))

/-- A line that a multicast asked for has come: it stands in the stages of the path, and the record goes on. -/
def State.mcastLine (s : State) (q : Remote) (m : Msg) : State :=
  let line := (m.payload.flatMap (fun w => leBytes 8 w.toNat), m.poison)
  (s.recsAsking q).foldl (fun s (p : Nat × McastRec × Nat) =>
    let s := (fetchAt p.2.1.ctxid 256 (p.2.2 / 128) (s.recHome p.2.1 p.2.2) (some line) lineMask (s.recPath p.2.1) s).2
    s.modSlice p.1 (fun k => { k with records := k.records.map (fun r => if r = p.2.1 then { r with asking := false } else r) })) s

/-- A line that a multicast asked for cannot be read: its requesters get FAIL, and the record ends. -/
def State.mcastFails (s : State) (q : Remote) (cause : Nat) : State :=
  (s.recsAsking q).foldl (fun s (p : Nat × McastRec × Nat) =>
    let s := s.modSlice p.1 (fun k => { k with records := k.records.erase p.2.1 })
    let ep := unitEndpoint p.1
    p.2.1.asks.foldl (fun s a => s.inject (mkMsg s.devId a.2.1 s.devId ep 1 0x4F a.2.2 p.2.1.part (parity (s.epGen ep))
      [word (cause * 2 ^ 56)])) s) s

/-- The job that waits for a request of its queue to another device. -/
def State.waitingJob (s : State) (r : Remote) : Option (Nat × Job) :=
  if r.ctx < copyAgent 0 ∨ copyAgent 16 ≤ r.ctx then none
  else match s.headJob (r.core / 8) (r.ctx - copyAgent 0) with
    | some j => if j.tag = 1 then some (r.ctx - copyAgent 0, j) else none
    | none => none

end Sys2Proof.Machine
end

