-- ==== Sys2Proof/Machine/Lattice.lean ====
section
/-! DEFINITION. How a lattice instruction is taken in (R136, R214 to R218, R306): the operand word, the checks of its
contents, what is captured, and the queue (R150). -/

namespace Sys2Proof.Machine

/-! ## The operand word (R216) -/

/-- KCONST. -/
def owConst (w : Word) : Nat := bits w 63 32
/-- ZC. -/
def owZC (w : Word) : Bool := bit w 26
/-- NB. -/
def owNB (w : Word) : Bool := bit w 25
/-- NA. -/
def owNA (w : Word) : Bool := bit w 24
/-- BC. -/
def owBC (w : Word) : Bool := bit w 23
/-- SAT. -/
def owSat (w : Word) : Bool := bit w 22
/-- MEN. -/
def owMen (w : Word) : Bool := bit w 21
/-- MBASE. -/
def owMbase (w : Word) : Nat := bits w 20 16
/-- The first row of the window. -/
def owStart (w : Word) : Nat := bits w 7 0
/-- The rows of the window: 0 means 128. -/
def owRows (w : Word) : Nat := if bits w 15 8 = 0 then 128 else bits w 15 8

/-- Bits of the operand word that a group may honour. -/
abbrev okWindow : Nat := 0xFFFF
/-- MEN and MBASE. -/
abbrev okMask : Nat := 0x3F0000
/-- SAT. -/
abbrev okSat : Nat := 0x400000
/-- BC. -/
abbrev okBC : Nat := 0x800000
/-- NA, NB and ZC. -/
abbrev okNeg : Nat := 0x7000000

/-! ## Element types (R148, R307) -/

/-- The element types of a row. -/
inductive Elt where
  | f32 | bf16 | f16 | e4m3 | e5m2 | i32
  deriving DecidableEq, Repr

/-- The type of a code of R318 and R326. -/
def Elt.ofCode (y : Nat) : Elt :=
  match y with
  | 0 => .f32
  | 1 => .bf16
  | 2 => .f16
  | 3 => .e4m3
  | 4 => .e5m2
  | _ => .i32

/-- Bytes of an element. -/
def Elt.bytes (t : Elt) : Nat :=
  match t with
  | .f32 => 4
  | .bf16 => 2
  | .f16 => 2
  | .e4m3 => 1
  | .e5m2 => 1
  | .i32 => 4

/-- The elements of a row (R307). -/
def Elt.count (t : Elt) : Nat := 512 / t.bytes

/-- The floating-point format of a type; i32 has none and answers f32. -/
def Elt.fmt (t : Elt) : Fmt :=
  match t with
  | .f32 => .f32
  | .bf16 => .bf16
  | .f16 => .f16
  | .e4m3 => .e4m3
  | .e5m2 => .e5m2
  | .i32 => .f32

/-! ## The checks of R217 -/

/-- Step 1 for the operand word: unhonoured bits. `ok` are the bits [31:0] that the group honours. -/
def owBits (i : Instr) (w : Word) (ok : Nat) : M Unit :=
  if bits w 31 0 &&& (2 ^ 32 - 1 - ok) = 0 then pure () else trap Cause.illRsv (wordEval i 1)

/-- Step 1 for BC: under it the tB field must be zero; without it the xs2 field must name x0. -/
def owBCFields (i : Instr) (w : Word) (b : BitVec 3) (x : BitVec 5) : M Unit :=
  if owBC w then trapIf (b != 0) Cause.illRsv (wordEval i 1) else trapIf (x != 0) Cause.illRsv (wordEval i 2)

/-- Step 2: the window. -/
def owWindow (i : Instr) (w : Word) : M Unit := trapIf (128 < owStart w + owRows w) Cause.illReg (wordEval i 3)

/-- Step 3: the mask base; `n` is the number of mask elements. -/
def owMaskBase (i : Instr) (w : Word) (n : Nat) : M Unit :=
  trapIf (owMen w && owMbase w % (n / 64) != 0) Cause.illReg (wordEval i 4)

/-- The captured mask of `n` elements (R214, R306). -/
def State.maskOf (s : State) (w : Word) (n : Nat) : Nat :=
  if owMen w then
    (List.range (n / 64)).foldl (fun m i => m + (s.x (BitVec.ofNat 5 (owMbase w + i))).toNat * 2 ^ (64 * i)) 0
  else 2 ^ n - 1

/-! ## The queue (R150, R136) -/

/-- Whether a lattice instruction of a restarted region is skipped (R136); at supervisor level nothing is counted (R421). -/
def State.skipsLattice (s : State) : Bool :=
  !s.curCtx.sup && decide (s.curCtx.lcount < s.curCtx.rgnskip.toNat)

/-- R136: the count of a lattice instruction that was reached. -/
def Ctx.countLattice (x : Ctx) : Ctx :=
  if x.sup then x
  else { x with lcount := x.lcount + 1, rgnskip := word (min (max x.rgnskip.toNat (x.lcount + 1)) 0xFFFFFFFF) }

/-- A skipped instruction retires (R136). -/
def State.skipLattice (s : State) : State := s.modCur (fun x => x.countLattice.retire)

/-- An entry with nothing in it but its operands. -/
def LEntry.new (i : Instr) (ctx : Nat) (xs1 xs2 : Word) (mask : Nat) : LEntry :=
  { instr := i, ctx := ctx, xs1 := xs1, xs2 := xs2, mask := mask, index := 0, base := 0, off := 0, leaf := 0, homes := [],
    cbslot := 0, sat := false, fmt := 0, fault := none, row := 0, chunk := 0, flags := 0, bad := none, causes := [],
    params := [], spans := [], poke := none, src := Mem.empty, lines := [], asked := [], finished := false, seq := 0 }

/-- Enter an instruction into the queue; the context waits for room, and for the drain before its core's cut (R186). -/
def enterLattice (e : LEntry) : M Unit := do
  let s ← get
  waitIf (32 ≤ s.curCore.lq.length) .latticeRoom
  waitIf (s.curCore.snapPhase == 1 && s.curCore.ctxs.all (fun x => !x.live || x.cutDone)) .snapCopy
  modify (fun s => (s.modCurCore (fun k => { k with
    lq := k.lq ++ [{ e with seq := k.lseq }], lseq := k.lseq + 1 })).modCur (fun x => x.countLattice.retire))

/-- A lattice instruction: skipped on a restart, or taken in by its checks. -/
def lattice (m : M Unit) (s : State) : Outcome := if s.skipsLattice then .next s.skipLattice else runInstr m s

/-- Vector arithmetic in matrix mode, and matrix work in vector mode (R227 step 9). -/
def needMode (i : Instr) (mat : Bool) : M Unit := do
  let s ← get
  trapIf (bit s.curCore.lqst 7 != mat) Cause.illMode (wordEval i 0)

/-! ## Tile rows with their poison -/

/-- The elements of a row. -/
def State.rowElts (s : State) (c t row : Nat) (ty : Elt) : List Nat :=
  (chunksOf ty.bytes ty.count (s.rowBytes c t row 0 512)).map leNat

/-- Which elements of a row lie in a poisoned doubleword. -/
def State.rowBad (s : State) (c t row : Nat) (ty : Elt) : Nat → Bool :=
  let m := (s.tiles.poison.filter (fun d => rowKey c t row ≤ 8 * d && 8 * d < rowKey c t row + 512)).map
    (fun d => d - rowKey c t row / 8)
  fun e => m.contains (e * ty.bytes / 8)

/-- One result of a row: its bits, its flags, and whether it was computed from a poisoned word. -/
structure Cell where
  bits  : Nat
  flags : Flags5
  bad   : Bool
  deriving DecidableEq, Repr

/-- A result with no flag. -/
def Cell.pure (v : Nat) (bad : Bool) : Cell := ⟨v, Flags5.none, bad⟩

/-- A rounded result. -/
def Cell.of (r : FRes) (bad : Bool) : Cell := ⟨r.bits, r.flags, bad⟩

/-- Write the results of one row: element `e` of the list goes to element `at_ + e`; none leaves its element (R308). A
result from a poisoned word is stored poisoned (R310). -/
def State.putCells (s : State) (c t row : Nat) (ty : Elt) (at_ : Nat) (cells : List (Option Cell)) : State :=
  let k := rowKey c t row + at_ * ty.bytes
  let bs := cells.flatMap (fun r => match r with
    | some v => leBytes ty.bytes v.bits
    | none => List.replicate ty.bytes 0)
  let mask := (cells.zipIdx.foldl (fun m r => if r.1.isSome then m + (2 ^ ty.bytes - 1) * 2 ^ (r.2 * ty.bytes) else m) 0)
  let s := s.cowUnit c (256 + t)
  let m := s.tiles.putMasked k bs mask
  { s with tiles := cells.zipIdx.foldl (fun m r => match r.1 with
      | some v => if v.bad then m.addPoison (k + r.2 * ty.bytes) else m
      | none => m) m }

/-- The flags of the results of a row. -/
def cellFlags (cells : List (Option Cell)) : Flags5 := cells.foldl (fun f r => match r with
  | some v => f ||| v.flags
  | none => f) 0

/-- Whether a result of a row was computed from a poisoned word. -/
def cellBad (cells : List (Option Cell)) : Bool := cells.any (fun r => match r with
  | some v => v.bad
  | none => false)

/-- R229 `mask_on`. -/
def LEntry.on (e : LEntry) (i : Nat) : Bool := e.mask.testBit i

/-- The rows of the window. -/
def LEntry.window (e : LEntry) : List Nat := (List.range (owRows e.xs1)).map (fun i => owStart e.xs1 + i)

/-- Poison that was consumed and lies in no object: EVAL names index 0 and an offset that the spec does not give, a free value
from `lo` on; `lo` tells the places that R102 names from the others (log entry 18). -/
def LEntry.placeBad (e : LEntry) (lo : Nat) (hit : Bool) (s : State) : LEntry × State :=
  if hit && e.bad.isNone then
    let (v, s) := s.free
    ({ e with bad := some (word (lo + v.toNat % 0x1000000)) }, s)
  else (e, s)

/-- Poison of a tile. -/
def LEntry.tileBad (e : LEntry) (hit : Bool) (s : State) : LEntry × State := e.placeBad 0 hit s

/-- Poison of a weight slot or of a codebook slot, which R102 does not name. -/
def LEntry.slotWordBad (e : LEntry) (hit : Bool) (s : State) : LEntry × State := e.placeBad 0x1000000 hit s

/-- A cause that a lattice instruction defers to `lfence`. -/
def lcause (cause : Nat) (eval : Word) : Deferred := ⟨cause, eval, .lfence, 0⟩

/-- Compute the window rows of a vector instruction, one row at a time: what `f` gives for a row is written to tD from
element `at_` on. -/
def rowLoop (c d : Nat) (ty : Elt) (at_ : Nat) (f : State → Nat → List (Option Cell)) :
    List Nat → LEntry × State → LEntry × State
  | [], r => r
  | i :: rest, (e, s) =>
    let cells := f s i
    let s := s.putCells c d i ty at_ cells
    let (e, s) := { e with flags := e.flags ||| (cellFlags cells).toNat }.tileBad (cellBad cells) s
    rowLoop c d ty at_ f rest (e, s)

/-- The same over the window. -/
def LEntry.rows (e : LEntry) (s : State) (c d : Nat) (ty : Elt) (at_ : Nat) (f : State → Nat → List (Option Cell)) :
    LEntry × State := rowLoop c d ty at_ f e.window (e, s)

end Sys2Proof.Machine
end

