-- ==== Sys2Proof/Machine/Movement.lean ====
section
/-! DEFINITION. Data movement: major 0x28 (R167, R306 to R317), row by row as the movement unit serves it (R157). -/

namespace Sys2Proof.Machine

/-! ## Windows (R167) -/

/-- Bytes of memory per tile row. -/
def winBytes (w : Nat) : Nat :=
  match w with
  | 0 => 512
  | 1 => 256
  | 2 => 256
  | 7 => 1024
  | _ => 128

/-- The tile format of a window: f32 or i32 for 1 to 4 and 6, bf16 for 5 and 7. -/
def winTile (w : Nat) : Elt :=
  match w with
  | 5 => .bf16
  | 7 => .bf16
  | 6 => .i32
  | _ => .f32

/-- The memory format of windows 1 to 4 and 7. -/
def winMem (w : Nat) : Elt :=
  match w with
  | 1 => .bf16
  | 2 => .f16
  | 3 => .e4m3
  | 4 => .e5m2
  | _ => .f32

/-- The 4-bit elements of bytes, low nibble first (R197). -/
def nibbles (bs : List Byte) : List Nat := bs.flatMap (fun b => [b.toNat % 16, b.toNat / 16])

/-- A lookup in a codebook of 32 bytes (R197, R199). -/
def cbLook (cb : Mem) (x : Nat) : Nat := cb.getLE (2 * x) 2

/-- Whether an entry of a codebook lies in a poisoned word. -/
def cbBad (cb : Mem) (x : Nat) : Bool := cb.poisoned (2 * x) 2

/-- Whether any of `n` byte marks from place `i` is set. -/
def anyBad (bad : List Bool) (i n : Nat) : Bool := ((bad.drop i).take n).any id

/-- The tile elements that the memory bytes of a row give; `bad` marks the bytes that lie in poisoned words. -/
def fromMem (w : Nat) (cb : Mem) (bs : List Byte) (bad : List Bool) : List Cell :=
  match w with
  | 5 => (nibbles bs).zipIdx.map (fun (p : Nat × Nat) => Cell.pure (cbLook cb p.1) (anyBad bad (p.2 / 2) 1 || cbBad cb p.1))
  | 6 => bs.zipIdx.map (fun (p : Byte × Nat) => Cell.pure (BitVec.ofInt 32 (sextN 8 p.1.toNat)).toNat (anyBad bad p.2 1))
  | _ =>
    let m := winMem w
    (chunksOf m.bytes 512 bs).zipIdx.map (fun (p : List Byte × Nat) =>
      Cell.of (fConv (winTile w).fmt .rne (m.fmt.unpack (leNat p.1))) (anyBad bad (p.2 * m.bytes) m.bytes))

/-- The i8 encoding of window 6: clamped, with NV when it clamps. -/
def clampI8 (v : Nat) (bad : Bool) : Cell :=
  let z := sextN 32 v
  if z < -128 then ⟨0x80, Flags5.nv, bad⟩ else if 127 < z then ⟨0x7F, Flags5.nv, bad⟩
  else Cell.pure (BitVec.ofInt 8 z).toNat bad

/-- The bytes of one memory element of windows 1 to 7. -/
def winUnit (w : Nat) : Nat := if w = 6 then 1 else (winMem w).bytes

/-- The memory elements that the tile elements of a row give. -/
def toMem (w : Nat) (sat : Bool) (es : List Nat) (bad : Nat → Bool) : List Cell :=
  es.zipIdx.map (fun (p : Nat × Nat) => match w with
    | 6 => clampI8 p.1 (bad p.2)
    | _ => Cell.of (encodeTo (winMem w).fmt sat ((winTile w).fmt.unpack p.1)) (bad p.2))

/-! ## The checks of R314 -/

/-- The byte offset of a window's row as h0 has it, and its check: the first failing step of R166 and R167. -/
def localMove (off : Int) (rows : Nat) (store : Bool) : Option (Nat × Word) :=
  let ev := hEval 0 (off48 off)
  if off < 0 || 0x200000 ≤ off then some (Cause.hBound, ev)
  else
    let w := off.toNat / 0x40000
    let b := off.toNat % 0x40000
    let n := rows * winBytes w
    if store && w == 5 then some (Cause.hRightW, hEval 0 rW)
    else if 0x40000 < b + n || (store && frameBase < b + n) then some (Cause.hBound, ev)
    else if off.toNat % 8 != 0 then some (Cause.hAlign, ev)
    else none

/-- Steps 1 to 6 of R166 for a lattice access of a global object, with the targets of R314; the bytes follow from the FMT. -/
def State.checkMove (s : State) (ctxid : Nat) (h : Handle) (off : Int) (size : Nat → Nat) (align : Nat) (store : Bool) :
    Except Bad Ent :=
  let r := if store then rW else rR
  match s.checkLive ctxid h (off48 off) with
  | .error b => .error b
  | .ok e =>
    if e.fmt = 15 || (store && e.fmt == 5 && e.rights.testBit rW) then .error (Bad.of (rightCause r) (hEval e.index r))
    else s.checkEnt ctxid h off ⟨[r], size e.fmt, store, align, false, if store then .write else .read⟩

/-- `tld` and `tst` at queue entry (R306, R313, R314). -/
def enterMove (i : Instr) (h : BitVec 4) (sr xr : BitVec 5) (store : Bool) : M Unit := do
  let s ← get
  let w := s.x sr
  let off := (s.x xr).toInt
  owBits i w okWindow
  owWindow i w
  let e := { LEntry.new i s.cur.2 w (s.x xr) 0 with sat := bit s.curCtx.wctl 0 }
  if h = 0 then
    enterLattice { e with
      off := off.toNat % 0x40000, fmt := off.toNat / 0x40000, cbslot := bits s.curCtx.cbsel 11 0,
      fault := localMove off (owRows w) store }
  else
    tablesCurrent
    let s ← get
    let c := s.cur.1
    match s.checkMove (s.ctxidOf c) (s.hreg h.toNat) off (fun f => owRows w * winBytes f) 8 store with
    | .error b => enterLattice { e with fault := some (b.cause, b.eval) }
    | .ok o =>
      let a ← checkPages o off.toNat ⟨[], owRows w * winBytes o.fmt, store, 8, false, if store then .write else .read⟩
      enterLattice { e with
        index := o.index, base := o.base, off := a.off, leaf := o.leaf c, homes := a.homes, cbslot := o.cbslot, fmt := o.fmt }
      if store then noteWrite o else pure ()

/-- R313 `tld`. -/
def execTld (d : BitVec 3) (h : BitVec 4) (sr xr : BitVec 5) (s : State) : Outcome :=
  lattice (enterMove (.tld d h sr xr) h sr xr false) s

/-- R313 `tst`. -/
def execTst (d : BitVec 3) (h : BitVec 4) (sr xr : BitVec 5) (s : State) : Outcome :=
  lattice (enterMove (.tst d h sr xr) h sr xr true) s

/-- The fills (R316): window and mask. -/
def enterFill (i : Instr) (sr : BitVec 5) : M Unit := do
  let s ← get
  let w := s.x sr
  owBits i w (okWindow ||| okMask)
  owWindow i w
  owMaskBase i w 128
  enterLattice (LEntry.new i s.cur.2 w 0 (s.maskOf w 128))

/-- The tile moves (R317): `hi` is the highest bit of x(xs2) that has a use. -/
def enterTileMove (i : Instr) (sr xr : BitVec 5) (hi : Nat) : M Unit := do
  let s ← get
  let w := s.x sr
  owBits i w okWindow
  trapIf ((s.x xr).toNat / 2 ^ (hi + 1) != 0) Cause.illRsv (wordEval i 2)
  owWindow i w
  enterLattice (LEntry.new i s.cur.2 w (s.x xr) 0)

/-- R316 `tzero`. -/
def execTzero (d : BitVec 3) (sr : BitVec 5) (s : State) : Outcome := lattice (enterFill (.tzero d sr) sr) s

/-- R316 `tbc`. -/
def execTbc (d : BitVec 3) (sr : BitVec 5) (s : State) : Outcome := lattice (enterFill (.tbc d sr) sr) s

/-- R317 `tmov`. -/
def execTmov (d : BitVec 3) (sr xr : BitVec 5) (s : State) : Outcome :=
  lattice (enterTileMove (.tmov d sr xr) sr xr 2) s

/-- R317 `ttr`. -/
def execTtr (d : BitVec 3) (sr xr : BitVec 5) (s : State) : Outcome := lattice (enterTileMove (.ttr d sr xr) sr xr 2) s

/-- R317 `tgat`. -/
def execTgat (d : BitVec 3) (sr xr : BitVec 5) (s : State) : Outcome :=
  lattice (enterTileMove (.tgat d sr xr) sr xr 5) s

/-! ## Object bytes past the L1 (R314, R340) -/

/-- The home of byte `d` of a lattice access. -/
def homeAt (homes : List (Nat × Home)) (d : Nat) : Home :=
  homes.foldl (fun acc p => if p.1 ≤ d then p.2.plus (d - p.1) else acc) .gone

/-- The pieces of a range in lines of 128 bytes: the place in the range, the address, and the length. -/
def linePieces (oaddr n : Nat) : List (Nat × Nat × Nat) :=
  if n = 0 then []
  else (List.range ((oaddr + n - 1) / 128 - oaddr / 128 + 1)).map (fun i =>
    let lo := max oaddr ((oaddr / 128 + i) * 128)
    let hi := min (oaddr + n) ((oaddr / 128 + i + 1) * 128)
    (lo - oaddr, lo, hi - lo))

/-- The context number under which an entry sends to other devices: no context of a core has it. -/
def LEntry.agent (e : LEntry) : Nat := 100 + e.seq

/-- Whether a line of another device must be asked for: no stage of the path can serve the bytes of `need`. -/
def State.absent (s : State) (ctxid leaf la : Nat) (h : Home) (need : Nat) : Bool := match h with
  | .peer .. => s.reachesHome ctxid la need (s.path ctxid leaf)
  | _ => false

/-- The lines of other devices that a range needs: each line's home, its number and the VC that asks for it (R422). -/
def State.peerLines (s : State) (ctxid leaf oaddr n : Nat) (homes : List (Nat × Home)) (d : Nat) : List (Home × Nat) :=
  (linePieces oaddr n).filterMap (fun p =>
    let i := p.2.1 % 128
    let la := p.2.1 / 128
    let h := (homeAt homes (d + p.1)).lineOf i
    if s.absent ctxid leaf la h (byteMask i p.2.2) then some (h, s.sender ctxid ((s.path ctxid leaf).getLast?.getD 0) la)
    else none)

/-- Ask for a line of another device from an endpoint; 0 stands for the network interface of the core. -/
def State.askLine (s : State) (c agent index : Nat) (h : Home) (sep : Nat) : State := match h with
  | .peer dev rctx rhnd page off => s.asCtx c agent (fun s =>
    let (tag, s) := s.newTag c
    let m := s.peerMsg dev tag 0x01 7 page off 0 0 0 rctx rhnd []
    s.sendRemote dev c agent true false index h.code
      (if sep % 16 < 6 then m else { m with sep := sep }))
  | _ => s

/-- Ask for the lines of a list that have been neither asked for nor received. -/
def LEntry.ask (e : LEntry) (c : Nat) (hs : List (Home × Nat)) (s : State) : LEntry × State :=
  hs.foldl (fun (r : LEntry × State) h =>
    if r.1.asked.contains h.1.code then r
    else ({ r.1 with asked := r.1.asked ++ [h.1.code] }, r.2.askLine c e.agent e.index h.1 h.2)) (e, s)

/-- Whether every line of a list has arrived. -/
def LEntry.arrived (e : LEntry) (hs : List (Home × Nat)) : Bool := hs.all (fun h => (e.lines.look h.1.code).isSome)

/-- The bytes of a range of an object, with a mark for each byte that lies in a poisoned word. A line that came from
another device is held with its poison mask in two bytes behind it. -/
def State.readObject (s : State) (ctxid leaf oaddr n : Nat) (homes : List (Nat × Home)) (d : Nat)
    (lines : NMap (List Byte)) : (List Byte × List Bool) × State :=
  (linePieces oaddr n).foldl (fun (r : (List Byte × List Bool) × State) p =>
    let i := p.2.1 % 128
    let la := p.2.1 / 128
    let h := (homeAt homes (d + p.1)).lineOf i
    let s := r.2
    let need := byteMask i p.2.2
    let sup := if s.absent ctxid leaf la h need then
        let line := lines.get h.code (List.replicate 128 0)
        some (line.take 128, leNat (line.drop 128))
      else none
    let got := fetchAt ctxid 256 la h sup need (s.path ctxid leaf) s
    let bad := (List.range p.2.2).map (fun j => got.1.2.testBit ((i + j) / 8))
    ((r.1.1 ++ (got.1.1.drop i).take p.2.2, r.1.2 ++ bad), got.2)) (([], []), s)

/-- The doublewords of a line that hold a marked byte of a piece which stands at byte `i` of it. -/
def badWords (bad : List Bool) (i : Nat) : Nat :=
  (List.range 16).foldl (fun m w => if ((bad.drop (8 * w - i)).take (8 * w + 8 - max i (8 * w))).any (fun b => b) then m + 2 ^ w else m) 0

/-- Write a range of an object at the first stage of its path: the L1 copies of the cluster go (R169), words marked bad travel
as poison (R100, R310). The answer says whether the exclusion of W and X forbids it (R92). -/
def State.writeObject (s : State) (c ctxid leaf oaddr : Nat) (bs : List Byte) (bad : List Bool) (homes : List (Nat × Home))
    (d agent : Nat) : Bool × State :=
  let parts := linePieces oaddr bs.length
  if parts.any (fun p => s.wxBad (homeAt homes (d + p.1)) ((bs.drop p.1).take p.2.2)) then (false, s)
  else (true, s.asCtx c agent (fun s => parts.foldl (fun s p =>
    let i := p.2.1 % 128
    let la := p.2.1 / 128
    let h := homeAt homes (d + p.1)
    let piece := (bs.drop p.1).take p.2.2
    let line := List.replicate i 0 ++ piece ++ List.replicate (128 - i - piece.length) 0
    let s := (s.snoop ctxid c la).l1Drop c la
    s.coloured c ctxid leaf la (fun s =>
      storeAt ctxid 256 0 la (h.lineOf i) line (byteMask i piece.length) (badWords ((bad.drop p.1).take p.2.2) i)
        (s.path ctxid leaf) s)) s))

/-- A codebook slot of a context, with its poison (R197). -/
def State.codebook (s : State) (ctxid slot : Nat) : Mem := match s.proc? ctxid with
  | some p => Mem.empty.copyRange 0 s.mem (s.tableKey p.part (p.cbbase * 131072 + 32 * slot)) 32
  | none => Mem.empty

/-! ## One row (R313, R316, R317) -/

/-- An entry ends because the host aborts its access (R52, R314). -/
def LEntry.aborted (e : LEntry) (s : State) : LEntry × State :=
  let (v, s) := s.abortEval
  ({ e with causes := e.causes ++ [lcause Cause.remoteFail v], finished := true }, s)

/-- The offset of R248 for byte `o` of an entry's object; that of h0 has the window in its upper bits (R167). -/
def LEntry.evalOff (e : LEntry) (o : Nat) : Nat := if e.index = 0 then e.fmt * 0x40000 + o else o

/-- Poison that a conversion consumed, at its place in the object (R310); `bad` marks the bytes from `off` on. -/
def LEntry.memBad (e : LEntry) (off : Nat) (bad : List Bool) : LEntry :=
  match firstIdx id bad with
  | some i => if e.bad.isNone then { e with bad := some (hEval e.index (e.evalOff (off + i))) } else e
  | none => e

/-- The poison marks of local memory, byte by byte. -/
def State.localBad (s : State) (c off n : Nat) : List Bool :=
  (List.range n).map (fun i => s.lmem.poisoned (lkey c off + i) 1)

/-- The bytes of row `k` of a `tld`. -/
def LEntry.source (e : LEntry) (c ctxid k : Nat) (s : State) : (List Byte × List Bool) × State :=
  let n := winBytes e.fmt
  let o := e.off + k * n
  if e.index = 0 then ((s.lmem.getRange (lkey c o) n, s.localBad c o n), s)
  else s.readObject ctxid e.leaf (e.base + o) n e.homes (k * n) e.lines

/-- Row `k` of a `tld` into row `i` of tD. -/
def LEntry.loadRow (e : LEntry) (c ctxid d k i : Nat) (s : State) : LEntry × State :=
  let ((bs, bad), s) := e.source c ctxid k s
  if e.fmt = 0 then
    let s := s.putRow c d i 0 bs
    (e, (List.range 64).foldl (fun s j =>
      if anyBad bad (8 * j) 8 then { s with tiles := s.tiles.addPoison (rowKey c d i + 8 * j) } else s) s)
  else
    let cells := fromMem e.fmt e.src bs bad
    let s := s.putCells c d i (winTile e.fmt) 0 (cells.map some)
    { e.memBad (e.off + k * winBytes e.fmt) bad with flags := e.flags ||| (cellFlags (cells.map some)).toNat }.slotWordBad
      (cellBad (cells.map some)) s

/-- Row `k` of a `tst` from row `i` of tD. -/
def LEntry.storeRow (e : LEntry) (c ctxid d k i : Nat) (s : State) : LEntry × State :=
  let n := winBytes e.fmt
  let o := e.off + k * n
  let cells := if e.fmt = 0 then [] else toMem e.fmt e.sat (s.rowElts c d i (winTile e.fmt)) (s.rowBad c d i (winTile e.fmt))
  let bs := if e.fmt = 0 then s.rowBytes c d i 0 512 else cells.flatMap (fun x => leBytes (winUnit e.fmt) x.bits)
  let bad := if e.fmt = 0 then (List.range 512).map (fun j => s.rowPoisoned c d i j 1)
    else cells.flatMap (fun x => List.replicate (winUnit e.fmt) x.bad)
  let (e, s) := { e with flags := e.flags ||| (cellFlags (cells.map some)).toNat }.tileBad (cellBad (cells.map some)) s
  if e.index = 0 then
    let s := s.ownWrite c o bs
    (e, (List.range (n / 8)).foldl (fun s j =>
      if anyBad bad (8 * j) 8 then { s with lmem := s.lmem.addPoison (lkey c o + 8 * j) } else s) s)
  else
    match s.writeObject c ctxid e.leaf (e.base + o) bs bad e.homes (k * n) e.agent with
    | (true, s) => (e, s)
    | (false, s) => ({ e with causes := e.causes ++ [lcause Cause.hWx (hEval e.index o)], finished := true }, s)

/-- The words of a row of the source tiles as they were. -/
def LEntry.srcWord (e : LEntry) (tile row j : Nat) : Cell :=
  let k := tile * 65536 + row * 512 + 4 * j
  Cell.pure (e.src.getLE k 4) (e.src.poisoned k 4)

/-- A row of a tile move: the 128 words it writes. -/
def LEntry.movedWords (e : LEntry) (i : Nat) : List (Option Cell) :=
  let words := List.range 128
  match e.instr with
  | .tzero _ _ => words.map (fun j => if e.on j then some (Cell.pure 0 false) else none)
  | .tbc _ _ => words.map (fun j => if e.on j then some (Cell.pure (owConst e.xs1) false) else none)
  | .ttr _ _ _ => words.map (fun j => some (e.srcWord 0 j i))
  | .tgat _ _ _ => words.map (fun j => some (e.srcWord 0 ((e.srcWord 1 i 0).bits % 128) j))
  | _ => words.map (fun j => some (e.srcWord 0 i j))

/-- What an entry reads at its grant: the source tiles of a tile move as they are before the instruction (R309), and the codebook
slot (R197). -/
def LEntry.takeSources (e : LEntry) (c ctxid : Nat) (s : State) : LEntry :=
  let tile := fun (t : Nat) (m : Mem) (at_ : Nat) => m.copyRange (at_ * 65536) s.tiles (rowKey c t 0) 65536
  match e.instr with
  | .tmov _ _ _ => { e with src := tile (bits e.xs2 2 0) Mem.empty 0 }
  | .ttr _ _ _ => { e with src := tile (bits e.xs2 2 0) Mem.empty 0 }
  | .tgat _ _ _ => { e with src := tile (bits e.xs2 5 3) (tile (bits e.xs2 2 0) Mem.empty 0) 1 }
  | .tld _ _ _ _ => if e.fmt = 5 then { e with src := s.codebook ctxid e.cbslot } else e
  | .wbld _ _ => if e.fmt = 5 then { e with src := s.codebook ctxid e.cbslot } else e
  | .vcvtBf16Cb4 _ _ _ _ => { e with src := s.codebook ctxid e.cbslot }
  | _ => e

/-- A page of host memory that the host refuses is among the homes of an entry (R52). -/
def LEntry.denied (e : LEntry) (s : State) : Bool := e.homes.any (fun p => s.hostDenies p.2)

/-- Every line of another device that a `tld` reads. -/
def LEntry.wanted (e : LEntry) (ctxid : Nat) (s : State) : List (Home × Nat) :=
  if e.index = 0 then []
  else
    let n := owRows e.xs1 * winBytes e.fmt
    s.peerLines ctxid e.leaf (e.base + e.off) n e.homes 0

/-- One row of a data-movement instruction but `wbld`: the entry and the state after it. A `tld` of another device's object
first asks for its lines and waits for all of them, so that it writes nothing when a request fails (R314). -/
def LEntry.serveRow (e : LEntry) (c ctxid : Nat) (s : State) : LEntry × State :=
  let start := owStart e.xs1
  let last := e.row + 1 = owRows e.xs1
  let next := fun (r : LEntry × State) => ({ r.1 with row := e.row + 1, finished := r.1.finished || last }, r.2)
  if e.fault.isSome then ({ e with finished := true }, s)
  else match e.instr with
    | .tld d _ _ _ =>
      if e.denied s then e.aborted s
      else
        let hs := if e.row = 0 then e.wanted ctxid s else []
        if !e.arrived hs then e.ask c hs s
        else next (e.loadRow c ctxid d.toNat e.row (start + e.row) s)
    | .tst d _ _ _ =>
      if e.denied s then e.aborted s
      else next (e.storeRow c ctxid d.toNat e.row (start + e.row) s)
    | .tzero d _ => next (e, s.putCells c d.toNat (start + e.row) .f32 0 (e.movedWords (start + e.row)))
    | .tbc d _ => next (e, s.putCells c d.toNat (start + e.row) .f32 0 (e.movedWords (start + e.row)))
    | .tmov d _ _ => next (e, s.putCells c d.toNat (start + e.row) .f32 0 (e.movedWords (start + e.row)))
    | .ttr d _ _ => next (e, s.putCells c d.toNat (start + e.row) .f32 0 (e.movedWords (start + e.row)))
    | .tgat d _ _ => next (e, s.putCells c d.toNat (start + e.row) .f32 0 (e.movedWords (start + e.row)))
    | _ => ({ e with finished := true }, s)

end Sys2Proof.Machine
end

