-- ==== Sys2Proof/Machine/Trans.lean ====
section
/-! DEFINITION. The special functions of R208, each the exact value rounded once to f32 with RNE. The irrational
results are computed in fixed point with 320 bits after the point, far beyond f32's 24 (log entry 5). -/

namespace Sys2Proof.Machine

/-- Bits after the point of the fixed-point numbers below. -/
def fxP : Nat := 320

/-- One in fixed point. -/
def fxOne : Nat := 2 ^ 320

/-- ln 2 in fixed point, rounded down. -/
def fxLn2 : Nat :=
  1480553391661173448385607439722553250922680800745876974795605978609098082859138712941075737848984

/-- e^y for 0 ≤ y < 1 in fixed point: the Taylor sum, from term `k` down. -/
def fxExpFrom (y : Nat) : Nat → Nat → Nat
  | 0, acc => acc
  | k + 1, acc => fxExpFrom y k (fxOne + y * acc / fxOne / (k + 1))

/-- 2^f for 0 ≤ f < 1 in fixed point. -/
def fxExp2 (f : Nat) : Nat := fxExpFrom (f * fxLn2 / fxOne) 90 fxOne

/-- 2 · atanh z for 0 ≤ z < 1/2 in fixed point: the odd series, from term `k` down. -/
def fxAtanhFrom (z2 : Nat) : Nat → Nat → Nat
  | 0, acc => acc
  | k + 1, acc => fxAtanhFrom z2 k (z2 * acc / fxOne + fxOne / (2 * k + 1))

/-- ln t for 1 ≤ t < 2 in fixed point. -/
def fxLn (t : Nat) : Nat :=
  let z := (t - fxOne) * fxOne / (t + fxOne)
  2 * (z * fxAtanhFrom (z * z / fxOne) 120 0 / fxOne)

/-- A result known in fixed point and irrational. -/
def fxPack (neg : Bool) (m : Nat) (e : Int) : FRes :=
  let p := Fmt.f32.round .rne neg m e true
  ⟨p.1, p.2⟩

/-- An exact result. -/
def exactF32 (v : FVal) : FRes :=
  let p := Fmt.f32.pack .rne v
  ⟨p.1, p.2⟩

/-- The fixed-point form of `m · 2 ^ e`, rounded down. -/
def fxOf (m : Nat) (e : Int) : Nat :=
  if 0 ≤ e + fxP then m * 2 ^ (e + fxP).toNat else m / 2 ^ (-(e + fxP)).toNat

/-- R208 `vexp2`. -/
def fExp2 (a : FVal) : FRes :=
  match a with
  | .nan s => ⟨Fmt.f32.canonNan, nvIf s⟩
  | .inf neg => if neg then ⟨0, Flags5.none⟩ else ⟨Fmt.f32.infBits false, Flags5.none⟩
  | .fin neg m e =>
    if m = 0 then exactF32 (.fin false 1 0)
    else if 10 < (m.log2 : Int) + e then
      (if neg then fxPack false (2 ^ 40) (-300) else exactF32 (.fin false 1 1000))
    else
      let x := fxOf m e
      if 0 ≤ e + fxP ∧ x % fxOne = 0 then
        let n : Int := x / fxOne
        exactF32 (.fin false 1 (if neg then -n else n))
      else if neg then
        -- 2^-(n + f) = 2^-(n + 1) · 2^(1 - f)
        let n : Int := x / fxOne
        fxPack false (fxExp2 (fxOne - 1 - x % fxOne)) (-(n + 1) - fxP)
      else fxPack false (fxExp2 (x % fxOne)) ((x / fxOne : Nat) - (fxP : Int))

/-- R208 `vrcp`. -/
def fRcp (a : FVal) : FRes := fDiv .f32 .rne (.fin false 1 0) a

/-- R208 `vrsqrt`. -/
def fRsqrt (a : FVal) : FRes :=
  match a with
  | .nan s => ⟨Fmt.f32.canonNan, nvIf s⟩
  | .inf neg => if neg then ⟨Fmt.f32.canonNan, Flags5.nv⟩ else ⟨0, Flags5.none⟩
  | .fin neg m e =>
    if m = 0 then ⟨Fmt.f32.infBits neg, Flags5.dz⟩
    else if neg then ⟨Fmt.f32.canonNan, Flags5.nv⟩
    else
      let m2 := if e % 2 = 0 then m else 2 * m
      let e2 := if e % 2 = 0 then e else e - 1
      let t := 40 + bitLen m2
      let r := isqrt (2 ^ (2 * t) / m2)
      let p := Fmt.f32.round .rne false r (-(e2 / 2) - t) (r * r * m2 != 2 ^ (2 * t))
      ⟨p.1, p.2⟩

/-- R208 `vlog2`. -/
def fLog2 (a : FVal) : FRes :=
  match a with
  | .nan s => ⟨Fmt.f32.canonNan, nvIf s⟩
  | .inf neg => if neg then ⟨Fmt.f32.canonNan, Flags5.nv⟩ else ⟨Fmt.f32.infBits false, Flags5.none⟩
  | .fin neg m e =>
    if m = 0 then ⟨Fmt.f32.infBits true, Flags5.dz⟩
    else if neg then ⟨Fmt.f32.canonNan, Flags5.nv⟩
    else
      let k : Int := m.log2 + e
      if m = 2 ^ m.log2 then exactF32 (.ofInt k)
      else
        let l : Int := (fxLn (m * fxOne / 2 ^ m.log2) * fxOne / fxLn2 : Nat)
        let z : Int := k * (fxOne : Nat) + l
        fxPack (decide (z < 0)) z.natAbs (-fxP)

/-- R208 `vtanh`. -/
def fTanh (a : FVal) : FRes :=
  match a with
  | .nan s => ⟨Fmt.f32.canonNan, nvIf s⟩
  | .inf neg => exactF32 (.fin neg 1 0)
  | .fin neg m e =>
    let top : Int := m.log2 + e
    if m = 0 then exactF32 (.zero neg)
    else if top < -13 then fxPack neg (m * 2 ^ 40 - 1) (e - 40)     -- just below |a|
    else if 5 ≤ top then fxPack neg (2 ^ 60 - 1) (-60)              -- just below 1
    else
      -- (1 - q) / (1 + q) with q = e^(-2|a|) = 2^-(n + f)
      let u := 2 * fxOf m e * fxOne / fxLn2
      let q := fxExp2 (fxOne - 1 - u % fxOne) / 2 ^ (u / fxOne + 1)
      fxPack neg ((fxOne - q) * fxOne / (fxOne + q)) (-fxP)

end Sys2Proof.Machine
end

