-- ==== Sys2Proof/Machine/Vector.lean ====
section
/-! DEFINITION. Vector arithmetic: majors 0x29 to 0x2C (R306 to R311, R318 to R328, R205 to R211). -/

namespace Sys2Proof.Machine

/-! ## Elements (R319) -/

/-- The binary operations of R318. -/
inductive VOp where
  | add | sub | mul | fma | min | max
  deriving DecidableEq, Repr

/-- The exact value of an operation, and whether it is invalid (R205, R319); `na` and `nb` flip signs before the product. -/
def VOp.exact (o : VOp) (na nb : Bool) (a b c : FVal) : FVal × Bool :=
  match o with
  | .add => sumVals .rne [a, b]
  | .sub => sumVals .rne [a, b.negate]
  | .mul => mulVals [a, b]
  | .fma =>
    let p := mulVals [if na then a.negate else a, if nb then b.negate else b]
    let r := sumVals .rne [p.1, c]
    (r.1, r.2 || p.2)
  | .min => minMaxVal false a b
  | .max => minMaxVal true a b

/-- The operation on i32 bit patterns (R319): wrapping. -/
def VOp.int (o : VOp) (na nb : Bool) (a b c : Nat) : Nat :=
  let x := sextN 32 a
  let y := sextN 32 b
  let z : Int := match o with
    | .add => x + y
    | .sub => x - y
    | .mul => x * y
    | .fma => (if na then -x else x) * (if nb then -y else y) + sextN 32 c
    | .min => if x ≤ y then x else y
    | .max => if x ≤ y then y else x
  (BitVec.ofInt 32 z).toNat

/-- Round a value to an element type once: R204 for the FP8 types. -/
def Elt.round (t : Elt) (sat : Bool) (v : FVal × Bool) : FRes :=
  let r := encodeTo t.fmt sat v.1
  ⟨r.bits, r.flags ||| nvIf v.2⟩

/-- One element of a binary operation. -/
def VOp.cell (o : VOp) (t : Elt) (w : Word) (a b c : Nat) (bad : Bool) : Cell :=
  match t with
  | .i32 => Cell.pure (o.int (owNA w) (owNB w) a b c) bad
  | _ =>
    let u := fun (n : Nat) => t.fmt.unpack n
    Cell.of (t.round (owSat w) (o.exact (owNA w) (owNB w) (u a) (u b) (u c))) bad

/-- The logic and shift operations of R318. -/
inductive VLogic where
  | and | or | xor | shl | shr
  deriving DecidableEq, Repr

/-- One 32-bit word of a logic or shift operation (R319). -/
def VLogic.word (o : VLogic) (a b : Nat) : Nat :=
  match o with
  | .and => a &&& b
  | .or => a ||| b
  | .xor => a ^^^ b
  | .shl => a * 2 ^ (b % 32) % 2 ^ 32
  | .shr => (BitVec.ofInt 32 (sextN 32 a / (2 ^ (b % 32) : Nat))).toNat

/-! ## Rows -/

/-- The element of a list of elements. -/
def eltAt (l : List Nat) (i : Nat) : Nat := l.getD i 0

/-- A row of an operation with the sources tA and tB (or the broadcast B, R216): `f` gets the element number, a, b and
whether one of them lies in a poisoned word. -/
def LEntry.binRow (e : LEntry) (c a b : Nat) (t : Elt) (f : Nat → Nat → Nat → Bool → Cell) (s : State) (i : Nat) :
    List (Option Cell) :=
  let as := s.rowElts c a i t
  let abad := s.rowBad c a i t
  let bc := owBC e.xs1
  let bs := if bc then [] else s.rowElts c b i t
  let bbad := if bc then fun _ => false else s.rowBad c b i t
  let k := e.xs2.toNat % 2 ^ (8 * t.bytes)
  (List.range t.count).map (fun j =>
    if e.on j then some (f j (eltAt as j) (if bc then k else eltAt bs j) (abad j || bbad j)) else none)

/-- A row of a 0x29 operation. -/
def LEntry.opRow (e : LEntry) (c d a b : Nat) (o : VOp) (t : Elt) (s : State) (i : Nat) : List (Option Cell) :=
  let useC := o == .fma && !owZC e.xs1
  let cs := if useC then s.rowElts c d i t else []
  let cbad := if useC then s.rowBad c d i t else fun _ => false
  e.binRow c a b t (fun j x y bad => o.cell t e.xs1 x y (eltAt cs j) (bad || cbad j)) s i

/-- A row of a logic or shift operation. -/
def LEntry.logicRow (e : LEntry) (c a b : Nat) (o : VLogic) (s : State) (i : Nat) : List (Option Cell) :=
  e.binRow c a b .i32 (fun _ x y bad => Cell.pure (o.word x y) bad) s i

/-- A row of a compare (R324). -/
def LEntry.cmpRow (e : LEntry) (c a b : Nat) (o : Cmp) (t : Elt) (s : State) (i : Nat) : List (Option Cell) :=
  let ones := 2 ^ (8 * t.bytes) - 1
  e.binRow c a b t (fun _ x y bad =>
    if t = .i32 then Cell.pure (if o.test (compare (sextN 32 x) (sextN 32 y)) then ones else 0) bad
    else
      let r := fCmp o (t.fmt.unpack x) (t.fmt.unpack y)
      ⟨if r.1 then ones else 0, r.2, bad⟩) s i

/-- A row of `vsel` (R325). -/
def LEntry.selRow (e : LEntry) (c d a b : Nat) (s : State) (i : Nat) : List (Option Cell) :=
  let ss := s.rowElts c d i .i32
  let sbad := s.rowBad c d i .i32
  e.binRow c a b .i32 (fun j x y bad =>
    let m := eltAt ss j
    Cell.pure ((m &&& x) ||| ((2 ^ 32 - 1 - m) &&& y)) (bad || sbad j)) s i

/-- A row of an operation of one source: elements `from_` on of tA in type `t`, masked by destination elements from `base`
on, `n` of them. -/
def LEntry.unRow (e : LEntry) (c a : Nat) (t : Elt) (from_ base n : Nat) (f : Nat → Bool → Cell) (s : State) (i : Nat) :
    List (Option Cell) :=
  let as := s.rowElts c a i t
  let bad := s.rowBad c a i t
  (List.range n).map (fun k => if e.on (base + k) then some (f (eltAt as (from_ + k)) (bad (from_ + k))) else none)

/-- A float function of one element. -/
def fnCell (t : Elt) (g : FVal → FRes) (x : Nat) (bad : Bool) : Cell := Cell.of (g (t.fmt.unpack x)) bad

/-- `vabs` and `vneg` (R322): the sign bit alone; a NaN gives the canonical NaN. -/
def signCell (t : Elt) (neg : Bool) (x : Nat) (bad : Bool) : Cell :=
  let v := t.fmt.unpack x
  let top := 2 ^ (8 * t.bytes - 1)
  if v.isNan then ⟨t.fmt.canonNan, nvIf v.isSig, bad⟩
  else Cell.pure (if neg then x ^^^ top else x % top) bad

/-- `vcvt.i32.f32` (R203). -/
def toIntCell (x : Nat) (bad : Bool) : Cell :=
  let r := fToInt 32 .rne (Fmt.f32.unpack x)
  ⟨(BitVec.ofInt 32 r.1).toNat, r.2, bad⟩

/-- The conversion of one element into a type (R203, R204). -/
def cvtCell (src dst : Elt) (sat : Bool) (x : Nat) (bad : Bool) : Cell :=
  Cell.of (encodeTo dst.fmt sat (src.fmt.unpack x)) bad

/-! ## The tree of R210 -/

/-- One level of the tree: adjacent members are combined, a lone member passes. -/
def treeLevel (f : Cell → Cell → Cell) : List (Option Cell) → List (Option Cell)
  | a :: b :: t =>
    (match a, b with
     | some x, some y => some (f x y)
     | some x, none => some x
     | none, r => r) :: treeLevel f t
  | l => l

/-- `n` levels. -/
def treeLevels (f : Cell → Cell → Cell) : Nat → List (Option Cell) → List (Option Cell)
  | 0, l => l
  | n + 1, l => treeLevels f n (treeLevel f l)

/-- Combine two members: their flags and marks come along. -/
def treeJoin (g : Nat → Nat → FRes) (x y : Cell) : Cell :=
  let r := g x.bits y.bits
  ⟨r.bits, x.flags ||| y.flags ||| r.flags, x.bad || y.bad⟩

/-- The operation of a reduction on two words (R210, R326). -/
def treeOp (isMax : Bool) (t : Elt) (x y : Nat) : FRes :=
  match t with
  | .i32 => ⟨(if isMax then VOp.max else VOp.add).int false false x y 0, Flags5.none⟩
  | _ =>
    let u := Fmt.f32.unpack
    if isMax then fMinMax .f32 true (u x) (u y) else fAdd .f32 .rne (u x) (u y)

/-- A row of `vsum` or `vmaxr` (R326): word 0. The elements are widened exactly first. -/
def LEntry.reduceRow (e : LEntry) (c a : Nat) (isMax : Bool) (t : Elt) (s : State) (i : Nat) : List (Option Cell) :=
  let leaf := fun (x : Nat) (bad : Bool) =>
    if t = .f32 ∨ t = .i32 then Cell.pure x bad else cvtCell t .f32 false x bad
  let row := e.unRow c a t 0 0 t.count leaf s i
  let r := treeLevels (treeJoin (treeOp isMax t)) (t.count.log2) row
  let none_ := if isMax then (if t = .i32 then 0x80000000 else 0xFF800000) else 0
  [some (((r.getD 0 none)).getD (Cell.pure none_ false))]

/-- A row of `vperm` (R327). -/
def LEntry.permRow (e : LEntry) (c a b : Nat) (s : State) (i : Nat) : List (Option Cell) :=
  let as := s.rowElts c a i .i32
  let abad := s.rowBad c a i .i32
  let ix := s.rowElts c b i .i32
  let ibad := s.rowBad c b i .i32
  (List.range 128).map (fun j =>
    let k := eltAt ix j % 128
    if e.on j then some (Cell.pure (eltAt as k) (abad k || ibad j)) else none)

/-! ## Postfix programs (R220, R328) -/

/-- The token count. -/
def fuseCount (p : Word) : Nat := bits p 63 60

/-- Token `j`. -/
def fuseTok (p : Word) (j : Nat) : Nat := bits p (4 * j + 3) (4 * j)

/-- The tokens of a program. -/
def fuseToks (p : Word) : List Nat := (List.range (fuseCount p)).map (fuseTok p)

/-- Whether a program pushes a tile: token 0 tA, 1 tB, 2 tD. -/
def fusePushes (p : Word) (t : Nat) : Bool := (fuseToks p).contains t

/-- The stack check: the condition and the place of the first failure, from place `j` with a depth and a count of
operators. -/
def fuseCheck : List Nat → Nat → Nat → Nat → Option (Nat × Nat)
  | [], j, depth, _ => if depth = 1 then none else some (4, j - 1)
  | t :: ts, j, depth, ops =>
    let pops := if t < 4 then 0 else if t < 9 then 2 else 1
    let depth' := if t < 4 then depth + 1 else if t < 9 then depth - 1 else if t = 15 then depth + 1 else depth
    let ops' := if 4 ≤ t ∧ t ≤ 14 then ops + 1 else ops
    if depth < pops then some (1, j)
    else if 4 < depth' then some (2, j)
    else if 7 < ops' then some (3, j)
    else fuseCheck ts (j + 1) depth' ops'

/-- R220: the check of a whole program. -/
def fuseBad (p : Word) : Option (Nat × Nat) := if fuseCount p = 0 then some (0, 0) else fuseCheck (fuseToks p) 0 0 0

/-- One token on a stack of f32 patterns, top first, with the flags so far. -/
def fuseStep (a b c d : Nat) (r : List Nat × Flags5) (t : Nat) : List Nat × Flags5 :=
  let u := Fmt.f32.unpack
  let un := fun (st : List Nat) (g : FRes) => (g.bits :: st, r.2 ||| g.flags)
  match t, r.1 with
  | 0, st => (a :: st, r.2)
  | 1, st => (b :: st, r.2)
  | 2, st => (c :: st, r.2)
  | 3, st => (d :: st, r.2)
  | 4, q :: p :: st => un st (fAdd .f32 .rne (u p) (u q))
  | 5, q :: p :: st => un st (fSub .f32 .rne (u p) (u q))
  | 6, q :: p :: st => un st (fMul .f32 .rne (u p) (u q))
  | 7, q :: p :: st => un st (fMinMax .f32 true (u p) (u q))
  | 8, q :: p :: st => un st (fMinMax .f32 false (u p) (u q))
  | 9, p :: st => let x := signCell .f32 true p false; un st ⟨x.bits, x.flags⟩
  | 10, p :: st => let x := signCell .f32 false p false; un st ⟨x.bits, x.flags⟩
  | 11, p :: st => un st (fExp2 (u p))
  | 12, p :: st => un st (fRcp (u p))
  | 13, p :: st => un st (fRsqrt (u p))
  | 14, p :: st => un st (fTanh (u p))
  | 15, p :: st => (p :: p :: st, r.2)
  | _, st => (st, r.2)

/-- A row of `fuse` (R328). -/
def LEntry.fuseRow (e : LEntry) (c d a b : Nat) (t : Elt) (s : State) (i : Nat) : List (Option Cell) :=
  let toks := fuseToks e.xs2
  let get := fun (k tile : Nat) => if toks.contains k then s.rowElts c tile i t else []
  let bad := fun (k tile : Nat) => if toks.contains k then s.rowBad c tile i t else fun _ => false
  let as := get 0 a
  let bs := get 1 b
  let cs := get 2 d
  let abad := bad 0 a
  let bbad := bad 1 b
  let cbad := bad 2 d
  let wide := fun (x : Nat) => if t = .f32 then (⟨x, Flags5.none⟩ : FRes) else fConv .f32 .rne (t.fmt.unpack x)
  (List.range t.count).map (fun j =>
    if e.on j then
      let x := wide (eltAt as j)
      let y := wide (eltAt bs j)
      let z := wide (eltAt cs j)
      let used := fun (k : Nat) (r : FRes) => if toks.contains k then r.flags else Flags5.none
      let init := used 0 x ||| used 1 y ||| used 2 z
      let r := toks.foldl (fuseStep x.bits y.bits z.bits (owConst e.xs1)) ([], init)
      let top := r.1.headD 0
      let out := if t = .f32 then (⟨top, Flags5.none⟩ : FRes) else fConv .bf16 .rne (Fmt.f32.unpack top)
      some ⟨out.bits, r.2 ||| out.flags, abad j || bbad j || cbad j⟩
    else none)

/-! ## Entry (R306, R217) -/

/-- A binary operation at queue entry: `ok` are the bits it honours beyond window, mask and BC. -/
def enterBin (i : Instr) (b : BitVec 3) (sr xr : BitVec 5) (t : Elt) (ok : Nat) : M Unit := do
  needMode i false
  let s ← get
  let w := s.x sr
  owBits i w (okWindow ||| okMask ||| okBC ||| ok)
  owBCFields i w b xr
  owWindow i w
  owMaskBase i w t.count
  enterLattice (LEntry.new i s.cur.2 w (s.x xr) (s.maskOf w t.count))

/-- An operation with no B at queue entry; `t` is the type the mask follows. -/
def enterUn (i : Instr) (sr : BitVec 5) (t : Elt) (ok : Nat) : M Unit := do
  needMode i false
  let s ← get
  let w := s.x sr
  owBits i w (okWindow ||| okMask ||| ok)
  owWindow i w
  owMaskBase i w t.count
  enterLattice { LEntry.new i s.cur.2 w 0 (s.maskOf w t.count) with cbslot := bits s.curCtx.cbsel 11 0 }

/-- The SAT bit is honoured by the FP8 types (R318). -/
def satOk (t : Elt) : Nat := if t = .e4m3 ∨ t = .e5m2 then okSat else 0

/-- `fuse` at queue entry (R217, R220, R328). -/
def enterFuse (i : Instr) (sr xr : BitVec 5) (t : Elt) : M Unit := do
  needMode i false
  let s ← get
  let w := s.x sr
  let p := s.x xr
  owBits i w (okWindow ||| okMask)
  trapIf (p.toNat % 2 ^ 60 / 2 ^ (4 * fuseCount p) != 0) Cause.illRsv (wordEval i 2)
  owWindow i w
  owMaskBase i w t.count
  match fuseBad p with
  | some r => trap Cause.fuseStack (word (r.1 * 2 ^ 36) + wordEval i r.2)
  | none => enterLattice (LEntry.new i s.cur.2 w p (s.maskOf w t.count))

/-- R319 `vadd`. -/
def execVadd (d a b : BitVec 3) (sr xr : BitVec 5) (y : BitVec 3) (s : State) : Outcome :=
  lattice (enterBin (.vadd d a b sr xr y) b sr xr (Elt.ofCode y.toNat) (satOk (Elt.ofCode y.toNat))) s

/-- R319 `vsub`. -/
def execVsub (d a b : BitVec 3) (sr xr : BitVec 5) (y : BitVec 3) (s : State) : Outcome :=
  lattice (enterBin (.vsub d a b sr xr y) b sr xr (Elt.ofCode y.toNat) (satOk (Elt.ofCode y.toNat))) s

/-- R319 `vmul`. -/
def execVmul (d a b : BitVec 3) (sr xr : BitVec 5) (y : BitVec 3) (s : State) : Outcome :=
  lattice (enterBin (.vmul d a b sr xr y) b sr xr (Elt.ofCode y.toNat) (satOk (Elt.ofCode y.toNat))) s

/-- R319 `vfma`. -/
def execVfma (d a b : BitVec 3) (sr xr : BitVec 5) (y : BitVec 3) (s : State) : Outcome :=
  lattice (enterBin (.vfma d a b sr xr y) b sr xr (Elt.ofCode y.toNat) (satOk (Elt.ofCode y.toNat) ||| okNeg)) s

/-- R319 `vmin`. -/
def execVmin (d a b : BitVec 3) (sr xr : BitVec 5) (y : BitVec 3) (s : State) : Outcome :=
  lattice (enterBin (.vmin d a b sr xr y) b sr xr (Elt.ofCode y.toNat) (satOk (Elt.ofCode y.toNat))) s

/-- R319 `vmax`. -/
def execVmax (d a b : BitVec 3) (sr xr : BitVec 5) (y : BitVec 3) (s : State) : Outcome :=
  lattice (enterBin (.vmax d a b sr xr y) b sr xr (Elt.ofCode y.toNat) (satOk (Elt.ofCode y.toNat))) s

/-- R319 `vand`. -/
def execVand (d a b : BitVec 3) (sr xr : BitVec 5) (s : State) : Outcome :=
  lattice (enterBin (.vand d a b sr xr) b sr xr .i32 0) s

/-- R319 `vor`. -/
def execVor (d a b : BitVec 3) (sr xr : BitVec 5) (s : State) : Outcome :=
  lattice (enterBin (.vor d a b sr xr) b sr xr .i32 0) s

/-- R319 `vxor`. -/
def execVxor (d a b : BitVec 3) (sr xr : BitVec 5) (s : State) : Outcome :=
  lattice (enterBin (.vxor d a b sr xr) b sr xr .i32 0) s

/-- R319 `vshl`. -/
def execVshl (d a b : BitVec 3) (sr xr : BitVec 5) (s : State) : Outcome :=
  lattice (enterBin (.vshl d a b sr xr) b sr xr .i32 0) s

/-- R319 `vshr`. -/
def execVshr (d a b : BitVec 3) (sr xr : BitVec 5) (s : State) : Outcome :=
  lattice (enterBin (.vshr d a b sr xr) b sr xr .i32 0) s

/-- R322 `vexp2`. -/
def execVexp2 (d a : BitVec 3) (sr : BitVec 5) (s : State) : Outcome := lattice (enterUn (.vexp2 d a sr) sr .f32 0) s

/-- R322 `vrcp`. -/
def execVrcp (d a : BitVec 3) (sr : BitVec 5) (s : State) : Outcome := lattice (enterUn (.vrcp d a sr) sr .f32 0) s

/-- R322 `vrsqrt`. -/
def execVrsqrt (d a : BitVec 3) (sr : BitVec 5) (s : State) : Outcome := lattice (enterUn (.vrsqrt d a sr) sr .f32 0) s

/-- R322 `vlog2`. -/
def execVlog2 (d a : BitVec 3) (sr : BitVec 5) (s : State) : Outcome := lattice (enterUn (.vlog2 d a sr) sr .f32 0) s

/-- R322 `vtanh`. -/
def execVtanh (d a : BitVec 3) (sr : BitVec 5) (s : State) : Outcome := lattice (enterUn (.vtanh d a sr) sr .f32 0) s

/-- R322 `vabs.f32`. -/
def execVabsF32 (d a : BitVec 3) (sr : BitVec 5) (s : State) : Outcome := lattice (enterUn (.vabsF32 d a sr) sr .f32 0) s

/-- R322 `vabs.bf16`. -/
def execVabsBf16 (d a : BitVec 3) (sr : BitVec 5) (s : State) : Outcome := lattice (enterUn (.vabsBf16 d a sr) sr .bf16 0) s

/-- R322 `vneg.f32`. -/
def execVnegF32 (d a : BitVec 3) (sr : BitVec 5) (s : State) : Outcome := lattice (enterUn (.vnegF32 d a sr) sr .f32 0) s

/-- R322 `vneg.bf16`. -/
def execVnegBf16 (d a : BitVec 3) (sr : BitVec 5) (s : State) : Outcome := lattice (enterUn (.vnegBf16 d a sr) sr .bf16 0) s

/-- R323 `vcvt.bf16.f32`. -/
def execVcvtBf16F32 (d a p : BitVec 3) (sr : BitVec 5) (s : State) : Outcome :=
  lattice (enterUn (.vcvtBf16F32 d a p sr) sr .bf16 0) s

/-- R323 `vcvt.f32.bf16`. -/
def execVcvtF32Bf16 (d a p : BitVec 3) (sr : BitVec 5) (s : State) : Outcome :=
  lattice (enterUn (.vcvtF32Bf16 d a p sr) sr .f32 0) s

/-- R323 `vcvt.f16.f32`. -/
def execVcvtF16F32 (d a p : BitVec 3) (sr : BitVec 5) (s : State) : Outcome :=
  lattice (enterUn (.vcvtF16F32 d a p sr) sr .f16 0) s

/-- R323 `vcvt.f32.f16`. -/
def execVcvtF32F16 (d a p : BitVec 3) (sr : BitVec 5) (s : State) : Outcome :=
  lattice (enterUn (.vcvtF32F16 d a p sr) sr .f32 0) s

/-- R323 `vcvt.e4m3.f32`. -/
def execVcvtE4m3F32 (d a p : BitVec 3) (sr : BitVec 5) (s : State) : Outcome :=
  lattice (enterUn (.vcvtE4m3F32 d a p sr) sr .e4m3 okSat) s

/-- R323 `vcvt.f32.e4m3`. -/
def execVcvtF32E4m3 (d a p : BitVec 3) (sr : BitVec 5) (s : State) : Outcome :=
  lattice (enterUn (.vcvtF32E4m3 d a p sr) sr .f32 0) s

/-- R323 `vcvt.e5m2.f32`. -/
def execVcvtE5m2F32 (d a p : BitVec 3) (sr : BitVec 5) (s : State) : Outcome :=
  lattice (enterUn (.vcvtE5m2F32 d a p sr) sr .e5m2 okSat) s

/-- R323 `vcvt.f32.e5m2`. -/
def execVcvtF32E5m2 (d a p : BitVec 3) (sr : BitVec 5) (s : State) : Outcome :=
  lattice (enterUn (.vcvtF32E5m2 d a p sr) sr .f32 0) s

/-- R323 `vcvt.i32.f32`. -/
def execVcvtI32F32 (d a : BitVec 3) (sr : BitVec 5) (s : State) : Outcome := lattice (enterUn (.vcvtI32F32 d a sr) sr .i32 0) s

/-- R323 `vcvt.f32.i32`. -/
def execVcvtF32I32 (d a : BitVec 3) (sr : BitVec 5) (s : State) : Outcome := lattice (enterUn (.vcvtF32I32 d a sr) sr .f32 0) s

/-- R323 `vcvt.bf16.cb4`. -/
def execVcvtBf16Cb4 (d a p : BitVec 3) (sr : BitVec 5) (s : State) : Outcome :=
  lattice (enterUn (.vcvtBf16Cb4 d a p sr) sr .bf16 0) s

/-- R324 `vcmp.eq.f32`. -/
def execVcmpEqF32 (d a b : BitVec 3) (sr xr : BitVec 5) (s : State) : Outcome :=
  lattice (enterBin (.vcmpEqF32 d a b sr xr) b sr xr .f32 0) s

/-- R324 `vcmp.eq.bf16`. -/
def execVcmpEqBf16 (d a b : BitVec 3) (sr xr : BitVec 5) (s : State) : Outcome :=
  lattice (enterBin (.vcmpEqBf16 d a b sr xr) b sr xr .bf16 0) s

/-- R324 `vcmp.eq.i32`. -/
def execVcmpEqI32 (d a b : BitVec 3) (sr xr : BitVec 5) (s : State) : Outcome :=
  lattice (enterBin (.vcmpEqI32 d a b sr xr) b sr xr .i32 0) s

/-- R324 `vcmp.ne.f32`. -/
def execVcmpNeF32 (d a b : BitVec 3) (sr xr : BitVec 5) (s : State) : Outcome :=
  lattice (enterBin (.vcmpNeF32 d a b sr xr) b sr xr .f32 0) s

/-- R324 `vcmp.ne.bf16`. -/
def execVcmpNeBf16 (d a b : BitVec 3) (sr xr : BitVec 5) (s : State) : Outcome :=
  lattice (enterBin (.vcmpNeBf16 d a b sr xr) b sr xr .bf16 0) s

/-- R324 `vcmp.ne.i32`. -/
def execVcmpNeI32 (d a b : BitVec 3) (sr xr : BitVec 5) (s : State) : Outcome :=
  lattice (enterBin (.vcmpNeI32 d a b sr xr) b sr xr .i32 0) s

/-- R324 `vcmp.lt.f32`. -/
def execVcmpLtF32 (d a b : BitVec 3) (sr xr : BitVec 5) (s : State) : Outcome :=
  lattice (enterBin (.vcmpLtF32 d a b sr xr) b sr xr .f32 0) s

/-- R324 `vcmp.lt.bf16`. -/
def execVcmpLtBf16 (d a b : BitVec 3) (sr xr : BitVec 5) (s : State) : Outcome :=
  lattice (enterBin (.vcmpLtBf16 d a b sr xr) b sr xr .bf16 0) s

/-- R324 `vcmp.lt.i32`. -/
def execVcmpLtI32 (d a b : BitVec 3) (sr xr : BitVec 5) (s : State) : Outcome :=
  lattice (enterBin (.vcmpLtI32 d a b sr xr) b sr xr .i32 0) s

/-- R324 `vcmp.le.f32`. -/
def execVcmpLeF32 (d a b : BitVec 3) (sr xr : BitVec 5) (s : State) : Outcome :=
  lattice (enterBin (.vcmpLeF32 d a b sr xr) b sr xr .f32 0) s

/-- R324 `vcmp.le.bf16`. -/
def execVcmpLeBf16 (d a b : BitVec 3) (sr xr : BitVec 5) (s : State) : Outcome :=
  lattice (enterBin (.vcmpLeBf16 d a b sr xr) b sr xr .bf16 0) s

/-- R324 `vcmp.le.i32`. -/
def execVcmpLeI32 (d a b : BitVec 3) (sr xr : BitVec 5) (s : State) : Outcome :=
  lattice (enterBin (.vcmpLeI32 d a b sr xr) b sr xr .i32 0) s

/-- R325 `vsel`. -/
def execVsel (d a b : BitVec 3) (sr xr : BitVec 5) (s : State) : Outcome :=
  lattice (enterBin (.vsel d a b sr xr) b sr xr .i32 0) s

/-- R326 `vsum`. -/
def execVsum (d a y : BitVec 3) (sr : BitVec 5) (s : State) : Outcome :=
  lattice (enterUn (.vsum d a y sr) sr (Elt.ofCode y.toNat) 0) s

/-- R326 `vmaxr`. -/
def execVmaxr (d a y : BitVec 3) (sr : BitVec 5) (s : State) : Outcome :=
  lattice (enterUn (.vmaxr d a y sr) sr (Elt.ofCode y.toNat) 0) s

/-- R327 `vperm`. -/
def execVperm (d a b : BitVec 3) (sr : BitVec 5) (s : State) : Outcome := lattice (enterUn (.vperm d a b sr) sr .i32 0) s

/-- R328 `fuse.f32`. -/
def execFuseF32 (d a b : BitVec 3) (sr xr : BitVec 5) (s : State) : Outcome :=
  lattice (enterFuse (.fuseF32 d a b sr xr) sr xr .f32) s

/-- R328 `fuse.bf16`. -/
def execFuseBf16 (d a b : BitVec 3) (sr xr : BitVec 5) (s : State) : Outcome :=
  lattice (enterFuse (.fuseBf16 d a b sr xr) sr xr .bf16) s

/-! ## The computation of a granted instruction (R207, R309) -/

/-- A grant of vector arithmetic: its results and its flags. -/
def LEntry.compute (e : LEntry) (c : Nat) (s : State) : LEntry × State :=
  let bin := fun (o : VOp) (d a b y : BitVec 3) =>
    let t := Elt.ofCode y.toNat
    e.rows s c d.toNat t 0 (e.opRow c d.toNat a.toNat b.toNat o t)
  let logic := fun (o : VLogic) (d a b : BitVec 3) => e.rows s c d.toNat .i32 0 (e.logicRow c a.toNat b.toNat o)
  let un := fun (d a : BitVec 3) (t : Elt) (f : Nat → Bool → Cell) =>
    e.rows s c d.toNat t 0 (e.unRow c a.toNat t 0 0 t.count f)
  let narrow := fun (d a p : BitVec 3) (t : Elt) =>
    e.rows s c d.toNat t (128 * p.toNat) (e.unRow c a.toNat .f32 0 (128 * p.toNat) 128 (cvtCell .f32 t (owSat e.xs1)))
  let widen := fun (d a p : BitVec 3) (t : Elt) =>
    e.rows s c d.toNat .f32 0 (e.unRow c a.toNat t (128 * p.toNat) 0 128 (cvtCell t .f32 false))
  let cmp := fun (o : Cmp) (t : Elt) (d a b : BitVec 3) => e.rows s c d.toNat t 0 (e.cmpRow c a.toNat b.toNat o t)
  let keep := fun (r : LEntry × State) => ({ r.1 with bad := e.bad }, r.2)
  match e.instr with
  | .vadd d a b _ _ y => bin .add d a b y
  | .vsub d a b _ _ y => bin .sub d a b y
  | .vmul d a b _ _ y => bin .mul d a b y
  | .vfma d a b _ _ y => bin .fma d a b y
  | .vmin d a b _ _ y => bin .min d a b y
  | .vmax d a b _ _ y => bin .max d a b y
  | .vand d a b _ _ => logic .and d a b
  | .vor d a b _ _ => logic .or d a b
  | .vxor d a b _ _ => logic .xor d a b
  | .vshl d a b _ _ => logic .shl d a b
  | .vshr d a b _ _ => logic .shr d a b
  | .vexp2 d a _ => un d a .f32 (fnCell .f32 fExp2)
  | .vrcp d a _ => un d a .f32 (fnCell .f32 fRcp)
  | .vrsqrt d a _ => un d a .f32 (fnCell .f32 fRsqrt)
  | .vlog2 d a _ => un d a .f32 (fnCell .f32 fLog2)
  | .vtanh d a _ => un d a .f32 (fnCell .f32 fTanh)
  | .vabsF32 d a _ => un d a .f32 (signCell .f32 false)
  | .vabsBf16 d a _ => un d a .bf16 (signCell .bf16 false)
  | .vnegF32 d a _ => un d a .f32 (signCell .f32 true)
  | .vnegBf16 d a _ => un d a .bf16 (signCell .bf16 true)
  | .vcvtBf16F32 d a p _ => narrow d a p .bf16
  | .vcvtF32Bf16 d a p _ => widen d a p .bf16
  | .vcvtF16F32 d a p _ => narrow d a p .f16
  | .vcvtF32F16 d a p _ => widen d a p .f16
  | .vcvtE4m3F32 d a p _ => narrow d a p .e4m3
  | .vcvtF32E4m3 d a p _ => widen d a p .e4m3
  | .vcvtE5m2F32 d a p _ => narrow d a p .e5m2
  | .vcvtF32E5m2 d a p _ => widen d a p .e5m2
  | .vcvtI32F32 d a _ => e.rows s c d.toNat .i32 0 (e.unRow c a.toNat .f32 0 0 128 toIntCell)
  | .vcvtF32I32 d a _ => e.rows s c d.toNat .f32 0 (e.unRow c a.toNat .i32 0 0 128 (fun x bad =>
      Cell.of (fOfInt .f32 .rne (sextN 32 x)) bad))
  | .vcvtBf16Cb4 d a p _ =>
    let cb := e.src
    let xs := fun (s : State) i => nibbles (s.rowBytes c a.toNat i (128 * p.toNat) 128)
    let hit := e.window.any (fun i => (List.range 256).any (fun k => e.on k && cbBad cb (eltAt (xs s i) k)))
    let (e, s) := e.slotWordBad hit s
    e.rows s c d.toNat .bf16 0 (fun s i =>
      (List.range 256).map (fun k =>
        let x := eltAt (xs s i) k
        if e.on k then
          some (Cell.pure (cbLook cb x) (s.rowPoisoned c a.toNat i (128 * p.toNat + k / 2) 1 || cbBad cb x))
        else none))
  | .vcmpEqF32 d a b _ _ => cmp .eq .f32 d a b
  | .vcmpEqBf16 d a b _ _ => cmp .eq .bf16 d a b
  | .vcmpEqI32 d a b _ _ => cmp .eq .i32 d a b
  | .vcmpNeF32 d a b _ _ => cmp .ne .f32 d a b
  | .vcmpNeBf16 d a b _ _ => cmp .ne .bf16 d a b
  | .vcmpNeI32 d a b _ _ => cmp .ne .i32 d a b
  | .vcmpLtF32 d a b _ _ => cmp .lt .f32 d a b
  | .vcmpLtBf16 d a b _ _ => cmp .lt .bf16 d a b
  | .vcmpLtI32 d a b _ _ => cmp .lt .i32 d a b
  | .vcmpLeF32 d a b _ _ => cmp .le .f32 d a b
  | .vcmpLeBf16 d a b _ _ => cmp .le .bf16 d a b
  | .vcmpLeI32 d a b _ _ => cmp .le .i32 d a b
  | .vsel d a b _ _ => keep (e.rows s c d.toNat .i32 0 (e.selRow c d.toNat a.toNat b.toNat))
  | .vsum d a y _ => e.rows s c d.toNat .f32 0 (e.reduceRow c a.toNat false (Elt.ofCode y.toNat))
  | .vmaxr d a y _ => e.rows s c d.toNat .f32 0 (e.reduceRow c a.toNat true (Elt.ofCode y.toNat))
  | .vperm d a b _ => keep (e.rows s c d.toNat .i32 0 (e.permRow c a.toNat b.toNat))
  | .fuseF32 d a b _ _ => e.rows s c d.toNat .f32 0 (e.fuseRow c d.toNat a.toNat b.toNat .f32)
  | .fuseBf16 d a b _ _ => e.rows s c d.toNat .bf16 0 (e.fuseRow c d.toNat a.toNat b.toNat .bf16)
  | _ => (e, s)

end Sys2Proof.Machine
end

