-- ==== Sys2Proof/Machine/Matrix.lean ====
section
/-! DEFINITION. Matrix work and the weight buffer: major 0x2D (R158 to R160, R209, R329 to R335). -/

namespace Sys2Proof.Machine

/-! ## Sums in groups (R209, R338) -/

/-- One group: the exact sum of its products, rounded once, then added to the accumulator. -/
def addGroup (r : Nat × Flags5) (g : List (FVal × Bool)) : Nat × Flags5 :=
  let v := sumVals .rne (g.map (fun p => p.1))
  let gs := packInv .f32 .rne (v.1, v.2 || g.any (fun p => p.2))
  let u := Fmt.f32.unpack
  let acc := fAdd .f32 .rne (u r.1) (u gs.bits)
  (acc.bits, r.2 ||| gs.flags ||| acc.flags)

/-- The accumulator after a list of products in groups of `g`. -/
def groupedSum (g acc : Nat) (ps : List (FVal × Bool)) : Nat × Flags5 :=
  (chunksOf g ps.length ps).foldl addGroup (acc, Flags5.none)

/-! ## Weight slots (R158, R159) -/

/-- Slot `n` of a cluster. -/
def State.slot (s : State) (cl n : Nat) : Slot := (s.cluster cl).slots.get n Slot.zero

/-- Replace a slot descriptor. -/
def State.setSlot (s : State) (cl n : Nat) (x : Slot) : State :=
  s.modCluster cl (fun k => { k with slots := k.slots.put n x })

/-- The first byte of a slot in `State.slots`. -/
def slotKey (cl n : Nat) : Nat := (cl * 16 + n) * 2 ^ 17

/-- Bytes of a slot row, by slot FMT. -/
def slotRow (fmt : Nat) : Nat := if fmt < 2 then 256 else if fmt < 4 then 128 else 64

/-- The element type of a slot row after expansion (R159). -/
def slotElt (fmt : Nat) : Elt :=
  match fmt with
  | 1 => .f16
  | 2 => .e4m3
  | 3 => .e5m2
  | _ => .bf16

/-- Row `k` of a slot, expanded: 128 elements. -/
def State.slotElts (s : State) (cl n k : Nat) : List Nat :=
  let x := s.slot cl n
  let bs := s.slots.getRange (slotKey cl n + k * slotRow x.fmt) (slotRow x.fmt)
  if x.fmt = 4 then (nibbles bs).map (cbLook x.codebook)
  else (chunksOf (slotElt x.fmt).bytes 128 bs).map leNat

/-- Whether element `j` of row `k` of a slot lies in a poisoned word. -/
def State.slotBad (s : State) (cl n k j : Nat) : Bool :=
  let x := s.slot cl n
  let f := x.fmt
  let at_ := slotKey cl n + k * slotRow f + (if f < 2 then 2 * j else if f < 4 then j else j / 2)
  s.slots.poisoned at_ 1 || (f == 4 && cbBad x.codebook ((s.slots.get at_).toNat / 16 ^ (j % 2) % 16))

/-! ## mma (R330, R331) -/

/-- Whether a form takes FP8 operands. -/
def fp8Form (fmt : Nat) : Bool := fmt == 2 || fmt == 3

/-- K of the captured xs2. -/
def mmaK (fmt : Nat) (xs2 : Word) : Nat := if fp8Form fmt && bits xs2 12 4 == 0 then 512 else bits xs2 12 4

/-- `mma` at queue entry, in the order of R331; `fmt` is the slot FMT the form needs. -/
def enterMma (i : Instr) (d a : BitVec 3) (sr xr : BitVec 5) (fmt : Nat) : M Unit := do
  needMode i true
  trapIf (d == a) Cause.mmaShape (wordEval i 5)
  let s ← get
  let w := s.x sr
  let v := s.x xr
  owBits i w okNeg
  trapIf (bits v 63 13 != 0) Cause.illRsv (wordEval i 2)
  let k := mmaK fmt v
  trapIf (k == 0 || (!fp8Form fmt && 256 < k)) Cause.mmaShape (wordEval i 2)
  enterLattice { LEntry.new i s.cur.2 w v 0 with fmt := fmt }

/-- R330 `mma.bf16`. -/
def execMmaBf16 (d a : BitVec 3) (sr xr : BitVec 5) (s : State) : Outcome :=
  lattice (enterMma (.mmaBf16 d a sr xr) d a sr xr 0) s

/-- R330 `mma.f16`. -/
def execMmaF16 (d a : BitVec 3) (sr xr : BitVec 5) (s : State) : Outcome :=
  lattice (enterMma (.mmaF16 d a sr xr) d a sr xr 1) s

/-- R330 `mma.e4m3`. -/
def execMmaE4m3 (d a : BitVec 3) (sr xr : BitVec 5) (s : State) : Outcome :=
  lattice (enterMma (.mmaE4m3 d a sr xr) d a sr xr 2) s

/-- R330 `mma.e5m2`. -/
def execMmaE5m2 (d a : BitVec 3) (sr xr : BitVec 5) (s : State) : Outcome :=
  lattice (enterMma (.mmaE5m2 d a sr xr) d a sr xr 3) s

/-- R330 `mma.cb4`. -/
def execMmaCb4 (d a : BitVec 3) (sr xr : BitVec 5) (s : State) : Outcome :=
  lattice (enterMma (.mmaCb4 d a sr xr) d a sr xr 4) s

/-- The descriptor checks of a grant (R160, R331): the code of EVAL [7:4], or 0. -/
def Slot.refuses (x : Slot) (fmt k ctxid : Nat) : Nat :=
  if !x.valid then 1 else if x.fmt != fmt then 2 else if x.krows < k then 3 else if x.ctxid != ctxid then 4 else 0

/-- The cause WB_SLOT of slot `n`. -/
def slotCause (n code : Nat) : Nat × Word := (Cause.wbSlot, word (code * 16 + n))

/-- One row of D (R209). -/
def mmaRow (g : Nat) (as : List FVal) (rows : List (List FVal)) (cs : List Nat) : List (Nat × Flags5) :=
  cs.zipIdx.map (fun (p : Nat × Nat) =>
    groupedSum g p.1 ((as.zip rows).map (fun (q : FVal × List FVal) => mulVals [q.1, q.2.getD p.2 (.zero false)])))

/-- The descriptor checks of an `mma` at its grant (R160). -/
def LEntry.checkSlot (e : LEntry) (c ctxid : Nat) (s : State) : LEntry :=
  let n := bits e.xs2 3 0
  let code := (s.slot (c / 8) n).refuses e.fmt (mmaK e.fmt e.xs2) ctxid
  if code = 0 then e else { e with fault := some (slotCause n code) }

/-- What a granted `mma` writes (R330). -/
def LEntry.runMma (e : LEntry) (c : Nat) (d a : BitVec 3) (s : State) : LEntry × State :=
  let cl := c / 8
  let n := bits e.xs2 3 0
  let k := mmaK e.fmt e.xs2
  if e.fault.isSome then (e, s)
  else
    let t := slotElt e.fmt
    let sgn := fun (neg : Bool) (v : FVal) => if neg then v.negate else v
    let rows := (List.range k).map (fun j => (s.slotElts cl n j).map (fun v => sgn (owNB e.xs1) (t.fmt.unpack v)))
    let cols := (List.range 128).map (fun j => (List.range k).any (fun r => s.slotBad cl n r j))
    let zc := owZC e.xs1
    let body := fun (r : LEntry × State) (i : Nat) =>
      let as := ((s.rowElts c a.toNat i t).take k).map (fun v => sgn (owNA e.xs1) (t.fmt.unpack v))
      let abad := (List.range k).any (s.rowBad c a.toNat i t)
      let cs := if zc then List.replicate 128 0 else s.rowElts c d.toNat i .f32
      let cbad := if zc then fun _ => false else s.rowBad c d.toNat i .f32
      let cells := (mmaRow (if fp8Form e.fmt then 16 else 8) as rows cs).zipIdx.map (fun (p : (Nat × Flags5) × Nat) =>
        some (⟨p.1.1, p.1.2, abad || cols.getD p.2 false || cbad p.2⟩ : Cell))
      let (e, s) := { r.1 with flags := r.1.flags ||| (cellFlags cells).toNat }.tileBad (cellBad cells) r.2
      (e, s.putCells c d.toNat i .f32 0 cells)
    let (e, s) := e.slotWordBad (cols.any id) s
    (List.range 128).foldl body (e, s)

/-! ## wbld (R332) -/

/-- Slot FMT and the most rows, by the FMT of the source; none for an FMT that is no source. -/
def wbldFmt (fmt : Nat) : Option (Nat × Nat) :=
  match fmt with
  | 1 => some (0, 256)
  | 2 => some (1, 256)
  | 3 => some (2, 512)
  | 4 => some (3, 512)
  | 5 => some (4, 256)
  | _ => none

/-- The row count of the captured xs2. -/
def wbldRows (v : Word) : Nat := if bits v 12 4 = 0 then 512 else bits v 12 4

/-- The bytes of the source, 0 for an FMT that is no source. -/
def wbldBytes (v : Word) (fmt : Nat) : Nat := match wbldFmt fmt with
  | some f => wbldRows v * slotRow f.1
  | none => 0

/-- `wbld` at queue entry: the checks of R166 on the captured index and offset. -/
def enterWbld (i : Instr) (o : BitVec 3) (xr : BitVec 5) : M Unit := do
  let s ← get
  let v := s.x xr
  let off := (s.x (o.setWidth 5)).toInt
  trapIf (bits v 63 29 != 0) Cause.illRsv (wordEval i 2)
  tablesCurrent
  let s ← get
  let c := s.cur.1
  let ctxid := s.ctxidOf c
  let h := s.indexHandle ctxid (bits v 28 13)
  let e := LEntry.new i s.cur.2 0 v 0
  match s.checkMove ctxid h off (wbldBytes v) 0 false with
  | .error b => enterLattice { e with fault := some (b.cause, b.eval) }
  | .ok x =>
    let n := wbldBytes v x.fmt
    let homes ← if n = 0 then pure [] else do
      let a ← checkPages x off.toNat ⟨[], n, false, 0, false, .read⟩
      pure a.homes
    enterLattice { e with
      index := x.index, base := x.base, off := off.toNat, leaf := x.leaf c, homes := homes, cbslot := x.cbslot, fmt := x.fmt,
      params := [word x.gen] }

/-- R332 `wbld`. -/
def execWbld (o : BitVec 3) (xr : BitVec 5) (s : State) : Outcome := lattice (enterWbld (.wbld o xr) o xr) s

/-- A `wbld` that faults leaves its slot not valid. -/
def State.spoilSlot (s : State) (cl n : Nat) : State := s.setSlot cl n { s.slot cl n with valid := false }

/-- One row cycle of a `wbld`: 512 bytes; the checks of the grant come first, the descriptor last. -/
def LEntry.serveWbld (e : LEntry) (c ctxid : Nat) (s : State) : LEntry × State :=
  let cl := c / 8
  let n := bits e.xs2 3 0
  let stop := fun (x : Nat × Word) => ({ e with causes := e.causes ++ [lcause x.1 x.2], finished := true }, s.spoilSlot cl n)
  match e.fault with
  | some _ => ({ e with finished := true }, s.spoilSlot cl n)
  | none =>
    if e.off % 64 ≠ 0 then stop (Cause.hAlign, hEval e.index e.off)
    else match wbldFmt e.fmt with
      | none => stop (slotCause n 5)
      | some (f, most) =>
        if most < wbldRows e.xs2 then stop (slotCause n 5)
        else if e.denied s then
          let r := e.aborted s
          (r.1, r.2.spoilSlot cl n)
        else
          let total := wbldRows e.xs2 * slotRow f
          let hs := if e.row = 0 then s.peerLines ctxid e.leaf (e.base + e.off) total e.homes 0 else []
          if !e.arrived hs then e.ask c hs s
          else
            let p := 512 * e.row
            let len := min 512 (total - p)
            let ((bs, bad), s) := s.readObject ctxid e.leaf (e.base + e.off + p) len e.homes p e.lines
            let m := s.slots.putRange (slotKey cl n + p) bs
            let m := (List.range 64).foldl (fun m j =>
              if anyBad bad (8 * j) 8 then m.addPoison (slotKey cl n + p + 8 * j) else m) m
            let s := { s with slots := m }
            if total ≤ p + 512 then
              let gen := (e.params.getD 0 0).toNat
              let d : Slot := { s.slot cl n with
                valid := true, fmt := f, krows := wbldRows e.xs2, ctxid := ctxid,
                handle := ⟨BitVec.ofNat 16 e.index, BitVec.ofNat 16 gen⟩, off := e.off, gen := gen,
                codebook := if f = 4 then e.src else Mem.empty }
              ({ e with row := e.row + 1, finished := true }, s.setSlot cl n d)
            else ({ e with row := e.row + 1 }, s)

/-! ## The reload of slots (R161) -/

/-- The load of a descriptor, as an entry of the lattice queue: the recorded source, with its homes as they are now. -/
def Slot.entry (d : Slot) (n : Nat) (e : Ent) (c : Nat) (homes : List (Nat × Home)) : LEntry :=
  let xs2 := word (e.index * 2 ^ 13 + d.krows % 512 * 16 + n)
  { LEntry.new (.wbld 0 0) 0 0 xs2 0 with
    index := e.index, base := e.base, off := d.off, leaf := e.leaf c, homes := homes, cbslot := e.cbslot, fmt := e.fmt,
    params := [word e.gen] }

/-- R161: a slot that no longer holds the saved load is loaded again from its source, ahead of the lattice instructions of its
core. Where the object's generation or format has changed, or its bytes cannot be read, the slot stays not valid. -/
def State.reloadSlot (s : State) (c n : Nat) (d : Slot) : State :=
  if s.slot (c / 8) n = d then s
  else
    let s := s.spoilSlot (c / 8) n
    match s.liveEnt d.ctxid d.handle.index.toNat with
    | none => s
    | some e =>
      let bytes := d.krows * slotRow d.fmt
      let rel := e.base + d.off - s.mapBase d.ctxid e
      if e.gen != d.gen || (wbldFmt e.fmt).map (fun f => f.1) != some d.fmt || e.len < d.off + bytes then s
      else match translateAll (c / 8) d.ctxid e d.off .read 0 (pageStarts rel bytes) s with
        | (.error _, s) => s
        | (.ok hs, s) => s.modCore c (fun k => { k with
            lq := k.lq ++ [{ d.entry n e c hs with seq := k.lseq }], lseq := k.lseq + 1 })

/-- The slots that a record holds. -/
def State.reloadSlots (s : State) (c : Nat) (ds : NMap Slot) : State := ds.foldl (fun s d => s.reloadSlot c d.1 d.2) s

/-! ## lmode and lfence (R333 to R335) -/

/-- Both wait until the lattice of the core is idle. -/
def latticeDone : M Unit := do
  let s ← get
  waitIf (!s.curCore.latticeIdle) .latticeEmpty

/-- R333 `lmode`. -/
def execLmode (m : BitVec 3) (s : State) : Outcome :=
  runInstr (do
    latticeDone
    modify (fun s => s.modCurCore (fun k => { k with lqst := setBits k.lqst 7 7 m.toNat }))
    retire) s

/-- R334 `lfence`: the scalar accesses before it are performed before the lattice accesses after it (R315; log entry 50). -/
def execLfence (s : State) : Outcome :=
  runInstr (do
    queueOpen
    modify (fun s => s.drain s.cur.1)
    latticeDone
    let s ← get
    waitIf (s.curCore.rfcnt != 0 || s.remoteBusy) .remoteIdle
    deliver .lfence
    retire) s

end Sys2Proof.Machine
end

