-- ==== Sys2Proof/Machine/Ssm.lean ====
section
/-! DEFINITION. The state-space layer: major 0x2E (R336 to R341). -/

namespace Sys2Proof.Machine

/-! ## Entry (R337) -/

/-- An `ssm` form at queue entry. -/
def enterSsm (i : Instr) (xr : BitVec 5) : M Unit := do
  needMode i true
  let s ← get
  let v := s.x xr
  trapIf (bits v 63 16 != 0) Cause.illRsv (wordEval i 2)
  enterLattice { LEntry.new i s.cur.2 0 v 0 with index := bits v 15 0 }
  match s.liveEnt (s.ctxidOf s.cur.1) (bits v 15 0) with
  | some e => noteWrite e
  | none => pure ()

/-- R337 `ssm`. -/
def execSsm (d : BitVec 3) (xr : BitVec 5) (s : State) : Outcome := lattice (enterSsm (.ssm d xr) xr) s

/-- R337 `ssm.c`. -/
def execSsmC (d : BitVec 3) (xr : BitVec 5) (s : State) : Outcome := lattice (enterSsm (.ssmC d xr) xr) s

/-- R337 `ssm.r`. -/
def execSsmR (d : BitVec 3) (xr : BitVec 5) (s : State) : Outcome := lattice (enterSsm (.ssmR d xr) xr) s

/-! ## The chunk computation (R338, R339) -/

/-- A value with its poison mark. -/
abbrev PVal := Nat × Bool

/-- A matrix of f32 patterns, by row and column. -/
abbrev PMat := List (List PVal)

/-- An element. -/
def PMat.at_ (m : PMat) (i j : Nat) : PVal := (m.getD i []).getD j (0, false)

/-- Its value. -/
def PMat.val (m : PMat) (i j : Nat) : FVal := Fmt.f32.unpack (PMat.at_ m i j).1

/-- A decay that is finite and greater than zero (R338). -/
def decayOk (v : Nat) : Bool := 0 < v && v < 0x7F800000

/-- The results of a chunk: y by step and channel, the boundary state by channel and state, and the flags. -/
structure Chunk where
  y     : PMat
  h     : PMat
  flags : Flags5
  deriving DecidableEq, Repr

/-- The grouped sum of R338 as a value with its mark and flags. -/
def pSum (ps : List (FVal × Bool)) (bad : Bool) : PVal × Flags5 :=
  let r := groupedSum 8 0 ps
  ((r.1, bad), r.2)

/-- The values of a matrix of results. -/
def resultMat (m : List (List (PVal × Flags5))) : PMat := m.map (fun r => r.map (fun p => p.1))

/-- The flags of a matrix of results. -/
def resultFlags (m : List (List (PVal × Flags5))) : Flags5 :=
  m.foldl (fun f r => r.foldl (fun f p => f ||| p.2) f) 0

/-- One step of the recurrent form. -/
def recStep (dn nn k : Nat) (x a b cm h : PMat) : List (List (PVal × Flags5)) × List (PVal × Flags5) :=
  let h' := (List.range dn).map (fun d => (List.range nn).map (fun n =>
    let p := mulVals [a.val k d, h.val d n]
    let q := mulVals [b.val k n, x.val k d]
    let v := sumVals .rne [p.1, q.1]
    let r := packInv .f32 .rne (v.1, v.2 || p.2 || q.2)
    let bad := (a.at_ k d).2 || (h.at_ d n).2 || (b.at_ k n).2 || (x.at_ k d).2
    (((r.bits, bad), r.flags) : PVal × Flags5)))
  let hm := resultMat h'
  let y := (List.range dn).map (fun d =>
    pSum ((List.range nn).map (fun n => mulVals [cm.val k n, hm.val d n]))
      ((List.range nn).any (fun n => (cm.at_ k n).2 || (hm.at_ d n).2)))
  (h', y)

/-- The recurrent form (R339): `n` steps from step `k`. -/
def recurrent (dn nn : Nat) (x a b cm : PMat) : Nat → Nat → Chunk → Chunk
  | 0, _, r => r
  | n + 1, k, r =>
    let s := recStep dn nn k x a b cm r.h
    recurrent dn nn x a b cm n (k + 1)
      ⟨r.y ++ [s.2.map (fun p => p.1)], resultMat s.1, r.flags ||| resultFlags s.1 ||| resultFlags [s.2]⟩

/-- The running sums G of one channel (R339): for each step the pattern, and the flags. -/
def decaySums (as : List Nat) : List Nat × Flags5 :=
  let r := as.foldl (fun (r : List Nat × Flags5) v =>
    let u := Fmt.f32.unpack
    let l := fLog2 (u v)
    let g := fAdd .f32 .rne (u (r.1.getLastD 0)) (u l.bits)
    (r.1 ++ [g.bits], r.2 ||| l.flags ||| g.flags)) ([], Flags5.none)
  r

/-- W of a difference of two sums, or of one sum when `m` is none (R339). -/
def decayW (g : List Nat) (k : Nat) (m : Option Nat) : FRes :=
  let u := Fmt.f32.unpack
  match m with
  | none => fExp2 (u (g.getD k 0))
  | some m =>
    let d := fSub .f32 .rne (u (g.getD k 0)) (u (g.getD m 0))
    let w := fExp2 (u d.bits)
    ⟨w.bits, d.flags ||| w.flags⟩

/-- The chunked form (R339) of `r` steps. -/
def chunkedForm (dn nn r : Nat) (x a b cm h0 : PMat) : Chunk :=
  let u := Fmt.f32.unpack
  let per := (List.range dn).map (fun d =>
    let g := decaySums ((List.range r).map (fun k => (a.at_ k d).1))
    let ys := (List.range r).map (fun k =>
      let w0 := decayW g.1 k none
      let ws := (List.range (k + 1)).map (fun m => decayW g.1 k (some m))
      let ps := (List.range nn).map (fun n => mulVals [cm.val k n, u w0.bits, h0.val d n]) ++
        (List.range (k + 1)).flatMap (fun m => (List.range nn).map (fun n =>
          mulVals [cm.val k n, b.val m n, u ((ws.getD m ⟨0, 0⟩).bits), x.val m d]))
      let bad := (List.range nn).any (fun n => (cm.at_ k n).2 || (h0.at_ d n).2) ||
        (List.range (k + 1)).any (fun m => (a.at_ m d).2 || (x.at_ m d).2 ||
          (List.range nn).any (fun n => (b.at_ m n).2))
      let s := pSum ps bad
      (s.1, s.2 ||| w0.flags ||| ws.foldl (fun f w => f ||| w.flags) 0))
    let we := decayW g.1 (r - 1) none
    let wl := (List.range r).map (fun m => decayW g.1 (r - 1) (some m))
    let hs := (List.range nn).map (fun n =>
      let ps := mulVals [u we.bits, h0.val d n] ::
        (List.range r).map (fun m => mulVals [u ((wl.getD m ⟨0, 0⟩).bits), b.val m n, x.val m d])
      let bad := (h0.at_ d n).2 || (List.range r).any (fun m => (a.at_ m d).2 || (b.at_ m n).2 || (x.at_ m d).2)
      let s := pSum ps bad
      (s.1, s.2 ||| we.flags ||| wl.foldl (fun f w => f ||| w.flags) 0))
    (ys, hs, g.2))
  let y := (List.range r).map (fun k => per.map (fun p => (p.1.getD k ((0, false), 0)).1))
  let fl := per.foldl (fun f p => f ||| p.2.2 ||| resultFlags [p.1] ||| resultFlags [p.2.1]) 0
  ⟨y, per.map (fun p => p.2.1.map (fun q => q.1)), fl⟩

/-! ## The control block (R336, R337) -/

/-- The words of the control block and the sizes they give. -/
structure Sscb where
  w0 : Word
  w1 : Word
  w2 : Word
  deriving DecidableEq, Repr

/-- Steps. -/
def Sscb.l (b : Sscb) : Nat := bits b.w2 47 32
/-- States. -/
def Sscb.n (b : Sscb) : Nat := bits b.w2 31 24
/-- Channels. -/
def Sscb.d (b : Sscb) : Nat := bits b.w2 23 16
/-- Steps of a chunk. -/
def Sscb.c (b : Sscb) : Nat := 2 ^ (bits b.w2 2 0 + 3)
/-- Chunks in all. -/
def Sscb.nch (b : Sscb) : Nat := ceilDiv b.l b.c
/-- The operand indices in the order x, a, B, C, y, h. -/
def Sscb.operands (b : Sscb) : List Nat :=
  [bits b.w0 63 48, bits b.w0 47 32, bits b.w0 31 16, bits b.w0 15 0, bits b.w1 63 48, bits b.w1 47 32]

/-- The bytes each operand needs. -/
def Sscb.needs (b : Sscb) : List Nat := [4 * b.l * b.d, 4 * b.l * b.d, 4 * b.l * b.n, 4 * b.l * b.n, 4 * b.l * b.d, 512 * b.d]

/-- The parameter checks of R337 that look at words 1 and 2. -/
def Sscb.badCode (b : Sscb) : Option Nat :=
  if bits b.w1 31 0 != 0 || bits b.w2 63 48 != 0 || bits b.w2 15 3 != 0 then some 1
  else if b.l = 0 ∨ 1024 < b.l then some 2
  else if b.n = 0 ∨ 128 < b.n then some 3
  else if b.d = 0 ∨ 128 < b.d then some 4
  else if 4 < bits b.w2 2 0 then some 5
  else none

/-- What an operand is used for: rights, and whether it is written. -/
def ssmRole (k : Nat) : List Nat × Bool :=
  if k < 4 then ([rR], false) else if k = 4 then ([rW], true) else ([rR, rW], true)

/-- An operand of `ssm`: its handle, what it is used for, and the offset, the size that is checked and the bytes that are used. -/
structure SsmArg where
  handle : Handle
  role   : List Nat × Bool
  off    : Nat
  size   : Nat
  used   : Nat
  deriving DecidableEq, Repr

/-- What an operand is accessed for. -/
def SsmArg.use (a : SsmArg) : Use := if a.role.2 then .write else .read

/-- Steps 1 to 6 of R166 for one operand (R337); a gang window is no operand (R168). -/
def State.ssmCheck (s : State) (ctxid : Nat) (a : SsmArg) : Except Bad Ent :=
  match s.checkEnt ctxid a.handle a.off ⟨a.role.1, a.size, a.role.2, 0, false, a.use⟩ with
  | .error b => .error b
  | .ok e => if e.fmt = 15 then .error (Bad.of (rightCause (a.role.1.headD rR)) (hEval e.index (a.role.1.headD rR))) else .ok e

/-- Every step of R166 for one operand; the pages are those of the bytes that are used and lie in the object. -/
def State.ssmSpan (s : State) (cl ctxid : Nat) (a : SsmArg) : Except Bad Span × State :=
  match s.ssmCheck ctxid a with
  | .error b => (.error b, s)
  | .ok e =>
    let n := min a.used (e.len - a.off)
    let starts := if n = 0 then [] else pageStarts (e.base + a.off - s.mapBase ctxid e) n
    match translateAll cl ctxid e a.off a.use (hEval e.index a.off) starts s with
    | (.error b, s) => (.error b, s)
    | (.ok hs, s) => (.ok ⟨e, a.off, n, hs⟩, s)

/-- The operands checked one after the other; the first failure decides. -/
def ssmSpans (cl ctxid : Nat) : List SsmArg → State → Except Bad (List Span) × State
  | [], s => (.ok [], s)
  | a :: t, s => match s.ssmSpan cl ctxid a with
    | (.error b, s) => (.error b, s)
    | (.ok p, s) => match ssmSpans cl ctxid t s with
      | (.error b, s) => (.error b, s)
      | (.ok r, s) => (.ok (p :: r), s)

/-- Whether the host refuses a page of a range. -/
def Span.denied (p : Span) (s : State) : Bool := p.homes.any (fun h => s.hostDenies h.2)

/-- The lines of other devices that a range needs. -/
def Span.wanted (p : Span) (c ctxid : Nat) (s : State) : List (Home × Nat) :=
  s.peerLines ctxid (p.ent.leaf c) (p.ent.base + p.off) p.len p.homes 0

/-- Read a range. -/
def Span.read (p : Span) (c ctxid : Nat) (lines : NMap (List Byte)) (s : State) : (List Byte × List Bool) × State :=
  s.readObject ctxid (p.ent.leaf c) (p.ent.base + p.off) p.len p.homes 0 lines

/-- Write a range from its place `at_` on. -/
def Span.write (p : Span) (c ctxid agent at_ : Nat) (bs : List Byte) (bad : List Bool) (s : State) : Bool × State :=
  s.writeObject c ctxid (p.ent.leaf c) (p.ent.base + p.off + at_) bs bad p.homes at_ agent

/-- The f32 words of bytes, with a mark for each. -/
def pWords (r : List Byte × List Bool) : List PVal :=
  (chunksOf 4 r.1.length r.1).zipIdx.map (fun (p : List Byte × Nat) => (leNat p.1, anyBad r.2 (4 * p.2) 4))

/-- The bytes of words. -/
def wordBytes (ws : List PVal) : List Byte := ws.flatMap (fun w => leBytes 4 w.1)

/-- The marks of words, byte by byte. -/
def wordMarks (ws : List PVal) : List Bool := ws.flatMap (fun w => List.replicate 4 w.2)

/-! ## One chunk (R338, R340, R341) -/

/-- What an `ssm` form asks of the choice of chunk (R338). -/
inductive SsmForm where
  | auto | chunked | recurrent
  deriving DecidableEq, Repr

/-- The form of an instruction. -/
def ssmFormOf (i : Instr) : SsmForm :=
  match i with
  | .ssmC _ _ => .chunked
  | .ssmR _ _ => .recurrent
  | _ => .auto

/-- The state tile. -/
def ssmTileOf (i : Instr) : Nat :=
  match i with
  | .ssm d _ => d.toNat
  | .ssmC d _ => d.toNat
  | .ssmR d _ => d.toNat
  | _ => 0

/-- Writes to objects without J end the superstep's rollability (R103). -/
def State.notePlain (s : State) (c : Nat) (ps : List Span) : State :=
  if ps.all (fun p => p.ent.rights.testBit rJ) then s else s.modCore c (fun k => { k with rollable := false })

/-- The handle of the control block: the entry as it is now until it has been checked, then with the GEN that was found (R337). -/
def LEntry.sscb (e : LEntry) (ctxid : Nat) (s : State) : Handle :=
  if e.params = [] then s.indexHandle ctxid e.index else ⟨BitVec.ofNat 16 e.index, BitVec.ofNat 16 (e.params.getD 3 0).toNat⟩

/-- Write CODE and DETAIL of the control block, if it is writable (R337, R341). -/
def LEntry.writeCode (e : LEntry) (c ctxid : Nat) (w : Nat × Nat) (s : State) : State :=
  match s.ssmSpan (c / 8) ctxid ⟨e.sscb ctxid s, ([rW], true), 0, 64, 64⟩ with
  | (.error _, s) => s
  | (.ok p, s) =>
    if p.denied s then s
    else
      let put := fun (at_ v : Nat) (s : State) => (p.write c ctxid e.agent at_ [BitVec.ofNat 8 v] [false] s).2
      put 31 w.1 (put 28 w.2 (s.notePlain c [p]))

/-- An `ssm` ends with a cause; CODE and DETAIL of the first are still to be written. -/
def LEntry.ssmFail (e : LEntry) (code detail : Nat) (b : Bad) : LEntry :=
  { e with causes := e.causes ++ [⟨b.cause, b.eval, .lfence, b.preason⟩], finished := true,
           poke := if e.causes.isEmpty then some (code, detail) else e.poke }

/-- A handle, page or remote failure (CODE 4). -/
def LEntry.ssmBad (e : LEntry) (b : Bad) : LEntry := e.ssmFail 4 b.cause b

/-- The host aborts an access of an `ssm` (R52). -/
def LEntry.ssmAborted (e : LEntry) (s : State) : LEntry × State :=
  let (v, s) := s.abortEval
  (e.ssmBad (Bad.of Cause.remoteFail v), s)

/-- The first poisoned word that a chunk used of what it read: its object and offset (R310). -/
def firstBad (rs : List (Span × List Bool)) : Option Word :=
  rs.findSome? (fun r => (firstIdx id r.2).map (fun i => hEval r.1.ent.index (r.1.off + i)))

/-- The marks of the words of h that are used: the first `n` of each row of 128. -/
def usedMarks (n : Nat) (bad : List Bool) : List Bool :=
  bad.zipIdx.map (fun (p : Bool × Nat) => p.1 && decide (p.2 % 512 < 4 * n))

/-- The matrix of a range: rows of `n` words. -/
def pMat (n : Nat) (r : List Byte × List Bool) : PMat := let ws := pWords r; chunksOf n ws.length ws

/-- The state matrix of a tile. -/
def State.tileMat (s : State) (c t dn nn : Nat) : PMat :=
  (List.range dn).map (fun d =>
    let bad := s.rowBad c t d .f32
    ((s.rowElts c t d .f32).take nn).zipIdx.map (fun (p : Nat × Nat) => (p.1, bad p.2)))

/-- Read a list of ranges in order. -/
def readSpans (c ctxid : Nat) (lines : NMap (List Byte)) : List Span → State → List (List Byte × List Bool) × State
  | [], s => ([], s)
  | p :: t, s =>
    let (r, s) := p.read c ctxid lines s
    let (rs, s) := readSpans c ctxid lines t s
    (r :: rs, s)

/-- The effects of a computed chunk: y, tD, h and the progress words. -/
def LEntry.writeChunk (e : LEntry) (c ctxid t : Nat) (b : Sscb) (sy sh sb : Span) (k : Chunk)
    (chunked : Bool) (s : State) : LEntry × State :=
  let nextChunk := e.chunk + 1
  let yw := k.y.flatMap id
  let (ok, s) := sy.write c ctxid e.agent 0 (wordBytes yw) (wordMarks yw) s
  if !ok then (e.ssmBad (Bad.of Cause.hWx (hEval sy.ent.index sy.off)), s)
  else
    let s := k.h.zipIdx.foldl (fun s (p : List PVal × Nat) =>
      s.putCells c t p.2 .f32 0 (p.1.map (fun v => some (Cell.pure v.1 v.2)))) s
    let (ok, s) := k.h.zipIdx.foldl (fun (r : Bool × State) (p : List PVal × Nat) =>
      let w := sh.write c ctxid e.agent (512 * p.2) (wordBytes p.1) (wordMarks p.1) r.2
      (r.1 && w.1, w.2)) (true, s)
    if !ok then (e.ssmBad (Bad.of Cause.hWx (hEval sh.ent.index 0)), s)
    else
      let last := nextChunk = b.nch
      let forms := (e.params.getD 10 0).toNat + (e.params.getD 11 0).toNat * 2 ^ 64 + b2n chunked * 2 ^ e.chunk
      let status := b2n last * 2 ^ 56 + nextChunk * 2 ^ 48 + b.nch * 2 ^ 40
      let bytes := leBytes 8 status ++ leBytes 16 forms
      let (_, s) := sb.write c ctxid e.agent 24 bytes (List.replicate 24 false) s
      let params := e.params.take 10 ++ [word forms, word (forms / 2 ^ 64)] ++ e.params.drop 12
      ({ e with chunk := nextChunk, params := params, spans := [], flags := e.flags ||| k.flags.toNat, finished := last,
                lines := [], asked := [] }, s)

/-- A chunk whose ranges have been translated: ask for what is on other devices, or read, compute and write. -/
def LEntry.doChunk (e : LEntry) (c ctxid : Nat) (b : Sscb) (r : Nat) (ins : List Span) (sy sh sb : Span) (s : State) :
    LEntry × State :=
  let t := ssmTileOf e.instr
  let first := e.chunk = 0
  let reads := if first then ins ++ [sh] else ins
  if (reads ++ [sy, sh, sb]).any (fun p => p.denied s) then e.ssmAborted s
  else
    let hs := reads.flatMap (fun p => p.wanted c ctxid s)
    if !e.arrived hs then e.ask c hs s
    else
      let (rs, s) := readSpans c ctxid e.lines reads s
      let dn := b.d
      let nn := b.n
      let g := fun (i : Nat) => rs.getD i ([], [])
      -- every result is computed from the words of the control block, and is poisoned with them
      let spoilt := e.params.getD 12 0 != 0
      let x := (pMat dn (g 0)).map (fun row => row.map (fun v => (v.1, v.2 || spoilt)))
      let a := pMat dn (g 1)
      let bm := pMat nn (g 2)
      let cm := pMat nn (g 3)
      let h0 : PMat := if first then (pMat 128 (g 4)).map (fun row => row.take nn) else s.tileMat c t dn nn
      let bad := firstIdx (fun (row : List PVal) => row.any (fun v => !decayOk v.1)) a
      let form : SsmForm := ssmFormOf e.instr
      match form, bad with
      | .chunked, some k => (e.ssmFail 3 k (Bad.of Cause.ssmForm (hEval e.index (e.chunk * 256 + k))), s)
      | _, _ =>
        let chunked := match form with
          | .auto => r == b.c && decide (32 ≤ b.c) && bad.isNone
          | .chunked => true
          | .recurrent => false
        let res := if chunked then chunkedForm dn nn r x a bm cm h0
          else recurrent dn nn x a bm cm r 0 ⟨[], h0, Flags5.none⟩
        let e := match e.bad with
          | some _ => e
          | none => { e with bad := firstBad (reads.zip (rs.zipIdx.map (fun (r : (List Byte × List Bool) × Nat) =>
              if r.2 < 4 then r.1.2 else usedMarks nn r.1.2))) }
        e.writeChunk c ctxid t b sy sh sb res chunked s

/-- The operands of chunk `j` (R338): for x, a, B, C, y and h the bytes that the chunk uses. At the first grant the checks of
R166 come before those of the sizes, so that no size is checked. -/
def Sscb.args (b : Sscb) (first : Bool) (j : Nat) (handle : Nat → Nat → Handle) : List SsmArg :=
  let t0 := j * b.c
  let r := min b.c (b.l - t0)
  let per := [b.d, b.d, b.n, b.n, b.d]
  b.operands.zipIdx.map (fun (p : Nat × Nat) =>
    let w := per.getD p.2 0
    let off := if p.2 < 5 then 4 * t0 * w else 0
    let n := if p.2 < 5 then 4 * r * w else 512 * b.d
    ⟨handle p.2 p.1, ssmRole p.2, off, if first then 0 else n, n⟩)

/-- The parameter check that fails, by its SSM_PARAM code; the entries are those of the SSCB and the six operands (R337). -/
def Sscb.paramCode (b : Sscb) (es : List Ent) : Option Nat :=
  match b.badCode with
  | some k => some k
  | none => if es.any (fun x => x.fmt != 0) then some 6
    else if ((es.drop 1).zip b.needs).any (fun (p : Ent × Nat) => decide (p.1.len < p.2)) then some 7 else none

/-- The words that an entry keeps of its control block. -/
def LEntry.block (e : LEntry) : Sscb := ⟨e.params.getD 0 0, e.params.getD 1 0, e.params.getD 2 0⟩

/-- The checks of a chunk at its grant (R337, R341). The first reads words 0 to 2 of the control block, once, keeps the GEN of
every entry and sets STATUS and FORMS; a chunk that has passed them holds its ranges in `spans`. -/
def LEntry.openChunk (e : LEntry) (c ctxid : Nat) (s : State) : LEntry × State :=
  let first : Bool := e.params.isEmpty
  match s.ssmSpan (c / 8) ctxid ⟨e.sscb ctxid s, ([rR, rW], true), 0, 64, 64⟩ with
  | (.error b, s) => (e.ssmBad b, s)
  | (.ok sb, s) =>
    let want := sb.wanted c ctxid s
    if sb.denied s then e.ssmAborted s
    else if first && !e.arrived want then e.ask c want s
    else
      let ((bs, bad), s) := if first then sb.read c ctxid e.lines s else (([], []), s)
      let w := fun (i : Nat) => word (leNat ((bs.drop (8 * i)).take 8))
      let b : Sscb := if first then ⟨w 0, w 1, w 2⟩ else e.block
      let hit := firstIdx id (bad.take 24)
      let handle := fun (k i : Nat) => if first then s.indexHandle ctxid i
        else (⟨BitVec.ofNat 16 i, BitVec.ofNat 16 (e.params.getD (4 + k) 0).toNat⟩ : Handle)
      match ssmSpans (c / 8) ctxid (b.args first e.chunk handle) s with
      | (.error x, s) => (e.ssmBad x, s)
      | (.ok ps, s) =>
        let es := sb.ent :: ps.map (fun p => p.ent)
        match if first then b.paramCode es else none with
        | some k => (e.ssmFail 2 k (Bad.of Cause.ssmParam (hEval e.index k)), s)
        | none =>
          let s := s.notePlain c (sb :: ps.drop 4)
          let e := { e with spans := ps ++ [sb], lines := [], asked := [] }
          if first then
            let e := { e with params := [b.w0, b.w1, b.w2] ++ es.map (fun x => word x.gen) ++ [0, 0, word (b2n hit.isSome)],
                              bad := hit.map (fun i => hEval e.index i) }
            (e, (sb.write c ctxid e.agent 24 (leBytes 8 (b.nch * 2 ^ 40) ++ List.replicate 16 0) (List.replicate 24 false) s).2)
          else (e, s)

/-- One attempt at the chunk that an `ssm` holds a grant for. `finished` says that the instruction is over; `chunk` counts
the chunks done. -/
def LEntry.tryChunk (e : LEntry) (c ctxid : Nat) (s : State) : LEntry × State :=
  let (e, s) := if e.spans.isEmpty then e.openChunk c ctxid s else (e, s)
  match e.spans with
  | [x, a, b, cm, y, h, sb] =>
    if e.finished then (e, s)
    else
      let k := e.block
      e.doChunk c ctxid k (min k.c (k.l - e.chunk * k.c)) [x, a, b, cm] y h sb s
  | _ => (e, s)

end Sys2Proof.Machine
end

