-- ==== Sys2Proof/Machine/LatticeUnit.lean ====
section
/-! DEFINITION. The lattice of a cluster: what each instruction reads and writes (R150, R309), the arbiter (R151, R152), the
movement unit (R157), completion (R310). -/

namespace Sys2Proof.Machine

/-! ## What an instruction uses -/

/-- The unit that runs an instruction. -/
inductive LUnit where
  | vector | matrix | chunks | movement
  deriving DecidableEq, Repr

/-- Rows of a tile: the tile, the first row, how many. -/
abbrev RowSet := Nat × Nat × Nat

/-- What an instruction uses: its unit, the rows it reads and writes, the weight slot it reads or writes, and whether it
accesses memory. -/
structure LUse where
  unit   : LUnit
  reads  : List RowSet
  writes : List RowSet
  slotR  : Option Nat
  slotW  : Option Nat
  memory : Bool
  deriving DecidableEq, Repr

/-- The window rows of a tile. -/
def LEntry.win (e : LEntry) (t : BitVec 3) : RowSet := (t.toNat, owStart e.xs1, owRows e.xs1)

/-- All rows of a tile. -/
def wholeTile (t : Nat) : RowSet := (t, 0, 128)

/-- Vector arithmetic with two sources. -/
def LEntry.binUse (e : LEntry) (d a b : BitVec 3) (readD : Bool) : LUse :=
  ⟨.vector, e.win a :: ((if owBC e.xs1 then [] else [e.win b]) ++ (if readD then [e.win d] else [])), [e.win d], none, none,
    false⟩

/-- Vector arithmetic with one source. -/
def LEntry.unUse (e : LEntry) (d a : BitVec 3) : LUse := ⟨.vector, [e.win a], [e.win d], none, none, false⟩

/-- `fuse`: the tiles whose tokens the program pushes. -/
def LEntry.fuseUse (e : LEntry) (d a b : BitVec 3) : LUse :=
  ⟨.vector, [(0, a), (1, b), (2, d)].filterMap (fun (p : Nat × BitVec 3) =>
    if fusePushes e.xs2 p.1 then some (e.win p.2) else none), [e.win d], none, none, false⟩

/-- `mma`. -/
def LEntry.mmaUse (e : LEntry) (d a : BitVec 3) : LUse :=
  ⟨.matrix, wholeTile a.toNat :: (if owZC e.xs1 then [] else [wholeTile d.toNat]), [wholeTile d.toNat],
    some (bits e.xs2 3 0), none, false⟩

/-- R309, R330, R332, R340: what an entry reads and writes. -/
def LEntry.use (e : LEntry) : LUse :=
  match e.instr with
  | .tld d _ _ _ => ⟨.movement, [], [e.win d], none, none, true⟩
  | .tst d _ _ _ => ⟨.movement, [e.win d], [], none, none, true⟩
  | .tzero d _ => ⟨.movement, [], [e.win d], none, none, false⟩
  | .tbc d _ => ⟨.movement, [], [e.win d], none, none, false⟩
  | .tmov d _ _ => ⟨.movement, [(bits e.xs2 2 0, owStart e.xs1, owRows e.xs1)], [e.win d], none, none, false⟩
  | .ttr d _ _ => ⟨.movement, [wholeTile (bits e.xs2 2 0)], [e.win d], none, none, false⟩
  | .tgat d _ _ =>
    ⟨.movement, [wholeTile (bits e.xs2 2 0), (bits e.xs2 5 3, owStart e.xs1, owRows e.xs1)], [e.win d], none, none, false⟩
  | .vadd d a b _ _ _ => e.binUse d a b false
  | .vsub d a b _ _ _ => e.binUse d a b false
  | .vmul d a b _ _ _ => e.binUse d a b false
  | .vmin d a b _ _ _ => e.binUse d a b false
  | .vmax d a b _ _ _ => e.binUse d a b false
  | .vfma d a b _ _ _ => e.binUse d a b (!owZC e.xs1)
  | .vand d a b _ _ => e.binUse d a b false
  | .vor d a b _ _ => e.binUse d a b false
  | .vxor d a b _ _ => e.binUse d a b false
  | .vshl d a b _ _ => e.binUse d a b false
  | .vshr d a b _ _ => e.binUse d a b false
  | .vcmpEqF32 d a b _ _ => e.binUse d a b false
  | .vcmpEqBf16 d a b _ _ => e.binUse d a b false
  | .vcmpEqI32 d a b _ _ => e.binUse d a b false
  | .vcmpNeF32 d a b _ _ => e.binUse d a b false
  | .vcmpNeBf16 d a b _ _ => e.binUse d a b false
  | .vcmpNeI32 d a b _ _ => e.binUse d a b false
  | .vcmpLtF32 d a b _ _ => e.binUse d a b false
  | .vcmpLtBf16 d a b _ _ => e.binUse d a b false
  | .vcmpLtI32 d a b _ _ => e.binUse d a b false
  | .vcmpLeF32 d a b _ _ => e.binUse d a b false
  | .vcmpLeBf16 d a b _ _ => e.binUse d a b false
  | .vcmpLeI32 d a b _ _ => e.binUse d a b false
  | .vsel d a b _ _ => e.binUse d a b true
  | .vexp2 d a _ => e.unUse d a
  | .vrcp d a _ => e.unUse d a
  | .vrsqrt d a _ => e.unUse d a
  | .vlog2 d a _ => e.unUse d a
  | .vtanh d a _ => e.unUse d a
  | .vabsF32 d a _ => e.unUse d a
  | .vabsBf16 d a _ => e.unUse d a
  | .vnegF32 d a _ => e.unUse d a
  | .vnegBf16 d a _ => e.unUse d a
  | .vcvtI32F32 d a _ => e.unUse d a
  | .vcvtF32I32 d a _ => e.unUse d a
  | .vcvtBf16F32 d a _ _ => e.unUse d a
  | .vcvtF32Bf16 d a _ _ => e.unUse d a
  | .vcvtF16F32 d a _ _ => e.unUse d a
  | .vcvtF32F16 d a _ _ => e.unUse d a
  | .vcvtE4m3F32 d a _ _ => e.unUse d a
  | .vcvtF32E4m3 d a _ _ => e.unUse d a
  | .vcvtE5m2F32 d a _ _ => e.unUse d a
  | .vcvtF32E5m2 d a _ _ => e.unUse d a
  | .vcvtBf16Cb4 d a _ _ => e.unUse d a
  | .vsum d a _ _ => e.unUse d a
  | .vmaxr d a _ _ => e.unUse d a
  | .vperm d a b _ => ⟨.vector, [e.win a, e.win b], [e.win d], none, none, false⟩
  | .fuseF32 d a b _ _ => e.fuseUse d a b
  | .fuseBf16 d a b _ _ => e.fuseUse d a b
  | .mmaBf16 d a _ _ => e.mmaUse d a
  | .mmaF16 d a _ _ => e.mmaUse d a
  | .mmaE4m3 d a _ _ => e.mmaUse d a
  | .mmaE5m2 d a _ _ => e.mmaUse d a
  | .mmaCb4 d a _ _ => e.mmaUse d a
  | .wbld _ _ => ⟨.movement, [], [], none, some (bits e.xs2 3 0), true⟩
  | .ssm d _ => ⟨.chunks, [wholeTile d.toNat], [wholeTile d.toNat], none, none, true⟩
  | .ssmC d _ => ⟨.chunks, [wholeTile d.toNat], [wholeTile d.toNat], none, none, true⟩
  | .ssmR d _ => ⟨.chunks, [wholeTile d.toNat], [wholeTile d.toNat], none, none, true⟩
  | _ => ⟨.movement, [], [], none, none, false⟩

/-- Whether two row sets share a row. -/
def RowSet.meets (p q : RowSet) : Bool := p.1 == q.1 && p.2.1 < q.2.1 + q.2.2 && q.2.1 < p.2.1 + p.2.2

/-- Whether any rows of two lists meet. -/
def rowsMeet (p q : List RowSet) : Bool := p.any (fun x => q.any (fun y => RowSet.meets x y))

/-- R150: whether an earlier instruction that has not completed holds a head back. -/
def LUse.holds (old head : LUse) : Bool :=
  rowsMeet old.writes (head.reads ++ head.writes) || rowsMeet old.reads head.writes ||
    (match old.slotW with
      | some n => head.slotR == some n || head.slotW == some n
      | none => false)

/-- The lane groups that a window needs (R149). -/
def LEntry.groups (e : LEntry) : Nat :=
  let a := owStart e.xs1 / 16
  let b := (owStart e.xs1 + owRows e.xs1 - 1) / 16
  2 ^ (b + 1) - 2 ^ a

/-- The lane groups an instruction in progress holds: all of them for matrix work (R151). -/
def LEntry.held (e : LEntry) : Nat :=
  match e.use.unit with
  | .vector => e.groups
  | .movement => 0
  | .chunks => if e.finished then 0 else 255
  | .matrix => 255

/-- A chunk of an `ssm` is granted and not yet complete. -/
def LEntry.inChunk (e : LEntry) : Bool := e.use.unit == .chunks && e.row == 1

/-- The groups that are in use in a cluster. -/
def State.busyGroups (s : State) (cl : Nat) : Nat :=
  (coresOf cl).foldl (fun m c =>
    let k := s.core c
    let m := k.inflight.foldl (fun m e => m ||| e.held) m
    if k.lq.any LEntry.inChunk then 255 else m) 0

/-- The head of a core's queue. -/
def Core.head (k : Core) : Option LEntry := k.lq.head?

/-- R150: whether the head of a core is held back. -/
def Core.headHeld (k : Core) (e : LEntry) : Bool := k.inflight.any (fun o => o.use.holds e.use)

/-- A `wbld` on a slot that has not completed, on any core of a cluster (R160). -/
def State.loading (s : State) (cl : Nat) (slot : Option Nat) : Bool :=
  slot.isSome && (coresOf cl).any (fun c => (s.core c).inflight.any (fun e => e.use.slotW == slot))

/-- An `mma` on a slot that has not completed, on any core of a cluster (R160). -/
def State.slotInUse (s : State) (cl : Nat) (slot : Option Nat) : Bool :=
  slot.isSome && (coresOf cl).any (fun c => (s.core c).inflight.any (fun e => e.use.slotR == slot))

/-- The leaves of the objects that an entry is about to access: of an `ssm` the control block before its first chunk is open and
where CODE is still to be written, then all ranges of its chunk. -/
def LEntry.leaves (e : LEntry) (c ctxid : Nat) (s : State) : List Nat :=
  let block := match s.liveEnt ctxid e.index with
    | some x => [x.leaf c]
    | none => []
  if e.poke.isSome then block
  else if e.finished then []
  else if e.use.unit != .chunks then (if e.index = 0 then [] else [e.leaf])
  else if e.spans.isEmpty then block
  else e.spans.map (fun p => p.ent.leaf c)

/-- Whether the path of an object that an entry is about to access is being reshaped (R173, R340). -/
def State.entryBlocked (s : State) (c : Nat) (e : LEntry) : Bool :=
  let ctxid := s.ctxidOf c
  (e.leaves c ctxid s).any (fun l => (s.reshaping ctxid (s.path ctxid l)).isSome)

/-! ## The arbiter (R151, R152) -/

/-- R151: whether the head of a core is eligible. -/
def State.eligible (s : State) (c : Nat) : Bool :=
  let cl := c / 8
  let k := s.core c
  match k.head with
  | none => false
  | some e =>
    let u := e.use
    let busy := s.busyGroups cl
    !k.headHeld e && (match u.unit with
      | .movement => false
      | .vector => if (s.cluster cl).matrix then busy == 0 else busy &&& e.groups == 0
      | .matrix => busy == 0 && !s.loading cl u.slotR
      | .chunks => busy == 0 && e.row == 0 && !e.finished && !k.inflight.any (fun o => o.use.memory && !o.finished))

/-- R153: the effective weight of a core. -/
def Core.weight (k : Core) : Nat := min (bits k.lweight 3 0) (bits k.lweight 7 4)

/-- An accumulator held to its range (R152). -/
def accHeld (z : Int) : Int := max (-32768) (min 32767 z)

/-- R152: the eligible cores with the weights that count. -/
def State.contenders (s : State) (cl : Nat) : List (Nat × Nat) :=
  let es := (coresOf cl).filter s.eligible
  let ws := (es.map (fun c => (c, (s.core c).weight))).filter (fun p => 0 < p.2)
  if ws.isEmpty then es.map (fun c => (c, 1)) else ws

/-- The core with the highest accumulator; ties go to the lowest. -/
def bestCore (s : State) : List (Nat × Nat) → Option Nat
  | [] => none
  | p :: t => match bestCore s t with
    | none => some p.1
    | some c => if (s.core c).acc ≤ (s.core p.1).acc then some p.1 else some c

/-- One decision: the winner and the state with the accumulators moved on. -/
def State.decideGrant (s : State) (cl : Nat) : Option Nat × State :=
  let ws := s.contenders cl
  let total : Nat := ws.foldl (fun (n : Nat) p => n + p.2) 0
  let s := ws.foldl (fun s p => s.modCore p.1 (fun k => { k with acc := accHeld (k.acc + (p.2 : Int)) })) s
  match bestCore s ws with
  | none => (none, s)
  | some c => (some c, s.modCore c (fun k => { k with acc := accHeld (k.acc - (total : Int)) }))

/-- The head leaves the queue; the accumulator is cleared when the queue becomes empty. -/
def Core.popHead (k : Core) (e : LEntry) : Core :=
  let q := k.lq.drop 1
  { k with lq := q, inflight := k.inflight ++ [e], acc := if q.isEmpty then 0 else k.acc }

/-- Replace the head of the queue. -/
def Core.putHead (k : Core) (e : LEntry) : Core := { k with lq := e :: k.lq.drop 1 }

/-- Whether an `ssm` stands before its last chunk: NCH is known once its control block has been read (R337). -/
def LEntry.lastChunk (e : LEntry) : Bool :=
  !e.params.isEmpty && e.chunk + 1 == e.block.nch

/-- What a granted instruction writes when it completes (R150, R309). Its sources and its slot are as at the grant, since what
would write them is held back until then; the checks of R160 are those of the grant. -/
def LEntry.results (e : LEntry) (c : Nat) (s : State) : LEntry × State :=
  match e.use.unit, e.instr with
  | .matrix, .mmaBf16 d a _ _ => e.runMma c d a s
  | .matrix, .mmaF16 d a _ _ => e.runMma c d a s
  | .matrix, .mmaE4m3 d a _ _ => e.runMma c d a s
  | .matrix, .mmaE5m2 d a _ _ => e.runMma c d a s
  | .matrix, .mmaCb4 d a _ _ => e.runMma c d a s
  | .vector, _ => e.compute c s
  | _, _ => (e, s)

/-- Grant the head of a core: it leaves the queue, an `ssm` with its last chunk or when a check of the grant fails (R150, R337,
R340). -/
def State.grant (s : State) (c : Nat) : State :=
  let ctxid := s.ctxidOf c
  match (s.core c).head with
  | none => s
  | some e => match e.use.unit with
    | .chunks =>
      let (e, s) := if s.entryBlocked c e then (e, s) else e.openChunk c ctxid s
      s.modCore c (fun k =>
        if e.finished || e.lastChunk then k.popHead { e with row := b2n (!e.finished) } else k.putHead { e with row := 1 })
    | .matrix => s.modCore c (fun k => k.popHead { e.checkSlot c ctxid s with finished := true })
    | _ => s.modCore c (fun k => k.popHead { e.takeSources c ctxid s with finished := true })

/-- Whether a head needs the matrix wiring. -/
def LEntry.wantsMatrix (e : LEntry) : Bool := e.use.unit != .vector

/-- Whether the arbiter of a cluster can decide. -/
def State.grantReady (s : State) (cl : Nat) : Bool :=
  (s.cluster cl).rewire.isNone && (coresOf cl).any s.eligible

/-- R152: one decision of the arbiter of cluster `at_`. -/
def execLatticeGrant (s : State) : Outcome :=
  runEvent (fun ev s =>
    let cl := ev.at_
    if !s.grantReady cl then s
    else match s.decideGrant cl with
      | (none, s) => s
      | (some c, s) => match (s.core c).head with
        | none => s
        | some e =>
          if e.wantsMatrix = (s.cluster cl).matrix then s.grant c
          else s.modCluster cl (fun k => { k with rewire := some (c, b2n e.wantsMatrix) })) s

/-- R151: the rewiring of cluster `at_` ends, and the winner is granted, if its head still stands there and may be. -/
def execRewireComplete (s : State) : Outcome :=
  runEvent (fun ev s =>
    match (s.cluster ev.at_).rewire with
    | none => s
    | some (c, w) =>
      let s := s.modCluster ev.at_ (fun k => { k with rewire := none, matrix := w == 1 })
      if s.eligible c && (s.core c).head.any (fun e => b2n e.wantsMatrix == w) then s.grant c else s) s

/-! ## The movement unit (R157) -/

/-- The movement instruction a core has in the unit. -/
def Core.moving (k : Core) : Option LEntry := k.inflight.find? (fun e => e.use.unit == .movement && !e.finished)

/-- Whether the lines an entry asked for have all arrived. -/
def LEntry.supplied (e : LEntry) : Bool := e.asked.all (fun h => (e.lines.look h).isSome)

/-- Whether the unit can take the head of a core up. From a win that needs rewiring until its grant, nothing else is granted
(R151), so that the slot of a winner is not loaded meanwhile (R160); memory accesses go after those of an `ssm` (R315, R340). -/
def State.canTake (s : State) (c : Nat) : Bool :=
  let k := s.core c
  match k.moving, k.head with
  | none, some e => e.use.unit == .movement && !k.headHeld e && !s.slotInUse (c / 8) e.use.slotW &&
      (s.cluster (c / 8)).rewire.isNone && !(e.use.memory && k.inflight.any LEntry.inChunk)
  | _, _ => false

/-- Whether every instruction of the core before an entry has completed, so that it can write (R150). -/
def Core.oldest (k : Core) (e : LEntry) : Bool := match k.inflight with
  | [] => true
  | o :: _ => o.seq == e.seq

/-- Whether the unit can serve a core. -/
def State.moveReadyCore (s : State) (c : Nat) : Bool :=
  match (s.core c).moving with
  | some e => e.supplied && !s.entryBlocked c e && (s.core c).oldest e
  | none => s.canTake c

/-- Replace an entry in flight. -/
def Core.putFlight (k : Core) (e : LEntry) : Core :=
  { k with inflight := k.inflight.map (fun o => if o.seq = e.seq then e else o) }

/-- Serve one row of a core's movement instruction, taking one up first. -/
def State.serveCore (s : State) (c : Nat) : State :=
  let s := if (s.core c).moving.isNone then match (s.core c).head with
      | some e => s.modCore c (fun k => k.popHead (e.takeSources c (s.ctxidOf c) s))
      | none => s
    else s
  match (s.core c).moving with
  | none => s
  | some e =>
    if s.entryBlocked c e || !(s.core c).oldest e then s
    else
      let ctxid := s.ctxidOf c
      let (e, s) := match e.instr with
        | .wbld _ _ => e.serveWbld c ctxid s
        | _ => e.serveRow c ctxid s
      s.modCore c (fun k => k.putFlight e)

/-- The cores of a cluster from the one whose turn it is. -/
def turnOrder (cl next : Nat) : List Nat := (List.range 8).map (fun i => cl * 8 + (next + i) % 8)

/-- R157: the movement unit of cluster `at_` moves one row, in round robin over its cores. -/
def execMovementServe (s : State) : Outcome :=
  runEvent (fun ev s =>
    match (turnOrder ev.at_ (s.cluster ev.at_).moveNext).find? s.moveReadyCore with
    | none => s
    | some c => (s.serveCore c).modCluster ev.at_ (fun k => { k with moveNext := (c + 1) % 8 })) s

/-! ## Completion (R310) -/

/-- An entry has an operation on another device that is not answered. -/
def State.awaits (s : State) (c : Nat) (e : LEntry) : Bool :=
  s.remotes.any (fun r => r.core == c && r.ctx == e.agent)

/-- The entry of a core that can complete, or whose chunk can go on: its number. A core's instructions write their results in
queue order (R150). -/
def State.completable (s : State) (c : Nat) : Option Nat :=
  let k := s.core c
  let can := fun (e : LEntry) => (e.finished || (e.inChunk && e.supplied)) && !s.awaits c e && !s.entryBlocked c e
  match k.inflight, k.head with
  | e :: _, _ => if can e then some e.seq else none
  | [], some e => if (e.inChunk || e.finished) && can e then some e.seq else none
  | [], none => none

/-- Record what a completed entry found: its deferred causes in order, the poison it consumed, its flags. -/
def State.recordEntry (s : State) (c : Nat) (e : LEntry) : State :=
  let all := (match e.fault with
    | some f => [lcause f.1 f.2]
    | none => []) ++ e.causes ++ (match e.bad with
    | some v => [lcause Cause.uncorrData v]
    | none => [])
  let s := all.foldl (fun s d => s.modCtx c e.ctx (fun x => x.defer d)) s
  let s := if all.isEmpty then s else match e.use.slotW with
    | some n => s.spoilSlot (c / 8) n
    | none => s
  s.latticeFlags c e.ctx (BitVec.ofNat 5 e.flags)

/-- One attempt at the chunk that an `ssm` holds a grant for, at the head of its core's queue or, with its last chunk, in
flight. -/
def State.advanceChunk (s : State) (c : Nat) (e : LEntry) (queued : Bool) : State :=
  let before := e.chunk
  let (e, s) := e.tryChunk c (s.ctxidOf c) s
  let e := { e with row := if e.finished || e.chunk != before then 0 else 1 }
  s.modCore c (fun k =>
    if !queued then k.putFlight e
    else if e.finished || (e.row == 1 && e.lastChunk) then k.popHead e
    else k.putHead e)

/-- The entry at the head of what a core has in flight completes: it writes its results, and what it found is recorded. An `ssm`
that failed first writes CODE and DETAIL, and completes when that write has been acknowledged (R341). -/
def State.completeEntry (s : State) (c : Nat) (e : LEntry) : State :=
  match e.poke with
  | some w => (e.writeCode c (s.ctxidOf c) w s).modCore c (fun k => k.putFlight { e with poke := none })
  | none =>
    let (e, s) := e.results c s
    (s.modCore c (fun k => { k with inflight := k.inflight.filter (fun o => o.seq != e.seq) })).recordEntry c e

/-- R310: entry number `x` of core `at_` completes; for a chunk, its results are written (R340). -/
def execLatticeComplete (s : State) : Outcome :=
  runEvent (fun ev s =>
    let c := ev.at_
    if s.completable c != some ev.x then s
    else match (s.core c).inflight, (s.core c).head with
      | e :: _, _ => if e.finished then s.completeEntry c e else s.advanceChunk c e false
      | [], some e => if e.finished then s.modCore c (fun k => k.popHead { e with row := 0 }) else s.advanceChunk c e true
      | [], none => s) s

end Sys2Proof.Machine
end

