-- ==== Sys2Proof/Machine/Replies.lean ====
section
/-! DEFINITION. Answers at the requester (R38, R250, R262, R267), and the end-to-end protocol of requests between devices
(R27, R28, R30, R73). -/

namespace Sys2Proof.Machine

/-! ## The end of a request -/

/-- The cumulative acknowledgement moves past the results that have come (R27). -/
def advanceCack : Nat → Nat → List Nat → Nat × List Nat
  | 0, c, l => (c, l)
  | n + 1, c, l => if l.contains c then advanceCack n ((c + 1) % 2 ^ 32) (l.filter (fun e => e != c)) else (c, l)

/-- A result for an ESEQ has been received; its acknowledgement is owed (R27). -/
def Peer.received (p : Peer) (eseq now : Nat) : Peer :=
  let r := advanceCack (p.acked.length + 1) p.cack (p.acked ++ [eseq])
  { p with cack := r.1, acked := r.2, owedAck := true, owedAt := if p.owedAck then p.owedAt else now }

/-- A request has its answer, or has failed: it is no longer outstanding, and its ESEQ counts as received (log entry 93).
What waited behind it for the same line leaves (log entry 137). -/
def State.closeRemote (s : State) (r : Remote) : State :=
  let s := { s with remotes := s.remotes.erase r }
  let s := if r.dev = s.devId then s else s.modPeer r.dev (fun p => p.received r.eseq s.clk)
  s.releaseHeld

/-- Requests that are abandoned. -/
def State.closeRemotes (s : State) (p : Remote → Bool) : State := (s.remotes.filter p).foldl (fun s r => s.closeRemote r) s

/-- The outstanding request that a response answers, of another device by its ESEQ: the first response closes it, a later one
finds none (R28). -/
def State.remoteFor (s : State) (ep : Nat) (m : Msg) : Option Remote :=
  s.remotes.find? (fun r => r.tag == m.tagid && r.dev == m.sdev && r.msg.sep == ep &&
    (if m.sdev = s.devId then r.msg.dep == m.sep else r.eseq == m.eseq))

/-- Whether a remote store or nibble to a gang's local memory is what RFCNT counts (R168). -/
def Remote.counted (r : Remote) (dev : Nat) : Bool := r.dev == dev && (r.msg.op == 0x0B || r.msg.op == 0x06)

/-- RFCNT falls by one. -/
def State.settle (s : State) (r : Remote) : State :=
  if r.counted s.devId then s.modCore r.core (fun k => { k with rfcnt := k.rfcnt - 1 }) else s

/-- Hand an answer to the context that waits for it; whether one does. -/
def State.handReply (s : State) (r : Remote) (op : Nat) (words : List Word) (poison : Nat) : Bool × State :=
  let x := s.ctx r.core r.ctx
  if r.ctx < 11 ∧ (x.wait = some (.remote r.tag) ∨ x.wait = some (.fetch r.tag)) then
    (true, s.setCtx r.core r.ctx { x with replies := x.replies ++ [⟨r.tag, op, words, poison⟩] })
  else (false, s)

/-- A lattice entry by the number under which it sends. -/
def Core.entryOf (k : Core) (agent : Nat) : Option LEntry := (k.inflight ++ k.lq).find? (fun e => e.agent == agent)

/-- Replace a lattice entry where it stands. -/
def Core.putEntry (k : Core) (e : LEntry) : Core :=
  let f := fun (o : LEntry) => if o.seq = e.seq then e else o
  { k with inflight := k.inflight.map f, lq := k.lq.map f }

/-- A line that a lattice entry asked for has come, with its poison mask. -/
def State.giveLine (s : State) (r : Remote) (m : Msg) : State := match (s.core r.core).entryOf r.ctx with
  | none => s
  | some e =>
    let bytes := (m.payload.flatMap (fun w => leBytes 8 w.toNat)) ++ leBytes 2 m.poison
    s.modCore r.core (fun k => k.putEntry { e with lines := e.lines.put r.off bytes })

/-- A request of a lattice entry has failed: the entry ends with the cause (R314, R341). -/
def State.failEntry (s : State) (r : Remote) (cause : Nat) (eval : Word) : State := match (s.core r.core).entryOf r.ctx with
  | none => s
  | some e =>
    s.modCore r.core (fun k => k.putEntry (if e.use.unit == .chunks then e.ssmBad (Bad.of cause eval)
      else { e with causes := e.causes ++ [lcause cause eval], finished := true }))

/-- A request fails with a cause (R267): precisely where the context waits for it, otherwise deferred to `rfence`. -/
def State.failRemote (s : State) (r : Remote) (cause : Nat) (eval : Word) : State :=
  let s := (s.closeRemote r).settle r
  match s.handReply r 0x4F [word (cause * 2 ^ 56), eval] 0 with
  | (true, s) => s
  | (false, s) =>
    if 100 ≤ r.ctx then s.failEntry r cause eval
    else if r.ctx = mcastAgent then s.mcastFails r cause
    else if copyAgent 0 ≤ r.ctx ∧ r.ctx < copyAgent 16 ∧ r.load then match s.waitingJob r with
      | some (q, j) => s.endJob (r.core / 8) q j.seq cause j.srch.index.toNat
      | none => s
    else if r.load then s
    else s.defer r.core r.ctx cause eval .rfence

/-- The cause and EVAL of a FAIL (R38, R30, R267): a request inside the device raises the cause that FAIL names. -/
def State.failCause (s : State) (r : Remote) (m : Msg) : (Nat × Word) × State :=
  let c := bits (m.payload.getD 0 0) 63 56
  let far := word (r.dev * 2 ^ 32 + r.eseq)
  if c = Cause.linkDown then ((c, word (s.routes.get r.dev 0 / 16 % 16)), s)
  else if r.dev != s.devId then ((if r.atomic then Cause.atomicLost else Cause.remoteFail, far), s)
  else if c = Cause.remoteFail then
    let (v, s) := s.free
    ((c, word (r.dev * 2 ^ 32 + v.toNat % 2 ^ 32)), s)
  else ((c, hEval r.handle r.off), s)

/-! ## The events -/

/-- Handle a response for the request it answers. -/
def takeResponse (f : Remote → Msg → State → State) (s : State) : Outcome :=
  takeMsgAt (fun ep m s => match s.remoteFor ep m with
    | none => s
    | some r => f r m s) s

/-- The TAKE that a TAKECAN withdraws: of the same device, core and tag (R38). -/
def State.takeOf (s : State) (r : Remote) : Option Remote :=
  if r.msg.op = 0x0A then s.remotes.find? (fun q => q.msg.op == 0x09 && q.dev == r.dev && q.core == r.core && q.tag == r.tag)
  else none

/-- R269: the withdrawal of a waiting TAKE is acknowledged: the instruction has had no effect, and its context waits no more. -/
def State.withdrawn (s : State) (r : Remote) : State := match s.takeOf r with
  | none => s
  | some q => (s.closeRemote q).modCtx q.core q.ctx (fun x => if x.wait = some (.remote q.tag) then { x with wait := none } else x)

/-- R269: the TAKE instructions of a core that wait at other devices are withdrawn, each with a TAKECAN of its tag. -/
def State.cancelTakes (s : State) (c : Nat) : State :=
  (s.remotes.filter (fun q => q.core == c && q.msg.op == 0x09 && q.dev != s.devId &&
    !s.remotes.any (fun r => r.msg.op == 0x0A && r.dev == q.dev && r.core == c && r.tag == q.tag))).foldl (fun s q =>
      s.sendRemote q.dev c 99 false false q.handle q.off { q.msg with op := 0x0A, plen := 2, payload := q.msg.payload.take 2 }) s

/-- An answer completes the request: RFCNT falls, and a context that waits for it takes it. -/
def complete (r : Remote) (m : Msg) (s : State) : State :=
  (((s.closeRemote r).settle r).withdrawn r |>.handReply r m.op m.payload m.poison).2

/-- RDATA (R250): the load or the fetch has its data, or the line has come that a lattice entry, a copy job or a multicast asked
for. -/
def execRdata (s : State) : Outcome :=
  takeResponse (fun r m s =>
    if 100 ≤ r.ctx then (s.closeRemote r).giveLine r m
    else if r.ctx = mcastAgent then (s.closeRemote r).mcastLine r m
    else match s.waitingJob r with
      | some (q, j) => (s.closeRemote r).jobLine (r.core / 8) q j (m.payload.flatMap (fun w => leBytes 8 w.toNat) ++ leBytes 2 m.poison)
      | none => complete r m s) s

/-- ARES (R262): the old value. -/
def execAres (s : State) : Outcome := takeResponse complete s

/-- MSG (R296): the taken message. -/
def execMsg (s : State) : Outcome := takeResponse complete s

/-- EMPTY (R296). -/
def execEmpty (s : State) : Outcome := takeResponse complete s

/-! ## End to end (R27, R28, R30) -/

/-- A request from another device reaches this one with its end-to-end word `words[0]` (R28): CACK frees entries of the
source's replay table; a new ESEQ is performed, a pending one discarded, a done one answered from the table, but a load is
performed again. -/
def State.e2eArrive (s : State) (ep : Nat) (w : Word) (m : Msg) : State :=
  let eseq := bits w 63 32
  let cack := bits w 31 0
  let s := s.modPeer m.sdev (fun p => { p with
    replays := p.replays.filter (fun r => (r.2.eseq + 2 ^ 32 - cack) % 2 ^ 32 < 2 ^ 31) })
  let m := { m with eseq := eseq }
  let go := fun (s : State) => s.post m.event { Ev.zero with at_ := ep, msg := m }
  let fresh := fun (s : State) => go (s.modPeer m.sdev (fun p => { p with
    replays := p.replays.put (eseq % 4096) ⟨eseq, false, []⟩ }))
  match (s.peer m.sdev).replays.look (eseq % 4096) with
  | none => fresh s
  | some r =>
    if r.eseq ≠ eseq then fresh s
    else if !r.done then s
    else if m.op = 0x01 ∨ m.op = 0x0C then go s
    else s.inject (s.reply ep m (r.result.getD 0 0).toNat (r.result.drop 1))

/-- R28: a cross-device request arrives at the hub root endpoint `at_` with its end-to-end word. -/
def execE2eRequestArrive (s : State) : Outcome := runEvent (fun ev s => s.e2eArrive ev.at_ (ev.words.getD 0 0) ev.msg) s

/-- Fabric cycles in 20 µs and 10 µs (R4). -/
def us20 : Nat := 37600
/-- 10 µs. -/
def us10 : Nat := 18800

/-- The link that carries a request: the one it was last sent on, or the one it would take. -/
def State.linkOf (s : State) (r : Remote) : Option Nat := r.link.orElse (fun _ => s.linkTo r.dev)

/-- A request whose link is retraining has its timer suspended (R24). -/
def State.timerHeld (s : State) (r : Remote) : Bool := match s.linkOf r with
  | some l => (s.link l).retrain
  | none => false

/-- The requests to other devices that have waited 20 µs for an answer: (device, ESEQ). -/
def State.overdue (s : State) : List (Nat × Nat) :=
  (s.remotes.filter (fun r => r.dev != s.devId && !r.held && us20 ≤ s.clk - r.sent && !s.timerHeld r)).map (fun r => (r.dev, r.eseq))

/-- A request goes out again with its ESEQ on the route of the moment (R27). The retransmission that R30 makes at once counts as
one of the 8 (log entry 94). -/
def State.resend (s : State) (r : Remote) : State :=
  ({ s with remotes := s.remotes.map (fun q => if q = r then { q with sent := s.clk, retries := q.retries + 1 } else q) }).inject r.msg

/-- R27: the request to device `at_` with ESEQ `x` has no response after 20 µs: it is retransmitted, and after 8
retransmissions it fails. -/
def execE2eRetransmit (s : State) : Outcome :=
  runEvent (fun ev s => match s.remotes.find? (fun r => r.dev == ev.at_ && r.eseq == ev.x && r.dev != s.devId) with
    | none => s
    | some r => if 8 ≤ r.retries then s.post .e2eRequestFail { Ev.zero with at_ := ev.at_, x := ev.x } else s.resend r) s

/-- R27: the request to device `at_` with ESEQ `x` fails with ATOMIC_LOST or REMOTE_FAIL. -/
def execE2eRequestFail (s : State) : Outcome :=
  runEvent (fun ev s => match s.remotes.find? (fun r => r.dev == ev.at_ && r.eseq == ev.x && r.dev != s.devId) with
    | none => s
    | some r => s.failRemote r (if r.atomic then Cause.atomicLost else Cause.remoteFail) (word (r.dev * 2 ^ 32 + r.eseq))) s

/-- R73: a request of core `at_` with tag `x` that crossed no link has had no response for 20 µs. -/
def execRequestTimeout (s : State) : Outcome :=
  runEvent (fun ev s => match s.remotes.find? (fun r => r.dev == s.devId && r.core == ev.at_ && r.tag == ev.x) with
    | none => s
    | some r =>
      let (v, s) := s.free
      s.failRemote r Cause.remoteFail (word (r.dev * 2 ^ 32 + v.toNat % 2 ^ 32))) s

/-- The requests inside the device that have waited 20 µs: (core, tag). -/
def State.timedOut (s : State) : List (Nat × Nat) :=
  (s.remotes.filter (fun r => r.dev == s.devId && us20 ≤ s.clk - r.sent)).map (fun r => (r.core, r.tag))

/-- The devices to which an acknowledgement has been owed for 10 µs with no request following (R27). -/
def State.owedAcks (s : State) : List Nat :=
  (s.peers.filter (fun p => p.2.owedAck && us10 ≤ s.clk - p.2.owedAt)).map (fun p => p.1)

/-- The words of a control flit (R29): CTYPE in byte 8, then bytes 16 on. -/
def controlWords (ctype : Nat) (rest : List Word) : List Word := word ctype :: rest

/-- Send a control flit on a link (R29). -/
def State.sendControl (s : State) (l ctype : Nat) (rest : List Word) : State :=
  s.modLink l (fun k => k.send 2 (controlWords ctype rest) false)

/-- A record of an EACK flit (R29). -/
def eackRecord (src dst cack : Nat) : Word := word (src * 2 ^ 58 + dst * 2 ^ 52 + cack)

/-- R27: the acknowledgement owed to device `at_` goes out in a control flit. -/
def execE2eAckTimer (s : State) : Outcome :=
  runEvent (fun ev s => match s.linkTo ev.at_ with
    | none => s.modPeer ev.at_ (fun p => { p with owedAck := false })
    | some l =>
      let s := s.sendControl l 3 [eackRecord s.devId ev.at_ (s.peer ev.at_).cack]
      s.modPeer ev.at_ (fun p => { p with owedAck := false })) s

end Sys2Proof.Machine
end

