-- ==== Sys2Proof/Machine/Copy.lean ====
section
/-! DEFINITION. The copy unit (R162 to R164): copy jobs, joins, multicasts with their records and delivery entries (R180, R403
to R406), and the end of a migration (R57, R58). -/

namespace Sys2Proof.Machine

/-! ## One piece of a copy (R164, R288) -/

/-- One side of a copy: local memory of a core, or an object. -/
inductive Side where
  | loc (core off : Nat)
  | obj (a : Acc)
  deriving DecidableEq, Repr

/-- The handle of a side, checked for `n` bytes at `off` (R166, R168): local memory through window 0, a gang window, or a
global object with FMT 0; other formats stop the job (R167). A gang window names the gang of the core that issued the job; that of a
COPY packet, which no core issued, the gang that runs on the first core of its copy unit's cluster (log entry 148). -/
def State.copySide (s : State) (cl : Nat) (j : Job) (h : Handle) (off n : Nat) (write : Bool) : Except Bad Side × State :=
  let i := h.index.toNat
  let bound := Bad.of Cause.hBound (hEval i off)
  let local_ := match j.kind with
    | .packet _ _ => false
    | _ => i == 0
  let inFrames := fun (o : Nat) => write && decide (frameBase < o + n)
  if local_ then
    if off < 0x40000 then (if 0x40000 < off + n || inFrames off then .error bound else .ok (.loc j.core off), s)
    else (.error (if off < 0x200000 then Bad.of Cause.windowScalar (hEval 0 off) else bound), s)
  else match s.checkEnt j.ctxid h off ⟨[if write then rW else rR], n, write, 0, false, if write then .write else .read⟩ with
    | .error b => (.error b, s)
    | .ok e =>
      if e.fmt = 15 then match (s.gang j.core)[off / 0x40000]? with
        | some m => (if inFrames (off % 0x40000) then .error bound else .ok (.loc m (off % 0x40000)), s)
        | none => (.error bound, s)
      else if e.fmt ≠ 0 then (.error (Bad.of Cause.windowScalar (hEval i off)), s)
      else
        let rel := e.base + off - s.mapBase j.ctxid e
        match translateAll cl j.ctxid e off (if write then .write else .read) (hEval i off) (pageStarts rel n) s with
        | (.error b, s) => (.error b, s)
        | (.ok hs, s) => (.ok (.obj ⟨e, off, hs⟩), s)

/-- The bytes of a job. -/
def Job.total (j : Job) : Nat := j.rows * j.len

/-- Byte `k` of a job at its source and its destination. -/
def Job.places (j : Job) (k : Nat) : Nat × Nat :=
  (j.srcoff + k / j.len * j.sstride + k % j.len, j.dstoff + k / j.len * j.dstride + k % j.len)

/-- The place of byte 0 of a side within a line: BASE of a global object. -/
def State.sideBase (s : State) (j : Job) (h : Handle) : Nat := match s.ent j.ctxid h.index.toNat with
  | some e => if e.fmt = 0 ∧ h.index ≠ 0 then e.base % 128 else 0
  | none => 0

/-- The length of the next piece: inside one line of either side, and one row. -/
def State.piece (s : State) (j : Job) : Nat :=
  let p := j.places j.pos
  min (j.len - j.pos % j.len) (min (128 - (p.1 + s.sideBase j j.srch) % 128) (128 - (p.2 + s.sideBase j j.dsth) % 128))

/-- The leaf of an object for the copy unit of a cluster (R172). -/
def unitLeaf (e : Ent) (cl : Nat) : Nat := e.leaf (cl * 8)

/-- Bytes arrive at a core's local memory from a copy or a multicast, with their poison (R100). -/
def State.intoLocal (s : State) (core off : Nat) (bs : List Byte) (bad : List Bool) (col : Bool) : State :=
  let s := (s.foreignWrite core off bs col).2
  (List.range bs.length).foldl (fun s i =>
    if bad.getD i false then { s with lmem := s.lmem.addPoison (lkey core (off + i)) } else s) s

/-- A message of a copy unit of this device to another device, with request words (R38). `sep` is the endpoint that its answer
goes to. -/
def State.unitMsg (s : State) (cl sep dev op tag page off rctx rhnd : Nat) (more : List Word) : Msg :=
  mkMsg dev 0x800 s.devId sep 2 op tag (s.partOfBlock (cl / 8)) (parity (s.cluster cl).snapGen)
    ([q0Word (if op = 0x21 then 7 else 5) (peerAddr page off), q1Word rctx 0 0 0 0 0 rhnd] ++ more)

/-- A tag for a message of a copy unit: its queue and the piece. -/
def unitTag (q pos : Nat) : Nat := 32768 + q * 1024 + pos / 128 % 1024

/-- Write a piece that has been read: in this device at once; to another device as half lines, each of which is acknowledged
(R164). -/
def State.writePiece (s : State) (cl q : Nat) (j : Job) (bs : List Byte) (bad : List Bool) : State :=
  let dst := (j.places j.pos).2
  let stop := fun (s : State) (b : Bad) (h : Handle) => s.endJob cl q j.seq b.cause h.index.toNat
  match s.copySide cl j j.dsth dst bs.length true with
  | (.error b, s) => stop s b j.dsth
  | (.ok side, s) =>
    let s := if bad.any id then s.modJobAt cl q j.seq Job.consumed else s
    let moved := fun (s : State) => s.modJobAt cl q j.seq (fun k => k.at_ (j.pos + bs.length))
    match side with
    | .loc c o => moved (s.intoLocal c o bs bad (parity (s.cluster cl).snapGen))
    | .obj a =>
      let leaf := unitLeaf a.ent cl
      match a.homeAt 0, s.path j.ctxid leaf with
      | .peer dev rctx rhnd page off, [] =>
        let halves := (linePieces off bs.length).flatMap (fun p =>
          (List.range 2).filterMap (fun k =>
            let base := p.2.1 / 128 * 128 + 64 * k
            let lo := max base off
            let hi := min (base + 64) (off + bs.length)
            if lo < hi then some (base, lo, hi) else none))
        let tag := unitTag q j.pos
        let s := halves.foldl (fun s (h : Nat × Nat × Nat) =>
          let data := List.replicate (h.2.1 - h.1) (0 : Byte) ++ (bs.drop (h.2.1 - off)).take (h.2.2 - h.2.1)
          let mask := (2 ^ (h.2.2 - h.2.1) - 1) * 2 ^ (h.2.1 - h.1)
          let words := (List.range 8).map (fun i => word (leNat ((data.drop (8 * i)).take 8)))
          s.inject { s.unitMsg cl (cuEndpoint cl) dev 0x23 tag page h.1 rctx rhnd (word mask :: words) with
            poison := 8 * badWords (((bad.drop (h.2.1 - off)).take (h.2.2 - h.2.1))) (h.2.1 - h.1) }) s
        (s.modCluster cl (fun k => { k with sent := (k.sent + halves.length) % 2 ^ 32 })).modJobAt cl q j.seq
          (fun k => { k with pos := j.pos + bs.length, tag := tag + 1, lines := halves.length, got := [] })
      | _, _ =>
        if s.hostDenies (a.homeAt 0) then stop s (Bad.of Cause.remoteFail 0) j.dsth
        else match { s with colour := some (parity (s.cluster cl).snapGen) }.writeObject (cl * 8) j.ctxid leaf (a.ent.base + a.off) bs
            bad a.homes 0 90 with
          | (true, s) => moved { s with colour := none }
          | (false, s) => stop { s with colour := none } (Bad.of Cause.hWx (hEval a.ent.index a.off)) j.dsth

/-- Whether the destination of a job is local memory of a core of its own cluster, by h0, so that the data it reads comes to the
cluster's network interface (R164). -/
def Job.intoCluster (j : Job) : Bool := match j.kind with
  | .copy => j.dsth.index == 0
  | _ => false

/-- Whether an object lies behind a bank that is being reshaped, so that a copy waits (R173). -/
def State.sideShut (s : State) (cl ctxid : Nat) (h : Handle) : Bool := match s.ent ctxid h.index.toNat with
  | some e => h.index != 0 && (s.reshaping ctxid (s.path ctxid (unitLeaf e cl))).isSome
  | none => false

/-- A line of another device that a job needs and has not got: asked for by the bank of the last VC of the path (R422), or without
one by the copy unit itself, whose answer for local memory of its cluster goes to the network interface (R164). -/
def State.askUnit (s : State) (cl q : Nat) (j : Job) (path : List Nat) (h : Home × Nat) : State :=
  let wait := fun (tag : Nat) (s : State) => s.modJobAt cl q j.seq (fun k => { k with
    tag := tag, started := true, got := k.got.put h.1.code [] })
  match path, h.1 with
  | [], .peer dev rctx rhnd page off =>
    let tag := unitTag q j.pos
    let sep := if j.intoCluster then niEndpoint cl else cuEndpoint cl
    wait (tag + 1) (s.inject (s.unitMsg cl sep dev 0x21 tag page off rctx rhnd []))
  | _, _ => wait 1 (s.askLine (cl * 8) (copyAgent q) j.srch.index.toNat h.1 h.2)

/-- Read `n` bytes of a source from its byte `d` on: the bytes with their marks, or the line of another device that is still to be
asked for. -/
def State.unitRead (s : State) (cl : Nat) (j : Job) (a : Acc) (d n : Nat) :
    Except (Home × Nat) (List Byte × List Bool) × State :=
  let leaf := unitLeaf a.ent cl
  let oaddr := a.ent.base + a.off + d
  match (s.peerLines j.ctxid leaf oaddr n a.homes d).find? (fun h => (j.got.get h.1.code []).isEmpty) with
  | some h => (.error h, s)
  | none =>
    let r := s.readObject j.ctxid leaf oaddr n a.homes d j.got
    (.ok r.1, r.2)

/-- A line that comes to a network interface for local memory of its cluster is written there, and acknowledged to the copy unit
(R164). -/
def State.lineIn (s : State) (cl q : Nat) (j : Job) (m : Msg) (bs : List Byte) (bad : List Bool) : State :=
  match s.copySide cl j j.dsth (j.places j.pos).2 bs.length true with
  | (.ok (.loc c o), s) =>
    let s := s.intoLocal c o bs bad m.col
    let s := s.modJobAt cl q j.seq (fun k => { (if bad.any id then k.consumed else k) with pos := j.pos + bs.length, tag := m.tagid + 1, lines := 1, got := [] })
    s.inject (mkMsg s.devId (cuEndpoint cl) s.devId (niEndpoint cl) 1 0x46 m.tagid m.part (parity (s.cluster cl).snapGen) [])
  | (.ok _, s) => s.writePiece cl q j bs bad
  | (.error b, s) => s.endJob cl q j.seq b.cause j.dsth.index.toNat

/-- Read the next piece of a job and write it; a line of another device is asked for and the job waits (R164). `ni` is the message
that brought the line to the network interface. -/
def State.copyPiece (s : State) (cl q : Nat) (j : Job) (ni : Option Msg) : State :=
  let n := s.piece j
  let src := (j.places j.pos).1
  let stop := fun (s : State) (b : Bad) => s.endJob cl q j.seq b.cause j.srch.index.toNat
  if s.sideShut cl j.ctxid j.srch || s.sideShut cl j.ctxid j.dsth then s
  else match s.copySide cl j j.srch src n false with
  | (.error b, s) => stop s b
  | (.ok (.loc c o), s) => s.writePiece cl q j (s.lmem.getRange (lkey c o) n) (s.localBad c o n)
  | (.ok (.obj a), s) =>
    if s.hostDenies (a.homeAt 0) then stop s (Bad.of Cause.remoteFail 0)
    else match s.unitRead cl j a 0 n, ni with
      | (.error h, s), _ => s.askUnit cl q j (s.path j.ctxid (unitLeaf a.ent cl)) h
      | (.ok (bs, bad), s), some m => s.lineIn cl q j m bs bad
      | (.ok (bs, bad), s), none => s.writePiece cl q j bs bad

/-! ## Multicast: the issuer (R289, R403, R404) -/

/-- The id of a multicast: CL and SLOT (R403). -/
def mcastId (cl slot : Nat) : Nat := cl % 8 * 4 + slot

/-- The clusters of a block that a set of cores names. -/
def mcastClusters (cores : Nat) : Nat := (List.range 8).foldl (fun m c => if cores / 2 ^ (8 * c) % 256 = 0 then m else m + 2 ^ c) 0

/-- The checks of a multicast's source (R166, R289). -/
def State.mcastSource (s : State) (cl : Nat) (j : Job) : Except Bad Acc × State :=
  match s.checkEnt j.ctxid j.srch j.srcoff ⟨[rR, rM], j.len, false, 0, false, .read⟩ with
  | .error b => (.error b, s)
  | .ok e =>
    if e.fmt ≠ 0 then (.error (Bad.of Cause.windowScalar (hEval e.index j.srcoff)), s)
    else
      let rel := e.base + j.srcoff - s.mapBase j.ctxid e
      match translateAll cl j.ctxid e j.srcoff .read (hEval e.index j.srcoff) (pageStarts rel j.len) s with
      | (.error b, s) => (.error b, s)
      | (.ok hs, s) => (.ok ⟨e, j.srcoff, hs⟩, s)

/-- The setups of a multicast: one to the interface of every cluster that holds a named core (R404). -/
def State.sendSetups (s : State) (cl q : Nat) (j : Job) (cores : Nat) : State :=
  let id := mcastId cl j.rows
  let part := s.partOfBlock (cl / 8)
  let cs := onesOf (mcastClusters cores) 8
  let s := cs.foldl (fun s c =>
    let w := word (id * 2 ^ 59 + cores / 2 ^ (8 * c) % 256 * 2 ^ 51 + j.dstoff / 128 * 2 ^ 40 + j.len / 128 * 2 ^ 29)
    s.inject (mkMsg s.devId (niEndpoint (cl / 8 * 8 + c)) s.devId (niEndpoint cl) 3 0x70 (mcastTag id 0) part
      (parity (s.cluster cl).snapGen) [w])) s
  s.modJobAt cl q j.seq (fun k => { k with started := true, tag := 1, lines := cs.length })

/-- The reads of a multicast by serving stage (R403): the endpoint, the address and index of the first line, and the count.
At home one for each slice and page that homes a line of the range, at a leaf VC one in all. -/
def State.mcastReads (s : State) (cl : Nat) (j : Job) (a : Acc) : List (Nat × Nat × Nat × Nat) :=
  let leaf := unitLeaf a.ent cl
  let n := j.len / 128
  match s.vc j.ctxid leaf with
  | some v => match (placedBanks v.blocks v.banks).head? with
    | some b => [(bankEndpoint b.1 b.2, a.ent.base + a.off, 0, n)]
    | none => []
  | none =>
    let at_ := (List.range n).filterMap (fun x => match a.homeAt (128 * x) with
      | .mem k => (s.sliceOf k).map (fun u => (u, k, x))
      | .host k => (s.hostHomes.look (k / 65536)).map (fun u => (u, k, x))
      | _ => none)
    let firsts := at_.foldl (fun (acc : List (Nat × Nat × Nat × Nat)) p =>
      if acc.any (fun r => r.1 == p.1 && r.2.1 / 65536 == p.2.1 / 65536) then
        acc.map (fun r => if r.1 = p.1 ∧ r.2.1 / 65536 = p.2.1 / 65536 then (r.1, r.2.1, r.2.2.1, r.2.2.2 + 1) else r)
      else acc ++ [(p.1, p.2.1, p.2.2, 1)]) []
    firsts.map (fun r => (sliceEndpoint r.1, r.2.1 % 2 ^ 56, r.2.2.1, r.2.2.2))

/-- Send the reads of a multicast, once every setup is acknowledged. -/
def State.sendReads (s : State) (cl q : Nat) (j : Job) (cores : Nat) : State :=
  match s.mcastSource cl j with
  | (.error b, s) => s.endJob cl q j.seq b.cause j.srch.index.toNat
  | (.ok a, s) =>
    let rs := s.mcastReads cl j a
    let id := mcastId cl j.rows
    let leaf := unitLeaf a.ent cl
    let vc := if (s.vc j.ctxid leaf).isSome then leaf else 0
    let s := rs.foldl (fun s r =>
      let m := mkMsg s.devId r.1 s.devId (niEndpoint cl) 2 0x22 (mcastTag id r.2.2.1) (s.partOfBlock (cl / 8))
        (parity (s.cluster cl).snapGen) [q0Word 7 r.2.1, q1Word j.ctxid 0 0 vc 0 (j.core % 8) j.srch.index.toNat, word r.2.2.2]
      s.inject { m with mcmask := mcastClusters cores }) s
    s.modJobAt cl q j.seq (fun k => { k with tag := 2, lines := rs.length })

/-- A multicast whose source lies on another device with no VC on its path: the copy unit reads it line by line and its data goes
to each named core (no serving stage of R403 is on this device; log entry 100). -/
def State.mcastFar (s : State) (j : Job) (a : Acc) : Bool :=
  (s.vc j.ctxid (unitLeaf a.ent (j.core / 8))).isNone && a.homes.any (fun h => match h.2 with
    | .peer .. => true
    | _ => false)

/-- A line of a multicast of that kind is written to the cores; poison is a fault of the job (R101). -/
def State.spreadLine (s : State) (cl q : Nat) (j : Job) (cores : Nat) (bs : List Byte) (bad : List Bool) : State :=
  let s := (onesOf cores 64).foldl (fun s i => s.intoLocal (cl / 8 * 64 + i) (j.dstoff + j.pos) bs bad (parity (s.cluster cl).snapGen)) s
  s.modJobAt cl q j.seq (fun k => (if bad.any id then k.consumed else k).at_ (j.pos + 128))

/-- The next step of a multicast at its issuer. -/
def State.mcastStep (s : State) (cl q : Nat) (j : Job) (cores : Nat) : State :=
  match s.mcastSource cl j with
  | (.error b, s) => s.endJob cl q j.seq b.cause j.srch.index.toNat
  | (.ok a, s) =>
    if !s.mcastFar j a then s.sendSetups cl q j cores
    else if j.pos = j.len then s.endJob cl q j.seq j.fault j.faultH
    else if s.hostDenies (a.homeAt j.pos) then s.endJob cl q j.seq Cause.remoteFail j.srch.index.toNat
    else match s.unitRead cl j a j.pos 128 with
      | (.error h, s) => s.askUnit cl q j [] h
      | (.ok (bs, bad), s) => s.spreadLine cl q j cores bs bad

/-! ## The steps of a queue's head job -/

/-- Whether every job up to a number has completed in a queue (R292). -/
def State.joined (s : State) (cl q seq : Nat) : Bool :=
  (s.jobsOf cl q).all (fun j => j.done || (seq + 2 ^ 28 - j.seq) % 2 ^ 28 ≥ 2 ^ 27)

/-- Whether the named queues of a join have completed their earlier jobs; `upto` holds 1 more than the last number of each
queue, and 0 for one with no job. -/
def State.joinOver (s : State) (cl mask : Nat) (upto : List Nat) : Bool :=
  (onesOf mask 16).all (fun q => match upto.getD q 0 with
    | 0 => true
    | n + 1 => s.joined cl q n)

/-- Whether the head job of a queue can take a step. -/
def State.jobReady (s : State) (cl q : Nat) : Bool := match s.headJob cl q with
  | none => false
  | some j => match j.kind with
    | .join mask upto => s.joinOver cl (mask &&& (2 ^ 16 - 1 - 2 ^ q)) upto
    | .migrate _ => false
    | .mcast _ => j.tag == 0
    | _ => j.tag == 0

/-- R164: queue `x` of cluster `at_` starts its head job or goes on with it; the next turn is that of the queue after it. -/
def execCopyJobStart (s : State) : Outcome :=
  runEvent (fun ev s =>
    let s := s.modCluster ev.at_ (fun k => { k with jobNext := (ev.x + 1) % 16 })
    match s.headJob ev.at_ ev.x with
    | none => s
    | some j =>
      if !s.jobReady ev.at_ ev.x then s
      else match j.kind with
        | .join _ _ => s.endJob ev.at_ ev.x j.seq 0 0
        | .mcast cores => s.mcastStep ev.at_ ev.x j cores
        | .migrate _ => s
        | _ => if j.total ≤ j.pos then s.endJob ev.at_ ev.x j.seq j.fault j.faultH else s.copyPiece ev.at_ ev.x j none) s

/-- The queue of a cluster that goes on next: round robin over those whose head job can take a step (R164). -/
def State.jobTurn (s : State) (cl : Nat) : Option Nat :=
  ((List.range 16).map (fun i => ((s.cluster cl).jobNext + i) % 16)).find? (s.jobReady cl)

/-- The job steps that are due: (cluster, queue). -/
def State.jobSteps (s : State) : List (Nat × Nat) := s.clusters.filterMap (fun k => (s.jobTurn k.1).map (fun q => (k.1, q)))

/-! ## BDATA, LACK, ACK and FAIL at the copy unit and the network interface -/

/-- The job of a cluster that waits for a tag. -/
def State.jobByTag (s : State) (cl tag : Nat) : Option (Nat × Job) :=
  (s.jobQueues cl).findSome? (fun q => match s.headJob cl q with
    | some j => if j.tag = tag + 1 ∧ 32768 ≤ tag then some (q, j) else none
    | none => none)

/-- BDATA (R164): the line of a copy-unit read. One that comes to a network interface is written on at once, any other when its queue
has its turn. -/
def execBdata (s : State) : Outcome :=
  takeMsgAt (fun ep m s => match (niOf ep).bind (fun cl => (s.jobByTag cl m.tagid).map (fun p => (cl, p))) with
    | none => s
    | some (cl, q, j) =>
      let s := s.jobLine cl q j (m.payload.flatMap (fun w => leBytes 8 w.toNat) ++ leBytes 2 m.poison)
      if ep % 16 < 4 ∧ j.intoCluster then match s.headJob cl q with
        | some j => s.copyPiece cl q j (some m)
        | none => s
      else s) s

/-- The multicast job of a cluster by its id. -/
def State.mcastJob (s : State) (cl tag : Nat) : Option (Nat × Job) :=
  if tag / 8192 ≠ cl % 8 then none
  else (s.jobQueues cl).findSome? (fun q => match s.headJob cl q with
    | some j => (match j.kind with
      | .mcast _ => if j.rows = tag / 2048 % 4 ∧ j.started ∧ 0 < j.lines then some (q, j) else none
      | _ => none)
    | none => none)

/-- An acknowledgement of a multicast at its issuer: of a setup, or the completion of a serving stage (R404, R406), marked where the
stage sent it a poisoned line (R101; log entry 149). -/
def State.mcastAck (s : State) (cl q : Nat) (j : Job) (m : Msg) (cores : Nat) : State :=
  let j := if m.poison = 0 then j else j.consumed
  let s := if m.poison = 0 then s else s.modJobAt cl q j.seq Job.consumed
  if j.lines = 1 then
    if j.tag = 1 then s.sendReads cl q { j with lines := 0 } cores
    else s.endJob cl q j.seq j.fault j.faultH
  else s.modJobAt cl q j.seq (fun k => { k with lines := j.lines - 1 })

/-- ACK (R38): the write, reduction or remote store is complete; or a setup or a serving stage of a multicast has
acknowledged. -/
def execAck (s : State) : Outcome :=
  takeMsgAt (fun ep m s => match s.remoteFor ep m with
    | some r => complete r m s
    | none => match (niOf ep).bind (fun cl => (s.mcastJob cl m.tagid).map (fun p => (cl, p))) with
      | none => s
      | some (cl, q, j) => match j.kind with
        | .mcast cores => s.mcastAck cl q j m cores
        | _ => s) s

/-- FAIL (R38): the cause is raised in the delivery class of the issuing instruction; a copy job or a multicast ends with its
fault (R290). -/
def execFail (s : State) : Outcome :=
  takeMsgAt (fun ep m s => match s.remoteFor ep m with
    | some r =>
      let (c, s) := s.failCause r m
      s.failRemote r c.1 c.2
    | none => match (niOf ep).bind (fun cl => ((s.jobByTag cl m.tagid).orElse (fun _ => s.mcastJob cl m.tagid)).map (fun p => (cl, p))) with
      | none => s
      | some (cl, q, j) =>
        let c := bits (m.payload.getD 0 0) 63 56
        let c := if m.sdev = s.devId ∨ c = Cause.linkDown then c else Cause.remoteFail
        let h := match j.kind with
          | .mcast _ => j.srch
          | _ => if j.lines = 0 then j.srch else j.dsth
        s.endJob cl q j.seq c h.index.toNat) s

/-! ## Multicast: the serving stage (R180, R405, R406) -/

/-- Whether the next line of a record can be sent: not while it is asked for, at a bank that is being reshaped (R173), or with an
earlier request for the line pending at the slice (R176). -/
def State.recReady (s : State) (u : Nat) (r : McastRec) : Bool := match r.lines with
  | [] => false
  | l :: _ => !r.asking && (s.reshaping r.ctxid (s.recPath r)).isNone &&
    (r.vc != 0 || !(s.slice u).entries.any (fun e => e.line == l.2 / 512))

/-- R180: serving unit `at_` sends the next line of the record with id `x`; a VC first asks for one that it lacks and that another
device is home to. -/
def execMcastSend (s : State) : Outcome :=
  runEvent (fun ev s => match (s.slice ev.at_).records.find? (fun r => r.id == ev.x && s.recReady ev.at_ r) with
    | none => s
    | some r =>
      let put := fun (f : McastRec → McastRec) (s : State) =>
        s.modSlice ev.at_ (fun k => { k with records := k.records.map (fun q => if q = r then f q else q) })
      match r.lines with
      | [] => s
      | l :: t =>
        if s.recAbsent r l.2 then
          (put (fun q => { q with asking := true }) s).askLine (s.payer r.ctxid).1 mcastAgent r.handle (s.recHome r l.2) (unitEndpoint ev.at_)
        else
          let (m, s) := s.lineMsg ev.at_ r r.id (0x60 + r.joins) l.1 l.2 r.mask true
          put (fun q => { q with
            lines := t, sent := q.sent ++ [l], owed := q.owed ++ (onesOf r.mask 8).map (fun c => (r.id, l.1, c)),
            bad := if m.poison = 0 then q.bad else q.bad ++ q.asks.map (fun a => a.1) })
            ((s.inject m).unitSent ev.at_ (popCount r.mask 8))) s

/-- R406: every line that the record with id `x` of unit `at_` owes has been acknowledged: each requester that no other record
of the unit serves gets its completion. -/
def execMcastComplete (s : State) : Outcome :=
  runEvent (fun ev s => match (s.slice ev.at_).records.find? (fun r => r.id == ev.x && r.lines.isEmpty && r.owed.isEmpty) with
    | none => s
    | some r =>
      let s := s.modSlice ev.at_ (fun k => { k with records := k.records.erase r })
      let ep := unitEndpoint ev.at_
      r.asks.foldl (fun s a =>
        if (s.slice ev.at_).records.any (fun q => q.asks.contains a) then s
        else s.inject { mkMsg s.devId a.2.1 s.devId ep 1 0x42 a.2.2 r.part (parity (s.epGen ep)) [] with
          poison := b2n (r.bad.contains a.1) }) s) s

/-- The records with a line to send: (unit, id). -/
def State.mcastDue (s : State) : List (Nat × Nat) :=
  s.slices.flatMap (fun k => (k.2.records.filter (s.recReady k.1)).map (fun r => (k.1, r.id)))

/-- LACK (R164, R406): a line of a record is acknowledged by an interface; or a write of a copy job. -/
def execLack (s : State) : Outcome :=
  takeMsgAt (fun ep m s =>
    match (niOf ep).bind (fun cl => (s.jobByTag cl m.tagid).map (fun p => (cl, p))) with
    | some (cl, q, j) =>
      if j.lines ≤ 1 then s.modJobAt cl q j.seq (fun k => { k with lines := 0, tag := 0 })
      else s.modJobAt cl q j.seq (fun k => { k with lines := j.lines - 1 })
    | none =>
      let u := waitUnit ep
      let key := (m.tagid / 2048, m.tagid % 2048, epCluster m.sep % 8)
      match (s.slice u).records.find? (fun r => r.owed.contains key) with
      | none => s
      | some r =>
        let r2 := { r with owed := r.owed.erase key }
        let s := s.modSlice u (fun k => { k with records := k.records.map (fun q => if q = r then r2 else q) })
        if r2.lines.isEmpty && r2.owed.isEmpty then s.post .mcastComplete { Ev.zero with at_ := u, x := r.id } else s) s

/-! ## Multicast: the network interface (R404, R405) -/

/-- MSETUP (R404): a delivery entry is installed and acknowledged. -/
def execMsetup (s : State) : Outcome :=
  takeMsgAt (fun ep m s =>
    let w := m.payload.getD 0 0
    let d : Delivery := ⟨bits w 63 59, bits w 58 51, bits w 50 40, bits w 39 29, []⟩
    let s := s.modCluster (epCluster ep) (fun k => { k with
      deliv := k.deliv.filter (fun o => o.id != d.id) ++ [d], joins := k.joins.filter (fun n => n.of_ != d.id) })
    s.inject (mkMsg s.devId m.sep s.devId ep 1 0x42 m.tagid m.part (parity (s.epGen ep)) [])) s

/-- The cores of a cluster that a line is delivered to, each with its local offset, and the entries that count it. -/
def Cluster.spread (k : Cluster) (id idx src : Nat) : List (Nat × Nat) :=
  let mine := match k.deliv.find? (fun d => d.id == id) with
    | some d => ((onesOf d.cores 8).filter (fun c => !d.got.contains (idx, c))).map (fun c => (c, 128 * (d.dst + idx)))
    | none => []
  (k.joins.filter (fun n => n.of_ == id && n.src == src && n.line ≤ idx)).foldl (fun acc n =>
    match k.deliv.find? (fun d => d.id == n.by_) with
    | some d => acc ++ ((onesOf d.cores 8).filter (fun c => !acc.any (fun a => a.1 == c) && !d.got.contains (idx, c))).map
        (fun c => (c, 128 * (d.dst + idx)))
    | none => acc) mine

/-- A line has been delivered to cores: the entries of its id and of the joiners count it, and an entry whose every line has
been delivered is freed (R404). -/
def Cluster.countLine (k : Cluster) (id idx src : Nat) (cores : List Nat) : Cluster :=
  let ids := id :: (k.joins.filter (fun n => n.of_ == id && n.src == src && n.line ≤ idx)).map (fun n => n.by_)
  let count := fun (d : Delivery) =>
    if ids.contains d.id then
      { d with got := d.got ++ ((cores.filter (fun c => d.cores.testBit c)).map (fun c => (idx, c))).filter (fun g => !d.got.contains g) }
    else d
  let ds := k.deliv.map count
  let full := fun (d : Delivery) => d.count * popCount d.cores 8 ≤ d.got.length
  { k with deliv := ds.filter (fun d => !full d), joins := k.joins.filter (fun n => !ds.any (fun d => d.id == n.of_ && full d)) }

/-- The network interface writes a line to its cores and acknowledges it to the serving stage (R406). -/
def State.deliverLine (s : State) (cl : Nat) (m : Msg) : State :=
  let id := m.tagid / 2048
  let idx := m.tagid % 2048
  let dests := (s.cluster cl).spread id idx m.sep
  let bs := m.payload.flatMap (fun w => leBytes 8 w.toNat)
  let bad := (List.range 128).map (fun i => m.poison.testBit (i / 8))
  let s := dests.foldl (fun s p => s.intoLocal (cl * 8 + p.1) p.2 bs bad m.col) s
  let s := s.modCluster cl (fun k => k.countLine id idx m.sep (dests.map (fun p => p.1)))
  s.inject (mkMsg s.devId m.sep s.devId (niEndpoint cl) 1 0x46 m.tagid m.part (parity (s.cluster cl).snapGen) [])

/-- Whether an interface holds the notices that a line needs (R405). -/
def Cluster.holdsNotices (k : Cluster) (m : Msg) : Bool :=
  m.op - 0x60 ≤ (k.joins.filter (fun n => n.of_ == m.tagid / 2048 && n.src == m.sep)).length

/-- MDATA (R405): a line is delivered once the notices it needs are held. -/
def execMdata (s : State) : Outcome :=
  takeMsgAt (fun ep m s =>
    let cl := epCluster ep
    if (s.cluster cl).holdsNotices m then s.deliverLine cl m
    else s.modCluster cl (fun k => { k with held := k.held ++ [m] })) s

/-- The lines that a core has received under a record count for the joiner that names it too (R405). -/
def Cluster.shareGot (k : Cluster) (of_ by_ : Nat) : Cluster :=
  match k.deliv.find? (fun d => d.id == of_) with
  | none => k
  | some l => { k with deliv := k.deliv.map (fun d =>
      if d.id = by_ then { d with got := d.got ++ l.got.filter (fun g => d.cores.testBit g.2 && !d.got.contains g) } else d) }

/-- The interface holds a notice. -/
def Cluster.note (k : Cluster) (n : JoinNote) : Cluster := { k with joins := k.joins ++ [n] }

/-- MJOIN (R405): the notice is held, and the lines that waited for it are delivered. -/
def execMjoin (s : State) : Outcome :=
  takeMsgAt (fun ep m s =>
    let cl := epCluster ep
    let w := m.payload.getD 0 0
    let s := s.modCluster cl (fun k => (k.shareGot (bits w 63 59) (bits w 58 54)).note ⟨bits w 63 59, bits w 58 54, bits w 53 43, m.sep⟩)
    let go := (s.cluster cl).held.filter (fun h => (s.cluster cl).holdsNotices h)
    let s := s.modCluster cl (fun k => { k with held := k.held.filter (fun h => !go.contains h) })
    go.foldl (fun s h => s.deliverLine cl h) s) s

/-! ## Migration (R57, R58) -/

/-- The page tables' view of a map: each page's address now and at the destination of the transit. -/
def State.moves (s : State) (mkey : Nat) (r : MapRec) (t : Transit) : List (Nat × Nat) :=
  (List.range r.npages).filterMap (s.pageMove mkey r t)

/-- Whether the copy of a transit goes on: one of its jobs is at the head of its queue, or its queue is gone. -/
def State.transitGoes (s : State) (t : Transit) : Bool :=
  t.jobs.any (fun j => match (s.jobsOf j.1 j.2.1).find? (fun b => b.seq == j.2.2 && !b.done) with
    | none => true
    | some _ => (s.headJob j.1 j.2.1).map (fun b => b.seq) == some j.2.2)

/-- The maps whose transit can go on. -/
def State.transits (s : State) : List Nat :=
  s.maps.filterMap (fun r => match r.2.transit with
    | some t => if s.transitGoes t then some r.1 else none
    | none => none)

/-- The lines of a page are copied through their homes: those of a channel that is out of service are poison (R50, R51, R58). -/
def State.copyHome (s : State) (k d : Nat) : State :=
  let s := { s with mem := s.mem.copyRange d s.mem k 65536 }
  (List.range 512).foldl (fun s i =>
    if s.inService (k + 128 * i) then s
    else { s with mem := (List.range 16).foldl (fun m w => m.addPoison (d + 128 * i + 8 * w)) s.mem }) s

/-- R58: the copy of the next page of a transit, through the source's home. -/
def State.copyPage (s : State) (mkey : Nat) : State :=
  match s.maps.look mkey with
  | none => s
  | some r => match r.transit with
    | none => s
    | some t =>
      let n := t.copied / 512
      let s := match (if n < r.npages then s.pageMove mkey r t n else none) with
        | some (k, d) => s.copyHome k d
        | none => s
      { s with maps := s.maps.put mkey { r with transit := some { t with copied := (n + 1) * 512 } } }

/-- The transit of a map has copied every line. -/
def State.transitDone (s : State) (mkey : Nat) : Bool := match s.maps.look mkey with
  | none => false
  | some r => match r.transit with
    | none => false
    | some t => decide (t.total ≤ t.copied)

/-- An address of `mem` after pages have moved. -/
def movedKey (mv : List (Nat × Nat)) (k : Nat) : Nat := match mv.find? (fun p => p.1 == k / 65536 * 65536) with
  | some p => p.2 + k % 65536
  | none => k

/-- A home after pages have moved. -/
def movedHome (mv : List (Nat × Nat)) : Home → Home
  | .mem k => .mem (movedKey mv k)
  | h => h

/-- The code of a home after pages have moved. -/
def movedCode (mv : List (Nat × Nat)) (n : Nat) : Nat := if n % 4 = 0 ∧ n < 2 ^ 100 then 4 * movedKey mv (n / 4) else n

/-- The number of a job after pages have moved. -/
def movedJob (mv : List (Nat × Nat)) (n : Nat) : Nat := if n = 0 then 0 else movedCode mv (n - 1) + 1

/-- A held line after pages have moved. -/
def movedLine (mv : List (Nat × Nat)) (l : CLine) : CLine := { l with home := movedCode mv l.home }

/-- A lattice entry after pages have moved. -/
def movedEntry (mv : List (Nat × Nat)) (e : LEntry) : LEntry :=
  let moved := fun (hs : List (Nat × Home)) => hs.map (fun (h : Nat × Home) => (h.1, movedHome mv h.2))
  { e with homes := moved e.homes, spans := e.spans.map (fun (p : Span) => { p with homes := moved p.homes }) }

/-- A core after pages have moved. -/
def movedCore (mv : List (Nat × Nat)) (k : Core) : Core :=
  let rec_ := fun (r : StepRecord) => { r with
    objects := r.objects.map (fun (o : Nat × Mem) => (movedCode mv o.1, o.2)),
    barriers := r.barriers.map (fun (b : Nat × Nat × Nat) => (movedCode mv b.1, b.2)) }
  { k with
    l1 := k.l1.map (movedLine mv), wq := k.wq.map (fun (w : WqEntry) => { w with home := movedHome mv w.home }),
    lq := k.lq.map (movedEntry mv), inflight := k.inflight.map (movedEntry mv),
    stepRec := k.stepRec.map rec_ }

/-- A job after pages have moved. -/
def movedJobState (mv : List (Nat × Nat)) (j : JobState) : JobState :=
  { j with
    pages := j.pages.map (fun (p : JPage) => { p with key := movedKey mv p.key }),
    snaps := j.snaps.map (fun (m : Snap) => { m with pages := m.pages.map (fun (p : PageCut) => { p with key := movedKey mv p.key }) }) }

/-- The lines of a multicast record after pages have moved. -/
def movedRecord (mv : List (Nat × Nat)) (r : McastRec) : McastRec :=
  if r.vc ≠ 0 then r
  else
    let f := fun (l : Nat × Nat) => (l.1, movedCode mv l.2)
    { r with lines := r.lines.map f, sent := r.sent.map f }

/-- What the device holds by address follows the pages of an object to their new place (R58): a request that comes later finds
the new home. -/
def State.movePages (s : State) (mv : List (Nat × Nat)) : State :=
  let s := s.mapVcs (fun _ => true) (fun v => { v with lines := v.lines.map (movedLine mv) })
  { s with
    cores := s.cores.map (fun (k : Nat × Core) => (k.1, movedCore mv k.2)),
    sync := s.sync.map (fun (y : Nat × Nat) => (if y.1 % 4 = 0 then 4 * (movedKey mv (y.1 / 4 * 128) / 128) else y.1, y.2)),
    moved := mv.foldl (fun (m : NMap Nat) p => NMap.put (m.map (fun (q : Nat × Nat) => if q.2 = p.1 then (q.1, p.2) else q)) p.1 p.2) s.moved,
    slices := s.slices.map (fun (k : Nat × Slice) => (k.1, { k.2 with records := k.2.records.map (movedRecord mv) })),
    senders := s.senders.map (fun (y : Nat × Nat) => (movedCode mv y.1, y.2)),
    jobs := s.jobs.map (fun (j : Nat × JobState) => (movedJob mv j.1, movedJobState mv j.2)),
    parts := s.parts.map (fun (p : Nat × Part) => (p.1, { p.2 with job := movedJob mv p.2.job })),
    switches := s.switches.map (fun (w : Nat × Switch) =>
      (w.1, { w.2 with seen := w.2.seen.map (fun (q : Nat × Nat) => (movedJob mv q.1, q.2)) })) }

/-- The page entries of a map name the destination of its transit; cached copies go. -/
def State.rewriteMap (s : State) (mkey : Nat) (r : MapRec) (t : Transit) : State :=
  let ptes := (List.range r.npages).flatMap (fun i =>
    let old := s.mem.getLE (mkey + 8 * i) 8
    leBytes 8 (old / 2 ^ 60 * 2 ^ 60 + b2n t.toSlow * 2 ^ 58 + t.dest % 2 ^ 56 / 65536 + i))
  let s := { s with mem := s.mem.putRange mkey ptes }
  s.mapClusters (fun _ => true) (fun c => { c with
    tcache := c.tcache.filter (fun (y : Nat × Word) => !(mkey ≤ y.1 && y.1 < mkey + 8 * r.npages)) })

/-- The charge of the source copy is released (R57); that of a queued request is the newest and is no source's. -/
def State.releaseTier (s : State) (r : MapRec) (tier : Nat) (queued : Bool) : MapRec × State :=
  match (if queued then r.charges.dropLast else r.charges).find? (fun c => c.tier == tier) with
  | none => (r, s)
  | some c => ({ r with charges := r.charges.erase c }, s.addUsed r.ctxid c.acct c.tier c.pages true)

/-- Whether an `ofree` waits for the end of a transit (R57). -/
def State.freeWaits (s : State) (mkey : Nat) : Bool :=
  s.cores.any (fun k => k.2.ctxs.any (fun x => x.live && x.wait == some (.transit mkey)))

/-- R57: the transit of the map at `at_` ends: TIER and MIG, the source's charge, the jobs, and the queued transit. An `ofree` that
waits for the end discards the queued request, whose jobs complete then (log entry 117). -/
def execMigrationEnd (s : State) : Outcome :=
  runEvent (fun ev s => match s.maps.look ev.at_ with
    | none => s
    | some r => match r.transit with
      | none => s
      | some t =>
        if !s.transitDone ev.at_ then s
        else
          let pmap := (keyParts ev.at_).2.2.2
          let mv := s.moves ev.at_ r t
          let s := ((s.rewriteMap ev.at_ r t).movePages mv).modProc r.ctxid (fun p => { p with left := p.left ++ mv.map (fun m => m.1) })
          let s := s.placeAll r.ctxid pmap (fun e => { e with tier := b2n t.toSlow, mig := 0, qv := false, qt := false })
          let (r, s) := s.releaseTier { r with transit := none } (1 - b2n t.toSlow) (!t.qjobs.isEmpty)
          let s := { s with maps := s.maps.put ev.at_ r }
          let s := t.jobs.foldl (fun s j => s.endJob j.1 j.2.1 j.2.2 0 0) s
          if s.freeWaits ev.at_ then t.qjobs.foldl (fun s j => s.endJob j.1 j.2.1 j.2.2 0 0) s
          else if t.qjobs.isEmpty then s
          else match searchUp (fun i => match s.ent r.ctxid i with
              | some e => !e.free && e.pmap == pmap
              | none => false) (s.otlen r.ctxid) 1 with
            | none => s
            | some i => match s.ent r.ctxid i with
              | some e => s.startTransit r.ctxid ev.at_ e r (!t.toSlow) t.qjobs
              | none => s) s

end Sys2Proof.Machine
end

