-- ==== Sys2Proof/Machine/Service.lean ====
section
/-! DEFINITION. Units taken out of service, the reset and the end of partitions, retirement of contexts, temperature, power
and clocks (R13, R16, R19, R67, R97 to R101, R107). -/

namespace Sys2Proof.Machine

/-! ## Measurement (R82) -/

/-- Extend a measurement register (R82), with its record in the measurement log. -/
def State.extendReg (s : State) (n t : Nat) (x : List Byte) : State :=
  let (m, d) := extendMeas (s.mon.meas.get n measZero) t x
  { s with mon := { s.mon with meas := s.mon.meas.put n m, measLog := s.mon.measLog ++ [(n, t, d)] } }

/-- The fields that MEAS4 is extended with: PART, the block mask and the port-set mask. -/
def partBytes (n : Nat) (p : Part) : List Byte := leBytes 1 n ++ leBytes 4 p.blocks ++ leBytes 2 p.ports

/-! ## Partition reset (R98, R99) -/

/-- Clear the `k` bits from `lo` of a mask. -/
def clearBits (n lo k : Nat) : Nat := n - n / 2 ^ lo % 2 ^ k * 2 ^ lo

/-- The partitions whose messages wait at the hub root hear of the wait (R99); how long it was is not stated beyond its
bound of 50 µs. -/
def State.stallNeighbours (s : State) (p : Nat) : State :=
  let waiting := ((((s.switch hubRoot).queues.flatMap (fun q => q.2)).map (fun m => m.msg.part)).eraseDups).filter (fun q => q != p)
  waiting.foldl (fun s q =>
    let (v, s) := s.free
    s.noticePart q Cause.neighbourStall (word (p * 2 ^ 32 + v.toNat % 50001))) s

/-- The stop signals of every input queue of the switches after queues have been emptied (R25, R42). -/
def State.signalAll (s : State) : State :=
  s.switches.foldl (fun s w => w.2.queues.foldl (fun s q => s.signalStop w.1 (q.1 / 4) (q.1 % 4)) s) s

/-- Step 1 of R98: every message of the partition is discarded. -/
def State.purge (s : State) (p : Nat) : State :=
  let keep := fun (m : Msg) => m.part != p
  State.signalAll { s with
    net := s.net.filter keep,
    agenda := s.agenda.filter (fun a => a.2.msg == Msg.zero || keep a.2.msg),
    switches := s.switches.map (fun w => (w.1, { w.2 with
      queues := w.2.queues.map (fun q => (q.1, q.2.filter (fun m => keep m.msg))) })),
    links := s.links.map (fun l => (l.1, { l.2 with
      waiting := l.2.waiting.filter (fun x => x.msg.sdev != s.devId || keep x.msg) })),
    solders := s.solders.map (fun k => (k.1, { k.2 with held := k.2.held.filter (fun h => keep h.2.2) })) }

/-- Every task of a set is killed with a cause; it is also delivered to its supervisor when `tell`. -/
def State.killTasks (s : State) (pick : Task → Bool) (cause : Nat) (tell : Bool) : State :=
  s.tasks.foldl (fun s t =>
    if pick t.2 && t.2.dead.isNone then
      if tell then
        let (v, s) := s.free
        (s.killTask t.1 cause).notice t.2.ctxid cause v 0xFFFF t.1
      else s.killTask t.1 cause
    else s) s

/-- The COPY packets whose jobs run in the clusters that a test picks end with a fault. -/
def State.failPackets (s : State) (pick : Nat → Bool) (mine : Job → Bool) (cause : Nat) : State :=
  let jobs := (s.clusters.filter (fun k => pick k.1)).flatMap (fun k => k.2.jobs.flatMap (fun q => q.2))
  jobs.foldl (fun s j => match j.kind with
    | .packet q i => if !j.done && mine j then s.post .packetComplete { Ev.zero with at_ := q, x := i, y := 6, z := cause } else s
    | _ => s) s

/-- A virtual cache after a reset: empty, with a reshaping finished. -/
def Vc.emptied (c : Vc) : Vc :=
  { c with lines := [], op := none, queued := none, replies := [], moved := [], k := c.sizeAfter, parent := c.parentAfter }

/-- Steps 2 to 4 of R98 for the units of one block: they stop and their memories are zeroed. -/
def State.zeroBlock (s : State) (b : Nat) : State :=
  let stop := fun (k : Core) => { Core.idle with task := k.task, inst := k.inst, ended := true, lseq := k.lseq }
  { s with
    cores := s.cores.map (fun k => if k.1 / 64 = b then (k.1, stop k.2) else k),
    clusters := s.clusters.map (fun k => if k.1 / 8 = b then (k.1, Cluster.zero) else k),
    slices := s.slices.map (fun k => if k.1 / 8 = b then (k.1, Slice.zero) else k),
    lmem := s.lmem.clearRange (lkey (64 * b) 0) (64 * 2 ^ 18),
    tiles := s.tiles.clearRange (rowKey (64 * b) 0 0) (64 * 2 ^ 19),
    slots := s.slots.clearRange (8 * b * 16 * 2 ^ 17) (8 * 16 * 2 ^ 17),
    tqueue := s.tqueue.filter (fun t => t.1 != b) }

/-- A partition reset (R98). Contexts, keys, reservations, accounts, queues and DRAM survive. A snapshot in progress of its
job fails. -/
def State.resetPart (s : State) (p : Nat) : State :=
  let pt := s.part p
  let s := (s.stallNeighbours p).purge p
  let s := match s.jobs.look pt.job with
    | some (j : JobState) => (match j.snaps.find? (fun (m : Snap) => !m.sealed && m.failed == 0) with
      | some m => s.post .snapshotFail { Ev.zero with at_ := pt.job, x := m.gen, y := 2 }
      | none => s)
    | none => s
  let s := s.killTasks (fun t => t.part == p) Cause.partitionReset true
  let s := s.failPackets (fun cl => pt.blocks.testBit (cl / 8)) (fun _ => true) Cause.partitionReset
  let s := (onesOf pt.blocks 32).foldl (fun s b => (s.closeRemotes (fun r => r.core / 64 == b)).zeroBlock b) s
  s.mapVcs (fun c => c.part == p) Vc.emptied

/-! ## RETIRE and the end of a partition (R67, R89, R97) -/

/-- A queue of a retired context (R63): it enters ERROR with ECODE 6 once nothing of it runs, and is unbound. Packets that it has taken and
not started end with ABORTED under no context: they arrive at no CBAR, and their MSI-X is the physical function's (log entry 147). -/
def HostQueue.retire (q : HostQueue) : HostQueue :=
  if q.running.isEmpty then { q with retiring := false, qstate := 4, ecode := 6, owner := 0 } else { q with retiring := true }

/-- The packets of a retired context's queue that only wait, for a barrier or a snapshot, end with ABORTED: what they wait for goes
with the context (log entry 108). -/
def State.endWaits (s : State) (q : Nat) (k : HostQueue) : State :=
  (k.running.filter (fun r => bits (r.pkt.words.getD 0 0) 7 0 == 5 || bits (r.pkt.words.getD 0 0) 7 0 == 7)).foldl (fun s r =>
    s.post .packetComplete { Ev.zero with at_ := q, x := r.pkt.idx, y := 10 }) s

/-- The addresses of the pages of tiers 0 and 1 that the objects a context owns are mapped to. -/
def State.ownPages (s : State) (ctxid : Nat) : List Nat := match s.proc? ctxid with
  | none => []
  | some p => ((List.range p.otlen).flatMap (fun i => match s.liveEnt ctxid i with
    | none => []
    | some e => if e.owner ≠ ctxid ∨ e.fmt = 15 then []
      else (pageStarts (e.base - s.mapBase ctxid e) e.len).filterMap (fun d => match s.translate ctxid e d .read 0 with
        | .ok (.mem k) => some (k / 65536 * 65536)
        | _ => none))).eraseDups

/-- The ranges of memory that a context's keys open: the pages of its objects, those that its objects have left and that are no
other live context's, its page maps, and its object, account and codebook tables (R54, R89). -/
def State.keyedRanges (s : State) (ctxid : Nat) : List (Nat × Nat) := match s.proc? ctxid with
  | none => []
  | some p =>
    let others := (s.procs.filter (fun q => q.1 != ctxid && !q.2.retired)).flatMap (fun q => s.ownPages q.1)
    ((s.ownPages ctxid ++ p.left.filter (fun k => !others.contains k)).eraseDups).map (fun k => (k, 65536)) ++
      (s.maps.filter (fun r => r.2.ctxid == ctxid)).map (fun r => (r.1, 8 * r.2.npages)) ++
      [(s.tableKey p.part p.otbase, 64 * p.otlen), (s.tableKey p.part (p.acctbase * 1024), 1024),
       (s.tableKey p.part (p.cbbase * 131072), 131072)]

/-- R89: with the keys of a context gone, what they opened is ciphertext: any bytes (log entry 109). -/
def State.loseContents (s : State) (ctxid : Nat) : State :=
  (s.keyedRanges ctxid).foldl (fun s r => { s with
    mem := s.mem.putRange r.1 ((List.range r.2).map (Config.deadByte s.freeNo)), freeNo := s.freeNo + 1 }) s

/-- Whether a virtual function exists: it lives from its first context to its last (log entry 106). -/
def State.functionLives (s : State) (vf : Nat) : Bool :=
  1 ≤ vf && vf ≤ 512 && s.procs.any (fun c => c.2.vf == vf && !c.2.retired)

/-- R75: a virtual function without a context is destroyed, and its pin ends (log entry 106). -/
def State.unpinFunction (s : State) (vf : Nat) : State :=
  if vf = 0 ∨ s.functionLives vf then s
  else { s with mon := { s.mon with
    pins := s.mon.pins.del vf, policyNow := s.mon.policyNow.del vf, policyBad := s.mon.policyBad.filter (fun v => v != vf),
    repinned := s.mon.repinned.filter (fun v => v != vf) } }

/-- RETIRE of a context (R67, R89): its tasks end with PREEMPTED, its queues unbind, its lines and keys go, its reservations
are free. -/
def State.retireContext (s : State) (ctxid : Nat) : State :=
  let s := s.killTasks (fun t => t.ctxid == ctxid) Cause.preempted false
  let s := s.failPackets (fun _ => true) (fun j => j.ctxid == ctxid) Cause.preempted
  let gone := fun (j : Job) => if j.ctxid = ctxid then { j with done := true } else j
  let s := s.mapClusters (fun _ => true) (fun c => { c with jobs := c.jobs.map (fun q => (q.1, q.2.map gone)) })
  let mine := fun (q : Nat × HostQueue) => q.2.owner / 65536 % 2 == 1 && q.2.owner % 65536 == ctxid
  let s := (s.queues.filter mine).foldl (fun s q => s.endWaits q.1 q.2) s
  let gone := fun (q : Nat × HostQueue) => mine q && 65536 ≤ q.1 && q.2.running.isEmpty && q.2.waiting.isEmpty
  let s := { s with queues := (s.queues.filter (fun q => !gone q)).map (fun q => if mine q then (q.1, q.2.retire) else q) }
  let s := s.loseContents ctxid
  let s := { s with maps := s.maps.filter (fun r => r.2.ctxid != ctxid) }
  let s := s.modProc ctxid (fun p => { p with resH := 0, resC := 0, usedH := 0, usedC := 0, vcs := [], banks := [], retired := true })
  let s := { s with mon := { s.mon with
    keys := s.mon.keys.del ctxid, xtsKeys := s.mon.xtsKeys.del ctxid,
    genKeys := (s.mon.genKeys.del (2 * ctxid)).del (2 * ctxid + 1) } }
  match s.proc? ctxid with
  | some p => s.unpinFunction p.vf
  | none => s

/-- R97: every context of a partition retires, the partition is reset, its ports and blocks are free, and MEAS4 is extended. Its
supervisor queue is unbound (log entry 21). -/
def State.destroyPart (s : State) (n : Nat) : State :=
  let p := s.part n
  let s := (s.procs.filter (fun c => c.2.part == n && !c.2.retired)).foldl (fun s c => s.retireContext c.1) s
  let s := s.resetPart n
  let s := s.extendReg 4 7 (partBytes n p)
  let unbind := fun (q : Nat × HostQueue) => if q.1 < 32768 && p.blocks.testBit (q.1 / 1024) then (q.1, { q.2 with owner := 0 }) else q
  let s := { s with queues := s.queues.map unbind }
  { s with owners := s.owners.filter (fun o => o.2 != 32 + n), parts := s.parts.del n }

/-! ## Units out of service (R19, R51, R107) -/

/-- The virtual caches of a context without the banks of a block: one that has no bank left is gone, and its children take its
parent (log entry 118). -/
def Proc.withoutBlock (p : Proc) (b : Nat) : Proc :=
  let cut : NMap Vc := p.vcs.map (fun v => (v.1, { v.2 with blocks := clearBits v.2.blocks b 1 }))
  let gone := fun (v : Nat) => match cut.look v with
    | some c => c.blocks == 0
    | none => false
  let above := fun (v : Nat) => match cut.look v with
    | some c => if c.blocks = 0 then c.parent else v
    | none => v
  let kept : NMap Vc := (cut.filter (fun v => !gone v.1)).map (fun v => (v.1, { v.2 with parent := above (above (above v.2.parent)) }))
  { p with banks := p.banks.del b, vcs := kept }

/-- A block is taken out of service: its channels and banks go with it. -/
def State.blockOut (s : State) (b : Nat) : State :=
  let s := { s with boot := { s.boot with
    blocks := clearBits s.boot.blocks b 1, hbm := clearBits s.boot.hbm (8 * b) 8, cap := clearBits s.boot.cap (4 * b) 4 } }
  let s := { s with procs := s.procs.map (fun p => (p.1, p.2.withoutBlock b)), hostHomes := s.hostHomes.filter (fun h => h.2 / 8 != b) }
  match s.blockOwner b with
  | none => s
  | some p =>
    let s := s.resetPart p
    let s := s.modPart p (fun q => { q with blocks := clearBits q.blocks b 1 })
    let s := s.extendReg 4 0x0B (partBytes p (s.part p))
    let s := s.noticePart p Cause.tierDegraded (word (32 + b))
    if (s.part p).blocks = 0 then s.destroyPart p else s

/-- A channel of a block is taken out of service: tier 0 is HBM4, tier 1 capacity. A block with no HBM4 channel left is absent
itself (R12). -/
def State.channelOut (s : State) (tier b ch : Nat) : State :=
  let s := { s with boot := if tier = 0 then { s.boot with hbm := clearBits s.boot.hbm (8 * b + ch) 1 }
    else { s.boot with cap := clearBits s.boot.cap (4 * b + ch) 1 } }
  let s := match s.blockOwner b with
    | none => s
    | some p => s.noticePart p Cause.tierDegraded (word (tier * 2048 + ch * 256 + b))
  if s.boot.hbm / 2 ^ (8 * b) % 256 = 0 ∧ s.boot.blocks.testBit b then s.blockOut b else s

/-- The unit of a fault: 1 a block, 2 an HBM4 channel (block × 8 + channel), 3 a capacity channel (block × 4 + channel); any
other number is a clock or a unit that the fabric shares. -/
def State.unitOut (s : State) (kind x : Nat) : State :=
  match kind with
  | 1 => s.blockOut x
  | 2 => s.channelOut 0 (x / 8) (x % 8)
  | 3 => s.channelOut 1 (x / 4) (x % 4)
  | _ => s

/-- R13: a derived clock loses lock. The unit of a clock that belongs to a single block is taken out of service: `at_` and `x`
name it as `State.unitOut` does. -/
def execClockFault (s : State) : Outcome :=
  runEvent (fun ev s => (s.raiseMonitor Cause.clockFault).unitOut ev.at_ ev.x) s

/-- The partitions that hold a block of a die. -/
def State.partsOfDie (s : State) (d : Nat) : List Nat :=
  (s.parts.filter (fun p => p.2.blocks / 2 ^ (8 * d) % 256 != 0)).map (fun p => p.1)

/-- The dies that a Solder interface joins; a hub interface serves one. -/
def solderDies (n : Nat) : List Nat :=
  if 4 ≤ n then [n - 4] else if n < 2 then [2 * n, 2 * n + 1] else [n - 2, n]

/-- The partitions that use a unit with no owner: spine (die × 16 + i), hub root (64), Solder control (65 + interface). -/
def State.partsUsing (s : State) (u : Nat) : List Nat :=
  if u < 64 then s.partsOfDie (u / 16)
  else if u = 64 then s.parts.map (fun p => p.1)
  else ((solderDies (u - 65)).flatMap s.partsOfDie).eraseDups

/-- Solder interface `n` is absent (R21): without its hub interface a compute die loses every block. -/
def State.solderOut (s : State) (n : Nat) : State :=
  let s := { s with solders := s.solders.put n { (s.solders.get n Solder.zero) with absent := true } }
  if 4 ≤ n then (List.range 8).foldl (fun s b => if s.boot.blocks.testBit (8 * (n - 4) + b) then s.blockOut (8 * (n - 4) + b) else s) s
  else s

/-- One doubleword of the lines of a cache takes poison. -/
def poisonLine (ls : List CLine) (la dw : Nat) : List CLine :=
  ls.map (fun l => if l.la = la then { l with poison := l.poison ||| 2 ^ (dw % 16) } else l)

/-- R100: a double-bit error in data marks its word. Kind `k` and the place: 0 the DRAM doubleword at address `y` of tier 0 or 1;
1 local memory of core `x` at byte `y`; 2 a tile of core `x` at byte `y` of its tiles; 3 a slot byte `y` of the weight buffer of
cluster `x`; 4 doubleword `d` of line `y` in VC `v` of context `x`; 5 doubleword `d` of line `y` in the L1 of core `x`; 6 payload
word `d` of the message at the head of queue `y` of switch `x` (log entry 120). -/
def State.dataError (s : State) (k x y v d : Nat) : State :=
  match k with
  | 0 => (s.cowPage y).markHome (.mem (y / 8 * 8)) 1
  | 1 => { s with lmem := s.lmem.addPoison (lkey x (y % 0x40000)) }
  | 2 => { s with tiles := s.tiles.addPoison (rowKey x 0 0 + y % 0x80000) }
  | 3 => { s with slots := s.slots.addPoison (slotKey x 0 + y % 0x200000) }
  | 4 => s.modVc x v (fun c => { c with lines := poisonLine c.lines y d })
  | 5 => s.modCore x (fun k => { k with l1 := poisonLine k.l1 y d })
  | _ => s.modSwitch x (fun k => match k.queues.get y [] with
    | [] => k
    | m :: t => { k with queues := k.queues.put y ({ m with msg := { m.msg with poison := m.msg.poison ||| 2 ^ (d % 16) } } :: t) })

/-- The message at the head of a queue (input × 4 + class) of the hub root is lost (R101). -/
def State.loseHead (s : State) (q : Nat) : State :=
  (s.modSwitch hubRoot (fun k => { k with queues := k.queues.put q ((k.queues.get q []).drop 1) })).signalStop hubRoot (q / 4) (q % 4)

/-- R100, R101: an error that the ladder contains. `at_` 0: metadata of partition `x`; 1: a header at a shared hub root port, whose
message, the head of queue `x`, is lost; 2: the unit `x` that no partition owns; 4: a double-bit error in data, of kind `z` at `x` and `y`; any other: a
corrected error on die `x`, reported at most once a millisecond. -/
def execPartitionMetadataError (s : State) : Outcome :=
  runEvent (fun ev s => match ev.at_ with
    | 0 => (s.raiseMonitor Cause.eccUncorrMeta).resetPart ev.x
    | 1 => (s.raiseMonitor Cause.eccUncorrMeta).loseHead ev.x
    | 2 =>
      let users := s.partsUsing ev.x
      let s := s.raiseMonitor Cause.fwAssert
      let s := if 65 ≤ ev.x then s.solderOut (ev.x - 65) else { s with boot := { s.boot with shut := ev.x :: s.boot.shut } }
      users.foldl (fun s p => if (s.parts.look p).isSome then s.resetPart p else s) s
    | 4 => s.dataError ev.z ev.x ev.y (ev.words.getD 0 0).toNat (ev.words.getD 1 0).toNat
    | _ =>
      let n := s.mon.counters.get (0x30 + ev.x) 0
      let last := s.mon.counters.get (0x2000 + ev.x) 0
      let s := { s with mon := { s.mon with counters := s.mon.counters.put (0x30 + ev.x) (n + 1) } }
      if last = 0 ∨ msCycles ≤ s.clk + 1 - last then
        ({ s with mon := { s.mon with counters := s.mon.counters.put (0x2000 + ev.x) (s.clk + 1) } }).raiseMonitor Cause.eccCorrected
      else s) s

/-! ## Temperature and power (R16) -/

/-- R16: a die (`at_` 0 to 3, 4 for the hub) reaches 95 °C. -/
def execThermalWarn (s : State) : Outcome := runEvent (fun _ s => s.raiseMonitor Cause.thermalWarn) s

/-- R16: die `at_` reaches 110 °C: the partitions that hold a block of it are reset, and it takes no work. -/
def execThermalTrip (s : State) : Outcome :=
  runEvent (fun ev s =>
    let s := (s.raiseMonitor Cause.thermalTrip)
    let s := { s with hot := s.hot ||| 2 ^ ev.at_ }
    if ev.at_ < 4 then (s.partsOfDie ev.at_).foldl (fun s p => s.resetPart p) s else s) s

/-- R16: a tripped die is below 90 °C and takes work again. -/
def execThermalRecover (s : State) : Outcome := runEvent (fun ev s => { s with hot := clearBits s.hot ev.at_ 1 }) s

/-- R16: the power limit has been exceeded for 1 ms: matrix grants are issued at a reduced rate, which only changes timing. -/
def execPowerCap (s : State) : Outcome := runEvent (fun _ s => ({ s with capped := true }).raiseMonitor Cause.powerCap) s

end Sys2Proof.Machine
end

