-- ==== Sys2Proof/Machine/Firmware.lean ====
section
/-! DEFINITION. The firmware in flash: the configuration table, images, the firmware column (R71 to R74), the keys that the
security engine derives (R81), and the creation of partitions (R95, R96). -/

namespace Sys2Proof.Machine

/-! ## Presence (R18) and the boot status register (R79) -/

/-- The presence map that the fuses give (R18): rows 0 for blocks, 1 to 4 for HBM4 channels, 5 and 6 for capacity-tier channels
and 7 for links (log entry 4). A block with no HBM4 channel is absent, and an absent block takes its channels with it. -/
def Boot.fused (b : Boot) : Boot :=
  let row := fun (i : Nat) => (b.fuseRows.get i (BitVec.allOnes 64)).toNat
  let hbm := row 1 + row 2 * 2 ^ 64 + row 3 * 2 ^ 128 + row 4 * 2 ^ 192
  let cap := row 5 + row 6 * 2 ^ 64
  let blocks := (List.range 32).foldl (fun m i => if (row 0).testBit i && hbm / 2 ^ (8 * i) % 256 != 0 then m + 2 ^ i else m) 0
  let keep := fun (n w : Nat) =>
    (onesOf blocks 32).foldl (fun m i => m + n / 2 ^ (w * i) % 2 ^ w * 2 ^ (w * i)) 0
  { b with blocks := blocks, hbm := keep hbm 8, cap := keep cap 4, links := row 7 % 2 ^ 16 }

/-- A die with a present block. -/
def Boot.hasDie (b : Boot) (d : Nat) : Bool := b.blocks / 2 ^ (8 * d) % 256 != 0

/-- The present dies. -/
def Boot.dies (b : Boot) : List Nat := (List.range 4).filter b.hasDie

/-- The presence map as bytes 0 to 53 of section 0 of the summary (R70). -/
def State.presence (s : State) : List Byte :=
  leBytes 4 s.boot.blocks ++ leBytes 32 s.boot.hbm ++ leBytes 16 s.boot.cap ++ leBytes 2 s.boot.links

/-- R79: the boot status register. -/
def State.bootStatus (s : State) : Word :=
  let b := s.boot
  let mode := match b.phase with
    | .off => 0
    | .running => 1
    | .minimal => 2
  let dies := if b.step = 0 then 0 else b.dies.foldl (fun m d => m + 2 ^ d) 0
  word (b.step * 2 ^ 32 + b.reason * 2 ^ 24 + b.fails * 2 ^ 22 + mode * 2 ^ 20 + dies * 2 ^ 16)

/-! ## The configuration table (R71) -/

/-- A field of the table: `n` bytes at an offset of the flash (log entry 23). -/
def State.cfg (s : State) (off n : Nat) : Nat := s.boot.flash.getLE off n

/-- A key digest in the fuses: eight rows from `i` (log entry 4). -/
def State.fusedKey (s : State) (i : Nat) : List Byte := (List.range 8).flatMap (fun k => leBytes 8 (s.boot.fuseRows.get (i + k) 0).toNat)

/-- The vendor key, by its digest. -/
def State.vendorKey (s : State) : List Byte := s.fusedKey 9

/-- The vendor debug key, by its digest. -/
def State.debugKey (s : State) : List Byte := s.fusedKey 17

/-- The column of a die (R72): its clusters with their roles, position 0 first. -/
def State.columnOf (s : State) (d : Nat) : List (Nat × Nat) :=
  match searchUp (fun i => s.boot.blocks.testBit (8 * d + i)) 8 0 with
  | none => []
  | some i => (List.range (s.cfg (0x10 + d) 1 % 8)).map (fun p =>
    ((8 * d + i) * 8 + 7 - p, s.cfg 0x14 4 / 2 ^ (8 * d + 2 * p) % 4))

/-- The column clusters of the package with their roles. -/
def State.columnRoles (s : State) : List (Nat × Nat) := s.boot.dies.flatMap s.columnOf

/-- The roles that ROLES names for die `d`, present or not. -/
def State.namedRoles (s : State) (d : Nat) : List Nat :=
  (List.range (s.cfg (0x10 + d) 1 % 8)).map (fun p => s.cfg 0x14 4 / 2 ^ (8 * d + 2 * p) % 4)

/-- Whether every field of the table is in its range and ROLES names a legal column. -/
def State.tableFormed (s : State) : Bool :=
  let len := s.cfg 0 4
  let widths := (List.range 4).all (fun d => 1 ≤ s.cfg (0x10 + d) 1 && s.cfg (0x10 + d) 1 ≤ 4)
  let primaries := (List.range 4).flatMap (fun d => (s.namedRoles d).filter (fun r => r == 1) |>.map (fun _ => d))
  s.cfg 4 4 == 1 && len ≤ 4096 && s.cfg 0x70 8 < 65536 && len == 0x78 + s.cfg 0x70 2 && widths && s.cfg 0x18 8 < 16 &&
    500 ≤ s.cfg 0x20 8 && s.cfg 0x20 8 ≤ 2800 &&
    (match primaries with
      | [d] => s.boot.hasDie d
      | _ => false) &&
    s.boot.dies.all (fun d => (s.namedRoles d).contains 0)

/-- R71, R79: the reason for which the ROM rejects the table, if it does. -/
def State.tableBad (s : State) : Option Nat :=
  let f := s.boot.flash
  if !Config.falconVerify s.vendorKey (f.getRange 0 0x78) (f.getRange 0x78 (s.cfg 0x70 2)) then some 1
  else if !s.tableFormed then some 2
  else if s.cfg 8 8 < (s.boot.fuseRows.get 8 0).toNat then some 4
  else none

/-! ## Images (R74, R75; the layout is log entry 23) -/

/-- The image at the start of some bytes: as many as its length field says. -/
def imageOfBytes (b : List Byte) : List Byte :=
  let n := leNat ((b.drop 8).take 4)
  if n ≤ b.length then b.take n else b

/-- The version of an image. -/
def imageVersion (b : List Byte) : Nat := leNat (b.take 8)

/-- Whether the signature of an image verifies. -/
def State.imageSigned (s : State) (b : List Byte) : Bool :=
  let k := b.length - leNat ((b.drop 12).take 2)
  leNat ((b.drop 8).take 4) == b.length && 14 ≤ k && Config.falconVerify s.vendorKey (b.take k) (b.drop k)

/-- The Pewter image in flash. -/
def State.flashImage (s : State) : List Byte := s.boot.flash.getRange 0x1000 (s.cfg 0x1008 4)

/-- R74, R79: the reason for which the ROM rejects the Pewter image, if it does. -/
def State.pewterBad (s : State) : Option Nat :=
  let b := s.flashImage
  if shake256 b != s.boot.flash.getRange 0x30 64 then some 3
  else if imageVersion b < s.cfg 0x28 8 then some 4
  else none

/-- Whether the flash holds a table and an image that verify (R78). -/
def State.flashGood (s : State) : Bool := s.tableBad.isNone && s.pewterBad.isNone

/-! ## Keys (R81) -/

/-- A measurement register (R82). -/
def State.meas (s : State) (n : Nat) : List Byte := s.mon.meas.get n measZero

/-- The seed of the identity key. -/
def State.identity (s : State) : List Byte :=
  shake256 (s.boot.fuseSeed ++ leBytes 1 s.boot.lifecycle ++ [0x49, 0x44, 0x45, 0x4E, 0x54])

/-- DEVID: the first 8 bytes of the digest of the identity public key. -/
def State.deviceIdBytes (s : State) : List Byte := (shake256 (Config.falconPublic s.identity)).take 8

/-- Derive the report key and its certificate. -/
def State.deriveReport (s : State) : State :=
  let m := s.meas 0 ++ s.meas 1 ++ s.meas 2
  let key := shake256 (s.boot.fuseSeed ++ leBytes 1 s.boot.lifecycle ++ m)
  let x := Config.falconPublic key ++ m ++ leBytes 1 s.boot.lifecycle ++ leBytes 8 s.mon.version
  { s with mon := { s.mon with reportKey := key, cert := Config.falconSign s.identity x } }

/-! ## Firewalls (R73) -/

/-- FWCTL at reset (R73): SHPROF and bits [3:0] at ALLOWTC3, SHADOW set, LOCK clear. PMASK is 0. -/
def fwctlReset : Nat := 0x502

/-- FWCTL of a column cluster as the ROM leaves it: ALLOWTC01 and EGRESS beside ALLOWTC3, SHPROF as it was, LOCK; the security
engine has cleared SHADOW but on a shadow. -/
def fwctlOf (role : Nat) : Nat := clearBits (fwctlReset ||| 0x085) 8 1 + (if role = 2 then 0x100 else 0)

/-- The clusters of the column have their firewall registers, at reset (R73). -/
def State.columnReset (s : State) : State :=
  s.columnRoles.foldl (fun s c => { s with mon := { s.mon with
    firewalls := s.mon.firewalls.put c.1 fwctlReset, pmasks := s.mon.pmasks.put c.1 0 } }) s

/-- The ROM releases the column: roles, firewalls and PMASK (all ones). -/
def State.releaseColumn (s : State) : State :=
  s.columnRoles.foldl (fun s c => { s with mon := { s.mon with
    roles := s.mon.roles.put c.1 c.2, firewalls := s.mon.firewalls.put c.1 (fwctlOf c.2),
    pmasks := s.mon.pmasks.put c.1 (2 ^ 32 - 1) } }) s.columnReset

/-- R77 step 5 on one die: the shadows take the primary and agent roles, and these clusters become shadows. -/
def handedOver (roles : List (Nat × Nat)) : List (Nat × Nat) :=
  let olds := roles.filter (fun r => r.2 = 0 ∨ r.2 = 1)
  let shadows := roles.filter (fun r => r.2 = 2)
  let pairs := olds.zip shadows
  roles.map (fun r =>
    if pairs.any (fun p => p.1.1 = r.1) then (r.1, 2)
    else match pairs.find? (fun p => p.2.1 = r.1) with
      | some p => (r.1, p.1.2)
      | none => r)

/-- R77 step 5: the roles change and the security engine sets SHADOW to match; the locked fields stay. -/
def State.handOverRoles (s : State) : State :=
  let next := (List.range 4).flatMap (fun d => handedOver (s.mon.roles.filter (fun r => r.1 / 64 == d)))
  next.foldl (fun s c =>
    let w := s.mon.firewalls.get c.1 0
    let w := clearBits w 8 1 + (if c.2 = 2 then 0x100 else 0)
    { s with mon := { s.mon with roles := s.mon.roles.put c.1 c.2, firewalls := s.mon.firewalls.put c.1 w } }) s

/-! ## Creating a partition (R95, R96) -/

/-- The dies of a block mask. -/
def maskDies (blocks : Nat) : List Nat := (List.range 4).filter (fun d => blocks / 2 ^ (8 * d) % 256 != 0)

/-- R47: the owner register of a spine's up port: (die × 16 + spine) × 16 + port − 32. -/
def ownerKey (die i port : Nat) : Nat := (die * 16 + i) * 16 + port

/-- The owner registers that a port set covers. -/
def portKeys (blocks ports : Nat) : List Nat :=
  (maskDies blocks).flatMap (fun d => (List.range 16).flatMap (fun i => (onesOf ports 15).map (fun p => ownerKey d i p)))

/-- R47: a hub port (44 to 46), and a port toward each edge neighbour (32 to 37, 38 to 43) on which the partition has blocks. -/
def portsOk (blocks ports : Nat) : Bool :=
  let ds := maskDies blocks
  ports / 4096 % 8 != 0 && ds.all (fun d =>
    (!ds.contains (d ^^^ 1) || ports % 64 != 0) && (!ds.contains (d ^^^ 2) || ports / 64 % 64 != 0))

/-- R95: why PART_CREATE refuses: 1 BUSY, 2 RANGE, 3 PORTS. -/
def State.createBad (s : State) (n blocks ports : Nat) : Option Nat :=
  if (s.parts.look n).isSome then some 1
  else if blocks = 0 || (onesOf blocks 32).any (fun b => !s.boot.blocks.testBit b || (s.blockOwner b).isSome) then some 2
  else if !portsOk blocks ports || (portKeys blocks ports).any (fun k => 32 ≤ s.owners.get k 0) then some 3
  else none

/-- R50, R51, R96: the partition that a block mask makes, with its tier mappings. -/
def State.newPart (s : State) (blocks ports : Nat) : Part :=
  let slices := (maskDies blocks).map (fun d => (d,
    (onesOf blocks 32).flatMap (fun b => if b / 8 = d then (onesOf (s.boot.hbm / 2 ^ (8 * b) % 256) 8).map (fun i => 8 * b + i) else [])))
  let chans := (onesOf blocks 32).flatMap (fun b => (onesOf (s.boot.cap / 2 ^ (4 * b) % 16) 4).map (fun j => 4 * b + j))
  { blocks := blocks, ports := ports, slices := slices, chans := chans, procs := [], sliceVf := 0, sliceEnd := 0,
    slicesLeft := [], inPeriod := [], nextH := [], nextC := 0, reserved := [], focus := 0, passed := [], job := 0 }

/-- The first queue of the lowest block of a mask. -/
def firstQueue (blocks : Nat) : Nat := 1024 * (searchUp (fun b => blocks.testBit b) 32 0).getD 0

/-- R96: the owner registers, the leaf switches (which go by the block mask), the tier mappings and MEAS4. The first queue of
the lowest block is the supervisor queue (log entry 21). -/
def State.createPart (s : State) (n blocks ports : Nat) : State :=
  let p := s.newPart blocks ports
  let owners := (portKeys blocks ports).foldl (fun (m : NMap Nat) k => m.put k (32 + n)) s.owners
  let s := { s with owners := owners, parts := s.parts.put n p }
  let s := s.modQueue (firstQueue blocks) (fun q => { q with owner := 0x30000 })
  s.extendReg 4 6 (partBytes n p)

end Sys2Proof.Machine
end

