-- ==== Sys2Proof/Machine/Links.lean ====
section
/-! DEFINITION. Solder (R21) and the Fliveano links (R22 to R26, R29, R30): flits, retry, retraining, control flits. -/

namespace Sys2Proof.Machine

/-! ## Solder (R21) -/

/-- Solder record `n`. -/
def State.solder (s : State) (n : Nat) : Solder := s.solders.get n Solder.zero

/-- Change a Solder record. -/
def State.modSolder (s : State) (n : Nat) (f : Solder → Solder) : State := { s with solders := s.solders.put n (f (s.solder n)) }

/-- R21: a flit at interface and direction `at_` (as `solderOf` numbers them), bound for input `x` of switch `y`. A flit whose CRC
fails is sent again; after 16 failed replays of it the interface retrains, and the flit is held. -/
def execSolderFlit (s : State) : Outcome :=
  runEvent (fun ev s =>
    let k := s.solder ev.at_
    let f := ev.flit
    let hold := fun (s : State) => s.modSolder (ev.at_ % 8) (fun k => { k with
      held := k.held ++ f.msgs.map (fun (m : LinkMsg) => (ev.y, ev.x, m.msg)) })
    if !f.crcOk then
      let s := s.modSolder ev.at_ (fun k => { k with fails := if 16 ≤ k.fails then 0 else k.fails + 1 })
      if 16 ≤ k.fails then (hold s).post .d2dRetrain { Ev.zero with at_ := ev.at_ % 8 }
      else s.post .solderFlit { ev with flit := { f with crcOk := true } }
    else if (s.solder (ev.at_ % 8)).retrain then hold s
    else if f.lseq != k.seq then s
    else
      let s := s.modSolder ev.at_ (fun k => { k with seq := (k.seq + 1) % 256, fails := 0 })
      f.msgs.foldl (fun s m => s.post .switchReceive { Ev.zero with at_ := ev.y, x := ev.x, msg := m.msg }) s) s

/-- R21: interface `at_` retrains, with its traffic held. -/
def execD2dRetrain (s : State) : Outcome :=
  runEvent (fun ev s => (s.raiseMonitor Cause.d2dRetrain).modSolder ev.at_ (fun k => { k with
    retrain := true, retrains := 0, until_ := s.clk + us10 })) s

/-- Held messages of an absent edge interface take the way by the hub, from the switch they were at. -/
def State.reroute (s : State) (h : Nat × Nat × Msg) : State := match upstream h.1 h.2.1 with
  | some (u, p) => s.post .switchReceive { Ev.zero with at_ := u, x := p, msg := h.2.2 }
  | none => s

/-- R21: the retraining of interface `at_` ends, with `x` 1 when it failed. The third failure makes the interface absent
(R19). -/
def execD2dRetrainEnd (s : State) : Outcome :=
  runEvent (fun ev s =>
    let k := s.solder ev.at_
    if !k.retrain then s
    else if ev.x = 0 then
      let s := s.modSolder ev.at_ (fun k => { k with retrain := false, retrains := 0, held := [] })
      k.held.foldl (fun s h => s.post .switchReceive { Ev.zero with at_ := h.1, x := h.2.1, msg := h.2.2 }) s
    else if k.retrains < 2 then s.modSolder ev.at_ (fun k => { k with retrains := k.retrains + 1, until_ := s.clk + us10 })
    else
      let s := s.modSolder ev.at_ (fun k => { k with retrain := false, retrains := k.retrains + 1, held := [] })
      let s := s.solderOut ev.at_
      if ev.at_ < 4 then k.held.foldl (fun s h => s.reroute h) s else s) s

/-- The interfaces whose retraining has lasted its 10 µs. -/
def State.soldersDue (s : State) : List Nat :=
  (s.solders.filter (fun k => k.2.retrain && k.2.until_ ≤ s.clk)).map (fun k => k.1)

/-! ## Retry on a Fliveano link (R23, R24) -/

/-- Words beyond the first `n` are zero. -/
def zeroFrom (n : Nat) (ws : List Word) : Bool := (ws.drop n).all (fun w => w == 0)

/-- Whether a control record has a known CTYPE and zeros in its unused bytes (R29). -/
def controlOk (ws : List Word) : Bool :=
  match (ws.getD 0 0).toNat with
  | 1 => zeroFrom 2 ws
  | 2 => zeroFrom 2 ws
  | 3 => zeroFrom 30 ws && (ws.drop 1).all (fun w => bits w 51 32 == 0)
  | 4 => zeroFrom 2 ws
  | 5 => zeroFrom 2 ws
  | 6 => (ws.getD 1 0).toNat < 64 && zeroFrom 3 ws
  | _ => false

/-- Whether a flit passes its checks (R23, R29). -/
def Flit.ok (f : Flit) : Bool := f.crcOk && f.kind != 3 && f.rsv == 0 && (f.kind != 2 || controlOk f.words)

/-- The flits that an acknowledgement leaves. -/
def ackedTo (lack : Nat) (fs : List Flit) : List Flit :=
  if fs.any (fun f => f.lseq == lack) then (fs.dropWhile (fun f => f.lseq != lack)).drop 1 else fs

/-- LACK of a flit frees what it acknowledges (R24). -/
def Link.acked (k : Link) (f : Flit) : Link :=
  if f.ackv then
    let left := ackedTo f.lack k.unacked
    { k with unacked := left, naks := if left.length < k.unacked.length then 0 else k.naks }
  else k

/-- A NAK: everything unacknowledged goes out again in order; each flit counts in the error counter (R24). -/
def State.replay (s : State) (l : Nat) : State :=
  let k := s.link l
  let n := k.unacked.length
  -- the millisecond begins with the first replay after the last one has passed (log entry 91)
  let fresh := decide (msCycles < s.clk - k.errSince)
  let errors := (if fresh then 0 else k.errors) + n
  let s := s.modLink l (fun k => { k with
    out := k.out ++ k.unacked, naks := k.naks + 1, errors := errors, errSince := if fresh then s.clk else k.errSince })
  let s := if (fresh || k.errors ≤ 64) && 64 < errors then s.post .linkCrc { Ev.zero with at_ := l } else s
  if 8 ≤ k.naks then s.post .linkRetrain { Ev.zero with at_ := l } else s

/-- The event of a control record (R29). -/
def controlEvent (ctype : Nat) : Instr :=
  match ctype with
  | 1 => .trainReq
  | 2 => .trainDone
  | 3 => .eack
  | 4 => .echo
  | 5 => .echoReply
  | _ => .idset

/-- CACK of an end-to-end word or record frees entries of a source's replay table (R27, R28). -/
def State.applyCack (s : State) (dev cack : Nat) : State :=
  s.modPeer dev (fun p => { p with replays := p.replays.filter (fun r => (r.2.eseq + 2 ^ 32 - cack) % 2 ^ 32 < 2 ^ 31) })

/-- The number of a job that another device starts: by that device and the handle of its object (log entry 17). -/
def foreignJobNo (m : Msg) : Nat := 2 ^ 100 + m.sdev * 65536 + m.tagid

/-- A job of another device as it is known here, or as the first message about it makes it known. -/
def State.foreignJob (s : State) (m : Msg) : JobState := match s.jobs.look (foreignJobNo m) with
  | some j => j
  | none => ⟨0, m.tagid, 0, m.sdev * 4096 + m.sep, 0, 2 ^ m.sdev ||| 2 ^ s.devId, [], [], 0, false, 0, [], none, none⟩

/-- A marker from another device: the job is known here by its sender, its handle and the partition that the marker names,
and the generation begins (R185). -/
def State.foreignMarker (s : State) (m : Msg) : State :=
  let n := foreignJobNo m
  let gen := (m.payload.getD 0 0).toNat % 2 ^ 32
  let j := s.foreignJob m
  let j := { j with parts := j.parts ||| 2 ^ m.part, home := m.sdev * 4096 + m.sep }
  let j := if j.snaps.any (fun (g : Snap) => g.gen == gen) then j
    else { j with snaps := Snap.new gen 0 (j.fullNext || j.snaps.all (fun (g : Snap) => !g.sealed)) :: j.snaps }
  ({ s with jobs := s.jobs.put n j }).bindParts n j

/-- A message of an accepted data flit (R26, R28, R29): one for another device is relayed, a request goes to the replay table,
the rest enters the fabric at the hub root. Until it has gone on it stands in the link's receive buffer (R25). -/
def State.fromLink (s : State) (l : Nat) (x : LinkMsg) : State :=
  let m := { x.msg with eseq := match x.e2e with
    | some w => bits w 63 32
    | none => 0 }
  if m.ddev != s.devId then match s.linkTo m.ddev with
    | some k => (s.sendOn k { x with msg := m, via := l + 1 }).signalLink l m.tc
    | none => s
  else
    let s := if m.op = 0x72 then s.foreignMarker m else s
    let enter := fun (s : State) => s.post .switchReceive { Ev.zero with at_ := hubRoot, x := 192 + 4 * l, msg := m }
    match m.tc, x.e2e with
    | 0, some w => s.post .e2eRequestArrive { Ev.zero with at_ := 2048 + 4 * l, words := [w], msg := m }
    | 1, some w => enter (s.applyCack m.sdev (bits w 31 0))
    | _, _ => enter s

/-- R24: link `at_` receives a flit. One that fails its checks is answered with NAK; one out of order is discarded; the next
in order is taken, and a data or control flit is acknowledged. An absent link carries none (R18). -/
def execLinkFlitReceive (s : State) : Outcome :=
  runEvent (fun ev s =>
    let l := ev.at_
    let f := ev.flit
    if !s.boot.links.testBit l then s
    else if !f.ok then s.modLink l (fun k => k.send 1 [] true)
    else
      let s := s.modLink l (fun k => { k.acked f with stop := f.stop })
      let s := if f.nak then s.replay l else s
      if f.lseq != (s.link l).recvSeq then s.pump l
      else
        let s := s.modLink l (fun k => { k with recvSeq := (k.recvSeq + 1) % 1024, heard := true })
        let s := match f.kind with
          | 0 => f.msgs.foldl (fun (s : State) m => s.fromLink l m) s
          | 2 => s.post (controlEvent (f.words.getD 0 0).toNat) { Ev.zero with at_ := l, words := f.words }
          | _ => s
        let s := if f.kind = 1 then s else s.modLink l (fun k => k.send 1 [] false)
        s.pump l) s

/-- R24: the error counter of link `at_` has passed 64 in a millisecond. -/
def execLinkCrc (s : State) : Outcome := runEvent (fun _ s => s.raiseMonitor Cause.linkCrc) s

/-! ## Retraining (R24, R29) -/

/-- A link starts an attempt to retrain, together with the other side. -/
def State.trainLink (s : State) (l reason : Nat) : State :=
  (s.modLink l (fun k => { k with
    retrain := true, naks := 0, until_ := s.clk + msCycles, since := if k.retrain then k.since else s.clk })).sendControl l 1 [word reason]

/-- R24: link `at_` retrains; with `x` 1 an attempt has failed, and the third takes the link down; with `x` 2 the monitor asks for
it (R29). An absent link does not train (R18). -/
def execLinkRetrain (s : State) : Outcome :=
  runEvent (fun ev s =>
    let k := s.link ev.at_
    if k.down || !s.boot.links.testBit ev.at_ then s
    else if ev.x = 2 then s.trainLink ev.at_ 2
    else if ev.x = 0 then
      ((s.raiseMonitor Cause.linkRetrain).modLink ev.at_ (fun k => { k with retrains := k.retrains + 1, failed := 0 })).trainLink ev.at_ 1
    else if k.failed < 2 then (s.modLink ev.at_ (fun k => { k with failed := k.failed + 1 })).trainLink ev.at_ 1
    else (s.modLink ev.at_ (fun k => { k with failed := k.failed + 1 })).post .linkDown { Ev.zero with at_ := ev.at_ }) s

/-- R29: the other side of link `at_` retrains. -/
def execTrainReq (s : State) : Outcome :=
  runEvent (fun ev s =>
    if !s.boot.links.testBit ev.at_ then s
    else s.modLink ev.at_ (fun k => { k with retrain := true, until_ := 0, since := if k.retrain then k.since else s.clk })) s

/-- The links that the other side has asked to retrain: they answer when they have trained. -/
def State.trainAnswers (s : State) : List Nat :=
  (s.links.filter (fun k => k.2.retrain && k.2.until_ == 0 && !k.2.down)).map (fun k => k.1)

/-- The links whose attempt to retrain has lasted its millisecond. -/
def State.trainsOver (s : State) : List Nat :=
  (s.links.filter (fun k => k.2.retrain && k.2.until_ != 0 && k.2.until_ ≤ s.clk && !k.2.down)).map (fun k => k.1)

/-- A link is trained: traffic goes on from the acknowledged LSEQ, the timers of R27 of the requests that it carries go on from
where they stood, and an ECHO measures the round trip. -/
def State.trained (s : State) (l : Nat) : State :=
  let k := s.link l
  let later := fun (r : Remote) => if k.retrain && r.dev != s.devId && s.linkOf r == some l then
    { r with sent := r.sent + (s.clk - max k.since r.sent) } else r
  let s := { s with remotes := s.remotes.map later }
  let s := s.modLink l (fun k => { k with
    trained := true, retrain := false, failed := 0, until_ := 0, out := k.out ++ k.unacked, echo := word s.clk })
  (s.sendControl l 4 [word s.clk]).pump l

/-- This side of link `l` has trained: it says so. -/
def State.answerTrain (s : State) (l : Nat) : State := (s.sendControl l 2 [word (s.link l).rtt]).trained l

/-- R29: both sides of link `at_` leave retraining; word 1 is the measured round trip. -/
def execTrainDone (s : State) : Outcome :=
  runEvent (fun ev s =>
    if !s.boot.links.testBit ev.at_ then s
    else (s.modLink ev.at_ (fun k => { k with rtt := (ev.words.getD 1 0).toNat })).trained ev.at_) s

/-- R29: an ECHO is answered at once. -/
def execEcho (s : State) : Outcome := runEvent (fun ev s => s.sendControl ev.at_ 5 [ev.words.getD 1 0]) s

/-- R29: the answer to an ECHO gives the round trip in ns. -/
def execEchoReply (s : State) : Outcome :=
  runEvent (fun ev s => s.modLink ev.at_ (fun k =>
    if k.echo = ev.words.getD 1 0 then { k with rtt := (s.clk - k.echo.toNat) * 25 / 47 } else k)) s

/-- R29: acknowledgements for this device are applied, others go on toward theirs. -/
def execEack (s : State) : Outcome :=
  runEvent (fun ev s => ((ev.words.drop 1).filter (fun w => w != 0)).foldl (fun s w =>
    let src := bits w 63 58
    let dst := bits w 57 52
    if dst = s.devId then s.applyCack src (bits w 31 0)
    else match s.linkTo dst with
      | some l => s.sendControl l 3 [eackRecord src dst (bits w 31 0)]
      | none => s) s) s

/-- R26, R29: over a link (`at_` below 16) the device takes its id and its domain's tag; `at_` 16 + l is the monitor of this device
that forms a domain and gives the id to the device behind link l (log entry 92). -/
def execIdset (s : State) : Outcome :=
  runEvent (fun ev s =>
    if 16 ≤ ev.at_ then s.sendControl (ev.at_ - 16) 6 (ev.words.drop 1)
    else { s with devId := bits (ev.words.getD 1 0) 5 0, mon := { s.mon with jobDomain := leBytes 8 (ev.words.getD 2 0).toNat } }) s

/-! ## A link that is down (R24, R26, R30) -/

/-- What waited at a link that is down takes the route that remains. The requests of this device are sent again from their
own record. -/
def State.moveOn (s : State) (x : LinkMsg) : State :=
  if x.msg.tc = 0 ∧ x.msg.sdev = s.devId then s
  else match s.linkTo x.msg.ddev with
    | some l => s.sendOn l x
    | none => s

/-- The snapshots in progress of jobs with a device behind a link: (job, generation) (R190). -/
def State.snapsOver (s : State) (l : Nat) : List (Nat × Nat) :=
  (s.jobs.filter (fun j => (onesOf j.2.devmask 64).any (fun d => d != s.devId && s.linkTo d == some l))).flatMap (fun j =>
    (j.2.snaps.filter (fun m => !m.sealed && m.failed == 0)).map (fun m => (j.1, m.gen)))

/-- R24, R30: link `at_` is down: it is absent (R19), its requests go out again at once on the route that remains, and those
with none fail with LINK_DOWN. -/
def execLinkDown (s : State) : Outcome :=
  runEvent (fun ev s =>
    let l := ev.at_
    let mine := s.remotes.filter (fun r => r.dev != s.devId && r.link == some l)
    let snaps := s.snapsOver l
    let waiting := (s.link l).waiting
    let s := s.logFault Cause.linkDown 2 0xFFFF 0 (word l)
    let s := { s with boot := { s.boot with links := clearBits s.boot.links l 1 } }
    let s := s.modLink l (fun k => { k with down := true, retrain := false, waiting := [], unacked := [], owed := [] })
    let s := waiting.foldl (fun s x => s.moveOn x) s
    let s := mine.foldl (fun s r => match s.linkTo r.dev with
      | some _ => s.resend r
      | none => s.failRemote r Cause.linkDown (word l)) s
    snaps.foldl (fun s p => s.post .snapshotFail { Ev.zero with at_ := p.1, x := p.2, y := 3 }) s) s

end Sys2Proof.Machine
end

