-- ==== Sys2Proof/Machine/Rollback.lean ====
section
/-! DEFINITION. The rollback of a job (R192, R301): what is in flight is lost, pages, cores and queues go back to the record of a
generation, and the dispatchers to the tasks and instances of that moment. -/

namespace Sys2Proof.Machine

/-! ## The records of a generation -/

/-- The sealed generations of a job on the chain from MHEAD, newest first: every sealed one that is kept. -/
def JobState.sealedGens (j : JobState) : List Snap := j.snaps.filter (fun m => m.sealed)

/-- The content of a page at generation `g`: the newest record at or before it that lists the page, when it was copied. -/
def pageAt (snaps : List Snap) (p : PageCut) : Option Mem :=
  (snaps.findSome? (fun m => m.pages.find? (fun q => q.ctxid == p.ctxid && q.handle == p.handle && q.page == p.page))).bind
    (fun q => q.bytes)

/-- A page of an object as its map names it now. -/
def State.pageKey (s : State) (p : PageCut) : Option Nat :=
  match s.liveEnt p.ctxid p.handle with
  | none => none
  | some e => match s.translate p.ctxid e (p.page * 65536) .read 0 with
    | .ok (.mem k) => some (k / 65536 * 65536)
    | _ => none

/-- A context as a cut recorded it, ready at RGNPC (R192 step 6), with the registers of its frame; INSTRET is not restored (R223). -/
def Ctx.resumed (x : Ctx) (m : Mem) (i : Nat) : Ctx :=
  { x with
    sup := false, pc := x.rgnpc, regs := frameRegs m i, lcount := 0, restarting := true, rpt := none, sig := SigState.idle,
    trapPend := none, poisonKill := false, startPos := 0, delivered := [], replies := [], cutDone := false, pauseCount := 0,
    yieldPoint := false, preempt := false, ibuf := none, mapRead := none, onPath := none, access := none, noFill := false, farDesc := none,
    wait := x.barWait.map BarWait.wait }

/-! ## What is in flight (R192 step 1) -/

/-- Every switch, link and home slice discards the job's messages; those of the monitors go on, since they carry the rollback
itself. -/
def State.dropInFlight (s : State) (j : JobState) : State :=
  let keep := fun (m : Msg) => !j.parts.testBit m.part || m.op == 0x7A
  let keepL := fun (x : LinkMsg) => keep x.msg
  let flit := fun (f : Flit) => { f with msgs := f.msgs.filter keepL }
  let near := fun (k : Nat) => s.jobBlock j (k / 8)
  { s with
    net := s.net.filter keep,
    switches := s.switches.map (fun (w : Nat × Switch) => (w.1, { w.2 with
      queues := w.2.queues.map (fun (q : Nat × List Queued) => (q.1, q.2.filter (fun x => keep x.msg))) })),
    links := s.links.map (fun (l : Nat × Link) => (l.1, { l.2 with
      waiting := l.2.waiting.filter keepL, unacked := l.2.unacked.map flit, out := l.2.out.map flit })),
    solders := s.solders.map (fun (x : Nat × Solder) => (x.1, { x.2 with held := x.2.held.filter (fun h => keep h.2.2) })),
    agenda := s.agenda.filter (fun a => a.2.msg.op == 0 || keep a.2.msg),
    slices := s.slices.map (fun (k : Nat × Slice) =>
      if near k.1 then (k.1, { k.2 with entries := [], spill := [], takes := [], records := [] }) else k) }

/-- Whether a line of a context lies in an object with the J right, which the rollback restores. -/
def State.jLine (s : State) (ctxid : Nat) (la : Nat) : Bool := (List.range (s.otlen ctxid)).any (fun i => match s.liveEnt ctxid i with
  | some e => e.rights.testBit rJ && decide (e.base < la * 128 + 128 ∧ la * 128 < e.base + e.len)
  | none => false)

/-- The lines of J objects leave the virtual caches of a job's contexts; what other objects hold there stands (R192 step 2). -/
def State.dropJLines (s : State) (j : JobState) : State :=
  { s with procs := s.procs.map (fun (p : Nat × Proc) => if j.parts.testBit p.2.part then
      (p.1, { p.2 with vcs := p.2.vcs.map (fun (v : Nat × Vc) =>
        (v.1, { v.2 with lines := v.2.lines.filter (fun l => !s.jLine p.1 l.la) })) }) else p) }

/-- The contexts of a job's cores halt, and what they have under way is lost; stores that have retired are performed. -/
def State.haltJob (s : State) (j : JobState) : State :=
  let mine := fun (c : Nat) => s.jobBlock j (c / 64)
  let s := (s.jobCores j).foldl (fun s c => (List.range 11).foldl (fun s i => s.withdraw c i) ((s.drain c).dropWinner c)) s
  let s := s.mapCores mine (fun k => { k with
    lq := [], inflight := [], acc := 0, wq := [], l1 := [], l1i := [], rfcnt := 0, rollHalt := false, rollAsk := false, preempt := false,
    ctxs := k.ctxs.map (fun x => { x with live := false, wait := none, barWait := none, supBar := none, replies := [] }) })
  let s := s.mapClusters (fun k => s.jobBlock j (k / 8)) (fun k => { k with
    jobs := k.jobs.map (fun (p : Nat × List Job) => (p.1, p.2.map (fun b => { b with done := true }))), deliv := [], joins := [],
    held := [] })
  let s := s.closeRemotes (fun r => mine r.core)
  (s.dropInFlight j).dropJLines j

/-! ## The dispatchers (log entry 121) -/

/-- Whether an instance stands in the records of a generation, on its cores or as a copy of its images. -/
def Snap.holds (m : Snap) (i : Nat) : Bool := m.cuts.any (fun q => q.inst == i) || m.images.any (fun c => c.inst == i)

/-- A node as it stood at the cut: an instance that was there and has no record had completed before its core's cut. -/
def Snap.nodeAt (m : Snap) (task i : Nat) (n : Node) : Node :=
  let mine := (m.insts.filter (fun p => p.2.task == task && p.2.node == i)).map (fun p => p.2)
  let done := n.done + (mine.filter (fun p => !m.holds p.id)).length
  { n with started := mine.foldl (fun a p => max a (p.index + 1)) n.started, done := done, finished := done == n.count }

/-- A task as it stood at the cut; one that began later begins anew. -/
def Snap.taskAt (m : Snap) (t : Task) : Task := match m.tasks.look t.id with
  | some o => { t with nodes := o.nodes.zipIdx.map (fun n => m.nodeAt t.id n.2 n.1), stale := o.stale }
  | none => { t with nodes := t.nodes.map (fun n => { n with started := 0, done := 0, finished := false }) }

/-- The tasks of the job's partitions go back to the cut. One that has ended since, of a context that is still admitted, is there
again, with nobody to tell. -/
def State.restoreTasks (s : State) (j : JobState) (m : Snap) : State :=
  let now : NMap Task := s.tasks.map (fun (t : Nat × Task) =>
    if j.parts.testBit t.2.part ∧ t.2.dead.isNone then (t.1, m.taskAt t.2) else t)
  let gone := m.tasks.filter (fun t => (now.look t.1).isNone && (match s.proc? t.2.ctxid with
    | some p => !p.retired
    | none => false))
  { s with tasks := gone.foldl (fun (l : NMap Task) t => NMap.put l t.1 { m.taskAt t.2 with owner := .none, children := 0 }) now }

/-- Every instance of the job leaves its cores and its images. -/
def State.clearInsts (s : State) (j : JobState) : State :=
  let mine := fun (i : Inst) => match s.tasks.look i.task with
    | some t => j.parts.testBit t.part && t.dead.isNone
    | none => false
  let here := (s.insts.filter (fun i => mine i.2)).map (fun i => i.2)
  let s := here.foldl (fun s i => (i.images.foldl (fun s k => s.dropImage k) s).freeCores (if i.st = .saved then [] else i.cores)) s
  here.foldl (fun s i => { s with insts := s.insts.del i.id }) s

/-- The context of a task. -/
def State.taskCtx (s : State) (task : Nat) : Nat := match s.tasks.look task with
  | some t => t.ctxid
  | none => 0

/-- The instances of a generation stand where they stood: those on cores on the same cores, those saved as pre-empted ones with the
dispatcher's copies as their images (R192). -/
def State.restoreInsts (s : State) (m : Snap) : State :=
  let s := m.insts.foldl (fun s (p : Nat × Inst) =>
    if m.cuts.any (fun q => q.inst == p.1) && (s.tasks.look p.2.task).isSome then
      { s with insts := s.insts.put p.1 { p.2 with st := .running, images := [], donate := false, next := 0, lender := 0 } }
    else s) s
  m.images.foldl (fun s c => match m.insts.look c.inst with
    | none => s
    | some i =>
      if (s.tasks.look i.task).isNone then s
      else
        let ctxid := s.taskCtx i.task
        let ns := s.freeImages ctxid c.images.length
        let s := (ns.zip c.images).foldl (fun (s : State) (p : Nat × CoreImage) => s.putImage (imageKey ctxid p.1) p.2) s
        { s with insts := s.insts.put i.id { i with
            st := .saved, images := ns.map (fun n => imageKey ctxid n), donate := false, next := 0, lender := 0, savedAt := s.clk } }) s

/-! ## The cores and the queues (R192 steps 3 and 4) -/

/-- Restore a core from its record (R192 step 3); its weight slots are loaded again where they do not hold what they held
(R161). -/
def State.restoreCut (s : State) (q : CoreCut) : State :=
  let c := q.core
  match s.insts.look q.inst with
  | none => s
  | some i =>
    let ctxs := Vector.ofFn (fun (n : Fin 11) =>
      let x := q.image.ctxs.getD n.val Ctx.zero
      if x.live then { x.resumed q.lmem n.val with instret := (s.ctx c n.val).instret } else { Ctx.zero with regs := frameRegs q.lmem n.val })
    let s := { s with
      lmem := s.lmem.copyRange (lkey c 0) q.lmem 0 0x40000,
      tiles := s.tiles.copyRange (rowKey c 0 0) q.tiles 0 0x80000 }
    let s := s.modCore c (fun k => { k.released with
      task := i.task, inst := i.id, gangIdx := q.image.gangIdx, gangSize := i.cores.length, code := q.image.code, plan := q.image.plan,
      ctxs := ctxs, sregs := frameRegs q.lmem 11, lqst := q.image.lqst, lweight := q.image.lweight, line31 := q.image.line31,
      sstepn := q.image.sstepn, sstepG := q.image.sstepG, stepRec := q.image.stepRec, stepNew := q.image.stepNew,
      rollable := q.image.rollable, ended := q.image.ended, holder := s.taskCtx i.task })
    let free := q.mutexes.map (fun (x : Nat × Mutex) => (x.1, { x.2 with waiters := [] }))
    let s := s.modCluster (c / 8) (fun k => { k with lines := q.lines, bars := q.bars, mutexes := free })
    s.reloadSlots c q.image.slots

/-- Append a logged message to the queue that it names (R192 step 4). -/
def State.appendLog (s : State) (l : LogEntry) : State :=
  match s.queueOf l.ctxid l.queue with
  | none => s
  | some (q, h) =>
    let s := match s.objAt l.ctxid l.queue (q.slot q.tail) with
      | some k => s.slotWrite k (wordsBytes l.words) 0 l.sender
      | none => s
    s.putTailHead h (q.tail + 1) q.head

/-- Free the manifests newer than `g`, those of failed generations among them (R192 step 5, R417). -/
def State.freeManifests (s : State) (j : JobState) (g : Nat) : State :=
  (j.snaps.filter (fun m => m.gen != g && m.manifest != 0 && decide ((m.gen + 2 ^ 32 - g) % 2 ^ 32 < 2 ^ 31))).foldl
    (fun s m => match s.ent j.owner m.manifest, s.proc? j.owner with
      | some e, some p =>
        (match s.maps.look (s.tableKey p.part e.pmap) with
          | some r => s.freeObject j.owner (s.tableKey p.part e.pmap) r e.pmap
          | none => s.freeEnt e)
      | _, _ => s) s

/-- The colour and the counts of every endpoint of a job start again at generation `g`. -/
def State.countsAt (s : State) (j : JobState) (g : Nat) : State :=
  (s.jobUnits j).foldl (fun s u =>
    let s := (s.modCluster u (fun k => { k with sent := 0, recv := 0, snapGen := g })).modSlice u
      (fun k => { k with sent := 0, recv := 0, snapGen := g })
    (coresOf u).foldl (fun s c => s.modCore c (fun k => { k with snapGen := g, cutGen := g, snapPhase := 0, sent := 0 })) s) s

/-- The steps of R192 for this device's part of a job. -/
def State.rollbackJob (s : State) (n g : Nat) : State :=
  match s.jobs.look n with
  | none => s
  | some j0 =>
    let s := match j0.snaps.find? (fun m => !m.sealed && m.failed == 0) with
      | some m => s.failGen n m.gen 4
      | none => s
    let j := (s.jobs.look n).getD j0
    match j.snaps.find? (fun m => m.sealed && m.gen == g) with
    | none => s
    | some m =>
      let s := (s.haltJob j).clearInsts j
      let chain := j.sealedGens.dropWhile (fun m => m.gen != g)
      let listed := chain.flatMap (fun m => m.pages)
      let s := listed.foldl (fun s p => match s.pageKey p, pageAt chain p with
        | some k, some b => { s with mem := s.mem.copyRange k b 0 65536 }
        | _, _ => s) s
      let s := ((s.restoreTasks j m).restoreInsts m).countsAt j g
      let s := m.cuts.foldl (fun s q => s.restoreCut q) s
      let s := m.log.foldl (fun s l => s.appendLog l) s
      let s := if s.initiates j then (s.putGenCur j g g).putPhase j 0 (some m.manifest) else s
      let s := s.freeManifests j g
      let s := s.modJob n (fun j => { j with
        snaps := chain, fullNext := true, pollAt := 0, pages := j.pages.map (fun p => { p with written := false }) })
      s.noticeJob j Cause.rollbackResume (word g)

end Sys2Proof.Machine
end

