-- ==== Sys2Proof/Machine/Messages.lean ====
section
/-! DEFINITION. Control messages (R38, TC3): event units, the scheduler, superstep rollback (R104), snapshots (R185 to R192),
the monitors; arrivals at completion barriers (R111). -/

namespace Sys2Proof.Machine

/-! ## The event unit (R141 to R144) -/

/-- The context that an EVENT message names: its sender's cluster, and the core and context in TAGID. -/
def Msg.sender2 (m : Msg) : Nat × Nat := (epCluster m.sep * 8 + m.tagid / 16 % 8, m.tagid % 16)

/-- A change of an event unit, or no change where it is refused. -/
def State.tryChange (s : State) (r : Except Bad State) : State := match r with
  | .ok t => t
  | .error _ => s

/-- EVENT (R38, R141): a signal, an arrival, an unlock, a wake, or the release of a barrier. -/
def execEvent (s : State) : Outcome :=
  takeMsgAt (fun ep m s =>
    let w := m.payload.getD 0 0
    let cl := epCluster ep
    let n := bits w 55 48
    let v := bits w 31 0
    let (c, i) := m.sender2
    if bits w 47 32 != 0 then s
    else match bits w 63 56 with
      | 1 => s.signal (cl * 8 + m.tagid / 16 % 8) (n % 32) v
      | 2 => s.tryChange (s.barArrive c i (n % 16) v)
      | 3 => s.tryChange (s.unlock c i (n % 16))
      | 4 => s.wakeCtx (cl * 8 + m.tagid / 16 % 8) (m.tagid % 16)
      | 5 => s.wakePause cl
      | _ => s) s

/-- R142: a store of core `at_` to event line `x`: the value ORs in, PEND is set, and waiters wake. -/
def execEventLineStore (s : State) : Outcome :=
  runEvent (fun ev s => s.signal ev.at_ (ev.x % 32) (bits (ev.words.getD 0 0) 31 0)) s

/-- A change of the event unit that context `i` of core `c` asks for; a refusal is its precise trap. -/
def State.changeFor (s : State) (c i : Nat) (r : Except Bad State) : State := match r with
  | .ok t => t
  | .error b => s.takeTrap c i ⟨b.cause, b.eval, 0, b.preason, (s.ctx c i).pc⟩

/-- R143: a store of context `x` of core `at_` to barrier `y` is an arrival with the value as generation. -/
def execEventBarStore (s : State) : Outcome :=
  runEvent (fun ev s => s.changeFor ev.at_ ev.x (s.barArrive ev.at_ ev.x (ev.y % 16) (ev.words.getD 0 0).toNat)) s

/-- R144: a store of context `x` of core `at_` to mutex `y` unlocks it. -/
def execMutexStore (s : State) : Outcome :=
  runEvent (fun ev s => s.changeFor ev.at_ ev.x (s.unlock ev.at_ ev.x (ev.y % 16))) s

/-- R141, R143: a supervisor's write of BARCFG `y` by a core of cluster `at_`; it releases nothing. -/
def execBarcfgWrite (s : State) : Outcome :=
  runEvent (fun ev s => s.writeBarcfg ev.at_ (ev.y % 16) (ev.words.getD 0 0)) s

/-! ## Completion barriers (R111) -/

/-- An arrival at a completion barrier of a context by its handle: whether it is stale, and the state. A handle that names no
barrier takes no arrival. -/
def State.arriveAt (s : State) (ctxid index gen : Nat) : Bool × State :=
  match s.objHome ctxid index with
  | none => (false, s)
  | some h =>
    let (ok, t) := s.objArrive h gen
    (!ok, t)

/-- R111: an arrival with generation `y` at barrier `x` of context `at_`; for node output of task `z`, a stale arrival is
recorded (R113). -/
def execBarrierArrive (s : State) : Outcome :=
  runEvent (fun ev s =>
    let (stale, s) := s.arriveAt ev.at_ ev.x ev.y
    match s.tasks.look ev.z with
    | some t => if stale then { s with tasks := s.tasks.put ev.z { t with stale := true } } else s
    | none => s) s

/-! ## The scheduler (R110, R119, R123) -/

/-- The cores of a cluster that run a task. -/
def State.coresOn (s : State) (cl task : Nat) : List Nat :=
  (coresOf cl).filter (fun c => (s.core c).task == task && (s.core c).inst != 0)

/-- SCHED (R38): a pre-emption request, a resume, the release of a gang barrier, or the report of a yield point. -/
def execSched (s : State) : Outcome :=
  takeMsgAt (fun ep m s =>
    let w := m.payload.getD 0 0
    let task := bits w 31 0
    let cs := s.coresOn (epCluster ep) task
    match bits w 63 56 with
    | 1 => cs.foldl (fun s c => s.modCore c (fun k => if k.preempt then k
        else { k with preempt := true, ctxs := k.ctxs.map (fun x => { x with preempt := false }) })) s
    | 2 => cs.foldl (fun s c => s.modCore c (fun k => { k with preempt := false })) s
    | 3 => cs.foldl (fun s c => s.wakeCore c) s
    | 4 => (s.coresOn (epCluster m.sep) task).foldl (fun s c =>
        (List.range 11).foldl (fun s i =>
          if (s.ctx c i).yieldPoint then s.post .yieldPoint { Ev.zero with at_ := c, x := i } else s) s) s
    | _ => s) s

/-! ## Superstep rollback (R104, R193) -/

/-- R104 step 1: core `c`, whose context `i` consumed the poison, tells every member of its gang. -/
def State.tellRoll (s : State) (c i : Nat) : State :=
  let s := s.modCtx c i (fun x => { x with wait := some .halted })
  (s.gang c).foldl (fun s m =>
    s.inject (mkMsg s.devId (niEndpoint (m / 8)) s.devId (niEndpoint (c / 8)) 3 0x78 (m % 8) (s.partOfBlock (c / 64))
      (parity (s.core c).snapGen) [word (s.core c).sstepn])) s

/-- R104 step 2: a member stops and discards its regions; the results of its lattice queue and of its queued stores are
discarded, and its requests and copy jobs that are under way complete. -/
def State.stopMember (s : State) (c : Nat) : State :=
  let s := (List.range 11).foldl (fun s i => if (s.ctx c i).live then (s.withdraw c i).discard c i else s) s
  ((s.dropWinner c).modCore c (fun k => { k with
    lq := [], inflight := [], acc := 0, wq := [], rollHalt := true, rollAsk := false,
    ctxs := k.ctxs.map (fun x => { x with barWait := none, supBar := none, replies := [] }) })).cancelTakes c

/-- Whether a core has a context at supervisor level, or with a cause that is pending: a rollback waits for its `eret` (R346, R421). -/
def Core.inHandler (k : Core) : Bool := k.ctxs.any (fun x => x.live && (x.sup || x.trapPend.isSome))

/-- A member that has been asked to stop can do so: it has counted the release, and its handler has returned. -/
def State.canStop (s : State) (c : Nat) : Bool :=
  (s.core c).rollAsk && !(s.core c).inHandler && (s.core c).sstepn == s.rollStep c

/-- Whether every member of a gang has stopped, and its requests and copy jobs have completed (R104 step 2). -/
def State.rollSettled (s : State) (gang : List Nat) : Bool :=
  gang.all (fun c => (s.core c).rollHalt && !s.remotes.any (fun r => r.core == c) &&
    [jobQueue c 0, jobQueue c 1].all (fun q => (s.jobsOf (c / 8) q).all (fun j => j.done || (match j.kind with
      | .migrate _ => true
      | _ => false))))

/-- A context as the barrier's record has it (INSTRET is not restored, R223), ready to go on at RGNPC with RGNSKIP 0 (R104 step 5, R136), with the registers of its
frame. A wait at a barrier that the record holds goes on (R269). -/
def Ctx.atBarrier (x : Ctx) (m : Mem) (i : Nat) : Ctx :=
  { x with
    sup := false, pc := x.rgnpc, rgnskip := 0, lcount := 0, restarting := false, regs := frameRegs m i, rpt := none,
    sig := SigState.idle, trapPend := none, poisonKill := false, delivered := [], replies := [], ibuf := none, startPos := 0,
    mapRead := none, onPath := none, access := none, noFill := false, farDesc := none,
    wait := x.barWait.map BarWait.wait }

/-- The jobs that a queue had at a number: those issued later are gone. -/
def jobsBefore (seq : Nat) (l : List Job) : List Job := l.filter (fun j => 2 ^ 27 ≤ (j.seq + 2 ^ 28 - seq) % 2 ^ 28)

/-- The bytes of a granule of 1 KiB that are not zero, by their place. -/
def Mem.granuleCells (m : Mem) (a : Nat) : List Host.Cell :=
  (m.cells.filter (fun c => a ≤ c.1 ∧ c.1 < a + 1024)).map (fun c => (c.1 - a, c.2))

/-- The granules of local memory that a superstep has modified go back to the record of the barrier; the others stay, with their
poison (R104 step 3). -/
def State.restoreGranules (s : State) (c : Nat) (old : Mem) : State :=
  { s with lmem := (List.range 256).foldl (fun (m : Mem) g =>
      if m.granuleCells (lkey c (1024 * g)) == old.granuleCells (1024 * g) then m
      else m.copyRange (lkey c (1024 * g)) old (1024 * g) 1024) s.lmem }

/-- R104 steps 3 to 5 for one member: local memory, the tiles as zeros, the registers, the mode, its event resources and its
jobs; its supervisor is told. Its slots are loaded again where they changed (R161). -/
def State.restoreMember (s : State) (c : Nat) : State :=
  match (s.core c).stepRec with
  | none => s
  | some r =>
    let s := { s.restoreGranules c r.lmem with tiles := s.tiles.clearRange (rowKey c 0 0) 0x80000 }
    let rolls := r.rolls + 1
    let s := s.modCore c (fun k => { k with
      ctxs := Vector.ofFn (fun (i : Fin 11) => { (r.ctxs.getD i.val Ctx.zero).atBarrier r.lmem i.val with instret := (k.ctx i.val).instret }), sregs := frameRegs r.lmem 11,
      lqst := r.lqst, lweight := r.lweight, l1 := [], rfcnt := 0, rollable := true, stepNew := false,
      stepRec := some { r with rolls := rolls, barriers := [] }, line31 := r.line31, jobSeq0 := r.jobSeq0, jobSeq1 := r.jobSeq1,
      rollHalt := false, rollAsk := false, ended := false, frames := k.frames.map (fun f => (f.1, false)) })
    let s := s.modCluster (c / 8) (fun k => k.putPlan (s.core c).plan r.lines r.bars r.mutexes)
    let s := s.setJobs (c / 8) (jobQueue c 0) (jobsBefore r.jobSeq0 (s.jobsOf (c / 8) (jobQueue c 0)))
    let s := s.setJobs (c / 8) (jobQueue c 1) (jobsBefore r.jobSeq1 (s.jobsOf (c / 8) (jobQueue c 1)))
    let s := s.reloadSlots c r.slots
    s.notice (s.ctxidOf c) Cause.sstepRollback (word (rolls % 4 * 2 ^ 32 + (s.core c).sstepn)) c (s.core c).task

/-- The J pages go back to their content at the barrier; lines of them leave every cache. -/
def State.restorePages (s : State) (pages : List (Nat × Mem)) : State :=
  let stay := fun (l : CLine) => match Home.ofCode l.home with
    | .mem k => !pages.any (fun p => p.1 == (Home.mem (k / 65536 * 65536)).code)
    | .host a => !pages.any (fun p => p.1 == (Home.host (a / 65536 * 65536)).code)
    | _ => true
  let s := s.mapVcs (fun _ => true) (fun v => { v with lines := v.lines.filter stay })
  let s := s.mapCores (fun _ => true) (fun k => { k with l1 := k.l1.filter stay })
  pages.foldl (fun s p => match Home.ofCode p.1 with
    | .mem k => { s with mem := (s.cowPage k).mem.copyRange k p.2 0 65536, jobs := (s.cowPage k).jobs }
    | .host a => { s with host := s.host.copyRange a p.2 0 65536 }
    | _ => s) s

/-- A gang goes back to its last `sstep` (R104): the barrier objects, the J pages, and every member. -/
def State.rollBack (s : State) (gang : List Nat) : State :=
  match ((gang[0]?).bind (fun c => (s.core c).stepRec)) with
  | none => s
  | some r =>
    let s := r.barriers.foldl (fun s b => let h := Home.ofCode b.1
      s.putObar h { s.obar h with gen := b.2.1, have_ := b.2.2 }) s
    let s := s.restorePages r.objects
    gang.foldl (fun s c => s.restoreMember c) s

/-- R104: a superstep rollback. With `y` 0, core `at_`, whose context `x` consumed the poison, tells its gang; with 1, a member
whose handler has returned stops; with 2, every member of core `at_`'s gang has stopped, and the gang goes back. -/
def execSuperstepRollback (s : State) : Outcome :=
  runEvent (fun ev s => match ev.y with
    | 0 => s.tellRoll ev.at_ ev.x
    | 1 => if s.canStop ev.at_ then s.stopMember ev.at_ else s
    | _ => if s.rollSettled (s.gang ev.at_) then s.rollBack (s.gang ev.at_) else s) s

/-- The events that carry a rollback on: a member whose handler has returned, and a gang that has stopped. -/
def State.rollsDue (s : State) : List Ev :=
  (s.cores.filter (fun k => s.canStop k.1)).map (fun k => { Ev.zero with at_ := k.1, y := 1 }) ++
    (s.insts.filter (fun i => i.2.st != .saved && !i.2.cores.isEmpty && s.rollSettled i.2.cores)).map (fun i =>
      { Ev.zero with at_ := i.2.cores.getD 0 0, y := 2 })

/-- SROLL (R104): member TAGID of the cluster stops, once no context of it is at supervisor level (R421) and it has counted the release
of its barrier. -/
def execSroll (s : State) : Outcome :=
  takeMsgAt (fun ep m s =>
    let c := epCluster ep * 8 + m.tagid % 8
    let k := s.core c
    let step := bits (m.payload.getD 0 0) 31 0
    if k.rollHalt || k.stepRec.isNone || (k.sstepn != step && (k.sstepn + 1) % 2 ^ 32 != step) then s
    else if k.inHandler || k.sstepn != step then s.modCore c (fun k => { k with rollAsk := true })
    else s.stopMember c) s

/-! ## Snapshots: markers and counts (R185 to R190) -/

/-- The job that a control message names by the handle in its TAGID: one that this device started, one of the sender, or one of a
third device that the sender takes part in. -/
def State.jobByHandle (s : State) (m : Msg) : Option (Nat × JobState) :=
  let named := s.jobs.filter (fun j => j.2.handle == m.tagid)
  (named.find? (fun j => j.2.home / 4096 == s.devId || j.2.home / 4096 == m.sdev)).orElse
    (fun _ => named.find? (fun j => j.2.devmask.testBit m.sdev && j.2.parts.testBit m.part))

/-- MARKER (R185, R186): the first copy makes the endpoint cut-pending; the units that cut at once do. -/
def execMarker (s : State) : Outcome :=
  takeMsgAt (fun ep m s => s.cutAt ep (s.markerJob m) (m.payload.getD 0 0).toNat) s

/-- CREPLY (R189): a child's counts at a node of the tree, or the totals of a device at the initiator. -/
def execCreply (s : State) : Outcome :=
  takeMsgAt (fun ep m s => match s.jobByHandle m with
    | none => s
    | some (n, j) => match j.current with
      | none => s
      | some g =>
        let w := m.payload.getD 0 0
        if m.sdev == s.devId && (s.treeChildren j ep).contains m.sep then s.noteChild n g.gen ep m.sep (bits w 63 32) (bits w 31 0)
        else if s.initiates j then s.noteDevice n g.gen m.sdev (bits w 63 32) (bits w 31 0)
        else s) s

/-- CPOLL (R189): a node polls its children, an endpoint answers with its counts of the moment; one from another device is for the
device's node. -/
def execCpoll (s : State) : Outcome :=
  takeMsgAt (fun ep m s => match s.jobByHandle m with
    | none => s
    | some (n, j) =>
      if j.current.any (fun g => g.gen == bits (m.payload.getD 0 0) 31 0) then
        s.pollAtEp n (if m.sdev = s.devId then ep else niEndpoint (s.jobCluster j))
      else s) s

/-- R189: the initiator polls every device of job `at_`. -/
def execCountPoll (s : State) : Outcome :=
  runEvent (fun ev s => match s.jobs.look ev.at_ with
    | none => s
    | some j => match j.current with
      | none => s.modJob ev.at_ (fun j => { j with pollAt := 0 })
      | some g =>
        let s := s.modJob ev.at_ (fun j => { j with pollAt := s.clk + us8 })
        let ask := fun (s : State) (d dep : Nat) =>
          s.inject (mkMsg d dep s.devId (j.home % 4096) 3 0x74 j.handle (j.partList.getD 0 0) (parity g.gen) [word g.gen])
        let node := niEndpoint (s.jobCluster j)
        (onesOf j.devmask 64).foldl (fun s d =>
          if d ≠ s.devId then ask s d 0x800
          else if node = j.home % 4096 then s.pollAtEp ev.at_ node
          else ask s d node) s) s

/-- The jobs whose poll is due. -/
def State.pollsDue (s : State) : List Nat :=
  (s.jobs.filter (fun j => j.2.pollAt != 0 && j.2.pollAt ≤ s.clk)).map (fun j => j.1)

/-- R191: this device sends its part of the manifest to the initiator, a half word a message (log entry 17). -/
def State.sendPart (s : State) (n gen : Nat) : State :=
  match (s.jobs.look n).bind (fun j => (j.snaps.find? (fun m => m.gen == gen)).map (fun m => (j, m))) with
  | none => s
  | some (j, m) =>
    let bare := m.pages.map (fun (p : PageCut) => { p with offset := none })
    (Snap.part { m with pages := bare } s.devId 0).halves.zipIdx.foldl (fun (s : State) (p : Nat × Nat) =>
      s.inject (mkMsg (j.home / 4096) 0x800 s.devId (niEndpoint (s.jobCluster j)) 3 0x7A j.handle (j.partList.getD 0 0) false
        [monWord 5 (p.2 * 2 ^ 32 + p.1)])) s

/-- A half word of another device's part of the manifest; the last one lets the generation be sealed (R191). -/
def State.takePart (s : State) (n dev i half : Nat) : State :=
  match (s.jobs.look n).bind (fun j => j.current.map (fun m => (j, m))) with
  | none => s
  | some (j, m) =>
    let h : NMap Nat := (m.others.get dev []).put i half
    let s := s.modSnap n m.gen (fun m => { m with others := m.others.put dev h })
    if s.initiates j ∧ partWhole h then s.post .snapshotSeal { Ev.zero with at_ := n, x := m.gen } else s

/-- R189: generation `x` of job `at_` is sealed, and the other devices of the job hear of it; with `y` 1 the counts are equal, and
this device gives its part of the manifest. -/
def execSnapshotSeal (s : State) : Outcome :=
  runEvent (fun ev s =>
    if ev.y = 1 then s.sendPart ev.at_ ev.x
    else
      let s := s.sealSnap ev.at_ ev.x
      match s.jobs.look ev.at_ with
      | some j => if s.initiates j && j.snaps.any (fun m => m.gen == ev.x && m.sealed) then s.tellJob j (monWord 3 ev.x) else s
      | none => s) s

/-- R190: generation `x` of job `at_` fails with cause `y`; the other devices hear of it, unless one of them said so (`z`). -/
def execSnapshotFail (s : State) : Outcome :=
  runEvent (fun ev s =>
    let s := s.failGen ev.at_ ev.x ev.y
    match s.jobs.look ev.at_ with
    | some j => if ev.z = 0 then s.tellJob j (monWord 4 (ev.y % 256 * 2 ^ 32 + ev.x % 2 ^ 32)) else s
    | none => s) s

/-- R186, R189: context `x` of core `at_` has come to a region entry with its cut pending; 11 looks again at the core. With 12, home
slice `at_` replies, and with 13 the network interface of cluster `at_`, if their cuts are complete. -/
def execCoreCut (s : State) : Outcome :=
  runEvent (fun ev s =>
    let reply := fun (ep : Nat) => match s.snapOfBlock (ev.at_ / 8) with
      | some (n, m) => s.replyUnit n m ep
      | none => s
    match ev.x with
    | 12 => reply (sliceEndpoint ev.at_)
    | 13 => reply (niEndpoint ev.at_)
    | x => s.cutCtx ev.at_ x) s

/-- R188: the copy of a unit that is about to be written goes to the store: with `x` 0 the pages at address `at_`, else unit `at_` of
core `x` − 1 in generation `z` of job `y`. -/
def execCowCopy (s : State) : Outcome :=
  runEvent (fun ev s => if ev.x = 0 then (s.cowPage ev.at_).storePage ev.at_ else s.storeUnit ev.y ev.z (ev.x - 1) ev.at_) s

/-- R188: the pages of generation `x` of job `at_` that have not been copied are copied to the store; with `y`, the dispatcher's copy
of saved instance `y` is (R186). -/
def execBackgroundCopy (s : State) : Outcome :=
  runEvent (fun ev s =>
    if ev.y ≠ 0 then s.storeSaved ev.at_ ev.x ev.y
    else match (s.jobs.look ev.at_).bind (fun j => j.snaps.find? (fun m => m.gen == ev.x)) with
      | none => s
      | some m => (m.pages.filter (fun p => !p.stored)).foldl (fun s p =>
          s.cowPageIn (fun o => o.gen == ev.x) p.key |>.post .cowCopy { Ev.zero with at_ := p.key }) s) s

/-- Whether a core of the job has a context in its handler, which the rollback lets return first (R346, R421): one that waits for a
rollback itself is none. -/
def State.handlersNow (s : State) (j : JobState) : Bool :=
  (s.jobCores j).any (fun c => (s.core c).ctxs.any (fun x => x.live && (x.sup || x.trapPend.isSome) && x.wait != some .restart))

/-- Whether a save of the job's instances is in progress: a rollback waits for it (R353). -/
def State.savesNow (s : State) (j : JobState) : Bool :=
  s.insts.any (fun i => i.2.st == .preempting && (match s.tasks.look i.2.task with
    | some t => j.parts.testBit t.part
    | none => false))

/-- A device has reached step 6 of a rollback; a `rollbk` inside the job has no one to tell (R301). -/
def State.noteRolled (s : State) (n dev : Nat) : State :=
  s.modJob n (fun j => match j.roll with
    | none => j
    | some (who, g, left) =>
      let left := clearBits left dev 1
      { j with roll := if left = 0 ∧ s.jobBlock j (who / 16 / 64) then none else some (who, g, left) })

/-- R192: this device performs its part of the rollback of job `at_` to generation `x`, which device `y` has asked for; it waits for a
save in progress (R353) and for handlers to return (R346, R421). -/
def execJobRollbackRequest (s : State) : Outcome :=
  runEvent (fun ev s => match s.jobs.look ev.at_ with
    | none => s
    | some j =>
      if s.savesNow j || s.handlersNow j then s.modJob ev.at_ (fun j => { j with goal := some (ev.x, ev.y) })
      else
        let s := (s.modJob ev.at_ (fun j => { j with goal := none })).rollbackJob ev.at_ ev.x
        if ev.y = s.devId then s.noteRolled ev.at_ ev.y
        else s.inject (mkMsg ev.y 0x800 s.devId (niEndpoint (s.jobCluster j)) 3 0x7A j.handle (j.partList.getD 0 0) false
          [monWord 10 ev.x])) s

/-- The rollbacks that wait for no save and no handler any more. -/
def State.goalsDue (s : State) : List Ev :=
  s.jobs.filterMap (fun (j : Nat × JobState) => match j.2.goal with
    | some (g, d) => if s.savesNow j.2 || s.handlersNow j.2 then none else some { Ev.zero with at_ := j.1, x := g, y := d }
    | none => none)

/-! ## The monitors (R38, R86) -/

/-- R86: key generation `g` of a context, derived from the key drawn at ADMIT and the generation number (8 bytes, log entry
101). -/
def State.generationKey (s : State) (ctxid g : Nat) : List Byte := shake256 (s.mon.keys.get ctxid [] ++ leBytes 8 g)

/-- A generation of a context's key takes the place of the one before the last. -/
def State.installKey (s : State) (ctxid g : Nat) : State :=
  { s with mon := { s.mon with genKeys := s.mon.genKeys.put (2 * ctxid + g % 2) (s.generationKey ctxid g) } }

/-- R86: generation `x` (0: the next) of the key of context `at_` is installed in every network interface of its partition; 0 is the
monitor's own key, which messages of no context travel under (log entry 136). -/
def execKeyGenerationInstall (s : State) : Outcome :=
  runEvent (fun ev s =>
    let old := s.keygenOf ev.at_
    let g := if ev.x = 0 then old + 1 else max old ev.x
    let live := (s.mon.keys.look ev.at_).isSome
    let s := if g = old ∨ ¬ live then s else s.installKey ev.at_ g
    { s with mon := { s.mon with keygen := s.mon.keygen.put ev.at_ g } }) s

/-- What another device says of its job's partitions (kind 6) and devices (8 and 9): the job is known here by it, and markers go on
to what has been added (R185). -/
def State.jobWords (s : State) (m : Msg) (kind v : Nat) : State :=
  let n := foreignJobNo m
  let j := s.foreignJob m
  let k := match kind with
    | 6 => { j with parts := j.parts ||| v }
    | 8 => { j with devmask := j.devmask ||| v }
    | _ => { j with devmask := j.devmask ||| v * 2 ^ 32 }
  let s := ({ s with jobs := s.jobs.put n k }).bindParts n k
  match j.current with
  | none => s
  | some g =>
    if k.parts = j.parts ∧ k.devmask = j.devmask then s
    else
      let key := (n, g.gen)
      let anew := fun (w : Nat × Switch) => (w.1, { w.2 with seen := w.2.seen.filter (fun x => x != key) })
      let s := { s with switches := s.switches.map anew }
      let mk := markerMsg s.devId 0x800 m.sdev (j.home % 4096) 0 ((onesOf k.parts 32).getD 0 0) j.handle g.gen
      s.post .switchReceive { Ev.zero with at_ := hubRoot, x := 192, msg := mk }

/-- MON (R38; its layouts belong to Pewter, log entry 17): 1 installs the next generation of a context's key; 2 asks for a rollback, and 10 says that it
has reached step 6; 3 says that a generation is sealed, 4 that it failed, 7 that its counts are equal; 5 is a half word of a part
of a manifest; 6, 8 and 9 say what belongs to a job; another kind waits for the monitor. -/
def execMon (s : State) : Outcome :=
  takeMsgAt (fun _ m s =>
    let w := m.payload.getD 0 0
    let g := bits w 31 0
    let ask := fun (i : Instr) (y z : Nat) => match s.jobByHandle m with
      | some (n, _) => s.post i { Ev.zero with at_ := n, x := g, y := y, z := z }
      | none => s
    match bits w 63 56 with
    | 1 => s.post .keyGenerationInstall { Ev.zero with at_ := g % 65536 }
    | 2 => ask .jobRollbackRequest m.sdev 0
    | 3 => ask .snapshotSeal 0 0
    | 4 => ask .snapshotFail (bits w 39 32) 1
    | 5 => (match s.jobByHandle m with
      | some (n, _) => s.takePart n m.sdev (bits w 55 32) g
      | none => s)
    | 6 => s.jobWords m 6 g
    | 7 => ask .snapshotSeal 1 0
    | 8 => s.jobWords m 8 g
    | 9 => s.jobWords m 9 g
    | 10 => (match s.jobByHandle m with
      | some (n, _) => s.noteRolled n m.sdev
      | none => s)
    | _ => { s with mon := { s.mon with inbox := s.mon.inbox ++ [m] } }) s

end Sys2Proof.Machine
end

