-- ==== Sys2Proof/Machine/Host.lean ====
section
/-! DEFINITION. The host interface (R59 to R69): queue registers, the states of a queue, the start and the completion of
packets, and the packets that start no task. -/

namespace Sys2Proof.Machine

/-! ## Queue pages (R59, R61) -/

/-- The number of a queue with a context: BOUND and the CTXID of OWNER. -/
def HostQueue.bound (q : HostQueue) : Bool := q.owner / 65536 % 2 == 1

/-- SUP of OWNER (R68). -/
def HostQueue.sup (q : HostQueue) : Bool := q.owner / 2 ^ 17 % 2 == 1

/-- CTXID of OWNER. -/
def HostQueue.ctxid (q : HostQueue) : Nat := q.owner % 65536

/-- The function of a queue's context; a queue with no context is the physical function's. -/
def State.queueVf (s : State) (q : Nat) : Nat := match s.proc? (s.queue q).ctxid with
  | some p => p.vf
  | none => 0

/-- Whether a queue is there (R12, R19): a host queue is absent with its block; a device-side queue is an object. -/
def State.hasQueue (s : State) (q : Nat) : Bool := 32768 ≤ q || s.boot.blocks.testBit (q / 1024)

/-- The queue that page `at_` of function `z` maps (R59): every queue on the physical function, and on a virtual one those bound
to its contexts, in ascending number; a page of an absent block maps none. -/
def State.pageQueue (s : State) (ev : Ev) : Option Nat :=
  let q := if ev.z = 0 then (if ev.at_ < 32768 then some ev.at_ else none)
    else
      let mine := s.queues.filter (fun q => q.1 < 32768 && q.2.bound && s.queueVf q.1 == ev.z)
      if ev.at_ < 1024 then mine[ev.at_]?.map (fun q => q.1) else none
  q.filter s.hasQueue

/-- The value that a register write carries. -/
def Ev.value (ev : Ev) : Nat := (ev.words.getD 0 0).toNat

/-- Whether a host access is of a whole aligned doubleword (R59): the second word, where there is one, is its size in bytes. -/
def Ev.whole (ev : Ev) : Bool := ev.words.getD 1 8 == 8

/-- Whether the host reaches the device: step 6 of R17 has released the link. -/
def State.linkOpen (s : State) : Bool := 6 ≤ s.boot.step

/-- Run an access of the host; before step 6 of R17 none arrives. -/
def onHost (f : Ev → State → State) (s : State) : Outcome := runEvent (fun ev s => if s.linkOpen then f ev s else s) s

/-- Run a register access on the queue its page maps; a page that maps none discards it, and so does an access that is no whole
doubleword (R59). -/
def onQueue (f : Ev → Nat → HostQueue → State → State) (s : State) : Outcome :=
  onHost (fun ev s => match s.pageQueue ev with
    | some q => if ev.whole then f ev q (s.queue q) s else s
    | none => s) s

/-- A queue enters ERROR (R63). -/
def State.queueError (s : State) (q code : Nat) : State := s.modQueue q (fun k => { k with qstate := 4, ecode := code })

/-- A queue that drains is DISABLED once nothing of it is left (R63). -/
def HostQueue.settled (k : HostQueue) : HostQueue :=
  if k.qstate = 3 ∧ k.running.isEmpty ∧ k.waiting.isEmpty then { k with qstate := 0 } else k

/-- R62: the host writes TAIL. -/
def execTailWrite (s : State) : Outcome :=
  onQueue (fun ev q k s =>
    let v := ev.value
    let n := 2 ^ (k.ringcfg % 32)
    if 2 ^ 32 ≤ v then s
    else if n < (v + 2 ^ 32 - k.head) % 2 ^ 32 ∨ n < (v + 2 ^ 32 - k.tail) % 2 ^ 32 then s.queueError q 1
    else s.modQueue q (fun k => { k with tail := v })) s

/-- R60: the host writes CPLHEAD. -/
def execCplheadWrite (s : State) : Outcome :=
  onQueue (fun ev q _ s => if 2 ^ 32 ≤ ev.value then s else s.modQueue q (fun k => { k with cplhead := ev.value })) s

/-- R60: a one in STATUS.CFGREJ clears it; the rest of STATUS is read-only, and a set bit of the reserved [6:3] discards the write. -/
def execStatusClear (s : State) : Outcome :=
  onQueue (fun ev q _ s => if ev.value.testBit 7 && ev.value / 8 % 16 == 0 then s.modQueue q (fun k => { k with cfgrej := false }) else s) s

/-- R63 ENABLE: the configuration is checked. -/
def execQueueEnable (s : State) : Outcome :=
  onQueue (fun _ q k s =>
    let size := fun (cfg : Nat) => decide (4 ≤ cfg % 32 ∧ cfg % 32 ≤ 16)
    if k.qstate != 0 then s
    else if k.bound && size k.ringcfg && size k.cplcfg && k.ringbase != 0 && k.cplbase != 0 then s.modQueue q (fun k => { k with qstate := 1 })
    else s.queueError q 5) s

/-- R63 PAUSE. -/
def execQueuePause (s : State) : Outcome :=
  onQueue (fun _ q k s => if k.qstate = 1 then s.modQueue q (fun k => { k with qstate := 2 }) else s) s

/-- R63 RESUME. -/
def execQueueResume (s : State) : Outcome :=
  onQueue (fun _ q k s => if k.qstate = 2 then s.modQueue q (fun k => { k with qstate := 1 }) else s) s

/-- R63 DISABLE. -/
def execQueueDisable (s : State) : Outcome :=
  onQueue (fun _ q k s =>
    if k.qstate = 1 ∨ k.qstate = 2 then s.modQueue q (fun k => HostQueue.settled { k with qstate := 3 }) else s) s

/-- R63 RESET: HEAD takes TAIL and STATUS is cleared; packets that had not started complete with ABORTED, each as its record
finds a slot (R64). -/
def execQueueReset (s : State) : Outcome :=
  onQueue (fun _ q k s =>
    if k.qstate = 4 then
      s.modQueue q (fun k => { k with
        head := k.tail, qstate := 0, ecode := 0, cfgrej := false, waiting := k.waiting.map (fun p => { p with aborted := true }) })
    else s) s

/-- Whether the private half of a queue is closed to an access (R61); bit 0 of `y` is the trusted attribute. -/
def State.privateShut (s : State) (q : Nat) (ev : Ev) : Bool :=
  (s.queue q).owner / 2 ^ 18 % 2 == 1 && s.hostSide.tdi.get (s.queueVf q) 0 == 2 && ev.y % 2 == 0

/-- A configuration register of a queue, by its offset, takes a value. -/
def HostQueue.setReg (k : HostQueue) (off v : Nat) : HostQueue :=
  match off with
  | 0x800 => { k with ringbase := v }
  | 0x808 => { k with ringcfg := v }
  | 0x810 => { k with cplbase := v }
  | 0x818 => { k with cplcfg := v }
  | _ => k

/-- R60, R61: a write to the private half, at byte offset `x`; `y` / 2 is the requester. One of a half that is closed is logged,
whatever its offset and size. -/
def execQueueConfigWrite (s : State) : Outcome :=
  onHost (fun ev s => match s.pageQueue ev with
    | none => s
    | some q =>
    let k := s.queue q
    let v := ev.value
    let rsvOk := match ev.x with
      | 0x800 => v % 4096 == 0
      | 0x808 => v < 256
      | 0x810 => v % 4096 == 0
      | 0x818 => v < 65536
      | _ => false
    if s.privateShut q ev then s.audit 1 (ev.y / 2) q (word ev.x)
    else if !ev.whole then s
    else if ev.x != 0x800 && ev.x != 0x808 && ev.x != 0x810 && ev.x != 0x818 then s
    else if k.qstate != 0 then s.modQueue q (fun k => { k with cfgrej := true })
    else if !rsvOk then s
    else s.modQueue q (fun k => k.setReg ev.x v)) s

/-! ## Other registers (R26, R46, R47, R73, R90) -/

/-- The allow-list of a protected function's telemetry (R90). -/
def telAllowed (i : Nat) : Bool := i ≤ 4 || i == 0x10 || i == 0x11 || i == 0x20 || (0x30 ≤ i && i ≤ 0x33)

/-- Whether a function has a protected context and a TDI in RUN (R90). -/
def State.protectedVf (s : State) (vf : Nat) : Bool :=
  s.hostSide.tdi.get vf 0 == 2 && s.queues.any (fun q => q.2.bound && q.2.owner / 2 ^ 18 % 2 == 1 && s.queueVf q.1 == vf)

/-- What a host read answers. -/
def State.answerRead (s : State) (v : Word) : State := { s with hostSide := { s.hostSide with regRead := v } }

/-- A register of TELDATA (R90): junction temperatures and the module's power are what the sensors say at the moment, which no
rule gives (log entry 103); 0x20 is the boot status register. -/
def State.telemetry (s : State) (i : Nat) : Word × State :=
  if i ≤ 4 ∨ i = 0x10 then s.free else (if i = 0x20 then s.bootStatus else word (s.mon.counters.get i 0), s)

/-- R60: the register at byte offset `off` of the page of queue `q` as the host reads it: a write-only one and a reserved offset
read zero. -/
def HostQueue.reg (k : HostQueue) (off : Nat) : Nat :=
  match off with
  | 0x000 => k.tail
  | 0x008 => k.head
  | 0x010 => k.cplhead
  | 0x018 => k.cpltail
  | 0x020 => k.ecode * 256 + b2n k.cfgrej * 128 + k.qstate
  | 0x800 => k.ringbase
  | 0x808 => k.ringcfg
  | 0x810 => k.cplbase
  | 0x818 => k.cplcfg
  | 0x820 => k.owner
  | _ => 0

/-- A host read of the doubleword at byte offset `words[0]` of a queue page (R59 to R61): zero where the page maps no queue, and
for an access of another size; an untrusted one of a private half that is closed reads zero and is logged. -/
def State.pageRead (s : State) (ev : Ev) : State := match s.pageQueue ev with
  | none => s.answerRead 0
  | some q =>
    if 0x800 ≤ ev.value ∧ s.privateShut q ev then (s.answerRead 0).audit 1 (ev.y / 2) q (word ev.value)
    else if !ev.whole then s.answerRead 0
    else s.answerRead (word ((s.queue q).reg ev.value))

/-- A host read of a register that is no queue's, by its number in the register space of `execRegisterWrite`. -/
def State.regValue (s : State) (ev : Ev) : Word :=
  match ev.x with
  | 2 => word (s.routes.get ev.at_ 0)
  | 3 => word (s.owners.get ev.at_ 0)
  | 4 => word (s.mon.firewalls.get ev.at_ 0)
  | 5 => word (s.mon.pmasks.get ev.at_ 0)
  | 6 => word ((s.switch ev.at_).weight ev.at_ ev.value)
  | 8 => word (s.mon.telidx.get ev.z 0)
  | _ => 0

/-- R6, R59, R90: the host reads a register. `x` says which: 0 TELDATA of function `z`; 1 the doubleword at offset `words[0]` of
page `at_` of function `z`; others as `State.regValue` has them. Bit 0 of `y` is the trusted attribute, `y` / 2 the requester. -/
def execTeldataRead (s : State) : Outcome :=
  onHost (fun ev s =>
    match ev.x with
    | 0 =>
      let i := s.mon.telidx.get ev.z 0
      if s.protectedVf ev.z && ev.y % 2 == 0 && !telAllowed i then (s.answerRead 0).audit 2 (ev.y / 2) i 0
      else (s.telemetry i).2.answerRead (s.telemetry i).1
    | 1 => s.pageRead ev
    | _ => s.answerRead (s.regValue ev)) s

/-- A firewall register after a write (R73): LOCK freezes every field but SHADOW, which no write changes. -/
def fwctlWrite (old v : Nat) : Nat :=
  if old / 128 % 2 = 1 ∨ 2 ^ 13 ≤ v ∨ v / 16 % 8 ≠ 0 then old
  else v - v / 256 % 2 * 256 + old / 256 % 2 * 256

/-- The event of a CMD of CTRL (R60): 0, 6 and 7 are ignored. -/
def ctrlEvent (cmd : Nat) : Option Instr :=
  match cmd with
  | 1 => some .queueEnable
  | 2 => some .queuePause
  | 3 => some .queueResume
  | 4 => some .queueDisable
  | 5 => some .queueReset
  | _ => none

/-- A host write of `words[0]` to offset `x` of a queue page (R60): the write is that of the register there; one to CTRL with a
reserved bit set is discarded, and so is one to a read-only register or a reserved offset. -/
def State.pageWrite (s : State) (ev : Ev) : State :=
  match ev.x with
  | 0x000 => s.post .tailWrite ev
  | 0x010 => s.post .cplheadWrite ev
  | 0x020 => s.post .statusClear ev
  | 0x028 => if 8 ≤ ev.value then s else match ctrlEvent ev.value with
    | some i => s.post i ev
    | none => s
  | x => if 0x800 ≤ x ∧ x < 0x1000 then s.post .queueConfigWrite ev else s

/-- A write of `v` to register `x`, or `y` of `x`, of kind `n`, as `execRegisterWrite` numbers them. -/
def State.setUnitReg (s : State) (n x y v : Nat) : State :=
  match n with
  | 1 => if 65536 ≤ v then s else { s with mon := { s.mon with telidx := s.mon.telidx.put x v } }
  | 2 => if 64 ≤ x ∨ 65536 ≤ v ∨ v / 8192 % 4 ≠ 0 then s else { s with routes := s.routes.put x v }
  | 3 => if 64 ≤ v then s else { s with owners := s.owners.put x v }
  | 4 => (match s.mon.firewalls.look x with
    | some w => { s with mon := { s.mon with firewalls := s.mon.firewalls.put x (fwctlWrite w v) } }
    | none => s)
  | 5 => (match s.mon.firewalls.look x with
    | some w => if w / 128 % 2 = 1 ∨ 2 ^ 32 ≤ v then s
      else { s with mon := { s.mon with pmasks := s.mon.pmasks.put x v } }
    | none => s)
  | 6 => if v = 0 ∨ 8 < v then s else s.modSwitch x (fun k => { k with weights := k.weights.put y v })
  | _ => s

/-- R6: a write of value `words[0]` to a register by `at_`: 1 TELIDX of function `x` (R90); 2 route entry `x` (R26); 3 the owner
register `x`, spine × 16 + port − 32 (R47); 4 FWCTL and 5 FWPART of cluster `x` (R73); 6 WEIGHT of input `y` of switch `x` (R46);
from 0x10000 on, offset `x` of page `at_` − 0x10000 of function `z` (R60). A set reserved bit discards the write. Every other
register is read-only. Registers 2 to 6 lie in the monitor's configuration space: with `z` 0 it is the monitor that writes; a host
writes none of them (R26). -/
def execRegisterWrite (s : State) : Outcome :=
  onHost (fun ev s =>
    let v := ev.value
    if 2 ≤ ev.at_ ∧ ev.at_ ≤ 6 ∧ ev.z ≠ 0 then s
    else if 0x10000 ≤ ev.at_ then s.pageWrite { ev with at_ := ev.at_ - 0x10000 }
    else s.setUnitReg ev.at_ ev.x ev.y v) s

/-! ## Reading the ring (R63) -/

/-- Whether the host aborts an access at an IOVA (R52). -/
def State.hostAborts (s : State) (iova : Nat) : Bool := s.hostSide.denied.contains (iova / 65536)

/-- A running queue has a packet to take. -/
def HostQueue.takes (k : HostQueue) : Bool := k.qstate == 1 && k.head != k.tail && !k.retiring

/-- R63: queue `at_` takes the packet at HEAD; a failed read is ECODE 2. -/
def execTakePacket (s : State) : Outcome :=
  runEvent (fun ev s =>
    let q := ev.at_
    let k := s.queue q
    let a := k.ringbase + k.head % 2 ^ (k.ringcfg % 32) * 64
    if !k.takes then s
    else if s.hostAborts a then s.queueError q 2
    else
      let ws := (List.range 8).map (fun i => word (s.host.getLE (a + 8 * i) 8))
      s.modQueue q (fun k => { k with head := (k.head + 1) % 2 ^ 32, waiting := k.waiting ++ [⟨k.head, ws, 0, false⟩] })) s

/-- The queues that can take a packet. -/
def State.takers (s : State) : List Nat :=
  (s.queues.filter (fun q => q.1 < 32768 && s.hasQueue q.1 && q.2.takes)).map (fun q => q.1)

/-! ## The checks of a packet (R65 to R68) -/

/-- Word `i` of a packet. -/
def Packet.word (p : Packet) (i : Nat) : Word := p.words.getD i 0

/-- TYPE. -/
def Packet.type (p : Packet) : Nat := bits (p.word 0) 7 0

/-- CPL or IRQ (IRQ implies CPL). -/
def Packet.records (p : Packet) : Bool := bit (p.word 0) 9 || bit (p.word 0) 10

/-- The bits that the body of a type uses, word by word (R67). -/
def bodyMask (t : Nat) : List Nat :=
  match t with
  | 1 => [2 ^ 64 - 1, 2 ^ 64 - 2 ^ 38 + 0xFFFF0000, 2 ^ 64 - 0x10000, 2 ^ 64 - 1, 2 ^ 64 - 1, 0]
  | 2 => [0xFFFF * 2 ^ 48, 0, 0, 0, 0, 0]
  | 3 => [2 ^ 64 - 1, 2 ^ 64 - 1, 2 ^ 40 - 1, 2 ^ 64 - 2 ^ 32, 2 ^ 48 - 1, 2 ^ 48 - 1]
  | 4 => [0xFFFF * 2 ^ 48 + 0xFFFFFFFF, 0, 0, 0, 0, 0]
  | 5 => [0xFFFF * 2 ^ 48 + 0xFFFFFFFF, 0xFFFFFFFF, 0, 0, 0, 0]
  | 6 => [2 ^ 64 - 0x1000, 0xFFFFFFFF, 0, 0, 0, 0]
  | 7 => [0xFFFF * 2 ^ 48 + 0xFFFFFFFF, 0, 0, 0, 0, 0]
  | 8 => [2 ^ 64 - 1, 0xFFFF * 2 ^ 48 + 0xFFFFFFF000, 0xFFFFFF43FF, 0xFFFF * 2 ^ 48, 0xFFFF * 2 ^ 48 + 0x7FFF, 2 ^ 64 - 1]
  | 9 => [0xFFFF, 0, 0, 0, 0, 0]
  | _ => [0, 0, 0, 0, 0, 0]

/-- Whether a reserved bit of the common words or the body is set (R65). -/
def Packet.rsvBad (p : Packet) : Bool :=
  (p.word 0).toNat &&& 0xF100 != 0 || bits (p.word 7) 31 0 != 0 ||
    (List.range 6).any (fun i => (p.word (i + 1)).toNat ||| (bodyMask p.type).getD i 0 != (bodyMask p.type).getD i 0)

/-- Step 7 of R166 for the object that a packet acts on itself, a barrier, a job or a graph: each page of the bytes it uses is
mapped, and may be used so. -/
def State.packetPages (s : State) (ctxid : Nat) (e : Ent) (size : Nat) (use : Use) : Except Nat Unit :=
  let bad := (pageStarts ((e.base - s.mapBase ctxid e) % 65536) size).findSome? (fun d => match s.translate ctxid e d use 0 with
    | .ok _ => none
    | .error b => some b.cause)
  match bad with
  | some c => .error c
  | none => .ok ()

/-- A handle of a packet, checked as for an instruction (R66): the entry, or the cause code. A barrier, a job and a graph are checked
to their pages; the pages of the code, an argument, a plan and the two sides of a COPY are checked by what uses them (log entry
104). -/
def State.packetHandle (s : State) (ctxid index right off size : Nat) : Except Nat Ent :=
  if index = 0 then .error Cause.hInvalid
  else match s.checkEnt ctxid (s.indexHandle ctxid index) off ⟨[right], size, false, 0, false, .read⟩ with
    | .ok e => if e.fmt = 15 ∧ right ≠ rR ∧ right ≠ rW then .error Cause.hInvalid
      else if right = rS ∨ right = rJ then (s.packetPages ctxid e size .write).map (fun _ => e)
      else .ok e
    | .error b => .error b.cause

/-- The status and RESULT0 that end a packet at its checks. -/
abbrev Refused := Nat × Nat

/-- A handle check as a check of the packet: HANDLE with the cause. -/
def ofHandle {α : Type} (r : Except Nat α) : Except Refused Unit := match r with
  | .ok _ => .ok ()
  | .error c => .error (5, c)

/-- A value check: BAD_PARAM. -/
def valueOk (b : Bool) : Except Refused Unit := if b then .ok () else .error (3, 0)

/-- The handle CBAR, unless it is 0. -/
def State.cbarOk (s : State) (ctxid : Nat) (p : Packet) : Except Refused Unit :=
  let h := bits (p.word 0) 31 16
  if h = 0 then .ok () else ofHandle (s.packetHandle ctxid h rS 0 16)

/-- Handles that may be 0 for none. -/
def State.optHandle (s : State) (ctxid index right size : Nat) : Except Refused Unit :=
  if index = 0 then .ok () else ofHandle (s.packetHandle ctxid index right 0 size)

/-- The cores that a block range and two masks name, in ascending number (R109). -/
def placementOf (w : Word) : List Nat :=
  ((List.range (bits w 42 38 + 1)).map (fun b => bits w 47 43 + b)).flatMap (fun b =>
    (onesOf (bits w 31 24) 8).flatMap (fun cl => (onesOf (bits w 23 16) 8).map (fun k => b * 64 + cl * 8 + k)))

/-- A node descriptor (R112), or the body of a LAUNCH (R67, R109). -/
def nodeOf (ws : List Word) : Node :=
  let w := fun i => ws.getD i 0
  { code := bits (w 0) 63 48, entry := bits (w 0) 47 0, plan := bits (w 1) 63 48, cores := placementOf (w 1),
    slotw := bits (w 1) 15 0, count := bits (w 2) 63 32, argh := bits (w 2) 31 16, arg0 := w 3, arg1 := w 4,
    ins := ([bits (w 5) 63 48, bits (w 5) 47 32, bits (w 5) 31 16, bits (w 5) 15 0].filter (fun h => h != 0)).map (fun h => (h, 0)),
    out := bits (w 6) 63 48, outGen := 0, started := 0, done := 0, finished := false }

/-- Whether a cluster is of the firmware column (R72). -/
def State.columnCluster (s : State) (cl : Nat) : Bool := (s.mon.firewalls.look cl).isSome

/-- The value checks of a node (R67, R72, R109). -/
def State.nodeValues (s : State) (part : Nat) (n : Node) : Bool :=
  n.count != 0 && n.entry % 4 == 0 && !n.cores.isEmpty &&
    n.cores.all (fun c => (s.part part).blocks.testBit (c / 64) && !s.columnCluster (c / 8)) &&
    (n.slotw == 0 || n.cores.length % n.slotw == 0)

/-- The handle checks of a node, in the order they stand. -/
def State.nodeHandles (s : State) (ctxid : Nat) (n : Node) : Except Refused Unit := do
  ofHandle (s.packetHandle ctxid n.code rX 0 0)
  s.optHandle ctxid n.plan rR 0
  s.optHandle ctxid n.argh rR 0
  for b in n.ins do s.optHandle ctxid b.1 rS 16
  s.optHandle ctxid n.out rS 16

/-- Whether a descriptor has reserved bits set (R112). -/
def descriptorRsv (ws : List Word) : Bool :=
  bits (ws.getD 1 0) 37 32 != 0 || bits (ws.getD 2 0) 15 0 != 0 || bits (ws.getD 6 0) 47 0 != 0 || ws.getD 7 0 != 0

/-- Eight words of an object of a context, from a byte offset. -/
def State.objWords (s : State) (ctxid index off : Nat) : List Word := (List.range 8).map (fun i => s.devWord ctxid index (off + 8 * i))

/-- Run a check over a list. -/
def checkAll {α : Type} (f : α → Except Refused Unit) : List α → Except Refused Unit
  | [] => .ok ()
  | x :: t => match f x with
    | .ok _ => checkAll f t
    | .error e => .error e

/-- The handle of a graph for its first `size` bytes, with their pages. -/
def State.graphBytes (s : State) (ctxid h size : Nat) : Except Refused Unit := do
  ofHandle (s.packetHandle ctxid h rR 0 size)
  match s.liveEnt ctxid h with
  | some e => ofHandle (s.packetPages ctxid e size .read)
  | none => .ok ()

/-- The nodes of a graph object whose handle has been checked, with the further checks of R112 in order. -/
def State.graphNodes (s : State) (part ctxid h : Nat) : Except Refused (List Node) := do
  s.graphBytes ctxid h 64
  let hd := s.objWords ctxid h 0
  let n := bits (hd.getD 0 0) 15 0
  valueOk (bits (hd.getD 0 0) 63 16 == 0 && (hd.drop 1).all (fun w => w == 0) && 1 ≤ n && n ≤ 1024)
  s.graphBytes ctxid h (64 * (n + 1))
  let ds := (List.range n).map (fun i => s.objWords ctxid h (64 * (i + 1)))
  checkAll (fun d => do
    valueOk (!descriptorRsv d && s.nodeValues part (nodeOf d))
    s.nodeHandles ctxid (nodeOf d)) ds
  .ok (ds.map nodeOf)

/-- The words of a LAUNCH as a descriptor. -/
def Packet.launchNode (p : Packet) : Node := nodeOf ((List.range 5).map (fun i => p.word (i + 1)))

/-- Rows of a COPY: 0 counts as 1. -/
def Packet.copyRows (p : Packet) : Nat := max 1 (bits (p.word 4) 63 32)

/-- Bytes that a COPY spans on a side with a stride. -/
def Packet.copySpan (p : Packet) (stride : Nat) : Nat :=
  if bits (p.word 3) 39 0 = 0 then 0 else (p.copyRows - 1) * stride + bits (p.word 3) 39 0

/-- Bytes of tier 0 of a partition on its table die. -/
def State.tableBytes (s : State) (part : Nat) : Nat := ((s.part part).slices.get (s.part part).tableDie []).length * 2 ^ 31

/-- Whether the account and codebook tables of an ADMIT lie in the partition's tier 0. -/
def State.tablesIn (s : State) (part : Nat) (p : Packet) : Bool :=
  let cb := bits (p.word 6) 63 32
  let ac := bits (p.word 6) 31 0
  cb != 0 && ac != 0 && decide (cb * 131072 + 131072 ≤ s.tableBytes part) && decide (ac * 1024 + 1024 ≤ s.tableBytes part)

/-- Whether the queues of an ADMIT lie in the partition and are not bound. -/
def State.queuesFree (s : State) (part : Nat) (p : Packet) : Bool :=
  let n := bits (p.word 5) 63 48
  let q := bits (p.word 5) 14 0
  1 ≤ n && n ≤ 1024 && q + n ≤ 32768 &&
    (List.range (n / 1024 + 2)).all (fun i => q / 1024 + i > (q + n - 1) / 1024 || (s.part part).blocks.testBit (q / 1024 + i)) &&
    !s.queues.any (fun k => q ≤ k.1 && k.1 < q + n && k.2.bound)

/-- The pages of capacity channels that no context can reserve: those of the CXL.mem window, at most 1 TiB over the 128 channels
(R33). -/
def State.windowPages (s : State) (chans : List Nat) : Nat :=
  if s.boot.cxl then (chans.map (fun x => s.boot.window.getD x 0)).sum else 0

/-- Pages of a tier that a partition's present channels hold, but for the monitor's store (R72), the CXL.mem window (R33), and those
reserved. The monitor's store of a die is taken from the partition that holds the column's block (log entry 145). -/
def State.freePages (s : State) (part tier : Nat) : Int :=
  let p := s.part part
  let ctxs := (s.procs.filter (fun c => c.2.part == part && !c.2.retired)).map (fun c => c.2)
  if tier = 0 then
    let n := (p.slices.flatMap (fun d => d.2.filter (fun x => s.boot.blocks.testBit (x / 8) && s.boot.hbm.testBit x))).length
    let store := (s.mon.firewalls.map (fun f => f.1 / 64)).eraseDups.filter (fun d =>
      s.mon.firewalls.any (fun f => f.1 / 64 == d && p.blocks.testBit (f.1 / 8)))
    (32768 * n : Int) - (16384 * store.length : Int) - ((ctxs.map (fun c => c.resH)).sum : Int)
  else
    let chans := p.chans.filter (fun x => s.boot.blocks.testBit (x / 4) && s.boot.cap.testBit x)
    (262144 * chans.length : Int) - (s.windowPages chans : Int) - ((ctxs.map (fun c => c.resC)).sum : Int)

/-- The partition of a queue: that of its block, or of its context for a device-side queue. -/
def State.queuePart (s : State) (q : Nat) : Nat :=
  if q < 32768 then s.partOfBlock (q / 1024) else match s.proc? (s.queue q).ctxid with
    | some p => p.part
    | none => 0

/-- Whether the device is in minimal mode (R78). -/
def State.minimal (s : State) : Bool := s.boot.phase == .minimal

/-- Whether a live context belongs to another partition than `part`: no queue of the partition retires it (R68). -/
def State.elsewhere (s : State) (part ctxid : Nat) : Bool := match s.proc? ctxid with
  | some c => !c.retired && c.part != part
  | none => false

/-- The checks of a packet in the order of R65; the nodes of a task. RETIRE of an unknown context, ADMIT with WEIGHT 0 or a VF
above 512: log entry 128. A device-side queue refuses every type but 0 to 5 and 7 with PRIV (R294). In minimal mode queue 0 refuses
other types with PRIV and a COPY to another handle with HANDLE (log entry 143). -/
def State.checkPacket (s : State) (q : Nat) (p : Packet) : Except Refused (List Node) := do
  let k := s.queue q
  let t := p.type
  let ctxid := k.ctxid
  let part := s.queuePart q
  let w := p.word
  if 9 < t then .error (if 65536 ≤ q then 4 else 2, 0) else .ok ()
  valueOk (!p.rsvBad)
  let priv := if 65536 ≤ q then t == 6 || t == 8 || t == 9
    else if s.minimal then t != 0 && t != 3 && t != 6
    else if t = 6 ∨ t = 8 then !k.sup
    else t == 9 && (if k.sup then s.elsewhere part (bits (w 1) 15 0) else bits (w 1) 15 0 != ctxid)
  if priv then .error (4, 0) else .ok ()
  match t with
  | 1 => do
    s.nodeHandles ctxid p.launchNode
    s.cbarOk ctxid p
    valueOk (s.nodeValues part p.launchNode)
    .ok [p.launchNode]
  | 2 => do
    ofHandle (s.packetHandle ctxid (bits (w 1) 63 48) rR 0 0)
    s.cbarOk ctxid p
    s.graphNodes part ctxid (bits (w 1) 63 48)
  | 3 => do
    if s.minimal then (if bits (w 2) 63 48 == 0xFFFF then .ok () else .error (5, Cause.hInvalid))
    else
      ofHandle (s.packetHandle ctxid (bits (w 1) 63 48) rR (bits (w 1) 47 0) (p.copySpan (bits (w 5) 47 0)))
      ofHandle (s.packetHandle ctxid (bits (w 2) 63 48) rW (bits (w 2) 47 0) (p.copySpan (bits (w 6) 47 0)))
    s.cbarOk ctxid p
    .ok []
  | 4 => do
    ofHandle (s.packetHandle ctxid (bits (w 1) 63 48) rS 0 16)
    s.cbarOk ctxid p
    .ok []
  | 5 => do
    ofHandle (s.packetHandle ctxid (bits (w 1) 63 48) rS 0 16)
    s.cbarOk ctxid p
    .ok []
  | 7 => do
    ofHandle (s.packetHandle ctxid (bits (w 1) 63 48) rJ 0 64)
    s.cbarOk ctxid p
    .ok []
  | 8 => do
    s.cbarOk ctxid p
    valueOk (bits (w 4) 63 48 != 0 && bits (w 3) 31 16 != 0 && bits (w 3) 9 0 ≤ 512 && s.tablesIn part p && s.queuesFree part p)
    .ok []
  | 9 => do
    s.cbarOk ctxid p
    valueOk (match s.proc? (bits (w 1) 15 0) with
      | some c => c.part == part && !c.retired
      | none => false)
    .ok []
  | _ => do
    s.cbarOk ctxid p
    .ok []

/-! ## The start of a packet (R64, R65) -/

/-- Whether the ring of completion records is full for the next start (R64). -/
def HostQueue.recordsFull (k : HostQueue) : Bool :=
  (k.cpltail + k.rsv + 2 ^ 32 - k.cplhead) % 2 ^ 32 == 2 ^ (k.cplcfg % 32)

/-- A packet of a queue can only complete with ABORTED (R63): the queue has left RUNNING for good, or its context retires. -/
def HostQueue.aborts (k : HostQueue) (p : Packet) : Bool := k.retiring || p.aborted || (k.qstate != 1 && k.qstate != 2)

/-- The next packet of a queue when nothing holds its start (R63, R64): a WAIT, a FENCE, a full ring, or PAUSED. Only a full ring
holds up the packets of a retiring context. -/
def HostQueue.nextStart (k : HostQueue) (host : Bool) : Option Packet := match k.waiting with
  | [] => none
  | p :: _ =>
    let held := (k.qstate == 2 && !p.aborted) || k.running.any (fun r => r.pkt.type == 5) || (bit (p.word 0) 11 && !k.running.isEmpty)
    if (held ∧ ¬ k.retiring) ∨ (host ∧ k.recordsFull) then none else some p

/-- The event of a packet type. -/
def packetEvent (t : Nat) : Instr :=
  match t with
  | 0 => .nopPacket
  | 1 => .launch
  | 2 => .graph
  | 3 => .copy
  | 4 => .signal
  | 5 => .waitPacket
  | 6 => .resync
  | 7 => .snapshot
  | 8 => .admitPacket
  | _ => .retire

/-- The first present cluster of a partition. -/
def State.firstCluster (s : State) (part : Nat) : Nat := 8 * ((searchUp (fun b => (s.part part).blocks.testBit b) 32 0).getD 0)

/-- The first cluster of a partition on a die that accepts work (R16). -/
def State.coolCluster (s : State) (part : Nat) : Option Nat :=
  (searchUp (fun b => (s.part part).blocks.testBit b && !s.hot.testBit (b / 8)) 32 0).map (fun b => 8 * b)

/-- R16: a COPY waits to start while every die of its partition is too hot for work. -/
def State.tooHot (s : State) (q : Nat) (p : Packet) : Bool :=
  p.type == 3 && !s.minimal && (s.coolCluster (s.queuePart q)).isNone && (onesOf (s.part (s.queuePart q)).blocks 32).length != 0

/-- R293: HEAD of a device-side queue object moves on when the dispatcher takes its packet. -/
def State.headOn (s : State) (q : Nat) : State :=
  if q < 65536 then s else match s.queueOf (q / 65536 - 1) (q % 65536) with
    | some (d, h) => s.putTailHead h d.tail (d.head + 1)
    | none => s

/-- R65: the next packet of queue `at_` starts: it is checked, and its effect or its failure follows. -/
def execPacketStart (s : State) : Outcome :=
  runEvent (fun ev s =>
    let q := ev.at_
    let k := s.queue q
    match k.nextStart (q < 65536) with
    | none => s
    | some p =>
      if s.tooHot q p && !k.aborts p then s
      else
      let order := s.nextPkt
      let slot := if p.records ∧ q < 65536 then 1 else 0
      let s := { s.modQueue q (fun k => { k with
        waiting := k.waiting.drop 1, running := k.running ++ [⟨p, 0, s.clk⟩], rsv := k.rsv + slot, lastStart := order }) with nextPkt := order + 1 }
      let s := s.headOn q
      let over_ := fun (st r : Nat) => s.post .packetComplete { Ev.zero with at_ := q, x := p.idx, y := st, z := r }
      if k.aborts p then over_ 10 0
      else match s.checkPacket q p with
        | .error (st, r) => over_ st r
        | .ok _ => s.post (packetEvent p.type) { Ev.zero with at_ := q, x := p.idx }) s

/-- A started packet. -/
def State.runningPkt (s : State) (q idx : Nat) : Option Running := (s.queue q).running.find? (fun r => r.pkt.idx == idx)

/-- Whether a status leaves RESULT0 unstated (R67, R69). -/
def openResult (st : Nat) : Bool := st == 2 || st == 3 || st == 4 || st == 7 || st == 9 || st == 10

/-- The MSI-X vector of a queue (R60): one of 2,048 on the physical function, of 32 on a virtual one (log entry 105). -/
def State.vectorOf (s : State) (q : Nat) : Nat := (s.queue q).cplcfg / 32 % (if s.queueVf q = 0 then 2048 else 32)

/-- The completion record of a packet (R69), and its MSI-X vector; a write that the host aborts is ECODE 3 on a queue that is
RUNNING or PAUSED (R63). -/
def State.writeRecord (s : State) (q : Nat) (p : Packet) (st : Nat) (result : Word) : State :=
  let k := s.queue q
  let m := 2 ^ (k.cplcfg % 32)
  let c := k.cpltail
  let a := k.cplbase + c % m * 32
  if s.hostAborts a then (if k.qstate = 1 ∨ k.qstate = 2 then s.queueError q 3 else s)
  else
    let w0 := p.idx % 2 ^ 32 * 2 ^ 32 + st * 65536 + p.type * 256 + (c / m + 1) % 2
    let ws := [word w0, word (bits (p.word 7) 63 32 * 2 ^ 32), result, word s.time]
    let s := { s with host := s.host.putRange a (ws.flatMap (fun (w : Word) => leBytes 8 w.toNat)) }
    let s := s.modQueue q (fun k => { k with cpltail := (c + 1) % 2 ^ 32 })
    if bit (p.word 0) 10 then
      { s with hostSide := { s.hostSide with msix := s.hostSide.msix ++ [(s.queueVf q, s.vectorOf q)] } }
    else s

/-- A child of a task is over (R114): any status but OK is a fault of the child (R294). FAULT and HANDLE carry its cause in RESULT0; a
child that ends with another status has none, and the cause is a free value (log entry 111). -/
def State.childOver (s : State) (parent st result : Nat) : State := match s.tasks.look parent with
  | none => s
  | some t =>
    let (v, s) := if st = 0 ∨ st = 5 ∨ st = 6 then (word result, s) else s.free
    let fault := if t.childFault.isNone ∧ st ≠ 0 then some (v.toNat % 256) else t.childFault
    ({ s with tasks := s.tasks.put parent { t with children := t.children - 1, childFault := fault } }).post .instanceComplete
      { Ev.zero with at_ := parent, x := 2 }

/-- Nothing is left of a queue in ERROR. -/
def HostQueue.over_ (k : HostQueue) : Bool := k.qstate == 4 && k.running.isEmpty && k.waiting.isEmpty

/-- R65, R69: packet `x` of queue `at_` completes with status `y` and RESULT0 `z`: it arrives at CBAR, its record is written, and
its queue goes on. A queue that is absent with its block completes nothing (R12, R19). -/
def execPacketComplete (s : State) : Outcome :=
  runEvent (fun ev s =>
    let q := ev.at_
    match (if s.hasQueue q then s.runningPkt q ev.x else none) with
    | none => s
    | some r =>
      let p := r.pkt
      let ctxid := (s.queue q).ctxid
      let cbar := bits (p.word 0) 31 16
      let arrives := cbar != 0 && (match s.packetHandle ctxid cbar rS 0 16 with
        | .ok _ => true
        | .error _ => false)
      let (stale, s) := if arrives then s.arriveAt ctxid cbar (bits (p.word 0) 63 32) else (false, s)
      let st := if stale ∧ ev.y = 0 then 1 else ev.y
      let (v, s) := if openResult st then s.free else (word ev.z, s)
      let recorded := p.records && decide (q < 65536)
      let s := if recorded then s.writeRecord q p st v else s
      let s := s.modQueue q (fun k => { k with
        running := k.running.filter (fun o => o.pkt.idx != ev.x), rsv := k.rsv - (if recorded then 1 else 0) })
      let s := s.modQueue q (fun k => (if k.retiring then k.retire else k).settled)
      let s := if 65536 ≤ q ∧ (s.queue q).over_ then { s with queues := s.queues.del q } else s
      if p.parent = 0 then s else s.childOver p.parent st ev.z) s

/-- Complete a started packet. -/
def State.over_ (s : State) (q idx st result : Nat) : State :=
  s.post .packetComplete { Ev.zero with at_ := q, x := idx, y := st, z := result }

/-! ## Packets that start no task (R67) -/

/-- Run a packet's effect. -/
def onPacket (f : Nat → Running → State → State) (s : State) : Outcome :=
  runEvent (fun ev s => match s.runningPkt ev.at_ ev.x with
    | some r => f ev.at_ r s
    | none => s) s

/-- R67 NOP. -/
def execNopPacket (s : State) : Outcome := onPacket (fun q r s => s.over_ q r.pkt.idx 0 0) s

/-- R78: the recovery monitor clears the count of failed starts once the flash holds a table and an image that verify, for the
units that the fuses say are present: minimal mode alone leaves the others out of service. -/
def State.recovered (s : State) : State :=
  if ({ s with boot := s.boot.fused }).flashGood then { s with boot := { s.boot with fails := 0 } } else s

/-- R78: a COPY of minimal mode writes the firmware flash from host memory (log entry 21); a host abort is a fault. The recovery monitor
verifies the flash after each such COPY and at no other moment (log entry 146). -/
def State.writeFlash (s : State) (q : Nat) (p : Packet) : State :=
  let w := p.word
  let len := bits (w 3) 39 0
  let from_ := fun (i : Nat) => bits (w 1) 47 0 + i * bits (w 5) 47 0
  let flash := (List.range p.copyRows).foldl (fun (m : Mem) i =>
    m.putRange (bits (w 2) 47 0 + i * bits (w 6) 47 0) (s.host.getRange (from_ i) len)) s.boot.flash
  let refused := (List.range p.copyRows).any (fun i => s.hostSide.denied.any (fun d =>
    decide (d * 65536 < from_ i + len ∧ from_ i < (d + 1) * 65536)))
  let over_ := fun (s : State) (st r : Nat) => s.post .packetComplete { Ev.zero with at_ := q, x := p.idx, y := st, z := r }
  if refused then over_ s 6 Cause.remoteFail
  else over_ ({ s with boot := { s.boot with flash := flash } }).recovered 0 0

/-- R67 COPY: a copy-unit job of the partition; in minimal mode a COPY to 0xFFFF writes the firmware flash (R78). -/
def execCopy (s : State) : Outcome :=
  onPacket (fun q r s =>
    let p := r.pkt
    let w := p.word
    let ctxid := (s.queue q).ctxid
    let rows := p.copyRows
    let len := bits (w 3) 39 0
    if s.minimal then s.writeFlash q p
    else
      let cl := (s.coolCluster (s.queuePart q)).getD (s.firstCluster (s.queuePart q))
      let old := (s.jobsOf cl 16).filter (fun j => !j.done)
      let seq := old.foldl (fun a j => max a (j.seq + 1)) 1
      let j := { Job.new seq ctxid (cl * 8) (.packet q p.idx) 2 with
        srch := s.indexHandle ctxid (bits (w 1) 63 48), srcoff := bits (w 1) 47 0,
        dsth := s.indexHandle ctxid (bits (w 2) 63 48), dstoff := bits (w 2) 47 0,
        rows := rows, len := len, sstride := bits (w 5) 47 0, dstride := bits (w 6) 47 0 }
      s.setJobs cl 16 (old ++ [j])) s

/-- R67 SIGNAL. -/
def execSignal (s : State) : Outcome :=
  onPacket (fun q r s =>
    let w1 := r.pkt.word 1
    let (stale, s) := s.arriveAt (s.queue q).ctxid (bits w1 63 48) (bits w1 31 0)
    s.over_ q r.pkt.idx (b2n stale) 0) s

/-- Whether the barrier of a WAIT has released its generation. -/
def State.genReleased (s : State) (q : Nat) (p : Packet) : Bool :=
  let w1 := p.word 1
  (s.objGen (s.queue q).ctxid (bits w1 63 48) + 2 ^ 32 - bits w1 31 0 - 1) % 2 ^ 32 < 2 ^ 31

/-- R67 WAIT: complete once the generation is released; until then the packet stays started. -/
def execWaitPacket (s : State) : Outcome :=
  onPacket (fun q r s => if s.genReleased q r.pkt then s.over_ q r.pkt.idx 0 (bits (r.pkt.word 1) 31 0) else s) s

/-- The started WAITs of the queues that are there: (queue, packet). -/
def State.waitsRunning (s : State) : List (Nat × Running) :=
  (s.queues.filter (fun k => s.hasQueue k.1)).flatMap (fun k => (k.2.running.filter (fun r => r.pkt.type == 5)).map (fun r => (k.1, r)))

/-- The WAITs whose generation is released. -/
def State.waitsOver (s : State) : List (Nat × Nat) :=
  (s.waitsRunning.filter (fun w => s.genReleased w.1 w.2.pkt)).map (fun w => (w.1, w.2.pkt.idx))

/-- The WAITs whose time is out (R67): 1 µs is 1,880 fabric cycles. -/
def State.waitsLate (s : State) : List (Nat × Nat) :=
  (s.waitsRunning.filter (fun w => bits (w.2.pkt.word 2) 31 0 != 0 &&
    decide (bits (w.2.pkt.word 2) 31 0 * 1880 ≤ s.clk - w.2.since))).map (fun w => (w.1, w.2.pkt.idx))

/-- R67: WAIT `x` of queue `at_` has timed out: TIMEOUT, and the queue is in ERROR with ECODE 4, from whatever state it is in (log entry
144). -/
def execWaitTimeout (s : State) : Outcome :=
  onPacket (fun q r s => if q < 65536 then (s.over_ q r.pkt.idx 9 0).queueError q 4 else s.over_ q r.pkt.idx 9 0) s

/-- R67 SNAPSHOT: `snap` on the job by the dispatcher; it completes with the generation. -/
def execSnapshot (s : State) : Outcome :=
  onPacket (fun q r s =>
    let w1 := r.pkt.word 1
    let ctxid := (s.queue q).ctxid
    let h := bits w1 63 48
    let want := bits w1 31 0
    match s.liveEnt ctxid h, s.objHome ctxid h with
    | some e, some home =>
      let n := jobNo home
      let c := s.firstCluster (s.queuePart q) * 8
      let j := s.jobOf n ctxid h e (senderWord s.devId (niEndpoint (c / 8)))
      let gen := bits (s.jobWord j 0) 63 32
      let wait := fun (s : State) => s.modJob n (fun j => { j with waiters := j.waiters ++ [(q, r.pkt.idx)] })
      if gen ≠ want then s.over_ q r.pkt.idx 1 0
      else if !j.devmask.testBit s.devId then s.over_ q r.pkt.idx 5 Cause.hInvalid
      else if bits (s.jobWord j 1) 1 0 ≠ 0 then wait s
      else wait (s.startSnap n ctxid h e c)
    | _, _ => s.over_ q r.pkt.idx 5 Cause.hInvalid) s

/-- R67 RETIRE. -/
def execRetire (s : State) : Outcome :=
  onPacket (fun q r s => (s.retireContext (bits (r.pkt.word 1) 15 0)).over_ q r.pkt.idx 0 0) s

/-! ## ADMIT (R54, R55, R67, R83, R116) -/

/-- The process of a context in its partition's dispatcher: the weight is that of the newest ADMIT. -/
def admitProcess (ps : List Process) (vf proc weight : Nat) : List Process :=
  if ps.any (fun p => p.vf == vf && p.proc == proc) then
    ps.map (fun p => if p.vf = vf ∧ p.proc = proc then { p with weight := weight } else p)
  else ps ++ [⟨vf, proc, weight, 0, false⟩]

/-- Objects are allocated past the tables of an admitted context (log entry 13). -/
def Part.past (p : Part) (bytes : Nat) : Part :=
  let d := p.tableDie
  { p with nextH := p.nextH.put d (max (p.nextH.get d 0) (ceilDiv bytes 65536)) }

/-- R351: the save object of a context holds the images that its header counts. -/
def State.saveHolds (s : State) (ctxid : Nat) : Bool :=
  let n := bits (s.saveWord ctxid 0) 63 32
  match s.proc? ctxid with
  | none => false
  | some p => match s.liveEnt ctxid p.save with
    | none => false
    | some e => 1 ≤ n && n ≤ 65536 && 0x10000 + n * 0xC2000 ≤ e.len

/-- The CTXID of the next context: the next number of 16 bits that no context has (R67). -/
def State.freshCtx (s : State) : Nat :=
  ((searchUp (fun i => match s.proc? (1 + i % 65535) with
    | some p => p.retired
    | none => true) 65535 (s.nextCtx - 1)).map (fun i => 1 + i % 65535)).getD 1

/-- The keys of a new context are drawn (R81), and its first two generations stand in every network interface (R86). Its counters start
with its key (R37). -/
def State.drawKeys (s : State) (ctxid : Nat) : State :=
  let (k, s) := s.draw
  let (a, s) := s.draw
  let (b, s) := s.draw
  let s := { s with mon := { s.mon with keys := s.mon.keys.put ctxid k, xtsKeys := s.mon.xtsKeys.put ctxid (a, b) } }
  let s := { s with
    mctrs := s.mctrs.filter (fun c => c.1 / 4096 != ctxid), mon := { s.mon with keygen := s.mon.keygen.del ctxid } }
  (s.installKey ctxid 0).installKey ctxid 1

/-- R75: a virtual function is created with its first context, and pins one of the versions that the policy hosts hold; while they hold
none it pins none, and a later ADMIT of the function pins one (log entry 106). -/
def State.pinFunction (s : State) (vf : Nat) : State :=
  if vf = 0 ∨ s.mon.policies.isEmpty ∨ (s.mon.pins.look vf).isSome then s
  else
    let (v, s) := s.free
    match s.mon.policies[v.toNat % s.mon.policies.length]? with
    | some p => { s with mon := { s.mon with pins := s.mon.pins.put vf p.version } }
    | none => s

/-- R67 ADMIT: a context with its reservations, tables and queues, and its keys. A channel has an entry of its key table for each
context of the partition, and one for the monitor (R81, R88; log entry 107). -/
def execAdmitPacket (s : State) : Outcome :=
  onPacket (fun q r s =>
    let w := r.pkt.word
    let part := s.queuePart q
    let resH := bits (w 1) 63 32
    let resC := bits (w 1) 31 0
    let live := (s.procs.filter (fun c => c.2.part == part && !c.2.retired)).length
    if s.freePages part 0 < (resH : Int) ∨ s.freePages part 1 < (resC : Int) ∨ 1023 ≤ live then s.over_ q r.pkt.idx 7 0
    else
      let id := s.freshCtx
      let otlen := bits (w 2) 63 48 + 1
      let otbase := bits (w 2) 39 12 * 4096
      let cb := bits (w 6) 63 32 * 131072
      let ac := bits (w 6) 31 0 * 1024
      let (m, d) := extendMeas measZero 9 ((List.range 5).flatMap (fun i => leBytes 8 (w (i + 1)).toNat))
      let prot := bit (w 3) 14
      let c : Proc := ⟨part, bits (w 3) 39 32, bits (w 3) 9 0, bits (w 3) 31 16, prot, resH, resC, 0, 0, otbase, otlen,
        bits (w 6) 31 0, bits (w 6) 63 32, bits (w 4) 63 48, bits (w 5) 14 0, bits (w 5) 63 48, [], [], m, false, 0, []⟩
      let mem := (s.mem.clearRange (s.tableKey part ac) 1024).clearRange (s.tableKey part cb) 131072
      let owner := 65536 + id + b2n prot * 2 ^ 18
      let queues := (List.range c.qcount).foldl (fun (qs : NMap HostQueue) i =>
        qs.put (c.qfirst + i) { (qs.get (c.qfirst + i) HostQueue.zero) with owner := owner }) s.queues
      let t := { s with
        procs := s.procs.put id c, mem := mem, queues := queues, nextCtx := id + 1,
        mon := { s.mon with
          measLog := s.mon.measLog ++ [(6 + 65536 * id, 9, d)] } }
      if !t.saveHolds id then s.over_ q r.pkt.idx 7 0
      else
        let t := t.modPart part (fun p => { (((p.past (otbase + 64 * otlen)).past (cb + 131072)).past (ac + 1024)) with
          procs := admitProcess p.procs c.vf c.proc c.weight })
        ((t.drawKeys id).pinFunction c.vf).over_ q r.pkt.idx 0 id) s

end Sys2Proof.Machine
end

