-- ==== Sys2Proof/Machine/Monitor.lean ====
section
/-! DEFINITION. The monitor calls (R76) and the update of Pewter (R77). A forwarded call is an event: core `at_` and context `x`
that wait for it, xd in `y`, and x1 to x8 in `words`. -/

namespace Sys2Proof.Machine

/-! ## The form of a call (R76) -/

/-- Argument `i` of a call. -/
def Ev.arg (ev : Ev) (i : Nat) : Word := ev.words.getD (i - 1) 0

/-- A call returns: its values go to x1 and on, its status to xd, and the `trap` retires. -/
def State.callReturn (s : State) (ev : Ev) (st : Nat) (vals : List Word) : State :=
  if (s.ctx ev.at_ ev.x).wait = some .monitor then
    s.asCtx ev.at_ ev.x (fun s =>
      let s := vals.zipIdx.foldl (fun s v => s.setX (BitVec.ofNat 5 (v.2 + 1)) v.1) s
      ((s.setX (BitVec.ofNat 5 ev.y) (word st)).modCur (fun x => { x with wait := none })).retire)
  else s

/-- What a call answers: its status, its values, and the state. -/
abbrev Answer := Nat × List Word × State

/-- Serve a call: one for the physical function's supervisor alone answers 0xFE to another. -/
def callMonitor (pf : Bool) (f : Ev → Nat → Proc → State → Answer) (s : State) : Outcome :=
  runEvent (fun ev s =>
    let ctxid := s.ctxidOf ev.at_
    match s.proc? ctxid with
    | none => s
    | some p =>
      if pf && p.vf != 0 then s.callReturn ev 0xFE []
      else
        let r := f ev ctxid p s
        r.2.2.callReturn ev r.1 r.2.1) s

/-- The entry that a handle argument names: steps 1 to 3 of R166; a gang window is no object of the monitor's. -/
def State.callEnt (s : State) (ctxid : Nat) (w : Word) (rights : List Nat) : Option Ent :=
  let h := hword w
  if h.rsv then none
  else match s.liveEnt ctxid h.index with
    | none => none
    | some e => if e.fmt = 15 ∨ (h.gv ∧ h.gen ≠ e.gen) ∨ !rights.all (fun r => e.rights.testBit r) then none else some e

/-- Whether a context is one of a function's (R76). -/
def State.contextOf (s : State) (ctxid vf : Nat) : Bool := match s.proc? ctxid with
  | some p => p.vf == vf && !p.retired
  | none => false

/-! ## Partitions (R95 to R98) -/

/-- R96 PART_CREATE. -/
def execPartCreate (s : State) : Outcome :=
  callMonitor true (fun ev _ _ s =>
    let n := (ev.arg 1).toNat
    let blocks := (ev.arg 2).toNat
    let ports := (ev.arg 3).toNat
    if 32 ≤ n ∨ 2 ^ 32 ≤ blocks ∨ 2 ^ 47 ≤ ports ∨ ports % 2 ^ 32 ≠ 0 then (0xFC, [], s)
    else match s.createBad n blocks (ports / 2 ^ 32) with
      | some st => (st, [], s)
      | none => (0, [], s.createPart n blocks (ports / 2 ^ 32))) s

/-- R98 PART_RESET. With `z` 1 the monitor itself resets partition `x` (R101). -/
def execPartReset (s : State) : Outcome :=
  if s.ev.z = 1 then runEvent (fun ev s => s.resetPart ev.x) s
  else callMonitor true (fun ev _ _ s =>
    let n := (ev.arg 1).toNat
    if (s.parts.look n).isSome then (0, [], s.resetPart n) else (2, [], s)) s

/-- R97 PART_DESTROY. -/
def execPartDestroy (s : State) : Outcome :=
  callMonitor true (fun ev _ _ s =>
    let n := (ev.arg 1).toNat
    if (s.parts.look n).isSome then (0, [], s.destroyPart n) else (2, [], s)) s

/-! ## Banks and maps (R170, R348) -/

/-- R170 BANKS. A bank that leaves a context holds no line of it, so there is nothing to zero (R89). -/
def execBanks (s : State) : Outcome :=
  callMonitor false (fun ev _ p s =>
    let id := (ev.arg 1).toNat
    let b := (ev.arg 2).toNat
    let mask := (ev.arg 3).toNat
    let op := (ev.arg 4).toNat
    if 2 ^ 48 ≤ mask ∨ 1 < op then (0xFC, [], s)
    else if !s.contextOf id p.vf then (3, [], s)
    else match s.proc? id with
      | none => (3, [], s)
      | some c =>
        let old := c.banks.get b 0
        let others := s.procs.any (fun o => o.1 != id && !o.2.retired && o.2.banks.get b 0 &&& mask != 0)
        let carries := c.vcs.any (fun v => v.2.blocks.testBit b && v.2.banks &&& mask != 0)
        if 32 ≤ b ∨ !(s.part c.part).blocks.testBit b ∨ !s.boot.blocks.testBit b then (2, [], s)
        else if op = 0 then
          if others then (1, [], s) else (0, [], s.modProc id (fun c => { c with banks := c.banks.put b (old ||| mask) }))
        else if carries then (1, [], s)
        else (0, [], s.modProc id (fun c => { c with banks := c.banks.put b (old - (old &&& mask)) }))) s

/-- The translation caches of a partition drop an object's entries, and its stores leave the write queues (R348); a host page that
the object's map no longer names loses its home (R49). -/
def State.dropMap (s : State) (part ctxid : Nat) (e : Ent) : State :=
  let keys := (pageStarts (e.base - s.mapBase ctxid e) e.len).map (fun d => s.pteKey ctxid e d)
  let here := fun (cl : Nat) => s.partOfBlock (cl / 8) == part
  let old := s.clusters.flatMap (fun k => keys.filterMap (fun d => k.2.tcache.look d))
  let now := keys.map (fun d => word (s.mem.getLE d 8))
  let stays := fun (w : Word) => now.any (fun v => bit v 63 && bits v 59 58 == 2 && bits v 39 0 == bits w 39 0)
  let s := { s with hostHomes := old.foldl (fun m w => if bits w 59 58 = 2 ∧ ¬ stays w then m.del (bits w 39 0) else m) s.hostHomes }
  let s := s.mapClusters here (fun k => { k with tcache := keys.foldl (fun m d => m.del d) k.tcache })
  s.cores.foldl (fun s k => if s.ctxidOf k.1 = ctxid then s.drainThrough k.1 (fun w => w.handle == e.index) else s) s

/-- Whether an access that may have used an old entry of an object is not performed yet: of a lattice entry, a request, a piece of a
copy or a multicast. A write to another device, which may be the write-back of a line of any object, counts. -/
def State.oldAccess (s : State) (ctxid index : Nat) : Bool :=
  s.cores.any (fun k => s.ctxidOf k.1 == ctxid &&
    ((k.2.lq ++ k.2.inflight).any (fun e => (e.index == index && !e.homes.isEmpty) || e.spans.any (fun p => p.ent.index == index)) ||
      s.remotes.any (fun r => r.core == k.1 && (r.handle == index || r.msg.op == 0x03)))) ||
    s.clusters.any (fun k => k.2.jobs.any (fun q => q.2.any (fun j => j.ctxid == ctxid && !j.done && j.tag != 0 &&
      (j.srch.index.toNat == index || j.dsth.index.toNat == index)))) ||
    s.slices.any (fun k => k.2.records.any (fun r => r.ctxid == ctxid && r.handle == index))

/-- R348 MAP_FLUSH: the call stays with the monitor until every old access has been performed. -/
def execMapFlush (s : State) : Outcome :=
  runEvent (fun ev s =>
    let ctxid := s.ctxidOf ev.at_
    match s.proc? ctxid, s.callEnt ctxid (ev.arg 1) [] with
    | some p, some e =>
      let s := s.dropMap p.part ctxid e
      if s.oldAccess ctxid e.index then
        if s.mon.flushes.contains ev then s else { s with mon := { s.mon with flushes := s.mon.flushes ++ [ev] } }
      else ({ s with mon := { s.mon with flushes := s.mon.flushes.filter (fun f => f != ev) } }).callReturn ev 0 []
    | _, _ => ({ s with mon := { s.mon with flushes := s.mon.flushes.filter (fun f => f != ev) } }).callReturn ev 0xFD []) s

/-- The flushes that can return. -/
def State.flushesOver (s : State) : List Ev :=
  s.mon.flushes.filter (fun ev => !s.oldAccess (s.ctxidOf ev.at_) (hword (ev.arg 1)).index)

/-! ## Reports and the audit ring (R84, R91) -/

/-- Bytes cut or padded with zeros to a length. -/
def sized (n : Nat) (b : List Byte) : List Byte := b.take n ++ List.replicate (n - b.length) 0

/-- R84: a report on a context, with its signature. -/
def State.report (s : State) (ctxid : Nat) (p : Proc) (nonce : List Byte) : List Byte :=
  let len := 0x238 + Config.sigLength
  let body := leBytes 8 (2 ^ 32 + len) ++ s.deviceIdBytes ++ leBytes 8 (s.mon.debugOpen * 256 + s.boot.lifecycle) ++
    leBytes 8 s.mon.version ++ leBytes 8 s.mon.tabver ++
    leBytes 8 (b2n p.prot * 2 ^ 31 + p.vf % 1024 * 2 ^ 21 + p.part % 32 * 2 ^ 16 + ctxid) ++ nonce ++
    (List.range 6).flatMap s.meas ++ p.cmeas ++ leBytes 8 Config.sigLength
  body ++ sized Config.sigLength (Config.falconSign s.mon.reportKey body)

/-- R84 REPORT. -/
def execReport (s : State) : Outcome :=
  callMonitor false (fun ev ctxid p s =>
    let id := (ev.arg 1).toNat
    match s.proc? id, s.callEnt ctxid (ev.arg 2) [rR], s.callEnt ctxid (ev.arg 4) [rW] with
    | some c, some src, some dst =>
      let from_ := (ev.arg 3).toNat
      let at_ := (ev.arg 5).toNat
      if !s.contextOf id p.vf then (1, [], s)
      else if src.len < from_ + 64 then (0xFC, [], s)
      else
        let b := s.report id c (s.devRead ctxid src.index from_ 64)
        if dst.len < at_ + b.length then (2, [], s) else (0, [word b.length], s.devWrite ctxid dst.index at_ b)
    | none, _, _ => (1, [], s)
    | some _, _, _ => if s.contextOf id p.vf then (0xFD, [], s) else (1, [], s)) s

/-- R84: the report requests that are in progress are abandoned, as a debug unlock or a handover begins: each returns RETRY. -/
def State.abandonReports (s : State) : State :=
  let asked := (s.agenda.filter (fun a => a.1 == .report)).map (fun a => a.2)
  asked.foldl (fun s ev => s.callReturn ev 5 []) { s with agenda := s.agenda.filter (fun a => a.1 != .report) }

/-- An entry of the audit ring as its 32 bytes. -/
def Audit.bytes (a : Audit) : List Byte := leBytes 8 a.time ++ leBytes 8 a.arg0.toNat ++ leBytes 8 a.arg1.toNat ++ leBytes 8 0

/-- R91 AUDIT_READ: the oldest entries move to the destination, as many as are asked for and as it holds. -/
def execAuditRead (s : State) : Outcome :=
  callMonitor true (fun ev ctxid _ s =>
    match s.callEnt ctxid (ev.arg 1) [rW] with
    | none => (0xFD, [], s)
    | some e =>
      let off := (ev.arg 2).toNat
      let n := min (min (ev.arg 3).toNat s.mon.audit.length) ((e.len - off) / 32)
      if e.len < off then (0xFC, [], s)
      else
        let lost := s.mon.auditLost
        let s := s.devWrite ctxid e.index off ((s.mon.audit.take n).flatMap Audit.bytes)
        (0, [word n, word lost], { s with mon := { s.mon with audit := s.mon.audit.drop n, auditLost := 0 } })) s

/-! ## Pewter and policy images (R75, R77) -/

/-- The outcome of an update that fails: FW_UPDATE at the supervisor of the caller. -/
def State.updateFailed (s : State) (ctxid why : Nat) : State := s.notice ctxid Cause.fwUpdate (word why) 0xFFFF 0

/-- R77 PEWTER_UPDATE: steps 1 to 3. -/
def execPewterUpdate (s : State) : Outcome :=
  callMonitor true (fun ev ctxid _ s =>
    match s.callEnt ctxid (ev.arg 1) [rR] with
    | none => (0xFD, [], s)
    | some e =>
      let b := imageOfBytes (s.objectBytes ctxid e)
      if s.mon.staged.isSome then (6, [], s)
      else if !s.mon.roles.any (fun r => r.2 == 2) then (7, [], s)
      else if !s.imageSigned b then (0, [], s.updateFailed ctxid 1)
      else if imageVersion b ≤ s.mon.version ∨ imageVersion b < s.cfg 0x28 8 then (0, [], s.updateFailed ctxid 2)
      else (0, [], { s with mon := { s.mon with staged := some (ctxid, b) } })) s

/-- A staged image can take over: no call is in progress (R77 step 4). -/
def State.quiescent (s : State) : Bool := s.mon.staged.isSome && s.mon.flushes.isEmpty && s.agenda.isEmpty

/-- R77 steps 4 to 6; with `x` 1 the shadows fail to initialise the image (step 3). -/
def execPewterHandover (s : State) : Outcome :=
  runEvent (fun ev s => match s.mon.staged with
    | none => s
    | some (ctxid, b) =>
      let s := { s with mon := { s.mon with staged := none } }
      if ev.x = 1 then s.updateFailed ctxid 3
      else
        let s := s.abandonReports
        (({ s with mon := { s.mon with version := imageVersion b } }).handOverRoles.extendReg 2 0x0A b).deriveReport) s

/-- R75 POLICY_LOAD. A version that is held already stays as it is. -/
def execPolicyLoad (s : State) : Outcome :=
  callMonitor true (fun ev ctxid _ s =>
    match s.callEnt ctxid (ev.arg 1) [rR] with
    | none => (0xFD, [], s)
    | some e =>
      let b := imageOfBytes (s.objectBytes ctxid e)
      let v := imageVersion b
      if !s.imageSigned b then (1, [], s)
      else if s.mon.policies.any (fun p => p.version == v) then (0, [word v], s)
      else if 8 ≤ s.mon.policies.length then (3, [], s)
      else
        let held := s.mon.policies ++ [Policy.mk v b]
        (0, [word v], ({ s with mon := { s.mon with policies := held } }).extendReg 3 5 (b ++ leBytes 8 v))) s

/-- R75 POLICY_UNLOAD. -/
def execPolicyUnload (s : State) : Outcome :=
  callMonitor true (fun ev _ _ s =>
    let v := (ev.arg 1).toNat
    if s.mon.pins.any (fun p => p.2 == v) then (4, [], s)
    else (0, [], { s with mon := { s.mon with policies := s.mon.policies.filter (fun p => p.version != v) } })) s

/-- R75 POLICY_PIN: it takes effect at the function's next period; until then a faulted image stays without effect. -/
def execPolicyPin (s : State) : Outcome :=
  callMonitor true (fun ev _ _ s =>
    let vf := (ev.arg 1).toNat
    let v := (ev.arg 2).toNat
    if !s.functionLives vf || !s.mon.policies.any (fun p => p.version == v) then (2, [], s)
    else (0, [], { s with mon := { s.mon with
      pins := s.mon.pins.put vf v, repinned := s.mon.repinned.filter (fun n => n != vf) ++ [vf] } })) s

/-! ## Error injection (R416) -/

/-- R416: the doubleword of a home is poisoned; it counts as a write of it. -/
def State.poisonHome (s : State) (h : Home) : State :=
  match h with
  | .mem k => ((s.cowPage k).markPage k).markHome h 1
  | _ => s.markHome h 1

/-- R416 ERRINJ. A page of another device has no home slice here: status 2. -/
def execErrinj (s : State) : Outcome :=
  callMonitor false (fun ev ctxid _ s =>
    match s.callEnt ctxid (ev.arg 1) [rW] with
    | none => (1, [], s)
    | some e =>
      let off := (ev.arg 2).toNat
      if off % 8 ≠ 0 ∨ e.len ≤ off then (2, [], s)
      else match s.translate ctxid e off .write 0 with
        | .error _ => (2, [], s)
        | .ok (.peer ..) => (2, [], s)
        | .ok h =>
          let leaf := e.leaf ev.at_
          let la := (e.base + off) / 128
          let s := s.drainThrough ev.at_ (fun w => w.oaddr / 128 == la)
          let s := s.coloured ev.at_ ctxid leaf la (fun s => s.pathClean ev.at_ ctxid leaf la)
          (0, [], s.poisonHome h)) s

end Sys2Proof.Machine
end

