-- ==== Sys2Proof/Machine/Debug.lean ====
section
/-! DEFINITION. The debug port (R94). -/

namespace Sys2Proof.Machine

/-- The highest debug level of a lifecycle state (R80). -/
def maxLevel (lcs : Nat) : Nat := if lcs = 1 then 2 else 3

/-- The bytes of a token: `z` of them, in `words`. -/
def Ev.token (ev : Ev) : List Byte := (ev.words.flatMap (fun w => leBytes 8 w.toNat)).take ev.z

/-- R94 steps 3 and 4: whether a token opens the port against a nonce. -/
def State.tokenOk (s : State) (t nonce : List Byte) : Bool :=
  let lv := leNat ((t.drop 9).take 1)
  let n := leNat ((t.drop 48).take 2)
  t.take 8 == s.deviceIdBytes && leNat ((t.drop 8).take 1) == s.boot.lifecycle && 1 ≤ lv && lv ≤ 3 &&
    (t.drop 10).take 6 == List.replicate 6 0 && (t.drop 16).take 32 == nonce && t.length == 50 + n &&
    Config.falconVerify s.debugKey (t.take 50) (t.drop 50) && lv ≤ maxLevel s.boot.lifecycle

/-- An audit entry whose SRC, WHERE and ADDR the spec does not give (log entry 6). -/
def State.auditFree (s : State) (kind : Nat) : State :=
  let (v, s) := s.free
  let (a, s) := s.free
  s.audit kind (bits v 31 16) (bits v 15 0) a

/-- R94 step 8: every bank, local memory, tile and register frame of the device is zero, whoever holds its block. -/
def State.zeroAll (s : State) : State :=
  let s := (List.range 32).foldl (fun s b => s.zeroBlock b) s
  { s.mapVcs (fun _ => true) Vc.emptied with lmem := Mem.empty, tiles := Mem.empty, slots := Mem.empty }

/-- R94 steps 6 to 11. A context whose keys are erased can run nothing more: it retires (log entry 24). -/
def State.openPort (s : State) (t : List Byte) : State :=
  let lv := leNat ((t.drop 9).take 1)
  let s := s.abandonReports
  let s := s.parts.foldl (fun s p => s.resetPart p.1) s
  let s := (s.procs.filter (fun c => !c.2.retired)).foldl (fun s c => s.retireContext c.1) s
  let s := { s with mon := { s.mon with
    keys := s.mon.keys.filter (fun k => k.1 == 65536), genKeys := [], xtsKeys := [], reportKey := [] } }
  let s := s.zeroAll
  let s := (s.extendReg 5 8 (leBytes 1 lv ++ t)).auditFree 6
  let s := s.deriveReport
  { s with mon := { s.mon with debugOpen := lv } }

/-- R94 steps 2 to 11: a token arrives; the nonce is used, whatever follows. -/
def execDebugToken (s : State) : Outcome :=
  runEvent (fun ev s =>
    let fresh := s.mon.nonceFresh
    let s := { s with mon := { s.mon with nonceFresh := false } }
    if fresh && s.tokenOk ev.token s.mon.debugNonce then s.openPort ev.token else s.auditFree 5) s

/-- A line of a cache, found by its object address. -/
def lineAt (ls : List CLine) (addr : Nat) : Option CLine := ls.find? (fun l => l.la == addr / 128)

/-- A doubleword of a line written. -/
def CLine.poke (l : CLine) (addr : Nat) (v : Word) : CLine :=
  let i := addr % 128 / 8 * 8
  { l with data := l.data.take i ++ leBytes 8 v.toNat ++ l.data.drop (i + 8) }

/-- The memories of the device by number (R94): 0 tiers 0 and 1, 1 local memory, 2 tiles, 3 weight slots; 4 the lines that the banks
hold of virtual cache `y` / 2^48 % 64 of context `y` / 2^54, by object address; 5 and 6 the L1 data and instruction lines of a
core. -/
def State.debugRead (s : State) (core n y : Nat) : Nat :=
  let line := fun (ls : List CLine) => match lineAt ls (y % 2 ^ 48) with
    | some l => leNat ((l.data.drop (y % 128 / 8 * 8)).take 8)
    | none => 0
  match n with
  | 0 => s.mem.getLE y 8
  | 1 => s.lmem.getLE y 8
  | 2 => s.tiles.getLE y 8
  | 3 => s.slots.getLE y 8
  | 4 => (match s.vc (y / 2 ^ 54) (y / 2 ^ 48 % 64) with
    | some v => line v.lines
    | none => 0)
  | 5 => line (s.core core).l1
  | 6 => line (s.core core).l1i
  | _ => 0

/-- The same memories written; a line that no cache holds takes nothing. -/
def State.debugWrite (s : State) (core n y : Nat) (v : Word) : State :=
  let put := fun (ls : List CLine) => ls.map (fun l => if l.la = y % 2 ^ 48 / 128 then l.poke y v else l)
  match n with
  | 0 => { s with mem := s.mem.putLE y 8 v.toNat }
  | 1 => { s with lmem := s.lmem.putLE y 8 v.toNat }
  | 2 => { s with tiles := s.tiles.putLE y 8 v.toNat }
  | 3 => { s with slots := s.slots.putLE y 8 v.toNat }
  | 4 => s.modProc (y / 2 ^ 54) (fun p => { p with vcs := p.vcs.map (fun w =>
      if w.1 = y / 2 ^ 48 % 64 then (w.1, { w.2 with lines := put w.2.lines }) else w) })
  | 5 => s.modCore core (fun k => { k with l1 := put k.l1 })
  | 6 => s.modCore core (fun k => { k with l1i := put k.l1i })
  | _ => s

/-- The registers of a context by number: 0 to 31 x registers, 32 the pc, 33 whether it is live, 64 to 79 the handle registers as
handle words, 96 to 127 the x registers of its core's supervisor frame, from 0x1000 on the control registers. -/
def State.debugReg (s : State) (c i y : Nat) : Word :=
  let x := s.ctx c i
  if y < 32 then (x.regs[y]?).getD 0
  else if y = 32 then x.pc
  else if y = 33 then b2w x.live
  else if 64 ≤ y ∧ y < 80 then (let h := (x.h[y - 64]?).getD Handle.zero; handleWord h.index.toNat h.gen.toNat)
  else if 96 ≤ y ∧ y < 128 then ((s.core c).sregs[y - 96]?).getD 0
  else if 0x1000 ≤ y then ({ s with cur := (c, i) }).csr (y - 0x1000)
  else 0

/-- The same registers written, each under its own rules: x0 and the read-only ones take nothing. -/
def State.debugSetReg (s : State) (c i y : Nat) (v : Word) : State :=
  if y = 0 then s
  else if y < 32 then s.modCtx c i (fun x => { x with regs := x.regs.setIfInBounds y v })
  else if y = 32 then s.modCtx c i (fun x => { x with pc := v })
  else if 64 < y ∧ y < 80 then
    s.modCtx c i (fun x => { x with h := x.h.setIfInBounds (y - 64) ⟨BitVec.ofNat 16 (bits v 15 0), BitVec.ofNat 16 (bits v 31 16)⟩ })
  else if 96 < y ∧ y < 128 then s.modCore c (fun k => { k with sregs := k.sregs.setIfInBounds (y - 96) v })
  else if 0x1000 ≤ y then s.asCtx c i (fun s => s.setCsr (y - 0x1000) v false)
  else s

/-- A register outside the cores: `z` 1 that at offset `y` % 4096 of the page of queue `y` / 4096; others as `execRegisterWrite` has
them, `y` / 65536 and `y` % 65536 their two numbers. -/
def State.debugUnit (s : State) (z y : Nat) : Word :=
  if z = 1 then word ((s.queue (y / 4096)).reg (y % 4096))
  else s.regValue { Ev.zero with x := z, at_ := y / 65536, z := y / 65536, words := [word (y % 65536)] }

/-- The same register written; those of a queue that the port can change are the ones of its private half. -/
def State.debugSetUnit (s : State) (z y : Nat) (v : Word) : State :=
  if z = 1 then s.modQueue (y / 4096) (fun k => k.setReg (y % 4096) v.toNat) else s.setUnitReg z (y / 65536) (y % 65536) v.toNat

/-- What the port hands out. -/
def State.debugSay (s : State) (w : Word) : State := { s with mon := { s.mon with debugOut := s.mon.debugOut ++ [w] } }

/-- DBGNONCE as four doublewords (R94 step 1). -/
def State.sayNonce (s : State) : State :=
  (List.range 4).foldl (fun s i => s.debugSay (word (leNat ((s.mon.debugNonce.drop (8 * i)).take 8)))) s

/-- A new nonce is published (R94 step 1). -/
def State.newNonce (s : State) : State :=
  let (b, s) := s.draw
  { s with mon := { s.mon with debugNonce := sized 32 b, nonceFresh := true } }

/-- The level that a command needs (R94): none to publish and to read a nonce; counters and trace at level 1; halting at level 2, at
level 3 in the firmware column; memories and registers at level 3. -/
def State.debugNeeds (s : State) (cmd core : Nat) : Nat :=
  if cmd = 0 ∨ cmd = 11 then 0
  else if cmd = 8 ∨ cmd = 12 then 1
  else if cmd ≤ 5 then (if (s.mon.roles.look (core / 8)).isSome then 3 else 2)
  else 3

/-- R94: a command of the debug port for core `at_`: `x` is 0 to publish a nonce, 1 halt, 2 single-step, 3 resume, 4 and 5 arm and
disarm break-halt, 6 and 7 read and write the doubleword `y` of memory `z`, 8 read counter `y`, 9 and 10 read and write register
`y` of context `z`, 11 read DBGNONCE, 12 read the trace of context `z`: where it stands, and how many instructions it has
retired; 13 and 14 read and write register `y` of kind `z` outside the cores (log entry 24). -/
def execDebugPortCommand (s : State) : Outcome :=
  runEvent (fun ev s =>
    let v := ev.words.getD 0 0
    if s.mon.debugOpen < s.debugNeeds ev.x ev.at_ then s
    else match ev.x with
      | 0 => s.newNonce
      | 1 => s.modCore ev.at_ (fun k => { k with debugHalt := true })
      | 2 => s.modCore ev.at_ (fun k => if k.debugHalt then { k with debugHalt := false, debugStep := true } else k)
      | 3 => s.modCore ev.at_ (fun k => { k with debugHalt := false, debugStep := false })
      | 4 => { s with mon := { s.mon with debugArm := true } }
      | 5 => { s with mon := { s.mon with debugArm := false } }
      | 6 => s.debugSay (word (s.debugRead ev.at_ ev.z ev.y))
      | 7 => s.debugWrite ev.at_ ev.z ev.y v
      | 8 => s.debugSay (word (s.mon.counters.get ev.y 0))
      | 9 => s.debugSay (s.debugReg ev.at_ ev.z ev.y)
      | 10 => s.debugSetReg ev.at_ ev.z ev.y v
      | 11 => s.sayNonce
      | 13 => s.debugSay (s.debugUnit ev.z ev.y)
      | 14 => s.debugSetUnit ev.z ev.y v
      | 12 => (s.debugSay (s.ctx ev.at_ ev.z).pc).debugSay (s.ctx ev.at_ ev.z).instret
      | _ => s) s

end Sys2Proof.Machine
end

