-- ==== Sys2Proof/Machine/Resync.lean ====
section
/-! DEFINITION. The RESYNC summary (R70). -/

namespace Sys2Proof.Machine

/-- Bytes padded with zeros to a multiple of `n`. -/
def padTo (n : Nat) (bs : List Byte) : List Byte := bs ++ List.replicate ((n - bs.length % n) % n) 0

/-- Section 0: one entry of 64 bytes. -/
def State.presenceEntry (s : State) : List Byte := padTo 64 s.presence

/-- Section 1: a partition. -/
def State.partEntry (s : State) (n : Nat) (p : Part) : List Byte :=
  let vfs := ((s.procs.filter (fun c => c.2.part == n && !c.2.retired && c.2.vf != 0)).map (fun c => c.2.vf)).eraseDups.length
  leBytes 4 (n % 32) ++ leBytes 4 p.blocks ++ leBytes 8 (s.freePages n 0).toNat ++ leBytes 8 (s.freePages n 1).toNat ++
    leBytes 2 vfs ++ leBytes 2 p.ports ++ leBytes 4 0

/-- Section 2: a bound queue. -/
def queueEntry (n : Nat) (q : HostQueue) : List Byte :=
  leBytes 2 n ++ leBytes 2 q.ctxid ++ leBytes 1 q.qstate ++ leBytes 1 q.ecode ++ leBytes 2 0 ++ leBytes 4 q.head ++ leBytes 4 q.tail

/-- Section 3: an instance, or a node with instances that have not started. -/
def taskEntry (id ctxid node inst core st : Nat) : List Byte :=
  leBytes 4 id ++ leBytes 2 ctxid ++ leBytes 2 node ++ leBytes 4 inst ++ leBytes 2 core ++ leBytes 1 st ++ leBytes 1 0

/-- The entries of a task. -/
def State.taskEntries (s : State) (t : Task) : List (List Byte) :=
  ((s.insts.filter (fun i => i.2.task == t.id)).map (fun i =>
    taskEntry t.id t.ctxid i.2.node i.2.index (i.2.cores.getD 0 0) (if i.2.st = .saved then 1 else 0))) ++
  (t.nodes.zipIdx.filter (fun n => n.1.started < n.1.count)).map (fun n =>
    taskEntry t.id t.ctxid n.2 n.1.started (n.1.cores.getD 0 0) 2)

/-- Section 4: a fault. -/
def faultEntry (f : FaultRec) : List Byte :=
  leBytes 1 f.cause ++ leBytes 1 f.cls ++ leBytes 2 f.core ++ leBytes 2 f.ctxid ++ leBytes 2 0 ++ leBytes 8 f.eval.toNat

/-- Section 5: a context's reservation. -/
def reservationEntry (id : Nat) (p : Proc) : List Byte :=
  leBytes 2 id ++ leBytes 1 p.part ++ leBytes 5 0 ++ leBytes 8 p.resH ++ leBytes 8 p.resC ++ leBytes 4 p.usedH ++ leBytes 4 p.usedC

/-- Section 6: job number `n`: 0 idle, 1 a generation in progress, 2 a rollback that is due. -/
def State.jobEntry (s : State) (n : Nat) (j : JobState) : List Byte :=
  let rolls := s.agenda.any (fun a => a.1 == .jobRollbackRequest && a.2.at_ == n) || j.goal.isSome || j.roll.any (fun r => r.2.2 != 0)
  leBytes 2 j.owner ++ leBytes 2 j.handle ++ leBytes 4 (bits (s.jobWord j 0) 31 0) ++
    leBytes 1 (if rolls then 2 else if bits (s.jobWord j 1) 1 0 = 0 then 0 else 1) ++ leBytes 7 0

/-- Section 7: an image that runs. -/
def firmwareEntry (kind vf version : Nat) : List Byte :=
  leBytes 1 kind ++ leBytes 1 0 ++ leBytes 2 vf ++ leBytes 4 0 ++ leBytes 8 version

/-- The sections in directory order, each as its entries. -/
def State.sections (s : State) : List (List (List Byte)) :=
  [[s.presenceEntry],
   s.parts.map (fun p => s.partEntry p.1 p.2),
   (s.queues.filter (fun q => q.1 < 32768 && s.hasQueue q.1 && q.2.bound)).map (fun q => queueEntry q.1 q.2),
   s.tasks.flatMap (fun t => s.taskEntries t.2),
   s.mon.faults.map faultEntry,
   (s.procs.filter (fun c => !c.2.retired)).map (fun c => reservationEntry c.1 c.2),
   (s.jobs.filter (fun j => s.initiates j.2 && j.1 < 2 ^ 100)).map (fun j => s.jobEntry j.1 j.2),
   firmwareEntry 0 0 s.mon.version :: s.mon.pins.map (fun p => firmwareEntry 1 p.1 p.2)]

/-- The directory and the bytes of sections from an offset: each begins on a 64-byte boundary. -/
def layOut : Nat → List (List (List Byte)) → List Byte × List Byte
  | _, [] => ([], [])
  | off, es :: t =>
    let bytes := padTo 64 es.flatten
    let r := layOut (off + bytes.length) t
    (leBytes 8 (es.length * 2 ^ 32 + off) ++ r.1, bytes ++ r.2)

/-- The summary (R70). -/
def State.summary (s : State) : List Byte :=
  let (dir, body) := layOut 128 s.sections
  leBytes 8 (2 ^ 32 + 128 + body.length) ++ leBytes 8 s.bootStatus.toNat ++ leBytes 8 s.time ++ leBytes 8 0 ++ dir ++
    List.replicate 32 0 ++ body

/-- R67, R70 RESYNC: the summary is written to the host's buffer; a buffer that is too short takes nothing. One whose page the
host aborts takes nothing either (log entry 127). -/
def execResync (s : State) : Outcome :=
  onPacket (fun q r s =>
    let b := s.summary
    let a := bits (r.pkt.word 1) 63 12 * 4096
    if bits (r.pkt.word 2) 31 0 < b.length then s.over_ q r.pkt.idx 8 b.length
    else
      let s := if s.hostAborts a then s else { s with host := s.host.putRange a b }
      s.over_ q r.pkt.idx 0 b.length) s

end Sys2Proof.Machine
end

