-- ==== Sys2Proof/Machine/Dispatcher.lean ====
section
/-! DEFINITION. The dispatcher of a partition (R109 to R118): what can start, the choice of what starts, the start and the
completion of instances and tasks, and the time slices of functions. -/

namespace Sys2Proof.Machine

/-! ## Slots (R109, R110) -/

/-- A core has no task and its die and block take work. -/
def State.coreFree (s : State) (c : Nat) : Bool :=
  (s.core c).inst == 0 && !s.hot.testBit (c / 512) && s.boot.blocks.testBit (c / 64)

/-- A core is reserved for another item than `key`. -/
def Part.keptFrom (p : Part) (key c : Nat) : Bool := p.reserved.any (fun r => r.1 != key && r.2.contains c)

/-- A slot on which item `key` can start now. -/
def State.slotFree (s : State) (part key : Nat) (slot : List Nat) : Bool :=
  slot.all (fun c => s.coreFree c && !(s.part part).keptFrom key c)

/-- The first free slot of a list. -/
def State.freeSlot (s : State) (part key : Nat) (slots : List (List Nat)) : Option (List Nat) :=
  slots.find? (s.slotFree part key)

/-! ## What can start (R112, R113, R117, R120, R122) -/

/-- Something that can start: a packet (key 4q), the next instance of a node (key 4 (1024 task + node) + 1), or a saved
instance (key 4 inst + 2); its priority, its order, its queue, its process, and the slots that fit it. -/
structure Item where
  key   : Nat
  prio  : Nat
  order : Nat
  queue : Nat
  vf    : Nat
  proc  : Nat
  slots : List (List Nat)
  deriving DecidableEq, Repr

/-- The function and the process of a context (R116). -/
def State.procOf (s : State) (ctxid : Nat) : Nat × Nat := match s.proc? ctxid with
  | some p => (p.vf, p.proc)
  | none => (0, 0)

/-- PRIO of a queue (R60). -/
def HostQueue.prio (q : HostQueue) : Nat := q.ringcfg / 32 % 8

/-- The queue of a task's packet. -/
def Task.queue (t : Task) : Nat := match t.owner with
  | .packet q _ => q
  | .none => 0

/-- The LAUNCH or GRAPH that queue `q` would start next, with its nodes. -/
def State.startable (s : State) (q : Nat) (k : HostQueue) : Option (List Node) :=
  if k.qstate ≠ 1 then none
  else match k.nextStart (q < 65536) with
    | none => none
    | some p => if (p.type = 1 ∨ p.type = 2) ∧ ¬ k.aborts p then (match s.checkPacket q p with
        | .ok ns => some ns
        | .error _ => none) else none

/-- The startable packets of a partition. A graph starts on the slots of its first node that waits for nothing. -/
def State.packetItems (s : State) (part : Nat) : List Item :=
  s.queues.filterMap (fun (k : Nat × HostQueue) =>
    if !k.2.bound || !s.hasQueue k.1 || s.queuePart k.1 != part then none
    else (s.startable k.1 k.2).map (fun ns =>
      let (vf, pr) := s.procOf k.2.ctxid
      ⟨4 * k.1, k.2.prio, k.2.lastStart, k.1, vf, pr, ((ns.find? (fun n => n.ins.isEmpty)).map Node.slots).getD [[]]⟩))

/-- The live tasks of a partition. -/
def State.liveTasks (s : State) (part : Nat) : List Task :=
  (s.tasks.filter (fun t => t.2.part == part && t.2.dead.isNone)).map (fun t => t.2)

/-- A node is ready when every barrier it waits on has left its base generation (R113). -/
def State.nodeReady (s : State) (t : Task) (n : Node) : Bool := n.ins.all (fun b => s.objGen t.ctxid b.1 != b.2)

/-- The instances of a node. -/
def State.instsOf (s : State) (task node : Nat) : List Inst :=
  (s.insts.filter (fun i => i.2.task == task && i.2.node == node)).map (fun i => i.2)

/-- The node whose next instance a task starts: nodes start in ascending number (R113); a pre-empted instance comes before any
later one of its node (R122). -/
def State.nextNode (s : State) (t : Task) : Option (Nat × Node) :=
  ((t.nodes.zipIdx.filter (fun n => n.1.started < n.1.count && s.nodeReady t n.1 &&
      (s.instsOf t.id n.2).all (fun i => i.st == .running))).head?).map (fun n => (n.2, n.1))

/-- An item of a started task. -/
def State.taskItem (s : State) (t : Task) (key : Nat) (slots : List (List Nat)) : Item :=
  let (vf, pr) := s.procOf t.ctxid
  ⟨key, t.prio, t.order, t.queue, vf, pr, slots⟩

/-- The key of the next instance of a node. -/
def newKey (task node : Nat) : Nat := 4 * (1024 * task + node) + 1

/-- The next instances of the tasks of a partition. -/
def State.newItems (s : State) (part : Nat) : List Item :=
  (s.liveTasks part).filterMap (fun (t : Task) => (s.nextNode t).map (fun n => s.taskItem t (newKey t.id n.1) n.2.slots))

/-- The context whose slice and process a saved instance counts against: its own, or that of the waiter which donates to it (R124). -/
def Inst.payer (i : Inst) (ctxid : Nat) : Nat := if i.lender = 0 then ctxid else i.lender

/-- The saved instances of a partition: each resumes on any slot of its node with the same SLOTW (R120). -/
def State.savedItems (s : State) (part : Nat) : List Item :=
  (s.insts.filter (fun i => i.2.st == .saved && !s.imageCopying i.1)).filterMap (fun (i : Nat × Inst) => match s.tasks.look i.2.task with
    | none => none
    | some t =>
      if t.part != part || t.dead.isSome then none
      else (t.nodes[i.2.node]?).map (fun n => s.taskItem { t with ctxid := i.2.payer t.ctxid } (4 * i.1 + 2) n.slots))

/-- Everything that can start in a partition. -/
def State.items (s : State) (part : Nat) : List Item := s.savedItems part ++ s.newItems part ++ s.packetItems part

/-- R117: the higher PRIO first, then the earlier order, then the lower queue; what has started comes before packets. -/
def Item.before (a b : Item) : Bool :=
  b.prio < a.prio || (a.prio == b.prio && (a.order < b.order || (a.order == b.order && a.queue ≤ b.queue)))

/-- Insert an item behind those that come before it. -/
def insertItem (x : Item) : List Item → List Item
  | [] => [x]
  | y :: t => if x.before y && !y.before x then x :: y :: t else y :: insertItem x t

/-- Items in the order of R117; equal ones keep theirs. -/
def orderItems (l : List Item) : List Item := l.foldl (fun a x => insertItem x a) []

/-- The item is a packet. -/
def Item.isPacket (x : Item) : Bool := x.key % 4 == 0

/-! ## The functions of a partition (R75, R115) -/

/-- The policy image that a function uses: none pinned, or one that faulted, leaves the defaults (R75). -/
def State.policyOf (s : State) (vf : Nat) : Option Policy :=
  if s.mon.policyBad.contains vf then none
  else (s.mon.policyNow.look vf).bind (fun v => s.mon.policies.find? (fun p => p.version == v))

/-- The share of a function: 16, or what its image chooses. -/
def State.share (s : State) (vf : Nat) : Nat := match s.policyOf vf with
  | some p => Config.policyWord p.image 1 % 256
  | none => 16

/-- The weight of a process (R116): that of its newest ADMIT, or what the image chooses; equal ones after a fault. -/
def State.weightOf (s : State) (p : Process) : Nat :=
  if s.mon.policyBad.contains p.vf then 1
  else match s.policyOf p.vf with
    | some g => (match Config.policyWord g.image (2 + p.proc) % 65536 with
      | 0 => p.weight
      | w => w)
    | none => p.weight

/-- The function under whose slice an instance of a context runs: a donated owner runs under its waiter's (R124). -/
def State.instVf (s : State) (i : Inst) (ctxid : Nat) : Nat := (s.procOf (i.payer ctxid)).1

/-- The functions that have a task to run or to start. -/
def State.runnableVfs (s : State) (part : Nat) : List Nat :=
  let busy := (s.insts.filter (fun i => i.2.st != .saved)).filterMap (fun (i : Nat × Inst) =>
    (s.tasks.look i.2.task).bind (fun t => if t.part = part then some (s.instVf i.2 t.ctxid) else none))
  (busy ++ (s.items part).map (fun x => x.vf)).eraseDups

/-- The period of a partition in µs (R115): 4,000, or what the image of its lowest function with one chooses. -/
def State.periodUs (s : State) (part : Nat) : Nat :=
  match ((List.range 513).filter (fun v => (s.part part).procs.any (fun p => p.vf == v))).filterMap s.policyOf with
  | g :: _ => 1000 + Config.policyWord g.image 0 % 15001
  | [] => 4000

/-- Whether a function may start work now (R115): during a slice its owner alone; outside one those with share 0, while no function
with a share has work. -/
def State.mayStart (s : State) (part vf : Nat) : Bool :=
  let p := s.part part
  if p.sliceEnd ≠ 0 then vf == p.sliceVf && decide (s.clk < p.sliceEnd)
  else s.share vf == 0 && !(s.runnableVfs part).any (fun v => s.share v != 0)

/-- Fabric cycles of a time in µs (R4). -/
def usCycles (n : Nat) : Nat := 1880 * n

/-- The instances of a set of functions that run in a partition. -/
def State.runningOf (s : State) (part : Nat) (pick : Nat → Bool) : List Inst :=
  (s.insts.filter (fun i => i.2.st == .running && (match s.tasks.look i.2.task with
    | some t => t.part == part && t.dead.isNone && pick (s.instVf i.2 t.ctxid)
    | none => false))).map (fun i => i.2)

/-- The context of an instance. -/
def State.instCtx (s : State) (i : Inst) : Nat := match s.tasks.look i.task with
  | some t => t.ctxid
  | none => 0

/-- R351: there is an image for each core of an instance. -/
def State.canSave (s : State) (i : Inst) : Bool :=
  (s.freeImages (s.instCtx i) i.cores.length).length == i.cores.length

/-- A pre-emption request is made (R119): the images are taken, and the cores of the slot are told. -/
def State.askPreempt (s : State) (i : Inst) (next : Nat) : State :=
  let ctxid := s.instCtx i
  let keys := (s.freeImages ctxid i.cores.length).map (fun n => imageKey ctxid n)
  let s := { s with
    images := keys.foldl (fun (m : NMap CoreImage) k => m.put k CoreImage.zero) s.images,
    insts := s.insts.put i.id { i with st := .preempting, images := keys, reqTime := s.clk, next := next } }
  i.cores.foldl (fun s c => s.cancelTakes c) (s.mapCores (fun c => i.cores.contains c) (fun k => { k with
    preempt := true, ctxs := k.ctxs.map (fun x => { x with preempt := false, supSpent := 0 }) }))

/-- Every core of an instance has ended (R119). -/
def State.runOver (s : State) (i : Inst) : Bool := i.cores.all (fun c => (s.core c).ended)

/-- Pre-emption is asked of each instance of a list that still runs and for which there are images; those asked. -/
def askEach : List Inst → State → List Inst × State
  | [], s => ([], s)
  | i :: t, s =>
    if s.canSave i && !s.runOver i then (i :: (askEach t (s.askPreempt i 0)).1, (askEach t (s.askPreempt i 0)).2)
    else askEach t s

/-- Ask for the pre-emption of instances. -/
def State.preemptAll (s : State) (is : List Inst) (reason : Nat) : State :=
  is.foldl (fun s i => s.post .preempt { Ev.zero with at_ := i.id, x := reason }) s

/-- A new slice. What has reserved a slot keeps it until it starts (R110, R117). -/
def Part.newSlice (p : Part) (vf until_ : Nat) (left : List (Nat × Nat)) : Part :=
  { p with sliceVf := vf, sliceEnd := until_, slicesLeft := left }

/-- A period can start: no slice runs, and a function with a share has work (R115). -/
def State.periodDue (s : State) (part : Nat) : Bool :=
  (s.part part).sliceEnd == 0 && (s.runnableVfs part).any (fun v => s.share v != 0)

/-- R115: the start of a period of partition `at_`: repins take effect (R75), the slices are computed, and the tasks of functions
without a share stop. -/
def execPeriodStart (s : State) : Outcome :=
  runEvent (fun ev s =>
    let part := ev.at_
    let vfs := (s.part part).procs.map (fun p => p.vf)
    let pin := fun (m : NMap Nat) (v : Nat) => match s.mon.pins.look v with
      | some n => m.put v n
      | none => m.del v
    let s := { s with mon := { s.mon with
      policyNow := vfs.foldl pin s.mon.policyNow,
      policyBad := s.mon.policyBad.filter (fun v => !(vfs.contains v && s.mon.repinned.contains v)),
      repinned := s.mon.repinned.filter (fun v => !vfs.contains v) } }
    let run := s.runnableVfs part
    let f := (List.range 513).filter (fun v => run.contains v && s.share v != 0)
    let total := (f.map s.share).sum
    let p := s.periodUs part
    match f.map (fun v => (v, usCycles (p * s.share v / total))) with
    | [] => s
    | a :: t =>
      let s := s.modPart part (fun q => { (q.newSlice a.1 (max 1 (s.clk + a.2)) t) with inPeriod := f })
      s.preemptAll (s.runningOf part (fun v => s.share v == 0)) 1) s

/-- A slice ends: its time is over, or its function has nothing left to run. -/
def State.sliceDue (s : State) (part : Nat) : Bool :=
  let p := s.part part
  p.sliceEnd != 0 && (p.sliceEnd ≤ s.clk || !(s.runnableVfs part).contains p.sliceVf)

/-- R115: the end of the slice of partition `at_`. -/
def execSliceEnd (s : State) : Outcome :=
  runEvent (fun ev s =>
    let part := ev.at_
    let p := s.part part
    let f := p.sliceVf
    let run := s.runnableVfs part
    let others := p.inPeriod.filter (fun v => v != f && run.contains v)
    let spare := p.sliceEnd - s.clk
    let next := fun (s : State) => match p.slicesLeft with
      | [] => s.modPart part (fun q => q.newSlice 0 0 [])
      | a :: t => s.modPart part (fun q => q.newSlice a.1 (max 1 (s.clk + a.2 + spare)) t)
    if !run.contains f then next s
    else if others.isEmpty then
      -- f carries on into the next slice, and is tested again at its end
      match p.slicesLeft with
      | [] => s.modPart part (fun q => q.newSlice 0 0 [])
      | a :: t => s.modPart part (fun q => { q with sliceEnd := max 1 (s.clk + a.2), slicesLeft := t })
    else
      let asked := askEach (s.runningOf part (fun v => v == f)) s
      let n := ((asked.1.map (fun i => i.task)).eraseDups).length
      let s := next asked.2
      if n = 0 then s
      else (s.procs.filter (fun c => c.2.part == part && c.2.vf == f && !c.2.retired)).foldl
        (fun s c => s.notice c.1 Cause.sliceEnd (word n) 0xFFFF 0) s) s

/-- R75: the image of function `at_` faults: equal weights, the default slice, and FW_ASSERT to the monitor. -/
def execPolicyImageFault (s : State) : Outcome :=
  runEvent (fun ev s => if s.mon.policyBad.contains ev.at_ then s.raiseMonitor Cause.fwAssert
    else ({ s with mon := { s.mon with policyBad := s.mon.policyBad ++ [ev.at_] } }).raiseMonitor Cause.fwAssert) s

/-! ## The decision (R116 to R118) -/

/-- What a decision does: an item starts on a slot, or running instances make a slot free for a packet. -/
inductive Choice where
  | go (it : Item) (slot : List Nat)
  | evict (it : Item) (slot : List Nat)
  deriving DecidableEq, Repr

/-- The instances that must leave a slot for a packet (R118): those of the same process with a lower priority; none when the slot
is held by anything else. -/
def State.victims (s : State) (part : Nat) (it : Item) (slot : List Nat) : Option (List Inst) :=
  let hold := (slot.filter (fun c => !s.coreFree c)).map (fun c => s.insts.look (s.core c).inst)
  let good := fun (o : Option Inst) => match o with
    | none => false
    | some i => i.st == .running && s.canSave i && (match s.tasks.look i.task with
      | some t => t.dead.isNone && t.prio < it.prio && s.procOf t.ctxid == (it.vf, it.proc)
      | none => false)
  if hold.isEmpty || !hold.all good || slot.any (fun c => (s.part part).keptFrom it.key c) then none
  else some ((hold.filterMap (fun o => o)).eraseDups)

/-- The priority of an instance's task. -/
def State.instPrio (s : State) (i : Inst) : Nat := match s.tasks.look i.task with
  | some t => t.prio
  | none => 0

/-- The slot that R118 chooses: the one whose lowest running priority is least, then the lowest number. -/
def State.victimSlot (s : State) (part : Nat) (it : Item) : Option (List Nat) :=
  let cand := it.slots.filterMap (fun sl => (s.victims part it sl).map (fun vs => (sl, vs.foldl (fun a i => min a (s.instPrio i)) 8)))
  (cand.foldl (fun (a : Option (List Nat × Nat)) c => match a with
    | none => some c
    | some b => if c.2 < b.2 then some c else some b) none).map (fun c => c.1)

/-- A slot that has been taken for an item is being made free: each of its cores is free or its instance is leaving. -/
def State.clearing (s : State) (part : Nat) (it : Item) : Bool :=
  (s.part part).reserved.any (fun r => r.1 == it.key && r.2.all (fun c => s.coreFree c || (match s.insts.look (s.core c).inst with
    | some i => i.st != .running
    | none => true)))

/-- What one item allows; a packet for which a slot is being made free pre-empts no other (R118). -/
def State.tryItem (s : State) (part : Nat) (it : Item) : Option Choice :=
  match s.freeSlot part it.key it.slots with
  | some sl => some (.go it sl)
  | none => if it.isPacket && !s.clearing part it then (s.victimSlot part it).map (fun sl => .evict it sl) else none

/-- The first packet of a list, and what is no packet (R117: one packet a process). -/
def onePacket : List Item → Bool → List Item
  | [], _ => []
  | x :: t, had => if x.isPacket then (if had then onePacket t true else x :: onePacket t true) else x :: onePacket t had

/-- The processes of a partition with something to start, by pass and PROC (R116). -/
def insertProc (x : Process) : List Process → List Process
  | [] => [x]
  | y :: t => if x.pass < y.pass || (x.pass == y.pass && x.proc < y.proc) then x :: y :: t else y :: insertProc x t

/-- Walk the processes; the packets passed over on the way. -/
def State.walk (s : State) (part : Nat) (its : List Item) : List Process → List Nat → Option Choice × List Nat
  | [], over_ => (none, over_)
  | p :: t, over_ =>
    let mine := onePacket (orderItems (its.filter (fun x => x.vf == p.vf && x.proc == p.proc))) false
    match mine.findSome? (s.tryItem part) with
    | some c => (some c, over_)
    | none => s.walk part its t (over_ ++ (mine.filter Item.isPacket).map (fun x => x.key))

/-- An item that was saved before another. -/
def State.savedBefore (s : State) (a b : Item) : Bool := match s.insts.look (a.key / 4), s.insts.look (b.key / 4) with
  | some i, some j => i.savedAt ≤ j.savedAt
  | _, _ => false

/-- Insert an item behind those that were saved before it. -/
def State.insertSaved (s : State) (x : Item) : List Item → List Item
  | [] => [x]
  | y :: t => if s.savedBefore y x then y :: s.insertSaved x t else x :: y :: t

/-- R121: the saved instances of the functions that may start now which a period has passed over, the oldest first: they come
before all else, and one for which no slot is free reserves one, so that each resumes within two periods (log entry 113). -/
def State.lateItems (s : State) (part : Nat) (all : List Item) : List Item :=
  (all.filter (fun x => x.key % 4 == 2 && s.mayStart part x.vf && s.share x.vf != 0 && (match s.insts.look (x.key / 4) with
    | some i => decide (usCycles (s.periodUs part) ≤ s.clk - i.savedAt)
    | none => false))).foldl (fun l x => s.insertSaved x l) []

/-- The late instances that hold no reservation and find no slot, each with the slot that it reserves: the first of its node's that no
other item has reserved. -/
def State.lateNeeds (s : State) (part : Nat) : List (Nat × List Nat) :=
  let p := s.part part
  (s.lateItems part (s.items part)).filterMap (fun x =>
    if p.reserved.any (fun r => r.1 == x.key) || (s.freeSlot part x.key x.slots).isSome then none
    else (x.slots.find? (fun sl => !sl.any (p.keptFrom x.key))).map (fun sl => (x.key, sl)))

/-- R116 to R118, R121, R124: the choice, with the packets passed over; an owner that a waiter donates to comes first. -/
def State.chooseItem (s : State) (part : Nat) : Option Choice × List Nat :=
  let all := s.items part
  let gift := (all.filter (fun x => x.key % 4 == 2 && s.mayStart part x.vf && (match s.insts.look (x.key / 4) with
    | some i => i.donate
    | none => false))).findSome? (s.tryItem part)
  match gift.orElse (fun _ => (s.lateItems part all).findSome? (s.tryItem part)) with
  | some c => (some c, [])
  | none =>
    let p := s.part part
    -- a packet that has reserved its slot goes before the other packets of its function (R117)
    let before := all.filter (fun x => x.key + 1 == p.focus)
    let its := all.filter (fun x => s.mayStart part x.vf && (!x.isPacket || x.key + 1 == p.focus || !before.any (fun f => f.vf == x.vf)))
    let ps := (p.procs.filter (fun q => its.any (fun x => x.vf == q.vf && x.proc == q.proc))).foldl (fun l q => insertProc q l) []
    s.walk part its (ps.take 8) []

/-- The processes with something to start, or with an instance on its cores (R116). -/
def State.workers (s : State) (part : Nat) (its : List Item) : List (Nat × Nat) :=
  its.map (fun x => (x.vf, x.proc)) ++ (s.insts.filter (fun i => i.2.st != .saved)).filterMap (fun (i : Nat × Inst) =>
    (s.tasks.look i.2.task).bind (fun t => if t.part = part ∧ t.dead.isNone then some (s.procOf t.ctxid) else none))

/-- A process has something to run or to start. -/
def hasWork (ws : List (Nat × Nat)) (p : Process) : Bool := ws.contains (p.vf, p.proc)

/-- R116: a process that becomes runnable takes the lowest pass of the runnable processes of its function, or keeps its own. -/
def State.refreshProcs (s : State) (part : Nat) : State :=
  let its := s.items part
  let ws := s.workers part its
  s.modPart part (fun p =>
    let low := fun (vf : Nat) => ((p.procs.filter (fun q => q.active && q.vf == vf)).map (fun q => q.pass)).foldl
      (fun (a : Option Nat) v => match a with
        | none => some v
        | some b => some (min b v)) none
    { p with
      procs := p.procs.map (fun q =>
        if hasWork ws q then { q with active := true, pass := if q.active then q.pass else max q.pass ((low q.vf).getD 0) }
        else { q with active := false }),
      reserved := p.reserved.filter (fun r => its.any (fun x => x.key == r.1)),
      passed := p.passed.filter (fun r => its.any (fun x => x.key == r.1)),
      focus := if its.any (fun x => x.key + 1 == p.focus) then p.focus else 0 })

/-- A decision is due: something can start or must leave, or a process has gained or lost its work. -/
def State.decisionDue (s : State) (part : Nat) : Bool :=
  let p := s.part part
  let its := s.items part
  (s.chooseItem part).1.isSome || !(s.lateNeeds part).isEmpty || p.procs.any (fun q => q.active != hasWork (s.workers part its) q) ||
    p.reserved.any (fun r => !its.any (fun x => x.key == r.1))

/-- A packet is passed over; at the 16th time it reserves a fitting slot and goes before all others (R117). -/
def State.passOver (s : State) (part key : Nat) : State :=
  let n := (s.part part).passed.get key 0 + 1
  let slot := ((s.items part).find? (fun x => x.key == key)).bind (fun x => x.slots.head?)
  s.modPart part (fun p =>
    let p := { p with passed := p.passed.put key n }
    if 16 ≤ n ∧ p.focus = 0 then match slot with
      | some sl => { p with focus := key + 1, reserved := p.reserved ++ [(key, sl)] }
      | none => p
    else p)

/-- The reservations of an item end as it starts. -/
def Part.unreserve (p : Part) (key : Nat) : Part :=
  { p with
    reserved := p.reserved.filter (fun r => r.1 != key), passed := p.passed.del key,
    focus := if p.focus = key + 1 then 0 else p.focus }

/-- The start of an item on a slot. -/
def State.startItem (s : State) (part : Nat) (it : Item) (slot : List Nat) : State :=
  let s := s.modPart part (fun p => p.unreserve it.key)
  let n := it.key / 4
  match it.key % 4 with
  | 0 => s.post .packetStart { Ev.zero with at_ := n }
  | 1 =>
    let node := n % 1024
    let idx := match s.tasks.look (n / 1024) with
      | some t => ((t.nodes[node]?).map (fun (d : Node) => d.started)).getD 0
      | none => 0
    s.post .gangStart { Ev.zero with at_ := n / 1024, x := node, y := idx, words := slot.map word }
  | _ => s.post .resume { Ev.zero with at_ := n, words := slot.map word }

/-- R116: one decision of the dispatcher of partition `at_`. -/
def execDispatchDecision (s : State) : Outcome :=
  runEvent (fun ev s =>
    let part := ev.at_
    let s := s.refreshProcs part
    let s := ((s.lateNeeds part).take 1).foldl (fun s r => s.modPart part (fun p => { p with reserved := p.reserved ++ [r] })) s
    let (c, missed) := s.chooseItem part
    let s := missed.foldl (fun s k => s.passOver part k) s
    match c with
    | none => s
    | some (.go it sl) => s.startItem part it sl
    | some (.evict it sl) =>
      let s := s.modPart part (fun p => { p with reserved := p.reserved ++ [(it.key, sl)] })
      s.preemptAll ((s.victims part it sl).getD []) 0) s

/-! ## Tasks and instances (R67, R110, R113) -/

/-- A task starts: the base generations of its barriers are read, and its first instance starts when a slot is free. -/
def State.makeTask (s : State) (q : Nat) (r : Running) (ns : List Node) : State :=
  let k := s.queue q
  let id := s.nextTask
  let part := s.queuePart q
  let gen := fun (h : Nat) => s.objGen k.ctxid h
  let nodes := ns.map (fun n => { n with
    ins := n.ins.map (fun b => (b.1, gen b.1)), outGen := if n.out = 0 then 0 else gen n.out })
  let t : Task := ⟨id, k.ctxid, part, k.prio, .packet q r.pkt.idx, nodes, 0, none, none, false, k.lastStart⟩
  let s := { s.modQueue q (fun k => { k with running := k.running.map (fun o =>
      if o.pkt.idx = r.pkt.idx then { o with task := id } else o) }) with
    tasks := s.tasks.put id t, nextTask := id + 1 }
  match s.nextNode t with
  | none => s
  | some n => match s.freeSlot part (newKey id n.1) n.2.slots with
    | some sl => s.post .gangStart { Ev.zero with at_ := id, x := n.1, y := 0, words := sl.map word }
    | none => s

/-- R67 LAUNCH: a graph of one node with SLOTW 0 and no barriers. -/
def execLaunch (s : State) : Outcome := onPacket (fun q r s => s.makeTask q r [r.pkt.launchNode]) s

/-- R113 GRAPH. -/
def execGraph (s : State) : Outcome :=
  onPacket (fun q r s => match s.graphNodes (s.queuePart q) (s.queue q).ctxid (bits (r.pkt.word 1) 63 48) with
    | .ok ns => s.makeTask q r ns
    | .error _ => s) s

/-- R89: a core's local memory and tiles are zeroed. -/
def State.scrubCore (s : State) (c : Nat) : State :=
  ({ s with lmem := s.lmem.clearRange (lkey c 0) 0x40000, tiles := s.tiles.clearRange (rowKey c 0 0) 0x80000 }).modCore c
    (fun k => { k with holder := 0 })

/-- R89: before a context uses a core that holds another context's contents, they are zeroed. -/
def State.scrubFor (s : State) (c ctxid : Nat) : State := if (s.core c).holder = ctxid then s else s.scrubCore c

/-- The control context of a member (R67). -/
def Node.entryCtx (n : Node) (idx : Nat) (svec : Word) (h1 h2 : Handle) : Ctx :=
  let x := Ctx.fresh (word n.entry) n.arg0 n.arg1 (word idx) svec
  { x with h := (x.h.setIfInBounds 1 h1).setIfInBounds 2 h2 }

/-- A process is charged for a start on a number of cores (R116). -/
def State.charge1 (s : State) (ctxid cores : Nat) : State := match s.proc? ctxid with
  | none => s
  | some c => s.modPart c.part (fun p => { p with procs := p.procs.map (fun q =>
      if q.vf = c.vf ∧ q.proc = c.proc then { q with pass := (q.pass + 2 ^ 20 / max 1 (s.weightOf q) * cores) % 2 ^ 64 } else q) })

/-- R110: instance `y` of node `x` of task `at_` starts on the cores in `words`: each control context enters, and the current
generation of the gang barrier is released. -/
def execGangStart (s : State) : Outcome :=
  runEvent (fun ev s => match s.tasks.look ev.at_ with
    | none => s
    | some t => match t.nodes[ev.x]? with
      | none => s
      | some n =>
        let cores := ev.words.map (fun (w : Word) => w.toNat)
        if t.dead.isSome || n.started != ev.y || !cores.all s.coreFree then s
        else
          let id := s.nextInst
          let handle := fun (i : Nat) => if i = 0 then Handle.zero else s.indexHandle t.ctxid i
          let plan := if n.plan = 0 then [] else s.objWords t.ctxid n.plan 0
          let gbar := bits (plan.getD 0 0) 47 32
          let s := match (if gbar = 0 then none else s.objHome t.ctxid gbar) with
            | some h => s.objRelease h
            | none => s
          let g := if gbar = 0 then 0 else s.objGen t.ctxid gbar
          let x := n.entryCtx ev.y (s.svec t.ctxid) (handle n.argh) (handle n.plan)
          let code := s.indexHandle t.ctxid n.code
          let s := cores.zipIdx.foldl (fun (s : State) (c : Nat × Nat) =>
            let s := s.scrubFor c.1 t.ctxid
            let k := s.core c.1
            let seqs := if k.task = t.id then (k.jobSeq0, k.jobSeq1) else (1, 1)
            s.setCore c.1 ({ k.released with
              task := t.id, inst := id, gangIdx := c.2, gangSize := cores.length, code := code, plan := plan, sstepG := g,
              jobSeq0 := seqs.1, jobSeq1 := seqs.2, frames := [(0, false)], holder := t.ctxid }.setCtx 0 x)) s
          let nodes := listSet t.nodes ev.x { n with started := n.started + 1 }
          ({ s with
            nextInst := id + 1, tasks := s.tasks.put t.id { t with nodes := nodes },
            insts := s.insts.put id ⟨id, t.id, ev.x, ev.y, cores, .running, [], 0, false, 0, 0, 0⟩ }).charge1 t.ctxid cores.length) s

/-- The core's jobs, remote operations and lattice have nothing left to do, and no write-back of its context is unacknowledged (R69,
R111). -/
def State.quiet (s : State) (c : Nat) : Bool :=
  let k := s.core c
  k.latticeIdle && k.wq.isEmpty && k.rfcnt == 0 &&
    !s.remotes.any (fun r => r.core == c || (r.msg.op == 0x03 && isBank r.msg.sep && s.ctxidOf r.core == s.ctxidOf c)) &&
    [0, 1].all (fun q => (s.jobsOf (c / 8) (jobQueue c q)).all (fun j => j.done))

/-- An instance is over: every control context has executed `hexit` (R286), and its effects are performed. -/
def State.instOver (s : State) (i : Inst) : Bool :=
  i.st != .saved && (match s.tasks.look i.task with
    | some t => t.dead.isNone
    | none => false) && i.cores.all (fun c => (s.core c).ended && s.quiet c && (s.core c).snapPhase != 1)

/-- The instances that are over. -/
def State.instsOver (s : State) : List Nat := (s.insts.filter (fun i => s.instOver i.2)).map (fun i => i.1)

/-- A context of a killed core leaves every list of waiters. -/
def State.leaveMutexes (s : State) (c : Nat) : State :=
  s.modCluster (c / 8) (fun k => { k with mutexes := k.mutexes.map (fun m =>
    (m.1, { m.2 with waiters := m.2.waiters.filter (fun w => w.1 != c) })) })

/-- The end of a task (R113, R114): the packet completes once nothing of it is left. -/
def State.endTask (s : State) (t : Task) : State :=
  let over_ := t.dead.isSome || t.nodes.all (fun n => n.finished)
  if !over_ || t.children != 0 || s.insts.any (fun i => i.2.task == t.id) then s
  else
    let s := { s with tasks := s.tasks.del t.id }
    let (st, r) := match t.dead, t.childFault with
      | some c, _ => (6, c)
      | none, some c => (6, c)
      | none, none => if t.stale then (1, t.id) else (0, t.id)
    match t.owner with
    | .packet q i => s.over_ q i st r
    | .none => s

/-- The scope at which the stores of an instance become visible as it completes: package (R69), and job where its node then arrives at an
OUT of that scope (R111, R367). -/
def State.endScope (s : State) (i : Inst) : Nat := match s.tasks.look i.task with
  | none => 2
  | some t => match t.nodes[i.node]? with
    | some n => if n.out != 0 && s.objScope t.ctxid n.out == 3 then 3 else 2
    | none => 2

/-- R113: an instance completes (`x` 0, instance `at_`) once what its release sends is acknowledged, a killed task gives up its cores
(`x` 1, task `at_`) with its retired stores performed, or a task is looked at again (`x` 2). -/
def execInstanceComplete (s : State) : Outcome :=
  runEvent (fun ev s => match ev.x with
    | 0 => (match s.insts.look ev.at_ with
      | none => s
      | some i =>
        if !s.instOver i then s
        else
          let s := i.cores.foldl (fun s c => s.release c (s.endScope i)) s
          if !i.cores.all s.quiet then s
          else
          let s := { s.freeCores i.cores with insts := s.insts.del i.id }
          match s.tasks.look i.task with
          | none => s
          | some t => match t.nodes[i.node]? with
            | none => s
            | some n =>
              let last := n.done + 1 == n.count
              let s := { s with tasks := s.tasks.put t.id { t with
                nodes := listSet t.nodes i.node { n with done := n.done + 1, finished := last } } }
              let s := if last && n.out != 0 then
                s.post .barrierArrive { Ev.zero with at_ := t.ctxid, x := n.out, y := n.outGen, z := t.id } else s
              s.post .instanceComplete { Ev.zero with at_ := t.id, x := 2 })
    | 1 =>
      let mine := (s.insts.filter (fun i => i.2.task == ev.at_)).map (fun i => i.2)
      let s := mine.foldl (fun s i =>
        let s := i.images.foldl (fun s k => s.dropImage k) s
        if i.st = .saved then s
        else
          let s := i.cores.foldl (fun s c => s.release c 2) s
          let s := i.cores.foldl (fun s c => if (s.core c).snapPhase = 1 then (s.leaveMutexes c).finishCut c else s.leaveMutexes c) s
          let s := s.closeRemotes (fun r => i.cores.contains r.core)
          s.freeCores i.cores) s
      ({ s with insts := s.insts.filter (fun i => i.2.task != ev.at_) }).post .instanceComplete { Ev.zero with at_ := ev.at_, x := 2 }
    | _ => (match s.tasks.look ev.at_ with
      | some t => s.endTask t
      | none => s)) s

end Sys2Proof.Machine
end

