-- ==== Sys2Proof/Machine/Flags.lean ====
section
/-! DEFINITION. The scalar flags: FCSR (R206) and the trap of a scalar floating-point instruction (R241). -/

namespace Sys2Proof.Machine

/-- FCSR.FLAGS (R206). -/
def fcsrFlags (f : Word) : Flags5 := BitVec.ofNat 5 (bits f 4 0)

/-- FCSR.TEN in the order of FLAGS (R206). -/
def fcsrTen (f : Word) : Flags5 := BitVec.ofNat 5 (bits f 12 8)

/-- The rounding mode of the context that issues (R201, R206). -/
def State.rm (s : State) : RM := RM.ofBits (bits s.curCtx.fcsr 6 5)

/-- R241: the cause of the first enabled flag, in the order NV, DZ, OF, UF, NX. -/
def fpCause (hit : Flags5) : Nat :=
  if bit hit 4 then Cause.fpNv else if bit hit 3 then Cause.fpDz else if bit hit 2 then Cause.fpOf
  else if bit hit 1 then Cause.fpUf else Cause.fpNx

/-- R206: OR flags into FCSR.FLAGS. -/
def State.orFlags (s : State) (fl : Flags5) : State :=
  s.modCur (fun x => { x with fcsr := x.fcsr ||| word fl.toNat })

/-- R206, R241: a scalar floating-point result with its flags. A flag that is enabled traps and changes nothing. -/
def fpResult (d : BitVec 5) (v : Word) (fl : Flags5) (s : State) : Outcome :=
  let hit := fl &&& fcsrTen s.curCtx.fcsr
  if hit = 0 then .next ((s.setX d v).orFlags fl).retire else raiseAt (fpCause hit) (word fl.toNat) s

end Sys2Proof.Machine
end

