-- ==== Sys2Proof/Machine/FpScalar.lean ====
section
/-! DEFINITION. The scalar floating-point instructions of major 0x0B (R237 to R241). -/

namespace Sys2Proof.Machine

/-! ## Where values lie in registers (R237) -/

/-- The f32 of a register: bits [31:0]. -/
def State.f32 (s : State) (r : BitVec 5) : FVal := Fmt.f32.unpack (bits (s.x r) 31 0)

/-- The f64 of a register. -/
def State.f64 (s : State) (r : BitVec 5) : FVal := Fmt.f64.unpack (s.x r).toNat

/-- The bf16 of a register: bits [15:0]. -/
def State.bf16 (s : State) (r : BitVec 5) : FVal := Fmt.bf16.unpack (bits (s.x r) 15 0)

/-- Write a rounded result; the bits above its width are zero (R237). -/
def fpPut (d : BitVec 5) (r : FRes) (s : State) : Outcome := fpResult d (word r.bits) r.flags s

/-- Write the truth of a compare (R239). -/
def fpTruth (d : BitVec 5) (r : Bool × Flags5) (s : State) : Outcome := fpResult d (b2w r.1) r.2 s

/-- Write an integer, sign-extended (R237). -/
def fpInt (d : BitVec 5) (r : Int × Flags5) (s : State) : Outcome := fpResult d (wordOfInt r.1) r.2 s

/-! ## f32 (R238, R239) -/

/-- R238 `fadd.s`. -/
def execFaddS (d a b : BitVec 5) (s : State) : Outcome := fpPut d (fAdd .f32 s.rm (s.f32 a) (s.f32 b)) s
/-- R238 `fsub.s`. -/
def execFsubS (d a b : BitVec 5) (s : State) : Outcome := fpPut d (fSub .f32 s.rm (s.f32 a) (s.f32 b)) s
/-- R238 `fmul.s`. -/
def execFmulS (d a b : BitVec 5) (s : State) : Outcome := fpPut d (fMul .f32 s.rm (s.f32 a) (s.f32 b)) s
/-- R238 `fdiv.s`. -/
def execFdivS (d a b : BitVec 5) (s : State) : Outcome := fpPut d (fDiv .f32 s.rm (s.f32 a) (s.f32 b)) s
/-- R238 `fsqrt.s`. -/
def execFsqrtS (d a : BitVec 5) (s : State) : Outcome := fpPut d (fSqrt .f32 s.rm (s.f32 a)) s
/-- R239 `fmin.s`. -/
def execFminS (d a b : BitVec 5) (s : State) : Outcome := fpPut d (fMinMax .f32 false (s.f32 a) (s.f32 b)) s
/-- R239 `fmax.s`. -/
def execFmaxS (d a b : BitVec 5) (s : State) : Outcome := fpPut d (fMinMax .f32 true (s.f32 a) (s.f32 b)) s
/-- R238 `fmadd.s`: c is the old value of xd. -/
def execFmaddS (d a b : BitVec 5) (s : State) : Outcome := fpPut d (fFma .f32 s.rm (s.f32 a) (s.f32 b) (s.f32 d)) s
/-- R239 `feq.s`. -/
def execFeqS (d a b : BitVec 5) (s : State) : Outcome := fpTruth d (fCmp .eq (s.f32 a) (s.f32 b)) s
/-- R239 `flt.s`. -/
def execFltS (d a b : BitVec 5) (s : State) : Outcome := fpTruth d (fCmp .lt (s.f32 a) (s.f32 b)) s
/-- R239 `fle.s`. -/
def execFleS (d a b : BitVec 5) (s : State) : Outcome := fpTruth d (fCmp .le (s.f32 a) (s.f32 b)) s

/-! ## f64 (R238, R239) -/

/-- R238 `fadd.d`. -/
def execFaddD (d a b : BitVec 5) (s : State) : Outcome := fpPut d (fAdd .f64 s.rm (s.f64 a) (s.f64 b)) s
/-- R238 `fsub.d`. -/
def execFsubD (d a b : BitVec 5) (s : State) : Outcome := fpPut d (fSub .f64 s.rm (s.f64 a) (s.f64 b)) s
/-- R238 `fmul.d`. -/
def execFmulD (d a b : BitVec 5) (s : State) : Outcome := fpPut d (fMul .f64 s.rm (s.f64 a) (s.f64 b)) s
/-- R238 `fdiv.d`. -/
def execFdivD (d a b : BitVec 5) (s : State) : Outcome := fpPut d (fDiv .f64 s.rm (s.f64 a) (s.f64 b)) s
/-- R238 `fsqrt.d`. -/
def execFsqrtD (d a : BitVec 5) (s : State) : Outcome := fpPut d (fSqrt .f64 s.rm (s.f64 a)) s
/-- R239 `fmin.d`. -/
def execFminD (d a b : BitVec 5) (s : State) : Outcome := fpPut d (fMinMax .f64 false (s.f64 a) (s.f64 b)) s
/-- R239 `fmax.d`. -/
def execFmaxD (d a b : BitVec 5) (s : State) : Outcome := fpPut d (fMinMax .f64 true (s.f64 a) (s.f64 b)) s
/-- R238 `fmadd.d`. -/
def execFmaddD (d a b : BitVec 5) (s : State) : Outcome := fpPut d (fFma .f64 s.rm (s.f64 a) (s.f64 b) (s.f64 d)) s
/-- R239 `feq.d`. -/
def execFeqD (d a b : BitVec 5) (s : State) : Outcome := fpTruth d (fCmp .eq (s.f64 a) (s.f64 b)) s
/-- R239 `flt.d`. -/
def execFltD (d a b : BitVec 5) (s : State) : Outcome := fpTruth d (fCmp .lt (s.f64 a) (s.f64 b)) s
/-- R239 `fle.d`. -/
def execFleD (d a b : BitVec 5) (s : State) : Outcome := fpTruth d (fCmp .le (s.f64 a) (s.f64 b)) s

/-! ## Conversions (R240) -/

/-- R240 `fcvt.s.d`. -/
def execFcvtSD (d a : BitVec 5) (s : State) : Outcome := fpPut d (fConv .f32 s.rm (s.f64 a)) s
/-- R240 `fcvt.d.s`. -/
def execFcvtDS (d a : BitVec 5) (s : State) : Outcome := fpPut d (fConv .f64 s.rm (s.f32 a)) s
/-- R240 `fcvt.s.w`. -/
def execFcvtSW (d a : BitVec 5) (s : State) : Outcome := fpPut d (fOfInt .f32 s.rm (sextN 32 (s.x a).toNat)) s
/-- R240 `fcvt.w.s`. -/
def execFcvtWS (d a : BitVec 5) (s : State) : Outcome := fpInt d (fToInt 32 s.rm (s.f32 a)) s
/-- R240 `fcvt.d.l`. -/
def execFcvtDL (d a : BitVec 5) (s : State) : Outcome := fpPut d (fOfInt .f64 s.rm (s.x a).toInt) s
/-- R240 `fcvt.l.d`. -/
def execFcvtLD (d a : BitVec 5) (s : State) : Outcome := fpInt d (fToInt 64 s.rm (s.f64 a)) s
/-- R240 `fcvt.bf.s`. -/
def execFcvtBfS (d a : BitVec 5) (s : State) : Outcome := fpPut d (fConv .bf16 s.rm (s.f32 a)) s
/-- R240 `fcvt.s.bf`. -/
def execFcvtSBf (d a : BitVec 5) (s : State) : Outcome := fpPut d (fConv .f32 s.rm (s.bf16 a)) s

end Sys2Proof.Machine
end

