-- ==== Sys2Proof/Machine/HostLink.lean ====
section
/-! DEFINITION. What else reaches the device over the host link (R32, R33, R52). -/

namespace Sys2Proof.Machine

/-- R32: a TDISP request for function `at_`: `x` is 1 to lock, 2 to start, 3 to stop, 4 for an error. The states are 0
CONFIG_UNLOCKED, 1 CONFIG_LOCKED, 2 RUN, 3 ERROR (log entry 25). -/
def tdiNext (st x : Nat) : Nat :=
  match x with
  | 1 => if st = 0 then 1 else st
  | 2 => if st = 1 then 2 else st
  | 3 => 0
  | 4 => if st = 1 ∨ st = 2 then 3 else st
  | _ => st

/-- R32: the TDI of a virtual function changes its state. -/
def execTdiStateChange (s : State) : Outcome :=
  onHost (fun ev s =>
    if ev.at_ = 0 ∨ 512 < ev.at_ then s
    else
      let next := tdiNext (s.hostSide.tdi.get ev.at_ 0) ev.x
      { s with hostSide := { s.hostSide with tdi := s.hostSide.tdi.put ev.at_ next } }) s

/-- A byte of the window of host-managed device memory: it is of no partition, since no context can reserve it (log entry
26). -/
def windowKey (off : Nat) : Nat := memKey 32 1 0 off

/-- The 16 doublewords of a line as words. -/
def lineWords (m : Mem) (a : Nat) : List Word := (List.range 16).map (fun i => word (m.getLE (a + 8 * i) 8))

/-- The bytes of a line from its 16 words. -/
def wordsLine (ws : List Word) : List Byte := (List.range 16).flatMap (fun i => leBytes 8 (ws.getD i 0).toNat)

/-- The bytes of the window of host-managed device memory: what the capacity channels give to it, at most 1 TiB (R33; log entry 26). -/
def State.windowBytes (s : State) : Nat :=
  min (2 ^ 40) (65536 * s.windowPages ((List.range 128).filter (fun x => s.boot.blocks.testBit (x / 4) && s.boot.cap.testBit x)))

/-- R33: the host reads (`x` 0) or writes (`x` 1) the line at offset `at_` of the window over CXL.mem. No cache of the device holds
lines of the window, so the back-invalidation of a write finds none. -/
def execCxlMemRequest (s : State) : Outcome :=
  onHost (fun ev s =>
    let a := windowKey (ev.at_ / 128 * 128)
    if !s.boot.cxl || decide (s.windowBytes ≤ ev.at_) then s
    else if ev.x = 1 then
      { s with mem := s.mem.putRange a (wordsLine ev.words) }
    else { s with hostSide := { s.hostSide with cxlRead := lineWords s.mem a } }) s

/-- R33: a coherence request of the host over CXL.cache for the line at IOVA `at_`. A home slice writes a line of host memory
through, so it answers with the bytes that host memory holds, and has nothing more to give up. -/
def execCxlCacheSnoop (s : State) : Outcome :=
  onHost (fun ev s =>
    if !s.boot.cxl then s
    else { s with hostSide := { s.hostSide with cxlRead := lineWords s.host (ev.at_ / 128 * 128) } }) s

/-- R52: host memory answers for page `at_` of its IOVA space: with `x` 1 it aborts, and from then on an access to the page
fails; otherwise it completes. -/
def execHostMemoryCompletion (s : State) : Outcome :=
  runEvent (fun ev s =>
    let others := s.hostSide.denied.filter (fun p => p != ev.at_)
    { s with hostSide := { s.hostSide with denied := if ev.x = 1 then others ++ [ev.at_] else others } }) s

end Sys2Proof.Machine
end

