-- ==== Sys2Proof/Machine/Issue.lean ====
section
/-! DEFINITION. How a core issues (R127, R131, R139, R212, R227, R346, R350): which contexts are ready, the fetch of a word
through the code handle, the repeat sequencer, and what happens at an instruction boundary. -/

namespace Sys2Proof.Machine

/-! ## Readiness (R127, R269) -/

/-- Whether what a context waits for has come. A wait that ends by a store, a reply or a call is not ready by itself. -/
def State.waitOver (s : State) (c i : Nat) (w : Wait) : Bool :=
  let k := s.core c
  match w with
  | .line _ _ => false
  | .mutex _ => false
  | .barEvent b g => (s.ebar (c / 8) b).gen != g
  | .barObject x g => (s.objFar (s.ctxidOf c) x).isSome || s.objGen (s.ctxidOf c) x != g
  | .latticeEmpty => k.latticeIdle
  | .latticeRoom => k.lq.length < 32
  | .lrow => true
  | .writeRoom => k.wq.length < 16
  | .remote t => (k.ctx i).replies.any (fun r => r.tag == t)
  | .fetch t => (k.ctx i).replies.any (fun r => r.tag == t)
  | .remoteIdle => k.rfcnt == 0 && !s.remoteOf c i
  | .remoteRoom => k.rfcnt < 255
  | .jobRoom _ => true
  | .job q n => !((s.jobsOf (c / 8) q).any (fun j => j.seq == n && !j.done))
  | .queueRoom _ => true
  | .queueMsg _ => true
  | .children => true
  | .vcOpen v => (s.reshaping (s.ctxidOf c) [v]).isNone
  | .transit _ => true
  | .pause => false
  | .yielded => true
  | .fill => true
  | .supervisor => !k.otherSup i
  | .monitor => false
  | .snapCopy => true
  | .restart => true
  | .homeRoom _ => true
  | .translation k => !s.tqueue.contains (c / 64, k)
  | .fetchMap k => !s.tqueue.contains (c / 64, k)
  | .halted => false

/-- A `bar` that has retired waits on for its generation (R269); supervisor code of the context runs meanwhile. -/
def Ctx.blocked (x : Ctx) : Option Wait := x.wait <|> x.bar?.map BarWait.wait

/-- A context that a pre-emption request has reached stops at its next boundary, unless it is at supervisor level, in the
`rgnx` region that the request found or in the middle of an instruction (R119, R133, R138). -/
def Core.stops (k : Core) (x : Ctx) : Bool :=
  k.preempt && !x.sup && (!x.rgnx || x.preempt) && x.trapPend.isNone && (match x.wait with
    | some (.remote _) => false
    | some .monitor => false
    | _ => true)

/-- Whether context `i` of core `c` can issue. A cause that is pending is taken before a rollback, which waits for the handler
(R346), and a member that has not counted the release of its barrier counts it first (R104). -/
def State.ready (s : State) (c i : Nat) : Bool :=
  let k := s.core c
  let x := k.ctx i
  x.live && !k.rollHalt && (!k.rollAsk || x.sup || x.trapPend.isSome || k.sstepn != s.rollStep c) && !k.debugHalt && !k.stops x && (match x.blocked with
    | none => true
    | some w => s.waitOver c i w)

/-- R127: the contexts of a core in the order in which they are looked at. -/
def issueOrder (last : Nat) : List Nat := (List.range 11).map (fun i => (last + 1 + i) % 11)

/-- The first ready context of a core. -/
def State.readyCtx (s : State) (c : Nat) : Option Nat := (issueOrder (s.core c).lastCtx).find? (s.ready c)

/-- The cores in the order of their turns: those after the one that issued last, then the others (log entry 1). -/
def State.coreOrder (s : State) : List Nat :=
  let ks := s.cores.map (fun p => p.1)
  ks.filter (fun c => s.lastCore < c) ++ ks.filter (fun c => c ≤ s.lastCore)

/-- The core and the context that issue next. -/
def State.nextCtx? (s : State) : Option (Nat × Nat) :=
  s.coreOrder.findSome? (fun c => (s.readyCtx c).map (fun i => (c, i)))

/-! ## The fetch (R212, R246) -/

/-- What a fetch gives. -/
inductive Fetched where
  | got (w : IWord)
  | bad (b : Bad)
  | miss (key : Nat)
  | ask (h : Home) (index : Nat)
  | held
  deriving DecidableEq, Repr

/-- The code handle of a context: the task's at user level, that of TVEC in its handler (R212, R346). -/
def State.codeHandle (s : State) (c i : Nat) : Handle :=
  let x := s.ctx c i
  if x.sup then s.indexHandle (s.ctxidOf c) (bits x.tvec 63 48) else (s.core c).code

/-- The byte ranges of the pools of a code object: pairs of words, the first byte and the byte after the last (log
entry 19). -/
def State.poolRanges (s : State) (ctxid : Nat) (e : Ent) : List (Nat × Nat) :=
  if e.poolh = 0 then []
  else (List.range e.npool).map (fun k =>
    ((s.devWord ctxid e.poolh (16 * k)).toNat, (s.devWord ctxid e.poolh (16 * k + 8)).toNat))

/-- The word at an offset of a code object, 4 bytes and whether poison is among them: from the line that holds it, and in an
object whose BASE is no multiple of 4 from the line after it too. -/
def State.codeAt (s : State) (ctxid : Nat) (e : Ent) (c off : Nat) (h : Home) : (List Byte × Bool) × State :=
  let oaddr := e.base + off
  let i := oaddr % 128
  let (l, s) := s.codeLine c ctxid (e.leaf c) (oaddr / 128) (h.lineOf i)
  if i ≤ 124 then (((l.data.drop i).take 4, lineBad l.poison i 4), s)
  else
    let (r, s) := s.codeLine c ctxid (e.leaf c) (oaddr / 128 + 1) (h.plus (128 - i))
    ((l.data.drop i ++ r.data.take (i - 124), lineBad l.poison i (128 - i) || lineBad r.poison 0 (i - 124)), s)

/-- The page check and the read of a fetch; an entry that its cluster lacks is asked of the translation queue, and `read` is what
the queue has read for the context (R348). -/
def State.fetchWord (s : State) (c ctxid : Nat) (e : Ent) (off : Nat) (read : Option (Nat × Word)) : Fetched × State :=
  let ev := hEval e.index off
  let key := s.pteKey ctxid e off
  let refused := match read with
    | some (k, w) => if k = key then (match checkPte w .fetch ev with
      | .error b => some b
      | .ok _ => none) else none
    | none => none
  if !s.mapCached (c / 8) key .fetch && s.tableLost key 8 then (.bad (Bad.of Cause.uncorrData ev), s)
  else if !s.mapCached (c / 8) key .fetch then ((match refused with
    | some b => .bad b
    | none => .miss key), s)
  else if (s.reshaping ctxid (s.path ctxid (e.leaf c))).isSome then (.held, s)
  else match s.translateVia (c / 8) ctxid e off .fetch ev with
  | (.error b, s) => (.bad b, s)
  | (.ok h, s) => match h with
    | .peer .. => (.ask h e.index, s)
    | _ => match s.codeAt ctxid e c off h with
      | ((bs, false), s) => (.got (BitVec.ofNat 32 (leNat bs)), s)
      | ((_, true), s) => (.bad (Bad.of Cause.uncorrData ev), s)

/-- R212: the checks of a fetch at the PC of a context, in their order. -/
def State.fetch (s : State) (c i : Nat) : Fetched × State :=
  let pc := (s.ctx c i).pc
  let low := bits pc 47 0
  let ctxid := s.ctxidOf c
  match s.checkLive ctxid (s.codeHandle c i) low with
  | .error b => (.bad b, s)
  | .ok e =>
    let ev := hEval e.index low
    match checkRights e.index (if e.fmt = 15 then 0 else e.rights) [rX] with
    | .error b => (.bad b, s)
    | .ok _ =>
      if pc.toNat % 4 ≠ 0 then (.bad (Bad.of Cause.fetchAlign ev), s)
      else if e.len < pc.toNat + 4 then (.bad (Bad.of Cause.fetchBound ev), s)
      else if (s.poolRanges ctxid e).any (fun r => r.1 ≤ pc.toNat && pc.toNat < r.2) then
        (.bad (Bad.of Cause.execPool ev), s)
      else s.fetchWord c ctxid e pc.toNat (s.ctx c i).mapRead

/-- A fetch fault raises its cause at the PC; it comes from the event that is present (R212). -/
def execFetchFault (s : State) : Outcome :=
  runEvent (fun ev s => s.takeTrap ev.at_ ev.x
    ⟨ev.y, ev.words.getD 0 0, 0, ev.z, (s.ctx ev.at_ ev.x).pc⟩) s

/-- R227: a word that no check lets pass raises its cause; it is in the event that is present. -/
def execIllegalWord (s : State) : Outcome :=
  runEvent (fun ev s => s.takeTrap ev.at_ ev.x
    ⟨ev.y, ev.words.getD 0 0, 0, 0, (s.ctx ev.at_ ev.x).pc⟩) s

/-! ## The repeat sequencer (R139, R221) -/

/-- Add to a field of a word, modulo its size. -/
def addField (w lo n k : Nat) : Nat :=
  let f := w / 2 ^ lo % 2 ^ n
  w - f * 2 ^ lo + (f + k) % 2 ^ n * 2 ^ lo

/-- The captured word of pass `k` with its strides (R221). -/
def stridden (w : IWord) (strides : Word) (k : Nat) : IWord :=
  let st := fun (lo : Nat) => k * bits strides (lo + 2) lo
  let m := w.toNat / 2 ^ 26
  let v := w.toNat
  BitVec.ofNat 32 (
    if m = 0x01 ∨ m = 0x0B then addField (addField (addField v 21 5 (st 0)) 16 5 (st 3)) 11 5 (st 6)
    else if m < 0x0B then addField (addField v 21 5 (st 0)) 16 5 (st 3)
    else addField (addField (addField (addField (addField v 23 3 (st 9)) 20 3 (st 12)) 17 3 (st 15)) 12 5 (st 3)) 7 5 (st 6))

/-- The words that may be captured (R221). -/
def capturable (w : IWord) : Bool :=
  let m := w.toNat / 2 ^ 26
  (1 ≤ m && m ≤ 0x0B) || (0x29 ≤ m && m ≤ 0x2C) || (m == 0x2D && w.toNat % 128 ≤ 4)

/-- The opcodes that user level may not run, as far as the word tells (R225). -/
def Instr.isPrivileged (i : Instr) : Bool :=
  match i with
  | .eret => true
  | .halt _ => true
  | .seal _ _ => true
  | .rollbk _ _ => true
  | .csrr _ n => csrSup n.toNat
  | .csrw _ n => csrSup n.toNat
  | .csrs _ n => csrSup n.toNat
  | _ => false

/-- Step 8 of R227: the cause of a word inside a capture, after the steps before it. -/
def captureBad (w : IWord) (sup : Bool) : Option (Nat × Nat) :=
  match decode w with
  | none => some (illegalCause w)
  | some i =>
    let rsv := match i with
      | .trap d _ => !sup && d != 0
      | .snapst _ q _ => decide (2 ≤ q.toNat)
      | _ => false
    if rsv then some (Cause.illRsv, 0)
    else if Instr.isPrivileged i && !sup then some (Cause.illPriv, 0)
    else match i with
      | .rpt _ _ _ => some (Cause.rptNest, 0)
      | _ => if capturable w then none else some (Cause.illFrame, 0)

/-- The frame takes a captured word in: with the last one the replay stands at its first word, or, with no pass, after
the frame. -/
def Ctx.capture (x : Ctx) (f : RptFrame) (w : IWord) : Ctx :=
  let f := { f with words := f.words ++ [w] }
  if f.words.length < f.need then { x with rpt := some f, pc := x.pc + 4 }
  else if f.passes = 0 then { x with rpt := none, pc := x.pc + 4 }
  else { x with rpt := some { f with pass := 0, pos := 0 }, pc := f.base }

/-! ## The boundary (R350, R346) -/

/-- The oldest unread notice of a context's ring: the cause and the value (R350). -/
def State.unread (s : State) (ctxid : Nat) : Option (Nat × Word) :=
  match s.proc? ctxid with
  | none => none
  | some p =>
    let w2 := s.saveWord ctxid 2
    if bits w2 63 32 = bits w2 31 0 then none
    else
      let at_ := 0x8000 + 32 * (bits w2 31 0 % 1024)
      some (bits (s.devWord ctxid p.save (at_ + 8)) 63 56, s.devWord ctxid p.save (at_ + 16))

/-- The lowest core that runs a context of a CTXID. -/
def State.lowestCore (s : State) (ctxid : Nat) : Option Nat :=
  (s.cores.find? (fun p => p.2.inst != 0 && (p.2.ctx 0).live && s.ctxidOf p.1 == ctxid)).map (fun p => p.1)

/-- The control context of a core takes a notice now. -/
def State.noticeDue (s : State) (c : Nat) : Option (Nat × Word) :=
  let k := s.core c
  let x := k.ctx 0
  let open_ := match x.wait with
    | some (.remote _) => false
    | some .supervisor => false
    | some .monitor => false
    | some .halted => false
    | _ => true
  if x.live && !x.sup && !k.otherSup 0 && !k.rollHalt && !k.rollAsk && !k.debugHalt && !k.preempt && open_ && x.trapPend.isNone &&
      s.lowestCore (s.ctxidOf c) == some c then
    s.unread (s.ctxidOf c)
  else none

/-- R350: the control context of core `at_` enters its handler for the notice that the event carries. -/
def execNoticeEntry (s : State) : Outcome :=
  runEvent (fun ev s => match s.noticeDue ev.at_ with
    | none => s
    | some (cause, eval) =>
      let s := (s.wakeCtx ev.at_ 0).withdraw ev.at_ 0
      s.takeTrap ev.at_ 0 ⟨cause, eval, 2, 0, (s.ctx ev.at_ 0).pc⟩) s

/-- R346: a context whose trap waited for the supervisor level of its core enters its handler. -/
def execTrapEntry (s : State) : Outcome :=
  runEvent (fun ev s =>
    match (s.ctx ev.at_ ev.x).trapPend with
    | none => s
    | some r => if (s.core ev.at_).otherSup ev.x then s else s.takeTrap ev.at_ ev.x r) s

/-- R346: a context at supervisor level for 1 ms: WATCHDOG, and its task is killed. -/
def execWatchdog (s : State) : Outcome :=
  runEvent (fun ev s =>
    let x := s.ctx ev.at_ ev.x
    if x.live && x.sup then
      let task := (s.core ev.at_).task
      ((s.notice (s.ctxidOf ev.at_) Cause.watchdog (word task) ev.at_ task).logFault Cause.watchdog 2 ev.at_
        (s.ctxidOf ev.at_) (word task)).killTask task Cause.watchdog
    else s) s

/-- The contexts that have been at supervisor level for 1 ms. -/
def State.watchdogs (s : State) : List (Nat × Nat) :=
  s.cores.flatMap (fun p => (List.range 11).filterMap (fun i =>
    let x := p.2.ctx i
    if x.live && x.sup && msCycles ≤ s.clk - x.supSince then some (p.1, i) else none))

/-- R276: the contexts in `pause` that have paused for 32 cycles. -/
def State.pausesOver (s : State) : List (Nat × Nat) :=
  s.cores.flatMap (fun p => (List.range 11).filterMap (fun i =>
    let x := p.2.ctx i
    if x.wait = some .pause ∧ 32 ≤ s.cycle - x.pauseLeft then some (p.1, i) else none))

/-- R276: a `pause` ends. -/
def execPauseExpire (s : State) : Outcome := runEvent (fun ev s => s.wakeCtx ev.at_ ev.x) s

/-- Whether the registers of a frame differ from its bytes in local memory: a register was written while the frame was not
cached, so that its fill leaves it dirty (R131). -/
def State.frameStale (s : State) (c f : Nat) : Bool :=
  s.lmem.getRange (lkey c (frameBase + 256 * f)) 256 != (s.core c).frameBytes f

/-- R131: frame `x` of core `at_` is filled: the least recently issuing of four leaves, written back when it is dirty. -/
def execFrameFill (s : State) : Outcome :=
  runEvent (fun ev s =>
    let c := ev.at_
    let fs := (s.core c).frames
    if fs.any (fun f => f.1 == ev.x) then s
    else
      let s := match fs with
        | (n, d) :: _ => if 4 ≤ fs.length then
            let s := if d then s.writeBack c n else s
            s.modCore c (fun k => { k with frames := k.frames.drop 1 })
          else s
        | [] => s
      let d := s.frameStale c ev.x
      s.modCore c (fun k => { k with frames := k.frames ++ [(ev.x, d)] })) s

/-! ## One turn of a context -/

/-- What a turn runs: an instruction on a state, or a state alone. -/
inductive Turn where
  | run (i : Instr) (s : State)
  | to (s : State)
  deriving DecidableEq, Repr

/-- An event is present. -/
def State.present (s : State) (i : Instr) (e : Ev) : Turn := .run i { s with ev := e }

/-- The context that issues moves its frame to the end of the frame cache (R131). -/
def State.useFrame (s : State) (c n : Nat) : State :=
  s.modCore c (fun k => { k with
    frames := k.frames.filter (fun f => f.1 != n) ++ k.frames.filter (fun f => f.1 == n) })

/-- A word is about to run: the wait that is over is gone, but for that of a request whose answer is taken by the
instruction. An instruction that is issued afresh looks its binding up (R172). -/
def Ctx.unblock (x : Ctx) : Ctx := match x.wait with
  | some (.remote _) => x
  | none => { x with onPath := none }
  | some .yielded => { x with wait := none, onPath := none }
  | _ => { x with wait := none }

/-- R94: a core that steps stops again with the instruction it is about to run. -/
def Core.stepping (k : Core) : Core := if k.debugStep then { k with debugHalt := true, debugStep := false } else k

/-- Run a decoded word, or raise what R227 finds. -/
def State.runWord (s : State) (c i : Nat) (w : IWord) : Turn :=
  let s := s.modCore c Core.stepping
  match decode w with
  | some x => .run x s
  | none =>
    let r := illegalCause w
    s.present .illegalWord { Ev.zero with at_ := c, x := i, y := r.1, words := [word (r.2 * 2 ^ 32 + w.toNat)] }

/-- A fetched word is hashed (R106), but not again when its instruction waited and is executed again. -/
def Ctx.hashWord (x : Ctx) (w : IWord) : Ctx := match x.wait with
  | none => x.sigWord w
  | some .yielded => x.sigWord w
  | some _ => x

/-- The word of a context goes on: it is hashed (R106), captured (R139) or run. -/
def State.withWord (s : State) (c i : Nat) (w : IWord) : Turn :=
  let s := s.modCtx c i (fun x => (x.hashWord w).unblock)
  let x := s.ctx c i
  match x.rpt with
  | some f =>
    if f.active ∧ f.words.length < f.need then
      match captureBad w x.sup with
      | some r => s.present .illegalWord { Ev.zero with
          at_ := c, x := i, y := r.1, words := [word (r.2 * 2 ^ 32 + w.toNat)] }
      | none => .to (s.modCtx c i (fun x => x.capture f w))
    else s.runWord c i w
  | none => s.runWord c i w

/-- The instruction buffer holds the word at the PC (a word that came from another device). -/
def Ctx.buffered (x : Ctx) : Option IWord := match x.ibuf with
  | some (pc, w) => if pc = x.pc then some w else none
  | none => none

/-- Ask another device for the word at the PC (R52). -/
def State.askWord (s : State) (c i : Nat) (h : Home) (index : Nat) : State := match h with
  | .peer dev rctx rhnd page off =>
    let (tag, s) := s.newTag c
    let s := s.asCtx c i (fun s => s.sendRemote dev c i true false index (bits (s.ctx c i).pc 47 0)
      (s.peerMsg dev tag 0x01 2 page off 0 0 0 rctx rhnd []))
    s.modCtx c i (fun x => { x with wait := some (.fetch tag) })
  | _ => s

/-- The wait of a fetch is over with its word. -/
def Ctx.fetched (x : Ctx) : Ctx := match x.wait with
  | some (.fetchMap _) => { x with wait := none, mapRead := none }
  | _ => x

/-- R348: the translation queue of block `at_` reads the page-map entry at `x`: a valid one enters the caches of the clusters
that asked, and every access that waited for it goes on with what was read; one that is not valid is not kept. -/
def execTranslationRead (s : State) : Outcome :=
  runEvent (fun ev s =>
    let pte := word (s.mem.getLE ev.x 8)
    let s := { s with tqueue := s.tqueue.filter (fun t => t != (ev.at_, ev.x)) }
    let waits := fun (x : Ctx) => x.wait == some (.translation ev.x) || x.wait == some (.fetchMap ev.x)
    let asks := fun (k : Nat × Core) => k.1 / 64 == ev.at_ && k.2.ctxs.any waits
    let cls := ((s.cores.filter asks).map (fun k => k.1 / 8)).eraseDups
    let told := fun (x : Ctx) => if waits x then { x with mapRead := some (ev.x, pte) } else x
    let s := { s with cores := s.cores.map (fun k => if asks k then (k.1, { k.2 with ctxs := k.2.ctxs.map told }) else k) }
    if bit pte 63 && !s.tableLost ev.x 8 then cls.foldl (fun s cl => s.mapPage cl ev.x pte) s else s) s

/-- Fetch the word at the PC and go on with it. A context that executes an instruction again hashes its word once. -/
def State.fetchTurn (s : State) (c i : Nat) : Turn :=
  let x := s.ctx c i
  let fault := fun (s : State) (b : Bad) => s.present .fetchFault { Ev.zero with
    at_ := c, x := i, y := b.cause, z := b.preason, words := [b.eval] }
  match x.wait with
  | some (.fetch t) => match x.replies.find? (fun r => r.tag == t) with
    | none => .to s
    | some r =>
      let s := s.modCtx c i (fun x => { x with wait := none, replies := x.replies.filter (fun q => q.tag != t) })
      if r.op = 0x4F then fault s ⟨bits (r.words.getD 0 0) 63 56, r.words.getD 1 0, 0⟩
      else if r.poison != 0 then
        fault s (Bad.of Cause.uncorrData (hEval (s.codeHandle c i).index.toNat (bits x.pc 47 0)))
      else
        let w : IWord := BitVec.ofNat 32 (r.words.getD 0 0).toNat
        .to (s.modCtx c i (fun x => { x with ibuf := some (x.pc, w) }))
  | _ => match x.buffered with
    | some w => s.withWord c i w
    | none => if (s.core c).wq.any (fun w => w.sup) && (s.queueShut c (fun _ => true)).isSome then .to s
      else match (s.drainTables c).fetch c i with
      | (.got w, s) => (s.modCtx c i Ctx.fetched).withWord c i w
      | (.bad b, s) => fault (s.modCtx c i (fun x => { x.unblock with mapRead := none })) b
      | (.held, s) => .to s
      | (.ask h n, s) => .to (s.askWord c i h n)
      | (.miss k, s) => match s.queueMiss (c / 64) k with
        | some s => .to (s.modCtx c i (fun x => { x with wait := some (.fetchMap k) }))
        | none => .to s

/-- The turn of context `i` of core `c`: a trap that waited, a notice, which the control context takes at the boundary (R350), a frame fill, the end of a `bar`, a word of a repeat frame, or a
fetched word. A fill is no issue: the context that asked for it comes first again (R127, R131). -/
def State.turn (s : State) (c i : Nat) : Turn :=
  let last := (s.core c).lastCtx
  let s := { s.modCore c (fun k => { k with lastCtx := i }) with cur := (c, i), lastCore := c }
  let x := s.ctx c i
  let n := s.frameNo
  if x.trapPend.isSome then s.present .trapEntry { Ev.zero with at_ := c, x := i }
  else if i = 0 ∧ (s.noticeDue c).isSome then s.present .noticeEntry { Ev.zero with at_ := c }
  else if !(s.core c).frames.any (fun f => f.1 == n) then
    (s.modCore c (fun k => { k with lastCtx := last })).present .frameFill { Ev.zero with at_ := c, x := n }
  else
    let s := s.useFrame c n
    match x.bar? with
    | some w => (match runInstr (finishBar w) s with
      | .next t => .to t
      | _ => .to s)
    | none => match x.rpt with
      | some f =>
        if f.active ∧ f.need ≤ f.words.length ∧ x.buffered.isNone then
          (s.modCtx c i Ctx.unblock).runWord c i (stridden (f.words.getD f.pos 0) f.strides f.pass)
        else s.fetchTurn c i
      | none => s.fetchTurn c i

end Sys2Proof.Machine
end

