-- ==== Sys2Proof/Machine/Preempt.lean ====
section
/-! DEFINITION. Pre-emption and resume (R118 to R124, R145, R161, R351 to R353): the save of an instance, its return on any slot of
its node, yield points and donation. -/

namespace Sys2Proof.Machine

/-! ## The save (R119, R353) -/

/-- What core `c` records (R352). A core whose run has ended records nothing but that (R119). -/
def State.imageOf (s : State) (c : Nat) : CoreImage :=
  let k := s.core c
  let cl := s.cluster (c / 8)
  if k.ended then { CoreImage.zero with gangIdx := k.gangIdx, code := k.code, plan := k.plan, ended := true }
  else
    { lmem := Mem.empty.copyRange 0 s.lmem (lkey c 0) 0x40000, tiles := Mem.empty.copyRange 0 s.tiles (rowKey c 0 0) 0x80000,
      lqst := k.lqst, lweight := k.lweight, line31 := k.line31, gangIdx := k.gangIdx, sstepn := k.sstepn, sstepG := k.sstepG,
      stepRec := k.stepRec, stepNew := k.stepNew, rollable := k.rollable,
      lines := planned k.plan 0 cl.lines, bars := planned k.plan 1 cl.bars, mutexes := planned k.plan 2 cl.mutexes,
      jobs := [s.jobsOf (c / 8) (jobQueue c 0), s.jobsOf (c / 8) (jobQueue c 1)], jobSeq0 := k.jobSeq0, jobSeq1 := k.jobSeq1,
      slots := s.heldSlots c, ctxs := k.ctxs.toList, code := k.code,
      plan := k.plan, ended := false }

/-- What the cut of a core holds, as an image (R186). -/
def CoreCut.asImage (q : CoreCut) : CoreImage :=
  { q.image with
    lmem := q.lmem, tiles := q.tiles, lines := planned q.image.plan 0 q.lines, bars := planned q.image.plan 1 q.bars,
    mutexes := planned q.image.plan 2 q.mutexes }

/-- A context of a core being saved stops where its region began (R119 step 2). -/
def State.parkCtx (s : State) (c n : Nat) : State :=
  if (s.ctx c n).live then
    ((s.withdraw c n).discard c n).modCtx c n (fun x => { x with
      pauseCount := 0, yieldPoint := false, preempt := false, ibuf := none, replies := [] })
  else s

/-- Every context of a core stops and its frames are written back. -/
def State.parkCore (s : State) (c : Nat) : State := ((List.range 11).foldl (fun s n => s.parkCtx c n) s).writeBackAll c

/-- R353: a marker that arrived during the save, or that reaches the cores after the dispatcher has cut, takes effect after the
save, through the dispatcher's copy (R186). -/
def State.cutSaved (s : State) (i : Inst) (images : List CoreImage) : State :=
  match i.cores.head?.bind s.pendingCut with
  | none => s
  | some (n, m) =>
    let late := fun (c : Nat) => (s.core c).snapPhase == 1 || (m.dcuts.contains (s.partOfBlock (c / 64)) && (s.core c).snapGen != m.gen)
    if !i.cores.any late then s
    else
      -- a core that was cut-pending is cut now: granules that arriving writes have changed are as they were copied (R187)
      let pick := fun (p : Nat × CoreImage) => match m.cuts.find? (fun q => q.core == p.1 && q.taken) with
        | some q => CoreCut.asImage q
        | none => { p.2 with lmem := (s.core p.1).cowGran.foldl (fun (l : Mem) g =>
            l.copyRange (g * 1024) (s.core p.1).cowLmem (g * 1024) 1024) p.2.lmem }
      let s := i.cores.foldl (fun s c => if late c then
        s.modSnap n m.gen (fun m => m.count (niEndpoint (c / 8)) (s.core c).sent 0) else s) s
      let s := s.modSnap n m.gen (fun m => { m with
        cuts := m.cuts.filter (fun q => !i.cores.contains q.core), insts := m.insts.put i.id i,
        images := m.images ++ [⟨i.id, (i.cores.zip images).map pick, none⟩] })
      let s := i.cores.foldl (fun s c => if late c then s.modCore c (fun k =>
        { k with snapPhase := 2, snapGen := m.gen, cutGen := m.gen, sent := 0, cowGran := [], cowLmem := Mem.empty }) else s) s
      let s := s.post .backgroundCopy { Ev.zero with at_ := n, x := m.gen, y := i.id }
      i.cores.foldl (fun s c => s.post .coreCut { Ev.zero with at_ := c / 8, x := 13 }) s

/-- A saved instance that the dispatcher has copied comes back after its cut: its cores have the new colour (R186). -/
def State.cutResumed (s : State) (i : Inst) (cores : List Nat) : State :=
  match cores.head?.bind s.pendingCut with
  | none => s
  | some (n, m) =>
    if !m.images.any (fun x => x.inst == i.id) then s
    else cores.foldl (fun s c =>
      if (s.core c).snapGen = m.gen then s
      else (s.modSnap n m.gen (fun m => m.count (niEndpoint (c / 8)) (s.core c).sent 0)).modCore c (fun k =>
        { k with snapPhase := 2, snapGen := m.gen, cutGen := m.gen, sent := 0 })) s

/-- The plan's lines and barriers are zeroed in the cluster of a saved core; its mutexes stay (R145). -/
def State.zeroPlan (s : State) (c : Nat) : State :=
  let plan := (s.core c).plan
  s.modCluster (c / 8) (fun k => { k with lines := unplanned plan 0 k.lines, bars := unplanned plan 1 k.bars })

/-- R124: a mutex of the saved instance has a waiter: the owner is placed first, and a waiter whose slot fits it gives way. -/
def State.donateTo (s : State) (i : Inst) : State :=
  let held := s.clusters.flatMap (fun k => (k.2.mutexes.filter (fun m => m.2.held && m.2.owner == i.id)).flatMap (fun m => m.2.waiters))
  match held with
  | [] => s
  | w :: _ =>
    let s := { s with insts := s.insts.put i.id { i with donate := true, lender := s.ctxidOf w.1 } }
    let other := (s.core w.1).inst
    if s.donates i.id other then s.post .preempt { Ev.zero with at_ := other, x := 2, y := i.id } else s

/-- The yield points of a node look again after a pre-emption of it (R123). -/
def State.retestYield (s : State) (task node : Nat) : State :=
  let cores := ((s.instsOf task node).filter (fun j => j.st == .running)).flatMap (fun j => j.cores)
  cores.foldl (fun s c => (List.range 11).foldl (fun s n =>
    if (s.ctx c n).yieldPoint then s.post .yieldPoint { Ev.zero with at_ := c, x := n } else s) s) s

/-- Whether a saved instance may start in the slice that runs: its own function's, or that of the waiter which donates to it (R115,
R124). -/
def State.resumesNow (s : State) (n : Nat) : Bool := match s.insts.look n with
  | none => false
  | some j => match s.tasks.look j.task with
    | some t => s.mayStart t.part (s.instVf j t.ctxid)
    | none => false

/-- R353: an instance is saved, and its cores are free. -/
def State.saveInst (s : State) (i : Inst) : State :=
  let s := i.cores.foldl (fun s c => s.parkCore c) s
  let images := i.cores.map s.imageOf
  let s := (i.images.zip images).foldl (fun (s : State) (p : Nat × CoreImage) => s.putImage p.1 p.2) s
  let s := s.cutSaved i images
  let s := i.cores.foldl (fun s c => s.zeroPlan c) s
  let s := s.freeCores i.cores
  let s := i.cores.foldl (fun s c => s.scrubCore c) s
  let j := { i with st := .saved, next := 0, lender := 0, savedAt := s.clk }
  let s := ({ s with insts := s.insts.put i.id j }).donateTo j
  let s := if i.next = 0 || !s.resumesNow i.next then s
    else s.post .resume { Ev.zero with at_ := i.next, z := i.id, words := i.cores.map word }
  s.retestYield i.task i.node

/-- Whether a superstep rollback of a core's gang is in progress: the context that asked for it stays halted to its end (R104). -/
def Core.rolling (k : Core) : Bool := k.rollHalt || k.rollAsk || k.ctxs.any (fun x => x.live && x.wait == some .halted)

/-- Whether a pre-empted instance can be saved: every context has stopped, and nothing of its cores is under way; a superstep
rollback in progress completes first (R119). -/
def State.saveReady (s : State) (i : Inst) : Bool :=
  i.st == .preempting && i.cores.all (fun c =>
    let k := s.core c
    !k.rolling && !k.debugHalt && s.quiet c && (k.ended || k.ctxs.all (fun x => !x.live || k.stops x)))

/-- R119: instance `at_` is to be pre-empted. `x` says why: 0 priority (R118), 1 the end of a slice (R115), 2 donation to instance
`y` (R124), 3 a yield point that makes room for instance `y` (R123); 9 looks whether the save can be made. -/
def execPreempt (s : State) : Outcome :=
  runEvent (fun ev s => match s.insts.look ev.at_ with
    | none => s
    | some i =>
      let next := if ev.x = 2 ∨ ev.x = 3 then ev.y else 0
      let over_ := s.runOver i
      if ev.x = 9 then (if s.saveReady i then s.saveInst i else s)
      else match i.st with
        | .saved => s
        | .preempting => if i.next = 0 then { s with insts := s.insts.put i.id { i with next := next } } else s
        | .running =>
          if over_ || !s.canSave i then s
          else
            let s := s.askPreempt i next
            if ev.x = 3 then s.notice (s.instCtx i) Cause.yieldForced (word i.index) (i.cores.getD 0 0) i.task else s) s

/-- The instances that can be saved now. -/
def State.savable (s : State) : List Nat := (s.insts.filter (fun i => s.saveReady i.2)).map (fun i => i.1)

/-- R119 steps 2 and 3: a `rgnx` region is still open 100 µs after the request, the time at supervisor level not counted. -/
def State.preemptLate (s : State) : List Nat :=
  (s.insts.filter (fun i => i.2.st == .preempting && i.2.cores.any (fun c =>
    (s.core c).ctxs.any (fun x => x.live && x.rgnx && !x.preempt && !x.sup && decide (usCycles 100 + x.supSpent ≤ s.clk - i.2.reqTime))))).map (fun i => i.1)

/-- R119 step 3: the task of instance `at_` is killed, and PREEMPTED is raised to its supervisor. -/
def execPreemptTimeout (s : State) : Outcome :=
  runEvent (fun ev s => match s.insts.look ev.at_ with
    | none => s
    | some i => (s.notice (s.instCtx i) Cause.preempted (word i.task) 0xFFFF i.task).killTask i.task Cause.preempted) s

/-! ## The resume (R120, R161, R353) -/

/-- A context of an image, ready at RGNPC (R120); one that waited at a barrier waits on (R269). One that is not live keeps its frame,
which local memory holds (R352). -/
def Ctx.back (x : Ctx) : Ctx :=
  if x.live then
    { x with
      pc := x.rgnpc, lcount := 0, restarting := true, rpt := none, startPos := 0, delivered := [], pauseCount := 0, yieldPoint := false,
      preempt := false, wait := x.barWait.map BarWait.wait }
  else { Ctx.zero with regs := x.regs }

/-- The core that stands where another stood. -/
def coreInPlace (old new : List Nat) (c : Nat) : Nat := new.getD ((firstIdx (fun o => o == c) old).getD 0) 0

/-- The event resources of an image in the cluster of its new core (R145). -/
def State.putPlan (s : State) (i : Inst) (new : List Nat) (c : Nat) (m : CoreImage) : State :=
  let move := fun (b : EBar) => { b with arrived := b.arrived.map (fun a => (coreInPlace i.cores new a.1, a.2)) }
  let bars : NMap EBar := m.bars.map (fun b => (b.1, move b.2))
  let s := s.modCluster (c / 8) (fun k => k.putPlan m.plan m.lines bars m.mutexes)
  (List.range 16).foldl (fun s n => if inPlan m.plan 2 n then s.grantMutex (c / 8) n else s) s

/-- R353: core `c` takes an image. -/
def State.restoreImage (s : State) (i : Inst) (new : List Nat) (c : Nat) (m : CoreImage) : State :=
  let s := { s with
    lmem := s.lmem.copyRange (lkey c 0) m.lmem 0 0x40000, tiles := s.tiles.copyRange (rowKey c 0 0) m.tiles 0 0x80000 }
  let s := s.modCore c (fun k => { k.released with
    task := i.task, inst := i.id, gangIdx := m.gangIdx, gangSize := i.cores.length, code := m.code, plan := m.plan, ended := m.ended,
    ctxs := Vector.ofFn (fun (n : Fin 11) => (m.ctxs.getD n.val Ctx.zero).back), sregs := frameRegs m.lmem 11, lqst := m.lqst,
    lweight := m.lweight, line31 := m.line31, sstepn := m.sstepn, sstepG := m.sstepG, stepRec := m.stepRec, stepNew := m.stepNew,
    rollable := m.rollable, jobSeq0 := m.jobSeq0, jobSeq1 := m.jobSeq1, holder := s.instCtx i })
  let s := if m.ended then s else s.putPlan i new c m
  let js := fun (q : Nat) => (m.jobs.getD q []).map (fun (j : Job) => { j with core := c })
  let s := (s.setJobs (c / 8) (jobQueue c 0) (js 0)).setJobs (c / 8) (jobQueue c 1) (js 1)
  s.reloadSlots c m.slots

/-- The slots on which an instance can stand: those of its node (R109, R120). -/
def State.slotsOf (s : State) (i : Inst) : List (List Nat) := match (s.tasks.look i.task).bind (fun t => t.nodes[i.node]?) with
  | some n => n.slots
  | none => []

/-- R120: instance `at_` resumes on the free slot of its node in `words`; when a waiter donates to it, the start is charged to the
waiter's process (R124). -/
def execResume (s : State) : Outcome :=
  runEvent (fun ev s => match s.insts.look ev.at_ with
    | none => s
    | some i =>
      let new := ev.words.map (fun (w : Word) => w.toNat)
      let dead := match s.tasks.look i.task with
        | some t => t.dead.isSome
        | none => true
      if i.st != .saved || dead || s.imageCopying i.id || !(s.slotsOf i).contains new || !new.all s.coreFree then s
      else
        let s := s.cutResumed i new
        let s := (new.zip (i.images.map s.imageAt)).foldl
          (fun (s : State) (p : Nat × CoreImage) => s.restoreImage i new p.1 p.2) s
        let s := i.images.foldl (fun s k => s.dropImage k) s
        let lender := if i.donate then i.lender else 0
        ({ s with insts := s.insts.put i.id { i with
          st := .running, cores := new, images := [], donate := false, next := 0, lender := lender } }).charge1
            (if lender = 0 then s.instCtx i else lender) new.length) s

/-! ## Yield points (R123) -/

/-- R123: context `x` of core `at_` is a yield point: a pre-empted instance of its node with a lower index that finds no free slot
takes its place. -/
def execYieldPoint (s : State) : Outcome :=
  runEvent (fun ev s =>
    if !(s.ctx ev.at_ ev.x).yieldPoint then s
    else match s.insts.look (s.core ev.at_).inst with
      | none => s
      | some i =>
        let low := (s.instsOf i.task i.node).filter (fun j => j.st == .saved && decide (j.index < i.index))
        match low, (s.tasks.look i.task).bind (fun t => (t.nodes[i.node]?).map (fun n => (t, n))) with
        | j :: _, some (t, n) =>
          if i.st != .running || t.dead.isSome || (s.freeSlot t.part (4 * j.id + 2) n.slots).isSome then s
          else s.post .preempt { Ev.zero with at_ := i.id, x := 3, y := j.id }
        | _, _ => s) s

end Sys2Proof.Machine
end

