-- ==== Sys2Proof/Machine/Start.lean ====
section
/-! DEFINITION. Start-up (R17, R78, R79): the seven steps, a step that fails, and minimal mode. -/

namespace Sys2Proof.Machine

/-- A device reset: everything stands as after reset, but for what is outside the reset: the fuses, the flash, the failed-start
count and its reason, the host's memory, and the model's own counters. -/
def State.deviceReset (s : State) : State :=
  { State.reset with
    host := s.host, hostSide := { HostSide.zero with denied := s.hostSide.denied }, stepNo := s.stepNo, freeNo := s.freeNo,
    boot := { Boot.zero with
      fails := s.boot.fails, reason := s.boot.reason, lifecycle := s.boot.lifecycle, fuseSeed := s.boot.fuseSeed,
      fuseRows := s.boot.fuseRows, flash := s.boot.flash } }

/-- R78: a step has failed with a reason of R79. -/
def State.startFailed (s : State) (reason : Nat) : State := s.post .startStepTimeout { Ev.zero with x := reason }

/-- A step is complete, and the next begins. -/
def State.stepOver (s : State) (n : Nat) : State :=
  let s := { s with boot := { s.boot with step := n } }
  if n < 7 then s.post .deviceStart { Ev.zero with at_ := n } else s

/-- R78 minimal mode: the lowest present block alone is in service, the links are not trained, and its queue 0 is a supervisor
queue. -/
def State.startMinimal (s : State) : State :=
  let b := (searchUp (fun i => s.boot.blocks.testBit i) 32 0).getD 0
  let s := { s with boot := { s.boot with
    phase := .minimal, step := 7, blocks := 2 ^ b, hbm := s.boot.hbm / 2 ^ (8 * b) % 256 * 2 ^ (8 * b),
    cap := s.boot.cap / 2 ^ (4 * b) % 16 * 2 ^ (4 * b), links := 0 } }
  s.modQueue (1024 * b) (fun q => { q with owner := 0x30000 })

/-- Step 1: the boot ROM reads the fuses; MEAS0 is extended. `blown` are the lifecycle bits that were blown, or have failed, since
the last start: the lifecycle only moves forward (R80; log entry 102). -/
def State.startFuses (s : State) (blown : Nat) : State :=
  let s := { s with boot := { s.boot.fused with lifecycle := s.boot.lifecycle ||| blown % 4 } }
  let s := s.extendReg 0 1 (shake256 Config.bootRom ++ leBytes 1 s.boot.lifecycle ++ s.presence)
  if s.boot.fails = 3 then s.startMinimal
  else ({ s with boot := { s.boot with fails := s.boot.fails + 1 } }).stepOver 1

/-- Step 2: the ROM verifies the table and the image, measures them, and chooses the column. -/
def State.startVerify (s : State) : State :=
  match s.tableBad, s.pewterBad with
  | some r, _ => s.startFailed r
  | none, some r => s.startFailed r
  | none, none =>
    let s := s.extendReg 1 2 (s.boot.flash.getRange 0 (s.cfg 0 4))
    let s := s.extendReg 2 4 s.flashImage
    let s := { s with
      boot := { s.boot with
        cxl := (s.cfg 0x18 1).testBit 0, window := (List.range 128).map (fun x => min (Config.windowPages x) 131072) },
      mon := { s.mon with
        version := imageVersion s.flashImage, tabver := s.cfg 8 8, counters := s.mon.counters.put 0x11 (s.cfg 0x20 8) } }
    (s.releaseColumn.deriveReport).stepOver 2

/-- The channels that fail training are marked absent (R19): below 256 HBM4 channels, from 256 on capacity channels. -/
def Boot.without (b : Boot) (bad : List Nat) : Boot :=
  let b := bad.foldl (fun (b : Boot) c =>
    if c < 256 then { b with hbm := clearBits b.hbm c 1 } else { b with cap := clearBits b.cap (c - 256) 1 }) b
  (List.range 32).foldl (fun (b : Boot) i =>
    if b.blocks.testBit i && b.hbm / 2 ^ (8 * i) % 256 == 0 then
      { b with blocks := clearBits b.blocks i 1, cap := clearBits b.cap (4 * i) 4 }
    else b) b

/-- Step 4: the channels train. The count that step 1 read is one less than the count now. -/
def State.startChannels (s : State) (bad : List Nat) : State :=
  let b := s.boot.without bad
  let keyed := fun (s : State) =>
    let (a, s) := s.draw
    let (b, s) := s.draw
    { s with mon := { s.mon with xtsKeys := s.mon.xtsKeys.put 65536 (a, b) } }
  if bad.isEmpty then (keyed s).stepOver 4
  else if s.boot.fails < 3 || s.boot.dies.any (fun d => !b.hasDie d) then s.startFailed 6
  else (keyed { s with boot := b }).stepOver 4

/-- Step 7: the boot status register is set and ADMIT packets are accepted; the first partition stands (log entry 21). -/
def State.startDone (s : State) : State :=
  let s := { s with boot := { s.boot with phase := .running, fails := 0, reason := 0 } }
  let b := (searchUp (fun i => s.boot.blocks.testBit i) 32 0).getD 0
  (s.createPart 0 (2 ^ b) 0x1000).stepOver 7

/-- Step 5: the banks and the local memories are scrubbed, the switches and the home slices are cleared, and the monitor's
message key is drawn. -/
def State.startScrub (s : State) : State :=
  let (k, s) := s.draw
  { s.mapVcs (fun _ => true) Vc.emptied with
    lmem := Mem.empty, tiles := Mem.empty, slots := Mem.empty, slices := [], switches := [], net := [],
    mon := { s.mon with keys := s.mon.keys.put 65536 k } }

/-- R17, R78: the step after step `at_`. `words` are the units that fail in it: Solder interfaces at step 3 (whichever of the hub's
and the edge's fails first, the step fails), channels at step 4, anything at step 5. Step 0 of a device that has started is a reset
of it: power is good again and reset is released, so that R17 runs from its first step. -/
def execDeviceStart (s : State) : Outcome :=
  runEvent (fun ev s =>
    let bad := ev.words.map (fun w => w.toNat)
    if ev.at_ = 0 ∧ s.boot.phase ≠ .off then s.deviceReset
    else if ev.at_ ≠ s.boot.step ∨ s.boot.phase ≠ .off then s
    else match ev.at_ with
      | 0 => s.startFuses ev.y
      | 1 => s.startVerify
      | 2 => if bad.isEmpty then s.stepOver 3 else s.startFailed 5
      | 3 => s.startChannels bad
      | 4 => if bad.isEmpty then s.startScrub.stepOver 5 else s.startFailed 7
      | 5 => ((onesOf s.boot.links 16).foldl (fun s l => s.trainLink l 2) s).stepOver 6
      | _ => s.startDone) s

/-- R78: a step that failed, or took 2 s, resets the device; `x` is the reason of R79. -/
def execStartStepTimeout (s : State) : Outcome :=
  runEvent (fun ev s =>
    if s.boot.phase ≠ .off then s
    else
      let s := s.deviceReset
      { s with boot := { s.boot with reason := ev.x } }) s

/-- R78: standby power is lost: the count of failed starts clears. -/
def execStandbyPowerLoss (s : State) : Outcome := runEvent (fun _ s => { s with boot := { s.boot with fails := 0 } }) s

end Sys2Proof.Machine
end

