-- ==== Sys2Proof/Machine/Dispatch.lean ====
section
/-! DEFINITION. One arm per constructor of Instr: the meaning of each instruction and each event. -/

namespace Sys2Proof.Machine

/-- What one instruction, or one event, does. -/
def exec (i : Instr) (s : State) : Host.Outcome State Fault Refusal :=
  match i with
  | .add d a b => Sys2Proof.Machine.execAdd d a b s
  | .sub d a b => Sys2Proof.Machine.execSub d a b s
  | .and d a b => Sys2Proof.Machine.execAnd d a b s
  | .or d a b => Sys2Proof.Machine.execOr d a b s
  | .xor d a b => Sys2Proof.Machine.execXor d a b s
  | .andn d a b => Sys2Proof.Machine.execAndn d a b s
  | .sll d a b => Sys2Proof.Machine.execSll d a b s
  | .srl d a b => Sys2Proof.Machine.execSrl d a b s
  | .sra d a b => Sys2Proof.Machine.execSra d a b s
  | .rol d a b => Sys2Proof.Machine.execRol d a b s
  | .mul d a b => Sys2Proof.Machine.execMul d a b s
  | .mulh d a b => Sys2Proof.Machine.execMulh d a b s
  | .mulhu d a b => Sys2Proof.Machine.execMulhu d a b s
  | .div d a b => Sys2Proof.Machine.execDiv d a b s
  | .divu d a b => Sys2Proof.Machine.execDivu d a b s
  | .rem d a b => Sys2Proof.Machine.execRem d a b s
  | .remu d a b => Sys2Proof.Machine.execRemu d a b s
  | .min d a b => Sys2Proof.Machine.execMin d a b s
  | .max d a b => Sys2Proof.Machine.execMax d a b s
  | .minu d a b => Sys2Proof.Machine.execMinu d a b s
  | .maxu d a b => Sys2Proof.Machine.execMaxu d a b s
  | .slt d a b => Sys2Proof.Machine.execSlt d a b s
  | .sltu d a b => Sys2Proof.Machine.execSltu d a b s
  | .seq d a b => Sys2Proof.Machine.execSeq d a b s
  | .clz d a => Sys2Proof.Machine.execClz d a s
  | .ctz d a => Sys2Proof.Machine.execCtz d a s
  | .popc d a => Sys2Proof.Machine.execPopc d a s
  | .brev d a => Sys2Proof.Machine.execBrev d a s
  | .bext d a b => Sys2Proof.Machine.execBext d a b s
  | .bdep d a b => Sys2Proof.Machine.execBdep d a b s
  | .cmov d a b => Sys2Proof.Machine.execCmov d a b s
  | .addw d a b => Sys2Proof.Machine.execAddw d a b s
  | .addi d a imm => Sys2Proof.Machine.execAddi d a imm s
  | .andi d a imm => Sys2Proof.Machine.execAndi d a imm s
  | .ori d a imm => Sys2Proof.Machine.execOri d a imm s
  | .xori d a imm => Sys2Proof.Machine.execXori d a imm s
  | .slli d a n => Sys2Proof.Machine.execSlli d a n s
  | .srli d a n => Sys2Proof.Machine.execSrli d a n s
  | .srai d a n => Sys2Proof.Machine.execSrai d a n s
  | .roli d a n => Sys2Proof.Machine.execRoli d a n s
  | .slti d a imm => Sys2Proof.Machine.execSlti d a imm s
  | .sltiu d a imm => Sys2Proof.Machine.execSltiu d a imm s
  | .lui d imm => Sys2Proof.Machine.execLui d imm s
  | .movk d q imm => Sys2Proof.Machine.execMovk d q imm s
  | .faddS d a b => Sys2Proof.Machine.execFaddS d a b s
  | .fsubS d a b => Sys2Proof.Machine.execFsubS d a b s
  | .fmulS d a b => Sys2Proof.Machine.execFmulS d a b s
  | .fdivS d a b => Sys2Proof.Machine.execFdivS d a b s
  | .fsqrtS d a => Sys2Proof.Machine.execFsqrtS d a s
  | .fminS d a b => Sys2Proof.Machine.execFminS d a b s
  | .fmaxS d a b => Sys2Proof.Machine.execFmaxS d a b s
  | .fmaddS d a b => Sys2Proof.Machine.execFmaddS d a b s
  | .feqS d a b => Sys2Proof.Machine.execFeqS d a b s
  | .fltS d a b => Sys2Proof.Machine.execFltS d a b s
  | .fleS d a b => Sys2Proof.Machine.execFleS d a b s
  | .faddD d a b => Sys2Proof.Machine.execFaddD d a b s
  | .fsubD d a b => Sys2Proof.Machine.execFsubD d a b s
  | .fmulD d a b => Sys2Proof.Machine.execFmulD d a b s
  | .fdivD d a b => Sys2Proof.Machine.execFdivD d a b s
  | .fsqrtD d a => Sys2Proof.Machine.execFsqrtD d a s
  | .fminD d a b => Sys2Proof.Machine.execFminD d a b s
  | .fmaxD d a b => Sys2Proof.Machine.execFmaxD d a b s
  | .fmaddD d a b => Sys2Proof.Machine.execFmaddD d a b s
  | .feqD d a b => Sys2Proof.Machine.execFeqD d a b s
  | .fltD d a b => Sys2Proof.Machine.execFltD d a b s
  | .fleD d a b => Sys2Proof.Machine.execFleD d a b s
  | .fcvtSD d a => Sys2Proof.Machine.execFcvtSD d a s
  | .fcvtDS d a => Sys2Proof.Machine.execFcvtDS d a s
  | .fcvtSW d a => Sys2Proof.Machine.execFcvtSW d a s
  | .fcvtWS d a => Sys2Proof.Machine.execFcvtWS d a s
  | .fcvtDL d a => Sys2Proof.Machine.execFcvtDL d a s
  | .fcvtLD d a => Sys2Proof.Machine.execFcvtLD d a s
  | .fcvtBfS d a => Sys2Proof.Machine.execFcvtBfS d a s
  | .fcvtSBf d a => Sys2Proof.Machine.execFcvtSBf d a s
  | .ldb d a h o => Sys2Proof.Machine.execLdb d a h o s
  | .ldbu d a h o => Sys2Proof.Machine.execLdbu d a h o s
  | .ldh d a h o => Sys2Proof.Machine.execLdh d a h o s
  | .ldhu d a h o => Sys2Proof.Machine.execLdhu d a h o s
  | .ldw d a h o => Sys2Proof.Machine.execLdw d a h o s
  | .ldwu d a h o => Sys2Proof.Machine.execLdwu d a h o s
  | .ldd d a h o => Sys2Proof.Machine.execLdd d a h o s
  | .stb d a h o => Sys2Proof.Machine.execStb d a h o s
  | .sth d a h o => Sys2Proof.Machine.execSth d a h o s
  | .stw d a h o => Sys2Proof.Machine.execStw d a h o s
  | .std d a h o => Sys2Proof.Machine.execStd d a h o s
  | .stn d a h o => Sys2Proof.Machine.execStn d a h o s
  | .hset d a => Sys2Proof.Machine.execHset d a s
  | .hget d a => Sys2Proof.Machine.execHget d a s
  | .hinfo d a => Sys2Proof.Machine.execHinfo d a s
  | .hlen d a => Sys2Proof.Machine.execHlen d a s
  | .hsub d a b h => Sys2Proof.Machine.execHsub d a b h s
  | .oalloc d a b => Sys2Proof.Machine.execOalloc d a b s
  | .ofree a => Sys2Proof.Machine.execOfree a s
  | .amoSwap d a b h o w => Sys2Proof.Machine.execAmoSwap d a b h o w s
  | .amoCas d a b h o w => Sys2Proof.Machine.execAmoCas d a b h o w s
  | .amoAdd d a b h o w => Sys2Proof.Machine.execAmoAdd d a b h o w s
  | .amoAnd d a b h o w => Sys2Proof.Machine.execAmoAnd d a b h o w s
  | .amoOr d a b h o w => Sys2Proof.Machine.execAmoOr d a b h o w s
  | .amoXor d a b h o w => Sys2Proof.Machine.execAmoXor d a b h o w s
  | .amoMin d a b h o w => Sys2Proof.Machine.execAmoMin d a b h o w s
  | .amoMax d a b h o w => Sys2Proof.Machine.execAmoMax d a b h o w s
  | .amoMinu d a b h o w => Sys2Proof.Machine.execAmoMinu d a b h o w s
  | .amoMaxu d a b h o w => Sys2Proof.Machine.execAmoMaxu d a b h o w s
  | .amoFaddS d a b h o => Sys2Proof.Machine.execAmoFaddS d a b h o s
  | .redAdd a b h o w => Sys2Proof.Machine.execRedAdd a b h o w s
  | .redAnd a b h o w => Sys2Proof.Machine.execRedAnd a b h o w s
  | .redOr a b h o w => Sys2Proof.Machine.execRedOr a b h o w s
  | .redXor a b h o w => Sys2Proof.Machine.execRedXor a b h o w s
  | .redMin a b h o w => Sys2Proof.Machine.execRedMin a b h o w s
  | .redMax a b h o w => Sys2Proof.Machine.execRedMax a b h o w s
  | .redMinu a b h o w => Sys2Proof.Machine.execRedMinu a b h o w s
  | .redMaxu a b h o w => Sys2Proof.Machine.execRedMaxu a b h o w s
  | .redFaddS a b h o => Sys2Proof.Machine.execRedFaddS a b h o s
  | .redFmaxS a b h o => Sys2Proof.Machine.execRedFmaxS a b h o s
  | .rgn n => Sys2Proof.Machine.execRgn n s
  | .rgnx n => Sys2Proof.Machine.execRgnx n s
  | .beq a b o => Sys2Proof.Machine.execBeq a b o s
  | .bne a b o => Sys2Proof.Machine.execBne a b o s
  | .blt a b o => Sys2Proof.Machine.execBlt a b o s
  | .bge a b o => Sys2Proof.Machine.execBge a b o s
  | .bltu a b o => Sys2Proof.Machine.execBltu a b o s
  | .bgeu a b o => Sys2Proof.Machine.execBgeu a b o s
  | .bbs a t o => Sys2Proof.Machine.execBbs a t o s
  | .bbc a t o => Sys2Proof.Machine.execBbc a t o s
  | .j o => Sys2Proof.Machine.execJ o s
  | .jal o => Sys2Proof.Machine.execJal o s
  | .jr a => Sys2Proof.Machine.execJr a s
  | .jalr d a => Sys2Proof.Machine.execJalr d a s
  | .fence a => Sys2Proof.Machine.execFence a s
  | .rfence => Sys2Proof.Machine.execRfence s
  | .wait d a => Sys2Proof.Machine.execWait d a s
  | .evsig a b => Sys2Proof.Machine.execEvsig a b s
  | .barEvent d a b => Sys2Proof.Machine.execBarEvent d a b s
  | .barObject d b h => Sys2Proof.Machine.execBarObject d b h s
  | .lock a => Sys2Proof.Machine.execLock a s
  | .unlock a => Sys2Proof.Machine.execUnlock a s
  | .pause => Sys2Proof.Machine.execPause s
  | .vcdef a b => Sys2Proof.Machine.execVcdef a b s
  | .vcsize a => Sys2Proof.Machine.execVcsize a s
  | .vcpar a => Sys2Proof.Machine.execVcpar a s
  | .vcbind a h => Sys2Proof.Machine.execVcbind a h s
  | .vcunb a h => Sys2Proof.Machine.execVcunb a h s
  | .vcwb a o h => Sys2Proof.Machine.execVcwb a o h s
  | .vcinv a o h => Sys2Proof.Machine.execVcinv a o h s
  | .vcq d a => Sys2Proof.Machine.execVcq d a s
  | .rpt a b n => Sys2Proof.Machine.execRpt a b n s
  | .start d a b => Sys2Proof.Machine.execStart d a b s
  | .hexit => Sys2Proof.Machine.execHexit s
  | .yield => Sys2Proof.Machine.execYield s
  | .cp d a => Sys2Proof.Machine.execCp d a s
  | .mcast d a => Sys2Proof.Machine.execMcast d a s
  | .jwait d a => Sys2Proof.Machine.execJwait d a s
  | .jpoll d a => Sys2Proof.Machine.execJpoll d a s
  | .tmig d a h => Sys2Proof.Machine.execTmig d a h s
  | .cpjoin d a => Sys2Proof.Machine.execCpjoin d a s
  | .qpost d a h => Sys2Proof.Machine.execQpost d a h s
  | .send a h => Sys2Proof.Machine.execSend a h s
  | .recv d a h => Sys2Proof.Machine.execRecv d a h s
  | .qtry d a h => Sys2Proof.Machine.execQtry d a h s
  | .rdqAdd d a b h => Sys2Proof.Machine.execRdqAdd d a b h s
  | .rdqMax d a b h => Sys2Proof.Machine.execRdqMax d a b h s
  | .sstep => Sys2Proof.Machine.execSstep s
  | .snap d h => Sys2Proof.Machine.execSnap d h s
  | .snapst d n h => Sys2Proof.Machine.execSnapst d n h s
  | .rollbk a h => Sys2Proof.Machine.execRollbk a h s
  | .trap d a => Sys2Proof.Machine.execTrap d a s
  | .eret => Sys2Proof.Machine.execEret s
  | .csrr d c => Sys2Proof.Machine.execCsrr d c s
  | .csrw a c => Sys2Proof.Machine.execCsrw a c s
  | .csrs a c => Sys2Proof.Machine.execCsrs a c s
  | .halt a => Sys2Proof.Machine.execHalt a s
  | .brk imm => Sys2Proof.Machine.execBrk imm s
  | .seal d a => Sys2Proof.Machine.execSeal d a s
  | .nop => Sys2Proof.Machine.execNop s
  | .tld d h n x => Sys2Proof.Machine.execTld d h n x s
  | .tst d h n x => Sys2Proof.Machine.execTst d h n x s
  | .tzero d n => Sys2Proof.Machine.execTzero d n s
  | .tmov d n x => Sys2Proof.Machine.execTmov d n x s
  | .ttr d n x => Sys2Proof.Machine.execTtr d n x s
  | .tbc d n => Sys2Proof.Machine.execTbc d n s
  | .tgat d n x => Sys2Proof.Machine.execTgat d n x s
  | .vadd d a b n x y => Sys2Proof.Machine.execVadd d a b n x y s
  | .vsub d a b n x y => Sys2Proof.Machine.execVsub d a b n x y s
  | .vmul d a b n x y => Sys2Proof.Machine.execVmul d a b n x y s
  | .vfma d a b n x y => Sys2Proof.Machine.execVfma d a b n x y s
  | .vmin d a b n x y => Sys2Proof.Machine.execVmin d a b n x y s
  | .vmax d a b n x y => Sys2Proof.Machine.execVmax d a b n x y s
  | .vand d a b n x => Sys2Proof.Machine.execVand d a b n x s
  | .vor d a b n x => Sys2Proof.Machine.execVor d a b n x s
  | .vxor d a b n x => Sys2Proof.Machine.execVxor d a b n x s
  | .vshl d a b n x => Sys2Proof.Machine.execVshl d a b n x s
  | .vshr d a b n x => Sys2Proof.Machine.execVshr d a b n x s
  | .vexp2 d a n => Sys2Proof.Machine.execVexp2 d a n s
  | .vrcp d a n => Sys2Proof.Machine.execVrcp d a n s
  | .vrsqrt d a n => Sys2Proof.Machine.execVrsqrt d a n s
  | .vlog2 d a n => Sys2Proof.Machine.execVlog2 d a n s
  | .vtanh d a n => Sys2Proof.Machine.execVtanh d a n s
  | .vabsF32 d a n => Sys2Proof.Machine.execVabsF32 d a n s
  | .vabsBf16 d a n => Sys2Proof.Machine.execVabsBf16 d a n s
  | .vnegF32 d a n => Sys2Proof.Machine.execVnegF32 d a n s
  | .vnegBf16 d a n => Sys2Proof.Machine.execVnegBf16 d a n s
  | .vcvtBf16F32 d a p n => Sys2Proof.Machine.execVcvtBf16F32 d a p n s
  | .vcvtF32Bf16 d a p n => Sys2Proof.Machine.execVcvtF32Bf16 d a p n s
  | .vcvtF16F32 d a p n => Sys2Proof.Machine.execVcvtF16F32 d a p n s
  | .vcvtF32F16 d a p n => Sys2Proof.Machine.execVcvtF32F16 d a p n s
  | .vcvtE4m3F32 d a p n => Sys2Proof.Machine.execVcvtE4m3F32 d a p n s
  | .vcvtF32E4m3 d a p n => Sys2Proof.Machine.execVcvtF32E4m3 d a p n s
  | .vcvtE5m2F32 d a p n => Sys2Proof.Machine.execVcvtE5m2F32 d a p n s
  | .vcvtF32E5m2 d a p n => Sys2Proof.Machine.execVcvtF32E5m2 d a p n s
  | .vcvtI32F32 d a n => Sys2Proof.Machine.execVcvtI32F32 d a n s
  | .vcvtF32I32 d a n => Sys2Proof.Machine.execVcvtF32I32 d a n s
  | .vcvtBf16Cb4 d a p n => Sys2Proof.Machine.execVcvtBf16Cb4 d a p n s
  | .vcmpEqF32 d a b n x => Sys2Proof.Machine.execVcmpEqF32 d a b n x s
  | .vcmpEqBf16 d a b n x => Sys2Proof.Machine.execVcmpEqBf16 d a b n x s
  | .vcmpEqI32 d a b n x => Sys2Proof.Machine.execVcmpEqI32 d a b n x s
  | .vcmpNeF32 d a b n x => Sys2Proof.Machine.execVcmpNeF32 d a b n x s
  | .vcmpNeBf16 d a b n x => Sys2Proof.Machine.execVcmpNeBf16 d a b n x s
  | .vcmpNeI32 d a b n x => Sys2Proof.Machine.execVcmpNeI32 d a b n x s
  | .vcmpLtF32 d a b n x => Sys2Proof.Machine.execVcmpLtF32 d a b n x s
  | .vcmpLtBf16 d a b n x => Sys2Proof.Machine.execVcmpLtBf16 d a b n x s
  | .vcmpLtI32 d a b n x => Sys2Proof.Machine.execVcmpLtI32 d a b n x s
  | .vcmpLeF32 d a b n x => Sys2Proof.Machine.execVcmpLeF32 d a b n x s
  | .vcmpLeBf16 d a b n x => Sys2Proof.Machine.execVcmpLeBf16 d a b n x s
  | .vcmpLeI32 d a b n x => Sys2Proof.Machine.execVcmpLeI32 d a b n x s
  | .vsel d a b n x => Sys2Proof.Machine.execVsel d a b n x s
  | .vsum d a y n => Sys2Proof.Machine.execVsum d a y n s
  | .vmaxr d a y n => Sys2Proof.Machine.execVmaxr d a y n s
  | .vperm d a b n => Sys2Proof.Machine.execVperm d a b n s
  | .fuseF32 d a b n x => Sys2Proof.Machine.execFuseF32 d a b n x s
  | .fuseBf16 d a b n x => Sys2Proof.Machine.execFuseBf16 d a b n x s
  | .mmaBf16 d a n x => Sys2Proof.Machine.execMmaBf16 d a n x s
  | .mmaF16 d a n x => Sys2Proof.Machine.execMmaF16 d a n x s
  | .mmaE4m3 d a n x => Sys2Proof.Machine.execMmaE4m3 d a n x s
  | .mmaE5m2 d a n x => Sys2Proof.Machine.execMmaE5m2 d a n x s
  | .mmaCb4 d a n x => Sys2Proof.Machine.execMmaCb4 d a n x s
  | .wbld o x => Sys2Proof.Machine.execWbld o x s
  | .lmode m => Sys2Proof.Machine.execLmode m s
  | .lfence => Sys2Proof.Machine.execLfence s
  | .ssm d x => Sys2Proof.Machine.execSsm d x s
  | .ssmC d x => Sys2Proof.Machine.execSsmC d x s
  | .ssmR d x => Sys2Proof.Machine.execSsmR d x s
  | .deviceStart => Sys2Proof.Machine.execDeviceStart s
  | .startStepTimeout => Sys2Proof.Machine.execStartStepTimeout s
  | .standbyPowerLoss => Sys2Proof.Machine.execStandbyPowerLoss s
  | .clockFault => Sys2Proof.Machine.execClockFault s
  | .thermalWarn => Sys2Proof.Machine.execThermalWarn s
  | .thermalTrip => Sys2Proof.Machine.execThermalTrip s
  | .thermalRecover => Sys2Proof.Machine.execThermalRecover s
  | .powerCap => Sys2Proof.Machine.execPowerCap s
  | .solderFlit => Sys2Proof.Machine.execSolderFlit s
  | .d2dRetrain => Sys2Proof.Machine.execD2dRetrain s
  | .linkFlitReceive => Sys2Proof.Machine.execLinkFlitReceive s
  | .linkCrc => Sys2Proof.Machine.execLinkCrc s
  | .linkRetrain => Sys2Proof.Machine.execLinkRetrain s
  | .linkDown => Sys2Proof.Machine.execLinkDown s
  | .trainReq => Sys2Proof.Machine.execTrainReq s
  | .trainDone => Sys2Proof.Machine.execTrainDone s
  | .eack => Sys2Proof.Machine.execEack s
  | .echo => Sys2Proof.Machine.execEcho s
  | .echoReply => Sys2Proof.Machine.execEchoReply s
  | .idset => Sys2Proof.Machine.execIdset s
  | .e2eRequestArrive => Sys2Proof.Machine.execE2eRequestArrive s
  | .e2eRetransmit => Sys2Proof.Machine.execE2eRetransmit s
  | .e2eRequestFail => Sys2Proof.Machine.execE2eRequestFail s
  | .e2eAckTimer => Sys2Proof.Machine.execE2eAckTimer s
  | .switchReceive => Sys2Proof.Machine.execSwitchReceive s
  | .outputArbitrate => Sys2Proof.Machine.execOutputArbitrate s
  | .agePromote => Sys2Proof.Machine.execAgePromote s
  | .rd => Sys2Proof.Machine.execRd s
  | .wr => Sys2Proof.Machine.execWr s
  | .wrh => Sys2Proof.Machine.execWrh s
  | .atom => Sys2Proof.Machine.execAtom s
  | .red => Sys2Proof.Machine.execRed s
  | .nib => Sys2Proof.Machine.execNib s
  | .sendMsg => Sys2Proof.Machine.execSendMsg s
  | .qpostMsg => Sys2Proof.Machine.execQpostMsg s
  | .take => Sys2Proof.Machine.execTake s
  | .takecan => Sys2Proof.Machine.execTakecan s
  | .rst => Sys2Proof.Machine.execRst s
  | .rld => Sys2Proof.Machine.execRld s
  | .inv => Sys2Proof.Machine.execInv s
  | .brd => Sys2Proof.Machine.execBrd s
  | .mrd => Sys2Proof.Machine.execMrd s
  | .bwrh => Sys2Proof.Machine.execBwrh s
  | .mfwd => Sys2Proof.Machine.execMfwd s
  | .rdata => Sys2Proof.Machine.execRdata s
  | .ack => Sys2Proof.Machine.execAck s
  | .ares => Sys2Proof.Machine.execAres s
  | .msg => Sys2Proof.Machine.execMsg s
  | .empty => Sys2Proof.Machine.execEmpty s
  | .lack => Sys2Proof.Machine.execLack s
  | .fail => Sys2Proof.Machine.execFail s
  | .bdata => Sys2Proof.Machine.execBdata s
  | .mdata => Sys2Proof.Machine.execMdata s
  | .msetup => Sys2Proof.Machine.execMsetup s
  | .mjoin => Sys2Proof.Machine.execMjoin s
  | .marker => Sys2Proof.Machine.execMarker s
  | .creply => Sys2Proof.Machine.execCreply s
  | .cpoll => Sys2Proof.Machine.execCpoll s
  | .event => Sys2Proof.Machine.execEvent s
  | .sched => Sys2Proof.Machine.execSched s
  | .vcstep => Sys2Proof.Machine.execVcstep s
  | .sroll => Sys2Proof.Machine.execSroll s
  | .mon => Sys2Proof.Machine.execMon s
  | .unknownMessage => Sys2Proof.Machine.execUnknownMessage s
  | .dramComplete => Sys2Proof.Machine.execDramComplete s
  | .spillFetch => Sys2Proof.Machine.execSpillFetch s
  | .barrierArrive => Sys2Proof.Machine.execBarrierArrive s
  | .migrationEnd => Sys2Proof.Machine.execMigrationEnd s
  | .mcastSend => Sys2Proof.Machine.execMcastSend s
  | .mcastComplete => Sys2Proof.Machine.execMcastComplete s
  | .translationRead => Sys2Proof.Machine.execTranslationRead s
  | .keyGenerationInstall => Sys2Proof.Machine.execKeyGenerationInstall s
  | .tailWrite => Sys2Proof.Machine.execTailWrite s
  | .cplheadWrite => Sys2Proof.Machine.execCplheadWrite s
  | .statusClear => Sys2Proof.Machine.execStatusClear s
  | .queueEnable => Sys2Proof.Machine.execQueueEnable s
  | .queuePause => Sys2Proof.Machine.execQueuePause s
  | .queueResume => Sys2Proof.Machine.execQueueResume s
  | .queueDisable => Sys2Proof.Machine.execQueueDisable s
  | .queueReset => Sys2Proof.Machine.execQueueReset s
  | .queueConfigWrite => Sys2Proof.Machine.execQueueConfigWrite s
  | .teldataRead => Sys2Proof.Machine.execTeldataRead s
  | .registerWrite => Sys2Proof.Machine.execRegisterWrite s
  | .takePacket => Sys2Proof.Machine.execTakePacket s
  | .packetStart => Sys2Proof.Machine.execPacketStart s
  | .packetComplete => Sys2Proof.Machine.execPacketComplete s
  | .nopPacket => Sys2Proof.Machine.execNopPacket s
  | .launch => Sys2Proof.Machine.execLaunch s
  | .graph => Sys2Proof.Machine.execGraph s
  | .copy => Sys2Proof.Machine.execCopy s
  | .signal => Sys2Proof.Machine.execSignal s
  | .waitPacket => Sys2Proof.Machine.execWaitPacket s
  | .waitTimeout => Sys2Proof.Machine.execWaitTimeout s
  | .resync => Sys2Proof.Machine.execResync s
  | .snapshot => Sys2Proof.Machine.execSnapshot s
  | .admitPacket => Sys2Proof.Machine.execAdmitPacket s
  | .retire => Sys2Proof.Machine.execRetire s
  | .partCreate => Sys2Proof.Machine.execPartCreate s
  | .partReset => Sys2Proof.Machine.execPartReset s
  | .partDestroy => Sys2Proof.Machine.execPartDestroy s
  | .banks => Sys2Proof.Machine.execBanks s
  | .mapFlush => Sys2Proof.Machine.execMapFlush s
  | .report => Sys2Proof.Machine.execReport s
  | .auditRead => Sys2Proof.Machine.execAuditRead s
  | .pewterUpdate => Sys2Proof.Machine.execPewterUpdate s
  | .pewterHandover => Sys2Proof.Machine.execPewterHandover s
  | .policyLoad => Sys2Proof.Machine.execPolicyLoad s
  | .policyUnload => Sys2Proof.Machine.execPolicyUnload s
  | .policyPin => Sys2Proof.Machine.execPolicyPin s
  | .errinj => Sys2Proof.Machine.execErrinj s
  | .debugToken => Sys2Proof.Machine.execDebugToken s
  | .gangStart => Sys2Proof.Machine.execGangStart s
  | .dispatchDecision => Sys2Proof.Machine.execDispatchDecision s
  | .periodStart => Sys2Proof.Machine.execPeriodStart s
  | .sliceEnd => Sys2Proof.Machine.execSliceEnd s
  | .preempt => Sys2Proof.Machine.execPreempt s
  | .preemptTimeout => Sys2Proof.Machine.execPreemptTimeout s
  | .resume => Sys2Proof.Machine.execResume s
  | .yieldPoint => Sys2Proof.Machine.execYieldPoint s
  | .instanceComplete => Sys2Proof.Machine.execInstanceComplete s
  | .trapEntry => Sys2Proof.Machine.execTrapEntry s
  | .noticeEntry => Sys2Proof.Machine.execNoticeEntry s
  | .watchdog => Sys2Proof.Machine.execWatchdog s
  | .pauseExpire => Sys2Proof.Machine.execPauseExpire s
  | .frameFill => Sys2Proof.Machine.execFrameFill s
  | .latticeGrant => Sys2Proof.Machine.execLatticeGrant s
  | .rewireComplete => Sys2Proof.Machine.execRewireComplete s
  | .movementServe => Sys2Proof.Machine.execMovementServe s
  | .latticeComplete => Sys2Proof.Machine.execLatticeComplete s
  | .copyJobStart => Sys2Proof.Machine.execCopyJobStart s
  | .eventLineStore => Sys2Proof.Machine.execEventLineStore s
  | .eventBarStore => Sys2Proof.Machine.execEventBarStore s
  | .mutexStore => Sys2Proof.Machine.execMutexStore s
  | .barcfgWrite => Sys2Proof.Machine.execBarcfgWrite s
  | .coreCut => Sys2Proof.Machine.execCoreCut s
  | .cowCopy => Sys2Proof.Machine.execCowCopy s
  | .countPoll => Sys2Proof.Machine.execCountPoll s
  | .snapshotSeal => Sys2Proof.Machine.execSnapshotSeal s
  | .snapshotFail => Sys2Proof.Machine.execSnapshotFail s
  | .backgroundCopy => Sys2Proof.Machine.execBackgroundCopy s
  | .superstepRollback => Sys2Proof.Machine.execSuperstepRollback s
  | .partitionMetadataError => Sys2Proof.Machine.execPartitionMetadataError s
  | .requestTimeout => Sys2Proof.Machine.execRequestTimeout s
  | .fetchFault => Sys2Proof.Machine.execFetchFault s
  | .illegalWord => Sys2Proof.Machine.execIllegalWord s
  | .tdiStateChange => Sys2Proof.Machine.execTdiStateChange s
  | .cxlMemRequest => Sys2Proof.Machine.execCxlMemRequest s
  | .cxlCacheSnoop => Sys2Proof.Machine.execCxlCacheSnoop s
  | .hostMemoryCompletion => Sys2Proof.Machine.execHostMemoryCompletion s
  | .policyImageFault => Sys2Proof.Machine.execPolicyImageFault s
  | .debugPortCommand => Sys2Proof.Machine.execDebugPortCommand s
  | .d2dRetrainEnd => Sys2Proof.Machine.execD2dRetrainEnd s
  | .jobRollbackRequest => Sys2Proof.Machine.execJobRollbackRequest s

end Sys2Proof.Machine
end

