-- ==== Sys2Proof/Machine/Turn.lean ====
section
/-! DEFINITION. What the next step is (log entry 1): the oldest due event, a unit of the device that can act, or a context
that is ready. -/

namespace Sys2Proof.Machine

/-- Core `c` can send the oldest entry of its write queue on. -/
def State.canDrain (s : State) (c : Nat) : Bool :=
  match (s.core c).wq with
  | [] => false
  | w :: _ => (s.reshaping (s.ctxidOf c) (s.path (s.ctxidOf c) w.leaf)).isNone

/-- The clusters the device has used. -/
def State.usedClusters (s : State) : List Nat := s.cores.map (fun p => p.1 / 8) |>.eraseDups

/-- A reshaping that is in hand-over and whose waiting accesses have all been admitted (R399). -/
def State.handOvers (s : State) : List (Nat × Nat) :=
  s.procs.flatMap (fun p => p.2.vcs.filterMap (fun v => match v.2.op with
    | some (_, .handover) =>
      if s.cores.any (fun k => s.ctxidOf k.1 == p.1 && k.2.ctxs.any (fun x => x.live && x.wait == some (.vcOpen v.1)))
      then none else some (p.1, v.1)
    | _ => none))

/-- One of the entries of a list, by the step number, so that each gets its turn. -/
def State.oneOf {α : Type} (s : State) (l : List α) : Option α := l[s.stepNo % (max l.length 1)]?

/-- The queues whose next packet starts now; one that starts a task waits for a decision of the dispatcher (R117). -/
def State.starters (s : State) : List Nat :=
  (s.queues.filter (fun (k : Nat × HostQueue) => s.hasQueue k.1 && (match k.2.nextStart (k.1 < 65536) with
    | some p => k.2.aborts p || !s.tooHot k.1 p
    | none => false) && (s.startable k.1 k.2).isNone)).map (fun k => k.1)

/-- The links with a waiting message that can leave. -/
def State.pumpable (s : State) : List Nat :=
  (s.links.filter (fun k => k.2.trained && !k.2.down && !k.2.retrain && decide (k.2.unacked.length < 512) &&
    k.2.waiting.any (s.mayLeave k.2))).map (fun k => k.1)

/-- The kinds of work of the units. -/
def unitKinds : Nat := 41

/-- Work of the clusters and the cores. -/
def State.clusterWork (s : State) (k : Nat) : Option Turn :=
  let cores := s.cores.map (fun p => p.1)
  let at_ := fun (i : Instr) (l : List Nat) => (s.oneOf l).map (fun n => s.present i { Ev.zero with at_ := n })
  let at2 := fun (i : Instr) (l : List (Nat × Nat)) =>
    (s.oneOf l).map (fun n => s.present i { Ev.zero with at_ := n.1, x := n.2 })
  match k with
  | 0 => (s.oneOf (cores.filter s.canDrain)).map (fun c => .to (s.drainOne c))
  | 1 => at_ .latticeGrant (s.usedClusters.filter s.grantReady)
  | 2 => at_ .rewireComplete (s.usedClusters.filter (fun c => (s.cluster c).rewire.isSome))
  | 3 => at_ .movementServe (s.usedClusters.filter (fun cl => (coresOf cl).any s.moveReadyCore))
  | 4 => at2 .latticeComplete (cores.filterMap (fun c => (s.completable c).map (fun n => (c, n))))
  | 5 => (s.oneOf s.handOvers).map (fun p => .to (s.handOver p.1 p.2))
  | 6 => at2 .pauseExpire s.pausesOver
  | 7 => at2 .watchdog s.watchdogs
  | 8 => at2 .coreCut ((cores.filter s.cutReady).map (fun c => (c, 11)))
  | 9 => at_ .noticeEntry (cores.filter (fun c => (s.noticeDue c).isSome))
  | 10 => at2 .translationRead s.tqueue
  | 11 => at2 .copyJobStart s.jobSteps
  | _ => none

/-- Work of the fabric, the home slices and the links. -/
def State.fabricWork (s : State) (k : Nat) : Option Turn :=
  let at_ := fun (i : Instr) (l : List Nat) => (s.oneOf l).map (fun n => s.present i { Ev.zero with at_ := n })
  let at2 := fun (i : Instr) (l : List (Nat × Nat)) =>
    (s.oneOf l).map (fun n => s.present i { Ev.zero with at_ := n.1, x := n.2 })
  match k with
  | 12 => s.injectEvent.map (fun p => p.2.present .switchReceive p.1)
  | 13 => at2 .outputArbitrate s.readyOutputs
  | 14 => at2 .dramComplete s.dramReady
  | 15 => (s.oneOf s.wakeable).map (fun p => .to (s.wakeReq p.1 p.2))
  | 16 => at2 .mcastSend s.mcastDue
  | 17 => at2 .e2eRetransmit s.overdue
  | 18 => at2 .requestTimeout s.timedOut
  | 19 => at_ .e2eAckTimer s.owedAcks
  | 20 => (s.oneOf s.transits).map (fun m => if s.transitDone m then s.present .migrationEnd { Ev.zero with at_ := m } else .to (s.copyPage m))
  | 21 => at_ .d2dRetrainEnd s.soldersDue
  | 22 => (s.oneOf s.trainAnswers).map (fun l => .to (s.answerTrain l))
  | 23 => at2 .linkRetrain (s.trainsOver.map (fun l => (l, 1)))
  | 24 => (s.oneOf s.pumpable).map (fun l => .to (s.pump l))
  | 25 => at_ .countPoll s.pollsDue
  | _ => none

/-- Work of the queues, the dispatchers and the monitor. -/
def State.hostWork (s : State) (k : Nat) : Option Turn :=
  let parts := s.parts.map (fun p => p.1)
  let at_ := fun (i : Instr) (l : List Nat) => (s.oneOf l).map (fun n => s.present i { Ev.zero with at_ := n })
  let at2 := fun (i : Instr) (l : List (Nat × Nat)) =>
    (s.oneOf l).map (fun n => s.present i { Ev.zero with at_ := n.1, x := n.2 })
  match k with
  | 26 => at_ .takePacket s.takers
  | 27 => at_ .packetStart s.starters
  | 28 => at2 .waitPacket s.waitsOver
  | 29 => at2 .waitTimeout s.waitsLate
  | 30 => at_ .periodStart (parts.filter s.periodDue)
  | 31 => at_ .sliceEnd (parts.filter s.sliceDue)
  | 32 => at_ .dispatchDecision (parts.filter s.decisionDue)
  | 33 => at_ .instanceComplete s.instsOver
  | 34 => (s.oneOf s.savable).map (fun i => s.present .preempt { Ev.zero with at_ := i, x := 9 })
  | 35 => at_ .preemptTimeout s.preemptLate
  | 36 => (s.oneOf s.flushesOver).map (fun e => s.present .mapFlush e)
  | 37 => (s.oneOf s.stepsDue).map (fun p => .to (s.stepDone p.1 p.2))
  | 38 => if s.quiescent then some (s.present .pewterHandover Ev.zero) else none
  | 39 => (s.oneOf s.rollsDue).map (fun e => s.present .superstepRollback e)
  | 40 => (s.oneOf s.goalsDue).map (fun e => s.present .jobRollbackRequest e)
  | _ => none

/-- What a unit does next, by kind of work. -/
def State.unitWork (s : State) (k : Nat) : Option Turn :=
  if k < 12 then s.clusterWork k else if k < 26 then s.fabricWork k else s.hostWork k

/-- The next unit that can act, in round robin over the kinds of work. -/
def State.unitTurn (s : State) : Option Turn :=
  ((List.range unitKinds).map (fun i => (s.engineNext + i) % unitKinds)).findSome? (fun k =>
    ({ s with engineNext := (k + 1) % unitKinds }).unitWork k)

/-- A ready context's turn. -/
def State.contextTurn (s : State) : Option Turn := s.nextCtx?.map (fun p => s.turn p.1 p.2)

/-- The next work of the fabric, the home slices and the links, in round robin. -/
def State.fabricTurn (s : State) : Option Turn :=
  ((List.range 14).map (fun i => 12 + (s.engineNext + 2 + i) % 14)).findSome? (fun k => ({ s with engineNext := k + 1 }).unitWork k)

/-- The next step: a due event first; while a home slice has requests pending, the fabric and the slices go on, so that no access
that a unit makes in its own step overtakes them (R176); then units and contexts in alternation; with nothing to do, time
passes. -/
def State.pick (s : State) : Turn :=
  match s.agenda with
  | (i, e) :: t => .run i { s with agenda := t, ev := e }
  | [] =>
    if !s.dramReady.isEmpty then s.fabricTurn.getD (.to s)
    else if s.engineTurn then (s.unitTurn.orElse (fun _ => s.contextTurn)).getD (.to s)
    else (s.contextTurn.orElse (fun _ => s.unitTurn)).getD (.to s)

/-- Time passes: a number of fabric cycles that the spec does not give (log entry 7). -/
def State.tick (s : State) : State :=
  { s with clk := s.clk + Config.stepTime s.stepNo, stepNo := s.stepNo + 1, engineTurn := !s.engineTurn }

/-! ## Placing an instruction (log entry 20) -/

/-- The object-table entry of a code object of 64 KiB at page 3 of tier 0, with R and X. -/
def placedEnt (key : Nat) : Ent :=
  { index := 1, key := key, base := 0x100000, len := 0x10000, die := 0, tier := 0, mig := 0, qv := false, qt := false, acct := 0,
    fmt := 0, cbslot := 0, gen := 0, owner := 1, rights := 5, binds := 0, pmap := 0x20000, poolh := 0, npool := 0,
    rsvBad := false }

/-- A context admitted with nothing but a table of two entries. -/
def placedProc : Proc :=
  { part := 1, proc := 0, vf := 0, weight := 1, prot := false, resH := 0, resC := 0, usedH := 0, usedC := 0, otbase := 0x10000,
    otlen := 2, acctbase := 0x100, cbbase := 8, save := 0, qfirst := 0, qcount := 0, vcs := [], banks := [], cmeas := [],
    retired := false, nextObj := 0x200000, left := [] }

/-- The state with a word placed as the next instruction of the control context of core 0. -/
def State.placeWord (s : State) (w : Nat) : State :=
  let s := s.modPart 1 (fun p => { p with blocks := 1, slices := [(0, [0])] })
  let s := { s with procs := s.procs.put 1 placedProc }
  let s := s.putEnt (placedEnt (memKey 1 0 0 0x10040))
  let m := s.mem.putLE (memKey 1 0 0 0x20000) 8 (2 ^ 63 + 2 ^ 62 + 3)
  let s := { s with mem := m.putLE (memKey 1 0 0 0x30000) 4 w }
  let t : Task := ⟨1, 1, 1, 0, .none, [], 0, none, none, false, 0⟩
  let n : Inst := ⟨1, 1, 0, 0, [0], .running, [], 0, false, 0, 0, 0⟩
  let s := { s with
    tasks := s.tasks.put 1 t, insts := s.insts.put 1 n, agenda := [], engineTurn := false,
    boot := { s.boot with phase := .running, step := 7 } }
  let s := s.modCluster 0 (fun k => { k with tcache := [(memKey 1 0 0 0x20000, word (2 ^ 63 + 2 ^ 62 + 3))] })
  s.setCore 0 ({ Core.idle with task := 1, inst := 1, gangSize := 1, code := ⟨1, 0⟩, frames := [(0, false)] }.setCtx 0
    (Ctx.fresh 0 0 0 0 0))

end Sys2Proof.Machine
end

