-- ==== Sys2Proof/Machine/Step.lean ====
section
/-! DEFINITION. One step of the machine, and the state with an instruction placed as the next. -/

namespace Sys2Proof.Machine

/-- One step: what `State.pick` chooses is run. -/
def step (s : State) : Host.Outcome State Fault Refusal :=
  match s.pick with
  | .run i t => exec i t.tick
  | .to t => .next t.tick

/-- The state whose next step fetches and runs the instruction whose bits are `w` (log entry 20). -/
def State.withFetchWord (s : State) (nbits w : Nat) : State := s.placeWord (w % 2 ^ nbits)

end Sys2Proof.Machine
end

