-- ==== Sys2Proof/Safety.lean ====
section
/-! DEFINITION. What counts as a safe run. -/

namespace Sys2Proof

/-- A step that goes on: neither a fault nor a refusal. -/
def Safe (s : Machine.State) : Prop := ∃ t, Machine.step s = .next t

/-- A byte store in its canonical form, in every store of the state. -/
def MemsWf (s : Machine.State) : Prop :=
  s.mem.wf = true ∧ s.host.wf = true ∧ s.lmem.wf = true ∧ s.tiles.wf = true ∧ s.slots.wf = true

end Sys2Proof
end

