-- ==== Sys2Proof/Certificates/Slice0/Obligations.lean ====
section
/-! DEFINITION. The statements for the provers. Each names the rules of the spec that it formalises. -/

namespace Sys2Proof.Spec

open Sys2Proof.Machine

/-! ## Words of the statements -/

/-- R106: the block that is open, if one is, has the words that its opening names, so it may end here. -/
def BlockOk (s : State) : Prop := s.curCtx.sig.live = true → s.curCtx.sig.crc = s.curCtx.sig.expected

/-- The state with the block that is open closed (R106). -/
def closed (s : State) : State :=
  if s.curCtx.sig.live = true then s.modCur (fun x => { x with sig := SigState.idle }) else s

/-- What the instruction of a statement answers: the next state `t`. -/
abbrev Answers (i : Instr) (s t : State) : Prop := exec i s = .next t

/-- The state after the context that issues takes an exception at its instruction (R346). -/
def raised (s : State) (cause : Nat) (eval : Word) : State :=
  s.takeTrap s.cur.1 s.cur.2 ⟨cause, eval, 0, 0, s.curCtx.pc⟩

/-! ## Integer instructions -/

/-- R233, R235: the destination and the value of each register operation. -/
def aluValue (s : State) (i : Instr) : Option (BitVec 5 × Word) :=
  match i with
  | .add d a b => some (d, s.x a + s.x b)
  | .sub d a b => some (d, s.x a - s.x b)
  | .and d a b => some (d, s.x a &&& s.x b)
  | .or d a b => some (d, s.x a ||| s.x b)
  | .xor d a b => some (d, s.x a ^^^ s.x b)
  | .andn d a b => some (d, s.x a &&& ~~~ s.x b)
  | .sll d a b => some (d, s.x a <<< ((s.x b).toNat % 64))
  | .srl d a b => some (d, s.x a >>> ((s.x b).toNat % 64))
  | .sra d a b => some (d, (s.x a).sshiftRight ((s.x b).toNat % 64))
  | .rol d a b => some (d, (s.x a).rotateLeft ((s.x b).toNat % 64))
  | .mul d a b => some (d, BitVec.ofNat 64 ((s.x a).toNat * (s.x b).toNat))
  | .mulh d a b => some (d, BitVec.ofInt 64 ((s.x a).toInt * (s.x b).toInt / 2 ^ 64))
  | .mulhu d a b => some (d, BitVec.ofNat 64 ((s.x a).toNat * (s.x b).toNat / 2 ^ 64))
  | .min d a b => some (d, if (s.x a).toInt < (s.x b).toInt then s.x a else s.x b)
  | .max d a b => some (d, if (s.x a).toInt < (s.x b).toInt then s.x b else s.x a)
  | .minu d a b => some (d, if (s.x a).toNat < (s.x b).toNat then s.x a else s.x b)
  | .maxu d a b => some (d, if (s.x a).toNat < (s.x b).toNat then s.x b else s.x a)
  | .slt d a b => some (d, if (s.x a).toInt < (s.x b).toInt then 1 else 0)
  | .sltu d a b => some (d, if (s.x a).toNat < (s.x b).toNat then 1 else 0)
  | .seq d a b => some (d, if s.x a = s.x b then 1 else 0)
  | .clz d a => some (d, clzW (s.x a))
  | .ctz d a => some (d, ctzW (s.x a))
  | .popc d a => some (d, popcW (s.x a))
  | .brev d a => some (d, (s.x a).reverse)
  | .bext d a b => some (d, word (bextFrom (s.x a).toNat (s.x b).toNat 64 0 0))
  | .bdep d a b => some (d, word (bdepFrom (s.x a).toNat (s.x b).toNat 64 0 0))
  | .cmov d a b => some (d, if s.x b = 0 then s.x d else s.x a)
  | .addw d a b => some (d, (((s.x a).setWidth 32 + (s.x b).setWidth 32 : BitVec 32)).signExtend 64)
  | _ => none

/-- R236: the destination and the value of each immediate operation. -/
def immValue (s : State) (i : Instr) : Option (BitVec 5 × Word) :=
  match i with
  | .addi d a i => some (d, s.x a + i.signExtend 64)
  | .andi d a i => some (d, s.x a &&& i.setWidth 64)
  | .ori d a i => some (d, s.x a ||| i.setWidth 64)
  | .xori d a i => some (d, s.x a ^^^ i.setWidth 64)
  | .slli d a n => some (d, s.x a <<< n.toNat)
  | .srli d a n => some (d, s.x a >>> n.toNat)
  | .srai d a n => some (d, (s.x a).sshiftRight n.toNat)
  | .roli d a n => some (d, (s.x a).rotateLeft n.toNat)
  | .slti d a i => some (d, if (s.x a).toInt < i.toInt then 1 else 0)
  | .sltiu d a i => some (d, if (s.x a).toNat < (i.signExtend 64).toNat then 1 else 0)
  | .lui d i => some (d, i.signExtend 64 <<< 16)
  | .movk d q i => some (d, (s.x d &&& ~~~ (0xFFFF#64 <<< (16 * q.toNat))) ||| (i.setWidth 64 <<< (16 * q.toNat)))
  | _ => none

/-- R234: the destination, the dividend, the divisor and the value of each division. -/
def divValue (s : State) (i : Instr) : Option (BitVec 5 × Word × Word × Word) :=
  match i with
  | .div d a b => some (d, s.x a, s.x b, BitVec.ofInt 64 ((s.x a).toInt.tdiv (s.x b).toInt))
  | .divu d a b => some (d, s.x a, s.x b, BitVec.ofNat 64 ((s.x a).toNat / (s.x b).toNat))
  | .rem d a b => some (d, s.x a, s.x b, BitVec.ofInt 64 ((s.x a).toInt.tmod (s.x b).toInt))
  | .remu d a b => some (d, s.x a, s.x b, BitVec.ofNat 64 ((s.x a).toNat % (s.x b).toNat))
  | _ => none

/-! ## Scalar floating point -/

/-- R238, R239, R240: the destination, the value and the flags of each scalar floating-point instruction. -/
def fpValue (s : State) (i : Instr) : Option (BitVec 5 × Word × Flags5) :=
  let r := fun (d : BitVec 5) (v : FRes) => some (d, word v.bits, v.flags)
  let t := fun (d : BitVec 5) (v : Bool × Flags5) => some (d, (if v.1 then 1 else 0 : Word), v.2)
  let z := fun (d : BitVec 5) (v : Int × Flags5) => some (d, BitVec.ofInt 64 v.1, v.2)
  match i with
  | .faddS d a b => r d (fAdd .f32 s.rm (s.f32 a) (s.f32 b))
  | .fsubS d a b => r d (fSub .f32 s.rm (s.f32 a) (s.f32 b))
  | .fmulS d a b => r d (fMul .f32 s.rm (s.f32 a) (s.f32 b))
  | .fdivS d a b => r d (fDiv .f32 s.rm (s.f32 a) (s.f32 b))
  | .fsqrtS d a => r d (fSqrt .f32 s.rm (s.f32 a))
  | .fminS d a b => r d (fMinMax .f32 false (s.f32 a) (s.f32 b))
  | .fmaxS d a b => r d (fMinMax .f32 true (s.f32 a) (s.f32 b))
  | .fmaddS d a b => r d (fFma .f32 s.rm (s.f32 a) (s.f32 b) (s.f32 d))
  | .feqS d a b => t d (fCmp .eq (s.f32 a) (s.f32 b))
  | .fltS d a b => t d (fCmp .lt (s.f32 a) (s.f32 b))
  | .fleS d a b => t d (fCmp .le (s.f32 a) (s.f32 b))
  | .faddD d a b => r d (fAdd .f64 s.rm (s.f64 a) (s.f64 b))
  | .fsubD d a b => r d (fSub .f64 s.rm (s.f64 a) (s.f64 b))
  | .fmulD d a b => r d (fMul .f64 s.rm (s.f64 a) (s.f64 b))
  | .fdivD d a b => r d (fDiv .f64 s.rm (s.f64 a) (s.f64 b))
  | .fsqrtD d a => r d (fSqrt .f64 s.rm (s.f64 a))
  | .fminD d a b => r d (fMinMax .f64 false (s.f64 a) (s.f64 b))
  | .fmaxD d a b => r d (fMinMax .f64 true (s.f64 a) (s.f64 b))
  | .fmaddD d a b => r d (fFma .f64 s.rm (s.f64 a) (s.f64 b) (s.f64 d))
  | .feqD d a b => t d (fCmp .eq (s.f64 a) (s.f64 b))
  | .fltD d a b => t d (fCmp .lt (s.f64 a) (s.f64 b))
  | .fleD d a b => t d (fCmp .le (s.f64 a) (s.f64 b))
  | .fcvtSD d a => r d (fConv .f32 s.rm (s.f64 a))
  | .fcvtDS d a => r d (fConv .f64 s.rm (s.f32 a))
  | .fcvtSW d a => r d (fOfInt .f32 s.rm ((s.x a).setWidth 32).toInt)
  | .fcvtWS d a => z d (fToInt 32 s.rm (s.f32 a))
  | .fcvtDL d a => r d (fOfInt .f64 s.rm (s.x a).toInt)
  | .fcvtLD d a => z d (fToInt 64 s.rm (s.f64 a))
  | .fcvtBfS d a => r d (fConv .bf16 s.rm (s.f32 a))
  | .fcvtSBf d a => r d (fConv .f32 s.rm (s.bf16 a))
  | _ => none

/-- R206: FCSR.TEN. -/
def enabled (s : State) : Flags5 := BitVec.ofNat 5 (bits s.curCtx.fcsr 12 8)

/-- R241: the cause of the first flag of a set in the order NV, DZ, OF, UF, NX. -/
def firstFpCause (f : Flags5) : Nat :=
  if f.getLsbD 4 then 0x40 else if f.getLsbD 3 then 0x41 else if f.getLsbD 2 then 0x42 else if f.getLsbD 1 then 0x43 else 0x44

/-! ## Branches -/

/-- R242, R243: whether each branch is taken, and its target. -/
def branchOf (s : State) (i : Instr) : Option (Bool × Word) :=
  let pc := s.curCtx.pc
  match i with
  | .beq a b o => some (decide (s.x a = s.x b), pc + o.signExtend 64 * 4)
  | .bne a b o => some (decide (s.x a ≠ s.x b), pc + o.signExtend 64 * 4)
  | .blt a b o => some (decide ((s.x a).toInt < (s.x b).toInt), pc + o.signExtend 64 * 4)
  | .bge a b o => some (decide ((s.x b).toInt ≤ (s.x a).toInt), pc + o.signExtend 64 * 4)
  | .bltu a b o => some (decide ((s.x a).toNat < (s.x b).toNat), pc + o.signExtend 64 * 4)
  | .bgeu a b o => some (decide ((s.x b).toNat ≤ (s.x a).toNat), pc + o.signExtend 64 * 4)
  | .bbs a t o => some ((s.x a).getLsbD t.toNat, pc + o.signExtend 64 * 4)
  | .bbc a t o => some (!(s.x a).getLsbD t.toNat, pc + o.signExtend 64 * 4)
  | _ => none

/-- R244, R245: the link register of each jump (x0 for none) and its target. -/
def jumpOf (s : State) (i : Instr) : Option (BitVec 5 × Word) :=
  let pc := s.curCtx.pc
  match i with
  | .j o => some (0, pc + o.signExtend 64 * 4)
  | .jal o => some (31, pc + o.signExtend 64 * 4)
  | .jr a => some (0, s.x a)
  | .jalr d a => some (d, s.x a)
  | _ => none

end Sys2Proof.Spec

open Sys2Proof Sys2Proof.Machine Sys2Proof.Spec

/-! ## Words, steps and reset -/

/-- R212, R227: every well-formed instruction with a word is read back from that word, whatever its operands. (An event has
no word: its encoding is 0.) -/
def Obligations.DecodeReadsEncodedInstruction : Prop :=
  ∀ i : Instr, i.wellFormed = true → encode i ≠ 0 → decode (encode i) = some i

/-- A context takes its turn (R127): it is the context that issues. -/
def Sys2Proof.Spec.turned (s : State) (c i : Nat) : State :=
  { s.modCore c (fun k => { k with lastCtx := i }) with cur := (c, i), lastCore := c }

/-- The same with its frame the most recent of the frame cache (R131). -/
def Sys2Proof.Spec.onTurn (s : State) (c i : Nat) : State := (turned s c i).useFrame c (turned s c i).frameNo

/-- The state on which a fetched word runs (R106, R212): the word has entered the hash of the open block, and the wait that
is over is gone. -/
def Sys2Proof.Spec.onWord (t : State) (c i : Nat) (w : IWord) : State :=
  ((t.modCtx c i Ctx.fetched).modCtx c i (fun x => (x.hashWord w).unblock)).modCore c Core.stepping

/-- R127, R212, R227: when no event is due, no home slice has a request to serve and context `i` of core `c` has its turn, with its frame
in the frame cache, no trap, notice, barrier or repeat frame of its own, the stores of supervisor code free to leave its write queue (log
entry 11) and the word `w` fetched at its PC, `step` is `exec` of the instruction that `w` decodes to, at the state of the turn with the
clock moved on (log entries 1 and 7). An event that is due is run first, the oldest before the others, on the state in which it is
present (log entry 1). -/
def Obligations.StepRunsDecodedInstruction : Prop :=
  (∀ (s t : State) (c i : Nat) (w : IWord) (x : Instr),
    s.agenda = [] → s.dramReady = [] → s.engineTurn = false → s.nextCtx? = some (c, i) →
    (s.ctx c i).trapPend = none → (s.ctx c i).bar? = none → (s.ctx c i).rpt = none →
    (∀ g, (s.ctx c i).wait ≠ some (.fetch g)) → (s.ctx c i).ibuf = none →
    (i = 0 → (turned s c i).noticeDue c = none) →
    (s.core c).frames.any (fun f => f.1 == (turned s c i).frameNo) = true →
    (((onTurn s c i).core c).wq.any (fun w => w.sup) = true → (onTurn s c i).queueShut c (fun _ => true) = none) →
    ((onTurn s c i).drainTables c).fetch c i = (.got w, t) →
    (t.ctx c i).rpt = none →
    decode w = some x →
    step s = exec x (onWord t c i w).tick) ∧
  (∀ (s : State) (i : Instr) (e : Ev) (l : List (Instr × Ev)), s.agenda = (i, e) :: l →
    step s = exec i ({ s with agenda := l, ev := e } : State).tick)

/-- R213, R226, R245, R305: words written out from the encoding tables read as the instructions they stand for. -/
def Obligations.SampleWordsDecode : Prop :=
  decode 0b000001_00001_00010_00011_00000_000000#32 = some (.add 1 2 3) ∧
  decode 0b000010_00001_00010_1111111111111111#32 = some (.addi 1 2 0xFFFF) ∧
  decode 0x701F0000#32 = some (.jr 31) ∧
  decode 0b100011_00000_00000_0000000000001000#32 = some .nop ∧
  decode 0b001100_00001_00010_0011_110_000000001#32 = some (.ldd 1 2 3 1)

/-- R214, R223, R67: right after reset the device has not started: the start-up sequence (R17) is due and nothing else,
no context is admitted, no message is in flight, no queue is enabled (R60), every cluster is in vector wiring with its
event lines and mutexes clear (R141), no weight slot is valid (R158), LWEIGHT is 0xF8 and LQST is 0 (R153, R155), SCOPE is
2 (R223). The values of the general registers and of memory are the
model's choice (log entries 2 and 4). Every memory is in its canonical form. -/
def Obligations.ResetState : Prop :=
  let s := State.reset
  s.agenda = [(.deviceStart, Ev.zero)] ∧ s.boot.phase = .off ∧ s.clk = 0 ∧ s.procs = [] ∧ s.net = [] ∧ s.tasks = [] ∧
  (∀ q, (s.queue q).qstate = 0) ∧ (∀ k l, ((s.cluster k).lines.get l ELine.zero) = ⟨0, false⟩) ∧
  (∀ k m, ((s.cluster k).mutexes.get m Mutex.zero).held = false) ∧ (∀ k, (s.cluster k).matrix = false) ∧
  (∀ k n, ((s.cluster k).slots.get n Slot.zero).valid = false) ∧
  (∀ c, (s.core c).lweight = 0xF8 ∧ (s.core c).lqst = 0 ∧ (s.core c).lq = [] ∧ (s.core c).wq = []) ∧
  (∀ c i, i < 11 → (s.ctx c i).scope = 2 ∧ (s.ctx c i).live = false ∧ (s.ctx c i).sup = false ∧ (s.ctx c i).instret = 0) ∧
  (∀ a, s.mem.get a = 0) ∧ (∀ (c : Nat) (r : BitVec 5), ({ s with cur := (c, 0) } : State).x r = 0) ∧ MemsWf s

/-- Every step goes on: the spec gives each instruction and each event an effect, a trap or a wait. Every instruction and every
event, with every operand and in every state, answers a next state. -/
def Obligations.EveryStepGoesOn : Prop := (∀ s : State, Safe s) ∧ ∀ (i : Instr) (s : State), ∃ t, Answers i s t

/-! ## Registers and integer instructions -/

/-- R214, R231, R139: x0 reads as zero and discards writes; a write to another register is what is read back, and every
other register keeps its value. Retiring counts the instruction in INSTRET, and outside a repeat frame the PC moves on by 4;
it changes no register and nothing outside the context that issues. -/
def Obligations.RegisterFile : Prop :=
  ∀ (s : State) (r : BitVec 5) (v : Word), s.cur.2 < 11 →
    s.x 0 = 0 ∧ s.setX 0 v = s ∧ (r ≠ 0 → (s.setX r v).x r = v) ∧ (∀ q, q ≠ r → (s.setX r v).x q = s.x q) ∧
    s.retire.curCtx.instret = s.curCtx.instret + 1 ∧ (s.curCtx.rpt = none → s.retire.curCtx.pc = s.curCtx.pc + 4) ∧
    (∀ q, s.retire.x q = s.x q) ∧ s.retire = { s with cores := s.retire.cores } ∧
    (∀ c i, (c, i) ≠ s.cur → s.retire.ctx c i = s.ctx c i) ∧ (∀ c, c ≠ s.cur.1 → s.retire.core c = s.core c)

/-- R231, R233, R235, R236: an integer operation on registers or on a register and an immediate writes its value to xd and
retires. -/
def Obligations.IntegerResult : Prop :=
  ∀ (s : State) (i : Instr) (d : BitVec 5) (v : Word), (aluValue s i = some (d, v) ∨ immValue s i = some (d, v)) →
    Answers i s (s.setX d v).retire

/-- R234: a division by a divisor that is not zero writes the quotient rounded toward zero, or the remainder with the sign
of the dividend; a zero divisor raises INT_DIVZERO (0x45) with EVAL the dividend, and the destination is unchanged. -/
def Obligations.DivisionResult : Prop :=
  ∀ (s : State) (i : Instr) (d : BitVec 5) (a b v : Word), divValue s i = some (d, a, b, v) →
    (b ≠ 0 → Answers i s (s.setX d v).retire) ∧ (b = 0 → Answers i s (raised s Cause.intDivzero a))

/-- R233, R235: `clz` and `ctz` of 0 are 64; otherwise `clz` counts the zeros above the highest one bit and `ctz` those below
the lowest. `bext` takes back what `bdep` scattered: the low bits, as many as b has ones. -/
def Obligations.BitOperations : Prop :=
  clzW 0 = 64 ∧ ctzW 0 = 64 ∧
  (∀ (a : Word) (i : Nat), i < 64 → a.getLsbD i = true → (∀ j, i < j → a.getLsbD j = false) → clzW a = word (63 - i)) ∧
  (∀ (a : Word) (i : Nat), i < 64 → a.getLsbD i = true → (∀ j, j < i → a.getLsbD j = false) → ctzW a = word i) ∧
  (∀ a b : Word, bextFrom (bdepFrom a.toNat b.toNat 64 0 0) b.toNat 64 0 0 = a.toNat % 2 ^ popCount b.toNat 64)

/-- R235: `bext` gathers the bits of a under the ones of b into the low bits of the result, and the bits beyond them are 0; `bdep`
scatters the low bits of a into the places of the ones of b, and the bits outside b are 0; both retire. -/
def Obligations.GatherScatter : Prop :=
  ∀ (s : State) (d a b : BitVec 5),
    let below := fun (i : Nat) => popCount (s.x b).toNat i
    (∃ r : Word, Answers (.bext d a b) s (s.setX d r).retire ∧
      (∀ i, i < 64 → (s.x b).getLsbD i = true → r.getLsbD (below i) = (s.x a).getLsbD i) ∧
      (∀ j, below 64 ≤ j → r.getLsbD j = false)) ∧
    (∃ r : Word, Answers (.bdep d a b) s (s.setX d r).retire ∧
      (∀ i, i < 64 → (s.x b).getLsbD i = true → r.getLsbD i = (s.x a).getLsbD (below i)) ∧
      (∀ i, i < 64 → (s.x b).getLsbD i = false → r.getLsbD i = false))

/-- R231, R233 to R241: an integer or a scalar floating-point instruction changes no memory, no unit of the device and no
core but the one that issues; of its context only the registers, FCSR and, where it raises an exception, what R346 writes.
When it retires, every register but its destination keeps its value, the control registers EPC, ECAUSE, EVAL, ESTAT, TVEC,
SCRATCH, CBSEL, WCTL, SCOPE and the handle registers stand, and an integer instruction leaves FCSR. -/
def Obligations.ScalarFrame : Prop :=
  ∀ (s : State) (d : BitVec 5) (v : Word) (f : Flags5), s.cur.2 < 11 →
    let t := ((s.setX d v).orFlags f).retire
    let u := (s.setX d v).retire
    t = { s with cores := t.cores } ∧ u = { s with cores := u.cores } ∧
    (∀ c, c ≠ s.cur.1 → t.core c = s.core c ∧ u.core c = s.core c) ∧
    (∀ r, r ≠ d → t.x r = s.x r ∧ u.x r = s.x r) ∧
    u.curCtx.fcsr = s.curCtx.fcsr ∧ t.curCtx.fcsr = s.curCtx.fcsr ||| word f.toNat ∧
    (∀ x, x = t.curCtx ∨ x = u.curCtx →
      x.h = s.curCtx.h ∧ x.epc = s.curCtx.epc ∧ x.ecause = s.curCtx.ecause ∧ x.eval = s.curCtx.eval ∧
      x.estat = s.curCtx.estat ∧ x.tvec = s.curCtx.tvec ∧ x.scratch = s.curCtx.scratch ∧ x.cbsel = s.curCtx.cbsel ∧
      x.wctl = s.curCtx.wctl ∧ x.scope = s.curCtx.scope ∧ x.sup = s.curCtx.sup ∧ x.instret = s.curCtx.instret + 1) ∧
    (∀ i, i ≠ s.cur.2 → t.ctx s.cur.1 i = s.ctx s.cur.1 i ∧ u.ctx s.cur.1 i = s.ctx s.cur.1 i) ∧
    t.curCore.lq = s.curCore.lq ∧ t.curCore.wq = s.curCore.wq ∧ t.curCore.l1 = s.curCore.l1 ∧
    t.curCore.lqst = s.curCore.lqst ∧ t.curCore.lweight = s.curCore.lweight

/-! ## Scalar floating point -/

/-- R206, R238 to R241: with no enabled flag among those it raises, a scalar floating-point instruction writes its value,
ORs its flags into FCSR.FLAGS and retires; with one, it raises the cause of the first enabled flag with EVAL [4:0] every flag
raised, and xd and FCSR are unchanged. -/
def Obligations.FloatResult : Prop :=
  ∀ (s : State) (i : Instr) (d : BitVec 5) (v : Word) (f : Flags5), fpValue s i = some (d, v, f) →
    (f &&& enabled s = 0 → Answers i s ((s.setX d v).orFlags f).retire) ∧
    (f &&& enabled s ≠ 0 → Answers i s (raised s (firstFpCause (f &&& enabled s)) (word f.toNat)))

/-! ## Branches and jumps -/

/-- R242 to R245, R106: a branch whose block may end sets PC to its target when it is taken and to PC + 4 when not; a jump
writes PC + 4 to its link register, if it has one, and sets PC to its target, which is read first. -/
def Obligations.BranchResult : Prop :=
  (∀ (s : State) (i : Instr) (taken : Bool) (target : Word), branchOf s i = some (taken, target) → BlockOk s →
    Answers i s ((closed s).retireTo (if taken = true then target else (closed s).curCtx.pc + 4))) ∧
  (∀ (s : State) (i : Instr) (link : BitVec 5) (target : Word), jumpOf s i = some (link, target) → BlockOk s →
    Answers i s (((closed s).setX link ((closed s).curCtx.pc + 4)).retireTo target))

/-- R106: a branch or jump at the end of a block whose words do not hash to what its opening names: in a region that may
restart, the first time, the region is discarded (R136); at supervisor level, in an `rgnx` region or when that block has
missed before, SIG_MISMATCH is raised, with the expected value in EVAL [15:0] and the computed one in [31:16]. -/
def Obligations.SignatureMismatch : Prop :=
  ∀ (s : State) (i : Instr), ((branchOf s i).isSome = true ∨ (jumpOf s i).isSome = true) →
    s.curCtx.sig.live = true → s.curCtx.sig.crc ≠ s.curCtx.sig.expected →
    let bad := word (s.curCtx.sig.expected + s.curCtx.sig.crc * 0x10000)
    ((s.curCtx.sup = true ∨ s.curCtx.rgnx = true ∨ s.curCtx.sig.missed = some s.curCtx.sig.opening) →
      Answers i s (raised (s.modCur (fun x => { x with sig := SigState.idle })) Cause.sigMismatch bad)) ∧
    (¬ (s.curCtx.sup = true ∨ s.curCtx.rgnx = true ∨ s.curCtx.sig.missed = some s.curCtx.sig.opening) →
      Answers i s ((s.modCur (fun x => { x with sig := { SigState.idle with missed := some s.curCtx.sig.opening } })).discard
        s.cur.1 s.cur.2))

/-! ## Loads and stores -/

/-- R249: xd, xa, the handle register, the offset field, the size and the extension of each load. -/
def Sys2Proof.Spec.loadForm (i : Instr) : Option (BitVec 5 × BitVec 5 × BitVec 4 × BitVec 9 × Nat × (Nat → Word)) :=
  match i with
  | .ldb d a h o => some (d, a, h, o, 1, fun v => (BitVec.ofNat 8 v).signExtend 64)
  | .ldbu d a h o => some (d, a, h, o, 1, fun v => BitVec.ofNat 64 v)
  | .ldh d a h o => some (d, a, h, o, 2, fun v => (BitVec.ofNat 16 v).signExtend 64)
  | .ldhu d a h o => some (d, a, h, o, 2, fun v => BitVec.ofNat 64 v)
  | .ldw d a h o => some (d, a, h, o, 4, fun v => (BitVec.ofNat 32 v).signExtend 64)
  | .ldwu d a h o => some (d, a, h, o, 4, fun v => BitVec.ofNat 64 v)
  | .ldd d a h o => some (d, a, h, o, 8, fun v => BitVec.ofNat 64 v)
  | _ => none

/-- R251: the register stored, xa, the handle register, the offset field and the size of each store. -/
def Sys2Proof.Spec.storeForm (i : Instr) : Option (BitVec 5 × BitVec 5 × BitVec 4 × BitVec 9 × Nat) :=
  match i with
  | .stb d a h o => some (d, a, h, o, 1)
  | .sth d a h o => some (d, a, h, o, 2)
  | .stw d a h o => some (d, a, h, o, 4)
  | .std d a h o => some (d, a, h, o, 8)
  | _ => none

/-- R249: the effective offset: x(xa) signed plus the offset field times the size. -/
def Sys2Proof.Spec.effective (s : State) (a : BitVec 5) (o : BitVec 9) (n : Nat) : Int := (s.x a).toInt + o.toInt * n

/-- What a load needs of R166. -/
def Sys2Proof.Spec.loadNeed (n : Nat) : Need := ⟨[rR], n, false, n, false, .read⟩

/-- What a store needs of R166. -/
def Sys2Proof.Spec.storeNeed (n : Nat) : Need := ⟨[rW], n, true, n, false, .write⟩

/-- The context that issues waits for no answer of a message: it begins its instruction, and does not take up one whose request has
left (R269). -/
def Sys2Proof.Spec.starts (s : State) : Prop := ∀ g, s.curCtx.wait ≠ some (.remote g)

/-- R167, R249, R250: an aligned load through h0 in local memory below the frames reads its bytes, little-endian; in the
frames it reads the registers they hold (R132); an 8-byte load in the event window reads the event unit (R141). -/
def Obligations.LocalLoadResult : Prop :=
  ∀ (s : State) (i : Instr) (d a : BitVec 5) (o : BitVec 9) (n : Nat) (ext : Nat → Word),
    loadForm i = some (d, a, 0, o, n, ext) →
    let off := effective s a o n
    let c := s.cur.1
    off % n = 0 →
    (0 ≤ off → off + n ≤ 0x3F400 → s.lmem.poisoned (c * 2 ^ 18 + off.toNat) n = false →
      Answers i s (s.setX d (ext (s.lmem.getLE (c * 2 ^ 18 + off.toNat) n))).retire) ∧
    (0x3F400 ≤ off → off + n ≤ 0x40000 →
      let f := (off.toNat - 0x3F400) / 256
      let r := (off.toNat - 0x3F400) % 256 / 8
      Answers i s (s.setX d (ext (((s.core c).frameReg f r).toNat / 2 ^ (8 * (off.toNat % 8)) % 2 ^ (8 * n)))).retire) ∧
    (n = 8 → 0x200000 ≤ off → off + 8 ≤ 0x201000 →
      Answers i s (s.setX d (s.eventRead c (off.toNat - 0x200000))).retire)

/-- R166, R167: the traps of a load or a store through h0: H_BOUND outside the local range, H_ALIGN for a misaligned offset or
an access of the event window that is not 8 bytes, WINDOW_SCALAR in windows 1 to 7; EVAL holds the low 48 bits of the
offset. -/
def Obligations.LocalAccessTraps : Prop :=
  ∀ (s : State) (i : Instr) (a : BitVec 5) (o : BitVec 9) (n : Nat),
    ((∃ d ext, loadForm i = some (d, a, 0, o, n, ext)) ∨ (∃ d, storeForm i = some (d, a, 0, o, n))) →
    let off := effective s a o n
    let ev := word (off % 2 ^ 48).toNat
    ((off < 0 ∨ 0x201000 < off + n) → Answers i s (raised s Cause.hBound ev)) ∧
    (0 ≤ off → off + n ≤ 0x201000 → off % n ≠ 0 → Answers i s (raised s Cause.hAlign ev)) ∧
    (0x200000 ≤ off → off + n ≤ 0x201000 → off % n = 0 → n ≠ 8 → Answers i s (raised s Cause.hAlign ev)) ∧
    (0x40000 ≤ off → off < 0x200000 → off % n = 0 → Answers i s (raised s Cause.windowScalar ev))

/-- R251, R252, R167: an aligned store through h0 in local memory below the frames writes the low bytes of its register
there, little-endian, and nothing else in any memory; a store in the frames writes the register (R132). -/
def Obligations.LocalStoreResult : Prop :=
  ∀ (s : State) (i : Instr) (d a : BitVec 5) (o : BitVec 9) (n : Nat), storeForm i = some (d, a, 0, o, n) →
    let off := effective s a o n
    let c := s.cur.1
    let t := (s.localWrite c off.toNat (leBytes n (s.x d).toNat)).retire
    off % n = 0 → 0 ≤ off → off + n ≤ 0x40000 →
    Answers i s t ∧ t.mem = s.mem ∧ t.host = s.host ∧ t.tiles = s.tiles ∧ t.slots = s.slots ∧
    (off + n ≤ 0x3F400 →
      (∀ k, k < n → t.lmem.get (c * 2 ^ 18 + off.toNat + k) = BitVec.ofNat 8 ((s.x d).toNat / 256 ^ k)) ∧
      (∀ b, (b < c * 2 ^ 18 + off.toNat ∨ c * 2 ^ 18 + off.toNat + n ≤ b) → t.lmem.get b = s.lmem.get b)) ∧
    (0x3F400 ≤ off → t.lmem = s.lmem)

/-- R249, R250, R253: a load of a global object that passes `check_handle` (R166), with format 0, a home on this device or in
host memory, no bank of its path being reshaped and no queued store for its line, reads its bytes from the
line as the path gives it (R171, R172). When the line must come from host memory and the host aborts the access, it raises
REMOTE_FAIL (R52, R267) with an EVAL that the spec does not give for it (log entry 6). -/
def Obligations.GlobalLoadResult : Prop :=
  ∀ (s u w : State) (i : Instr) (d a : BitVec 5) (h : BitVec 4) (o : BitVec 9) (n : Nat) (ext : Nat → Word) (acc : Acc)
    (l : CLine),
    loadForm i = some (d, a, h, o, n, ext) → h ≠ 0 → starts s → starts u →
    checkHandle (s.hreg h.toNat) (effective s a o n) (loadNeed n) s = .ok acc u → acc.ent.fmt = 0 →
    let c := u.cur.1
    let ctxid := u.ctxidOf c
    let leaf := u.accLeaf acc.ent
    let la := (acc.ent.base + acc.off) / 128
    let k := (acc.ent.base + acc.off) % 128
    u.reshaping ctxid (u.path ctxid leaf) = none →
    u.curCore.wq.any (fun q => q.oaddr / 128 == la) = false →
    (∀ v x y p q, acc.homeAt 0 ≠ .peer v x y p q) →
    let far := (findLine u.curCore.l1 la).isNone && u.reachesHome ctxid la ((2 ^ n - 1) * 2 ^ k) (u.path ctxid leaf)
    ((u.hostDenies (acc.homeAt 0) && far) = false →
      u.l1Line c ctxid leaf la ((acc.homeAt 0).lineOf k) none ((2 ^ n - 1) * 2 ^ k) = (l, w) → lineBad l.poison k n = false →
      Answers i s (w.setX d (ext (leNat ((l.data.drop k).take n)))).retire) ∧
    ((u.hostDenies (acc.homeAt 0) && far) = true →
      let t := u.abortEval.2
      Answers i s (t.takeTrap t.cur.1 t.cur.2 ⟨Cause.remoteFail, u.abortEval.1, 0, 0, t.curCtx.pc⟩))

/-- R251, R252: a store to a global object that passes `check_handle`, with format 0, that keeps the exclusion of W and X
(R92), enters the write queue behind the entries that stand there, and the instruction retires; no memory changes yet. With
the queue full the context waits for room. -/
def Obligations.GlobalStoreResult : Prop :=
  ∀ (s u : State) (i : Instr) (d a : BitVec 5) (h : BitVec 4) (o : BitVec 9) (n : Nat) (acc : Acc),
    storeForm i = some (d, a, h, o, n) → h ≠ 0 →
    checkHandle (s.hreg h.toNat) (effective s a o n) (storeNeed n) s = .ok acc u → acc.ent.fmt = 0 →
    let bytes := leBytes n (s.x d).toNat
    let entry : WqEntry := ⟨u.cur.2, .store, acc.ent.index, acc.off, acc.ent.base + acc.off, acc.homeAt 0,
      acc.ent.leaf u.cur.1, bytes, u.curCtx.sup⟩
    u.wxBad (acc.homeAt 0) bytes = false →
    let v := u.modCurCore (fun k => { k with wq := k.wq ++ [entry] })
    let t := (if acc.ent.rights.testBit rJ then v else v.modCurCore (fun k => { k with rollable := false })).retire
    (u.curCore.wq.length < 16 → Answers i s t ∧ t.mem = u.mem ∧ t.host = u.host ∧ t.lmem = u.lmem ∧ t.tiles = u.tiles) ∧
    (16 ≤ u.curCore.wq.length → Answers i s (u.modCur (fun x => { x with wait := some .writeRoom })))

/-- R255, R252: `stn` replaces one nibble of the byte that holds element e, the low one for an even e. Through h0 it writes
local memory and retires; outside windows 0 and 5 it raises WINDOW_SCALAR. To a global object of format 0 or 5 that passes
`check_handle` it enters the write queue. -/
def Obligations.NibbleStoreResult : Prop :=
  (∀ (s : State) (d a : BitVec 5) (o : BitVec 9),
    let e := effective s a o 1
    let b := e / 2
    let p := b.toNat % 0x40000
    let old := ((s.localRead s.cur.1 p 1).getD 0 0).toNat
    let v := (s.x d).toNat % 16
    let new := if e % 2 = 1 then v * 16 + old % 16 else old / 16 * 16 + v
    (0 ≤ b → b < 0x40000 ∨ (0x140000 ≤ b ∧ b < 0x180000) →
      Answers (.stn d a 0 o) s (s.localWrite s.cur.1 p [BitVec.ofNat 8 new]).retire) ∧
    ((0x40000 ≤ b ∧ b < 0x140000) ∨ (0x180000 ≤ b ∧ b < 0x200000) →
      Answers (.stn d a 0 o) s (raised s Cause.windowScalar (word (b % 2 ^ 48).toNat)))) ∧
  (∀ (s u : State) (d a : BitVec 5) (h : BitVec 4) (o : BitVec 9) (acc : Acc), h ≠ 0 →
    let e := effective s a o 1
    let v := (s.x d).toNat % 16
    checkHandle (s.hreg h.toNat) (e / 2) (storeNeed 1) s = .ok acc u → (acc.ent.fmt = 0 ∨ acc.ent.fmt = 5) →
    let old := ((u.homeRead (acc.homeAt 0) 1).1.getD 0 0).toNat
    u.wxBad (acc.homeAt 0) [BitVec.ofNat 8 (if e % 2 = 1 then v * 16 + old % 16 else old / 16 * 16 + v)] = false →
    u.curCore.wq.length < 16 →
    let entry : WqEntry := ⟨u.cur.2, .nib (decide (e % 2 = 1)) v, acc.ent.index, acc.off, acc.ent.base + acc.off,
      acc.homeAt 0, acc.ent.leaf u.cur.1, [], u.curCtx.sup⟩
    let t := u.modCurCore (fun k => { k with wq := k.wq ++ [entry] })
    Answers (.stn d a h o) s
      (if acc.ent.rights.testBit rJ then t else t.modCurCore (fun k => { k with rollable := false })).retire)

/-- What R166 aligns: the address, BASE plus the offset, of an access that is aligned to its size, so that it straddles no
line; the offset in a gang window and of a range (log entry 97). -/
def Sys2Proof.Spec.place (e : Ent) (n : Need) (off : Int) : Nat :=
  if n.align = n.size ∧ e.fmt ≠ 15 then e.base + off.toNat else off.toNat

/-- R101, R165, R166: the steps of the check in their order: an entry whose line is lost or poisoned, an entry that is not live (H_STALE
when it has been freed since the handle was made: R261, log entry 140), a generation that is not the handle's, a missing right, a plain
access to an object with S, the bound, the alignment (what is aligned: log entry 97). -/
def Obligations.CheckOrder : Prop :=
  ∀ (s : State) (ctxid : Nat) (h : Handle) (off : Int) (n : Need),
    let ev := word (h.index.toNat * 2 ^ 48 + (off % 2 ^ 48).toNat)
    (s.entLost ctxid h.index.toNat = true → s.checkEnt ctxid h off n = .error ⟨Cause.uncorrData, ev, 0⟩) ∧
    (s.entLost ctxid h.index.toNat = false → s.liveEnt ctxid h.index.toNat = none →
      s.checkEnt ctxid h off n = .error ⟨if s.freedUnder ctxid h = true then Cause.hStale else Cause.hInvalid, ev, 0⟩) ∧
    ∀ e, s.entLost ctxid h.index.toNat = false → s.liveEnt ctxid h.index.toNat = some e →
      let rights := if e.fmt = 15 then e.rights % 4 else e.rights
      (e.gen ≠ h.gen.toNat → s.checkEnt ctxid h off n = .error ⟨Cause.hStale, ev, 0⟩) ∧
      (e.gen = h.gen.toNat → ∀ (l m : List Nat) (r : Nat), n.rights = l ++ r :: m →
        (∀ q, q ∈ l → rights.testBit q = true) → rights.testBit r = false →
        s.checkEnt ctxid h off n = .error ⟨rightCause r, word (e.index * 2 ^ 48 + r), 0⟩) ∧
      (e.gen = h.gen.toNat → (∀ q, q ∈ n.rights → rights.testBit q = true) →
        (n.plain = true → e.rights.testBit rS = true → s.checkEnt ctxid h off n = .error ⟨Cause.syncStore, ev, 0⟩) ∧
        ((n.plain = false ∨ e.rights.testBit rS = false) →
          ((off < 0 ∨ (e.len : Int) < off + n.size) → s.checkEnt ctxid h off n = .error ⟨Cause.hBound, ev, 0⟩) ∧
          (0 ≤ off → off + n.size ≤ (e.len : Int) →
            (n.align ≠ 0 → place e n off % n.align ≠ 0 → s.checkEnt ctxid h off n =
              .error ⟨if n.atomic = true then Cause.atomicAlign else Cause.hAlign, ev, 0⟩) ∧
            ((n.align = 0 ∨ place e n off % n.align = 0) → s.checkEnt ctxid h off n = .ok e))))

/-- R168, R183, R255: a load through a gang window sends a read to the named member's network interface and waits for its
answer; when the answer is there, the load takes it into xd and retires. A store sends a remote store there; it retires at
once as a commit instruction, and RFCNT counts it. -/
def Obligations.GangWindowAccess : Prop :=
  (∀ (s u : State) (i : Instr) (d a : BitVec 5) (h : BitVec 4) (o : BitVec 9) (n : Nat) (ext : Nat → Word) (e : Ent)
    (m b : Nat),
    loadForm i = some (d, a, h, o, n, ext) → h ≠ 0 → starts s → starts u →
    checkEntry (s.hreg h.toNat) (effective s a o n) (loadNeed n) s = .ok e u → e.fmt = 15 →
    u.gangTarget (effective s a o n).toNat = some (m, b) →
    let v := u.modCur (fun x => { x with access := some ⟨e, (effective s a o n).toNat, []⟩ })
    starts v →
    let (tag, t) := v.newTag v.cur.1
    Answers i s ((t.sendLocal m 0x0C tag (sizeCode n) b e.index (effective s a o n).toNat true []).modCur
      (fun x => { x with wait := some (.remote tag) }))) ∧
  (∀ (s : State) (i : Instr) (d a : BitVec 5) (h : BitVec 4) (o : BitVec 9) (n : Nat) (ext : Nat → Word) (acc : Acc)
    (m b g : Nat) (r : Reply),
    loadForm i = some (d, a, h, o, n, ext) → h ≠ 0 → s.curCtx.wait = some (.remote g) → s.curCtx.access = some acc →
    acc.ent.fmt = 15 → s.gangTarget acc.off = some (m, b) →
    let v := s.modCur (fun x => { x with access := some ⟨acc.ent, acc.off, []⟩ })
    v.curCtx.wait = some (.remote g) → v.curCtx.replies.find? (fun q => q.tag == g) = some r → r.op ≠ 0x4F → r.poison = 0 →
    let t := (v.modCur (fun x => { x with replies := x.replies.filter (fun q => q.tag != g) })).modCur
      (fun x => { x with wait := none, access := none, noFill := false })
    Answers i s (t.setX d (ext ((r.words.getD 0 0).toNat % 2 ^ (8 * n)))).retire) ∧
  (∀ (s u : State) (i : Instr) (d a : BitVec 5) (h : BitVec 4) (o : BitVec 9) (n : Nat) (e : Ent) (m b : Nat),
    storeForm i = some (d, a, h, o, n) → h ≠ 0 → u.curCtx.sig.live = false →
    checkEntry (s.hreg h.toNat) (effective s a o n) (storeNeed n) s = .ok e u → e.fmt = 15 →
    u.gangTarget (effective s a o n).toNat = some (m, b) → u.curCore.rfcnt < 255 →
    let (tag, t) := u.newTag u.cur.1
    let v := t.sendLocal m 0x0B tag (sizeCode n) b e.index (effective s a o n).toNat false
      [word ((s.x d).toNat % 2 ^ (8 * n))]
    Answers i s (v.modCurCore (fun k => { k with rfcnt := k.rfcnt + 1 })).commit)

/-- R179, R252: a store that leaves the write queue for an object with no virtual cache on its path, whose line is in
service and holds no read-only field, reaches memory: its bytes are there, and every other byte is as it was. -/
def Obligations.DrainedStoreReachesMemory : Prop :=
  ∀ (s : State) (key : Nat) (bytes : List Byte) (mask : Nat), s.inService key = true → s.forwardTo key = [] →
    s.jobs = [] → (∀ k b, s.roByte k b = b) →
    s.guarded (.mem key) bytes (s.roMask key bytes.length mask) = mask →
    let t := storeAt 0 256 0 0 (.mem key) bytes mask 0 [] s
    (∀ k, k < bytes.length → mask.testBit k = true → t.mem.get (key + k) = bytes.getD k 0) ∧
    (∀ b, (b < key ∨ key + bytes.length ≤ b ∨ mask.testBit (b - key) = false) → t.mem.get b = s.mem.get b) ∧
    t.host = s.host ∧ t.lmem = s.lmem ∧ t.tiles = s.tiles ∧ t.slots = s.slots

/-! ## Releases and acquires -/

/-- R359, R270: a release of the context that issues at a scope goes through now: no virtual cache concerned is being
reshaped, and at package and job scope no store, atomic or clean on another device is open afterwards (R356). -/
def Sys2Proof.Spec.settled (s : State) (scope : Nat) : Prop :=
  let ctxid := s.ctxidOf s.cur.1
  s.queueShut s.cur.1 (fun _ => true) = none ∧
  s.reshaping ctxid (s.scopeVcs s.cur.1 ctxid scope) = none ∧
  ((scope = 2 ∨ scope = 3) → (s.release s.cur.1 scope).storesBusy = false)

/-- R360: an acquire of the context that issues at a scope goes through now. -/
def Sys2Proof.Spec.acquirable (s : State) (scope : Nat) : Prop :=
  s.reshaping (s.ctxidOf s.cur.1) (s.scopeVcs s.cur.1 (s.ctxidOf s.cur.1) scope) = none

/-- The release when the ordering asks for one. -/
def Sys2Proof.Spec.releasedIf (s : State) (on : Prop) [Decidable on] (scope : Nat) : State :=
  if on then s.release s.cur.1 scope else s

/-- The acquire when the ordering asks for one. -/
def Sys2Proof.Spec.acquiredIf (s : State) (on : Prop) [Decidable on] (scope : Nat) : State :=
  if on then s.acquire s.cur.1 scope else s

/-- R186, R229: a commit instruction retires; `rollable` says that R103 lets the superstep stay rollable. -/
def Sys2Proof.Spec.committed (s : State) (rollable : Bool) : State :=
  if rollable = true then s.commit else (s.modCurCore (fun k => { k with rollable := false })).commit

/-- R270, R359, R360: `fence` with a scope of R223 whose virtual cache, if it names one, is defined, releases and then
acquires at it and retires. A value above 0xFF raises ILL_RSV, a byte that is no scope VC_RANGE with detail 6, a virtual
cache that is not defined VC_UNDEF. -/
def Sys2Proof.Spec.FenceResult : Prop :=
  ∀ (s : State) (a : BitVec 5),
    let sc := (s.x a).toNat
    let t := s.release s.cur.1 sc
    (sc < 256 → (sc < 4 ∨ (0x41 ≤ sc ∧ sc ≤ 0x7F ∧ (s.vc (s.ctxidOf s.cur.1) (sc - 0x40)).isSome = true)) →
      settled s sc → acquirable t sc → Answers (.fence a) s (t.acquire t.cur.1 sc).retire) ∧
    (256 ≤ sc → Answers (.fence a) s (raised s Cause.illRsv (word (2 ^ 32 + (encode (.fence a)).toNat)))) ∧
    ((4 ≤ sc ∧ sc < 0x41) ∨ (0x80 ≤ sc ∧ sc < 256) → Answers (.fence a) s (raised s Cause.vcRange 6)) ∧
    (0x41 ≤ sc → sc ≤ 0x7F → s.vc (s.ctxidOf s.cur.1) (sc - 0x40) = none →
      Answers (.fence a) s (raised s Cause.vcUndef (word ((sc - 0x40) * 256))))

/-! ## Atomics and reductions -/

/-- R262: xd, xa, xb, the handle register, the ordering, the operation and the size of each atomic. -/
def Sys2Proof.Spec.amoForm (i : Instr) : Option (BitVec 5 × BitVec 5 × BitVec 5 × BitVec 4 × Nat × Nat × Nat) :=
  let z := fun (w : BitVec 1) => if w = 1 then 8 else 4
  match i with
  | .amoSwap d a b h o w => some (d, a, b, h, o.toNat, 0, z w)
  | .amoCas d a b h o w => some (d, a, b, h, o.toNat, 1, z w)
  | .amoAdd d a b h o w => some (d, a, b, h, o.toNat, 2, z w)
  | .amoAnd d a b h o w => some (d, a, b, h, o.toNat, 3, z w)
  | .amoOr d a b h o w => some (d, a, b, h, o.toNat, 4, z w)
  | .amoXor d a b h o w => some (d, a, b, h, o.toNat, 5, z w)
  | .amoMin d a b h o w => some (d, a, b, h, o.toNat, 6, z w)
  | .amoMax d a b h o w => some (d, a, b, h, o.toNat, 7, z w)
  | .amoMinu d a b h o w => some (d, a, b, h, o.toNat, 8, z w)
  | .amoMaxu d a b h o w => some (d, a, b, h, o.toNat, 9, z w)
  | .amoFaddS d a b h o => some (d, a, b, h, o.toNat, 20, 4)
  | _ => none

/-- R265: xa, xb, the handle register, whether it releases, the operation and the size of each reduction. -/
def Sys2Proof.Spec.redForm (i : Instr) : Option (BitVec 5 × BitVec 5 × BitVec 4 × Bool × Nat × Nat) :=
  let z := fun (w : BitVec 1) => if w = 1 then 8 else 4
  match i with
  | .redAdd a b h o w => some (a, b, h, o == 1, 2, z w)
  | .redAnd a b h o w => some (a, b, h, o == 1, 3, z w)
  | .redOr a b h o w => some (a, b, h, o == 1, 4, z w)
  | .redXor a b h o w => some (a, b, h, o == 1, 5, z w)
  | .redMin a b h o w => some (a, b, h, o == 1, 6, z w)
  | .redMax a b h o w => some (a, b, h, o == 1, 7, z w)
  | .redMinu a b h o w => some (a, b, h, o == 1, 8, z w)
  | .redMaxu a b h o w => some (a, b, h, o == 1, 9, z w)
  | .redFaddS a b h o => some (a, b, h, o == 1, 20, 4)
  | .redFmaxS a b h o => some (a, b, h, o == 1, 21, 4)
  | _ => none

/-- What an atomic or a reduction needs of R166. -/
def Sys2Proof.Spec.atomNeed (n : Nat) : Need := ⟨[rA], n, false, n, true, .write⟩

/-- R262, R265: the new value of an operation on the old one, both of `8 * n` bits; none writes nothing. -/
def Sys2Proof.Spec.combine (m n old b expect : Nat) : Option Nat :=
  let z := fun (v : Nat) => (BitVec.ofNat (8 * n) v).toInt
  match m with
  | 0 => some b
  | 1 => if old = expect then some b else none
  | 2 => some ((old + b) % 2 ^ (8 * n))
  | 3 => some (old &&& b)
  | 4 => some (old ||| b)
  | 5 => some (old ^^^ b)
  | 6 => some (if z old ≤ z b then old else b)
  | 7 => some (if z b ≤ z old then old else b)
  | 8 => some (min old b)
  | 9 => some (max old b)
  | 20 => some (fAdd .f32 .rne (Fmt.f32.unpack old) (Fmt.f32.unpack b)).bits
  | _ => none

/-- R262: what an atomic writes to xd: the old value, of 4 bytes sign-extended, but zero-extended for `amo.fadd.s`. -/
def Sys2Proof.Spec.oldValue (m n old : Nat) : Word :=
  if m = 20 then BitVec.ofNat 64 (old % 2 ^ 32) else if n = 4 then (BitVec.ofNat 32 old).signExtend 64 else BitVec.ofNat 64 old

/-- R262, R363: an atomic at a line of memory in service, with no poison, that breaks neither the exclusion of W and X nor,
when it acquires, the record of the line's last release: it answers the old value, little-endian; the bytes it writes are
those of the operation; an operation that writes nothing leaves memory as it is; one that releases records its node. -/
def Obligations.AtomicAtHome : Prop :=
  ∀ (s : State) (c ctxid key m n ord b expect scope : Nat) (a : Acc), a.homeAt 0 = .mem key → (n = 4 ∨ n = 8) →
    b < 2 ^ (8 * n) → expect < 2 ^ (8 * n) → (m ≤ 9 ∨ (m = 20 ∧ n = 4)) →
    s.inService key = true → s.mem.poisoned key n = false →
    ((ord = 1 ∨ ord = 3) → ∀ r, s.sync.look (4 * (key / 128)) = some r → s.includes c ctxid a.ent scope r = true) →
    (∀ bs, s.wxBad (.mem key) bs = false) →
    let old := s.mem.getLE key n
    let t := match combine m n old b expect with
      | some v => s.homeStore (.mem key) (leBytes n v) (2 ^ n - 1)
      | none => s
    s.atomHome c ctxid a m n ord b expect scope = .ok (old,
      if ord = 2 ∨ ord = 3 then { t with sync := t.sync.put (4 * (key / 128)) (t.node c ctxid scope) } else t)

/-- R262, R263, R264: an atomic whose block may end, on a global object of format 0 that passes `check_handle` with the A
right, at a home of this device or in host memory that answers, with the scope of SCOPE defined and on its path when it is
ordered: the release of ordering 2 and 3 comes first, then the line leaves the path and the operation is performed at home
with the colour of the core's cut (R183) (as `atomHome` says), then the acquire of ordering 1 and 3; xd receives the old value, and the instruction commits. -/
def Obligations.AtomicResult : Prop :=
  ∀ (s u w : State) (i : Instr) (d a b : BitVec 5) (h : BitVec 4) (ord m n old : Nat) (acc : Acc),
    amoForm i = some (d, a, b, h, ord, m, n) → h ≠ 0 → BlockOk s → starts (closed s) →
    checkHandle ((closed s).hreg h.toNat) (s.x a).toInt (atomNeed n) (closed s) = .ok acc u → acc.ent.fmt = 0 →
    (∀ v x y p q, acc.homeAt 0 ≠ .peer v x y p q) → u.hostDenies (acc.homeAt 0) = false →
    let c := u.cur.1
    let ctxid := u.ctxidOf c
    let scope := u.curCtx.scope.toNat % 256
    let leaf := u.accLeaf acc.ent
    let la := (acc.ent.base + acc.off) / 128
    (ord ≠ 0 → u.scopeCheck ctxid (acc.ent.leaf c) scope = .ok ()) → ((ord = 1 ∨ ord = 3) → acquirable u scope) →
    u.reshaping ctxid (u.path ctxid leaf) = none → u.curCore.wq.any (fun q => q.oaddr / 128 == la) = false →
    ((ord = 2 ∨ ord = 3) → settled u scope) →
    let v := (((releasedIf u (ord = 2 ∨ ord = 3) scope).snoop ctxid c la).coloured c ctxid leaf la
      (fun s => s.pathClean c ctxid leaf la)).countOwn c (acc.homeAt 0)
    ({ v with colour := some (parity (v.core c).snapGen) } : State).atomHome c ctxid acc m n ord
      ((s.x b).toNat % 2 ^ (8 * n)) ((s.x d).toNat % 2 ^ (8 * n)) scope = .ok (old, w) →
    let z := { w with colour := none }
    ((ord = 1 ∨ ord = 3) → acquirable z scope) →
    Answers i s (committed ((acquiredIf z (ord = 1 ∨ ord = 3) scope).setX d (oldValue m n old)) (acc.ent.rights.testBit rJ))

/-- R166, R229, R262, R265: a load, a store, an atomic or a reduction of a global object that a step of `check_handle` refuses
raises that step's cause with its EVAL and reason, and changes nothing else but what the check itself brought up to date. The check is
made when the instruction begins, not again with the answer that it waits for. An atomic or a reduction through h0 lacks the A right. -/
def Obligations.HandleCheckTraps : Prop :=
  (∀ (s u : State) (i : Instr) (a : BitVec 5) (h : BitVec 4) (o : BitVec 9) (n : Nat) (need : Need) (cause p : Nat) (v : Word),
    ((∃ d ext, loadForm i = some (d, a, h, o, n, ext) ∧ need = loadNeed n ∧ starts s) ∨
      (∃ d, storeForm i = some (d, a, h, o, n) ∧ need = storeNeed n)) → h ≠ 0 →
    checkEntry (s.hreg h.toNat) (effective s a o n) need s = .error (.trap cause v 0 p) u →
    Answers i s (u.takeTrap u.cur.1 u.cur.2 ⟨cause, v, 0, p, u.curCtx.pc⟩)) ∧
  (∀ (s u : State) (i : Instr) (a : BitVec 5) (h : BitVec 4) (n cause p : Nat) (v : Word),
    ((∃ d b ord m, amoForm i = some (d, a, b, h, ord, m, n)) ∨ (∃ b r m, redForm i = some (a, b, h, r, m, n))) → BlockOk s →
    (h = 0 → Answers i s (raised (closed s) Cause.hRightA 3)) ∧
    (h ≠ 0 → starts (closed s) → checkHandle ((closed s).hreg h.toNat) (s.x a).toInt (atomNeed n) (closed s) = .error (.trap cause v 0 p) u →
      Answers i s (u.takeTrap u.cur.1 u.cur.2 ⟨cause, v, 0, p, u.curCtx.pc⟩)))

/-- R265, R266: a reduction whose block may end, on a global object of format 0 that passes `check_handle` with the A right:
it performs its release at once when it is ordered, enters the write queue with its operand, and commits; no register is
written and no answer comes back. -/
def Obligations.ReductionResult : Prop :=
  ∀ (s u : State) (i : Instr) (a b : BitVec 5) (h : BitVec 4) (rel : Bool) (m n : Nat) (acc : Acc),
    redForm i = some (a, b, h, rel, m, n) → h ≠ 0 → BlockOk s → starts (closed s) →
    checkHandle ((closed s).hreg h.toNat) (s.x a).toInt (atomNeed n) (closed s) = .ok acc u → acc.ent.fmt = 0 →
    let scope := u.curCtx.scope.toNat % 256
    (rel = true → u.scopeCheck (u.ctxidOf u.cur.1) (acc.ent.leaf u.cur.1) scope = .ok ()) →
    (rel = true → settled u scope) →
    let v := releasedIf u (rel = true) scope
    let operand := (s.x b).toNat % 2 ^ (8 * n)
    v.wxBad (acc.homeAt 0) (leBytes n (redNew m n (leNat (v.homeRead (acc.homeAt 0) n).1) operand)) = false →
    v.curCore.wq.length < 16 →
    let entry : WqEntry := ⟨v.cur.2, .red m n (word operand) rel scope, acc.ent.index, acc.off, acc.ent.base + acc.off,
      acc.homeAt 0, acc.ent.leaf v.cur.1, [], v.curCtx.sup⟩
    Answers i s (committed (v.modCurCore (fun k => { k with wq := k.wq ++ [entry] })) (acc.ent.rights.testBit rJ))

/-! ## Objects -/

/-- The state with the tables that supervisor code has stored brought up to date (R165; log entry 11). -/
def Sys2Proof.Spec.current (s : State) : State := s.drainTables s.cur.1

/-- The stores of supervisor code are free to leave the write queue: no bank that it goes through is being reshaped (R173). -/
def Sys2Proof.Spec.tablesOpen (s : State) : Prop :=
  s.curCore.wq.any (fun w => w.sup) = true → s.queueShut s.cur.1 (fun _ => true) = none

/-- R165, R166: the handle register names a live entry of its generation, whose line is intact. -/
def Sys2Proof.Spec.names (t : State) (h : Handle) (e : Ent) : Prop :=
  t.entLost (t.ctxidOf t.cur.1) h.index.toNat = false ∧ t.liveEnt (t.ctxidOf t.cur.1) h.index.toNat = some e ∧ e.gen = h.gen.toNat

/-- R247, R256, R257: `hset` on a handle word in form whose entry is in use, of its generation when GV is set, loads the index
and the entry's generation; with GV set and another generation it raises H_STALE; `hget` gives the handle word with GV 1
(0 for h0); `hinfo` and `hlen` read the entry of a valid handle, and h0 as local memory. -/
def Obligations.HandleRegisterResult : Prop :=
  (∀ (s : State) (d a : BitVec 5) (e : Ent),
    let t := current s
    let w := s.x a
    let index := w.toNat % 65536
    let gen := w.toNat / 65536 % 65536
    let gv := w.getLsbD 32
    tablesOpen s → w.toNat / 2 ^ 33 = 0 → index ≠ 0 → t.ent (t.ctxidOf t.cur.1) index = some e → e.len ≠ 0 →
    ((gv = true → gen = e.gen) → Answers (.hset d a) s (t.setH d.toNat ⟨BitVec.ofNat 16 index, BitVec.ofNat 16 e.gen⟩).retire) ∧
    (gv = true → gen ≠ e.gen → Answers (.hset d a) s (raised t Cause.hStale (word (index * 2 ^ 48))))) ∧
  (∀ (s : State) (d a : BitVec 5),
    let h := s.hreg a.toNat
    Answers (.hget d a) s (s.setX d (if a = 0 then 0 else word (2 ^ 32 + h.gen.toNat * 65536 + h.index.toNat))).retire) ∧
  (∀ (s : State) (d a : BitVec 5) (e : Ent), a ≠ 0 → tablesOpen s → names (current s) ((current s).hreg a.toNat) e →
    Answers (.hinfo d a) s ((current s).setX d (word (e.place * 2 ^ 56 + e.acct * 2 ^ 50 + e.fmt * 2 ^ 46 +
      e.cbslot * 2 ^ 34 + e.rights * 2 ^ 16 + e.gen))).retire ∧
    Answers (.hlen d a) s ((current s).setX d
      (word (if e.fmt = 15 then (current s).curCore.gangSize * 0x40000 else e.len))).retire) ∧
  (∀ (s : State) (d : BitVec 5), Answers (.hinfo d 0) s (s.setX d 0x30000).retire ∧
    Answers (.hlen d 0) s (s.setX d 0x40000).retire)

/-- R258: `hsub` of a live source that is no window, with a range inside it and a free target entry (the lowest one for
target 0), writes the sub-object's entry there, with its page map recorded, with the rights of the mask that the source has and the next generation, and
xd receives its handle word. A range that does not lie in the source raises H_BOUND, a mask with W and X raises H_WX. -/
def Obligations.SubObjectResult : Prop :=
  ∀ (s : State) (d a b : BitVec 5) (h : BitVec 4) (src : Ent), h ≠ 0 → tablesOpen s →
    let t := current s
    let ctxid := t.ctxidOf t.cur.1
    let rmask := (s.x a).toNat / 2 ^ 57
    let fmt := (s.x a).toNat / 2 ^ 53 % 16
    let off := (s.x a).toNat % 2 ^ 48
    let target := (s.x b).toNat / 2 ^ 48
    let len := (s.x b).toNat % 2 ^ 48
    names t (t.hreg h.toNat) src → src.fmt ≠ 15 → (s.x a).toNat / 2 ^ 48 % 32 = 0 → (fmt < 8 ∨ fmt = 15) →
    (¬ (rmask.testBit 1 = true ∧ rmask.testBit 2 = true) → len ≠ 0 → off + len ≤ src.len → target < t.otlen ctxid →
      ∀ (n : Nat) (old : Ent), (if target = 0 then t.freeEntry ctxid else some target) = some n →
        t.ent ctxid n = some old → old.len = 0 →
        let e := subEnt src n old.key ((old.gen + 1) % 65536) ctxid off len rmask fmt
        Answers (.hsub d a b h) s (((t.recordMap ctxid src).putEnt e).setX d (word (2 ^ 32 + e.gen * 65536 + n))).retire) ∧
    (¬ (rmask.testBit 1 = true ∧ rmask.testBit 2 = true) → (len = 0 ∨ src.len < off + len) →
      Answers (.hsub d a b h) s (raised t Cause.hBound (word ((t.hreg h.toNat).index.toNat * 2 ^ 48 + off)))) ∧
    (rmask.testBit 1 = true → rmask.testBit 2 = true →
      Answers (.hsub d a b h) s (raised t Cause.hWx (word ((t.hreg h.toNat).index.toNat * 2 ^ 48))))

/-- R259, R55, R56: `oalloc` whose checks, account and reservation allow it: the pages are charged, the object gets its
pages, map and range, its entry has the length, rights, placement, format and account asked for with the next generation,
xd receives its handle word, and the instruction commits. A reserved bit or length 0 raises H_INVALID, the X right H_WX, an
account without room QUOTA. -/
def Sys2Proof.Spec.AllocateResult : Prop :=
  ∀ (s : State) (d a b : BitVec 5), BlockOk s → tablesOpen (closed s) →
    let t := current (closed s)
    let ctxid := t.ctxidOf t.cur.1
    let len := (s.x a).toNat % 2 ^ 48
    let rights := (s.x b).toNat / 2 ^ 14 % 128
    let die := (s.x b).toNat / 2 ^ 12 % 4
    let tier := (s.x b).toNat / 2 ^ 10 % 4
    let fmt := (s.x b).toNat / 2 ^ 6 % 16
    let acct := (s.x b).toNat % 64
    let n := (len + 65535) / 65536
    ((s.x a).toNat / 2 ^ 48 ≠ 0 ∨ len = 0 → Answers (.oalloc d a b) s (raised t Cause.hInvalid (word (2 ^ 32)))) ∧
    ((s.x a).toNat / 2 ^ 48 = 0 → len ≠ 0 → (s.x b).toNat / 2 ^ 21 = 0 → fmt < 8 →
      (rights.testBit 2 = true → Answers (.oalloc d a b) s (raised t Cause.hWx 0)) ∧
      (rights.testBit 2 = false → tier < 2 → ∀ p, t.proc? ctxid = some p →
        (tier = 0 → (t.part p.part).slices.get die [] ≠ []) → ∀ (k : Nat) (old : Ent), t.freeEntry ctxid = some k →
        t.ent ctxid k = some old → t.tableLost (t.acctKey p acct tier) 8 = false →
        (t.mem.getLE (t.acctKey p acct tier + 4) 4 < t.mem.getLE (t.acctKey p acct tier) 4 + n →
          Answers (.oalloc d a b) s (raised t Cause.quota (word (n * 2 ^ 32 + tier * 256 + acct)))) ∧
        (t.mem.getLE (t.acctKey p acct tier) 4 + n ≤ t.mem.getLE (t.acctKey p acct tier + 4) 4 →
          (if tier = 0 then p.usedH + n ≤ p.resH else p.usedC + n ≤ p.resC) →
          let r := (t.addUsed ctxid acct tier n false).makeObject ctxid k old.key ((old.gen + 1) % 65536) len rights die tier
            fmt acct
          Answers (.oalloc d a b) s (committed
            ((r.2.putEnt r.1).setX d (word (2 ^ 32 + r.1.gen * 65536 + r.1.index))) false))))

/-- R260, R93: `ofree` on the handle word of an entry of the context's own: an allocation that is not in transit is freed whole, a
sub-object's entry alone, and sealed code that no other entry holds is zeroed with it; an entry freed before under the next generation is left as it is; a word of another generation
raises H_STALE, another owner's entry H_INVALID with detail 4. -/
def Sys2Proof.Spec.FreeResult : Prop :=
  ∀ (s : State) (a : BitVec 5) (e : Ent) (p : Proc),
    let t := current s
    let ctxid := t.ctxidOf t.cur.1
    let index := (s.x a).toNat % 65536
    let gen := (s.x a).toNat / 65536 % 65536
    let gv := (s.x a).getLsbD 32
    let mkey := t.tableKey p.part e.pmap
    tablesOpen s → (s.x a).toNat / 2 ^ 33 = 0 → index ≠ 0 → t.ent ctxid index = some e → t.proc? ctxid = some p →
    (e.len ≠ 0 → (gv = true → gen = e.gen) → e.owner = ctxid → ∀ r, t.maps.look mkey = some r →
      (r.alloc = index → r.transit = none → Answers (.ofree a) s (t.freeObject ctxid mkey r e.pmap).retire) ∧
      (r.alloc ≠ index → Answers (.ofree a) s ((t.unseal ctxid e).freeEnt e).retire)) ∧
    (e.len = 0 → gv = true → e.gen = (gen + 1) % 65536 → Answers (.ofree a) s t.retire) ∧
    (e.len ≠ 0 → gv = true → gen ≠ e.gen → Answers (.ofree a) s (raised t Cause.hStale (word (index * 2 ^ 48)))) ∧
    (e.len ≠ 0 → (gv = true → gen = e.gen) → e.owner ≠ ctxid →
      Answers (.ofree a) s (raised t Cause.hInvalid (word (index * 2 ^ 48 + 4 * 2 ^ 32))))

/-- Allocation and freeing of objects: `AllocateResult`, `FreeResult`. -/
def Obligations.ObjectLifetime : Prop := AllocateResult ∧ FreeResult
/-! ## Synchronisation -/

/-- The context that issues waits for `w` and executes its instruction again (R269). -/
def Sys2Proof.Spec.waiting (s : State) (w : Wait) : State := s.modCur (fun x => { x with wait := some w })

/-- The context that issues takes a deferred cause at its instruction, of class 1, with the reason it was deferred with; the cause
leaves the list (R346, R349). -/
def Sys2Proof.Spec.delivered (s : State) (d : Deferred) : State :=
  let t := s.modCur (fun x => { x with deferred := x.deferred.erase d })
  t.takeTrap t.cur.1 t.cur.2 ⟨d.cause, d.eval, 1, d.preason, t.curCtx.pc⟩

/-- R271, R349: once the write queue has drained, the stores to tiers 2 and 3 have left the virtual caches, and no remote
operation is open, `rfence` delivers the oldest deferred cause that belongs to it, and with none it retires; until then the
context waits. -/
def Sys2Proof.Spec.RemoteFenceResult : Prop :=
  ∀ s : State,
    let ctxid := s.ctxidOf s.cur.1
    let t := (s.drain s.cur.1).cleanRemote ctxid
    s.queueShut s.cur.1 (fun _ => true) = none →
    s.reshaping ctxid ((s.proc? ctxid).map (fun p => p.vcs.map (fun v => v.1)) |>.getD []) = none →
    (t.curCore.rfcnt = 0 → t.remoteBusy = false → t.curCtx.deferred.find? (fun d => d.point == .rfence) = none →
      Answers .rfence s t.retire) ∧
    (∀ d, t.curCore.rfcnt = 0 → t.remoteBusy = false → t.curCtx.deferred.find? (fun d => d.point == .rfence) = some d →
      Answers .rfence s (delivered t d)) ∧
    (t.curCore.rfcnt ≠ 0 ∨ t.remoteBusy = true → Answers .rfence s (waiting t .remoteIdle))

/-- R141, R142, R272, R273: `wait` on a pending line takes its value, clears it, writes xd and acquires at cluster scope; on a
line that is not pending it waits. `evsig`, and an 8-byte store to the line in the event window, release at cluster scope and
signal the line, and commit. -/
def Sys2Proof.Spec.EventLineResult : Prop :=
  (∀ (s : State) (d a : BitVec 5), (s.x a).toNat < 32 →
    let l := (s.x a).toNat
    let e := s.line s.cur.1 l
    let t := (s.setLine s.cur.1 l ELine.zero).takeValue l d.toNat e.value
    (e.pend = true → acquirable t 1 → Answers (.wait d a) s (t.acquire t.cur.1 1)) ∧
    (e.pend = false → Answers (.wait d a) s (waiting s (.line l d.toNat)))) ∧
  (∀ (s : State) (a b : BitVec 5), (s.x a).toNat < 32 → BlockOk s → settled (closed s) 1 →
    let t := (closed s).release (closed s).cur.1 1
    Answers (.evsig a b) s (committed (t.signal t.cur.1 (s.x a).toNat ((s.x b).toNat % 2 ^ 32)) false)) ∧
  (∀ (s : State) (d a : BitVec 5) (o : BitVec 9) (l : Nat), l < 32 → effective s a o 8 = 0x200000 + 8 * (l : Int) →
    BlockOk s → settled (closed s) 1 →
    let t := (closed s).release (closed s).cur.1 1
    Answers (.std d a 0 o) s (committed (t.signal t.cur.1 l ((s.x d).toNat % 2 ^ 32)) false))

/-- R141, R143, R274: `bar` on a barrier of the event unit releases at cluster scope, arrives for the generation in xb,
commits and waits for the next one; the arrival that makes the number complete advances the generation and clears the
arrivals. For another generation it raises BAR_STALE, and a second arrival of one context BAR_OVERRUN. -/
def Sys2Proof.Spec.EventBarrierResult : Prop :=
  ∀ (s : State) (d a b : BitVec 5), (s.x a).toNat < 16 → (s.x b).toNat < 256 → BlockOk s → settled (closed s) 1 →
    let n := (s.x a).toNat
    let g := (s.x b).toNat
    let t := (closed s).release (closed s).cur.1 1
    let c := t.cur.1
    let e := t.ebar (c / 8) n
    let arrived := e.arrived ++ [t.cur]
    let after := if max e.need 1 ≤ arrived.length then
        (t.wakePause (c / 8)).setEbar (c / 8) n ⟨(e.gen + 1) % 256, e.need, []⟩
      else t.setEbar (c / 8) n { e with arrived := arrived }
    (g = e.gen → e.arrived.contains t.cur = false →
      Answers (.barEvent d a b) s ((committed after true).modCur (fun x => {
        x.setBar (some ⟨true, n, g, d.toNat, false⟩) with wait := some (.barEvent n g) }))) ∧
    (g ≠ e.gen → Answers (.barEvent d a b) s (raised t Cause.barStale (word (e.gen * 65536 + n)))) ∧
    (g = e.gen → e.arrived.contains t.cur = true →
      Answers (.barEvent d a b) s (raised t Cause.barOverrun (word (e.gen * 65536 + n))))

/-- R111, R274: `bar` on a barrier object that passes its checks releases at the object's scope and arrives for the
generation in xb: HAVE counts it, or the arrival that makes NEED complete clears HAVE and advances GEN; the records of the superstep
keep what the object was (R104); it commits and waits. For another generation it raises BAR_STALE with GEN. When the generation is over
the context acquires at the scope and xd takes the next one. At an object that another device holds, `bar` releases at job scope, and
its arrival is a message to the home there, whose answer brings GEN; the wait asks for GEN again until it is another (log entry 14). The
home performs such an arrival as one of its own. -/
def Obligations.ObjectBarrierResult : Prop :=
  (∀ (s u : State) (d b : BitVec 5) (h : BitVec 4) (a : Acc), (s.x b).toNat < 2 ^ 32 → BlockOk s →
    barAccess (s.hreg h.toNat) (h == 0) (closed s) = .ok a u →
    let g := (s.x b).toNat
    let home := a.homeAt 0
    let index := a.ent.index
    let stale := fun (t : State) (gen : Nat) => raised t Cause.barStale (word (index * 2 ^ 48 + gen * 65536))
    let waits := fun (t : State) => t.modCur (fun x => {
      x.setBar (some ⟨false, index, g, d.toNat, false⟩) with wait := some (.barObject index g) })
    (a.peer? = none → settled u (u.obar home).scope →
      let t := u.release u.cur.1 (u.obar home).scope
      let o := t.obar home
      let n := t.noteBarrier home
      let after := if max o.need 1 ≤ o.have_ + 1 then n.putObar home { o with have_ := 0, gen := (o.gen + 1) % 2 ^ 32 }
        else n.putObar home { o with have_ := o.have_ + 1 }
      let z := waits (committed after true)
      (g = o.gen → Answers (.barObject d b h) s
        (if (z.obar home).gen ≠ g then
          (z.stepGangs (z.ctxidOf z.cur.1) index g).foldl (fun s i => s.armStep i) z else z)) ∧
      (g ≠ o.gen → Answers (.barObject d b h) s (stale t o.gen))) ∧
    (∀ dev c n p o, a.peer? = some (dev, c, n, p, o) →
      (starts u → settled u 3 →
        let t := (u.release u.cur.1 3).modCur (fun x => { x with access := some a })
        starts t →
        let (tag, v) := t.newTag t.cur.1
        Answers (.barObject d b h) s (waiting (v.sendRemote dev v.cur.1 v.cur.2 false true index 0
          (v.barMsg dev tag p o c n (some g))) (.remote tag))) ∧
      (∀ tag r, u.curCtx.wait = some (.remote tag) →
        let v := u.modCur (fun x => { x with access := some a })
        v.curCtx.wait = some (.remote tag) → v.curCtx.replies.find? (fun q => q.tag == tag) = some r → r.op ≠ 0x4F →
        let t := (v.modCur (fun x => { x with replies := x.replies.filter (fun q => q.tag != tag) })).modCur
          (fun x => { x with wait := none, access := none, noFill := false })
        (r.gen = g → Answers (.barObject d b h) s (waits (committed t true))) ∧
        (r.gen ≠ g → Answers (.barObject d b h) s (stale t r.gen))))) ∧
  (∀ (s : State) (w : BarWait), w.event = false → w.sstep = false →
    let scope := s.objScope (s.ctxidOf s.cur.1) w.which
    let ended := fun (t : State) => ((t.acquire t.cur.1 scope).setX (BitVec.ofNat 5 w.xd) (word ((w.gen + 1) % 2 ^ 32))).modCur
      (fun x => { x.setBar none with wait := none })
    (s.objFar (s.ctxidOf s.cur.1) w.which = none → acquirable s scope → finishBar w s = .ok () (ended s)) ∧
    (∀ dev c n p o tag r, s.objFar (s.ctxidOf s.cur.1) w.which = some (dev, c, n, p, o) →
      s.curCtx.wait = some (.remote tag) → s.curCtx.replies.find? (fun q => q.tag == tag) = some r → r.op ≠ 0x4F → r.gen = w.gen →
      finishBar w s = .ok () (((s.modCur (fun x => { x with replies := x.replies.filter (fun q => q.tag != tag) })).modCur
        (fun x => { x with wait := none, access := none, noFill := false })).modCur
          (fun x => { x with wait := some (.barObject w.which w.gen) })))) ∧
  (∀ (s : State) (ep : Nat) (m : Msg) (pl : Place), m.op = 0x04 → m.req.aop = barrierAop → s.bankShut ep m = false →
    s.placeOf ep m [rS] = .ok pl →
    let old := (s.obar pl.home).gen
    let t := s.withColour m (fun s => (s.objArrive pl.home (bits (m.word 0) 31 0)).2)
    (bit (m.word 0) 32 = false → s.serve ep m = some (s.answer ep m 0x43 [word old] 0)) ∧
    (bit (m.word 0) 32 = true → (t.obar pl.home).gen = old → s.serve ep m = some (t.answer ep m 0x43 [word old] 0)))

/-- R144, R275, R276: `lock` on a free mutex takes it with the gang index and the context number, acquires at cluster scope
and commits; on one that another context holds it joins the waiters and waits; its own raises DEADLOCK_SELF. `unlock` by the
owner releases at cluster scope and frees the mutex, or hands it to the oldest waiter, whose `lock` commits; by another it
raises MUTEX_OWNER. `pause` retires and waits. -/
def Obligations.MutexResult : Prop :=
  (∀ (s : State) (a : BitVec 5), (s.x a).toNat < 16 → BlockOk s →
    let m := (s.x a).toNat
    let t := closed s
    let c := s.cur.1
    let x := t.mutex (c / 8) m
    (x.held = false → acquirable (t.setMutex (c / 8) m ⟨true, t.curCore.gangIdx, s.cur.2, t.curCore.inst, []⟩) 1 →
      let u := t.setMutex (c / 8) m ⟨true, t.curCore.gangIdx, s.cur.2, t.curCore.inst, []⟩
      Answers (.lock a) s (committed (u.acquire u.cur.1 1) true)) ∧
    (x.held = true → x.gang = t.curCore.gangIdx → x.ctx = s.cur.2 →
      Answers (.lock a) s (raised t Cause.deadlockSelf (word m))) ∧
    (x.held = true → ¬ (x.gang = t.curCore.gangIdx ∧ x.ctx = s.cur.2) → x.waiters.contains s.cur = false →
      (∀ o, t.insts.look x.owner = some o → o.st ≠ .saved) →
      Answers (.lock a) s (waiting (t.setMutex (c / 8) m { x with waiters := x.waiters ++ [s.cur] }) (.mutex m)))) ∧
  (∀ (s : State) (a : BitVec 5), (s.x a).toNat < 16 → BlockOk s → settled (closed s) 1 →
    let m := (s.x a).toNat
    let t := (closed s).release (closed s).cur.1 1
    let c := t.cur.1
    let x := t.mutex (c / 8) m
    let w := t.wakePause (c / 8)
    (x.held = true → x.gang = (t.core c).gangIdx → x.ctx = t.cur.2 →
      (x.waiters = [] → Answers (.unlock a) s (committed (w.setMutex (c / 8) m ⟨false, 0, 0, 0, []⟩) true)) ∧
      (∀ q rest, x.waiters = q :: rest →
        let v := w.setMutex (c / 8) m ⟨true, (w.core q.1).gangIdx, q.2, (w.core q.1).inst, rest⟩
        Answers (.unlock a) s
          (committed (v.asCtx q.1 q.2 (fun s => (s.modCur (fun x => { x with wait := none })).commit)) true))) ∧
    (¬ (x.held = true ∧ x.gang = (t.core c).gangIdx ∧ x.ctx = t.cur.2) →
      Answers (.unlock a) s (raised t Cause.mutexOwner (word m)))) ∧
  (∀ s : State, Answers .pause s (s.retire.modCur (fun x => { x with wait := some .pause, pauseLeft := s.cycle })))

/-! ## Virtual caches -/

/-- R277, R278, R279, R282: with the unused bits of the VC word zero, `vcdef` of a new virtual cache whose size, placement,
parent and depth are legal creates it empty; the same definition again changes nothing; `vcsize` and `vcpar` hand a legal new
size or parent to the controller; `vcq` reads the state of the controller. -/
def Obligations.VirtualCacheResult : Prop :=
  ∀ (s : State) (p : Proc), s.proc? (s.ctxidOf s.cur.1) = some p →
    let ctxid := s.ctxidOf s.cur.1
    (∀ a b : BitVec 5,
      let v := (s.x a).toNat % 64
      let k := (s.x a).toNat / 2 ^ 16 % 64
      let par := (s.x a).toNat / 2 ^ 24 % 64
      let blocks := (s.x a).toNat / 2 ^ 32
      let banks := (s.x b).toNat
      (s.x a).toNat &&& (2 ^ 64 - 1 - (2 ^ 64 - 2 ^ 32 + 0x3F000000 + 0x3F0000 + 0x3F)) = 0 → banks < 2 ^ 48 → v ≠ 0 →
      k ≠ 0 → k ≤ 22 → p.vcs.look v = none → placeOk k blocks banks = true → s.banksOk p v k blocks banks = true →
      (par ≠ 0 → (p.vcs.look par).isSome = true) → vcDepth p.vcs par ≤ 5 →
      Answers (.vcdef a b) s (s.modProc ctxid (fun p => { p with
        vcs := p.vcs.put v ⟨k, blocks, banks, par, [], none, none, [], []⟩ })).retire) ∧
    (∀ (a b : BitVec 5) (c : Vc),
      let v := (s.x a).toNat % 64
      let k := (s.x a).toNat / 2 ^ 16 % 64
      (s.x a).toNat &&& (2 ^ 64 - 1 - (2 ^ 64 - 2 ^ 32 + 0x3F000000 + 0x3F0000 + 0x3F)) = 0 → (s.x b).toNat < 2 ^ 48 → v ≠ 0 →
      k ≠ 0 → p.vcs.look v = some c → c.k = k → c.blocks = (s.x a).toNat / 2 ^ 32 → c.banks = (s.x b).toNat →
      c.parent = (s.x a).toNat / 2 ^ 24 % 64 → Answers (.vcdef a b) s s.retire) ∧
    (∀ (a : BitVec 5) (c : Vc),
      let v := (s.x a).toNat % 64
      let k := (s.x a).toNat / 2 ^ 16 % 64
      (s.x a).toNat &&& (2 ^ 64 - 1 - (0x3F0000 + 0x3F)) = 0 → k ≠ 0 → k ≤ 22 → p.vcs.look v = some c →
      placeOk k c.blocks c.banks = true → s.banksOk p v k c.blocks c.banks = true →
      (k = c.sizeAfter → Answers (.vcsize a) s s.retire) ∧
      (k ≠ c.sizeAfter → c.op = none → Answers (.vcsize a) s (s.enterPhase ctxid v (.size k) .cut).retire) ∧
      (k ≠ c.sizeAfter → c.op.isSome = true → c.queued = none →
        Answers (.vcsize a) s (s.modVc ctxid v (fun c => { c with queued := some (.size k) })).retire) ∧
      (k ≠ c.sizeAfter → c.op.isSome = true → c.queued.isSome = true →
        Answers (.vcsize a) s (raised s Cause.vcBusy (word (v * 256))))) ∧
    (∀ (a : BitVec 5) (c : Vc),
      let v := (s.x a).toNat % 64
      let par := (s.x a).toNat / 2 ^ 24 % 64
      let tree := treeAfter p.vcs v
      let below := (tree.filter (fun u => vcUnder tree v u.1)).foldl (fun n u => max n (vcDepth tree u.1 - vcDepth tree v)) 0
      (s.x a).toNat &&& (2 ^ 64 - 1 - (0x3F000000 + 0x3F)) = 0 → p.vcs.look v = some c →
      (par ≠ 0 → (tree.look par).isSome = true) → par ≠ v → vcUnder tree v par = false →
      vcDepth tree par + 1 + below ≤ 6 →
      (par = c.parentAfter → Answers (.vcpar a) s s.retire) ∧
      (par ≠ c.parentAfter → c.op = none → Answers (.vcpar a) s (s.enterPhase ctxid v (.parent par) .cut).retire) ∧
      (par ≠ c.parentAfter → c.op.isSome = true → c.queued = none →
        Answers (.vcpar a) s (s.modVc ctxid v (fun c => { c with queued := some (.parent par) })).retire)) ∧
    (∀ d a : BitVec 5, (s.x a).toNat < 64 →
      Answers (.vcq d a) s (s.setX d (match (s.x a).toNat, p.vcs.look (s.x a).toNat with
        | 0, _ => word (2 ^ 63)
        | _, none => 0
        | v, some c => word (2 ^ 63 + (if c.op.isSome then 2 ^ 62 else 0) + (if c.queued.isSome then 2 ^ 61 else 0) +
            c.parent * 2 ^ 48 + vcDepth p.vcs v * 2 ^ 40 + c.k * 2 ^ 32 +
            (c.lines.filter (fun l => l.dirty != 0)).length))).retire)

/-- R280, R281: `vcbind` writes a binding of the context's own live entry, `vcunb` clears it; `vcwb` writes the dirty lines of a
virtual cache back, `vcinv` also invalidates them, of all lines or of one object's, and both wait for write-backs to another device;
for the L1 (V = 0) `vcinv` invalidates its lines and `vcwb` has nothing to write. -/
def Obligations.BindAndCleanResult : Prop :=
  ∀ (s : State) (p : Proc) (e : Ent) (h : BitVec 4), h ≠ 0 → tablesOpen s →
    let t := current s
    let ctxid := t.ctxidOf t.cur.1
    t.proc? ctxid = some p → names t (t.hreg h.toNat) e → e.fmt ≠ 15 →
    (∀ a : BitVec 5, (s.x a).toNat < 2 ^ 16 → e.owner = ctxid →
      let v := (s.x a).toNat % 64
      let slot := (s.x a).toNat / 64 % 4
      (v ≠ 0 → (p.vcs.look v).isSome = true) →
      Answers (.vcbind a h) s (t.putEnt { e with
        binds := setBits e.binds (16 * slot + 15) (16 * slot)
          (if v = 0 then 0 else (s.x a).toNat / 256 % 256 * 256 + v) }).retire) ∧
    (∀ a : BitVec 5, (s.x a).toNat &&& (2 ^ 64 - 1 - 0xC0) = 0 → e.owner = ctxid →
      let slot := (s.x a).toNat / 64 % 4
      Answers (.vcunb a h) s (t.putEnt { e with binds := setBits e.binds (16 * slot + 15) (16 * slot) 0 }).retire) ∧
    (∀ a : BitVec 5, 0 < (s.x a).toNat → (s.x a).toNat < 64 → (p.vcs.look (s.x a).toNat).isSome = true →
      let v := (s.x a).toNat
      t.reshaping ctxid (t.path ctxid v) = none →
      let sel := fun (l : CLine) => decide (e.base / 128 ≤ l.la) && decide (l.la * 128 < e.base + e.len)
      ((t.cleanVc ctxid v sel).remoteBusy = false → Answers (.vcwb a 1 h) s (t.cleanVc ctxid v sel).retire) ∧
      ((t.invalVc ctxid v sel).remoteBusy = false → Answers (.vcinv a 1 h) s (t.invalVc ctxid v sel).retire)) ∧
    (∀ (a : BitVec 5) (q : Proc), s.proc? (s.ctxidOf s.cur.1) = some q → 0 < (s.x a).toNat → (s.x a).toNat < 64 →
      (q.vcs.look (s.x a).toNat).isSome = true →
      let v := (s.x a).toNat
      let own := s.ctxidOf s.cur.1
      s.reshaping own (s.path own v) = none →
      ((s.cleanVc own v (fun _ => true)).remoteBusy = false → Answers (.vcwb a 0 0) s (s.cleanVc own v (fun _ => true)).retire) ∧
      ((s.invalVc own v (fun _ => true)).remoteBusy = false → Answers (.vcinv a 0 0) s (s.invalVc own v (fun _ => true)).retire)) ∧
    (∀ a : BitVec 5, (s.proc? (s.ctxidOf s.cur.1)).isSome = true → s.x a = 0 →
      Answers (.vcwb a 0 0) s s.retire ∧ Answers (.vcinv a 0 0) s (s.l1Clear s.cur.1 (fun _ => true)).retire)

/-! ## Regions, frames and helpers -/

/-- R133, R136, R283, R105: outside supervisor level `rgn` and `rgnx` open a region at their own address: RGNPC is the PC,
RGNSKIP and the lattice count are cleared (on a restart they are kept); the signature block opens with the sixteen bits of
the word; then they retire. R284, R221: `rpt` with zero bits above its strides captures the next n + 1 words for as many passes
as xa says. R287, R305: `yield` retires and is a yield point; `nop` retires. -/
def Sys2Proof.Spec.RegionResult : Prop :=
  (∀ (s : State) (g : BitVec 16) (i : Instr), (i = .rgn g ∨ i = .rgnx g) → s.cur.2 < 11 →
    let w := encode i
    let t := s.openRegion (decide (i = .rgnx g))
    Answers i s (t.modCur (fun x => x.sigOpen w)).retire ∧
    (s.curCtx.sup = false → s.curCore.snapPhase ≠ 1 →
      t.curCtx.rgnx = decide (i = .rgnx g) ∧
      (¬ (s.curCtx.restarting = true ∧ s.curCtx.pc = s.curCtx.rgnpc) →
        t.curCtx.rgnpc = s.curCtx.pc ∧ t.curCtx.rgnskip = 0 ∧ t.curCtx.lcount = 0) ∧
      (s.curCtx.restarting = true → s.curCtx.pc = s.curCtx.rgnpc → t.curCtx.rgnskip = s.curCtx.rgnskip)) ∧
    (s.curCtx.sup = true → t = s)) ∧
  (∀ (s : State) (a b : BitVec 5) (n : BitVec 4),
    ((s.x b).toNat < 2 ^ 18 → Answers (.rpt a b n) s (s.retire.modCur (fun x => { x with
      rpt := some ⟨n.toNat + 1, [], x.pc, (s.x a).toNat % 2 ^ 32, s.x b, 0, 0, true⟩ }))) ∧
    (2 ^ 18 ≤ (s.x b).toNat → Answers (.rpt a b n) s
      (raised s Cause.illRsv (word (6 * 2 ^ 32 + (encode (.rpt a b n)).toNat))))) ∧
  (∀ s : State, Answers .yield s ((s.retire.modCur (fun x => { x with wait := some .yielded, yieldPoint := true })).post
    .yieldPoint { Ev.zero with at_ := s.cur.1, x := s.cur.2 }) ∧ Answers .nop s s.retire)

/-- R126, R129, R285: `start` by the control context takes the lowest helper that is not live: it begins at x(xa) with x1 from
xb, x3 its number, the control context's handle and format registers and TVEC from the save object, and xd receives the
number; with none free it raises HELPER_LIMIT with 10, by a helper with 0xFF. R128, R286: `hexit` of a helper ends it at a
release and signals line 31; of the control context with no live helper it ends the core, with live helpers it raises
HELPER_ORPHAN. -/
def Sys2Proof.Spec.HelperResult : Prop :=
  (∀ (s : State) (d a b : BitVec 5), s.cur.2 = 0 → (s.curCtx.sup = true ∨ s.curCtx.starts.length ≤ s.curCtx.startPos) →
    (∀ n, searchUp (fun n => !(s.curCore.ctx n).live) 10 1 = some n →
      let t := s.modCurCore (fun k => k.setCtx n (s.curCtx.helper (s.x a) (s.x b) n (s.svec (s.ctxidOf s.cur.1))))
      let u := (t.setX d (word n)).modCur (fun x =>
        if x.sup then x else { x with starts := x.starts ++ [n], startPos := x.startPos + 1 })
      Answers (.start d a b) s u.retire) ∧
    (searchUp (fun n => !(s.curCore.ctx n).live) 10 1 = none →
      Answers (.start d a b) s (raised s Cause.helperLimit 10))) ∧
  (∀ (s : State) (d a b : BitVec 5), s.cur.2 ≠ 0 → Answers (.start d a b) s (raised s Cause.helperLimit 0xFF)) ∧
  (∀ s : State, s.cur.2 ≠ 0 → settled s 1 → s.curCtx.sup = false →
    let t := s.release s.cur.1 1
    t.curCtx.sup = false →
    let u := (t.writeBack t.cur.1 t.cur.2).setCtx t.cur.1 t.cur.2
      { t.curCtx with live := false, sup := false, wait := none, instret := t.curCtx.instret + 1 }
    Answers .hexit s (u.signal t.cur.1 31 (2 ^ t.cur.2))) ∧
  (∀ s : State, s.cur.2 = 0 →
    (s.curCore.liveMask ≠ 0 → Answers .hexit s (raised s Cause.helperOrphan (word s.curCore.liveMask))) ∧
    (s.curCore.liveMask = 0 → s.curCore.wq = [] →
      let t := (s.drain s.cur.1).writeBack s.cur.1 0
      Answers .hexit s ((t.modCur (fun x => { x with
        live := false, sup := false, wait := none, instret := x.instret + 1 })).modCurCore
          (fun k => { k with ended := true }))))

/-- Fences: `FenceResult`, `RemoteFenceResult`. -/
def Obligations.FenceResults : Prop := FenceResult ∧ RemoteFenceResult

/-- The event unit: `EventLineResult`, `EventBarrierResult`. -/
def Obligations.EventUnitResult : Prop := EventLineResult ∧ EventBarrierResult

/-- Regions and helpers: `RegionResult`, `HelperResult`. -/
def Obligations.RegionAndHelperResult : Prop := RegionResult ∧ HelperResult

/-! ## Engine jobs -/

/-- R253, R288: a job of queue `q` of core `c` may be entered: the queue has room, and no entry of the write queue of the core
that issues waits for a virtual cache. -/
def Sys2Proof.Spec.jobOpen (s : State) (c q : Nat) : Prop :=
  s.jobRoom (c / 8) (jobQueue c q) = true ∧ s.queueShut s.cur.1 (fun _ => true) = none

/-- R290, R365: an acquire of the context that issues at a scope goes through now, and at package and job scope another device owes it
no acknowledgement afterwards. -/
def Sys2Proof.Spec.acquiresNow (s : State) (scope : Nat) : Prop :=
  acquirable s scope ∧ ((scope = 2 ∨ scope = 3) → (s.acquire s.cur.1 scope).storesBusy = false)

/-- R162, R288: the write queue drains, the job enters queue `q` with the next sequence number, and xd receives its id. -/
def Sys2Proof.Spec.issued (s : State) (q : Nat) (d : BitVec 5) (job : State → Nat → Job) : State :=
  let t := s.drain s.cur.1
  let seq := t.curCore.jobSeq q
  (t.enterJob s.cur.1 q (job t seq)).setX d (word (s.cur.1 % 8 * 2 ^ 29 + q * 2 ^ 28 + seq))

/-- R288: word `i` of the record at an offset of local memory. -/
def Sys2Proof.Spec.recordWord (s : State) (off i : Nat) : Nat := leNat (s.localRead s.cur.1 (off + 8 * i) 8)

/-- R288, R289, R403: `cp` and `mcast` with a legal record enter a job that is as the record says, and commit. A record that is
not aligned or does not fit raises CP_RECORD 1, a scope that is not defined or destination rows that overlap CP_RECORD 2
and 3, an empty destination mask MCAST_MASK. -/
def Obligations.CopyIssueResult : Prop :=
  ∀ (s : State) (d a : BitVec 5), BlockOk s →
    let off := (s.x a).toNat
    let t := closed s
    let ctxid := s.ctxidOf s.cur.1
    let g := recordWord s off
    let scope := g 2 / 2 ^ 55 % 256
    let q := g 2 / 2 ^ 63 % 2
    let len := g 2 % 2 ^ 40
    (¬ (off % 8 = 0 ∧ off + 32 ≤ 0x40000) → Answers (.cp d a) s (raised t Cause.cpRecord 1) ∧
      Answers (.mcast d a) s (raised t Cause.cpRecord 1)) ∧
    (off % 8 = 0 → off + 32 ≤ 0x40000 →
      let rows := g 2 / 2 ^ 40 % 2 ^ 15
      (s.scopeOk ctxid scope = false → Answers (.cp d a) s (raised t Cause.cpRecord 2)) ∧
      (s.scopeOk ctxid scope = true → 2 ≤ rows → g 3 % 2 ^ 32 < len →
        Answers (.cp d a) s (raised t Cause.cpRecord 3)) ∧
      (s.scopeOk ctxid scope = true → ¬ (2 ≤ rows ∧ g 3 % 2 ^ 32 < len) → jobOpen t s.cur.1 q →
        Answers (.cp d a) s (committed (issued t q d (fun u seq => { Job.new seq ctxid s.cur.1 .copy scope with
          srch := u.indexHandle ctxid (g 0 / 2 ^ 48), srcoff := g 0 % 2 ^ 48, dsth := u.indexHandle ctxid (g 1 / 2 ^ 48),
          dstoff := g 1 % 2 ^ 48, rows := max rows 1, len := len, sstride := g 3 / 2 ^ 32, dstride := g 3 % 2 ^ 32 }))
          (s.copyRollable ctxid (g 1 / 2 ^ 48))))) ∧
    (off % 8 = 0 → off + 32 ≤ 0x40000 →
      let src := g 0 % 2 ^ 48
      let dst := g 3 % 2 ^ 18
      let cores := g 1
      src % 128 = 0 → len % 128 = 0 → dst % 128 = 0 → len ≠ 0 → g 2 / 2 ^ 40 % 2 ^ 14 = 0 → g 3 / 2 ^ 18 = 0 →
      s.scopeOk ctxid scope = true → dst + len ≤ 0x3F400 →
      (cores = 0 → Answers (.mcast d a) s (raised t Cause.mcastMask 0)) ∧
      (cores ≠ 0 → (∀ i ∈ onesOf cores 64, (s.gang s.cur.1).contains (s.cur.1 / 64 * 64 + i) = true ∧
          (g 2 / 2 ^ 54 % 2 = 1 ∨ i / 8 = s.cur.1 / 8 % 8)) → jobOpen t s.cur.1 q →
        ∀ slot, searchUp (fun i => !(s.mcastSlots (s.cur.1 / 8)).contains i) 4 0 = some slot →
          Answers (.mcast d a) s (committed (issued t q d (fun u seq => { Job.new seq ctxid s.cur.1 (.mcast cores) scope with
            srch := u.indexHandle ctxid (g 0 / 2 ^ 48), srcoff := src, dstoff := dst, len := len, rows := slot })) false)))

/-- R290, R292: with a job id of this core whose sequence number has been issued, `jwait` waits for the job; once it is done it
acquires at the job's scope and xd receives 0, or 1 for a fault that has been reported; a fault that has not raises JOB_FAULT
once. `jpoll` never waits: 0 for a job in progress, else 1, or 2 for a fault. A job that its queue keeps no longer has
completed: the acquire is at job scope. Another id raises JOB_ID. `cpjoin` enters a job that ends when those before it do. -/
def Sys2Proof.Spec.JobWaitResult : Prop :=
  (∀ (s : State) (d a : BitVec 5), (s.x a).toNat < 2 ^ 32 →
    let c := s.cur.1
    let v := (s.x a).toNat
    (s.jobId c v = none → Answers (.jwait d a) s (raised s Cause.jobId (s.x a)) ∧
      Answers (.jpoll d a) s (raised s Cause.jobId (s.x a))) ∧
    (∀ q seq, s.jobId c v = some (q, seq) →
      (s.findJob c q seq = none → acquiresNow s 3 →
        Answers (.jwait d a) s ((s.acquire c 3).setX d 0).retire ∧ Answers (.jpoll d a) s ((s.acquire c 3).setX d 1).retire) ∧
      (∀ j, s.findJob c q seq = some j →
        (j.done = false → Answers (.jwait d a) s (waiting s (.job (jobQueue c q) seq)) ∧
          Answers (.jpoll d a) s (s.setX d 0).retire) ∧
        (j.done = true → j.fault ≠ 0 → j.reported = false → Answers (.jwait d a) s
          (raised (s.reportJob c q seq) Cause.jobFault (word (v * 2 ^ 32 + j.faultH * 256 + j.fault)))) ∧
        (j.done = true → acquiresNow s j.scope →
          (j.fault = 0 ∨ j.reported = true →
            Answers (.jwait d a) s ((s.acquire c j.scope).setX d (if j.fault = 0 then 0 else 1)).retire) ∧
          Answers (.jpoll d a) s ((s.acquire c j.scope).setX d (if j.fault = 0 then 1 else 2)).retire)))) ∧
  (∀ (s : State) (c v q seq : Nat), s.jobId c v = some (q, seq) ↔
    (v / 2 ^ 29 = c % 8 ∧ q = v / 2 ^ 28 % 2 ∧ seq = v % 2 ^ 28 ∧ seq ≠ 0 ∧
      ((s.core c).jobSeq q + 2 ^ 28 - seq) % 2 ^ 28 ≠ 0 ∧ ((s.core c).jobSeq q + 2 ^ 28 - seq) % 2 ^ 28 ≤ 2 ^ 27)) ∧
  (∀ (s : State) (d a : BitVec 5), (s.x a).toNat < 2 ^ 17 →
    let mask := (s.x a).toNat % 2 ^ 16
    let q := (s.x a).toNat / 2 ^ 16
    (mask = 0 → Answers (.cpjoin d a) s (raised s Cause.cpJoin 0)) ∧
    (mask ≠ 0 → jobOpen s s.cur.1 q → Answers (.cpjoin d a) s (issued s q d (fun u seq =>
      let named := (onesOf mask 16).flatMap (fun n => u.jobsOf (s.cur.1 / 8) n)
      let upto := (List.range 16).map (fun n => match (u.jobsOf (s.cur.1 / 8) n).getLast? with
        | some j => j.seq + 1
        | none => 0)
      Job.new seq (u.ctxidOf s.cur.1) s.cur.1 (.join mask upto) (joinScope (named.map (fun j => j.scope))))).retire))

/-- R57, R291: `tmig` of an object of tier 0 or 1 that passes `check_handle` with the W right enters a job; when the object's
pages lie where they are asked for and do not move, the job is complete at once (the entry becomes the allocating handle of a map
that had none, R56), and else it is complete when the pages
have moved. A request that the account cannot pay raises what the charge raises. -/
def Sys2Proof.Spec.MigrateResult : Prop :=
  ∀ (s u v : State) (d a : BitVec 5) (h : BitVec 4) (e0 e : Ent), h ≠ 0 → (s.x a).toNat < 4 →
    checkEntry (s.hreg h.toNat) 0 ⟨[], 0, false, 0, false, .write⟩ s = .ok e0 u → e0.fmt ≠ 15 →
    checkEntry (s.hreg h.toNat) 0 ⟨[rW], 0, false, 0, false, .write⟩ u = .ok e v → e.tier < 2 →
    let toSlow := (s.x a).toNat % 2 = 1
    let q := (s.x a).toNat / 2
    let ctxid := s.ctxidOf s.cur.1
    jobOpen v s.cur.1 q →
    let r := v.requestMove ctxid e (decide toSlow) (s.cur.1 / 8, jobQueue s.cur.1 q, v.curCore.jobSeq q)
    let job := fun (done : Bool) (_ : State) (seq : Nat) =>
      { Job.new seq ctxid s.cur.1 (.migrate e.pmap) 0 with done := done }
    (∀ done t, r = .ok (done, t) → jobOpen t t.cur.1 q → Answers (.tmig d a h) s (issued t q d (job done)).retire) ∧
    (∀ b, r = .error b → Answers (.tmig d a h) s
      (v.takeTrap v.cur.1 v.cur.2 ⟨b.cause, b.eval, 0, b.preason, v.curCtx.pc⟩)) ∧
    (∀ m, m = v.mapRec ctxid e → m.transit = none → e.tier = (if toSlow then 1 else 0) →
      r = .ok (true, { v with maps := v.maps.put (v.mapKey ctxid e) m }))

/-! ## Queues -/

/-- R183, R293, R295, R296: the message of 64 bytes at an offset of local memory is counted and stands in slot TAIL with its
poison and its sender, and TAIL is one more. -/
def Sys2Proof.Spec.sent (s : State) (c ctxid : Nat) (acc : Acc) (q : QDesc) (off : Nat) : State :=
  let t := s.countOwn c (acc.homeAt 0)
  t.post64 ctxid acc.ent.index q (acc.homeAt 0) (t.localRead c off 64)
    (t.lmem.poison8 (lkey c off)) t.mySender (parity t.curCore.snapGen)

/-- A queue of this device as an instruction finds it: its handle has passed, the offset is legal, its descriptor is well
formed and of the kind. -/
def Sys2Proof.Spec.queueReady (s u : State) (a : BitVec 5) (h : BitVec 4) (rights : List Nat) (use : Use) (kind : Nat)
    (acc : Acc) : Prop :=
  queueHandle (s.hreg h.toNat) (h == 0) rights use (closed s) = .ok acc u ∧ acc.peer? = none ∧
  (s.x a).toNat % 64 = 0 ∧ (s.x a).toNat + 64 ≤ 0x3F400 ∧
  let q := u.qdescAt (acc.homeAt 0) acc.ent.len
  q.bad = false ∧ q.elem ≠ 3 ∧ q.kind = kind

/-- R293, R294, R295: `qpost` on a queue of its kind with room posts the packet in slot TAIL, counts a child of its task, hands
the packet to the dispatcher, writes the slot number to xd and commits; `send` releases at job scope, puts the message in slot
TAIL and commits. A full queue makes both wait, a closed one raises Q_CLOSED. -/
def Sys2Proof.Spec.QueuePostResult : Prop :=
  (∀ (s u w : State) (d a : BitVec 5) (h : BitVec 4) (acc : Acc), BlockOk s →
    queueReady s u a h [rS, rW] .write 1 acc →
    let q := u.qdescAt (acc.homeAt 0) acc.ent.len
    let task := s.curCore.task
    (q.closed = true → Answers (.qpost d a h) s (raised u Cause.qClosed (word (acc.ent.index * 2 ^ 48)))) ∧
    (q.closed = false → 2 ^ q.log2 ≤ q.count → Answers (.qpost d a h) s (waiting u (.queueRoom acc.ent.index))) ∧
    (q.closed = false → q.count < 2 ^ q.log2 → s.children task < 4096 →
      slotPage acc (q.slot q.tail) .write u = .ok () w →
      let t := sent w s.cur.1 (s.ctxidOf s.cur.1) acc q (s.x a).toNat
      let v := { t with tasks := match t.tasks.look task with
        | some k => t.tasks.put task { k with children := k.children + 1 }
        | none => t.tasks }
      let words := (w.countOwn s.cur.1 (acc.homeAt 0)).localWords s.cur.1 (s.x a).toNat
      Answers (.qpost d a h) s (committed ((v.handPacket (s.ctxidOf s.cur.1) acc.ent.index q.prio
        ⟨q.tail, words, task, false⟩).setX d (word q.tail)) false))) ∧
  (∀ (s u w : State) (a : BitVec 5) (h : BitVec 4) (acc : Acc), BlockOk s →
    queueReady s u a h [rS, rW] .write 2 acc →
    let q := u.qdescAt (acc.homeAt 0) acc.ent.len
    (q.closed = true → Answers (.send a h) s (raised u Cause.qClosed (word (acc.ent.index * 2 ^ 48)))) ∧
    (q.closed = false → 2 ^ q.log2 ≤ q.count → Answers (.send a h) s (waiting u (.queueRoom acc.ent.index))) ∧
    (q.closed = false → q.count < 2 ^ q.log2 → slotPage acc (q.slot q.tail) .write u = .ok () w → settled w 3 →
      Answers (.send a h) s (committed (sent (w.release w.cur.1 3) s.cur.1 (s.ctxidOf s.cur.1) acc q (s.x a).toNat) false)))

/-- R296, R297: `recv` and `qtry` on a queue that holds a message take the one in slot HEAD into local memory with its poison,
acquire at job scope, write the sender to xd (`qtry` with bit 63) and commit; on an empty queue `recv` waits and `qtry` writes
0. `rdq.add` and `rdq.max` reduce the message at the head into the row that xb names and count it in xd; once xd has the number
in xa they commit. An `rdq` that waits, and one that has taken a message, is its own region entry (R137). -/
def Sys2Proof.Spec.QueueTakeResult : Prop :=
  (∀ (s u w : State) (d a : BitVec 5) (h : BitVec 4) (acc : Acc), BlockOk s →
    queueReady s u a h [rS, rR] .read 2 acc →
    let q := u.qdescAt (acc.homeAt 0) acc.ent.len
    (q.count ≠ 0 → slotPage acc (q.slot q.head) .read u = .ok () w →
      let m := w.take64 (s.ctxidOf s.cur.1) acc.ent.index q (acc.homeAt 0) (parity w.curCore.snapGen)
      let t := m.2.putMsg s.cur.1 (s.x a).toNat m.1.2.1 m.1.2.2
      acquirable w 3 → acquirable t 3 →
      Answers (.recv d a h) s (committed ((t.acquire t.cur.1 3).setX d (word m.1.1)) false) ∧
      Answers (.qtry d a h) s (committed ((t.acquire t.cur.1 3).setX d (word (2 ^ 63 + m.1.1))) false)) ∧
    (q.count = 0 → q.closed = false → Answers (.recv d a h) s (waiting u (.queueMsg acc.ent.index)) ∧
      Answers (.qtry d a h) s (committed (u.setX d 0) false)) ∧
    (q.count = 0 → q.closed = true → Answers (.recv d a h) s (raised u Cause.qClosed (word (acc.ent.index * 2 ^ 48))))) ∧
  (∀ (s u w : State) (i : Instr) (isMax : Bool) (d a b : BitVec 5) (h : BitVec 4) (acc : Acc),
    i = (if isMax then .rdqMax d a b h else .rdqAdd d a b h) → BlockOk s →
    queueHandle (s.hreg h.toNat) (h == 0) [rS, rR] .read (closed s) = .ok acc u → acc.peer? = none →
    (s.x a).toNat < 2 ^ 32 → (s.x b).toNat < 2 ^ 13 →
    let q := u.qdescAt (acc.homeAt 0) acc.ent.len
    q.bad = false → q.kind = 2 → (q.elem = 1 ∨ q.elem = 2) →
    ((s.x a).toNat ≤ (s.x d).toNat → Answers i s (committed u false)) ∧
    ((s.x d).toNat < (s.x a).toNat → q.count = 0 → q.closed = false →
      Answers i s (waiting (u.modCur Ctx.atRdq) (.queueMsg acc.ent.index))) ∧
    ((s.x d).toNat < (s.x a).toNat → q.count ≠ 0 → s.curCore.latticeIdle = true →
      slotPage acc (q.slot q.head) .read u = .ok () w →
      let m := w.take64 (s.ctxidOf s.cur.1) acc.ent.index q (acc.homeAt 0) (parity w.curCore.snapGen)
      let t := m.2
      let c := t.cur.1
      let tile := (s.x b).toNat % 8
      let row := (s.x b).toNat / 8 % 128
      let at_ := 64 * ((s.x b).toNat / 2 ^ 10)
      let r := rdqRow isMax (q.elem == 1) (t.rowBytes c tile row at_ 64) m.1.2.1
      let u := (t.putRow c tile row at_ r.1).latticeFlags c t.cur.2 r.2
      let v := if m.1.2.2 ≠ 0 then
          u.defer c t.cur.2 Cause.uncorrData (word (acc.ent.index * 2 ^ 48 + q.slot q.head)) .lfence
        else if t.rowPoisoned c tile row at_ 64 = true then u.defer c t.cur.2 Cause.uncorrData 0 .lfence else u
      Answers i s ((v.setX d (v.x d + 1)).modCur Ctx.atRdq)))

/-- Jobs and migration: `JobWaitResult`, `MigrateResult`. -/
def Obligations.JobResult : Prop := JobWaitResult ∧ MigrateResult

/-- Queue objects: `QueuePostResult`, `QueueTakeResult`. -/
def Obligations.QueueResult : Prop := QueuePostResult ∧ QueueTakeResult

/-! ## Supersteps and snapshots -/

/-- R298, R299, R300, R301: `sstep` on a plan with a gang barrier, nothing in flight and nothing to deliver arrives at the barrier
for its superstep and waits. `snap` in phase 0 starts generation CUR + 1 and writes it to xd with bit 32, in another phase it
writes CUR; `snapst` reads GEN and CUR, or MHEAD, the last failure and PHASE. `rollbk` to a generation on the chain of manifests begins a
rollback of the job on every device and waits until each is done, then it retires; another generation raises H_INVALID with detail 7. Without a gang barrier `sstep` raises H_INVALID with
detail 6. -/
def Obligations.RecoveryResult : Prop :=
  (∀ s : State, BlockOk s →
    (s.curCore.gbar = 0 → Answers .sstep s (raised (closed s) Cause.hInvalid (word (6 * 2 ^ 32)))) ∧
    (∀ (u : State) (e : Ent) (home : Home), gangBarrier (closed s) = .ok (e, home) (closed s) →
      remoteSettled (closed s) = .ok () u → u.curCore.latticeIdle = true → u.curCtx.deferred = [] →
      settled u (u.obar home).scope →
      let t := (u.release u.cur.1 (u.obar home).scope).writeBackAll (u.release u.cur.1 (u.obar home).scope).cur.1
      let v := t.modCurCore (fun k => { k with stepNew := true })
      let o := v.obar home
      let g := v.curCore.sstepG
      let n := v.noteBarrier home
      let after := if max o.need 1 ≤ o.have_ + 1 then n.putObar home { o with have_ := 0, gen := (o.gen + 1) % 2 ^ 32 }
        else n.putObar home { o with have_ := o.have_ + 1 }
      let z := (committed after true).modCur (fun x => {
        x.setBar (some ⟨false, e.index, g, 0, true⟩) with wait := some (.barObject e.index g) })
      g = o.gen → Answers .sstep s
        (if (z.obar home).gen ≠ g then
          (z.stepGangs (z.ctxidOf z.cur.1) e.index g).foldl (fun s i => s.armStep i) z else z))) ∧
  (∀ (s u : State) (d : BitVec 5) (h : BitVec 4) (a : Acc) (j : JobState) (n : Nat), BlockOk s →
    jobAccess h (closed s) = .ok (a, j, n) u →
    let cur := (u.jobWord j 0).toNat % 2 ^ 32
    (j.devmask.testBit s.devId = false → Answers (.snap d h) s (raised u Cause.hInvalid
      (word (8 * 2 ^ 32 + a.ent.index * 2 ^ 48)))) ∧
    (j.devmask.testBit s.devId = true → (u.jobWord j 1).toNat % 4 ≠ 0 →
      Answers (.snap d h) s (committed (u.setX d (word cur)) false)) ∧
    (j.devmask.testBit s.devId = true → (u.jobWord j 1).toNat % 4 = 0 →
      let v := (u.startSnap n j.ctxid j.handle a.ent u.cur.1).setX d (word (2 ^ 32 + (cur + 1) % 2 ^ 32))
      Answers (.snap d h) s (committed (match v.pendingCut u.cur.1 with
        | some (b, m) => v.cutAt (niEndpoint (u.cur.1 / 8)) b m.gen
        | none => v) false))) ∧
  (∀ (s u : State) (d : BitVec 5) (h : BitVec 4) (a : Acc) (j : JobState) (n : Nat), jobAccess h s = .ok (a, j, n) u →
    let w := (u.jobWord j 1).toNat
    let fail := match u.jobs.look n with
      | some k => k.lastFail
      | none => 0
    Answers (.snapst d 0 h) s (u.setX d (u.jobWord j 0)).retire ∧
    Answers (.snapst d 1 h) s (u.setX d (word (w / 2 ^ 32 % 2 ^ 16 * 2 ^ 48 + fail * 16 + w % 4))).retire) ∧
  (∀ (s : State) (d : BitVec 5) (q : BitVec 2) (h : BitVec 4), 2 ≤ q.toNat →
    Answers (.snapst d q h) s (raised s Cause.illRsv (word (encode (.snapst d q h)).toNat))) ∧
  (∀ (s u : State) (a : BitVec 5) (h : BitVec 4) (acc : Acc) (j : JobState) (n : Nat), s.curCtx.sup = true →
    (s.x a).toNat < 2 ^ 32 → jobAccess h s = .ok (acc, j, n) u →
    let g := (s.x a).toNat
    let me := u.cur.1 * 16 + u.cur.2
    let k := (u.jobs.look n).getD j
    (k.roll = some (me, g, 0) → Answers (.rollbk a h) s (u.modJob n (fun j => { j with roll := none })).retire) ∧
    (∀ r, k.roll = some r → r.2.2 ≠ 0 → Answers (.rollbk a h) s (waiting u .restart)) ∧
    (k.roll ≠ some (me, g, 0) → (∀ r, k.roll = some r → r.2.2 = 0) →
      (u.onChain k g = false → Answers (.rollbk a h) s (raised u Cause.hInvalid (word (7 * 2 ^ 32 + acc.ent.index * 2 ^ 48)))) ∧
      (u.onChain k g = true → Answers (.rollbk a h) s (waiting (u.startRollback n j me g) .restart))))

/-! ## System instructions -/

/-- R222: the assigned numbers. -/
def Sys2Proof.Spec.assigned (n : Nat) : Prop :=
  n ∈ [0, 1, 2, 0x10, 0x11, 0x12, 0x13, 0x14, 0x15, 0x20, 0x21, 0x22, 0x30, 0x31, 0x40, 0x41, 0x42, 0x43, 0x44, 0x45, 0x46,
    0x47, 0x50, 0x51]

/-- R224: the registers with no field that can be written. -/
def Sys2Proof.Spec.readOnly (n : Nat) : Prop := n ∈ [0, 1, 2, 0x20, 0x21, 0x22, 0x30, 0x31, 0x50, 0x51]

/-- R222, R224, R304: `csrr`, `csrw` and `csrs` of an assigned number that the level may reach read or write the register and
retire; a number that is not assigned raises CSR_UNDEF, a supervisor register below supervisor level ILL_PRIV, a write of a
register that is only read CSR_RO, in that order. -/
def Sys2Proof.Spec.ControlRegisterAccess : Prop :=
  ∀ (s : State) (d : BitVec 5) (c : BitVec 11),
    let n := c.toNat
    let high := 0x40 ≤ n ∧ n ≤ 0x47
    (¬ assigned n → Answers (.csrr d c) s (raised s Cause.csrUndef (word n)) ∧
      Answers (.csrw d c) s (raised s Cause.csrUndef (word n)) ∧ Answers (.csrs d c) s (raised s Cause.csrUndef (word n))) ∧
    (assigned n → high → s.curCtx.sup = false →
      Answers (.csrr d c) s (raised s Cause.illPriv (word (encode (.csrr d c)).toNat)) ∧
      Answers (.csrw d c) s (raised s Cause.illPriv (word (encode (.csrw d c)).toNat)) ∧
      Answers (.csrs d c) s (raised s Cause.illPriv (word (encode (.csrs d c)).toNat))) ∧
    (readOnly n → Answers (.csrr d c) s (s.setX d (s.csr n)).retire ∧
      Answers (.csrw d c) s (raised s Cause.csrRo (word n)) ∧ Answers (.csrs d c) s (raised s Cause.csrRo (word n))) ∧
    (assigned n → ¬ readOnly n → (¬ high ∨ s.curCtx.sup = true) → Answers (.csrr d c) s (s.setX d (s.csr n)).retire ∧
      Answers (.csrw d c) s (s.setCsr n (s.x d) false).retire ∧ Answers (.csrs d c) s (s.setCsr n (s.x d) true).retire)

/-- R223, R224, R304: what a control register reads, and what a write with a value `v` leaves in it: reserved bits that are set
discard the write whole, fields that are only read keep their value, FLAGS of LQST are cleared by ones, and `csrs` sets the
bits of `v`. -/
def Sys2Proof.Spec.ControlRegisterValue : Prop :=
  (∀ s : State, s.csr 0 = word (s.clk / 2) ∧ s.csr 2 = s.curCtx.instret ∧ s.csr 0x10 = s.curCtx.fcsr ∧
    s.csr 0x12 = s.curCore.lweight ∧ s.csr 0x13 = s.curCtx.cbsel ∧ s.csr 0x14 = s.curCtx.wctl ∧ s.csr 0x15 = s.curCtx.scope ∧
    s.csr 0x20 = word (s.ctxidOf s.cur.1) ∧ s.csr 0x21 = word s.cur.1 ∧
    s.csr 0x22 = word (s.curCore.gangSize * 2 ^ 16 + s.curCore.gangIdx) ∧ s.csr 0x40 = s.curCtx.epc ∧
    s.csr 0x41 = s.curCtx.ecause ∧ s.csr 0x42 = s.curCtx.eval ∧ s.csr 0x43 = s.curCtx.estat ∧ s.csr 0x44 = s.curCtx.rgnpc ∧
    s.csr 0x45 = s.curCtx.rgnskip ∧
    s.csr 0x50 = word (s.curCore.snapPhase * 2 ^ 32 + s.curCore.cutGen) ∧ s.csr 0x46 = s.curCtx.tvec ∧ s.csr 0x47 = s.curCtx.scratch) ∧
  (∀ (s : State) (v : Word), s.cur.2 < 11 →
    let w := fun (n : Nat) => (s.setCsr n v false).curCtx
    let o := fun (n : Nat) => (s.setCsr n v true).curCtx
    (w 0x10).fcsr = (if v &&& 0xFFFFFFFFFFFFE080 = 0 then (s.curCtx.fcsr &&& ~~~0x1F7F) ||| (v &&& 0x1F7F) else s.curCtx.fcsr) ∧
    (v &&& 0xFFFFFFFFFFFFE080 = 0 → (o 0x10).fcsr = s.curCtx.fcsr ||| (v &&& 0x1F7F)) ∧
    (w 0x13).cbsel = (if v.toNat < 2 ^ 12 then (s.curCtx.cbsel &&& ~~~0xFFF) ||| v else s.curCtx.cbsel) ∧
    (w 0x15).scope = (if isScope v.toNat = true then v else s.curCtx.scope) ∧
    (w 0x46).tvec = (s.curCtx.tvec &&& 3) ||| (v &&& ~~~3) ∧ (w 0x47).scratch = v ∧ (w 0x42).eval = v ∧
    (o 0x47).scratch = s.curCtx.scratch ||| v ∧
    (v.toNat < 2 ^ 48 → (w 0x40).epc = (s.curCtx.epc &&& ~~~0xFFFFFFFFFFFF) ||| v) ∧
    (2 ^ 48 ≤ v.toNat → (w 0x40).epc = s.curCtx.epc)) ∧
  (∀ (s : State) (v : Word) (set : Bool) (k : Nat), v.toNat < 2 ^ 21 → 8 ≤ k → k < 13 →
    let q := (s.setCsr 0x11 v set).curCore.lqst
    q.getLsbD k = (s.curCore.lqst.getLsbD k && !v.getLsbD k) ∧
    q.getLsbD (k + 8) = (v.getLsbD (k + 8) || (set && s.curCore.lqst.getLsbD (k + 8))))

/-- R225, R227, R302, R303, R305, R345, R346: at user level `trap` raises SYSCALL with x(xa) in EVAL; at supervisor level it
forwards a monitor call and waits for it, or writes 0xFF to xd for a number that names none. `eret` returns with PC ← EPC and
user level, a repeat frame going on where ESTAT says (a capture where it stood, log entry 114), or raises ERET_STATE with ESTAT. `halt` kills the task with the cause in x(xa). `brk` raises BRK with its number.
Below supervisor level `eret`, `halt`, `seal` and `rollbk` raise ILL_PRIV with their word. -/
def Sys2Proof.Spec.TrapAndReturn : Prop :=
  (∀ (s : State) (d a : BitVec 5),
    (s.curCtx.sup = false →
      (d = 0 → Answers (.trap d a) s (raised s Cause.syscall (s.x a))) ∧
      (d ≠ 0 → Answers (.trap d a) s (raised s Cause.illRsv (word (encode (.trap d a)).toNat)))) ∧
    (s.curCtx.sup = true →
      (∀ i, (s.x a).toNat < 2 ^ 16 → monitorCall (s.x a).toNat = some i →
        let args := [s.x 1, s.x 2, s.x 3, s.x 4, s.x 5, s.x 6, s.x 7, s.x 8]
        let call := { Ev.zero with at_ := s.cur.1, x := s.cur.2, y := d.toNat, words := args }
        Answers (.trap d a) s (waiting (s.post i call) .monitor)) ∧
      (2 ^ 16 ≤ (s.x a).toNat ∨ monitorCall (s.x a).toNat = none → Answers (.trap d a) s (s.setX d 0xFF).retire))) ∧
  (∀ s : State, s.curCtx.sup = true → s.cur.2 < 11 →
    (s.curCtx.eretBad = true → Answers .eret s (raised s Cause.eretState s.curCtx.estat)) ∧
    (s.curCtx.eretBad = false → s.curCtx.poisonKill = false →
      ∃ t, Answers .eret s t ∧ t.curCtx.pc = s.curCtx.epc ∧ t.curCtx.sup = false ∧ t.curCtx.regs = s.curCtx.regs ∧
        t.curCtx.rgnpc = s.curCtx.rgnpc ∧ t.curCtx.rgnskip = s.curCtx.rgnskip ∧ t.curCtx.lcount = s.curCtx.lcount ∧
        (s.curCtx.rpt = none → t.curCtx.rpt = none) ∧
        (∀ f, s.curCtx.rpt = some f → f.need ≤ f.words.length → t.curCtx.rpt = if s.curCtx.estat.getLsbD 19 = true then
            some { f with pass := s.curCtx.estat.toNat / 2 ^ 32, pos := s.curCtx.estat.toNat / 2 ^ 20 % 16, active := true }
          else none) ∧
        (∀ f, s.curCtx.rpt = some f → f.words.length < f.need → t.curCtx.rpt =
          if s.curCtx.epc = f.base + word (4 * f.words.length) then some { f with active := true } else none) ∧
        t.mem = s.mem ∧ t.lmem = s.lmem ∧ t.tiles = s.tiles) ∧
    (s.curCtx.eretBad = false → s.curCtx.poisonKill = true →
      Answers .eret s (s.killTask s.curCore.task Cause.uncorrData))) ∧
  (∀ (s : State) (a : BitVec 5), s.curCtx.sup = true →
    Answers (.halt a) s (s.killTask s.curCore.task ((s.x a).toNat % 256))) ∧
  (∀ (s : State) (b : BitVec 6), ¬ (2 ≤ s.mon.debugOpen ∧ s.mon.debugArm = true) →
    Answers (.brk b) s (raised s Cause.brk (word b.toNat))) ∧
  (∀ (s : State) (b : BitVec 6), 2 ≤ s.mon.debugOpen → s.mon.debugArm = true →
    ∃ t, Answers (.brk b) s t ∧ t.curCore.debugHalt = true ∧ t.curCtx = s.curCtx ∧ t.mem = s.mem) ∧
  (∀ (s : State) (i : Instr), s.curCtx.sup = false →
    (i = .eret ∨ (∃ a, i = .halt a) ∨ (∃ d a, i = .seal d a) ∨ (∃ a h, i = .rollbk a h)) →
    Answers i s (raised s Cause.illPriv (word (encode i).toNat)))

/-- R93: `seal` of a live object that is neither executable nor too large and to which no other entry grants W releases at
device scope, extends CMEAS of the context with the object, takes W from its entry and gives it X, writes the low eight bytes
of CMEAS to xd, and commits. An executable object raises SEAL_FAIL 1, one above 4 MiB SEAL_FAIL 2, another writer
SEAL_FAIL 0x300 + its index. -/
def Sys2Proof.Spec.SealResult : Prop :=
  ∀ (s : State) (d a : BitVec 5) (e : Ent), s.curCtx.sup = true → BlockOk s → tablesOpen (closed s) → (s.x a).toNat < 2 ^ 16 →
    let t := current (closed s)
    let ctxid := t.ctxidOf s.cur.1
    t.liveEnt ctxid (s.x a).toNat = some e → e.fmt ≠ 15 →
    (e.rights.testBit rX = true → Answers (.seal d a) s (raised t Cause.sealFail 1)) ∧
    (e.rights.testBit rX = false → 0x400000 < e.len → Answers (.seal d a) s (raised t Cause.sealFail 2)) ∧
    (e.rights.testBit rX = false → e.len ≤ 0x400000 →
      (∀ o, t.writerOf ctxid e = some o → Answers (.seal d a) s (raised t Cause.sealFail (word (0x300 + o)))) ∧
      (t.writerOf ctxid e = none → settled t 2 →
        let u := (t.release t.cur.1 2).releaseAll ctxid
        let x := leBytes 8 e.base ++ leBytes 8 e.len ++ u.objectBytes ctxid e
        let v := (((u.extendCmeas ctxid 3 x).putEnt { e with rights := (e.rights &&& 0x7D) ||| 4 }).markCode ctxid e true).dropCode ctxid e.base e.len
        let w := { v with maps := v.maps.put (v.mapKey ctxid e) { v.mapOf ctxid e with sealed := true } }
        Answers (.seal d a) s (committed (w.setX d (match w.proc? ctxid with
          | some p => word (leNat (p.cmeas.take 8))
          | none => 0)) false)))

/-! ## Taking an exception -/

/-- R346, R349: a context at user level on a core none of whose other contexts is at supervisor level takes an exception: EPC,
ECAUSE and EVAL receive the PC, the cause and its value, ESTAT the class, the reason and the place in a repeat frame; the
context is at supervisor level at TVEC with its low two bits clear; its registers, its region and its handles stay, and so do
memory and every other context of the core. -/
def Sys2Proof.Spec.ExceptionEntry : Prop :=
  ∀ (s : State) (c i : Nat) (r : TrapReq), i < 11 → (s.ctx c i).sup = false → (s.core c).otherSup i = false →
    r.cause ≠ Cause.uncorrData → r.cls < 4 → r.preason < 4 →
    let x := s.ctx c i
    let t := s.takeTrap c i r
    let y := t.ctx c i
    y.epc = r.epc &&& 0xFFFFFFFFFFFF ∧ y.ecause = word r.cause ∧ y.eval = r.eval ∧ y.sup = true ∧
    y.pc = x.tvec &&& 0xFFFFFFFFFFFC ∧ y.estat.toNat / 2 ^ 17 % 4 = r.cls ∧ y.estat.toNat / 2 ^ 15 % 4 = r.preason ∧
    y.estat.toNat % 2 ^ 15 = 0 ∧ (x.rpt = none → y.estat.getLsbD 19 = false) ∧
    (∀ f, x.rpt = some f → f.active = true → f.need ≤ f.words.length → f.pos < 16 →
      y.estat.getLsbD 19 = true ∧ y.estat.toNat / 2 ^ 20 % 16 = f.pos) ∧
    y.regs = x.regs ∧ y.h = x.h ∧ y.fcsr = x.fcsr ∧ y.tvec = x.tvec ∧ y.scratch = x.scratch ∧ y.rgnpc = x.rgnpc ∧
    y.rgnskip = x.rgnskip ∧ y.instret = x.instret ∧ y.wait = none ∧ y.sig = SigState.idle ∧
    (∀ j, j ≠ i → t.ctx c j = s.ctx c j) ∧ (∀ k, k ≠ c → t.core k = s.core k) ∧
    t.mem = s.mem ∧ t.host = s.host ∧ t.lmem = s.lmem ∧ t.tiles = s.tiles ∧ t.agenda = s.agenda

/-- R113, R346: an exception of a context at supervisor level kills its task: the cause and EVAL enter the fault log, the first
cause of the task stands, and nothing runs on the cores of its instances; stores that have retired stay in their write queues, to be
performed (R69). -/
def Sys2Proof.Spec.ExceptionInSupervisor : Prop :=
  ∀ (s : State) (c i : Nat) (r : TrapReq) (k : Task), (s.ctx c i).sup = true → s.tasks.look (s.core c).task = some k →
    let t := s.takeTrap c i r
    t.mon.faults = s.mon.faults ++ [⟨r.cause, r.cls, c, s.ctxidOf c, r.eval⟩] ∧
    (∃ k', t.tasks.look (s.core c).task = some k' ∧ k'.dead = some (k.dead.getD r.cause)) ∧
    (∀ p ∈ s.insts, p.2.task = (s.core c).task → p.2.st ≠ .saved → ∀ n ∈ p.2.cores,
      (t.core n).lq = [] ∧ (t.core n).wq = (s.core n).wq ∧ (∀ j, ((t.core n).ctx j).live = false)) ∧
    t.mem = s.mem ∧ t.lmem = s.lmem

/-- Control registers: `ControlRegisterAccess`, `ControlRegisterValue`. -/
def Obligations.ControlRegisterResult : Prop := ControlRegisterAccess ∧ ControlRegisterValue

/-- Traps, the return and `seal`: `TrapAndReturn`, `SealResult`. -/
def Obligations.SupervisorResult : Prop := TrapAndReturn ∧ SealResult

/-- Exceptions: `ExceptionEntry`, `ExceptionInSupervisor`. -/
def Obligations.ExceptionResult : Prop := ExceptionEntry ∧ ExceptionInSupervisor

/-! ## Lattice instructions -/

/-- R318, R319, R324, R325: the tB field, xs1, xs2, the mask elements and the bits of the operand word beyond window, mask and
BC of each instruction of two sources. -/
def Sys2Proof.Spec.pairForm (i : Instr) : Option (BitVec 3 × BitVec 5 × BitVec 5 × Nat × Nat) :=
  let typed := fun (y : BitVec 3) => match y.toNat with
    | 0 => (128, 0)
    | 1 => (256, 0)
    | 2 => (256, 0)
    | 3 => (512, 0x400000)
    | 4 => (512, 0x400000)
    | _ => (128, 0)
  match i with
  | .vadd _ _ b p q y => some (b, p, q, typed y)
  | .vsub _ _ b p q y => some (b, p, q, typed y)
  | .vmul _ _ b p q y => some (b, p, q, typed y)
  | .vfma _ _ b p q y => some (b, p, q, (typed y).1, (typed y).2 + 0x7000000)
  | .vmin _ _ b p q y => some (b, p, q, typed y)
  | .vmax _ _ b p q y => some (b, p, q, typed y)
  | .vand _ _ b p q => some (b, p, q, 128, 0)
  | .vor _ _ b p q => some (b, p, q, 128, 0)
  | .vxor _ _ b p q => some (b, p, q, 128, 0)
  | .vshl _ _ b p q => some (b, p, q, 128, 0)
  | .vshr _ _ b p q => some (b, p, q, 128, 0)
  | .vcmpEqF32 _ _ b p q => some (b, p, q, 128, 0)
  | .vcmpEqBf16 _ _ b p q => some (b, p, q, 256, 0)
  | .vcmpEqI32 _ _ b p q => some (b, p, q, 128, 0)
  | .vcmpNeF32 _ _ b p q => some (b, p, q, 128, 0)
  | .vcmpNeBf16 _ _ b p q => some (b, p, q, 256, 0)
  | .vcmpNeI32 _ _ b p q => some (b, p, q, 128, 0)
  | .vcmpLtF32 _ _ b p q => some (b, p, q, 128, 0)
  | .vcmpLtBf16 _ _ b p q => some (b, p, q, 256, 0)
  | .vcmpLtI32 _ _ b p q => some (b, p, q, 128, 0)
  | .vcmpLeF32 _ _ b p q => some (b, p, q, 128, 0)
  | .vcmpLeBf16 _ _ b p q => some (b, p, q, 256, 0)
  | .vcmpLeI32 _ _ b p q => some (b, p, q, 128, 0)
  | .vsel _ _ b p q => some (b, p, q, 128, 0)
  | _ => none

/-- R318, R322, R323, R326, R327: xs1, the mask elements and the bits of the operand word beyond window and mask of each
instruction of one source. -/
def Sys2Proof.Spec.singleForm (i : Instr) : Option (BitVec 5 × Nat × Nat) :=
  let typed := fun (y : BitVec 3) => match y.toNat with
    | 1 => 256
    | 2 => 256
    | 3 => 512
    | 4 => 512
    | _ => 128
  match i with
  | .vexp2 _ _ p => some (p, 128, 0)
  | .vrcp _ _ p => some (p, 128, 0)
  | .vrsqrt _ _ p => some (p, 128, 0)
  | .vlog2 _ _ p => some (p, 128, 0)
  | .vtanh _ _ p => some (p, 128, 0)
  | .vabsF32 _ _ p => some (p, 128, 0)
  | .vabsBf16 _ _ p => some (p, 256, 0)
  | .vnegF32 _ _ p => some (p, 128, 0)
  | .vnegBf16 _ _ p => some (p, 256, 0)
  | .vcvtBf16F32 _ _ _ p => some (p, 256, 0)
  | .vcvtF32Bf16 _ _ _ p => some (p, 128, 0)
  | .vcvtF16F32 _ _ _ p => some (p, 256, 0)
  | .vcvtF32F16 _ _ _ p => some (p, 128, 0)
  | .vcvtE4m3F32 _ _ _ p => some (p, 512, 0x400000)
  | .vcvtF32E4m3 _ _ _ p => some (p, 128, 0)
  | .vcvtE5m2F32 _ _ _ p => some (p, 512, 0x400000)
  | .vcvtF32E5m2 _ _ _ p => some (p, 128, 0)
  | .vcvtI32F32 _ _ p => some (p, 128, 0)
  | .vcvtF32I32 _ _ p => some (p, 128, 0)
  | .vcvtBf16Cb4 _ _ _ p => some (p, 256, 0)
  | .vsum _ _ y p => some (p, typed y, 0)
  | .vmaxr _ _ y p => some (p, typed y, 0)
  | .vperm _ _ _ p => some (p, 128, 0)
  | _ => none

/-- R216, R217: the operand word has no bit that the group does not honour, its window lies in the tile, and a mask base fits
`n` mask elements. -/
def Sys2Proof.Spec.operandOk (w : Word) (honoured n : Nat) : Prop :=
  w.toNat % 2 ^ 32 &&& (2 ^ 32 - 1 - honoured) = 0 ∧
  w.toNat % 256 + (if w.toNat / 256 % 256 = 0 then 128 else w.toNat / 256 % 256) ≤ 128 ∧
  (w.getLsbD 21 = true → w.toNat / 2 ^ 16 % 32 % (n / 64) = 0)

/-- R136, R150, R186: the instruction is not skipped, the queue has room, and the core is not at its cut. -/
def Sys2Proof.Spec.latticeOpen (s : State) : Prop :=
  (s.curCtx.sup = true ∨ s.curCtx.rgnskip.toNat ≤ s.curCtx.lcount) ∧ s.curCore.lq.length < 32 ∧ s.curCore.snapPhase ≠ 1

/-- R136, R150: the entry is the last of the core's queue, the region's count and RGNSKIP take it in, and the instruction
retires. -/
def Sys2Proof.Spec.entered (s : State) (e : LEntry) : State :=
  (s.modCurCore (fun k => { k with lq := k.lq ++ [{ e with seq := k.lseq }], lseq := k.lseq + 1 })).modCur
    (fun x => x.countLattice.retire)

/-- R155: LQST.MODE. -/
def Sys2Proof.Spec.matrixMode (s : State) : Bool := s.curCore.lqst.getLsbD 7

/-- R136: on a restart a lattice instruction that its region has already put in the queue is counted and retires; it enters
nothing. -/
def Sys2Proof.Spec.LatticeSkip : Prop :=
  ∀ (s : State) (i : Instr), ((pairForm i).isSome = true ∨ (singleForm i).isSome = true) → s.curCtx.sup = false →
    s.curCtx.lcount < s.curCtx.rgnskip.toNat → s.cur.2 < 11 →
    ∃ t, Answers i s t ∧ t.curCtx.lcount = s.curCtx.lcount + 1 ∧ t.curCore.lq = s.curCore.lq ∧
      t.curCtx.instret = s.curCtx.instret + 1 ∧ t.tiles = s.tiles ∧
      (s.curCtx.rgnskip.toNat < 2 ^ 32 → t.curCtx.rgnskip = s.curCtx.rgnskip)

/-- R216, R217, R227, R306: in vector mode an instruction of two sources whose operand word passes enters the queue with the
operand word, xs2 and the mask captured. In matrix mode it raises ILL_MODE; a bit that is not honoured raises ILL_RSV with
detail 1, a window beyond the tile ILL_REG 3, a mask base that does not fit ILL_REG 4. A full queue makes it wait. -/
def Sys2Proof.Spec.VectorPairEntry : Prop :=
  ∀ (s : State) (i : Instr) (b : BitVec 3) (p q : BitVec 5) (n extra : Nat), pairForm i = some (b, p, q, n, extra) →
    (s.curCtx.sup = true ∨ s.curCtx.rgnskip.toNat ≤ s.curCtx.lcount) →
    let w := s.x p
    let honoured := 0xBFFFFF + extra
    let code := (encode i).toNat
    (matrixMode s = true → Answers i s (raised s Cause.illMode (word code))) ∧
    (matrixMode s = false → w.toNat % 2 ^ 32 &&& (2 ^ 32 - 1 - honoured) ≠ 0 →
      Answers i s (raised s Cause.illRsv (word (2 ^ 32 + code)))) ∧
    (matrixMode s = false → w.toNat % 2 ^ 32 &&& (2 ^ 32 - 1 - honoured) = 0 → (if w.getLsbD 23 = true then b = 0 else q = 0) →
      let rows := if w.toNat / 256 % 256 = 0 then 128 else w.toNat / 256 % 256
      (128 < w.toNat % 256 + rows → Answers i s (raised s Cause.illReg (word (3 * 2 ^ 32 + code)))) ∧
      (w.toNat % 256 + rows ≤ 128 → w.getLsbD 21 = true → w.toNat / 2 ^ 16 % 32 % (n / 64) ≠ 0 →
        Answers i s (raised s Cause.illReg (word (4 * 2 ^ 32 + code)))) ∧
      (operandOk w honoured n → latticeOpen s →
        Answers i s (entered s (LEntry.new i s.cur.2 w (s.x q) (s.maskOf w n)))) ∧
      (operandOk w honoured n → 32 ≤ s.curCore.lq.length → Answers i s (waiting s .latticeRoom)))

/-- R216, R217, R220, R306, R328: the same for an instruction of one source, with CBSEL captured, and for `fuse`, whose program
is well formed: one that is not raises FUSE_STACK with the condition and the place. -/
def Sys2Proof.Spec.VectorSingleEntry : Prop :=
  (∀ (s : State) (i : Instr) (p : BitVec 5) (n extra : Nat), singleForm i = some (p, n, extra) → latticeOpen s →
    let w := s.x p
    (matrixMode s = false → operandOk w (0x3FFFFF + extra) n → Answers i s (entered s
      { LEntry.new i s.cur.2 w 0 (s.maskOf w n) with cbslot := s.curCtx.cbsel.toNat % 2 ^ 12 })) ∧
    (matrixMode s = true → Answers i s (raised s Cause.illMode (word (encode i).toNat)))) ∧
  (∀ (s : State) (i : Instr) (d a b : BitVec 3) (p q : BitVec 5) (n : Nat),
    ((i = .fuseF32 d a b p q ∧ n = 128) ∨ (i = .fuseBf16 d a b p q ∧ n = 256)) → latticeOpen s → matrixMode s = false →
    let w := s.x p
    let prog := (s.x q).toNat
    operandOk w 0x3FFFFF n → prog % 2 ^ 60 / 2 ^ (4 * (prog / 2 ^ 60)) = 0 →
    (fuseBad (s.x q) = none → Answers i s (entered s (LEntry.new i s.cur.2 w (s.x q) (s.maskOf w n)))) ∧
    (∀ r, fuseBad (s.x q) = some r → Answers i s (raised s Cause.fuseStack
      (word (r.1 * 2 ^ 36) + word (r.2 * 2 ^ 32 + (encode i).toNat)))))

/-- R313, R314, R316, R317: with an operand word that passes, `tzero`, `tbc`, `tmov`, `ttr` and `tgat` enter the queue in either
mode; `tld` and `tst` of local memory enter it with the place of the window, or with the cause that a check of R166 finds,
which is deferred; of a global object with what the check finds or with the homes of its pages. -/
def Obligations.MovementEntry : Prop :=
  (∀ (s : State) (d : BitVec 3) (p : BitVec 5), latticeOpen s → operandOk (s.x p) 0x3FFFFF 128 →
    Answers (.tzero d p) s (entered s (LEntry.new (.tzero d p) s.cur.2 (s.x p) 0 (s.maskOf (s.x p) 128))) ∧
    Answers (.tbc d p) s (entered s (LEntry.new (.tbc d p) s.cur.2 (s.x p) 0 (s.maskOf (s.x p) 128)))) ∧
  (∀ (s : State) (d : BitVec 3) (p q : BitVec 5), latticeOpen s → operandOk (s.x p) 0xFFFF 128 →
    let e := fun i => entered s (LEntry.new i s.cur.2 (s.x p) (s.x q) 0)
    ((s.x q).toNat < 8 → Answers (.tmov d p q) s (e (.tmov d p q)) ∧ Answers (.ttr d p q) s (e (.ttr d p q))) ∧
    ((s.x q).toNat < 64 → Answers (.tgat d p q) s (e (.tgat d p q)))) ∧
  (∀ (s : State) (i : Instr) (d : BitVec 3) (p q : BitVec 5) (store : Bool),
    i = (if store then .tst d 0 p q else .tld d 0 p q) → latticeOpen s → operandOk (s.x p) 0xFFFF 128 →
    let off := (s.x q).toInt
    let rows := if (s.x p).toNat / 256 % 256 = 0 then 128 else (s.x p).toNat / 256 % 256
    let e := { LEntry.new i s.cur.2 (s.x p) (s.x q) 0 with
      sat := s.curCtx.wctl.getLsbD 0, off := off.toNat % 0x40000, fmt := off.toNat / 0x40000,
      cbslot := s.curCtx.cbsel.toNat % 2 ^ 12, fault := localMove off rows store }
    Answers i s (entered s e) ∧
    (0 ≤ off → off < 0x200000 → off % 8 = 0 →
      off % 0x40000 + rows * winBytes (off.toNat / 0x40000) ≤ (if store = true then 0x3F400 else 0x40000) →
      (store = true → off.toNat / 0x40000 ≠ 5) → e.fault = none)) ∧
  (∀ (s : State) (i : Instr) (d : BitVec 3) (h : BitVec 4) (p q : BitVec 5) (store : Bool), h ≠ 0 →
    i = (if store then .tst d h p q else .tld d h p q) → tablesOpen s → latticeOpen (current s) → operandOk (s.x p) 0xFFFF 128 →
    (s.curCtx.sup = true ∨ s.curCtx.rgnskip.toNat ≤ s.curCtx.lcount) →
    let t := current s
    let off := (s.x q).toInt
    let rows := if (s.x p).toNat / 256 % 256 = 0 then 128 else (s.x p).toNat / 256 % 256
    let e := { LEntry.new i s.cur.2 (s.x p) (s.x q) 0 with sat := s.curCtx.wctl.getLsbD 0 }
    let r := t.checkMove (t.ctxidOf t.cur.1) (t.hreg h.toNat) off (fun f => rows * winBytes f) 8 store
    (∀ b, r = .error b → Answers i s (entered t { e with fault := some (b.cause, b.eval) })) ∧
    (∀ o a u, r = .ok o →
      checkPages o off.toNat ⟨[], rows * winBytes o.fmt, store, 8, false, if store then .write else .read⟩ t = .ok a u →
      latticeOpen u →
      let z := entered u { e with
        index := o.index, base := o.base, off := a.off, leaf := o.leaf t.cur.1, homes := a.homes, cbslot := o.cbslot,
        fmt := o.fmt }
      Answers i s (if store = true ∧ o.rights.testBit rJ = false then
        z.modCurCore (fun k => { k with rollable := false }) else z)))

/-- R227, R330, R331, R332, R337: in matrix mode `mma` with two different tiles, an operand word with nothing but NA, NB and
ZC, and a K that its form allows, enters the queue, and the `ssm` forms enter it with the index in xs2 (a control block without J ends the superstep's rollability: R103);
K of 0 or above 256
raises MMA_SHAPE for a 16-bit form, and D equal to A raises it with detail 5. In vector mode they raise ILL_MODE. `wbld`
enters it in either mode with what the check of its source, as that of a `tld`, finds. -/
def Sys2Proof.Spec.MatrixEntry : Prop :=
  (∀ (s : State) (i : Instr) (d a : BitVec 3) (p q : BitVec 5) (f : Nat),
    ((i = .mmaBf16 d a p q ∧ f = 0) ∨ (i = .mmaF16 d a p q ∧ f = 1) ∨ (i = .mmaE4m3 d a p q ∧ f = 2) ∨
      (i = .mmaE5m2 d a p q ∧ f = 3) ∨ (i = .mmaCb4 d a p q ∧ f = 4)) → latticeOpen s →
    let w := (s.x p).toNat
    let k := (s.x q).toNat / 16 % 512
    let code := (encode i).toNat
    (matrixMode s = false → Answers i s (raised s Cause.illMode (word code))) ∧
    (matrixMode s = true → d = a → Answers i s (raised s Cause.mmaShape (word (5 * 2 ^ 32 + code)))) ∧
    (matrixMode s = true → d ≠ a → w % 2 ^ 32 &&& (2 ^ 32 - 1 - 0x7000000) = 0 → (s.x q).toNat < 2 ^ 13 →
      ((f = 2 ∨ f = 3) ∨ (k ≠ 0 ∧ k ≤ 256) →
        Answers i s (entered s { LEntry.new i s.cur.2 (s.x p) (s.x q) 0 with fmt := f })) ∧
      (¬ (f = 2 ∨ f = 3) → (k = 0 ∨ 256 < k) →
        Answers i s (raised s Cause.mmaShape (word (2 * 2 ^ 32 + code)))))) ∧
  (∀ (s : State) (i : Instr) (d : BitVec 3) (q : BitVec 5), (i = .ssm d q ∨ i = .ssmC d q ∨ i = .ssmR d q) → latticeOpen s →
    (matrixMode s = false → Answers i s (raised s Cause.illMode (word (encode i).toNat))) ∧
    (matrixMode s = true → (s.x q).toNat < 2 ^ 16 →
      let z := entered s { LEntry.new i s.cur.2 0 (s.x q) 0 with index := (s.x q).toNat }
      Answers i s (match s.liveEnt (s.ctxidOf s.cur.1) (s.x q).toNat with
        | some x => if x.rights.testBit rJ = true then z else z.modCurCore (fun k => { k with rollable := false })
        | none => z))) ∧
  (∀ (s : State) (o : BitVec 3) (q : BitVec 5), (s.curCtx.sup = true ∨ s.curCtx.rgnskip.toNat ≤ s.curCtx.lcount) →
    (s.x q).toNat < 2 ^ 29 → tablesOpen s →
    let v := s.x q
    let off := (s.x (o.setWidth 5)).toInt
    let t := current s
    let ctxid := t.ctxidOf t.cur.1
    let h := t.indexHandle ctxid (v.toNat / 2 ^ 13)
    let e := LEntry.new (.wbld o q) s.cur.2 0 v 0
    let r := t.checkMove ctxid h off (wbldBytes v) 0 false
    let z := fun (x : Ent) (homes : List (Nat × Home)) => { e with
      index := x.index, base := x.base, off := off.toNat, leaf := x.leaf t.cur.1, homes := homes, cbslot := x.cbslot,
      fmt := x.fmt, params := [word x.gen] }
    (∀ b, r = .error b → latticeOpen t → Answers (.wbld o q) s (entered t { e with fault := some (b.cause, b.eval) })) ∧
    (∀ x a u, r = .ok x → wbldBytes v x.fmt ≠ 0 →
      checkPages x off.toNat ⟨[], wbldBytes v x.fmt, false, 0, false, .read⟩ t = .ok a u → latticeOpen u →
      Answers (.wbld o q) s (entered u (z x a.homes))) ∧
    (∀ x, r = .ok x → wbldBytes v x.fmt = 0 → latticeOpen t → Answers (.wbld o q) s (entered t (z x []))))

/-- R315, R333, R334, R349: on an idle lattice `lmode` sets MODE and retires, and `lfence`, once the write queue has drained and
no remote operation is open (log entry 50), delivers the oldest deferred cause that belongs to it, and with none retires; on a lattice
that is not idle both wait. -/
def Sys2Proof.Spec.LatticeModeAndFence : Prop :=
  (∀ (s : State) (m : BitVec 3), m.toNat < 2 →
    (s.curCore.latticeIdle = true → s.cur.2 < 11 → ∃ t, Answers (.lmode m) s t ∧ matrixMode t = decide (m = 1) ∧
      (∀ k, k < 64 → k ≠ 7 → t.curCore.lqst.getLsbD k = s.curCore.lqst.getLsbD k) ∧
      t.curCtx.regs = s.curCtx.regs ∧ t.curCtx.instret = s.curCtx.instret + 1 ∧ t.tiles = s.tiles ∧ t.mem = s.mem) ∧
    (s.curCore.latticeIdle = false → Answers (.lmode m) s (waiting s .latticeEmpty))) ∧
  (∀ s : State, s.queueShut s.cur.1 (fun _ => true) = none →
    let t := s.drain s.cur.1
    (t.curCore.latticeIdle = false → Answers .lfence s (waiting t .latticeEmpty)) ∧
    (t.curCore.latticeIdle = true → (t.curCore.rfcnt ≠ 0 ∨ t.remoteBusy = true) → Answers .lfence s (waiting t .remoteIdle)) ∧
    (t.curCore.latticeIdle = true → t.curCore.rfcnt = 0 → t.remoteBusy = false →
      (t.curCtx.deferred.find? (fun d => d.point == .lfence) = none → Answers .lfence s t.retire) ∧
      (∀ d, t.curCtx.deferred.find? (fun d => d.point == .lfence) = some d → Answers .lfence s (delivered t d))))

/-- Vector instructions: `LatticeSkip`, `VectorPairEntry`, `VectorSingleEntry`. -/
def Obligations.VectorEntry : Prop := LatticeSkip ∧ VectorPairEntry ∧ VectorSingleEntry

/-- Matrix, state-space, mode and fence: `MatrixEntry`, `LatticeModeAndFence`. -/
def Obligations.MatrixAndFence : Prop := MatrixEntry ∧ LatticeModeAndFence

/-! ## Messages -/

/-- R73, R87: the message that arrives has a tag that is right, and no firewall refuses it. -/
def Sys2Proof.Spec.passes (s : State) : Prop :=
  s.ev.msg.tagOk = true ∧ s.firewallRefuses s.ev.at_ s.ev.msg = false

/-- R183: the state once the arriving message has been counted. -/
def Sys2Proof.Spec.counted (s : State) : State := s.countRecv s.ev.at_ s.ev.msg

/-- R37, R39, R41, R44, R45, R48, R38, R87, R101: a switch puts a message whose header passes into the queue of its input and class with
the outputs that its route names; a header that fails is reported and resets the partition of the input; a
switch that is out of service takes nothing. An output sends the
message that its choice names to the next switch or to its endpoint. A head that has waited is promoted for an output. A
message that R38 does not let pass is discarded and logged. -/
def Obligations.FabricEvents : Prop :=
  (∀ s : State,
    let m := s.ev.msg
    let sw := s.ev.at_
    (s.shutSwitch sw = true → Answers .switchReceive s s) ∧
    (s.shutSwitch sw = false → s.headerOk sw s.ev.x m = true → ¬ (m.op = 0x72 ∧ m.ddev = s.devId) → (s.outsOf sw s.ev.x m).1 ≠ [] →
      let t := s.modSwitch sw (fun k => { k with
        tie := (s.outsOf sw s.ev.x m).2,
        queues := k.queues.put (s.ev.x * 4 + m.tc) (k.queues.get (s.ev.x * 4 + m.tc) [] ++
          [⟨m, s.ev.x, (s.outsOf sw s.ev.x m).1, [], []⟩]) })
      Answers .switchReceive s (t.signalStop sw s.ev.x m.tc)) ∧
    (s.shutSwitch sw = false → s.headerOk sw s.ev.x m = false → ∀ p, s.inputOwner sw s.ev.x = some p →
      (s.raiseMonitor Cause.eccUncorrMeta).inputOwner sw s.ev.x = some p →
      Answers .switchReceive s ((s.raiseMonitor Cause.eccUncorrMeta).post .partReset { Ev.zero with x := p, z := 1 }))) ∧
  (∀ (s : State) (h : Nat × Nat) (k : Switch) (q : Queued),
    let sw := s.ev.at_
    let out := s.ev.x
    s.solderHeld sw out = false → (s.switchNow sw).choose sw out = (some h, k) →
    (k.queues.get (h.1 * 4 + h.2) []).head? = some q →
    let t := ({ s with switches := s.switches.put sw ({ k with stops := (s.switch sw).stops }.granted h out) }.ageHeads sw out q.msg.beats).signalStop sw h.1 h.2
    (∀ n p, nextSwitch sw out = some (n, p) → crossesSolder n p = false → Answers .outputArbitrate s
      (t.post .switchReceive { Ev.zero with at_ := n, x := p, msg := q.msg })) ∧
    (nextSwitch sw out = none → sw < 128 → q.msg.op ≠ 0x72 → q.msg.ddev = t.devId → Answers .outputArbitrate s
      (t.post q.msg.event { Ev.zero with at_ := portEndpoint sw out, msg := q.msg }))) ∧
  (∀ (s : State) (m : Queued) (rest : List Queued), (s.switch s.ev.at_).queues.get s.ev.x [] = m :: rest →
    Answers .agePromote s (s.modSwitch s.ev.at_ (fun k => { k with
      queues := k.queues.put s.ev.x ({ m with prom := s.ev.y :: m.prom } :: rest) }))) ∧
  (∀ s : State, Answers .unknownMessage s (s.audit 4 (auditSrc s.ev.at_) s.ev.msg.part s.ev.msg.header0))

/-- The events of the requests that the stage they reach serves. -/
def Sys2Proof.Spec.stageRequest (i : Instr) : Prop :=
  i ∈ [.rd, .wr, .wrh, .atom, .red, .sendMsg, .qpostMsg, .take, .takecan, .brd, .mrd, .bwrh, .mfwd]

/-- R38, R73, R87, R176, R177: a request that reaches a home slice joins the pending entry of its line, or opens one of the 128, which a waiting TAKE holds too,
or is spilled behind those that came before it; one whose line has moved is sent on to the new home (R58). At the hub root a
request of another device goes on through the fabric to the home slice of its line (R52). At another stage it is served at once, or waits there in
arrival order when it cannot be. One whose tag fails, or that a firewall refuses, is discarded and logged. -/
def Sys2Proof.Spec.RequestArrival : Prop :=
  ∀ (s : State) (i : Instr), stageRequest i →
    let ep := s.ev.at_
    let m := s.ev.msg
    let src := match niOf ep with
      | some cl => cl * 8
      | none => 0xFFFF
    (m.tagOk = false → Answers i s (s.audit 4 src m.part m.header0)) ∧
    (m.tagOk = true → s.firewallRefuses ep m = true → Answers i s (s.audit 3 src (src / 8) m.header0)) ∧
    (passes s → isSlice ep = true →
      let t := counted s
      let n := epSlice ep
      let k := t.slice n
      let line := t.reqLine ep m
      let behind := k.spill.any (fun q => t.reqLine q.ep q.msg == line)
      (∀ u, t.sentOn ⟨ep, m, 0⟩ = some u → Answers i s u) ∧
      (t.sentOn ⟨ep, m, 0⟩ = none →
      (behind = false → k.entries.any (fun e => e.line == line) = true → Answers i s (t.modSlice n (fun k => { k with
        entries := k.entries.map (fun e => if e.line = line then { e with reqs := e.reqs ++ [⟨ep, m, line⟩] } else e) }))) ∧
      (behind = false → k.entries.any (fun e => e.line == line) = false → k.holds line = true →
        Answers i s (t.modSlice n (fun k => { k with entries := k.entries ++ [⟨line, [⟨ep, m, line⟩]⟩] }))) ∧
      (behind = true ∨ (k.entries.any (fun e => e.line == line) = false ∧ k.holds line = false) →
        k.spill.length + 1 ≠ 16384 → k.spill.length + 1 ≠ 32768 →
        Answers i s (t.modSlice n (fun k => { k with spill := k.spill ++ [⟨ep, m, line⟩] }))))) ∧
    (passes s → isSlice ep = false →
      let t := counted s
      (∀ pl n, m.sdev ≠ t.devId → t.placeOf ep m [] = .ok pl → t.slicePlace pl.home = some n → Answers i s (t.post .switchReceive
        { Ev.zero with at_ := hubRoot, x := 192 + ep % 256, msg := { m with dep := sliceEndpoint n } })) ∧
      ((m.sdev = t.devId ∨ ∀ pl, t.placeOf ep m [] = .ok pl → t.slicePlace pl.home = none) →
        (∀ u, t.serve ep m = some u → Answers i s u) ∧
        (t.serve ep m = none → Answers i s
          (t.modSlice (waitUnit ep) (fun k => { k with takes := k.takes ++ [⟨ep, m, t.reqLine ep m⟩] })))))

/-- R176, R177, R178, R179, R92, R296: what serving does. The line of a pending entry has come: its requests are served in
order and the entry is free; the oldest spilled request then joins the entry of its line or takes a free one. A read answers
the bytes with their poison, a write the acknowledgement of its class once the bytes are merged, a TAKE the message in slot
HEAD; a request that names no place answers FAIL with the cause. -/
def Sys2Proof.Spec.RequestService : Prop :=
  (∀ (s : State) (e : HomeEntry), (s.slice s.ev.at_).entries.find? (fun e => e.line == s.ev.x) = some e →
    let t := e.reqs.foldl (fun s r => s.serveOrWait r) (s.modSlice s.ev.at_ (fun k => { k with
      entries := k.entries.filter (fun o => o.line != s.ev.x) }))
    Answers .dramComplete s (if (t.slice s.ev.at_).spill = [] then t else t.post .spillFetch { Ev.zero with at_ := s.ev.at_ })) ∧
  (∀ (s : State) (r : HomeReq) (rest : List HomeReq), (s.slice s.ev.at_).spill = r :: rest →
    let k := s.slice s.ev.at_
    let line := s.reqLine r.ep r.msg
    (k.entries.any (fun e => e.line == line) = true → Answers .spillFetch s (s.modSlice s.ev.at_ (fun k => { k with
      spill := rest,
      entries := k.entries.map (fun e => if e.line = line then { e with reqs := e.reqs ++ [r] } else e) }))) ∧
    (k.entries.any (fun e => e.line == line) = false → k.holds line = true →
      Answers .spillFetch s (s.modSlice s.ev.at_ (fun k => { k with
        spill := rest, entries := k.entries ++ [⟨line, [r]⟩] })))) ∧
  (∀ (s : State) (ep : Nat) (m : Msg) (rights : List Nat), s.bankShut ep m = false →
    (m.op = 0x01 ∨ m.op = 0x21 → ∀ pl, s.placeOf ep m [rR] = .ok pl → s.hostDenies pl.home = false →
      let r := s.placeRead pl m.req.size
      s.serve ep m = some (r.2.answer ep m (if m.op = 0x21 then 0x50 else 0x41) (bytesWords r.1.1) r.1.2)) ∧
    (m.op = 0x03 ∨ m.op = 0x23 ∨ m.op = 0x24 → ∀ pl u, s.placeOf ep m [rW] = .ok pl → s.hostDenies pl.home = false →
      s.placeWrite m pl m.half.1 m.half.2 (m.poison / 8 % 256) = some u →
      s.serve ep m = some (u.answer ep m (if m.tc = 2 then 0x46 else 0x42) [] 0)) ∧
    (m.op = 0x01 ∨ m.op = 0x21 → ∀ c, s.placeOf ep m [rR] = .error c →
      s.serve ep m = some (s.answer ep m 0x4F [word (c * 2 ^ 56)] 0)) ∧
    (m.op = 0x09 → rights = [rS, rR] → ∀ pl q h, s.queuePlace ep m rights = .ok (pl, q, h) → q.kind = 2 →
      (m.word 0).getLsbD 1 = false → q.count ≠ 0 →
      let r := s.take64 pl.ctxid m.req.handle q h m.col
      s.serve ep m = some (r.2.answer ep m 0x44 (word r.1.1 :: bytesWords r.1.2.1) (r.1.2.2 * 2))))

/-- R132, R168, R169, R255: at a network interface RST writes local memory below the frames and is acknowledged, the poison of its word going with it (R100), one that
reaches the frames is refused with REMOTE_FAIL; NIB writes one nibble; RLD answers the bytes with their poison; INV takes the line out
of the L1 of every core of the context and is acknowledged. -/
def Sys2Proof.Spec.LocalMemoryRequests : Prop :=
  ∀ s : State, passes s → (niOf s.ev.at_).isSome = true →
    let ep := s.ev.at_
    let m := s.ev.msg
    let t := counted s
    let c := epCluster ep * 8 + m.req.core
    let at_ := m.req.addr
    let bytes := (leBytes 8 (m.word 0).toNat).take m.req.size
    let old := (t.lmem.get (lkey c at_)).toNat
    let nib := [BitVec.ofNat 8 (putNibble old ((m.word 0).getLsbD 8) ((m.word 0).toNat % 16))]
    (∀ u, t.foreignWrite c at_ bytes m.col = (true, u) →
      Answers .rst s ((u.markLocal c at_ (m.poison.testBit 2)).answer ep m 0x42 [] 0)) ∧
    (∀ u, t.foreignWrite c at_ bytes m.col = (false, u) →
      Answers .rst s (u.answer ep m 0x4F [word (Cause.remoteFail * 2 ^ 56)] 0)) ∧
    (∀ u, t.foreignWrite c at_ nib m.col = (true, u) →
      Answers .nib s ((u.markLocal c at_ (m.poison.testBit 2)).answer ep m 0x42 [] 0)) ∧
    Answers .rld s (t.answer ep m 0x41 [word (leNat (t.lmem.getRange (lkey c at_) m.req.size))]
      (if t.lmem.poisoned (lkey c at_) m.req.size = true then 1 else 0)) ∧
    Answers .inv s ((((coresOf (epCluster ep)).filter (fun n => t.ctxidOf n == m.req.ctxid)).foldl
      (fun s n => s.l1Drop n (at_ / 128)) t).answer ep m 0x42 [] 0)

/-- R28, R38, R168, R250, R262, R296: an answer to an outstanding request of a context closes the request, and that to a withdrawal
the TAKE that it withdraws; the context that waits for it has it; RDATA for a line that a lattice entry asked for is given to the entry. An answer that no request waits
for changes nothing else. -/
def Sys2Proof.Spec.AnswerEvents : Prop :=
  ∀ (s : State) (i : Instr), passes s → i ∈ [.rdata, .ares, .msg, .empty] →
    let t := counted s
    let m := s.ev.msg
    (t.remoteFor s.ev.at_ m = none → Answers i s t) ∧
    (∀ r, t.remoteFor s.ev.at_ m = some r → r.ctx < 11 →
      let u := ((t.closeRemote r).settle r).withdrawn r
      let x := u.ctx r.core r.ctx
      (x.wait = some (.remote r.tag) ∨ x.wait = some (.fetch r.tag) → Answers i s
        (u.setCtx r.core r.ctx { x with replies := x.replies ++ [⟨r.tag, m.op, m.payload, m.poison⟩] })) ∧
      (¬ (x.wait = some (.remote r.tag) ∨ x.wait = some (.fetch r.tag)) → Answers i s u)) ∧
    (∀ r e, t.remoteFor s.ev.at_ m = some r → 100 ≤ r.ctx → ((t.closeRemote r).core r.core).entryOf r.ctx = some e →
      Answers .rdata s ((t.closeRemote r).modCore r.core (fun k => k.putEntry { e with
        lines := e.lines.put r.off (m.payload.flatMap (fun w => leBytes 8 w.toNat) ++ leBytes 2 m.poison) })))

/-- R27, R28, R73: a request from another device with a new ESEQ is entered in the replay table of its source and goes on;
one whose ESEQ is in progress is discarded; a load that has been answered is performed again, and another request gets the stored
answer. A request whose answer is due goes out again with its ESEQ, and after 8
retransmissions it fails; a failed one is closed and its cause reaches the context that waits. An acknowledgement that is owed
goes out in a control flit. -/
def Sys2Proof.Spec.EndToEndEvents : Prop :=
  (∀ s : State,
    let m := s.ev.msg
    let eseq := (s.ev.words.getD 0 0).toNat / 2 ^ 32
    let cack := (s.ev.words.getD 0 0).toNat % 2 ^ 32
    let t := s.modPeer m.sdev (fun p => { p with
      replays := p.replays.filter (fun r => (r.2.eseq + 2 ^ 32 - cack) % 2 ^ 32 < 2 ^ 31) })
    let go := fun (t : State) => t.post m.event { Ev.zero with at_ := s.ev.at_, msg := { m with eseq := eseq } }
    ((∀ r, (t.peer m.sdev).replays.look (eseq % 4096) = some r → r.eseq ≠ eseq) → Answers .e2eRequestArrive s
      (go (t.modPeer m.sdev (fun p => { p with replays := p.replays.put (eseq % 4096) ⟨eseq, false, []⟩ })))) ∧
    (∀ r, (t.peer m.sdev).replays.look (eseq % 4096) = some r → r.eseq = eseq →
      (r.done = false → Answers .e2eRequestArrive s t) ∧
      (r.done = true → m.op = 0x01 ∨ m.op = 0x0C → Answers .e2eRequestArrive s (go t)) ∧
      (r.done = true → m.op ≠ 0x01 → m.op ≠ 0x0C → ∃ a, Answers .e2eRequestArrive s (t.inject a) ∧
        a.op = (r.result.getD 0 0).toNat ∧ a.payload = r.result.drop 1 ∧ a.eseq = eseq ∧ a.tagid = m.tagid ∧ a.ddev = m.sdev))) ∧
  (∀ (s : State) (r : Remote),
    s.remotes.find? (fun r => r.dev == s.ev.at_ && r.eseq == s.ev.x && r.dev != s.devId) = some r →
    (r.retries < 8 → Answers .e2eRetransmit s ({ s with remotes := s.remotes.map (fun q =>
      if q = r then { q with sent := s.clk, retries := q.retries + 1 } else q) }.inject r.msg)) ∧
    (8 ≤ r.retries → Answers .e2eRetransmit s
      (s.post .e2eRequestFail { Ev.zero with at_ := s.ev.at_, x := s.ev.x })) ∧
    Answers .e2eRequestFail s (s.failRemote r (if r.atomic then Cause.atomicLost else Cause.remoteFail)
      (word (r.dev * 2 ^ 32 + r.eseq)))) ∧
  (∀ (s : State) (r : Remote) (cause : Nat) (eval : Word), r.ctx < 11 →
    let u := (s.closeRemote r).settle r
    let x := u.ctx r.core r.ctx
    x.wait = some (.remote r.tag) → s.failRemote r cause eval = u.setCtx r.core r.ctx { x with
      replies := x.replies ++ [⟨r.tag, 0x4F, [word (cause * 2 ^ 56), eval], 0⟩] }) ∧
  (∀ (s : State) (r : Remote),
    s.remotes.find? (fun r => r.dev == s.devId && r.core == s.ev.at_ && r.tag == s.ev.x) = some r →
    ∃ v, Answers .requestTimeout s (s.free.2.failRemote r Cause.remoteFail (word (r.dev * 2 ^ 32 + v)))) ∧
  (∀ (s : State) (l : Nat), s.linkTo s.ev.at_ = some l → Answers .e2eAckTimer s
    ((s.modLink l (fun k => k.send 2
      [3, word (s.devId * 2 ^ 58 + s.ev.at_ * 2 ^ 52 + (s.peer s.ev.at_).cack)] false)).modPeer
        s.ev.at_ (fun p => { p with owedAck := false })))

/-- Requests at a stage: `RequestArrival`, `RequestService`, `LocalMemoryRequests`. -/
def Obligations.RequestEvents : Prop := RequestArrival ∧ RequestService ∧ LocalMemoryRequests

/-- Answers and end-to-end retry: `AnswerEvents`, `EndToEndEvents`. -/
def Obligations.AnswerAndRetryEvents : Prop := AnswerEvents ∧ EndToEndEvents

/-! ## The copy unit -/

/-- R162, R164, R180, R289, R290, R292, R404: the head job of a queue takes a step, and the next turn is that of the queue after it:
a copy that has moved all its bytes ends, another moves its next piece; a join ends when the jobs it names have ended; a multicast
whose source fails its check ends with the cause, and another sends its setups. A piece for local memory moves the bytes and
goes on; a line of another device that it lacks is asked for; a job that ends is done with its fault. -/
def Sys2Proof.Spec.CopyJobStep : Prop :=
  (∀ (s : State) (j : Job),
    let cl := s.ev.at_
    let q := s.ev.x
    let t := s.modCluster cl (fun k => { k with jobNext := (q + 1) % 16 })
    t.headJob cl q = some j →
    (j.kind = .copy → j.tag = 0 → j.total ≤ j.pos → Answers .copyJobStart s (t.endJob cl q j.seq j.fault j.faultH)) ∧
    (j.kind = .copy → j.tag = 0 → j.pos < j.total → Answers .copyJobStart s (t.copyPiece cl q j none)) ∧
    (∀ mask upto, j.kind = .join mask upto → t.joinOver cl (mask &&& (2 ^ 16 - 1 - 2 ^ q)) upto = true →
      Answers .copyJobStart s (t.endJob cl q j.seq 0 0)) ∧
    (∀ cores b u, j.kind = .mcast cores → j.tag = 0 → t.mcastSource cl j = (.error b, u) →
      Answers .copyJobStart s (u.endJob cl q j.seq b.cause j.srch.index.toNat)) ∧
    (∀ cores a u, j.kind = .mcast cores → j.tag = 0 → t.mcastSource cl j = (.ok a, u) → u.mcastFar j a = false →
      Answers .copyJobStart s (u.sendSetups cl q j cores))) ∧
  (∀ (s : State) (cl q d o : Nat) (j : Job) (bs : List Byte) (bad : List Bool) (u : State),
    s.copySide cl j j.dsth (j.places j.pos).2 bs.length true = (.ok (.loc d o), u) → bad.any (fun b => b) = false →
    s.writePiece cl q j bs bad = (u.intoLocal d o bs bad (parity (u.cluster cl).snapGen)).modJobAt cl q j.seq
      (fun k => { k with pos := j.pos + bs.length, tag := 0, got := [] })) ∧
  (∀ (s : State) (cl q : Nat) (j : Job) (a : Acc) (u v : State) (h : Home × Nat),
    s.sideShut cl j.ctxid j.srch = false → s.sideShut cl j.ctxid j.dsth = false →
    s.copySide cl j j.srch (j.places j.pos).1 (s.piece j) false = (.ok (.obj a), u) → u.hostDenies (a.homeAt 0) = false →
    u.unitRead cl j a 0 (s.piece j) = (.error h, v) →
    s.copyPiece cl q j none = v.askUnit cl q j (v.path j.ctxid (unitLeaf a.ent cl)) h) ∧
  (∀ (s : State) (cl q seq fault faultH : Nat) (j : Job), (s.jobsOf cl q).find? (fun j => j.seq == seq && !j.done) = some j →
    j.kind = .copy → (s.endJob cl q seq fault faultH).jobsOf cl q = (s.jobsOf cl q).map (fun j =>
      if j.seq = seq ∧ ¬ j.done then { j with done := true, fault := fault, faultH := faultH, tag := 0, lines := 0 } else j))

/-- R38, R164, R406: BDATA brings the job that waits for it the line with its marks; at the network interface, for local memory of
the cluster, the job goes on at once: it writes the bytes there and acknowledges the line to the copy unit. FAIL ends the job with its
fault, and LACK counts a write; at a network interface ACK closes the request of a context. -/
def Sys2Proof.Spec.CopyAnswers : Prop :=
  (∀ (s : State) (cl q : Nat) (j : Job), passes s →
    let t := counted s
    let m := s.ev.msg
    niOf s.ev.at_ = some cl → t.jobByTag cl m.tagid = some (q, j) →
    let u := t.jobLine cl q j (m.payload.flatMap (fun w => leBytes 8 w.toNat) ++ leBytes 2 m.poison)
    (4 ≤ s.ev.at_ % 16 ∨ j.intoCluster = false → Answers .bdata s u) ∧
    (∀ k, s.ev.at_ % 16 < 4 → j.intoCluster = true → u.headJob cl q = some k → Answers .bdata s (u.copyPiece cl q k (some m))) ∧
    (j.lines ≤ 1 → Answers .lack s (t.modJobAt cl q j.seq (fun k => { k with lines := 0, tag := 0 }))) ∧
    (1 < j.lines → Answers .lack s (t.modJobAt cl q j.seq (fun k => { k with lines := j.lines - 1 }))) ∧
    (t.remoteFor s.ev.at_ m = none →
      let c := (m.payload.getD 0 0).toNat / 2 ^ 56
      j.kind = .copy → Answers .fail s (t.endJob cl q j.seq (if m.sdev = t.devId ∨ c = Cause.linkDown then c else Cause.remoteFail)
        (if j.lines = 0 then j.srch else j.dsth).index.toNat))) ∧
  (∀ (s : State) (cl q c o : Nat) (j : Job) (m : Msg) (bs : List Byte) (bad : List Bool) (u : State),
    bad.any (fun b => b) = false → s.copySide cl j j.dsth (j.places j.pos).2 bs.length true = (.ok (.loc c o), u) →
    let v := (u.intoLocal c o bs bad m.col).modJobAt cl q j.seq (fun k => { k with
      pos := j.pos + bs.length, tag := m.tagid + 1, lines := 1, got := [] })
    s.lineIn cl q j m bs bad = v.inject (mkMsg v.devId (cuEndpoint cl) v.devId (niEndpoint cl) 1 0x46 m.tagid m.part
      (parity (v.cluster cl).snapGen) [])) ∧
  (∀ (s : State) (r : Remote), passes s →
    let t := counted s
    let m := s.ev.msg
    t.remoteFor s.ev.at_ m = some r →
    let u := ((t.closeRemote r).settle r).withdrawn r
    (¬ ((u.ctx r.core r.ctx).wait = some (.remote r.tag) ∨ (u.ctx r.core r.ctx).wait = some (.fetch r.tag)) →
      Answers .ack s u) ∧
    Answers .fail s ((t.failCause r m).2.failRemote r (t.failCause r m).1.1 (t.failCause r m).1.2))

/-- R404, R405, R406, R180: a setup installs a delivery entry and is acknowledged; a read opens a record at the stage that serves
it when no record there holds a line of it; the stage sends the next line of a record to its clusters, and first asks for one that another device is home to; an interface that holds
the notices a line needs delivers it to the cores of its entry and acknowledges it, and else holds it; a notice that comes
delivers the lines that waited for it; a record that owes nothing more completes its requesters, with the mark of a poisoned line (R101). -/
def Sys2Proof.Spec.MulticastSteps : Prop :=
  (∀ s : State, passes s →
    let t := counted s
    let m := s.ev.msg
    let w := (m.payload.getD 0 0).toNat
    let cl := epCluster s.ev.at_
    let entry : Delivery := ⟨w / 2 ^ 59, w / 2 ^ 51 % 2 ^ 8, w / 2 ^ 40 % 2 ^ 11, w / 2 ^ 29 % 2 ^ 11, []⟩
    let u := t.modCluster cl (fun k => { k with
      deliv := k.deliv.filter (fun o => o.id != entry.id) ++ [entry], joins := k.joins.filter (fun n => n.of_ != entry.id) })
    Answers .msetup s (u.inject (mkMsg u.devId m.sep u.devId s.ev.at_ 1 0x42 m.tagid m.part (parity (u.epGen s.ev.at_)) []))) ∧
  (∀ (t : State) (ep : Nat) (m : Msg) (pl : Place), m.op = 0x22 → t.bankShut ep m = false →
    let ls := t.readLines ep m pl
    t.placeOf ep m [rR] = .ok pl →
    (t.slice (waitUnit ep)).records.any (fun r => r.joins < 15 && r.ctxid == pl.ctxid && r.vc == m.req.vc &&
      ls.any (fun l => r.lines.contains l || r.sent.contains l)) = false →
    t.serve ep m = some (t.modSlice (waitUnit ep) (fun k => { k with records := k.records ++ [⟨m.tagid / 2048, pl.ctxid,
      m.req.handle, m.req.vc, epCluster m.sep / 8, m.part, ls, [], m.mcmask, 0, [], [(m.tagid / 2048, m.sep, m.tagid)], [], false⟩] }))) ∧
  (∀ (s : State) (r : McastRec) (l : Nat × Nat) (rest : List (Nat × Nat)),
    let u := s.ev.at_
    (s.slice u).records.find? (fun r => r.id == s.ev.x && s.recReady u r) = some r → r.lines = l :: rest →
    let put := fun (t : State) (n : McastRec) => t.modSlice u (fun k => { k with
      records := k.records.map (fun q => if q = r then n else q) })
    (s.recAbsent r l.2 = true → Answers .mcastSend s
      ((put s { r with asking := true }).askLine (s.payer r.ctxid).1 mcastAgent r.handle (s.recHome r l.2) (unitEndpoint u))) ∧
    (s.recAbsent r l.2 = false →
      let p := s.lineMsg u r r.id (0x60 + r.joins) l.1 l.2 r.mask true
      Answers .mcastSend s (put ((p.2.inject p.1).unitSent u (popCount r.mask 8)) { r with
        lines := rest, sent := r.sent ++ [l], owed := r.owed ++ (onesOf r.mask 8).map (fun c => (r.id, l.1, c)),
        bad := if p.1.poison = 0 then r.bad else r.bad ++ r.asks.map (fun a => a.1) }))) ∧
  (∀ s : State, passes s →
    let t := counted s
    let m := s.ev.msg
    let cl := epCluster s.ev.at_
    let needed := m.op - 0x60
    let notices := ((t.cluster cl).joins.filter (fun n => n.of_ == m.tagid / 2048 && n.src == m.sep)).length
    (needed ≤ notices → Answers .mdata s (t.deliverLine cl m)) ∧
    (notices < needed → Answers .mdata s (t.modCluster cl (fun k => { k with held := k.held ++ [m] }))) ∧
    ((t.cluster cl).held = [] →
      let w := (m.payload.getD 0 0).toNat
      Answers .mjoin s ((t.modCluster cl (fun k =>
        (k.shareGot (w / 2 ^ 59) (w / 2 ^ 54 % 2 ^ 5)).note ⟨w / 2 ^ 59, w / 2 ^ 54 % 2 ^ 5, w / 2 ^ 43 % 2 ^ 11, m.sep⟩)).modCluster cl
          (fun k => { k with held := [] })))) ∧
  (∀ (s : State) (r : McastRec),
    let u := s.ev.at_
    (s.slice u).records.find? (fun r => r.id == s.ev.x && r.lines.isEmpty && r.owed.isEmpty) = some r →
    let t := s.modSlice u (fun k => { k with records := k.records.erase r })
    let ep := unitEndpoint u
    ∀ a, r.asks = [a] → (t.slice u).records.any (fun q => q.asks.contains a) = false → Answers .mcastComplete s
      (t.inject { mkMsg t.devId a.2.1 t.devId ep 1 0x42 a.2.2 r.part (parity (t.epGen ep)) [] with
        poison := if r.bad.contains a.1 then 1 else 0 }))

/-- R57, R58: a transit that has copied every line ends: the page entries name the destination, the pages have moved, the tier of
the object is the one asked for and nothing is in transit, the charge of the source is released, and its jobs are done. -/
def Sys2Proof.Spec.MigrationStep : Prop :=
  ∀ (s : State) (r : MapRec) (x : Transit), s.maps.look s.ev.at_ = some r → r.transit = some x → x.total ≤ x.copied →
    x.qjobs = [] →
    let key := s.ev.at_
    let mv := s.moves key r x
    let t := ((s.rewriteMap key r x).movePages mv).modProc r.ctxid (fun p => { p with left := p.left ++ mv.map (fun m => m.1) })
    let u := t.placeAll r.ctxid (keyParts key).2.2.2 (fun e => { e with
      tier := if x.toSlow then 1 else 0, mig := 0, qv := false, qt := false })
    let v := u.releaseTier { r with transit := none } (if x.toSlow then 0 else 1) false
    Answers .migrationEnd s (x.jobs.foldl (fun s j => s.endJob j.1 j.2.1 j.2.2 0 0)
      { v.2 with maps := v.2.maps.put key v.1 })

/-- The copy unit, multicast and migration: `CopyJobStep`, `CopyAnswers`, `MulticastSteps`, `MigrationStep`. -/
def Obligations.CopyEvents : Prop := CopyJobStep ∧ CopyAnswers ∧ MulticastSteps ∧ MigrationStep

/-! ## Solder and links -/

/-- R21: a flit in sequence hands its messages to its switch; one whose CRC fails is sent again, and after 16 failed replays the
interface retrains with its traffic held. Retraining is reported and lasts 10 µs; when it ends the held messages go on; the
third failure makes the interface absent. -/
def Sys2Proof.Spec.SolderSteps : Prop :=
  (∀ s : State,
    let k := s.solder s.ev.at_
    let f := s.ev.flit
    (f.crcOk = true → (s.solder (s.ev.at_ % 8)).retrain = false → f.lseq = k.seq → Answers .solderFlit s
      (f.msgs.foldl (fun s m => s.post .switchReceive { Ev.zero with at_ := s.ev.y, x := s.ev.x, msg := m.msg })
        (s.modSolder s.ev.at_ (fun k => { k with seq := (k.seq + 1) % 256, fails := 0 })))) ∧
    (f.crcOk = false → k.fails < 16 → Answers .solderFlit s
      ((s.modSolder s.ev.at_ (fun k => { k with fails := k.fails + 1 })).post .solderFlit
        { s.ev with flit := { f with crcOk := true } })) ∧
    (f.crcOk = false → 16 ≤ k.fails → Answers .solderFlit s
      (((s.modSolder s.ev.at_ (fun k => { k with fails := 0 })).modSolder (s.ev.at_ % 8) (fun k => { k with
        held := k.held ++ f.msgs.map (fun (m : LinkMsg) => (s.ev.y, s.ev.x, m.msg)) })).post .d2dRetrain
          { Ev.zero with at_ := s.ev.at_ % 8 }))) ∧
  (∀ s : State, Answers .d2dRetrain s ((s.raiseMonitor Cause.d2dRetrain).modSolder s.ev.at_ (fun k => { k with
    retrain := true, retrains := 0, until_ := s.clk + 18800 }))) ∧
  (∀ s : State, (s.solder s.ev.at_).retrain = true →
    let k := s.solder s.ev.at_
    (s.ev.x = 0 → Answers .d2dRetrainEnd s (k.held.foldl
      (fun s h => s.post .switchReceive { Ev.zero with at_ := h.1, x := h.2.1, msg := h.2.2 })
      (s.modSolder s.ev.at_ (fun k => { k with retrain := false, retrains := 0, held := [] })))) ∧
    (s.ev.x ≠ 0 → k.retrains < 2 → Answers .d2dRetrainEnd s
      (s.modSolder s.ev.at_ (fun k => { k with retrains := k.retrains + 1, until_ := s.clk + 18800 }))) ∧
    (s.ev.x ≠ 0 → 2 ≤ k.retrains → 4 ≤ s.ev.at_ → Answers .d2dRetrainEnd s
      ((s.modSolder s.ev.at_ (fun k => { k with retrain := false, retrains := k.retrains + 1, held := [] })).solderOut s.ev.at_)))

/-- R23, R24, R29, R30: a flit that fails its checks is answered with NAK; a data flit in sequence hands on its messages, is
acknowledged, and lets what waits go; a control flit in sequence is the event of its type. An absent link carries none. -/
def Sys2Proof.Spec.LinkFlits : Prop :=
  ∀ s : State,
    let l := s.ev.at_
    let f := s.ev.flit
    let t := s.modLink l (fun k => { k.acked f with stop := f.stop })
    let u := t.modLink l (fun k => { k with recvSeq := (k.recvSeq + 1) % 1024, heard := true })
    (s.boot.links.testBit l = false → Answers .linkFlitReceive s s) ∧
    (s.boot.links.testBit l = true →
    (f.ok = false → Answers .linkFlitReceive s (s.modLink l (fun k => k.send 1 [] true))) ∧
    (f.ok = true → f.nak = false → f.lseq = (t.link l).recvSeq → f.kind = 0 → Answers .linkFlitReceive s
      (((f.msgs.foldl (fun s m => s.fromLink l m) u).modLink l (fun k => k.send 1 [] false)).pump l)) ∧
    (f.ok = true → f.nak = false → f.lseq = (t.link l).recvSeq → f.kind = 2 → Answers .linkFlitReceive s
      (((u.post (controlEvent (f.words.getD 0 0).toNat) { Ev.zero with at_ := l, words := f.words }).modLink l
        (fun k => k.send 1 [] false)).pump l)) ∧
    (f.ok = true → f.nak = false → f.lseq ≠ (t.link l).recvSeq → Answers .linkFlitReceive s (t.pump l)) ∧
    (f.ok = true → f.nak = true → f.lseq ≠ ((t.replay l).link l).recvSeq → Answers .linkFlitReceive s ((t.replay l).pump l)))

/-- R18, R24, R26, R27, R29, R30: a link retrains, up to three attempts, and then is down; the monitor may ask for it; its partner's
request holds it; when it has trained, traffic goes on; an absent link does none of it. ECHO is answered, its answer gives the round trip, EACK records are applied or passed on, IDSET gives
the device its id, and the monitor that forms a domain sends it. A link that is down is absent, and its requests go out again or fail. -/
def Sys2Proof.Spec.LinkTraining : Prop :=
  (∀ s : State, Answers .linkCrc s (s.raiseMonitor Cause.linkCrc)) ∧
  (∀ s : State, s.boot.links.testBit s.ev.at_ = false →
    Answers .linkRetrain s s ∧ Answers .trainReq s s ∧ Answers .trainDone s s) ∧
  (∀ s : State, (s.link s.ev.at_).down = false → s.boot.links.testBit s.ev.at_ = true →
    let l := s.ev.at_
    let k := s.link l
    (s.ev.x = 0 → Answers .linkRetrain s (((s.raiseMonitor Cause.linkRetrain).modLink l (fun k => { k with
      retrains := k.retrains + 1, failed := 0 })).trainLink l 1)) ∧
    (s.ev.x = 2 → Answers .linkRetrain s (s.trainLink l 2)) ∧
    (s.ev.x = 1 → k.failed < 2 → Answers .linkRetrain s
      ((s.modLink l (fun k => { k with failed := k.failed + 1 })).trainLink l 1)) ∧
    (s.ev.x = 1 → 2 ≤ k.failed → Answers .linkRetrain s
      ((s.modLink l (fun k => { k with failed := k.failed + 1 })).post .linkDown { Ev.zero with at_ := l }))) ∧
  (∀ s : State,
    let l := s.ev.at_
    let w := s.ev.words
    (s.boot.links.testBit l = true →
      Answers .trainReq s (s.modLink l (fun k => { k with
        retrain := true, until_ := 0, since := if k.retrain then k.since else s.clk })) ∧
      Answers .trainDone s ((s.modLink l (fun k => { k with rtt := (w.getD 1 0).toNat })).trained l)) ∧
    Answers .echo s (s.modLink l (fun k => k.send 2 [5, w.getD 1 0] false)) ∧
    ((s.link l).echo = w.getD 1 0 → Answers .echoReply s
      (s.modLink l (fun k => { k with rtt := (s.clk - (s.link l).echo.toNat) * 25 / 47 }))) ∧
    (l < 16 → Answers .idset s { s with
      devId := (w.getD 1 0).toNat % 64, mon := { s.mon with jobDomain := leBytes 8 (w.getD 2 0).toNat } }) ∧
    (16 ≤ l → Answers .idset s (s.modLink (l - 16) (fun k => k.send 2 (6 :: w.drop 1) false))) ∧
    (∀ r, w = [3, r] → r ≠ 0 →
      (r.toNat / 2 ^ 52 % 64 = s.devId → Answers .eack s (s.applyCack (r.toNat / 2 ^ 58) (r.toNat % 2 ^ 32))) ∧
      (∀ k, r.toNat / 2 ^ 52 % 64 ≠ s.devId → s.linkTo (r.toNat / 2 ^ 52 % 64) = some k → Answers .eack s (s.modLink k (fun k =>
        k.send 2 [3, word (r.toNat / 2 ^ 58 * 2 ^ 58 + r.toNat / 2 ^ 52 % 64 * 2 ^ 52 + r.toNat % 2 ^ 32)] false))))) ∧
  (∀ s : State,
    let l := s.ev.at_
    (s.link l).waiting = [] → s.snapsOver l = [] →
    let mine := s.remotes.filter (fun r => r.dev != s.devId && r.link == some l)
    let t := s.logFault Cause.linkDown 2 0xFFFF 0 (word l)
    let u := { t with boot := { t.boot with links := clearBits t.boot.links l 1 } }
    let v := u.modLink l (fun k => { k with down := true, retrain := false, waiting := [], unacked := [], owed := [] })
    (mine = [] → Answers .linkDown s v) ∧
    (∀ r, mine = [r] →
      ((v.linkTo r.dev).isSome = true → Answers .linkDown s (v.resend r)) ∧
      (v.linkTo r.dev = none → Answers .linkDown s (v.failRemote r Cause.linkDown (word l)))))

/-- Solder and links: `SolderSteps`, `LinkFlits`, `LinkTraining`. -/
def Obligations.LinkEvents : Prop := SolderSteps ∧ LinkFlits ∧ LinkTraining

/-! ## Control messages -/

/-- R38, R111, R141, R142, R143, R144: an EVENT of kind 1 signals the line it names; stores to the event window signal a line,
arrive at a barrier and unlock a mutex, whose refusal is the precise trap of the context; a write of BARCFG sets NEED up to
88 and releases nothing; an arrival at a completion barrier counts, and a stale one is noted with the task. -/
def Sys2Proof.Spec.EventUnitMessages : Prop :=
  (∀ s : State, passes s →
    let w := (s.ev.msg.payload.getD 0 0).toNat
    w / 2 ^ 56 = 1 → w / 2 ^ 32 % 2 ^ 16 = 0 → Answers .event s ((counted s).signal
      (epCluster s.ev.at_ * 8 + s.ev.msg.tagid / 16 % 8) (w / 2 ^ 48 % 2 ^ 8 % 32) (w % 2 ^ 32))) ∧
  (∀ s : State,
    let v := s.ev.words.getD 0 0
    let c := s.ev.at_
    Answers .eventLineStore s (s.signal c (s.ev.x % 32) (v.toNat % 2 ^ 32)) ∧
    (∀ t, s.barArrive c s.ev.x (s.ev.y % 16) v.toNat = .ok t → Answers .eventBarStore s t) ∧
    (∀ b, s.barArrive c s.ev.x (s.ev.y % 16) v.toNat = .error b → Answers .eventBarStore s
      (s.takeTrap c s.ev.x ⟨b.cause, b.eval, 0, b.preason, (s.ctx c s.ev.x).pc⟩)) ∧
    (∀ t, s.unlock c s.ev.x (s.ev.y % 16) = .ok t → Answers .mutexStore s t) ∧
    (∀ b, s.unlock c s.ev.x (s.ev.y % 16) = .error b → Answers .mutexStore s
      (s.takeTrap c s.ev.x ⟨b.cause, b.eval, 0, b.preason, (s.ctx c s.ev.x).pc⟩)) ∧
    (v.toNat ≤ 88 → Answers .barcfgWrite s
      (s.setEbar c (s.ev.y % 16) { s.ebar c (s.ev.y % 16) with need := v.toNat })) ∧
    (88 < v.toNat → Answers .barcfgWrite s s)) ∧
  (∀ (s : State) (h : Home), s.objHome s.ev.at_ s.ev.x = some h →
    let b := s.obar h
    (s.ev.y = b.gen → Answers .barrierArrive s (if max b.need 1 ≤ b.have_ + 1 then
      s.putObar h { b with have_ := 0, gen := (b.gen + 1) % 2 ^ 32 } else s.putObar h { b with have_ := b.have_ + 1 })) ∧
    (∀ t, s.ev.y ≠ b.gen → s.tasks.look s.ev.z = some t →
      Answers .barrierArrive s { s with tasks := s.tasks.put s.ev.z { t with stale := true } }))

/-- R38, R86, R110, R119, R399: SCHED asks the cores of a task for a pre-emption, whose contexts have not stopped for it yet, or takes
the request back; a VCSTEP that asks is answered, an answer is collected. The monitors' messages install a key generation, ask
for a rollback, or say that a generation is sealed or has failed; another kind waits for the monitor. A generation installed is
derived from the key of its context. The kinds of MON and the eight bytes of the generation number are the model's
choice (log entries 17 and 101). -/
def Sys2Proof.Spec.ControlMessages : Prop :=
  (∀ s : State, passes s →
    let t := counted s
    let w := (s.ev.msg.payload.getD 0 0).toNat
    let cs := t.coresOn (epCluster s.ev.at_) (w % 2 ^ 32)
    (w / 2 ^ 56 = 1 → Answers .sched s (cs.foldl (fun s c => s.modCore c (fun k => if k.preempt = true then k
      else { k with preempt := true, ctxs := k.ctxs.map (fun x => { x with preempt := false }) })) t)) ∧
    (w / 2 ^ 56 = 2 → Answers .sched s (cs.foldl (fun s c => s.modCore c (fun k => { k with preempt := false })) t)) ∧
    (w / 2 ^ 56 = 1 → Answers .mon s (t.post .keyGenerationInstall { Ev.zero with at_ := w % 2 ^ 32 % 65536 })) ∧
    (∀ n j, t.jobByHandle s.ev.msg = some (n, j) →
      (w / 2 ^ 56 = 2 → Answers .mon s
        (t.post .jobRollbackRequest { Ev.zero with at_ := n, x := w % 2 ^ 32, y := s.ev.msg.sdev })) ∧
      (w / 2 ^ 56 = 3 → Answers .mon s (t.post .snapshotSeal { Ev.zero with at_ := n, x := w % 2 ^ 32 })) ∧
      (w / 2 ^ 56 = 4 → Answers .mon s
        (t.post .snapshotFail { Ev.zero with at_ := n, x := w % 2 ^ 32, y := w / 2 ^ 32 % 2 ^ 8, z := 1 }))) ∧
    (11 ≤ w / 2 ^ 56 → Answers .mon s { t with mon := { t.mon with inbox := t.mon.inbox ++ [s.ev.msg] } })) ∧
  (∀ s : State,
    let m := s.ev.msg
    let w := (m.payload.getD 0 0).toNat
    let ctxid := w % 2 ^ 16
    let v := w / 2 ^ 50 % 2 ^ 6
    (w < 2 ^ 63 → Answers .vcstep s (s.inject { m with dep := m.sep, sep := m.dep, payload := [word (w + 2 ^ 63)] })) ∧
    (∀ c op ph, 2 ^ 63 ≤ w → s.vc ctxid v = some c → c.op = some (op, ph) → ph.code = w / 2 ^ 56 - 0x80 →
      c.replies.contains m.tagid = false → c.replies.length + 1 < placedN c.blocks c.banks →
      Answers .vcstep s (s.modVc ctxid v (fun k => { k with replies := c.replies ++ [m.tagid] })))) ∧
  (∀ s : State,
    let c := s.ev.at_
    let old := s.keygenOf c
    let g := if s.ev.x = 0 then old + 1 else max old s.ev.x
    let t := if g = old ∨ (s.mon.keys.look c).isSome = false then s else { s with mon := { s.mon with
      genKeys := s.mon.genKeys.put (2 * c + g % 2) (shake256 (s.mon.keys.get c [] ++ leBytes 8 g)) } }
    Answers .keyGenerationInstall s { t with mon := { t.mon with keygen := t.mon.keygen.put c g } })

/-- R104, R136, R193, R421: the consumption of poison that is met by a rollback halts the context and tells every member of its gang;
a member that has a record for the superstep stops, once no context of it is at supervisor level or has a cause pending (R346) and
it has counted the release of its barrier. When every member has
stopped and what they have under way is complete, the gang goes back: the barrier objects, the pages, then local memory,
tiles, registers and mode of every member are those of the record, and the contexts stand at RGNPC with RGNSKIP 0. -/
def Sys2Proof.Spec.SuperstepRollbackSteps : Prop :=
  (∀ s : State,
    let c := s.ev.at_
    let t := s.modCtx c s.ev.x (fun x => { x with wait := some .halted })
    (s.ev.y = 0 → Answers .superstepRollback s ((t.gang c).foldl (fun s m => s.inject (mkMsg s.devId (niEndpoint (m / 8)) s.devId
      (niEndpoint (c / 8)) 3 0x78 (m % 8) (s.partOfBlock (c / 64)) (parity (s.core c).snapGen) [word (s.core c).sstepn])) t)) ∧
    (s.ev.y = 1 → (s.core c).rollAsk = true → (s.core c).inHandler = false → (s.core c).sstepn = s.rollStep c →
      Answers .superstepRollback s (s.stopMember c)) ∧
    (∀ g rest r, s.ev.y = 2 → s.rollSettled (s.gang c) = true → s.gang c = g :: rest → (s.core g).stepRec = some r →
      Answers .superstepRollback s ((s.gang c).foldl (fun s m => s.restoreMember m)
        ((r.barriers.foldl (fun s b => s.putObar (Home.ofCode b.1) { s.obar (Home.ofCode b.1) with gen := b.2.1, have_ := b.2.2 })
          s).restorePages r.objects)))) ∧
  (∀ (s : State) (r : StepRecord), passes s →
    let t := counted s
    let c := epCluster s.ev.at_ * 8 + s.ev.msg.tagid % 8
    (t.core c).rollHalt = false → (t.core c).stepRec = some r →
    let step := (s.ev.msg.payload.getD 0 0).toNat % 2 ^ 32
    let ask := t.modCore c (fun k => { k with rollAsk := true })
    ((t.core c).sstepn = step → (t.core c).inHandler = false → Answers .sroll s (t.stopMember c)) ∧
    ((t.core c).sstepn = step → (t.core c).inHandler = true → Answers .sroll s ask) ∧
    ((t.core c).sstepn ≠ step → ((t.core c).sstepn + 1) % 2 ^ 32 = step → Answers .sroll s ask)) ∧
  (∀ (s : State) (c : Nat) (r : StepRecord), (s.core c).stepRec = some r →
    let t := s.restoreMember c
    (∀ n, n < 0x40000 → t.lmem.get (lkey c n) = r.lmem.get n) ∧ (∀ n, n < 0x80000 → t.tiles.get (rowKey c 0 0 + n) = 0) ∧
    (t.core c).lqst = r.lqst ∧ (t.core c).lweight = r.lweight ∧
    (∀ i, i < 11 → (t.ctx c i).pc = ((r.ctxs.getD i Ctx.zero)).rgnpc ∧ (t.ctx c i).rgnskip = 0 ∧ (t.ctx c i).sup = false))

/-! ## Snapshots -/

/-- R185, R186: a marker makes the endpoint that it reaches cut for the generation in progress that it names; one that names no
generation in progress changes nothing. R189: a node of the tree gathers the replies of its children, the initiator those of the
devices: equal totals of all end the counting and the generation is to be sealed, unequal ones start the polls. A poll is passed
on in the tree; the initiator polls every device of the job every 8 µs. -/
def Sys2Proof.Spec.SnapshotMessages : Prop :=
  (∀ s : State, passes s →
    let t := counted s
    let ep := s.ev.at_
    let n := t.markerJob s.ev.msg
    let gen := (s.ev.msg.payload.getD 0 0).toNat
    ((t.jobs.look n).bind (fun j => j.current) = none → Answers .marker s t) ∧
    (∀ g, (t.jobs.look n).bind (fun j => j.current) = some g →
      (g.gen ≠ gen → Answers .marker s t) ∧
      (g.gen = gen → isSlice ep = true → Answers .marker s ((t.beginCut n gen).cutSlice n gen (epSlice ep))) ∧
      (∀ cl, g.gen = gen → isSlice ep = false → niOf ep = some cl → Answers .marker s ((t.beginCut n gen).cutCluster n gen cl)))) ∧
  (∀ s : State, passes s →
    let t := counted s
    let ep := s.ev.at_
    let m := s.ev.msg
    let w := (m.payload.getD 0 0).toNat
    (t.jobByHandle m = none → Answers .creply s t ∧ Answers .cpoll s t) ∧
    (∀ n j g, t.jobByHandle m = some (n, j) → j.current = some g →
      let child := m.sdev == t.devId && (t.treeChildren j ep).contains m.sep
      (child = true → Answers .creply s (t.noteChild n g.gen ep m.sep (w / 2 ^ 32) (w % 2 ^ 32))) ∧
      (child = false → t.initiates j = true → Answers .creply s (t.noteDevice n g.gen m.sdev (w / 2 ^ 32) (w % 2 ^ 32))) ∧
      (child = false → t.initiates j = false → Answers .creply s t) ∧
      (g.gen = w % 2 ^ 32 → m.sdev = t.devId → Answers .cpoll s (t.pollAtEp n ep)) ∧
      (g.gen = w % 2 ^ 32 → m.sdev ≠ t.devId → Answers .cpoll s (t.pollAtEp n (niEndpoint (t.jobCluster j)))) ∧
      (g.gen ≠ w % 2 ^ 32 → Answers .cpoll s t))) ∧
  (∀ (t : State) (n gen dev a b : Nat) (j : JobState) (g : Snap), (t.modSnap n gen (fun g => { g with
      replies := g.replies.put dev (a, b) })).jobs.look n = some j → j.current = some g → g.gen = gen →
    let u := t.modSnap n gen (fun g => { g with replies := g.replies.put dev (a, b) })
    let sent : Nat := (g.replies.map (fun (r : Nat × Nat × Nat) => r.2.1)).sum % 2 ^ 32
    let recv : Nat := (g.replies.map (fun (r : Nat × Nat × Nat) => r.2.2)).sum % 2 ^ 32
    let complete := (onesOf j.devmask 64).all (fun d => (g.replies.look d).isSome)
    (complete = false → t.noteDevice n gen dev a b = u) ∧
    (complete = true → sent = recv → t.noteDevice n gen dev a b =
      (((((u.putPhase j 3 none).modJob n (fun j => { j with pollAt := 0 })).modSnap n gen (fun g => { g with sent := sent })).tellJob j
        (word (7 * 2 ^ 56 + gen % 2 ^ 56))).post .snapshotSeal { Ev.zero with at_ := n, x := gen })) ∧
    (complete = true → sent ≠ recv → j.pollAt = 0 → t.noteDevice n gen dev a b =
      (u.putPhase j 2 none).modJob n (fun j => { j with pollAt := u.clk + 15040 }))) ∧
  (∀ (s : State) (j : JobState) (g : Snap), s.jobs.look s.ev.at_ = some j → j.current = some g →
    let node := niEndpoint (s.jobCluster j)
    let ask := fun (s : State) (d dep : Nat) => s.inject (mkMsg d dep s.devId (j.home % 4096) 3 0x74 j.handle (j.partList.getD 0 0)
      (parity g.gen) [word g.gen])
    Answers .countPoll s ((onesOf j.devmask 64).foldl (fun s d => if d ≠ s.devId then ask s d 0x800
      else if node = j.home % 4096 then s.pollAtEp s.ev.at_ node else ask s d node)
      (s.modJob s.ev.at_ (fun j => { j with pollAt := s.clk + 15040 }))))

/-- R188, R189, R190, R191, R192: sealing and failing are told to the other devices; equal counts make another device send its part of
the manifest; the rollback is performed, unless a save is in progress or a handler has not returned, and the device that asked for it hears of it. The copy of a
page about to be written goes to the store, and so does that of a granule or a tile; a sealed generation has the pages copied
that nothing has written. The first write to a page that a snapshot lists copies it first. -/
def Sys2Proof.Spec.SnapshotSteps : Prop :=
  (∀ s : State,
    let n := s.ev.at_
    let x := s.ev.x
    (x ≠ 12 → x ≠ 13 → Answers .coreCut s (s.cutCtx n x)) ∧
    (∀ k g, s.snapOfBlock (n / 8) = some (k, g) →
      (x = 12 → Answers .coreCut s (s.replyUnit k g (sliceEndpoint n))) ∧ (x = 13 → Answers .coreCut s (s.replyUnit k g (niEndpoint n)))) ∧
    (x = 0 → Answers .cowCopy s ((s.cowPage n).storePage n)) ∧
    (x ≠ 0 → Answers .cowCopy s (s.storeUnit s.ev.y s.ev.z (x - 1) n)) ∧
    (∀ j, s.jobs.look n = some j → s.savesNow j = true ∨ s.handlersNow j = true →
      Answers .jobRollbackRequest s (s.modJob n (fun j => { j with goal := some (x, s.ev.y) }))) ∧
    (∀ j, s.jobs.look n = some j → s.savesNow j = false → s.handlersNow j = false →
      let t := (s.modJob n (fun j => { j with goal := none })).rollbackJob n x
      (s.ev.y = t.devId → Answers .jobRollbackRequest s (t.noteRolled n s.ev.y)) ∧
      (s.ev.y ≠ t.devId → Answers .jobRollbackRequest s (t.inject (mkMsg s.ev.y 0x800 t.devId (niEndpoint (t.jobCluster j)) 3 0x7A
        j.handle (j.partList.getD 0 0) false [word (10 * 2 ^ 56 + x % 2 ^ 56)])))) ∧
    (s.ev.y = 1 → Answers .snapshotSeal s (s.sendPart n x)) ∧
    (∀ j, s.ev.y ≠ 1 → (s.sealSnap n x).jobs.look n = some j →
      ((s.sealSnap n x).initiates j = true → j.snaps.any (fun g => g.gen == x && g.sealed) = true →
        Answers .snapshotSeal s ((s.sealSnap n x).tellJob j (word (3 * 2 ^ 56 + x % 2 ^ 56)))) ∧
      ((s.sealSnap n x).initiates j = false → Answers .snapshotSeal s (s.sealSnap n x))) ∧
    (s.jobs.look n = none → Answers .snapshotSeal s s ∧ Answers .snapshotFail s s) ∧
    (∀ j, (s.failGen n x s.ev.y).jobs.look n = some j → s.ev.z = 0 → Answers .snapshotFail s
      ((s.failGen n x s.ev.y).tellJob j (word (4 * 2 ^ 56 + s.ev.y % 256 * 2 ^ 32 + x % 2 ^ 32)))) ∧
    (s.ev.z ≠ 0 → Answers .snapshotFail s (s.failGen n x s.ev.y)) ∧
    (s.ev.y ≠ 0 → Answers .backgroundCopy s (s.storeSaved n x s.ev.y)) ∧
    (∀ (j : JobState) (m : Snap) (p : PageCut), s.ev.y = 0 → s.jobs.look n = some j →
      j.snaps.find? (fun m => m.gen == x) = some m → m.pages = [p] →
      (p.stored = true → Answers .backgroundCopy s s) ∧
      (p.stored = false → Answers .backgroundCopy s
        ((s.cowPageIn (fun o => o.gen == x) p.key).post .cowCopy { Ev.zero with at_ := p.key })))) ∧
  (∀ (s : State) (key : Nat), s.jobs ≠ [] → ∀ n j, s.jobs.look n = some j → ∀ m ∈ j.snaps, m.failed = 0 → ∀ p ∈ m.pages,
    p.key = key / 65536 * 65536 → p.bytes = none →
    ∃ k, (s.cowPage key).jobs.look n = some k ∧ ∃ m' ∈ k.snaps, m'.gen = m.gen ∧ ∃ p' ∈ m'.pages, p'.key = p.key ∧
      p'.bytes = some (Mem.empty.copyRange 0 s.mem p.key 65536) ∧ p'.offset = some (p.offset.getD j.storeEnd))

/-- Control messages: `EventUnitMessages`, `ControlMessages`, `SuperstepRollbackSteps`. -/
def Obligations.ControlMessageEvents : Prop := EventUnitMessages ∧ ControlMessages ∧ SuperstepRollbackSteps

/-- Snapshots: `SnapshotMessages`, `SnapshotSteps`. -/
def Obligations.SnapshotEvents : Prop := SnapshotMessages ∧ SnapshotSteps

/-! ## Start-up, service, host link, debug port -/

/-- R17, R78, R79: each step of the start-up makes the next one due, the last makes the device ready; power that is good again
resets a device that has started; a step whose units fail, or that takes 2 s, resets the device with its reason; the loss of
standby power clears the count of failed starts. The lifecycle bits that step 1 finds blown come with the event (log entry 102). -/
def Sys2Proof.Spec.StartSteps : Prop :=
  (∀ s : State, s.boot.phase = .off → s.ev.at_ = s.boot.step →
    (s.boot.step = 0 → s.boot.fails ≠ 3 → Answers .deviceStart s (
      let t := { s with boot := { s.boot.fused with lifecycle := s.boot.lifecycle ||| s.ev.y % 4 } }
      let u := t.extendReg 0 1 (shake256 Config.bootRom ++ leBytes 1 t.boot.lifecycle ++ t.presence)
      let v := { u with boot := { u.boot with fails := u.boot.fails + 1, step := 1 } }
      v.post .deviceStart { Ev.zero with at_ := 1 })) ∧
    (∀ r, s.boot.step = 1 → s.tableBad = some r →
      Answers .deviceStart s (s.post .startStepTimeout { Ev.zero with x := r })) ∧
    (s.boot.step = 2 → s.ev.words = [] → Answers .deviceStart s
      ({ s with boot := { s.boot with step := 3 } }.post .deviceStart { Ev.zero with at_ := 3 })) ∧
    (s.boot.step = 2 → s.ev.words ≠ [] → Answers .deviceStart s (s.post .startStepTimeout { Ev.zero with x := 5 })) ∧
    (s.boot.step = 5 → s.boot.links = 0 → Answers .deviceStart s
      ({ s with boot := { s.boot with step := 6 } }.post .deviceStart { Ev.zero with at_ := 6 })) ∧
    (s.boot.step = 6 → ∃ t, Answers .deviceStart s t ∧ t.boot.phase = .running ∧ t.boot.step = 7 ∧ t.boot.fails = 0)) ∧
  (∀ s : State, s.boot.phase ≠ .off → Answers .startStepTimeout s s ∧
    (s.ev.at_ = 0 → Answers .deviceStart s s.deviceReset) ∧ (s.ev.at_ ≠ 0 → Answers .deviceStart s s)) ∧
  (∀ s : State, s.boot.phase = .off → ∃ t, Answers .startStepTimeout s t ∧ t.boot.reason = s.ev.x ∧ t.boot.fails = s.boot.fails ∧
    t.boot.step = State.reset.boot.step ∧ t.boot.phase = .off ∧ t.mem = State.reset.mem ∧ t.cores = State.reset.cores ∧
    t.host = s.host ∧ t.boot.flash = s.boot.flash ∧ t.boot.fuseRows = s.boot.fuseRows) ∧
  (∀ s : State, Answers .standbyPowerLoss s { s with boot := { s.boot with fails := 0 } })

/-- R13, R16, R100, R101: a clock that loses lock, a die that is warm and the power limit are reported; a clock of a single block
takes the block out. A die at 110 °C is noted and its partitions are reset; below 90 °C it takes work again. An error in the
metadata of a partition is reported and resets it; one in a header at a shared port is reported, and its message is lost;
corrected errors are counted. -/
def Sys2Proof.Spec.ServiceSteps : Prop :=
  ∀ s : State,
    let at_ := s.ev.at_
    (at_ = 0 → Answers .clockFault s (s.raiseMonitor Cause.clockFault)) ∧
    (at_ = 1 → Answers .clockFault s ((s.raiseMonitor Cause.clockFault).blockOut s.ev.x)) ∧
    Answers .thermalWarn s (s.raiseMonitor Cause.thermalWarn) ∧
    (let t := s.raiseMonitor Cause.thermalTrip
    at_ < 4 → Answers .thermalTrip s ((({ t with hot := t.hot ||| 2 ^ at_ }).partsOfDie at_).foldl (fun s p => s.resetPart p)
      { t with hot := t.hot ||| 2 ^ at_ })) ∧
    Answers .thermalRecover s { s with hot := s.hot - s.hot / 2 ^ at_ % 2 * 2 ^ at_ } ∧
    Answers .powerCap s ({ s with capped := true }.raiseMonitor Cause.powerCap) ∧
    (at_ = 0 → Answers .partitionMetadataError s ((s.raiseMonitor Cause.eccUncorrMeta).resetPart s.ev.x)) ∧
    (at_ = 1 → Answers .partitionMetadataError s ((s.raiseMonitor Cause.eccUncorrMeta).loseHead s.ev.x)) ∧
    (at_ = 3 → s.mon.counters.get (0x2000 + s.ev.x) 0 ≠ 0 → s.clk + 1 - s.mon.counters.get (0x2000 + s.ev.x) 0 < 1880000 →
      Answers .partitionMetadataError s { s with mon := { s.mon with
        counters := s.mon.counters.put (0x30 + s.ev.x) (s.mon.counters.get (0x30 + s.ev.x) 0 + 1) } })

/-- R17, R32, R33, R52: before step 6 of the start-up no request of the host arrives. A TDISP request moves the state of a virtual function; with CXL the host reads and writes the lines of its
window and reads its own lines through the device; a page that host memory aborts is refused from then on, one that
completes is not. -/
def Sys2Proof.Spec.HostLinkSteps : Prop :=
  ∀ s : State,
    let at_ := s.ev.at_
    let line := fun (m : Mem) (a : Nat) => (List.range 16).map (fun i => word (m.getLE (a + 8 * i) 8))
    (s.boot.step < 6 → Answers .tdiStateChange s s ∧ Answers .cxlMemRequest s s ∧ Answers .cxlCacheSnoop s s) ∧
    (6 ≤ s.boot.step → 0 < at_ → at_ ≤ 512 → Answers .tdiStateChange s { s with hostSide := { s.hostSide with
      tdi := s.hostSide.tdi.put at_ (tdiNext (s.hostSide.tdi.get at_ 0) s.ev.x) } }) ∧
    (6 ≤ s.boot.step → s.boot.cxl = true → at_ < s.windowBytes →
      (s.ev.x = 1 → Answers .cxlMemRequest s { s with mem := s.mem.putRange (windowKey (at_ / 128 * 128)) (wordsLine s.ev.words) }) ∧
      (s.ev.x = 0 → Answers .cxlMemRequest s { s with hostSide := { s.hostSide with
        cxlRead := line s.mem (windowKey (at_ / 128 * 128)) } })) ∧
    (6 ≤ s.boot.step → s.boot.cxl = true → Answers .cxlCacheSnoop s { s with hostSide := { s.hostSide with
      cxlRead := line s.host (at_ / 128 * 128) } }) ∧
    (s.windowBytes ≤ at_ → Answers .cxlMemRequest s s) ∧
    (s.boot.cxl = false → Answers .cxlMemRequest s s ∧ Answers .cxlCacheSnoop s s) ∧
    (∃ t, Answers .hostMemoryCompletion s t ∧ (∀ p, p ≠ at_ → (p ∈ t.hostSide.denied ↔ p ∈ s.hostSide.denied)) ∧
      (at_ ∈ t.hostSide.denied ↔ s.ev.x = 1) ∧ t.host = s.host ∧ t.mem = s.mem)

/-- R80, R94: a token that verifies against the nonce opens the port at its level; any other is logged; the nonce is used either
way. A command below the level it needs does nothing; a level that allows it halts and resumes cores, arms break-halt, reads
and writes memories and registers, those outside the cores too, and reads counters and the trace. What the trace holds is the model's choice (log entry 24). -/
def Sys2Proof.Spec.DebugSteps : Prop :=
  (∀ s : State,
    let t := { s with mon := { s.mon with nonceFresh := false } }
    (s.mon.nonceFresh = true → t.tokenOk s.ev.token s.mon.debugNonce = true → Answers .debugToken s (t.openPort s.ev.token)) ∧
    (s.mon.nonceFresh = true → t.tokenOk s.ev.token s.mon.debugNonce = false → Answers .debugToken s (t.auditFree 5)) ∧
    (s.mon.nonceFresh = false → Answers .debugToken s (t.auditFree 5))) ∧
  (∀ s : State,
    let c := s.ev.at_
    let v := s.ev.words.getD 0 0
    (s.mon.debugOpen < s.debugNeeds s.ev.x c → Answers .debugPortCommand s s) ∧
    (s.debugNeeds s.ev.x c ≤ s.mon.debugOpen →
      (s.ev.x = 1 → Answers .debugPortCommand s (s.modCore c (fun k => { k with debugHalt := true }))) ∧
      (s.ev.x = 3 → Answers .debugPortCommand s (s.modCore c (fun k => { k with debugHalt := false, debugStep := false }))) ∧
      (s.ev.x = 4 → Answers .debugPortCommand s { s with mon := { s.mon with debugArm := true } }) ∧
      (s.ev.x = 6 → s.ev.z = 0 → Answers .debugPortCommand s { s with mon := { s.mon with
        debugOut := s.mon.debugOut ++ [word (s.mem.getLE s.ev.y 8)] } }) ∧
      (s.ev.x = 7 → s.ev.z = 1 → Answers .debugPortCommand s { s with lmem := s.lmem.putLE s.ev.y 8 v.toNat }) ∧
      (s.ev.x = 8 → Answers .debugPortCommand s { s with mon := { s.mon with
        debugOut := s.mon.debugOut ++ [word (s.mon.counters.get s.ev.y 0)] } }) ∧
      (s.ev.x = 12 → Answers .debugPortCommand s { s with mon := { s.mon with
        debugOut := s.mon.debugOut ++ [(s.ctx c s.ev.z).pc, (s.ctx c s.ev.z).instret] } }) ∧
      (s.ev.x = 13 → Answers .debugPortCommand s { s with mon := { s.mon with
        debugOut := s.mon.debugOut ++ [s.debugUnit s.ev.z s.ev.y] } }) ∧
      (s.ev.x = 14 → Answers .debugPortCommand s (s.debugSetUnit s.ev.z s.ev.y v))) ∧
    (∀ n, n = s.debugNeeds s.ev.x c →
      (s.ev.x = 0 ∨ s.ev.x = 11 → n = 0) ∧ (s.ev.x = 8 ∨ s.ev.x = 12 → n = 1) ∧
      (1 ≤ s.ev.x → s.ev.x ≤ 5 → (s.mon.roles.look (c / 8) = none → n = 2) ∧ (s.mon.roles.look (c / 8) ≠ none → n = 3)) ∧
      (6 ≤ s.ev.x → s.ev.x ≠ 8 → s.ev.x ≠ 11 → s.ev.x ≠ 12 → n = 3)))

/-- Start-up, service, the host link and the debug port: `StartSteps`, `ServiceSteps`, `HostLinkSteps`, `DebugSteps`. -/
def Obligations.DeviceEvents : Prop := StartSteps ∧ ServiceSteps ∧ HostLinkSteps ∧ DebugSteps

/-! ## Monitor calls -/

/-- R302, R76: a forwarded call that the context waits for returns: its values are in x1 and on, its status in xd, and the
`trap` retires. -/
def Sys2Proof.Spec.returned (s : State) (status : Nat) (values : List Word) : State :=
  s.callReturn s.ev status values

/-- R76, R95, R96, R97, R98, R101: a call of a function that is not the physical function's returns 0xFE; PART_CREATE, PART_RESET
and PART_DESTROY of a partition that stands or can stand return 0 with their effect, 2 for a partition that does not exist,
and the refusal of R95 for one that cannot be made; the monitor itself resets a partition. -/
def Sys2Proof.Spec.PartitionCalls : Prop :=
  (∀ (s : State) (p : Proc) (i : Instr), s.proc? (s.ctxidOf s.ev.at_) = some p → p.vf ≠ 0 →
    i ∈ [.partCreate, .partReset, .partDestroy, .auditRead, .pewterUpdate, .policyLoad, .policyUnload, .policyPin] →
    (i = .partReset → s.ev.z ≠ 1) → Answers i s (returned s 0xFE [])) ∧
  (∀ (s : State) (p : Proc), s.proc? (s.ctxidOf s.ev.at_) = some p → p.vf = 0 →
    let n := (s.ev.words.getD 0 0).toNat
    let blocks := (s.ev.words.getD 1 0).toNat
    let ports := (s.ev.words.getD 2 0).toNat
    (n < 32 → blocks < 2 ^ 32 → ports < 2 ^ 47 → ports % 2 ^ 32 = 0 →
      (∀ r, s.createBad n blocks (ports / 2 ^ 32) = some r → Answers .partCreate s (returned s r [])) ∧
      (s.createBad n blocks (ports / 2 ^ 32) = none → Answers .partCreate s
        ((s.createPart n blocks (ports / 2 ^ 32)).callReturn s.ev 0 []))) ∧
    (s.ev.z ≠ 1 → (s.parts.look n).isSome = true → Answers .partReset s ((s.resetPart n).callReturn s.ev 0 [])) ∧
    (s.ev.z ≠ 1 → s.parts.look n = none → Answers .partReset s (returned s 2 [])) ∧
    ((s.parts.look n).isSome = true → Answers .partDestroy s ((s.destroyPart n).callReturn s.ev 0 [])) ∧
    (s.parts.look n = none → Answers .partDestroy s (returned s 2 []))) ∧
  (∀ s : State, s.ev.z = 1 → Answers .partReset s (s.resetPart s.ev.x)) ∧
  (∀ (s : State) (n blocks ports : Nat), (s.parts.look n).isSome = true → s.createBad n blocks ports = some 1)

/-- R170, R348, R84, R91, R416: BANKS gives free banks to a context of the function, or takes them back; MAP_FLUSH returns once no
access that could have used an old entry is open; REPORT writes the signed report of a context and returns its length;
AUDIT_READ moves the oldest entries out of the ring; ERRINJ poisons the doubleword of an object at its home. -/
def Sys2Proof.Spec.ContextCalls : Prop :=
  ∀ (s : State) (p : Proc), s.proc? (s.ctxidOf s.ev.at_) = some p →
    let own := s.ctxidOf s.ev.at_
    let arg := fun (i : Nat) => s.ev.words.getD (i - 1) 0
    (∀ c : Proc, s.contextOf (arg 1).toNat p.vf = true → s.proc? (arg 1).toNat = some c → (arg 3).toNat < 2 ^ 48 →
      let id := (arg 1).toNat
      let b := (arg 2).toNat
      let mask := (arg 3).toNat
      let old := c.banks.get b 0
      b < 32 → (s.part c.part).blocks.testBit b = true → s.boot.blocks.testBit b = true →
      ((arg 4).toNat = 0 → s.procs.any (fun o => o.1 != id && !o.2.retired && o.2.banks.get b 0 &&& mask != 0) = false →
        Answers .banks s ((s.modProc id (fun c => { c with banks := c.banks.put b (old ||| mask) })).callReturn s.ev 0 [])) ∧
      ((arg 4).toNat = 1 → c.vcs.any (fun v => v.2.blocks.testBit b && v.2.banks &&& mask != 0) = false →
        Answers .banks s ((s.modProc id (fun c => { c with
          banks := c.banks.put b (old - (old &&& mask)) })).callReturn s.ev 0 []))) ∧
    (∀ e, s.callEnt own (arg 1) [] = some e → (s.dropMap p.part own e).oldAccess own e.index = false →
      let t := s.dropMap p.part own e
      Answers .mapFlush s ({ t with mon := { t.mon with
        flushes := t.mon.flushes.filter (fun f => f != s.ev) } }.callReturn s.ev 0 [])) ∧
    (∀ (c : Proc) (src dst : Ent), s.proc? (arg 1).toNat = some c → s.callEnt own (arg 2) [rR] = some src →
      s.callEnt own (arg 4) [rW] = some dst → s.contextOf (arg 1).toNat p.vf = true → (arg 3).toNat + 64 ≤ src.len →
      let b := s.report (arg 1).toNat c (s.devRead own src.index (arg 3).toNat 64)
      (dst.len < (arg 5).toNat + b.length → Answers .report s (returned s 2 [])) ∧
      ((arg 5).toNat + b.length ≤ dst.len → Answers .report s
        ((s.devWrite own dst.index (arg 5).toNat b).callReturn s.ev 0 [word b.length]))) ∧
    (∀ e, p.vf = 0 → s.callEnt own (arg 1) [rW] = some e → (arg 2).toNat ≤ e.len →
      let n := min (min (arg 3).toNat s.mon.audit.length) ((e.len - (arg 2).toNat) / 32)
      let t := s.devWrite own e.index (arg 2).toNat ((s.mon.audit.take n).flatMap Audit.bytes)
      Answers .auditRead s ({ t with mon := { t.mon with
        audit := t.mon.audit.drop n, auditLost := 0 } }.callReturn s.ev 0 [word n, word s.mon.auditLost])) ∧
    (∀ (e : Ent) (k : Nat), s.callEnt own (arg 1) [rW] = some e → (arg 2).toNat % 8 = 0 → (arg 2).toNat < e.len →
      s.translate own e (arg 2).toNat .write 0 = .ok (.mem k) →
      let la := (e.base + (arg 2).toNat) / 128
      let leaf := e.leaf s.ev.at_
      let t := (s.drainThrough s.ev.at_ (fun w => w.oaddr / 128 == la)).coloured s.ev.at_ own leaf la
        (fun s => s.pathClean s.ev.at_ own leaf la)
      let u := (t.cowPage k).markPage k
      Answers .errinj s ({ u with mem := (k :: u.forwardTo k).foldl (fun m a => m.addPoison a) u.mem }.callReturn s.ev 0 []))

/-- R75, R77: PEWTER_UPDATE of a signed newer image stages it, and at the next quiet moment the shadows take over with its
version and MEAS2 extended; an image that is not signed, or not newer, is reported to the supervisor. a report that
is asked for then returns RETRY. POLICY_LOAD holds a signed image with MEAS3 extended, POLICY_PIN pins a held version to a function that exists, POLICY_UNLOAD drops a version that no pin names. -/
def Sys2Proof.Spec.ImageCalls : Prop :=
  (∀ (s : State) (p : Proc), s.proc? (s.ctxidOf s.ev.at_) = some p → p.vf = 0 →
    let own := s.ctxidOf s.ev.at_
    let a := (s.ev.words.getD 0 0).toNat
    let v := (s.ev.words.getD 1 0).toNat
    (∀ e, s.callEnt own (s.ev.words.getD 0 0) [rR] = some e →
      let b := imageOfBytes (s.objectBytes own e)
      (s.mon.staged = none → s.mon.roles.any (fun r => r.2 == 2) = true →
        (s.imageSigned b = true → s.mon.version < imageVersion b → s.cfg 0x28 8 ≤ imageVersion b →
          Answers .pewterUpdate s ({ s with mon := { s.mon with staged := some (own, b) } }.callReturn s.ev 0 [])) ∧
        (s.imageSigned b = false → Answers .pewterUpdate s
          ((s.notice own Cause.fwUpdate 1 0xFFFF 0).callReturn s.ev 0 []))) ∧
      (s.mon.staged.isSome = true → Answers .pewterUpdate s (returned s 6 [])) ∧
      (s.imageSigned b = false → Answers .policyLoad s (returned s 1 [])) ∧
      (s.imageSigned b = true → s.mon.policies.any (fun p => p.version == imageVersion b) = false → s.mon.policies.length < 8 →
        let t := { s with mon := { s.mon with policies := s.mon.policies ++ [Policy.mk (imageVersion b) b] } }
        Answers .policyLoad s ((t.extendReg 3 5 (b ++ leBytes 8 (imageVersion b))).callReturn s.ev 0 [word (imageVersion b)]))) ∧
    (s.mon.pins.any (fun q => q.2 == a) = true → Answers .policyUnload s (returned s 4 [])) ∧
    (s.mon.pins.any (fun q => q.2 == a) = false → Answers .policyUnload s ({ s with mon := { s.mon with
      policies := s.mon.policies.filter (fun q => q.version != a) } }.callReturn s.ev 0 [])) ∧
    (s.functionLives a = false → Answers .policyPin s (returned s 2 [])) ∧
    (s.functionLives a = true → s.mon.policies.any (fun q => q.version == v) = true → Answers .policyPin s ({ s with mon := { s.mon with
      pins := s.mon.pins.put a v, repinned := s.mon.repinned.filter (fun n => n != a) ++ [a] } }.callReturn s.ev 0 []))) ∧
  (∀ (s : State) (own : Nat) (b : List Byte), s.mon.staged = some (own, b) →
    (s.ev.x = 1 → Answers .pewterHandover s
      ({ s with mon := { s.mon with staged := none } }.notice own Cause.fwUpdate 3 0xFFFF 0)) ∧
    (s.ev.x ≠ 1 →
      let t := { s with mon := { s.mon with staged := none } }.abandonReports
      Answers .pewterHandover s
        (({ t with mon := { t.mon with version := imageVersion b } }.handOverRoles.extendReg 2 0x0A b).deriveReport)))

/-- The monitor calls: `PartitionCalls`, `ContextCalls`, `ImageCalls`. -/
def Obligations.MonitorCalls : Prop := PartitionCalls ∧ ContextCalls ∧ ImageCalls

/-! ## Queues, packets, the dispatcher, the cores' own events -/

/-- R17, R59, R60, R62, R63, R64: an accepted TAIL, CPLHEAD, a one to CFGREJ; ENABLE with a good configuration runs the queue and with
a bad one is ECODE 5; PAUSE, RESUME and DISABLE move it; RESET of an ERROR queue disables it with HEAD at TAIL, and its packets
that had not started complete with ABORTED. A configuration write counts when the queue is DISABLED, and else sets CFGREJ; one of a closed private half is logged, whatever its
size. Before
step 6 of the start-up, on a page that maps no queue, and for an access that is no whole doubleword, nothing happens. -/
def Sys2Proof.Spec.QueueRegisters : Prop :=
  (∀ (s : State) (i : Instr), i ∈ [.tailWrite, .cplheadWrite, .statusClear, .queueEnable, .queuePause, .queueResume, .queueDisable,
      .queueReset, .queueConfigWrite] →
    s.boot.step < 6 ∨ s.pageQueue s.ev = none ∨ (s.ev.whole = false ∧ i ≠ .queueConfigWrite) → Answers i s s) ∧
  (∀ (s : State) (q : Nat), 6 ≤ s.boot.step → s.pageQueue s.ev = some q →
    (s.privateShut q s.ev = true → Answers .queueConfigWrite s (s.audit 1 (s.ev.y / 2) q (word s.ev.x))) ∧
    (s.privateShut q s.ev = false → s.ev.whole = false → Answers .queueConfigWrite s s)) ∧
  ∀ (s : State) (q : Nat), 6 ≤ s.boot.step → s.pageQueue s.ev = some q → s.ev.whole = true →
    let k := s.queue q
    let v := (s.ev.words.getD 0 0).toNat
    let n := 2 ^ (k.ringcfg % 32)
    let sized := fun (c : Nat) => 4 ≤ c % 32 ∧ c % 32 ≤ 16
    (v < 2 ^ 32 → (v + 2 ^ 32 - k.head) % 2 ^ 32 ≤ n → (v + 2 ^ 32 - k.tail) % 2 ^ 32 ≤ n →
      Answers .tailWrite s (s.modQueue q (fun k => { k with tail := v }))) ∧
    (v < 2 ^ 32 → n < (v + 2 ^ 32 - k.head) % 2 ^ 32 →
      Answers .tailWrite s (s.modQueue q (fun k => { k with qstate := 4, ecode := 1 }))) ∧
    (v < 2 ^ 32 → Answers .cplheadWrite s (s.modQueue q (fun k => { k with cplhead := v }))) ∧
    (v.testBit 7 = true → v / 8 % 16 = 0 → Answers .statusClear s (s.modQueue q (fun k => { k with cfgrej := false }))) ∧
    (v.testBit 7 = false ∨ v / 8 % 16 ≠ 0 → Answers .statusClear s s) ∧
    (k.qstate = 0 → k.bound = true → sized k.ringcfg → sized k.cplcfg → k.ringbase ≠ 0 → k.cplbase ≠ 0 →
      Answers .queueEnable s (s.modQueue q (fun k => { k with qstate := 1 }))) ∧
    (k.qstate = 0 → ¬ (k.bound = true ∧ sized k.ringcfg ∧ sized k.cplcfg ∧ k.ringbase ≠ 0 ∧ k.cplbase ≠ 0) →
      Answers .queueEnable s (s.modQueue q (fun k => { k with qstate := 4, ecode := 5 }))) ∧
    (k.qstate = 1 → Answers .queuePause s (s.modQueue q (fun k => { k with qstate := 2 }))) ∧
    (k.qstate = 2 → Answers .queueResume s (s.modQueue q (fun k => { k with qstate := 1 }))) ∧
    ((k.qstate = 1 ∨ k.qstate = 2) → (k.running ≠ [] ∨ k.waiting ≠ []) →
      Answers .queueDisable s (s.modQueue q (fun k => { k with qstate := 3 }))) ∧
    ((k.qstate = 1 ∨ k.qstate = 2) → k.running = [] → k.waiting = [] →
      Answers .queueDisable s (s.modQueue q (fun k => { k with qstate := 0 }))) ∧
    (k.qstate = 4 → Answers .queueReset s (s.modQueue q (fun k => { k with
      head := k.tail, qstate := 0, ecode := 0, cfgrej := false, waiting := k.waiting.map (fun p => { p with aborted := true }) }))) ∧
    (s.privateShut q s.ev = false → k.qstate ≠ 0 → s.ev.x = 0x800 →
      Answers .queueConfigWrite s (s.modQueue q (fun k => { k with cfgrej := true }))) ∧
    (s.privateShut q s.ev = false → k.qstate = 0 →
      (s.ev.x = 0x800 → v % 4096 = 0 → Answers .queueConfigWrite s (s.modQueue q (fun k => { k with ringbase := v }))) ∧
      (s.ev.x = 0x808 → v < 256 → Answers .queueConfigWrite s (s.modQueue q (fun k => { k with ringcfg := v }))) ∧
      (s.ev.x = 0x810 → v % 4096 = 0 → Answers .queueConfigWrite s (s.modQueue q (fun k => { k with cplbase := v }))) ∧
      (s.ev.x = 0x818 → v < 65536 → Answers .queueConfigWrite s (s.modQueue q (fun k => { k with cplcfg := v }))))

/-- R6, R26, R47, R59, R60, R61, R73, R90: the host reads a telemetry register, which off the allow-list of a protected function is
zero and logged, or a register of a queue page: zero where the page maps no queue, for a write-only register, and, logged, for an
untrusted read of a closed private half. Telemetry registers 0 to 4 and 16 are what the sensors say, of which no rule gives the
value (log entry 103). The host writes TELIDX or a register of a queue page, the monitor the other registers of the device; a set
reserved bit discards the write. -/
def Sys2Proof.Spec.DeviceRegisters : Prop :=
  (∀ s : State, s.boot.step < 6 → Answers .teldataRead s s ∧ Answers .registerWrite s s) ∧
  ∀ s : State, 6 ≤ s.boot.step →
    let v := (s.ev.words.getD 0 0).toNat
    let i := s.mon.telidx.get s.ev.z 0
    let read := fun (s : State) (r : Word) => { s with hostSide := { s.hostSide with regRead := r } }
    (s.ev.x = 0 → (s.protectedVf s.ev.z = false ∨ s.ev.y % 2 = 1 ∨ telAllowed i = true) →
      (4 < i → i ≠ 0x10 → Answers .teldataRead s (read s (if i = 0x20 then s.bootStatus else word (s.mon.counters.get i 0)))) ∧
      (i ≤ 4 ∨ i = 0x10 → Answers .teldataRead s (read s.free.2 s.free.1))) ∧
    (s.ev.x = 0 → s.protectedVf s.ev.z = true → s.ev.y % 2 = 0 → telAllowed i = false →
      Answers .teldataRead s ((read s 0).audit 2 (s.ev.y / 2) i 0)) ∧
    (s.ev.x = 1 → s.pageQueue s.ev = none → Answers .teldataRead s (read s 0)) ∧
    (∀ q, s.ev.x = 1 → s.pageQueue s.ev = some q → s.ev.whole = true →
      let k := s.queue q
      (v = 0x000 → Answers .teldataRead s (read s (word k.tail))) ∧ (v = 0x008 → Answers .teldataRead s (read s (word k.head))) ∧
      (v = 0x010 → Answers .teldataRead s (read s (word k.cplhead))) ∧
      (v = 0x018 → Answers .teldataRead s (read s (word k.cpltail))) ∧
      (v = 0x020 → Answers .teldataRead s (read s (word (k.ecode * 256 + (if k.cfgrej = true then 1 else 0) * 128 + k.qstate)))) ∧
      (v = 0x028 → Answers .teldataRead s (read s 0)) ∧
      (0x800 ≤ v → s.privateShut q s.ev = true → Answers .teldataRead s ((read s 0).audit 1 (s.ev.y / 2) q (word v))) ∧
      (v = 0x800 → s.privateShut q s.ev = false → Answers .teldataRead s (read s (word k.ringbase))) ∧
      (v = 0x820 → s.privateShut q s.ev = false → Answers .teldataRead s (read s (word k.owner)))) ∧
    (s.ev.at_ = 1 → v < 65536 →
      Answers .registerWrite s { s with mon := { s.mon with telidx := s.mon.telidx.put s.ev.x v } }) ∧
    (2 ≤ s.ev.at_ → s.ev.at_ ≤ 6 → s.ev.z ≠ 0 → Answers .registerWrite s s) ∧
    (s.ev.at_ = 2 → s.ev.z = 0 → s.ev.x < 64 → v < 65536 → v / 8192 % 4 = 0 →
      Answers .registerWrite s { s with routes := s.routes.put s.ev.x v }) ∧
    (s.ev.at_ = 3 → s.ev.z = 0 → v < 64 → Answers .registerWrite s { s with owners := s.owners.put s.ev.x v }) ∧
    (∀ w, s.ev.at_ = 5 → s.ev.z = 0 → s.mon.firewalls.look s.ev.x = some w → w / 128 % 2 = 0 → v < 2 ^ 32 →
      Answers .registerWrite s { s with mon := { s.mon with pmasks := s.mon.pmasks.put s.ev.x v } }) ∧
    (s.ev.x = 6 → Answers .teldataRead s (read s (word ((s.switch s.ev.at_).weight s.ev.at_ v)))) ∧
    (s.ev.at_ = 6 → s.ev.z = 0 → 1 ≤ v → v ≤ 8 →
      Answers .registerWrite s (s.modSwitch s.ev.x (fun k => { k with weights := k.weights.put s.ev.y v }))) ∧
    (∀ p i, s.ev.at_ = 0x10000 + p → (s.ev.x, v, i) ∈ [(0x028, 1, Instr.queueEnable), (0x028, 2, .queuePause),
        (0x028, 3, .queueResume), (0x028, 4, .queueDisable), (0x028, 5, .queueReset), (0x000, v, .tailWrite),
        (0x010, v, .cplheadWrite), (0x020, v, .statusClear), (0x800, v, .queueConfigWrite),
        (0x820, v, .queueConfigWrite)] →
      Answers .registerWrite s (s.post i { s.ev with at_ := p })) ∧
    (∀ p, s.ev.at_ = 0x10000 + p → s.ev.x = 0x028 → v = 0 ∨ 6 ≤ v → Answers .registerWrite s s)

/-- R12, R63, R65, R69, R293: a running queue takes the packet at HEAD; a packet that starts and passes its checks takes its effect, one that
fails completes with the status of the check, and one that can only be abandoned with ABORTED; one that completes leaves the
queue, with its record when it asks for one; a queue that is absent with its block completes nothing. -/
def Sys2Proof.Spec.PacketLife : Prop :=
  (∀ s : State,
    let q := s.ev.at_
    let k := s.queue q
    let a := k.ringbase + k.head % 2 ^ (k.ringcfg % 32) * 64
    k.qstate = 1 → k.head ≠ k.tail → k.retiring = false →
      (s.hostAborts a = false → Answers .takePacket s (s.modQueue q (fun k => { k with
        head := (k.head + 1) % 2 ^ 32
        waiting := k.waiting ++ [⟨k.head, (List.range 8).map (fun i => word (s.host.getLE (a + 8 * i) 8)), 0, false⟩] }))) ∧
      (s.hostAborts a = true → Answers .takePacket s (s.modQueue q (fun k => { k with qstate := 4, ecode := 2 })))) ∧
  (∀ (s : State) (p : Packet),
    let q := s.ev.at_
    let k := s.queue q
    k.nextStart (q < 65536) = some p →
    let u := { s.modQueue q (fun k => { k with
      waiting := k.waiting.drop 1, running := k.running ++ [⟨p, 0, s.clk⟩]
      rsv := k.rsv + (if p.records = true ∧ q < 65536 then 1 else 0), lastStart := s.nextPkt }) with nextPkt := s.nextPkt + 1 }
    let t := u.headOn q
    let abandoned := k.retiring = true ∨ p.aborted = true ∨ (k.qstate ≠ 1 ∧ k.qstate ≠ 2)
    (abandoned → Answers .packetStart s (t.post .packetComplete { Ev.zero with at_ := q, x := p.idx, y := 10, z := 0 })) ∧
    (¬ abandoned → s.tooHot q p = true → Answers .packetStart s s) ∧
    (∀ ns, ¬ abandoned → s.tooHot q p = false → t.checkPacket q p = .ok ns →
      Answers .packetStart s (t.post (packetEvent p.type) { Ev.zero with at_ := q, x := p.idx })) ∧
    (∀ st r, ¬ abandoned → s.tooHot q p = false → t.checkPacket q p = .error (st, r) →
      Answers .packetStart s (t.post .packetComplete { Ev.zero with at_ := q, x := p.idx, y := st, z := r }))) ∧
  (∀ (s : State) (r : Running),
    let q := s.ev.at_
    let p := r.pkt
    s.hasQueue q = true → s.runningPkt q s.ev.x = some r → bits (p.word 0) 31 16 = 0 → (s.queue q).retiring = false → q < 65536 → p.parent = 0 →
    openResult s.ev.y = false →
    let t := if p.records = true then s.writeRecord q p s.ev.y (word s.ev.z) else s
    Answers .packetComplete s ((t.modQueue q (fun k => { k with
      running := k.running.filter (fun o => o.pkt.idx != s.ev.x), rsv := k.rsv - (if p.records = true then 1 else 0) })).modQueue q
        HostQueue.settled)) ∧
  (∀ s : State, s.hasQueue s.ev.at_ = false → Answers .packetComplete s s) ∧
  (∀ (s : State) (q : Nat) (p : Packet) (st : Nat) (r : Word),
    let k := s.queue q
    let m := 2 ^ (k.cplcfg % 32)
    let a := k.cplbase + k.cpltail % m * 32
    (s.hostAborts a = true → (k.qstate = 1 ∨ k.qstate = 2) →
      s.writeRecord q p st r = s.modQueue q (fun k => { k with qstate := 4, ecode := 3 })) ∧
    (s.hostAborts a = false → bit (p.word 0) 10 = false →
    s.writeRecord q p st r =
      { s with host := s.host.putRange a ([word (p.idx % 2 ^ 32 * 2 ^ 32 + st * 65536 + p.type * 256 + (k.cpltail / m + 1) % 2),
        word (bits (p.word 7) 63 32 * 2 ^ 32), r, word s.time].flatMap (fun (w : Word) => leBytes 8 w.toNat)) }.modQueue q
        (fun j => { j with cpltail := (k.cpltail + 1) % 2 ^ 32 })))

/-- R67, R70, R113: what each type of packet does once it has started. A LAUNCH and a GRAPH make a task of their nodes; a COPY puts a job
at the copy unit of the partition's first cluster; a SIGNAL arrives at its barrier; a WAIT completes once its generation has
passed, and with TIMEOUT when its time is over; a RESYNC whose buffer is too short completes with the length it needs; a
SNAPSHOT of a passed generation is stale, one of the present generation starts the next, or waits with the one in progress; an
ADMIT beyond the free pages completes with NO_SPACE, and a RETIRE retires the context. -/
def Sys2Proof.Spec.PacketEffects : Prop :=
  ∀ (s : State) (r : Running),
    let q := s.ev.at_
    let w := r.pkt.word
    let ctxid := (s.queue q).ctxid
    let done := fun (t : State) (st res : Nat) =>
      t.post .packetComplete { Ev.zero with at_ := q, x := r.pkt.idx, y := st, z := res }
    s.runningPkt q s.ev.x = some r →
    Answers .nopPacket s (done s 0 0) ∧
    Answers .launch s (s.makeTask q r [r.pkt.launchNode]) ∧
    (∀ ns, s.graphNodes (s.queuePart q) ctxid (bits (w 1) 63 48) = .ok ns → Answers .graph s (s.makeTask q r ns)) ∧
    (s.minimal = false →
      let cl := (s.coolCluster (s.queuePart q)).getD (s.firstCluster (s.queuePart q))
      let old := (s.jobsOf cl 16).filter (fun j => !j.done)
      Answers .copy s (s.setJobs cl 16 (old ++ [{ Job.new (old.foldl (fun a j => max a (j.seq + 1)) 1) ctxid (cl * 8)
        (.packet q r.pkt.idx) 2 with
          srch := s.indexHandle ctxid (bits (w 1) 63 48), srcoff := bits (w 1) 47 0
          dsth := s.indexHandle ctxid (bits (w 2) 63 48), dstoff := bits (w 2) 47 0
          rows := max 1 (bits (w 4) 63 32), len := bits (w 3) 39 0, sstride := bits (w 5) 47 0, dstride := bits (w 6) 47 0 }]))) ∧
    (let a := s.arriveAt ctxid (bits (w 1) 63 48) (bits (w 1) 31 0)
    Answers .signal s (done a.2 (if a.1 = true then 1 else 0) 0)) ∧
    (s.genReleased q r.pkt = true → Answers .waitPacket s (done s 0 (bits (w 1) 31 0))) ∧
    (s.genReleased q r.pkt = false → Answers .waitPacket s s) ∧
    (q < 65536 → Answers .waitTimeout s ((done s 9 0).modQueue q (fun k => { k with qstate := 4, ecode := 4 }))) ∧
    (bits (w 2) 31 0 < s.summary.length → Answers .resync s (done s 8 s.summary.length)) ∧
    (s.summary.length ≤ bits (w 2) 31 0 → s.hostAborts (bits (w 1) 63 12 * 4096) = false →
      Answers .resync s (done { s with host := s.host.putRange (bits (w 1) 63 12 * 4096) s.summary } 0 s.summary.length)) ∧
    (∀ e home, s.liveEnt ctxid (bits (w 1) 63 48) = some e → s.objHome ctxid (bits (w 1) 63 48) = some home →
      let c := s.firstCluster (s.queuePart q) * 8
      let n := jobNo home
      let j := s.jobOf n ctxid (bits (w 1) 63 48) e (senderWord s.devId (niEndpoint (c / 8)))
      let wait := fun (t : State) => t.modJob n (fun j => { j with waiters := j.waiters ++ [(q, r.pkt.idx)] })
      (bits (s.jobWord j 0) 63 32 ≠ bits (w 1) 31 0 → Answers .snapshot s (done s 1 0)) ∧
      (bits (s.jobWord j 0) 63 32 = bits (w 1) 31 0 → j.devmask.testBit s.devId = true →
        (bits (s.jobWord j 1) 1 0 = 0 → Answers .snapshot s (wait (s.startSnap n ctxid (bits (w 1) 63 48) e c))) ∧
        (bits (s.jobWord j 1) 1 0 ≠ 0 → Answers .snapshot s (wait s)))) ∧
    (s.freePages (s.queuePart q) 0 < (bits (w 1) 63 32 : Int) → Answers .admitPacket s (done s 7 0)) ∧
    Answers .retire s (done (s.retireContext (bits (w 1) 15 0)) 0 0)

/-- R54, R55, R67, R81, R83, R86, R88, R116, R351: an ADMIT that the partition has room for makes the context: the next CTXID, its
reservations, its tables zeroed, its measurement, its queues bound, its process in the dispatcher and its keys; it completes with
the CTXID in RESULT0. The count of 1,023 contexts beside the monitor's own entry is the model's reading (log entry 107). -/
def Sys2Proof.Spec.AdmitEffect : Prop :=
  ∀ (s : State) (r : Running),
    let q := s.ev.at_
    let w := r.pkt.word
    let part := s.queuePart q
    s.runningPkt q s.ev.x = some r →
    (bits (w 1) 63 32 : Int) ≤ s.freePages part 0 → (bits (w 1) 31 0 : Int) ≤ s.freePages part 1 →
    (s.procs.filter (fun c => c.2.part == part && !c.2.retired)).length < 1023 →
    let id := s.freshCtx
    let otlen := bits (w 2) 63 48 + 1
    let otbase := bits (w 2) 39 12 * 4096
    let cb := bits (w 6) 63 32 * 131072
    let ac := bits (w 6) 31 0 * 1024
    let qfirst := bits (w 5) 14 0
    let qcount := bits (w 5) 63 48
    let m := extendMeas measZero 9 ((List.range 5).flatMap (fun i => leBytes 8 (w (i + 1)).toNat))
    let c : Proc := ⟨part, bits (w 3) 39 32, bits (w 3) 9 0, bits (w 3) 31 16, bit (w 3) 14, bits (w 1) 63 32, bits (w 1) 31 0, 0, 0,
      otbase, otlen, bits (w 6) 31 0, bits (w 6) 63 32, bits (w 4) 63 48, qfirst, qcount, [], [], m.1, false, 0, []⟩
    let t := { s with
      procs := s.procs.put id c, mem := (s.mem.clearRange (s.tableKey part ac) 1024).clearRange (s.tableKey part cb) 131072,
      queues := (List.range qcount).foldl (fun (l : NMap HostQueue) i => l.put (qfirst + i)
        { (l.get (qfirst + i) HostQueue.zero) with owner := 65536 + id + (if c.prot = true then 1 else 0) * 2 ^ 18 }) s.queues,
      nextCtx := id + 1, mon := { s.mon with measLog := s.mon.measLog ++ [(6 + 65536 * id, 9, m.2)] } }
    t.saveHolds id = true →
    let u := t.modPart part (fun p => { ((p.past (otbase + 64 * otlen)).past (cb + 131072)).past (ac + 1024) with
      procs := admitProcess p.procs c.vf c.proc c.weight })
    Answers .admitPacket s (((u.drawKeys id).pinFunction c.vf).post .packetComplete
      { Ev.zero with at_ := q, x := r.pkt.idx, y := 0, z := id })

/-- R67, R113: a task reads the generations of the barriers of its nodes as its bases, and belongs to the context of its queue. -/
def Sys2Proof.Spec.TaskStart : Prop :=
  ∀ (s : State) (q : Nat) (r : Running) (ns : List Node),
    let gen := fun (h : Nat) => s.objGen (s.queue q).ctxid h
    ∃ t, (s.makeTask q r ns).tasks = s.tasks.put s.nextTask t ∧ t.ctxid = (s.queue q).ctxid ∧ t.part = s.queuePart q ∧
      t.owner = .packet q r.pkt.idx ∧ t.nodes = ns.map (fun n => { n with
        ins := n.ins.map (fun b => (b.1, gen b.1)), outGen := if n.out = 0 then 0 else gen n.out })

/-- Queues and registers: `QueueRegisters`, `DeviceRegisters`. -/
def Obligations.QueueEvents : Prop := QueueRegisters ∧ DeviceRegisters

/-- R121: the first late instance that finds no slot has reserved one. -/
def Sys2Proof.Spec.lateReserved (s : State) (part : Nat) : State := ((s.lateNeeds part).take 1).foldl (fun s r =>
  s.modPart part (fun p => { p with reserved := p.reserved ++ [r] })) s

/-- R110, R113, R116: a decision starts the item it chooses; an instance starts on the free cores of its slot, each running its
control context at the entry of its node with ARG0, ARG1 and its index; one that is over frees its cores and its node counts
it, once what its release sends is acknowledged; a task of which nothing is left completes its packet. -/
def Sys2Proof.Spec.InstanceSteps : Prop :=
  (∀ (s : State),
    let t := lateReserved (s.refreshProcs s.ev.at_) s.ev.at_
    (∀ (it : Item) (slot missed : List Nat), t.chooseItem s.ev.at_ = (some (.go it slot), missed) →
      Answers .dispatchDecision s ((missed.foldl (fun s k => s.passOver s.ev.at_ k) t).startItem s.ev.at_ it slot)) ∧
    (∀ (it : Item) (slot missed : List Nat), t.chooseItem s.ev.at_ = (some (.evict it slot), missed) →
      let u := (missed.foldl (fun s k => s.passOver s.ev.at_ k) t).modPart s.ev.at_ (fun p => { p with
        reserved := p.reserved ++ [(it.key, slot)] })
      Answers .dispatchDecision s (((u.victims s.ev.at_ it slot).getD []).foldl
        (fun s i => s.post .preempt { Ev.zero with at_ := i.id }) u)) ∧
    (t.chooseItem s.ev.at_ = (none, []) → Answers .dispatchDecision s t)) ∧
  (∀ (s : State) (t : Task) (n : Node) (c : Nat),
    s.tasks.look s.ev.at_ = some t → t.nodes[s.ev.x]? = some n → t.dead = none → n.started = s.ev.y →
    s.ev.words = [word c] → c < 2048 → s.coreFree c = true → n.plan = 0 → n.argh = 0 →
    ∃ u, Answers .gangStart s u ∧ (u.core c).inst = s.nextInst ∧ (u.core c).task = t.id ∧ (u.core c).gangIdx = 0 ∧
      (u.core c).gangSize = 1 ∧ (u.core c).code = s.indexHandle t.ctxid n.code ∧
      (u.core c).ctx 0 = { Ctx.fresh (word n.entry) n.arg0 n.arg1 (word s.ev.y) (s.svec t.ctxid) with
        h := ((Ctx.fresh (word n.entry) n.arg0 n.arg1 (word s.ev.y) (s.svec t.ctxid)).h.setIfInBounds 1 Handle.zero).setIfInBounds 2
          Handle.zero } ∧
      u.insts = s.insts.put s.nextInst ⟨s.nextInst, t.id, s.ev.x, s.ev.y, [c], .running, [], 0, false, 0, 0, 0⟩ ∧
      u.nextInst = s.nextInst + 1) ∧
  (∀ (s : State) (i : Inst) (c : Nat), s.ev.x = 0 → s.insts.look s.ev.at_ = some i → s.instOver i = true →
    i.cores = [c] →
    let v := s.release c (s.endScope i)
    let u := v.freeCores [c]
    (v.quiet c = false → Answers .instanceComplete s v) ∧
    (v.quiet c = true →
    ∀ (t : Task) (n : Node), u.tasks.look i.task = some t → t.nodes[i.node]? = some n → n.out = 0 →
    Answers .instanceComplete s ({ u with
      insts := u.insts.del i.id
      tasks := u.tasks.put t.id { t with
        nodes := listSet t.nodes i.node { n with done := n.done + 1, finished := n.done + 1 == n.count } } }.post .instanceComplete
          { Ev.zero with at_ := t.id, x := 2 }))) ∧
  (∀ (s : State) (t : Task) (q idx : Nat), s.ev.x = 2 → s.tasks.look s.ev.at_ = some t → t.owner = .packet q idx → t.dead = none →
    t.nodes.all (fun n => n.finished) = true → t.children = 0 → t.childFault = none → t.stale = false →
    s.insts.any (fun i => i.2.task == t.id) = false →
    Answers .instanceComplete s ({ s with tasks := s.tasks.del t.id }.post .packetComplete
      { Ev.zero with at_ := q, x := idx, y := 0, z := t.id }))

/-- R75, R115: a period computes the slices of the functions that have work; a slice that ends hands over to the next one, and a
function that alone has work carries on into it; an image that faults leaves its function with the defaults. -/
def Sys2Proof.Spec.SliceSteps : Prop :=
  (∀ (s : State) (vf len : Nat) (rest : List (Nat × Nat)),
    let part := s.ev.at_
    let vfs := (s.part part).procs.map (fun p => p.vf)
    let pin := fun (m : NMap Nat) (v : Nat) => ((s.mon.pins.look v).map (fun n => m.put v n)).getD (m.del v)
    let t := { s with mon := { s.mon with
      policyNow := vfs.foldl pin s.mon.policyNow
      policyBad := s.mon.policyBad.filter (fun v => !(vfs.contains v && s.mon.repinned.contains v))
      repinned := s.mon.repinned.filter (fun v => !vfs.contains v) } }
    let f := (List.range 513).filter (fun v => (t.runnableVfs part).contains v && t.share v != 0)
    f.map (fun v => (v, usCycles (t.periodUs part * t.share v / (f.map t.share).sum))) = (vf, len) :: rest →
    t.runningOf part (fun v => t.share v == 0) = [] →
    ∃ u, Answers .periodStart s u ∧ (u.part part).sliceVf = vf ∧ (u.part part).sliceEnd = max 1 (s.clk + len) ∧
      (u.part part).slicesLeft = rest ∧ (u.part part).inPeriod = f) ∧
  (∀ s : State,
    let p := s.part s.ev.at_
    let run := s.runnableVfs s.ev.at_
    (run.contains p.sliceVf = false → p.slicesLeft = [] →
      Answers .sliceEnd s (s.modPart s.ev.at_ (fun q => q.newSlice 0 0 []))) ∧
    (∀ a t, run.contains p.sliceVf = true → p.slicesLeft = a :: t →
      p.inPeriod.filter (fun v => v != p.sliceVf && run.contains v) = [] → Answers .sliceEnd s
        (s.modPart s.ev.at_ (fun q => { q with sliceEnd := max 1 (s.clk + a.2), slicesLeft := t }))) ∧
    (∀ a t, run.contains p.sliceVf = false → p.slicesLeft = a :: t →
      Answers .sliceEnd s (s.modPart s.ev.at_ (fun q =>
        q.newSlice a.1 (max 1 (s.clk + a.2 + (p.sliceEnd - s.clk))) t)))) ∧
  (∀ s : State, s.mon.policyBad.contains s.ev.at_ = false → Answers .policyImageFault s
    ({ s with mon := { s.mon with policyBad := s.mon.policyBad ++ [s.ev.at_] } }.raiseMonitor Cause.fwAssert))

/-- R119, R120, R123, R353: a request to pre-empt a running instance takes an image for each core and tells its cores; when nothing
of it is under way it is saved, and its cores are free; a region that stays open kills the task. A saved instance resumes on the
free cores it is given, and its images are given back. A yield point asks for its own instance when a lower one waits. -/
def Sys2Proof.Spec.PreemptSteps : Prop :=
  ∀ (s : State) (i : Inst),
    (s.insts.look s.ev.at_ = some i → s.ev.x = 9 → s.saveReady i = true → Answers .preempt s (s.saveInst i)) ∧
    (s.insts.look s.ev.at_ = some i → s.ev.x < 2 → i.st = .running → i.cores.all (fun c => (s.core c).ended) = false →
      s.canSave i = true → Answers .preempt s (s.askPreempt i 0) ∧
        (∀ c, i.cores.contains c = true → s.cores.look c ≠ none → ((s.askPreempt i 0).core c).preempt = true) ∧
        (s.askPreempt i 0).insts = s.insts.put i.id { i with
          st := .preempting, images := (s.freeImages (s.instCtx i) i.cores.length).map (fun n => imageKey (s.instCtx i) n)
          reqTime := s.clk, next := 0 }) ∧
    (s.insts.look s.ev.at_ = some i → Answers .preemptTimeout s
      ((s.notice (s.instCtx i) Cause.preempted (word i.task) 0xFFFF i.task).killTask i.task Cause.preempted)) ∧
    (∀ t c k, s.insts.look s.ev.at_ = some i → i.st = .saved → s.tasks.look i.task = some t → t.dead = none →
      s.imageCopying i.id = false → (s.slotsOf i).contains [c] = true → i.images = [k] → s.ev.words = [word c] → c < 2048 →
      s.coreFree c = true →
      let u := s.cutResumed i [c]
      let v := (u.restoreImage i [c] c (u.imageAt k)).dropImage k
      (i.donate = false → Answers .resume s ({ v with insts := v.insts.put i.id { i with
        st := .running, cores := [c], images := [], donate := false, next := 0, lender := 0 } }.charge1 (v.instCtx i) 1)) ∧
      (i.donate = true → i.lender ≠ 0 → Answers .resume s ({ v with insts := v.insts.put i.id { i with
        st := .running, cores := [c], images := [], donate := false, next := 0 } }.charge1 i.lender 1))) ∧
    (∀ j rest t n, (s.ctx s.ev.at_ s.ev.x).yieldPoint = true → s.insts.look (s.core s.ev.at_).inst = some i →
      (s.instsOf i.task i.node).filter (fun j => j.st == .saved && decide (j.index < i.index)) = j :: rest →
      s.tasks.look i.task = some t → t.nodes[i.node]? = some n → i.st = .running → t.dead = none →
      s.freeSlot t.part (4 * j.id + 2) n.slots = none →
      Answers .yieldPoint s (s.post .preempt { Ev.zero with at_ := i.id, x := 3, y := j.id }))

/-- The dispatcher: `InstanceSteps`, `SliceSteps`, `PreemptSteps`. -/
def Obligations.DispatchEvents : Prop := InstanceSteps ∧ SliceSteps ∧ PreemptSteps

/-- R131, R212, R227, R276, R346, R348, R350: a trap that waited is entered once no other context of the core is at supervisor level;
a notice enters the control context's handler; a fetch that fails and a word with no meaning raise their causes; a context at
supervisor level for 1 ms loses its task; a pause ends, a frame is filled, and a translation read gives those that asked for it what it has
read, and a valid entry fills their caches. -/
def Sys2Proof.Spec.ContextSteps : Prop :=
  (∀ s : State,
    ((s.ctx s.ev.at_ s.ev.x).trapPend = none → Answers .trapEntry s s) ∧
    (∀ r, (s.ctx s.ev.at_ s.ev.x).trapPend = some r →
      ((s.core s.ev.at_).otherSup s.ev.x = false → Answers .trapEntry s (s.takeTrap s.ev.at_ s.ev.x r)) ∧
      ((s.core s.ev.at_).otherSup s.ev.x = true → Answers .trapEntry s s))) ∧
  (∀ (s : State) (cause : Nat) (eval : Word), s.noticeDue s.ev.at_ = some (cause, eval) →
    let t := (s.wakeCtx s.ev.at_ 0).withdraw s.ev.at_ 0
    Answers .noticeEntry s (t.takeTrap s.ev.at_ 0 ⟨cause, eval, 2, 0, (t.ctx s.ev.at_ 0).pc⟩)) ∧
  (∀ s : State,
    let x := s.ctx s.ev.at_ s.ev.x
    Answers .fetchFault s (s.takeTrap s.ev.at_ s.ev.x ⟨s.ev.y, s.ev.words.getD 0 0, 0, s.ev.z, x.pc⟩) ∧
    Answers .illegalWord s (s.takeTrap s.ev.at_ s.ev.x ⟨s.ev.y, s.ev.words.getD 0 0, 0, 0, x.pc⟩) ∧
    (x.live = true → x.sup = true →
      let task := (s.core s.ev.at_).task
      Answers .watchdog s (((s.notice (s.ctxidOf s.ev.at_) Cause.watchdog (word task) s.ev.at_ task).logFault Cause.watchdog 2
        s.ev.at_ (s.ctxidOf s.ev.at_) (word task)).killTask task Cause.watchdog)) ∧
    (x.wait = some .pause → x.pauseCount + (s.cycle - x.pauseLeft) < 4096 → Answers .pauseExpire s
      (s.setCtx s.ev.at_ s.ev.x { x with wait := none, pauseCount := x.pauseCount + (s.cycle - x.pauseLeft) })) ∧
    (let fs := (s.core s.ev.at_).frames
    fs.any (fun f => f.1 == s.ev.x) = false → fs.length < 4 → Answers .frameFill s
      (s.modCore s.ev.at_ (fun k => { k with frames := k.frames ++ [(s.ev.x, s.frameStale s.ev.at_ s.ev.x)] }))) ∧
    (∀ n d rest, (s.core s.ev.at_).frames = (n, d) :: rest → rest.length = 3 →
      ((n, d) :: rest).any (fun f => f.1 == s.ev.x) = false → ∃ t, Answers .frameFill s t ∧
      (t.core s.ev.at_).frames = rest ++ [(s.ev.x, s.frameStale s.ev.at_ s.ev.x)]) ∧
    (let pte := word (s.mem.getLE s.ev.x 8)
    let waits := fun (x : Ctx) => x.wait == some (.translation s.ev.x) || x.wait == some (.fetchMap s.ev.x)
    let asks := fun (k : Nat × Core) => k.1 / 64 == s.ev.at_ && k.2.ctxs.any waits
    let told := fun (x : Ctx) => if waits x = true then { x with mapRead := some (s.ev.x, pte) } else x
    let t := { s with
      tqueue := s.tqueue.filter (fun t => t != (s.ev.at_, s.ev.x))
      cores := s.cores.map (fun k => if asks k = true then (k.1, { k.2 with ctxs := k.2.ctxs.map told }) else k) }
    let cls := ((s.cores.filter asks).map (fun k => k.1 / 8)).eraseDups
    (bit pte 63 = false ∨ t.tableLost s.ev.x 8 = true → Answers .translationRead s t) ∧
    (bit pte 63 = true → t.tableLost s.ev.x 8 = false →
      Answers .translationRead s (cls.foldl (fun s cl => s.mapPage cl s.ev.x pte) t))))

/-- R151, R152, R157, R310: the arbiter grants the head it chooses, or rewires for it first; when the rewiring ends the winner is
granted, if it still stands there and may be; the movement unit serves the next core that it can; an instruction that has finished and waits for nothing completes,
an `ssm` that failed when CODE is written (R341). -/
def Sys2Proof.Spec.LatticeSteps : Prop :=
  (∀ (s t : State) (c : Nat) (e : LEntry), s.grantReady s.ev.at_ = true → s.decideGrant s.ev.at_ = (some c, t) →
    (t.core c).head = some e →
    (e.wantsMatrix = (t.cluster s.ev.at_).matrix → Answers .latticeGrant s (t.grant c)) ∧
    (e.wantsMatrix ≠ (t.cluster s.ev.at_).matrix → Answers .latticeGrant s
      (t.modCluster s.ev.at_ (fun k => { k with rewire := some (c, if e.wantsMatrix = true then 1 else 0) })))) ∧
  (∀ (s : State) (c w : Nat), (s.cluster s.ev.at_).rewire = some (c, w) →
    let t := s.modCluster s.ev.at_ (fun k => { k with rewire := none, matrix := w == 1 })
    let stands := t.eligible c && (t.core c).head.any (fun e => (if e.wantsMatrix = true then 1 else 0) == w)
    (stands = true → Answers .rewireComplete s (t.grant c)) ∧ (stands = false → Answers .rewireComplete s t)) ∧
  (∀ (s : State) (c : Nat),
    ((List.range 8).map (fun i => s.ev.at_ * 8 + ((s.cluster s.ev.at_).moveNext + i) % 8)).find? s.moveReadyCore = some c →
    Answers .movementServe s ((s.serveCore c).modCluster s.ev.at_ (fun k => { k with moveNext := (c + 1) % 8 }))) ∧
  (∀ (s : State) (e : LEntry) (rest : List LEntry),
    let c := s.ev.at_
    e.seq = s.ev.x → s.awaits c e = false → s.entryBlocked c e = false →
    ((s.core c).inflight = e :: rest → e.finished = true → e.poke = none →
      let r := e.results c s
      Answers .latticeComplete s ((r.2.modCore c (fun k => { k with
        inflight := k.inflight.filter (fun o => o.seq != r.1.seq) })).recordEntry c r.1) ∧
      (e.use.unit = .movement → r = (e, s))) ∧
    (∀ w, (s.core c).inflight = e :: rest → e.finished = true → e.poke = some w → Answers .latticeComplete s
      ((e.writeCode c (s.ctxidOf c) w s).modCore c (fun k => k.putFlight { e with poke := none }))) ∧
    ((s.core c).inflight = e :: rest → e.finished = false → e.inChunk = true → e.supplied = true →
      Answers .latticeComplete s (s.advanceChunk c e false)) ∧
    ((s.core c).inflight = [] → (s.core c).lq = e :: rest → e.finished = true →
      Answers .latticeComplete s (s.modCore c (fun k => k.popHead { e with row := 0 }))) ∧
    ((s.core c).inflight = [] → (s.core c).lq = e :: rest → e.finished = false → e.inChunk = true → e.supplied = true →
      Answers .latticeComplete s (s.advanceChunk c e true)))

/-- R151, R152: every contender's accumulator gains its weight, held to its range; the highest wins, the lowest core among equals,
and the winner's loses the sum of the weights. A core that alone is eligible wins. -/
def Sys2Proof.Spec.GrantChoice : Prop :=
  (∀ (s : State) (cl c : Nat), (coresOf cl).filter s.eligible = [c] → (s.decideGrant cl).1 = some c) ∧
  (∀ (s t : State) (cl c : Nat), s.decideGrant cl = (some c, t) →
    let ws := s.contenders cl
    let total : Nat := (ws.map (fun p => p.2)).sum
    let gained := fun (p : Nat × Nat) => accHeld ((s.core p.1).acc + (p.2 : Int))
    ∃ w, (c, w) ∈ ws ∧ (∀ p ∈ ws, gained p ≤ gained (c, w) ∧ (gained p = gained (c, w) → c ≤ p.1)) ∧
      (t.core c).acc = accHeld (gained (c, w) - (total : Int)) ∧ (∀ p ∈ ws, p.1 ≠ c → (t.core p.1).acc = gained p))

/-- The cores and their lattice: `ContextSteps`, `LatticeSteps`, `GrantChoice`. -/
def Obligations.CoreEvents : Prop := ContextSteps ∧ LatticeSteps ∧ GrantChoice

/-- Packets: `PacketLife`, `PacketEffects`, `AdmitEffect`, `TaskStart`. -/
def Obligations.PacketEvents : Prop := PacketLife ∧ PacketEffects ∧ AdmitEffect ∧ TaskStart
end

