-- ==== Sys2Proof/Laws/Decode.lean ====
section
/-! SUPPORT. The decoder on the word that the encoder writes: the fields of a word, and one lemma per instruction. -/

namespace Sys2Proof.Laws

/-- An instruction that has a word is read back from it. An event of the device has none (its encoding is 0). -/
def Encoded.Statement (i : Instr) : Prop := i.wellFormed = true → encode i ≠ 0 → decode (encode i) = some i

/-- A word whose fixed bits are right is decoded when its instruction is well formed. -/
theorem decode_of (w : IWord) (i : Instr) (h : decodeRaw w = some i) (hw : i.wellFormed = true) : decode w = some i := by
  simp only [decode, h, hw, if_true]

/-- The decoder of major 0x01. -/
theorem decodeRaw_01 (w : IWord) (h : fldN w 26 6 = 0x01) : decodeRaw w = decode01 w := by
  simp only [decodeRaw, h, if_true, reduceIte, Nat.reduceEqDiff]

/-- The decoder of major 0x02. -/
theorem decodeRaw_02 (w : IWord) (h : fldN w 26 6 = 0x02) : decodeRaw w = decode02 w := by
  simp only [decodeRaw, h, if_true, reduceIte, Nat.reduceEqDiff]

/-- The decoder of major 0x03. -/
theorem decodeRaw_03 (w : IWord) (h : fldN w 26 6 = 0x03) : decodeRaw w = decode03 w := by
  simp only [decodeRaw, h, if_true, reduceIte, Nat.reduceEqDiff]

/-- The decoder of major 0x04. -/
theorem decodeRaw_04 (w : IWord) (h : fldN w 26 6 = 0x04) : decodeRaw w = decode04 w := by
  simp only [decodeRaw, h, if_true, reduceIte, Nat.reduceEqDiff]

/-- The decoder of major 0x05. -/
theorem decodeRaw_05 (w : IWord) (h : fldN w 26 6 = 0x05) : decodeRaw w = decode05 w := by
  simp only [decodeRaw, h, if_true, reduceIte, Nat.reduceEqDiff]

/-- The decoder of major 0x06. -/
theorem decodeRaw_06 (w : IWord) (h : fldN w 26 6 = 0x06) : decodeRaw w = decode06 w := by
  simp only [decodeRaw, h, if_true, reduceIte, Nat.reduceEqDiff]

/-- The decoder of major 0x07. -/
theorem decodeRaw_07 (w : IWord) (h : fldN w 26 6 = 0x07) : decodeRaw w = decode07 w := by
  simp only [decodeRaw, h, if_true, reduceIte, Nat.reduceEqDiff]

/-- The decoder of major 0x08. -/
theorem decodeRaw_08 (w : IWord) (h : fldN w 26 6 = 0x08) : decodeRaw w = decode08 w := by
  simp only [decodeRaw, h, if_true, reduceIte, Nat.reduceEqDiff]

/-- The decoder of major 0x09. -/
theorem decodeRaw_09 (w : IWord) (h : fldN w 26 6 = 0x09) : decodeRaw w = decode09 w := by
  simp only [decodeRaw, h, if_true, reduceIte, Nat.reduceEqDiff]

/-- The decoder of major 0x0A. -/
theorem decodeRaw_0A (w : IWord) (h : fldN w 26 6 = 0x0A) : decodeRaw w = decode0A w := by
  simp only [decodeRaw, h, if_true, reduceIte, Nat.reduceEqDiff]

/-- The decoder of major 0x0B. -/
theorem decodeRaw_0B (w : IWord) (h : fldN w 26 6 = 0x0B) : decodeRaw w = decode0B w := by
  simp only [decodeRaw, h, if_true, reduceIte, Nat.reduceEqDiff]

/-- The decoder of major 0x0C. -/
theorem decodeRaw_0C (w : IWord) (h : fldN w 26 6 = 0x0C) : decodeRaw w = decode0C w := by
  simp only [decodeRaw, h, if_true, reduceIte, Nat.reduceEqDiff]

/-- The decoder of major 0x0D. -/
theorem decodeRaw_0D (w : IWord) (h : fldN w 26 6 = 0x0D) : decodeRaw w = decode0D w := by
  simp only [decodeRaw, h, if_true, reduceIte, Nat.reduceEqDiff]

/-- The decoder of major 0x0E. -/
theorem decodeRaw_0E (w : IWord) (h : fldN w 26 6 = 0x0E) : decodeRaw w = decode0E w := by
  simp only [decodeRaw, h, if_true, reduceIte, Nat.reduceEqDiff]

/-- The decoder of major 0x0F. -/
theorem decodeRaw_0F (w : IWord) (h : fldN w 26 6 = 0x0F) : decodeRaw w = decode0F w := by
  simp only [decodeRaw, h, if_true, reduceIte, Nat.reduceEqDiff]

/-- The decoder of major 0x10. -/
theorem decodeRaw_10 (w : IWord) (h : fldN w 26 6 = 0x10) : decodeRaw w = decode10 w := by
  simp only [decodeRaw, h, if_true, reduceIte, Nat.reduceEqDiff]

/-- The decoder of major 0x11. -/
theorem decodeRaw_11 (w : IWord) (h : fldN w 26 6 = 0x11) : decodeRaw w = decode11 w := by
  simp only [decodeRaw, h, if_true, reduceIte, Nat.reduceEqDiff]

/-- The decoder of major 0x12. -/
theorem decodeRaw_12 (w : IWord) (h : fldN w 26 6 = 0x12) : decodeRaw w = decode12 w := by
  simp only [decodeRaw, h, if_true, reduceIte, Nat.reduceEqDiff]

/-- The decoder of major 0x13. -/
theorem decodeRaw_13 (w : IWord) (h : fldN w 26 6 = 0x13) : decodeRaw w = decode13 w := by
  simp only [decodeRaw, h, if_true, reduceIte, Nat.reduceEqDiff]

/-- The decoder of major 0x14. -/
theorem decodeRaw_14 (w : IWord) (h : fldN w 26 6 = 0x14) : decodeRaw w = decode14 w := by
  simp only [decodeRaw, h, if_true, reduceIte, Nat.reduceEqDiff]

/-- The decoder of major 0x15. -/
theorem decodeRaw_15 (w : IWord) (h : fldN w 26 6 = 0x15) : decodeRaw w = decode15 w := by
  simp only [decodeRaw, h, if_true, reduceIte, Nat.reduceEqDiff]

/-- The decoder of major 0x16. -/
theorem decodeRaw_16 (w : IWord) (h : fldN w 26 6 = 0x16) : decodeRaw w = decode16 w := by
  simp only [decodeRaw, h, if_true, reduceIte, Nat.reduceEqDiff]

/-- The decoder of major 0x17. -/
theorem decodeRaw_17 (w : IWord) (h : fldN w 26 6 = 0x17) : decodeRaw w = decode17 w := by
  simp only [decodeRaw, h, if_true, reduceIte, Nat.reduceEqDiff]

/-- The decoder of major 0x18. -/
theorem decodeRaw_18 (w : IWord) (h : fldN w 26 6 = 0x18) : decodeRaw w = decode18 w := by
  simp only [decodeRaw, h, if_true, reduceIte, Nat.reduceEqDiff]

/-- The decoder of major 0x19. -/
theorem decodeRaw_19 (w : IWord) (h : fldN w 26 6 = 0x19) : decodeRaw w = decode19 w := by
  simp only [decodeRaw, h, if_true, reduceIte, Nat.reduceEqDiff]

/-- The decoder of major 0x1A. -/
theorem decodeRaw_1A (w : IWord) (h : fldN w 26 6 = 0x1A) : decodeRaw w = decode1A w := by
  simp only [decodeRaw, h, if_true, reduceIte, Nat.reduceEqDiff]

/-- The decoder of major 0x1B. -/
theorem decodeRaw_1B (w : IWord) (h : fldN w 26 6 = 0x1B) : decodeRaw w = decode1B w := by
  simp only [decodeRaw, h, if_true, reduceIte, Nat.reduceEqDiff]

/-- The decoder of major 0x1C. -/
theorem decodeRaw_1C (w : IWord) (h : fldN w 26 6 = 0x1C) : decodeRaw w = decode1C w := by
  simp only [decodeRaw, h, if_true, reduceIte, Nat.reduceEqDiff]

/-- The decoder of major 0x1D. -/
theorem decodeRaw_1D (w : IWord) (h : fldN w 26 6 = 0x1D) : decodeRaw w = decode1D w := by
  simp only [decodeRaw, h, if_true, reduceIte, Nat.reduceEqDiff]

/-- The decoder of major 0x1E. -/
theorem decodeRaw_1E (w : IWord) (h : fldN w 26 6 = 0x1E) : decodeRaw w = decode1E w := by
  simp only [decodeRaw, h, if_true, reduceIte, Nat.reduceEqDiff]

/-- The decoder of major 0x1F. -/
theorem decodeRaw_1F (w : IWord) (h : fldN w 26 6 = 0x1F) : decodeRaw w = decode1F w := by
  simp only [decodeRaw, h, if_true, reduceIte, Nat.reduceEqDiff]

/-- The decoder of major 0x20. -/
theorem decodeRaw_20 (w : IWord) (h : fldN w 26 6 = 0x20) : decodeRaw w = decode20 w := by
  simp only [decodeRaw, h, if_true, reduceIte, Nat.reduceEqDiff]

/-- The decoder of major 0x21. -/
theorem decodeRaw_21 (w : IWord) (h : fldN w 26 6 = 0x21) : decodeRaw w = decode21 w := by
  simp only [decodeRaw, h, if_true, reduceIte, Nat.reduceEqDiff]

/-- The decoder of major 0x22. -/
theorem decodeRaw_22 (w : IWord) (h : fldN w 26 6 = 0x22) : decodeRaw w = decode22 w := by
  simp only [decodeRaw, h, if_true, reduceIte, Nat.reduceEqDiff]

/-- The decoder of major 0x23. -/
theorem decodeRaw_23 (w : IWord) (h : fldN w 26 6 = 0x23) : decodeRaw w = decode23 w := by
  simp only [decodeRaw, h, if_true, reduceIte, Nat.reduceEqDiff]

/-- The decoder of major 0x28. -/
theorem decodeRaw_28 (w : IWord) (h : fldN w 26 6 = 0x28) : decodeRaw w = decode28 w := by
  simp only [decodeRaw, h, if_true, reduceIte, Nat.reduceEqDiff]

/-- The decoder of major 0x29. -/
theorem decodeRaw_29 (w : IWord) (h : fldN w 26 6 = 0x29) : decodeRaw w = decode29 w := by
  simp only [decodeRaw, h, if_true, reduceIte, Nat.reduceEqDiff]

/-- The decoder of major 0x2A. -/
theorem decodeRaw_2A (w : IWord) (h : fldN w 26 6 = 0x2A) : decodeRaw w = decode2A w := by
  simp only [decodeRaw, h, if_true, reduceIte, Nat.reduceEqDiff]

/-- The decoder of major 0x2B. -/
theorem decodeRaw_2B (w : IWord) (h : fldN w 26 6 = 0x2B) : decodeRaw w = decode2B w := by
  simp only [decodeRaw, h, if_true, reduceIte, Nat.reduceEqDiff]

/-- The decoder of major 0x2C. -/
theorem decodeRaw_2C (w : IWord) (h : fldN w 26 6 = 0x2C) : decodeRaw w = decode2C w := by
  simp only [decodeRaw, h, if_true, reduceIte, Nat.reduceEqDiff]

/-- The decoder of major 0x2D. -/
theorem decodeRaw_2D (w : IWord) (h : fldN w 26 6 = 0x2D) : decodeRaw w = decode2D w := by
  simp only [decodeRaw, h, if_true, reduceIte, Nat.reduceEqDiff]

/-- The decoder of major 0x2E. -/
theorem decodeRaw_2E (w : IWord) (h : fldN w 26 6 = 0x2E) : decodeRaw w = decode2E w := by
  simp only [decodeRaw, h, if_true, reduceIte, Nat.reduceEqDiff]

/-- Where the fields of a word lie (layout 0). -/
theorem layout0 (m g : Nat) (hm : m < 64) (hf : g < 2048) (a : BitVec 5) (b : BitVec 5) (c : BitVec 5) :
    fldN (enc3 (m*2^26 + g*2^0) a 21 b 16 c 11) 26 6 = m ∧
    fldN (enc3 (m*2^26 + g*2^0) a 21 b 16 c 11) 0 11 = g ∧
    fld (enc3 (m*2^26 + g*2^0) a 21 b 16 c 11) 21 5 = a ∧
    fld (enc3 (m*2^26 + g*2^0) a 21 b 16 c 11) 16 5 = b ∧
    fld (enc3 (m*2^26 + g*2^0) a 21 b 16 c 11) 11 5 = c := by
  have lt_a := a.isLt
  have lt_b := b.isLt
  have lt_c := c.isLt
  have hx : m * 2 ^ 26 + g * 2 ^ 0 + a.toNat * 2 ^ 21 + b.toNat * 2 ^ 16 + c.toNat * 2 ^ 11 < 2 ^ 32 := by omega
  refine ⟨?_, ?_, ?_, ?_, ?_⟩
  all_goals try apply BitVec.eq_of_toNat_eq
  all_goals simp only [fldN, fld, enc3, BitVec.toNat_ofNat, Nat.mod_eq_of_lt hx]
  all_goals omega

/-- Where the fields of a word lie (layout 1). -/
theorem layout1 (m g : Nat) (hm : m < 64) (hf : g < 2048) (a : BitVec 5) (b : BitVec 5) :
    fldN (enc2 (m*2^26 + g*2^0) a 21 b 16) 26 6 = m ∧
    fldN (enc2 (m*2^26 + g*2^0) a 21 b 16) 0 11 = g ∧
    fldN (enc2 (m*2^26 + g*2^0) a 21 b 16) 11 5 = 0 ∧
    fld (enc2 (m*2^26 + g*2^0) a 21 b 16) 21 5 = a ∧
    fld (enc2 (m*2^26 + g*2^0) a 21 b 16) 16 5 = b := by
  have lt_a := a.isLt
  have lt_b := b.isLt
  have hx : m * 2 ^ 26 + g * 2 ^ 0 + a.toNat * 2 ^ 21 + b.toNat * 2 ^ 16 < 2 ^ 32 := by omega
  refine ⟨?_, ?_, ?_, ?_, ?_⟩
  all_goals try apply BitVec.eq_of_toNat_eq
  all_goals simp only [fldN, fld, enc2, BitVec.toNat_ofNat, Nat.mod_eq_of_lt hx]
  all_goals omega

/-- Where the fields of a word lie (layout 2). -/
theorem layout2 (m : Nat) (hm : m < 64) (a : BitVec 5) (b : BitVec 5) (c : BitVec 16) :
    fldN (enc3 (m*2^26) a 21 b 16 c 0) 26 6 = m ∧
    fld (enc3 (m*2^26) a 21 b 16 c 0) 21 5 = a ∧
    fld (enc3 (m*2^26) a 21 b 16 c 0) 16 5 = b ∧
    fld (enc3 (m*2^26) a 21 b 16 c 0) 0 16 = c := by
  have lt_a := a.isLt
  have lt_b := b.isLt
  have lt_c := c.isLt
  have hx : m * 2 ^ 26 + a.toNat * 2 ^ 21 + b.toNat * 2 ^ 16 + c.toNat * 2 ^ 0 < 2 ^ 32 := by omega
  refine ⟨?_, ?_, ?_, ?_⟩
  all_goals try apply BitVec.eq_of_toNat_eq
  all_goals simp only [fldN, fld, enc3, BitVec.toNat_ofNat, Nat.mod_eq_of_lt hx]
  all_goals omega

/-- Where the fields of a word lie (layout 3). -/
theorem layout3 (m g : Nat) (hm : m < 64) (hf : g < 4) (a : BitVec 5) (b : BitVec 5) (c : BitVec 6) :
    fldN (enc3 (m*2^26 + g*2^6) a 21 b 16 c 0) 26 6 = m ∧
    fldN (enc3 (m*2^26 + g*2^6) a 21 b 16 c 0) 6 2 = g ∧
    fldN (enc3 (m*2^26 + g*2^6) a 21 b 16 c 0) 8 8 = 0 ∧
    fld (enc3 (m*2^26 + g*2^6) a 21 b 16 c 0) 21 5 = a ∧
    fld (enc3 (m*2^26 + g*2^6) a 21 b 16 c 0) 16 5 = b ∧
    fld (enc3 (m*2^26 + g*2^6) a 21 b 16 c 0) 0 6 = c := by
  have lt_a := a.isLt
  have lt_b := b.isLt
  have lt_c := c.isLt
  have hx : m * 2 ^ 26 + g * 2 ^ 6 + a.toNat * 2 ^ 21 + b.toNat * 2 ^ 16 + c.toNat * 2 ^ 0 < 2 ^ 32 := by omega
  refine ⟨?_, ?_, ?_, ?_, ?_, ?_⟩
  all_goals try apply BitVec.eq_of_toNat_eq
  all_goals simp only [fldN, fld, enc3, BitVec.toNat_ofNat, Nat.mod_eq_of_lt hx]
  all_goals omega

/-- Where the fields of a word lie (layout 4). -/
theorem layout4 (m : Nat) (hm : m < 64) (a : BitVec 5) (b : BitVec 16) :
    fldN (enc2 (m*2^26) a 21 b 0) 26 6 = m ∧
    fldN (enc2 (m*2^26) a 21 b 0) 16 5 = 0 ∧
    fld (enc2 (m*2^26) a 21 b 0) 21 5 = a ∧
    fld (enc2 (m*2^26) a 21 b 0) 0 16 = b := by
  have lt_a := a.isLt
  have lt_b := b.isLt
  have hx : m * 2 ^ 26 + a.toNat * 2 ^ 21 + b.toNat * 2 ^ 0 < 2 ^ 32 := by omega
  refine ⟨?_, ?_, ?_, ?_⟩
  all_goals try apply BitVec.eq_of_toNat_eq
  all_goals simp only [fldN, fld, enc2, BitVec.toNat_ofNat, Nat.mod_eq_of_lt hx]
  all_goals omega

/-- Where the fields of a word lie (layout 5). -/
theorem layout5 (m : Nat) (hm : m < 64) (a : BitVec 5) (b : BitVec 2) (c : BitVec 16) :
    fldN (enc3 (m*2^26) a 21 b 16 c 0) 26 6 = m ∧
    fldN (enc3 (m*2^26) a 21 b 16 c 0) 18 3 = 0 ∧
    fld (enc3 (m*2^26) a 21 b 16 c 0) 21 5 = a ∧
    fld (enc3 (m*2^26) a 21 b 16 c 0) 16 2 = b ∧
    fld (enc3 (m*2^26) a 21 b 16 c 0) 0 16 = c := by
  have lt_a := a.isLt
  have lt_b := b.isLt
  have lt_c := c.isLt
  have hx : m * 2 ^ 26 + a.toNat * 2 ^ 21 + b.toNat * 2 ^ 16 + c.toNat * 2 ^ 0 < 2 ^ 32 := by omega
  refine ⟨?_, ?_, ?_, ?_, ?_⟩
  all_goals try apply BitVec.eq_of_toNat_eq
  all_goals simp only [fldN, fld, enc3, BitVec.toNat_ofNat, Nat.mod_eq_of_lt hx]
  all_goals omega

/-- Where the fields of a word lie (layout 6). -/
theorem layout6 (m g : Nat) (hm : m < 64) (hf : g < 8) (a : BitVec 5) (b : BitVec 5) (c : BitVec 4) (d : BitVec 9) :
    fldN (enc4 (m*2^26 + g*2^9) a 21 b 16 c 12 d 0) 26 6 = m ∧
    fldN (enc4 (m*2^26 + g*2^9) a 21 b 16 c 12 d 0) 9 3 = g ∧
    fld (enc4 (m*2^26 + g*2^9) a 21 b 16 c 12 d 0) 21 5 = a ∧
    fld (enc4 (m*2^26 + g*2^9) a 21 b 16 c 12 d 0) 16 5 = b ∧
    fld (enc4 (m*2^26 + g*2^9) a 21 b 16 c 12 d 0) 12 4 = c ∧
    fld (enc4 (m*2^26 + g*2^9) a 21 b 16 c 12 d 0) 0 9 = d := by
  have lt_a := a.isLt
  have lt_b := b.isLt
  have lt_c := c.isLt
  have lt_d := d.isLt
  have hx : m * 2 ^ 26 + g * 2 ^ 9 + a.toNat * 2 ^ 21 + b.toNat * 2 ^ 16 + c.toNat * 2 ^ 12 + d.toNat * 2 ^ 0 < 2 ^ 32 := by omega
  refine ⟨?_, ?_, ?_, ?_, ?_, ?_⟩
  all_goals try apply BitVec.eq_of_toNat_eq
  all_goals simp only [fldN, fld, enc4, BitVec.toNat_ofNat, Nat.mod_eq_of_lt hx]
  all_goals omega

/-- Where the fields of a word lie (layout 7). -/
theorem layout7 (m g : Nat) (hm : m < 64) (hf : g < 32) (a : BitVec 5) (b : BitVec 5) :
    fldN (enc2 (m*2^26 + g*2^0) a 21 b 16) 26 6 = m ∧
    fldN (enc2 (m*2^26 + g*2^0) a 21 b 16) 0 5 = g ∧
    fldN (enc2 (m*2^26 + g*2^0) a 21 b 16) 5 11 = 0 ∧
    fld (enc2 (m*2^26 + g*2^0) a 21 b 16) 21 5 = a ∧
    fld (enc2 (m*2^26 + g*2^0) a 21 b 16) 16 5 = b := by
  have lt_a := a.isLt
  have lt_b := b.isLt
  have hx : m * 2 ^ 26 + g * 2 ^ 0 + a.toNat * 2 ^ 21 + b.toNat * 2 ^ 16 < 2 ^ 32 := by omega
  refine ⟨?_, ?_, ?_, ?_, ?_⟩
  all_goals try apply BitVec.eq_of_toNat_eq
  all_goals simp only [fldN, fld, enc2, BitVec.toNat_ofNat, Nat.mod_eq_of_lt hx]
  all_goals omega

/-- Where the fields of a word lie (layout 8). -/
theorem layout8 (m g : Nat) (hm : m < 64) (hf : g < 32) (a : BitVec 5) (b : BitVec 5) (c : BitVec 5) (d : BitVec 4) :
    fldN (enc4 (m*2^26 + g*2^0) a 21 b 16 c 11 d 5) 26 6 = m ∧
    fldN (enc4 (m*2^26 + g*2^0) a 21 b 16 c 11 d 5) 0 5 = g ∧
    fldN (enc4 (m*2^26 + g*2^0) a 21 b 16 c 11 d 5) 9 2 = 0 ∧
    fld (enc4 (m*2^26 + g*2^0) a 21 b 16 c 11 d 5) 21 5 = a ∧
    fld (enc4 (m*2^26 + g*2^0) a 21 b 16 c 11 d 5) 16 5 = b ∧
    fld (enc4 (m*2^26 + g*2^0) a 21 b 16 c 11 d 5) 11 5 = c ∧
    fld (enc4 (m*2^26 + g*2^0) a 21 b 16 c 11 d 5) 5 4 = d := by
  have lt_a := a.isLt
  have lt_b := b.isLt
  have lt_c := c.isLt
  have lt_d := d.isLt
  have hx : m * 2 ^ 26 + g * 2 ^ 0 + a.toNat * 2 ^ 21 + b.toNat * 2 ^ 16 + c.toNat * 2 ^ 11 + d.toNat * 2 ^ 5 < 2 ^ 32 := by omega
  refine ⟨?_, ?_, ?_, ?_, ?_, ?_, ?_⟩
  all_goals try apply BitVec.eq_of_toNat_eq
  all_goals simp only [fldN, fld, enc4, BitVec.toNat_ofNat, Nat.mod_eq_of_lt hx]
  all_goals omega

/-- Where the fields of a word lie (layout 9). -/
theorem layout9 (m g : Nat) (hm : m < 64) (hf : g < 32) (a : BitVec 5) (b : BitVec 5) (c : BitVec 5) :
    fldN (enc3 (m*2^26 + g*2^0) a 21 b 16 c 11) 26 6 = m ∧
    fldN (enc3 (m*2^26 + g*2^0) a 21 b 16 c 11) 0 5 = g ∧
    fldN (enc3 (m*2^26 + g*2^0) a 21 b 16 c 11) 5 6 = 0 ∧
    fld (enc3 (m*2^26 + g*2^0) a 21 b 16 c 11) 21 5 = a ∧
    fld (enc3 (m*2^26 + g*2^0) a 21 b 16 c 11) 16 5 = b ∧
    fld (enc3 (m*2^26 + g*2^0) a 21 b 16 c 11) 11 5 = c := by
  have lt_a := a.isLt
  have lt_b := b.isLt
  have lt_c := c.isLt
  have hx : m * 2 ^ 26 + g * 2 ^ 0 + a.toNat * 2 ^ 21 + b.toNat * 2 ^ 16 + c.toNat * 2 ^ 11 < 2 ^ 32 := by omega
  refine ⟨?_, ?_, ?_, ?_, ?_, ?_⟩
  all_goals try apply BitVec.eq_of_toNat_eq
  all_goals simp only [fldN, fld, enc3, BitVec.toNat_ofNat, Nat.mod_eq_of_lt hx]
  all_goals omega

/-- Where the fields of a word lie (layout 10). -/
theorem layout10 (m g : Nat) (hm : m < 64) (hf : g < 32) (a : BitVec 5) :
    fldN (enc1 (m*2^26 + g*2^0) a 16) 26 6 = m ∧
    fldN (enc1 (m*2^26 + g*2^0) a 16) 0 5 = g ∧
    fldN (enc1 (m*2^26 + g*2^0) a 16) 5 11 = 0 ∧
    fldN (enc1 (m*2^26 + g*2^0) a 16) 21 5 = 0 ∧
    fld (enc1 (m*2^26 + g*2^0) a 16) 16 5 = a := by
  have lt_a := a.isLt
  have hx : m * 2 ^ 26 + g * 2 ^ 0 + a.toNat * 2 ^ 16 < 2 ^ 32 := by omega
  refine ⟨?_, ?_, ?_, ?_, ?_⟩
  all_goals try apply BitVec.eq_of_toNat_eq
  all_goals simp only [fldN, fld, enc1, BitVec.toNat_ofNat, Nat.mod_eq_of_lt hx]
  all_goals omega

/-- Where the fields of a word lie (layout 11). -/
theorem layout11 (m g : Nat) (hm : m < 64) (hf : g < 32 ∧ g % 2 = 0) (a : BitVec 5) (b : BitVec 5) (c : BitVec 5) (d : BitVec 4) (e : BitVec 2) (f : BitVec 1) :
    fldN (enc6 (m*2^26 + g*2^0) a 21 b 16 c 11 d 7 e 5 f 0) 26 6 = m ∧
    fldN (enc6 (m*2^26 + g*2^0) a 21 b 16 c 11 d 7 e 5 f 0) 0 5 = g + f.toNat ∧
    fld (enc6 (m*2^26 + g*2^0) a 21 b 16 c 11 d 7 e 5 f 0) 21 5 = a ∧
    fld (enc6 (m*2^26 + g*2^0) a 21 b 16 c 11 d 7 e 5 f 0) 16 5 = b ∧
    fld (enc6 (m*2^26 + g*2^0) a 21 b 16 c 11 d 7 e 5 f 0) 11 5 = c ∧
    fld (enc6 (m*2^26 + g*2^0) a 21 b 16 c 11 d 7 e 5 f 0) 7 4 = d ∧
    fld (enc6 (m*2^26 + g*2^0) a 21 b 16 c 11 d 7 e 5 f 0) 5 2 = e ∧
    fld (enc6 (m*2^26 + g*2^0) a 21 b 16 c 11 d 7 e 5 f 0) 0 1 = f := by
  have lt_a := a.isLt
  have lt_b := b.isLt
  have lt_c := c.isLt
  have lt_d := d.isLt
  have lt_e := e.isLt
  have lt_f := f.isLt
  have hx : m * 2 ^ 26 + g * 2 ^ 0 + a.toNat * 2 ^ 21 + b.toNat * 2 ^ 16 + c.toNat * 2 ^ 11 + d.toNat * 2 ^ 7 + e.toNat * 2 ^ 5 + f.toNat * 2 ^ 0 < 2 ^ 32 := by omega
  refine ⟨?_, ?_, ?_, ?_, ?_, ?_, ?_, ?_⟩
  all_goals try apply BitVec.eq_of_toNat_eq
  all_goals simp only [fldN, fld, enc6, BitVec.toNat_ofNat, Nat.mod_eq_of_lt hx]
  all_goals omega

/-- Where the fields of a word lie (layout 12). -/
theorem layout12 (m g : Nat) (hm : m < 64) (hf : g < 32) (a : BitVec 5) (b : BitVec 5) (c : BitVec 5) (d : BitVec 4) (e : BitVec 2) :
    fldN (enc5 (m*2^26 + g*2^0) a 21 b 16 c 11 d 7 e 5) 26 6 = m ∧
    fldN (enc5 (m*2^26 + g*2^0) a 21 b 16 c 11 d 7 e 5) 0 5 = g ∧
    fld (enc5 (m*2^26 + g*2^0) a 21 b 16 c 11 d 7 e 5) 21 5 = a ∧
    fld (enc5 (m*2^26 + g*2^0) a 21 b 16 c 11 d 7 e 5) 16 5 = b ∧
    fld (enc5 (m*2^26 + g*2^0) a 21 b 16 c 11 d 7 e 5) 11 5 = c ∧
    fld (enc5 (m*2^26 + g*2^0) a 21 b 16 c 11 d 7 e 5) 7 4 = d ∧
    fld (enc5 (m*2^26 + g*2^0) a 21 b 16 c 11 d 7 e 5) 5 2 = e := by
  have lt_a := a.isLt
  have lt_b := b.isLt
  have lt_c := c.isLt
  have lt_d := d.isLt
  have lt_e := e.isLt
  have hx : m * 2 ^ 26 + g * 2 ^ 0 + a.toNat * 2 ^ 21 + b.toNat * 2 ^ 16 + c.toNat * 2 ^ 11 + d.toNat * 2 ^ 7 + e.toNat * 2 ^ 5 < 2 ^ 32 := by omega
  refine ⟨?_, ?_, ?_, ?_, ?_, ?_, ?_⟩
  all_goals try apply BitVec.eq_of_toNat_eq
  all_goals simp only [fldN, fld, enc5, BitVec.toNat_ofNat, Nat.mod_eq_of_lt hx]
  all_goals omega

/-- Where the fields of a word lie (layout 13). -/
theorem layout13 (m g : Nat) (hm : m < 64) (hf : g < 32 ∧ g % 2 = 0) (a : BitVec 5) (b : BitVec 5) (c : BitVec 4) (d : BitVec 1) (e : BitVec 1) :
    fldN (enc5 (m*2^26 + g*2^0) a 16 b 11 c 7 d 6 e 0) 26 6 = m ∧
    fldN (enc5 (m*2^26 + g*2^0) a 16 b 11 c 7 d 6 e 0) 0 5 = g + e.toNat ∧
    fldN (enc5 (m*2^26 + g*2^0) a 16 b 11 c 7 d 6 e 0) 5 1 = 0 ∧
    fldN (enc5 (m*2^26 + g*2^0) a 16 b 11 c 7 d 6 e 0) 21 5 = 0 ∧
    fld (enc5 (m*2^26 + g*2^0) a 16 b 11 c 7 d 6 e 0) 16 5 = a ∧
    fld (enc5 (m*2^26 + g*2^0) a 16 b 11 c 7 d 6 e 0) 11 5 = b ∧
    fld (enc5 (m*2^26 + g*2^0) a 16 b 11 c 7 d 6 e 0) 7 4 = c ∧
    fld (enc5 (m*2^26 + g*2^0) a 16 b 11 c 7 d 6 e 0) 6 1 = d ∧
    fld (enc5 (m*2^26 + g*2^0) a 16 b 11 c 7 d 6 e 0) 0 1 = e := by
  have lt_a := a.isLt
  have lt_b := b.isLt
  have lt_c := c.isLt
  have lt_d := d.isLt
  have lt_e := e.isLt
  have hx : m * 2 ^ 26 + g * 2 ^ 0 + a.toNat * 2 ^ 16 + b.toNat * 2 ^ 11 + c.toNat * 2 ^ 7 + d.toNat * 2 ^ 6 + e.toNat * 2 ^ 0 < 2 ^ 32 := by omega
  refine ⟨?_, ?_, ?_, ?_, ?_, ?_, ?_, ?_, ?_⟩
  all_goals try apply BitVec.eq_of_toNat_eq
  all_goals simp only [fldN, fld, enc5, BitVec.toNat_ofNat, Nat.mod_eq_of_lt hx]
  all_goals omega

/-- Where the fields of a word lie (layout 14). -/
theorem layout14 (m g : Nat) (hm : m < 64) (hf : g < 32) (a : BitVec 5) (b : BitVec 5) (c : BitVec 4) (d : BitVec 1) :
    fldN (enc4 (m*2^26 + g*2^0) a 16 b 11 c 7 d 6) 26 6 = m ∧
    fldN (enc4 (m*2^26 + g*2^0) a 16 b 11 c 7 d 6) 0 5 = g ∧
    fldN (enc4 (m*2^26 + g*2^0) a 16 b 11 c 7 d 6) 5 1 = 0 ∧
    fldN (enc4 (m*2^26 + g*2^0) a 16 b 11 c 7 d 6) 21 5 = 0 ∧
    fld (enc4 (m*2^26 + g*2^0) a 16 b 11 c 7 d 6) 16 5 = a ∧
    fld (enc4 (m*2^26 + g*2^0) a 16 b 11 c 7 d 6) 11 5 = b ∧
    fld (enc4 (m*2^26 + g*2^0) a 16 b 11 c 7 d 6) 7 4 = c ∧
    fld (enc4 (m*2^26 + g*2^0) a 16 b 11 c 7 d 6) 6 1 = d := by
  have lt_a := a.isLt
  have lt_b := b.isLt
  have lt_c := c.isLt
  have lt_d := d.isLt
  have hx : m * 2 ^ 26 + g * 2 ^ 0 + a.toNat * 2 ^ 16 + b.toNat * 2 ^ 11 + c.toNat * 2 ^ 7 + d.toNat * 2 ^ 6 < 2 ^ 32 := by omega
  refine ⟨?_, ?_, ?_, ?_, ?_, ?_, ?_, ?_⟩
  all_goals try apply BitVec.eq_of_toNat_eq
  all_goals simp only [fldN, fld, enc4, BitVec.toNat_ofNat, Nat.mod_eq_of_lt hx]
  all_goals omega

/-- Where the fields of a word lie (layout 15). -/
theorem layout15 (m g : Nat) (hm : m < 64) (hf : g < 2) (a : BitVec 16) :
    fldN (enc1 (m*2^26 + g*2^25) a 0) 26 6 = m ∧
    fldN (enc1 (m*2^26 + g*2^25) a 0) 25 1 = g ∧
    fldN (enc1 (m*2^26 + g*2^25) a 0) 16 9 = 0 ∧
    fld (enc1 (m*2^26 + g*2^25) a 0) 0 16 = a := by
  have lt_a := a.isLt
  have hx : m * 2 ^ 26 + g * 2 ^ 25 + a.toNat * 2 ^ 0 < 2 ^ 32 := by omega
  refine ⟨?_, ?_, ?_, ?_⟩
  all_goals try apply BitVec.eq_of_toNat_eq
  all_goals simp only [fldN, fld, enc1, BitVec.toNat_ofNat, Nat.mod_eq_of_lt hx]
  all_goals omega

/-- Where the fields of a word lie (layout 16). -/
theorem layout16 (m : Nat) (hm : m < 64) (a : BitVec 5) (b : BitVec 6) (c : BitVec 15) :
    fldN (enc3 (m*2^26) a 21 b 15 c 0) 26 6 = m ∧
    fld (enc3 (m*2^26) a 21 b 15 c 0) 21 5 = a ∧
    fld (enc3 (m*2^26) a 21 b 15 c 0) 15 6 = b ∧
    fld (enc3 (m*2^26) a 21 b 15 c 0) 0 15 = c := by
  have lt_a := a.isLt
  have lt_b := b.isLt
  have lt_c := c.isLt
  have hx : m * 2 ^ 26 + a.toNat * 2 ^ 21 + b.toNat * 2 ^ 15 + c.toNat * 2 ^ 0 < 2 ^ 32 := by omega
  refine ⟨?_, ?_, ?_, ?_⟩
  all_goals try apply BitVec.eq_of_toNat_eq
  all_goals simp only [fldN, fld, enc3, BitVec.toNat_ofNat, Nat.mod_eq_of_lt hx]
  all_goals omega

/-- Where the fields of a word lie (layout 17). -/
theorem layout17 (m : Nat) (hm : m < 64) (a : BitVec 26) :
    fldN (enc1 (m*2^26) a 0) 26 6 = m ∧
    fld (enc1 (m*2^26) a 0) 0 26 = a := by
  have lt_a := a.isLt
  have hx : m * 2 ^ 26 + a.toNat * 2 ^ 0 < 2 ^ 32 := by omega
  refine ⟨?_, ?_⟩
  all_goals try apply BitVec.eq_of_toNat_eq
  all_goals simp only [fldN, fld, enc1, BitVec.toNat_ofNat, Nat.mod_eq_of_lt hx]
  all_goals omega

/-- Where the fields of a word lie (layout 18). -/
theorem layout18 (m g : Nat) (hm : m < 64) (hf : g < 2048) (a : BitVec 5) :
    fldN (enc1 (m*2^26 + g*2^0) a 16) 26 6 = m ∧
    fldN (enc1 (m*2^26 + g*2^0) a 16) 0 11 = g ∧
    fldN (enc1 (m*2^26 + g*2^0) a 16) 11 5 = 0 ∧
    fldN (enc1 (m*2^26 + g*2^0) a 16) 21 5 = 0 ∧
    fld (enc1 (m*2^26 + g*2^0) a 16) 16 5 = a := by
  have lt_a := a.isLt
  have hx : m * 2 ^ 26 + g * 2 ^ 0 + a.toNat * 2 ^ 16 < 2 ^ 32 := by omega
  refine ⟨?_, ?_, ?_, ?_, ?_⟩
  all_goals try apply BitVec.eq_of_toNat_eq
  all_goals simp only [fldN, fld, enc1, BitVec.toNat_ofNat, Nat.mod_eq_of_lt hx]
  all_goals omega

/-- Where the fields of a word lie (layout 19). -/
theorem layout19 (m g : Nat) (hm : m < 64) (hf : g < 32) :
    fldN (enc0 (m*2^26 + g*2^0)) 26 6 = m ∧
    fldN (enc0 (m*2^26 + g*2^0)) 0 5 = g ∧
    fldN (enc0 (m*2^26 + g*2^0)) 5 21 = 0 := by
  have hx : m * 2 ^ 26 + g * 2 ^ 0 < 2 ^ 32 := by omega
  refine ⟨?_, ?_, ?_⟩
  all_goals simp only [fldN, enc0, BitVec.toNat_ofNat, Nat.mod_eq_of_lt hx]
  all_goals omega

/-- Where the fields of a word lie (layout 20). -/
theorem layout20 (m g : Nat) (hm : m < 64) (hf : g < 32) (a : BitVec 5) (b : BitVec 5) :
    fldN (enc2 (m*2^26 + g*2^0) a 16 b 11) 26 6 = m ∧
    fldN (enc2 (m*2^26 + g*2^0) a 16 b 11) 0 5 = g ∧
    fldN (enc2 (m*2^26 + g*2^0) a 16 b 11) 5 6 = 0 ∧
    fldN (enc2 (m*2^26 + g*2^0) a 16 b 11) 21 5 = 0 ∧
    fld (enc2 (m*2^26 + g*2^0) a 16 b 11) 16 5 = a ∧
    fld (enc2 (m*2^26 + g*2^0) a 16 b 11) 11 5 = b := by
  have lt_a := a.isLt
  have lt_b := b.isLt
  have hx : m * 2 ^ 26 + g * 2 ^ 0 + a.toNat * 2 ^ 16 + b.toNat * 2 ^ 11 < 2 ^ 32 := by omega
  refine ⟨?_, ?_, ?_, ?_, ?_, ?_⟩
  all_goals try apply BitVec.eq_of_toNat_eq
  all_goals simp only [fldN, fld, enc2, BitVec.toNat_ofNat, Nat.mod_eq_of_lt hx]
  all_goals omega

/-- Where the fields of a word lie (layout 21). -/
theorem layout21 (m g : Nat) (hm : m < 64) (hf : g < 32) (a : BitVec 5) (b : BitVec 5) (c : BitVec 4) :
    fldN (enc3 (m*2^26 + g*2^0 + 512) a 21 b 11 c 5) 26 6 = m ∧
    fldN (enc3 (m*2^26 + g*2^0 + 512) a 21 b 11 c 5) 0 5 = g ∧
    fldN (enc3 (m*2^26 + g*2^0 + 512) a 21 b 11 c 5) 9 2 = 1 ∧
    fldN (enc3 (m*2^26 + g*2^0 + 512) a 21 b 11 c 5) 16 5 = 0 ∧
    fld (enc3 (m*2^26 + g*2^0 + 512) a 21 b 11 c 5) 21 5 = a ∧
    fld (enc3 (m*2^26 + g*2^0 + 512) a 21 b 11 c 5) 11 5 = b ∧
    fld (enc3 (m*2^26 + g*2^0 + 512) a 21 b 11 c 5) 5 4 = c := by
  have lt_a := a.isLt
  have lt_b := b.isLt
  have lt_c := c.isLt
  have hx : m * 2 ^ 26 + g * 2 ^ 0 + 512 + a.toNat * 2 ^ 21 + b.toNat * 2 ^ 11 + c.toNat * 2 ^ 5 < 2 ^ 32 := by omega
  refine ⟨?_, ?_, ?_, ?_, ?_, ?_, ?_⟩
  all_goals try apply BitVec.eq_of_toNat_eq
  all_goals simp only [fldN, fld, enc3, BitVec.toNat_ofNat, Nat.mod_eq_of_lt hx]
  all_goals omega

/-- Where the fields of a word lie (layout 22). -/
theorem layout22 (m g : Nat) (hm : m < 64) (hf : g < 32) (a : BitVec 5) (b : BitVec 4) :
    fldN (enc2 (m*2^26 + g*2^0) a 16 b 5) 26 6 = m ∧
    fldN (enc2 (m*2^26 + g*2^0) a 16 b 5) 0 5 = g ∧
    fldN (enc2 (m*2^26 + g*2^0) a 16 b 5) 9 7 = 0 ∧
    fldN (enc2 (m*2^26 + g*2^0) a 16 b 5) 21 5 = 0 ∧
    fld (enc2 (m*2^26 + g*2^0) a 16 b 5) 16 5 = a ∧
    fld (enc2 (m*2^26 + g*2^0) a 16 b 5) 5 4 = b := by
  have lt_a := a.isLt
  have lt_b := b.isLt
  have hx : m * 2 ^ 26 + g * 2 ^ 0 + a.toNat * 2 ^ 16 + b.toNat * 2 ^ 5 < 2 ^ 32 := by omega
  refine ⟨?_, ?_, ?_, ?_, ?_, ?_⟩
  all_goals try apply BitVec.eq_of_toNat_eq
  all_goals simp only [fldN, fld, enc2, BitVec.toNat_ofNat, Nat.mod_eq_of_lt hx]
  all_goals omega

/-- Where the fields of a word lie (layout 23). -/
theorem layout23 (m g : Nat) (hm : m < 64) (hf : g < 32) (a : BitVec 5) (b : BitVec 1) (c : BitVec 4) :
    fldN (enc3 (m*2^26 + g*2^0) a 16 b 9 c 5) 26 6 = m ∧
    fldN (enc3 (m*2^26 + g*2^0) a 16 b 9 c 5) 0 5 = g ∧
    fldN (enc3 (m*2^26 + g*2^0) a 16 b 9 c 5) 10 6 = 0 ∧
    fldN (enc3 (m*2^26 + g*2^0) a 16 b 9 c 5) 21 5 = 0 ∧
    fld (enc3 (m*2^26 + g*2^0) a 16 b 9 c 5) 16 5 = a ∧
    fld (enc3 (m*2^26 + g*2^0) a 16 b 9 c 5) 9 1 = b ∧
    fld (enc3 (m*2^26 + g*2^0) a 16 b 9 c 5) 5 4 = c := by
  have lt_a := a.isLt
  have lt_b := b.isLt
  have lt_c := c.isLt
  have hx : m * 2 ^ 26 + g * 2 ^ 0 + a.toNat * 2 ^ 16 + b.toNat * 2 ^ 9 + c.toNat * 2 ^ 5 < 2 ^ 32 := by omega
  refine ⟨?_, ?_, ?_, ?_, ?_, ?_, ?_⟩
  all_goals try apply BitVec.eq_of_toNat_eq
  all_goals simp only [fldN, fld, enc3, BitVec.toNat_ofNat, Nat.mod_eq_of_lt hx]
  all_goals omega

/-- Where the fields of a word lie (layout 24). -/
theorem layout24 (m g : Nat) (hm : m < 64) (hf : g < 32) (a : BitVec 5) (b : BitVec 5) (c : BitVec 4) :
    fldN (enc3 (m*2^26 + g*2^0) a 16 b 11 c 5) 26 6 = m ∧
    fldN (enc3 (m*2^26 + g*2^0) a 16 b 11 c 5) 0 5 = g ∧
    fldN (enc3 (m*2^26 + g*2^0) a 16 b 11 c 5) 9 2 = 0 ∧
    fldN (enc3 (m*2^26 + g*2^0) a 16 b 11 c 5) 21 5 = 0 ∧
    fld (enc3 (m*2^26 + g*2^0) a 16 b 11 c 5) 16 5 = a ∧
    fld (enc3 (m*2^26 + g*2^0) a 16 b 11 c 5) 11 5 = b ∧
    fld (enc3 (m*2^26 + g*2^0) a 16 b 11 c 5) 5 4 = c := by
  have lt_a := a.isLt
  have lt_b := b.isLt
  have lt_c := c.isLt
  have hx : m * 2 ^ 26 + g * 2 ^ 0 + a.toNat * 2 ^ 16 + b.toNat * 2 ^ 11 + c.toNat * 2 ^ 5 < 2 ^ 32 := by omega
  refine ⟨?_, ?_, ?_, ?_, ?_, ?_, ?_⟩
  all_goals try apply BitVec.eq_of_toNat_eq
  all_goals simp only [fldN, fld, enc3, BitVec.toNat_ofNat, Nat.mod_eq_of_lt hx]
  all_goals omega

/-- Where the fields of a word lie (layout 25). -/
theorem layout25 (m g : Nat) (hm : m < 64) (hf : g < 32) (a : BitVec 5) (b : BitVec 5) (c : BitVec 4) :
    fldN (enc3 (m*2^26 + g*2^0) a 21 b 16 c 5) 26 6 = m ∧
    fldN (enc3 (m*2^26 + g*2^0) a 21 b 16 c 5) 0 5 = g ∧
    fldN (enc3 (m*2^26 + g*2^0) a 21 b 16 c 5) 9 7 = 0 ∧
    fld (enc3 (m*2^26 + g*2^0) a 21 b 16 c 5) 21 5 = a ∧
    fld (enc3 (m*2^26 + g*2^0) a 21 b 16 c 5) 16 5 = b ∧
    fld (enc3 (m*2^26 + g*2^0) a 21 b 16 c 5) 5 4 = c := by
  have lt_a := a.isLt
  have lt_b := b.isLt
  have lt_c := c.isLt
  have hx : m * 2 ^ 26 + g * 2 ^ 0 + a.toNat * 2 ^ 21 + b.toNat * 2 ^ 16 + c.toNat * 2 ^ 5 < 2 ^ 32 := by omega
  refine ⟨?_, ?_, ?_, ?_, ?_, ?_⟩
  all_goals try apply BitVec.eq_of_toNat_eq
  all_goals simp only [fldN, fld, enc3, BitVec.toNat_ofNat, Nat.mod_eq_of_lt hx]
  all_goals omega

/-- Where the fields of a word lie (layout 26). -/
theorem layout26 (m g : Nat) (hm : m < 64) (hf : g < 32) (a : BitVec 5) (b : BitVec 4) :
    fldN (enc2 (m*2^26 + g*2^0) a 21 b 5) 26 6 = m ∧
    fldN (enc2 (m*2^26 + g*2^0) a 21 b 5) 0 5 = g ∧
    fldN (enc2 (m*2^26 + g*2^0) a 21 b 5) 9 12 = 0 ∧
    fld (enc2 (m*2^26 + g*2^0) a 21 b 5) 21 5 = a ∧
    fld (enc2 (m*2^26 + g*2^0) a 21 b 5) 5 4 = b := by
  have lt_a := a.isLt
  have lt_b := b.isLt
  have hx : m * 2 ^ 26 + g * 2 ^ 0 + a.toNat * 2 ^ 21 + b.toNat * 2 ^ 5 < 2 ^ 32 := by omega
  refine ⟨?_, ?_, ?_, ?_, ?_⟩
  all_goals try apply BitVec.eq_of_toNat_eq
  all_goals simp only [fldN, fld, enc2, BitVec.toNat_ofNat, Nat.mod_eq_of_lt hx]
  all_goals omega

/-- Where the fields of a word lie (layout 27). -/
theorem layout27 (m g : Nat) (hm : m < 64) (hf : g < 32) (a : BitVec 5) (b : BitVec 2) (c : BitVec 4) :
    fldN (enc3 (m*2^26 + g*2^0) a 21 b 9 c 5) 26 6 = m ∧
    fldN (enc3 (m*2^26 + g*2^0) a 21 b 9 c 5) 0 5 = g ∧
    fldN (enc3 (m*2^26 + g*2^0) a 21 b 9 c 5) 11 10 = 0 ∧
    fld (enc3 (m*2^26 + g*2^0) a 21 b 9 c 5) 21 5 = a ∧
    fld (enc3 (m*2^26 + g*2^0) a 21 b 9 c 5) 9 2 = b ∧
    fld (enc3 (m*2^26 + g*2^0) a 21 b 9 c 5) 5 4 = c := by
  have lt_a := a.isLt
  have lt_b := b.isLt
  have lt_c := c.isLt
  have hx : m * 2 ^ 26 + g * 2 ^ 0 + a.toNat * 2 ^ 21 + b.toNat * 2 ^ 9 + c.toNat * 2 ^ 5 < 2 ^ 32 := by omega
  refine ⟨?_, ?_, ?_, ?_, ?_, ?_⟩
  all_goals try apply BitVec.eq_of_toNat_eq
  all_goals simp only [fldN, fld, enc3, BitVec.toNat_ofNat, Nat.mod_eq_of_lt hx]
  all_goals omega

/-- Where the fields of a word lie (layout 28). -/
theorem layout28 (m g : Nat) (hm : m < 64) (hf : g < 32) (a : BitVec 5) (b : BitVec 11) :
    fldN (enc2 (m*2^26 + g*2^0) a 21 b 5) 26 6 = m ∧
    fldN (enc2 (m*2^26 + g*2^0) a 21 b 5) 0 5 = g ∧
    fldN (enc2 (m*2^26 + g*2^0) a 21 b 5) 16 5 = 0 ∧
    fld (enc2 (m*2^26 + g*2^0) a 21 b 5) 21 5 = a ∧
    fld (enc2 (m*2^26 + g*2^0) a 21 b 5) 5 11 = b := by
  have lt_a := a.isLt
  have lt_b := b.isLt
  have hx : m * 2 ^ 26 + g * 2 ^ 0 + a.toNat * 2 ^ 21 + b.toNat * 2 ^ 5 < 2 ^ 32 := by omega
  refine ⟨?_, ?_, ?_, ?_, ?_⟩
  all_goals try apply BitVec.eq_of_toNat_eq
  all_goals simp only [fldN, fld, enc2, BitVec.toNat_ofNat, Nat.mod_eq_of_lt hx]
  all_goals omega

/-- Where the fields of a word lie (layout 29). -/
theorem layout29 (m g : Nat) (hm : m < 64) (hf : g < 32) (a : BitVec 5) (b : BitVec 11) :
    fldN (enc2 (m*2^26 + g*2^0) a 16 b 5) 26 6 = m ∧
    fldN (enc2 (m*2^26 + g*2^0) a 16 b 5) 0 5 = g ∧
    fldN (enc2 (m*2^26 + g*2^0) a 16 b 5) 21 5 = 0 ∧
    fld (enc2 (m*2^26 + g*2^0) a 16 b 5) 16 5 = a ∧
    fld (enc2 (m*2^26 + g*2^0) a 16 b 5) 5 11 = b := by
  have lt_a := a.isLt
  have lt_b := b.isLt
  have hx : m * 2 ^ 26 + g * 2 ^ 0 + a.toNat * 2 ^ 16 + b.toNat * 2 ^ 5 < 2 ^ 32 := by omega
  refine ⟨?_, ?_, ?_, ?_, ?_⟩
  all_goals try apply BitVec.eq_of_toNat_eq
  all_goals simp only [fldN, fld, enc2, BitVec.toNat_ofNat, Nat.mod_eq_of_lt hx]
  all_goals omega

/-- Where the fields of a word lie (layout 30). -/
theorem layout30 (m g : Nat) (hm : m < 64) (hf : g < 32) (a : BitVec 6) :
    fldN (enc1 (m*2^26 + g*2^0) a 5) 26 6 = m ∧
    fldN (enc1 (m*2^26 + g*2^0) a 5) 0 5 = g ∧
    fldN (enc1 (m*2^26 + g*2^0) a 5) 11 15 = 0 ∧
    fld (enc1 (m*2^26 + g*2^0) a 5) 5 6 = a := by
  have lt_a := a.isLt
  have hx : m * 2 ^ 26 + g * 2 ^ 0 + a.toNat * 2 ^ 5 < 2 ^ 32 := by omega
  refine ⟨?_, ?_, ?_, ?_⟩
  all_goals try apply BitVec.eq_of_toNat_eq
  all_goals simp only [fldN, fld, enc1, BitVec.toNat_ofNat, Nat.mod_eq_of_lt hx]
  all_goals omega

/-- Where the fields of a word lie (layout 31). -/
theorem layout31 (m g : Nat) (hm : m < 64) (hf : g < 128) (a : BitVec 3) (b : BitVec 4) (c : BitVec 5) (d : BitVec 5) :
    fldN (enc4 (m*2^26 + g*2^0) a 23 b 19 c 12 d 7) 26 6 = m ∧
    fldN (enc4 (m*2^26 + g*2^0) a 23 b 19 c 12 d 7) 0 7 = g ∧
    fldN (enc4 (m*2^26 + g*2^0) a 23 b 19 c 12 d 7) 17 2 = 0 ∧
    fld (enc4 (m*2^26 + g*2^0) a 23 b 19 c 12 d 7) 23 3 = a ∧
    fld (enc4 (m*2^26 + g*2^0) a 23 b 19 c 12 d 7) 19 4 = b ∧
    fld (enc4 (m*2^26 + g*2^0) a 23 b 19 c 12 d 7) 12 5 = c ∧
    fld (enc4 (m*2^26 + g*2^0) a 23 b 19 c 12 d 7) 7 5 = d := by
  have lt_a := a.isLt
  have lt_b := b.isLt
  have lt_c := c.isLt
  have lt_d := d.isLt
  have hx : m * 2 ^ 26 + g * 2 ^ 0 + a.toNat * 2 ^ 23 + b.toNat * 2 ^ 19 + c.toNat * 2 ^ 12 + d.toNat * 2 ^ 7 < 2 ^ 32 := by omega
  refine ⟨?_, ?_, ?_, ?_, ?_, ?_, ?_⟩
  all_goals try apply BitVec.eq_of_toNat_eq
  all_goals simp only [fldN, fld, enc4, BitVec.toNat_ofNat, Nat.mod_eq_of_lt hx]
  all_goals omega

/-- Where the fields of a word lie (layout 32). -/
theorem layout32 (m g : Nat) (hm : m < 64) (hf : g < 128) (a : BitVec 3) (b : BitVec 5) :
    fldN (enc2 (m*2^26 + g*2^0) a 23 b 12) 26 6 = m ∧
    fldN (enc2 (m*2^26 + g*2^0) a 23 b 12) 0 7 = g ∧
    fldN (enc2 (m*2^26 + g*2^0) a 23 b 12) 7 5 = 0 ∧
    fldN (enc2 (m*2^26 + g*2^0) a 23 b 12) 17 6 = 0 ∧
    fld (enc2 (m*2^26 + g*2^0) a 23 b 12) 23 3 = a ∧
    fld (enc2 (m*2^26 + g*2^0) a 23 b 12) 12 5 = b := by
  have lt_a := a.isLt
  have lt_b := b.isLt
  have hx : m * 2 ^ 26 + g * 2 ^ 0 + a.toNat * 2 ^ 23 + b.toNat * 2 ^ 12 < 2 ^ 32 := by omega
  refine ⟨?_, ?_, ?_, ?_, ?_, ?_⟩
  all_goals try apply BitVec.eq_of_toNat_eq
  all_goals simp only [fldN, fld, enc2, BitVec.toNat_ofNat, Nat.mod_eq_of_lt hx]
  all_goals omega

/-- Where the fields of a word lie (layout 33). -/
theorem layout33 (m g : Nat) (hm : m < 64) (hf : g < 128) (a : BitVec 3) (b : BitVec 5) (c : BitVec 5) :
    fldN (enc3 (m*2^26 + g*2^0) a 23 b 12 c 7) 26 6 = m ∧
    fldN (enc3 (m*2^26 + g*2^0) a 23 b 12 c 7) 0 7 = g ∧
    fldN (enc3 (m*2^26 + g*2^0) a 23 b 12 c 7) 17 6 = 0 ∧
    fld (enc3 (m*2^26 + g*2^0) a 23 b 12 c 7) 23 3 = a ∧
    fld (enc3 (m*2^26 + g*2^0) a 23 b 12 c 7) 12 5 = b ∧
    fld (enc3 (m*2^26 + g*2^0) a 23 b 12 c 7) 7 5 = c := by
  have lt_a := a.isLt
  have lt_b := b.isLt
  have lt_c := c.isLt
  have hx : m * 2 ^ 26 + g * 2 ^ 0 + a.toNat * 2 ^ 23 + b.toNat * 2 ^ 12 + c.toNat * 2 ^ 7 < 2 ^ 32 := by omega
  refine ⟨?_, ?_, ?_, ?_, ?_, ?_⟩
  all_goals try apply BitVec.eq_of_toNat_eq
  all_goals simp only [fldN, fld, enc3, BitVec.toNat_ofNat, Nat.mod_eq_of_lt hx]
  all_goals omega

/-- Where the fields of a word lie (layout 34). -/
theorem layout34 (m g : Nat) (hm : m < 64) (hf : g < 128 ∧ g % 8 = 0) (a : BitVec 3) (b : BitVec 3) (c : BitVec 3) (d : BitVec 5) (e : BitVec 5) (f : BitVec 3) :
    fldN (enc6 (m*2^26 + g*2^0) a 23 b 20 c 17 d 12 e 7 f 0) 26 6 = m ∧
    fldN (enc6 (m*2^26 + g*2^0) a 23 b 20 c 17 d 12 e 7 f 0) 0 7 = g + f.toNat ∧
    fld (enc6 (m*2^26 + g*2^0) a 23 b 20 c 17 d 12 e 7 f 0) 23 3 = a ∧
    fld (enc6 (m*2^26 + g*2^0) a 23 b 20 c 17 d 12 e 7 f 0) 20 3 = b ∧
    fld (enc6 (m*2^26 + g*2^0) a 23 b 20 c 17 d 12 e 7 f 0) 17 3 = c ∧
    fld (enc6 (m*2^26 + g*2^0) a 23 b 20 c 17 d 12 e 7 f 0) 12 5 = d ∧
    fld (enc6 (m*2^26 + g*2^0) a 23 b 20 c 17 d 12 e 7 f 0) 7 5 = e ∧
    fld (enc6 (m*2^26 + g*2^0) a 23 b 20 c 17 d 12 e 7 f 0) 0 3 = f := by
  have lt_a := a.isLt
  have lt_b := b.isLt
  have lt_c := c.isLt
  have lt_d := d.isLt
  have lt_e := e.isLt
  have lt_f := f.isLt
  have hx : m * 2 ^ 26 + g * 2 ^ 0 + a.toNat * 2 ^ 23 + b.toNat * 2 ^ 20 + c.toNat * 2 ^ 17 + d.toNat * 2 ^ 12 + e.toNat * 2 ^ 7 + f.toNat * 2 ^ 0 < 2 ^ 32 := by omega
  refine ⟨?_, ?_, ?_, ?_, ?_, ?_, ?_, ?_⟩
  all_goals try apply BitVec.eq_of_toNat_eq
  all_goals simp only [fldN, fld, enc6, BitVec.toNat_ofNat, Nat.mod_eq_of_lt hx]
  all_goals omega

/-- Where the fields of a word lie (layout 35). -/
theorem layout35 (m g : Nat) (hm : m < 64) (hf : g < 128) (a : BitVec 3) (b : BitVec 3) (c : BitVec 3) (d : BitVec 5) (e : BitVec 5) :
    fldN (enc5 (m*2^26 + g*2^0) a 23 b 20 c 17 d 12 e 7) 26 6 = m ∧
    fldN (enc5 (m*2^26 + g*2^0) a 23 b 20 c 17 d 12 e 7) 0 7 = g ∧
    fld (enc5 (m*2^26 + g*2^0) a 23 b 20 c 17 d 12 e 7) 23 3 = a ∧
    fld (enc5 (m*2^26 + g*2^0) a 23 b 20 c 17 d 12 e 7) 20 3 = b ∧
    fld (enc5 (m*2^26 + g*2^0) a 23 b 20 c 17 d 12 e 7) 17 3 = c ∧
    fld (enc5 (m*2^26 + g*2^0) a 23 b 20 c 17 d 12 e 7) 12 5 = d ∧
    fld (enc5 (m*2^26 + g*2^0) a 23 b 20 c 17 d 12 e 7) 7 5 = e := by
  have lt_a := a.isLt
  have lt_b := b.isLt
  have lt_c := c.isLt
  have lt_d := d.isLt
  have lt_e := e.isLt
  have hx : m * 2 ^ 26 + g * 2 ^ 0 + a.toNat * 2 ^ 23 + b.toNat * 2 ^ 20 + c.toNat * 2 ^ 17 + d.toNat * 2 ^ 12 + e.toNat * 2 ^ 7 < 2 ^ 32 := by omega
  refine ⟨?_, ?_, ?_, ?_, ?_, ?_, ?_⟩
  all_goals try apply BitVec.eq_of_toNat_eq
  all_goals simp only [fldN, fld, enc5, BitVec.toNat_ofNat, Nat.mod_eq_of_lt hx]
  all_goals omega

/-- Where the fields of a word lie (layout 36). -/
theorem layout36 (m g : Nat) (hm : m < 64) (hf : g < 128) (a : BitVec 3) (b : BitVec 3) (c : BitVec 5) :
    fldN (enc3 (m*2^26 + g*2^0) a 23 b 20 c 12) 26 6 = m ∧
    fldN (enc3 (m*2^26 + g*2^0) a 23 b 20 c 12) 0 7 = g ∧
    fldN (enc3 (m*2^26 + g*2^0) a 23 b 20 c 12) 7 5 = 0 ∧
    fldN (enc3 (m*2^26 + g*2^0) a 23 b 20 c 12) 17 3 = 0 ∧
    fld (enc3 (m*2^26 + g*2^0) a 23 b 20 c 12) 23 3 = a ∧
    fld (enc3 (m*2^26 + g*2^0) a 23 b 20 c 12) 20 3 = b ∧
    fld (enc3 (m*2^26 + g*2^0) a 23 b 20 c 12) 12 5 = c := by
  have lt_a := a.isLt
  have lt_b := b.isLt
  have lt_c := c.isLt
  have hx : m * 2 ^ 26 + g * 2 ^ 0 + a.toNat * 2 ^ 23 + b.toNat * 2 ^ 20 + c.toNat * 2 ^ 12 < 2 ^ 32 := by omega
  refine ⟨?_, ?_, ?_, ?_, ?_, ?_, ?_⟩
  all_goals try apply BitVec.eq_of_toNat_eq
  all_goals simp only [fldN, fld, enc3, BitVec.toNat_ofNat, Nat.mod_eq_of_lt hx]
  all_goals omega

/-- Where the fields of a word lie (layout 37). -/
theorem layout37 (m g : Nat) (hm : m < 64) (hf : g < 128) (a : BitVec 3) (b : BitVec 3) (c : BitVec 3) (d : BitVec 5) :
    fldN (enc4 (m*2^26 + g*2^0) a 23 b 20 c 17 d 12) 26 6 = m ∧
    fldN (enc4 (m*2^26 + g*2^0) a 23 b 20 c 17 d 12) 0 7 = g ∧
    fldN (enc4 (m*2^26 + g*2^0) a 23 b 20 c 17 d 12) 7 5 = 0 ∧
    fld (enc4 (m*2^26 + g*2^0) a 23 b 20 c 17 d 12) 23 3 = a ∧
    fld (enc4 (m*2^26 + g*2^0) a 23 b 20 c 17 d 12) 20 3 = b ∧
    fld (enc4 (m*2^26 + g*2^0) a 23 b 20 c 17 d 12) 17 3 = c ∧
    fld (enc4 (m*2^26 + g*2^0) a 23 b 20 c 17 d 12) 12 5 = d := by
  have lt_a := a.isLt
  have lt_b := b.isLt
  have lt_c := c.isLt
  have lt_d := d.isLt
  have hx : m * 2 ^ 26 + g * 2 ^ 0 + a.toNat * 2 ^ 23 + b.toNat * 2 ^ 20 + c.toNat * 2 ^ 17 + d.toNat * 2 ^ 12 < 2 ^ 32 := by omega
  refine ⟨?_, ?_, ?_, ?_, ?_, ?_, ?_⟩
  all_goals try apply BitVec.eq_of_toNat_eq
  all_goals simp only [fldN, fld, enc4, BitVec.toNat_ofNat, Nat.mod_eq_of_lt hx]
  all_goals omega

/-- Where the fields of a word lie (layout 38). -/
theorem layout38 (m g : Nat) (hm : m < 64) (hf : g < 128) (a : BitVec 3) (b : BitVec 3) (c : BitVec 5) (d : BitVec 5) :
    fldN (enc4 (m*2^26 + g*2^0) a 23 b 20 c 12 d 7) 26 6 = m ∧
    fldN (enc4 (m*2^26 + g*2^0) a 23 b 20 c 12 d 7) 0 7 = g ∧
    fldN (enc4 (m*2^26 + g*2^0) a 23 b 20 c 12 d 7) 17 3 = 0 ∧
    fld (enc4 (m*2^26 + g*2^0) a 23 b 20 c 12 d 7) 23 3 = a ∧
    fld (enc4 (m*2^26 + g*2^0) a 23 b 20 c 12 d 7) 20 3 = b ∧
    fld (enc4 (m*2^26 + g*2^0) a 23 b 20 c 12 d 7) 12 5 = c ∧
    fld (enc4 (m*2^26 + g*2^0) a 23 b 20 c 12 d 7) 7 5 = d := by
  have lt_a := a.isLt
  have lt_b := b.isLt
  have lt_c := c.isLt
  have lt_d := d.isLt
  have hx : m * 2 ^ 26 + g * 2 ^ 0 + a.toNat * 2 ^ 23 + b.toNat * 2 ^ 20 + c.toNat * 2 ^ 12 + d.toNat * 2 ^ 7 < 2 ^ 32 := by omega
  refine ⟨?_, ?_, ?_, ?_, ?_, ?_, ?_⟩
  all_goals try apply BitVec.eq_of_toNat_eq
  all_goals simp only [fldN, fld, enc4, BitVec.toNat_ofNat, Nat.mod_eq_of_lt hx]
  all_goals omega

/-- Where the fields of a word lie (layout 39). -/
theorem layout39 (m g : Nat) (hm : m < 64) (hf : g < 128) (a : BitVec 3) (b : BitVec 5) :
    fldN (enc2 (m*2^26 + g*2^0) a 20 b 7) 26 6 = m ∧
    fldN (enc2 (m*2^26 + g*2^0) a 20 b 7) 0 7 = g ∧
    fldN (enc2 (m*2^26 + g*2^0) a 20 b 7) 12 8 = 0 ∧
    fldN (enc2 (m*2^26 + g*2^0) a 20 b 7) 23 3 = 0 ∧
    fld (enc2 (m*2^26 + g*2^0) a 20 b 7) 20 3 = a ∧
    fld (enc2 (m*2^26 + g*2^0) a 20 b 7) 7 5 = b := by
  have lt_a := a.isLt
  have lt_b := b.isLt
  have hx : m * 2 ^ 26 + g * 2 ^ 0 + a.toNat * 2 ^ 20 + b.toNat * 2 ^ 7 < 2 ^ 32 := by omega
  refine ⟨?_, ?_, ?_, ?_, ?_, ?_⟩
  all_goals try apply BitVec.eq_of_toNat_eq
  all_goals simp only [fldN, fld, enc2, BitVec.toNat_ofNat, Nat.mod_eq_of_lt hx]
  all_goals omega

/-- Where the fields of a word lie (layout 40). -/
theorem layout40 (m g : Nat) (hm : m < 64) (hf : g < 128) (a : BitVec 3) :
    fldN (enc1 (m*2^26 + g*2^0) a 23) 26 6 = m ∧
    fldN (enc1 (m*2^26 + g*2^0) a 23) 0 7 = g ∧
    fldN (enc1 (m*2^26 + g*2^0) a 23) 7 16 = 0 ∧
    fld (enc1 (m*2^26 + g*2^0) a 23) 23 3 = a := by
  have lt_a := a.isLt
  have hx : m * 2 ^ 26 + g * 2 ^ 0 + a.toNat * 2 ^ 23 < 2 ^ 32 := by omega
  refine ⟨?_, ?_, ?_, ?_⟩
  all_goals try apply BitVec.eq_of_toNat_eq
  all_goals simp only [fldN, fld, enc1, BitVec.toNat_ofNat, Nat.mod_eq_of_lt hx]
  all_goals omega

/-- Where the fields of a word lie (layout 41). -/
theorem layout41 (m g : Nat) (hm : m < 64) (hf : g < 128) :
    fldN (enc0 (m*2^26 + g*2^0)) 26 6 = m ∧
    fldN (enc0 (m*2^26 + g*2^0)) 0 7 = g ∧
    fldN (enc0 (m*2^26 + g*2^0)) 7 19 = 0 := by
  have hx : m * 2 ^ 26 + g * 2 ^ 0 < 2 ^ 32 := by omega
  refine ⟨?_, ?_, ?_⟩
  all_goals simp only [fldN, enc0, BitVec.toNat_ofNat, Nat.mod_eq_of_lt hx]
  all_goals omega

/-- Where the fields of a word lie (layout 42). -/
theorem layout42 (m g : Nat) (hm : m < 64) (hf : g < 128) (a : BitVec 3) (b : BitVec 5) :
    fldN (enc2 (m*2^26 + g*2^0) a 23 b 7) 26 6 = m ∧
    fldN (enc2 (m*2^26 + g*2^0) a 23 b 7) 0 7 = g ∧
    fldN (enc2 (m*2^26 + g*2^0) a 23 b 7) 12 11 = 0 ∧
    fld (enc2 (m*2^26 + g*2^0) a 23 b 7) 23 3 = a ∧
    fld (enc2 (m*2^26 + g*2^0) a 23 b 7) 7 5 = b := by
  have lt_a := a.isLt
  have lt_b := b.isLt
  have hx : m * 2 ^ 26 + g * 2 ^ 0 + a.toNat * 2 ^ 23 + b.toNat * 2 ^ 7 < 2 ^ 32 := by omega
  refine ⟨?_, ?_, ?_, ?_, ?_⟩
  all_goals try apply BitVec.eq_of_toNat_eq
  all_goals simp only [fldN, fld, enc2, BitVec.toNat_ofNat, Nat.mod_eq_of_lt hx]
  all_goals omega

end Sys2Proof.Laws
end

