-- ==== Sys2Proof/Laws/Mem.lean ====
section
/-! SUPPORT. The byte store: what a read after a write gives, and that every operation keeps the canonical form. -/

namespace Sys2Proof.Machine

/-! ## The canonical form in the words of the library -/

theorem risingFrom_iff (l : List Host.Cell) : ∀ lo, risingFrom lo l = true ↔
    (∀ c ∈ l, lo ≤ c.1 ∧ c.2 ≠ Mem.unlisted) ∧ l.Pairwise (fun a b => a.1 < b.1) := by
  induction l with
  | nil => simp [risingFrom]
  | cons c t ih =>
    intro lo
    obtain ⟨k, v⟩ := c
    simp only [risingFrom, Bool.and_eq_true, decide_eq_true_eq, ih, List.forall_mem_cons, List.pairwise_cons]
    constructor
    · rintro ⟨⟨h1, h2⟩, h3, h4⟩
      exact ⟨⟨⟨h1, h2⟩, fun c hc => ⟨by have := (h3 c hc).1; omega, (h3 c hc).2⟩⟩,
        fun c hc => (h3 c hc).1, h4⟩
    · rintro ⟨⟨⟨h1, h2⟩, h3⟩, h5, h4⟩
      exact ⟨⟨h1, h2⟩, fun c hc => ⟨h5 c hc, (h3 c hc).2⟩, h4⟩

theorem risingNat_iff (l : List Nat) : ∀ lo, risingNat lo l = true ↔
    (∀ c ∈ l, lo ≤ c) ∧ l.Pairwise (· < ·) := by
  induction l with
  | nil => simp [risingNat]
  | cons k t ih =>
    intro lo
    simp only [risingNat, Bool.and_eq_true, decide_eq_true_eq, ih, List.forall_mem_cons, List.pairwise_cons]
    constructor
    · rintro ⟨h1, h3, h4⟩
      exact ⟨⟨h1, fun c hc => by have := h3 c hc; omega⟩, fun c hc => h3 c hc, h4⟩
    · rintro ⟨⟨h1, h3⟩, h5, h4⟩
      exact ⟨h1, fun c hc => h5 c hc, h4⟩

/-- The canonical form: no cell is zero, addresses and poisoned doublewords rise strictly. -/
theorem Mem.wf_iff (m : Mem) : m.wf = true ↔
    (∀ c ∈ m.cells, c.2 ≠ Mem.unlisted) ∧ m.cells.Pairwise (fun a b => a.1 < b.1) ∧ m.poison.Pairwise (· < ·) := by
  simp [Mem.wf, risingFrom_iff, risingNat_iff, and_assoc]

/-! ## Every operation keeps the form -/

theorem cellsOf_mem (bs : List Byte) : ∀ a, ∀ c ∈ cellsOf a bs,
    a ≤ c.1 ∧ c.1 < a + bs.length ∧ c.2 ≠ Mem.unlisted := by
  induction bs with
  | nil => simp [cellsOf]
  | cons b t ih =>
    intro a c hc
    simp only [cellsOf] at hc
    split at hc
    · obtain ⟨h1, h2, h3⟩ := ih _ _ hc
      simp only [List.length_cons]
      exact ⟨by omega, by omega, h3⟩
    · rcases List.mem_cons.1 hc with rfl | hc
      · simp_all
      · obtain ⟨h1, h2, h3⟩ := ih _ _ hc
        simp only [List.length_cons]
        exact ⟨by omega, by omega, h3⟩

theorem cellsOf_rising (bs : List Byte) : ∀ a, (cellsOf a bs).Pairwise (fun x y => x.1 < y.1) := by
  induction bs with
  | nil => simp [cellsOf]
  | cons b t ih =>
    intro a
    simp only [cellsOf]
    split
    · exact ih _
    · exact List.pairwise_cons.2 ⟨fun c hc => by have := (cellsOf_mem t _ c hc).1; simp only; omega, ih _⟩

theorem Mem.empty_wf : Mem.empty.wf = true := rfl

theorem Mem.putRange_wf {m : Mem} (h : m.wf = true) (a : Nat) (bs : List Byte) : (m.putRange a bs).wf = true := by
  rw [Mem.wf_iff] at *
  obtain ⟨h1, h2, h3⟩ := h
  refine ⟨?_, ?_, h3.filter _⟩
  · intro c hc
    simp only [Mem.putRange, List.mem_append, List.mem_filter] at hc
    rcases hc with (hc | hc) | hc
    · exact h1 c hc.1
    · exact (cellsOf_mem bs a c hc).2.2
    · exact h1 c hc.1
  · simp only [Mem.putRange, List.pairwise_append]
    refine ⟨⟨h2.filter _, cellsOf_rising bs a, ?_⟩, h2.filter _, ?_⟩
    · intro x hx y hy
      have := (cellsOf_mem bs a y hy).1
      simp only [List.mem_filter, decide_eq_true_eq] at hx
      omega
    · intro x hx y hy
      simp only [List.mem_append, List.mem_filter, decide_eq_true_eq] at hx hy
      rcases hx with hx | hx
      · omega
      · have := (cellsOf_mem bs a x hx).2.1
        omega

theorem Mem.put_wf {m : Mem} (h : m.wf = true) (a : Nat) (b : Byte) : (m.put a b).wf = true := Mem.putRange_wf h a [b]

theorem Mem.putLE_wf {m : Mem} (h : m.wf = true) (a n v : Nat) : (m.putLE a n v).wf = true := Mem.putRange_wf h a _

theorem Mem.putMasked_wf {m : Mem} (h : m.wf = true) (a : Nat) (bs : List Byte) (mask : Nat) :
    (m.putMasked a bs mask).wf = true := by
  unfold Mem.putMasked
  generalize maskRuns 0 bs mask [] = l
  induction l generalizing m with
  | nil => exact h
  | cons r t ih => exact ih (Mem.putRange_wf h _ _)

theorem Mem.clearRange_wf {m : Mem} (h : m.wf = true) (a n : Nat) : (m.clearRange a n).wf = true := by
  rw [Mem.wf_iff] at *
  exact ⟨fun c hc => h.1 c (List.mem_filter.1 hc).1, h.2.1.filter _, h.2.2.filter _⟩

theorem mem_insertRising (d x : Nat) (l : List Nat) : x ∈ insertRising d l ↔ x = d ∨ x ∈ l := by
  induction l with
  | nil => simp [insertRising]
  | cons y t ih =>
    simp only [insertRising]
    split
    · simp
    · split
      · simp_all
      · simp only [List.mem_cons, ih]; tauto

theorem insertRising_rising {l : List Nat} (d : Nat) (h : l.Pairwise (· < ·)) : (insertRising d l).Pairwise (· < ·) := by
  induction l with
  | nil => simp [insertRising]
  | cons y t ih =>
    obtain ⟨h1, h2⟩ := List.pairwise_cons.1 h
    simp only [insertRising]
    split
    · rename_i hd
      exact List.pairwise_cons.2 ⟨fun x hx => by
        rcases List.mem_cons.1 hx with rfl | hx
        · exact hd
        · exact hd.trans (h1 x hx), h⟩
    · split
      · exact h
      · refine List.pairwise_cons.2 ⟨fun x hx => ?_, ih h2⟩
        rcases (mem_insertRising d x t).1 hx with rfl | hx
        · omega
        · exact h1 x hx

theorem Mem.addPoison_wf {m : Mem} (h : m.wf = true) (a : Nat) : (m.addPoison a).wf = true := by
  rw [Mem.wf_iff] at *
  exact ⟨h.1, h.2.1, insertRising_rising _ h.2.2⟩

theorem Mem.copyRange_wf {m src : Mem} (h : m.wf = true) (hs : src.wf = true) (dst a n : Nat) :
    (m.copyRange dst src a n).wf = true := by
  rw [Mem.wf_iff] at *
  have hp : ∀ (l r : List Nat), r.Pairwise (· < ·) →
      (l.foldl (fun l d => insertRising d l) r).Pairwise (· < ·) := by
    intro l
    induction l with
    | nil => intro r hr; exact hr
    | cons d t ih => intro r hr; exact ih _ (insertRising_rising d hr)
  refine ⟨?_, ?_, hp _ _ (h.2.2.filter _)⟩
  · intro c hc
    simp only [Mem.copyRange, List.mem_append, List.mem_map, List.mem_filter] at hc
    rcases hc with (hc | ⟨e, he, rfl⟩) | hc
    · exact h.1 c hc.1
    · exact hs.1 e he.1
    · exact h.1 c hc.1
  · simp only [Mem.copyRange, List.pairwise_append]
    refine ⟨⟨h.2.1.filter _, ?_, ?_⟩, h.2.1.filter _, ?_⟩
    · rw [List.pairwise_map]
      refine (hs.2.1.filter _).imp_of_mem ?_
      intro x y hx hy hxy
      simp only [List.mem_filter, decide_eq_true_eq] at hx hy
      simp only
      omega
    · intro x hx y hy
      simp only [List.mem_filter, List.mem_map, decide_eq_true_eq] at hx hy
      obtain ⟨e, he, rfl⟩ := hy
      simp only
      omega
    · intro x hx y hy
      simp only [List.mem_append, List.mem_filter, List.mem_map, decide_eq_true_eq] at hx hy
      rcases hx with hx | ⟨e, he, rfl⟩
      · omega
      · simp only
        omega

/-! ## Read after write -/

theorem cellLook_append (l r : List Host.Cell) (a : Nat) :
    cellLook (l ++ r) a = if l.any (fun c => c.1 == a) then cellLook l a else cellLook r a := by
  induction l with
  | nil => simp
  | cons c t ih =>
    obtain ⟨k, v⟩ := c
    simp only [List.cons_append, cellLook, ih, List.any_cons, Bool.or_eq_true, beq_iff_eq]
    by_cases h : k = a <;> simp [h]

theorem cellLook_none {l : List Host.Cell} {a : Nat} (h : ∀ c ∈ l, c.1 ≠ a) : cellLook l a = Mem.unlisted := by
  induction l with
  | nil => rfl
  | cons c t ih =>
    obtain ⟨k, v⟩ := c
    rw [cellLook, if_neg (h _ List.mem_cons_self)]
    exact ih (fun c hc => h c (List.mem_cons_of_mem _ hc))

theorem cellLook_filter {p : Host.Cell → Bool} {a : Nat} (l : List Host.Cell) (h : ∀ v, p (a, v) = true) :
    cellLook (l.filter p) a = cellLook l a := by
  induction l with
  | nil => rfl
  | cons c t ih =>
    obtain ⟨k, v⟩ := c
    by_cases hk : k = a
    · subst hk; simp [h, cellLook]
    · by_cases hp : p (k, v) = true <;> simp [hp, cellLook, hk, ih]

theorem cellLook_cellsOf (bs : List Byte) : ∀ a i, i < bs.length → cellLook (cellsOf a bs) (a + i) = bs.getD i 0 := by
  induction bs with
  | nil => simp
  | cons b t ih =>
    intro a i hi
    cases i with
    | zero =>
      simp only [cellsOf, Nat.add_zero]
      split
      · rename_i hb
        rw [cellLook_none (fun c hc => by have := (cellsOf_mem t _ c hc).1; omega), hb]
        rfl
      · simp [cellLook]
    | succ i =>
      have := ih (a + 1) i (by simpa using hi)
      rw [show a + 1 + i = a + (i + 1) by omega] at this
      simp only [cellsOf]
      split
      · simpa using this
      · simp only [cellLook]
        rw [if_neg (by omega)]
        simpa using this

/-- A read of a byte that was written gives what was written. -/
theorem Mem.get_putRange_in (m : Mem) (a : Nat) (bs : List Byte) (i : Nat) (h : i < bs.length) :
    (m.putRange a bs).get (a + i) = bs.getD i 0 := by
  simp only [Mem.get, Mem.putRange, List.append_assoc, cellLook_append]
  rw [if_neg (by simp)]
  split
  · exact cellLook_cellsOf bs a i h
  · rename_i hn
    rw [cellLook_none (by intro c hc; simp only [List.mem_filter, decide_eq_true_eq] at hc; omega),
      ← cellLook_cellsOf bs a i h, cellLook_none]
    intro c hc hca
    exact hn (by simp only [List.any_eq_true, beq_iff_eq]; exact ⟨c, hc, hca⟩)

/-- A write leaves every byte outside its range alone. -/
theorem Mem.get_putRange_out (m : Mem) (a : Nat) (bs : List Byte) (b : Nat) (h : b < a ∨ a + bs.length ≤ b) :
    (m.putRange a bs).get b = m.get b := by
  simp only [Mem.get, Mem.putRange, List.append_assoc, cellLook_append]
  have hmid : ¬ (cellsOf a bs).any (fun c => c.1 == b) = true := by
    simp only [List.any_eq_true, beq_iff_eq, not_exists, not_and]
    intro c hc he
    have := cellsOf_mem bs a c hc
    omega
  rw [if_neg hmid]
  rcases h with h | h
  · split
    · exact cellLook_filter _ (by intro v; simpa using h)
    · rename_i hn
      rw [cellLook_none (by intro c hc; simp only [List.mem_filter, decide_eq_true_eq] at hc; omega), cellLook_none]
      intro c hc he
      exact hn (by simp only [List.any_eq_true, beq_iff_eq, List.mem_filter, decide_eq_true_eq]; exact ⟨c, ⟨hc, by omega⟩, he⟩)
  · rw [if_neg (by
      simp only [List.any_eq_true, beq_iff_eq, List.mem_filter, decide_eq_true_eq, not_exists, not_and]
      intro c hc he; omega)]
    exact cellLook_filter _ (by intro v; simpa using h)

theorem Mem.get_put_same (m : Mem) (a : Nat) (b : Byte) : (m.put a b).get a = b := by
  simpa [Mem.put] using m.get_putRange_in a [b] 0 (by simp)

theorem Mem.get_put_other (m : Mem) (a c : Nat) (b : Byte) (h : c ≠ a) : (m.put a b).get c = m.get c :=
  m.get_putRange_out a [b] c (by simp; omega)

theorem Mem.get_putRange (m : Mem) (a : Nat) (bs : List Byte) (b : Nat) :
    (m.putRange a bs).get b = if a ≤ b ∧ b < a + bs.length then bs.getD (b - a) 0 else m.get b := by
  split
  · rename_i h
    have := m.get_putRange_in a bs (b - a) (by omega)
    rwa [show a + (b - a) = b by omega] at this
  · exact m.get_putRange_out a bs b (by omega)

/-- What the runs of a masked write leave at an address, with `acc` the run that is open before place `i`. -/
theorem get_maskRuns (bs : List Byte) : ∀ (m : Mem) (a i mask : Nat) (acc : List Byte) (b : Nat), acc.length ≤ i →
    ((maskRuns i bs mask acc).foldl (fun m r => m.putRange (a + r.1) r.2) m).get b =
      if a + i - acc.length ≤ b ∧ b < a + i then acc.getD (b - (a + i - acc.length)) 0
      else if a + i ≤ b ∧ b < a + i + bs.length ∧ mask.testBit (b - (a + i)) = true then bs.getD (b - (a + i)) 0
      else m.get b := by
  induction bs with
  | nil =>
    intro m a i mask acc b hi
    cases acc with
    | nil => simp only [maskRuns, List.isEmpty_nil, if_true, List.foldl_nil, List.length_nil]
             rw [if_neg (by omega), if_neg (by omega)]
    | cons x t =>
      simp only [maskRuns, List.isEmpty_cons, Bool.false_eq_true, if_false, List.foldl_cons, List.foldl_nil, Mem.get_putRange]
      simp only [List.length_cons, List.length_nil] at *
      have e : a + (i - (t.length + 1)) = a + i - (t.length + 1) := by omega
      rw [e]
      by_cases h : a + i - (t.length + 1) ≤ b ∧ b < a + i
      · rw [if_pos (by omega), if_pos h]
      · rw [if_neg (by omega), if_neg h, if_neg (by omega)]
  | cons x t ih =>
    intro m a i mask acc b hi
    have tb : ∀ k, mask.testBit (k + 1) = (mask / 2).testBit k := fun k => by
      rw [Nat.testBit_succ]
    have t0 : mask.testBit 0 = decide (mask % 2 = 1) := by simp [Nat.testBit_zero]
    simp only [maskRuns]
    split
    · rename_i hm
      rw [ih _ _ _ _ _ _ (by simp; omega)]
      simp only [List.length_append, List.length_cons, List.length_nil, Nat.zero_add]
      by_cases h1 : a + i - acc.length ≤ b ∧ b < a + i
      · rw [if_pos (by omega), if_pos h1]
        have : b - (a + (i + 1) - (acc.length + 1)) = b - (a + i - acc.length) := by omega
        rw [this, List.getD_append _ _ _ _ (by omega)]
      · rw [if_neg h1]
        by_cases h2 : b = a + i
        · subst h2
          rw [if_pos (by omega), if_pos ⟨by omega, by omega, by simp [hm]⟩]
          have : a + i - (a + (i + 1) - (acc.length + 1)) = acc.length := by omega
          rw [this, List.getD_append_right _ _ _ _ (by omega)]
          simp
        · rw [if_neg (by omega)]
          by_cases h3 : a + i ≤ b ∧ b < a + i + (t.length + 1) ∧ mask.testBit (b - (a + i)) = true
          · have e : b - (a + i) = b - (a + (i + 1)) + 1 := by omega
            rw [if_pos ⟨by omega, by omega, by rw [← tb, ← e]; exact h3.2.2⟩, if_pos h3, e]
            simp
          · rw [if_neg h3, if_neg]
            rintro ⟨g1, g2, g3⟩
            have e : b - (a + i) = b - (a + (i + 1)) + 1 := by omega
            exact h3 ⟨by omega, by omega, by rw [e, tb]; exact g3⟩
    · rename_i hm
      have rest : ∀ m' : Mem, ((maskRuns (i + 1) t (mask / 2) []).foldl (fun m r => m.putRange (a + r.1) r.2) m').get b =
          if a + i ≤ b ∧ b < a + i + (t.length + 1) ∧ mask.testBit (b - (a + i)) = true then (x :: t).getD (b - (a + i)) 0
          else m'.get b := by
        intro m'
        rw [ih _ _ _ _ _ _ (by simp)]
        simp only [List.length_nil]
        rw [if_neg (by omega)]
        by_cases h3 : a + i ≤ b ∧ b < a + i + (t.length + 1) ∧ mask.testBit (b - (a + i)) = true
        · have hb : b ≠ a + i := by
            rintro rfl
            simp [hm] at h3
          have e : b - (a + i) = b - (a + (i + 1)) + 1 := by omega
          rw [if_pos ⟨by omega, by omega, by rw [← tb, ← e]; exact h3.2.2⟩, if_pos h3, e]
          simp
        · rw [if_neg h3, if_neg]
          rintro ⟨g1, g2, g3⟩
          have e : b - (a + i) = b - (a + (i + 1)) + 1 := by omega
          exact h3 ⟨by omega, by omega, by rw [e, tb]; exact g3⟩
      split
      · rename_i he
        have : acc = [] := by simpa using he
        subst this
        rw [rest]
        simp only [List.length_nil, List.length_cons]
        rw [if_neg (show ¬(a + i - 0 ≤ b ∧ b < a + i) by omega)]
      · rw [List.foldl_cons, rest]
        simp only [List.length_cons]
        by_cases h1 : a + i - acc.length ≤ b ∧ b < a + i
        · rw [if_pos h1, if_neg (by omega), Mem.get_putRange, if_pos (by omega)]
          congr 1
          omega
        · rw [if_neg h1]
          split
          · rfl
          · rw [Mem.get_putRange, if_neg (by omega)]

/-- A masked write: the bytes whose bit is set are there, every other byte is as it was. -/
theorem Mem.get_putMasked (m : Mem) (a : Nat) (bs : List Byte) (mask b : Nat) :
    (m.putMasked a bs mask).get b =
      if a ≤ b ∧ b < a + bs.length ∧ mask.testBit (b - a) = true then bs.getD (b - a) 0 else m.get b := by
  have := get_maskRuns bs m a 0 mask [] b (by simp)
  simp only [Nat.add_zero, List.length_nil, Nat.sub_zero] at this
  rw [Mem.putMasked, this, if_neg (by omega)]

end Sys2Proof.Machine
end

