-- ==== Sys2Proof/Laws/State.lean ====
section
/-! SUPPORT. What each update of the state leaves alone, field by field, and what is read back after it. -/

namespace Sys2Proof.Machine

/-! ## Maps -/

theorem NMap.look_put_same {α : Type} (m : NMap α) (k : Nat) (v : α) : (m.put k v).look k = some v := by
  induction m with
  | nil => simp [NMap.put, NMap.look]
  | cons p t ih =>
    obtain ⟨j, w⟩ := p
    simp only [NMap.put]
    split
    · simp [NMap.look]
    · split
      · simp [NMap.look]
      · rename_i h _
        rw [NMap.look, if_neg h]
        exact ih

theorem NMap.look_put_other {α : Type} (m : NMap α) (k j : Nat) (v : α) (h : j ≠ k) : (m.put k v).look j = m.look j := by
  induction m with
  | nil => simp [NMap.put, NMap.look, Ne.symm h]
  | cons p t ih =>
    obtain ⟨i, w⟩ := p
    simp only [NMap.put]
    split
    · rename_i he
      subst he
      simp [NMap.look, Ne.symm h]
    · split
      · simp [NMap.look, Ne.symm h]
      · simp only [NMap.look]
        split
        · rfl
        · exact ih

@[simp] theorem NMap.get_put_same {α : Type} (m : NMap α) (k : Nat) (v d : α) : (m.put k v).get k d = v := by
  simp [NMap.get, NMap.look_put_same]

theorem NMap.get_put_other {α : Type} (m : NMap α) (k j : Nat) (v d : α) (h : j ≠ k) : (m.put k v).get j d = m.get j d := by
  simp [NMap.get, NMap.look_put_other m k j v h]

/-! ## Fields an update leaves alone -/

variable (s : State)

@[simp] theorem State.setCore_mem (c : Nat) (k : Core) : (s.setCore c k).mem = s.mem := rfl
@[simp] theorem State.setCore_host (c : Nat) (k : Core) : (s.setCore c k).host = s.host := rfl
@[simp] theorem State.setCore_lmem (c : Nat) (k : Core) : (s.setCore c k).lmem = s.lmem := rfl
@[simp] theorem State.setCore_tiles (c : Nat) (k : Core) : (s.setCore c k).tiles = s.tiles := rfl
@[simp] theorem State.setCore_slots (c : Nat) (k : Core) : (s.setCore c k).slots = s.slots := rfl
@[simp] theorem State.setCore_clusters (c : Nat) (k : Core) : (s.setCore c k).clusters = s.clusters := rfl
@[simp] theorem State.setCore_procs (c : Nat) (k : Core) : (s.setCore c k).procs = s.procs := rfl
@[simp] theorem State.setCore_maps (c : Nat) (k : Core) : (s.setCore c k).maps = s.maps := rfl
@[simp] theorem State.setCore_sync (c : Nat) (k : Core) : (s.setCore c k).sync = s.sync := rfl
@[simp] theorem State.setCore_slices (c : Nat) (k : Core) : (s.setCore c k).slices = s.slices := rfl
@[simp] theorem State.setCore_hostHomes (c : Nat) (k : Core) : (s.setCore c k).hostHomes = s.hostHomes := rfl
@[simp] theorem State.setCore_moved (c : Nat) (k : Core) : (s.setCore c k).moved = s.moved := rfl
@[simp] theorem State.setCore_senders (c : Nat) (k : Core) : (s.setCore c k).senders = s.senders := rfl
@[simp] theorem State.setCore_parts (c : Nat) (k : Core) : (s.setCore c k).parts = s.parts := rfl
@[simp] theorem State.setCore_queues (c : Nat) (k : Core) : (s.setCore c k).queues = s.queues := rfl
@[simp] theorem State.setCore_tasks (c : Nat) (k : Core) : (s.setCore c k).tasks = s.tasks := rfl
@[simp] theorem State.setCore_insts (c : Nat) (k : Core) : (s.setCore c k).insts = s.insts := rfl
@[simp] theorem State.setCore_images (c : Nat) (k : Core) : (s.setCore c k).images = s.images := rfl
@[simp] theorem State.setCore_jobs (c : Nat) (k : Core) : (s.setCore c k).jobs = s.jobs := rfl
@[simp] theorem State.setCore_links (c : Nat) (k : Core) : (s.setCore c k).links = s.links := rfl
@[simp] theorem State.setCore_solders (c : Nat) (k : Core) : (s.setCore c k).solders = s.solders := rfl
@[simp] theorem State.setCore_peers (c : Nat) (k : Core) : (s.setCore c k).peers = s.peers := rfl
@[simp] theorem State.setCore_routes (c : Nat) (k : Core) : (s.setCore c k).routes = s.routes := rfl
@[simp] theorem State.setCore_switches (c : Nat) (k : Core) : (s.setCore c k).switches = s.switches := rfl
@[simp] theorem State.setCore_owners (c : Nat) (k : Core) : (s.setCore c k).owners = s.owners := rfl
@[simp] theorem State.setCore_remotes (c : Nat) (k : Core) : (s.setCore c k).remotes = s.remotes := rfl
@[simp] theorem State.setCore_net (c : Nat) (k : Core) : (s.setCore c k).net = s.net := rfl
@[simp] theorem State.setCore_mctrs (c : Nat) (k : Core) : (s.setCore c k).mctrs = s.mctrs := rfl
@[simp] theorem State.setCore_tqueue (c : Nat) (k : Core) : (s.setCore c k).tqueue = s.tqueue := rfl
@[simp] theorem State.setCore_devId (c : Nat) (k : Core) : (s.setCore c k).devId = s.devId := rfl
@[simp] theorem State.setCore_hot (c : Nat) (k : Core) : (s.setCore c k).hot = s.hot := rfl
@[simp] theorem State.setCore_capped (c : Nat) (k : Core) : (s.setCore c k).capped = s.capped := rfl
@[simp] theorem State.setCore_boot (c : Nat) (k : Core) : (s.setCore c k).boot = s.boot := rfl
@[simp] theorem State.setCore_mon (c : Nat) (k : Core) : (s.setCore c k).mon = s.mon := rfl
@[simp] theorem State.setCore_hostSide (c : Nat) (k : Core) : (s.setCore c k).hostSide = s.hostSide := rfl
@[simp] theorem State.setCore_nextTask (c : Nat) (k : Core) : (s.setCore c k).nextTask = s.nextTask := rfl
@[simp] theorem State.setCore_nextInst (c : Nat) (k : Core) : (s.setCore c k).nextInst = s.nextInst := rfl
@[simp] theorem State.setCore_nextCtx (c : Nat) (k : Core) : (s.setCore c k).nextCtx = s.nextCtx := rfl
@[simp] theorem State.setCore_nextPkt (c : Nat) (k : Core) : (s.setCore c k).nextPkt = s.nextPkt := rfl
@[simp] theorem State.setCore_clk (c : Nat) (k : Core) : (s.setCore c k).clk = s.clk := rfl
@[simp] theorem State.setCore_stepNo (c : Nat) (k : Core) : (s.setCore c k).stepNo = s.stepNo := rfl
@[simp] theorem State.setCore_freeNo (c : Nat) (k : Core) : (s.setCore c k).freeNo = s.freeNo := rfl
@[simp] theorem State.setCore_cur (c : Nat) (k : Core) : (s.setCore c k).cur = s.cur := rfl
@[simp] theorem State.setCore_ev (c : Nat) (k : Core) : (s.setCore c k).ev = s.ev := rfl
@[simp] theorem State.setCore_agenda (c : Nat) (k : Core) : (s.setCore c k).agenda = s.agenda := rfl
@[simp] theorem State.setCore_engineTurn (c : Nat) (k : Core) : (s.setCore c k).engineTurn = s.engineTurn := rfl
@[simp] theorem State.setCore_engineNext (c : Nat) (k : Core) : (s.setCore c k).engineNext = s.engineNext := rfl
@[simp] theorem State.setCore_lastCore (c : Nat) (k : Core) : (s.setCore c k).lastCore = s.lastCore := rfl
@[simp] theorem State.setCore_colour (c : Nat) (k : Core) : (s.setCore c k).colour = s.colour := rfl

@[simp] theorem State.modCore_mem (c : Nat) (f : Core → Core) : (s.modCore c f).mem = s.mem := rfl
@[simp] theorem State.modCore_host (c : Nat) (f : Core → Core) : (s.modCore c f).host = s.host := rfl
@[simp] theorem State.modCore_lmem (c : Nat) (f : Core → Core) : (s.modCore c f).lmem = s.lmem := rfl
@[simp] theorem State.modCore_tiles (c : Nat) (f : Core → Core) : (s.modCore c f).tiles = s.tiles := rfl
@[simp] theorem State.modCore_slots (c : Nat) (f : Core → Core) : (s.modCore c f).slots = s.slots := rfl
@[simp] theorem State.modCore_clusters (c : Nat) (f : Core → Core) : (s.modCore c f).clusters = s.clusters := rfl
@[simp] theorem State.modCore_procs (c : Nat) (f : Core → Core) : (s.modCore c f).procs = s.procs := rfl
@[simp] theorem State.modCore_maps (c : Nat) (f : Core → Core) : (s.modCore c f).maps = s.maps := rfl
@[simp] theorem State.modCore_sync (c : Nat) (f : Core → Core) : (s.modCore c f).sync = s.sync := rfl
@[simp] theorem State.modCore_slices (c : Nat) (f : Core → Core) : (s.modCore c f).slices = s.slices := rfl
@[simp] theorem State.modCore_hostHomes (c : Nat) (f : Core → Core) : (s.modCore c f).hostHomes = s.hostHomes := rfl
@[simp] theorem State.modCore_moved (c : Nat) (f : Core → Core) : (s.modCore c f).moved = s.moved := rfl
@[simp] theorem State.modCore_senders (c : Nat) (f : Core → Core) : (s.modCore c f).senders = s.senders := rfl
@[simp] theorem State.modCore_parts (c : Nat) (f : Core → Core) : (s.modCore c f).parts = s.parts := rfl
@[simp] theorem State.modCore_queues (c : Nat) (f : Core → Core) : (s.modCore c f).queues = s.queues := rfl
@[simp] theorem State.modCore_tasks (c : Nat) (f : Core → Core) : (s.modCore c f).tasks = s.tasks := rfl
@[simp] theorem State.modCore_insts (c : Nat) (f : Core → Core) : (s.modCore c f).insts = s.insts := rfl
@[simp] theorem State.modCore_images (c : Nat) (f : Core → Core) : (s.modCore c f).images = s.images := rfl
@[simp] theorem State.modCore_jobs (c : Nat) (f : Core → Core) : (s.modCore c f).jobs = s.jobs := rfl
@[simp] theorem State.modCore_links (c : Nat) (f : Core → Core) : (s.modCore c f).links = s.links := rfl
@[simp] theorem State.modCore_solders (c : Nat) (f : Core → Core) : (s.modCore c f).solders = s.solders := rfl
@[simp] theorem State.modCore_peers (c : Nat) (f : Core → Core) : (s.modCore c f).peers = s.peers := rfl
@[simp] theorem State.modCore_routes (c : Nat) (f : Core → Core) : (s.modCore c f).routes = s.routes := rfl
@[simp] theorem State.modCore_switches (c : Nat) (f : Core → Core) : (s.modCore c f).switches = s.switches := rfl
@[simp] theorem State.modCore_owners (c : Nat) (f : Core → Core) : (s.modCore c f).owners = s.owners := rfl
@[simp] theorem State.modCore_remotes (c : Nat) (f : Core → Core) : (s.modCore c f).remotes = s.remotes := rfl
@[simp] theorem State.modCore_net (c : Nat) (f : Core → Core) : (s.modCore c f).net = s.net := rfl
@[simp] theorem State.modCore_mctrs (c : Nat) (f : Core → Core) : (s.modCore c f).mctrs = s.mctrs := rfl
@[simp] theorem State.modCore_tqueue (c : Nat) (f : Core → Core) : (s.modCore c f).tqueue = s.tqueue := rfl
@[simp] theorem State.modCore_devId (c : Nat) (f : Core → Core) : (s.modCore c f).devId = s.devId := rfl
@[simp] theorem State.modCore_hot (c : Nat) (f : Core → Core) : (s.modCore c f).hot = s.hot := rfl
@[simp] theorem State.modCore_capped (c : Nat) (f : Core → Core) : (s.modCore c f).capped = s.capped := rfl
@[simp] theorem State.modCore_boot (c : Nat) (f : Core → Core) : (s.modCore c f).boot = s.boot := rfl
@[simp] theorem State.modCore_mon (c : Nat) (f : Core → Core) : (s.modCore c f).mon = s.mon := rfl
@[simp] theorem State.modCore_hostSide (c : Nat) (f : Core → Core) : (s.modCore c f).hostSide = s.hostSide := rfl
@[simp] theorem State.modCore_nextTask (c : Nat) (f : Core → Core) : (s.modCore c f).nextTask = s.nextTask := rfl
@[simp] theorem State.modCore_nextInst (c : Nat) (f : Core → Core) : (s.modCore c f).nextInst = s.nextInst := rfl
@[simp] theorem State.modCore_nextCtx (c : Nat) (f : Core → Core) : (s.modCore c f).nextCtx = s.nextCtx := rfl
@[simp] theorem State.modCore_nextPkt (c : Nat) (f : Core → Core) : (s.modCore c f).nextPkt = s.nextPkt := rfl
@[simp] theorem State.modCore_clk (c : Nat) (f : Core → Core) : (s.modCore c f).clk = s.clk := rfl
@[simp] theorem State.modCore_stepNo (c : Nat) (f : Core → Core) : (s.modCore c f).stepNo = s.stepNo := rfl
@[simp] theorem State.modCore_freeNo (c : Nat) (f : Core → Core) : (s.modCore c f).freeNo = s.freeNo := rfl
@[simp] theorem State.modCore_cur (c : Nat) (f : Core → Core) : (s.modCore c f).cur = s.cur := rfl
@[simp] theorem State.modCore_ev (c : Nat) (f : Core → Core) : (s.modCore c f).ev = s.ev := rfl
@[simp] theorem State.modCore_agenda (c : Nat) (f : Core → Core) : (s.modCore c f).agenda = s.agenda := rfl
@[simp] theorem State.modCore_engineTurn (c : Nat) (f : Core → Core) : (s.modCore c f).engineTurn = s.engineTurn := rfl
@[simp] theorem State.modCore_engineNext (c : Nat) (f : Core → Core) : (s.modCore c f).engineNext = s.engineNext := rfl
@[simp] theorem State.modCore_lastCore (c : Nat) (f : Core → Core) : (s.modCore c f).lastCore = s.lastCore := rfl
@[simp] theorem State.modCore_colour (c : Nat) (f : Core → Core) : (s.modCore c f).colour = s.colour := rfl

@[simp] theorem State.setCtx_mem (c i : Nat) (x : Ctx) : (s.setCtx c i x).mem = s.mem := rfl
@[simp] theorem State.setCtx_host (c i : Nat) (x : Ctx) : (s.setCtx c i x).host = s.host := rfl
@[simp] theorem State.setCtx_lmem (c i : Nat) (x : Ctx) : (s.setCtx c i x).lmem = s.lmem := rfl
@[simp] theorem State.setCtx_tiles (c i : Nat) (x : Ctx) : (s.setCtx c i x).tiles = s.tiles := rfl
@[simp] theorem State.setCtx_slots (c i : Nat) (x : Ctx) : (s.setCtx c i x).slots = s.slots := rfl
@[simp] theorem State.setCtx_clusters (c i : Nat) (x : Ctx) : (s.setCtx c i x).clusters = s.clusters := rfl
@[simp] theorem State.setCtx_procs (c i : Nat) (x : Ctx) : (s.setCtx c i x).procs = s.procs := rfl
@[simp] theorem State.setCtx_maps (c i : Nat) (x : Ctx) : (s.setCtx c i x).maps = s.maps := rfl
@[simp] theorem State.setCtx_sync (c i : Nat) (x : Ctx) : (s.setCtx c i x).sync = s.sync := rfl
@[simp] theorem State.setCtx_slices (c i : Nat) (x : Ctx) : (s.setCtx c i x).slices = s.slices := rfl
@[simp] theorem State.setCtx_hostHomes (c i : Nat) (x : Ctx) : (s.setCtx c i x).hostHomes = s.hostHomes := rfl
@[simp] theorem State.setCtx_moved (c i : Nat) (x : Ctx) : (s.setCtx c i x).moved = s.moved := rfl
@[simp] theorem State.setCtx_senders (c i : Nat) (x : Ctx) : (s.setCtx c i x).senders = s.senders := rfl
@[simp] theorem State.setCtx_parts (c i : Nat) (x : Ctx) : (s.setCtx c i x).parts = s.parts := rfl
@[simp] theorem State.setCtx_queues (c i : Nat) (x : Ctx) : (s.setCtx c i x).queues = s.queues := rfl
@[simp] theorem State.setCtx_tasks (c i : Nat) (x : Ctx) : (s.setCtx c i x).tasks = s.tasks := rfl
@[simp] theorem State.setCtx_insts (c i : Nat) (x : Ctx) : (s.setCtx c i x).insts = s.insts := rfl
@[simp] theorem State.setCtx_images (c i : Nat) (x : Ctx) : (s.setCtx c i x).images = s.images := rfl
@[simp] theorem State.setCtx_jobs (c i : Nat) (x : Ctx) : (s.setCtx c i x).jobs = s.jobs := rfl
@[simp] theorem State.setCtx_links (c i : Nat) (x : Ctx) : (s.setCtx c i x).links = s.links := rfl
@[simp] theorem State.setCtx_solders (c i : Nat) (x : Ctx) : (s.setCtx c i x).solders = s.solders := rfl
@[simp] theorem State.setCtx_peers (c i : Nat) (x : Ctx) : (s.setCtx c i x).peers = s.peers := rfl
@[simp] theorem State.setCtx_routes (c i : Nat) (x : Ctx) : (s.setCtx c i x).routes = s.routes := rfl
@[simp] theorem State.setCtx_switches (c i : Nat) (x : Ctx) : (s.setCtx c i x).switches = s.switches := rfl
@[simp] theorem State.setCtx_owners (c i : Nat) (x : Ctx) : (s.setCtx c i x).owners = s.owners := rfl
@[simp] theorem State.setCtx_remotes (c i : Nat) (x : Ctx) : (s.setCtx c i x).remotes = s.remotes := rfl
@[simp] theorem State.setCtx_net (c i : Nat) (x : Ctx) : (s.setCtx c i x).net = s.net := rfl
@[simp] theorem State.setCtx_mctrs (c i : Nat) (x : Ctx) : (s.setCtx c i x).mctrs = s.mctrs := rfl
@[simp] theorem State.setCtx_tqueue (c i : Nat) (x : Ctx) : (s.setCtx c i x).tqueue = s.tqueue := rfl
@[simp] theorem State.setCtx_devId (c i : Nat) (x : Ctx) : (s.setCtx c i x).devId = s.devId := rfl
@[simp] theorem State.setCtx_hot (c i : Nat) (x : Ctx) : (s.setCtx c i x).hot = s.hot := rfl
@[simp] theorem State.setCtx_capped (c i : Nat) (x : Ctx) : (s.setCtx c i x).capped = s.capped := rfl
@[simp] theorem State.setCtx_boot (c i : Nat) (x : Ctx) : (s.setCtx c i x).boot = s.boot := rfl
@[simp] theorem State.setCtx_mon (c i : Nat) (x : Ctx) : (s.setCtx c i x).mon = s.mon := rfl
@[simp] theorem State.setCtx_hostSide (c i : Nat) (x : Ctx) : (s.setCtx c i x).hostSide = s.hostSide := rfl
@[simp] theorem State.setCtx_nextTask (c i : Nat) (x : Ctx) : (s.setCtx c i x).nextTask = s.nextTask := rfl
@[simp] theorem State.setCtx_nextInst (c i : Nat) (x : Ctx) : (s.setCtx c i x).nextInst = s.nextInst := rfl
@[simp] theorem State.setCtx_nextCtx (c i : Nat) (x : Ctx) : (s.setCtx c i x).nextCtx = s.nextCtx := rfl
@[simp] theorem State.setCtx_nextPkt (c i : Nat) (x : Ctx) : (s.setCtx c i x).nextPkt = s.nextPkt := rfl
@[simp] theorem State.setCtx_clk (c i : Nat) (x : Ctx) : (s.setCtx c i x).clk = s.clk := rfl
@[simp] theorem State.setCtx_stepNo (c i : Nat) (x : Ctx) : (s.setCtx c i x).stepNo = s.stepNo := rfl
@[simp] theorem State.setCtx_freeNo (c i : Nat) (x : Ctx) : (s.setCtx c i x).freeNo = s.freeNo := rfl
@[simp] theorem State.setCtx_cur (c i : Nat) (x : Ctx) : (s.setCtx c i x).cur = s.cur := rfl
@[simp] theorem State.setCtx_ev (c i : Nat) (x : Ctx) : (s.setCtx c i x).ev = s.ev := rfl
@[simp] theorem State.setCtx_agenda (c i : Nat) (x : Ctx) : (s.setCtx c i x).agenda = s.agenda := rfl
@[simp] theorem State.setCtx_engineTurn (c i : Nat) (x : Ctx) : (s.setCtx c i x).engineTurn = s.engineTurn := rfl
@[simp] theorem State.setCtx_engineNext (c i : Nat) (x : Ctx) : (s.setCtx c i x).engineNext = s.engineNext := rfl
@[simp] theorem State.setCtx_lastCore (c i : Nat) (x : Ctx) : (s.setCtx c i x).lastCore = s.lastCore := rfl
@[simp] theorem State.setCtx_colour (c i : Nat) (x : Ctx) : (s.setCtx c i x).colour = s.colour := rfl

@[simp] theorem State.modCtx_mem (c i : Nat) (f : Ctx → Ctx) : (s.modCtx c i f).mem = s.mem := rfl
@[simp] theorem State.modCtx_host (c i : Nat) (f : Ctx → Ctx) : (s.modCtx c i f).host = s.host := rfl
@[simp] theorem State.modCtx_lmem (c i : Nat) (f : Ctx → Ctx) : (s.modCtx c i f).lmem = s.lmem := rfl
@[simp] theorem State.modCtx_tiles (c i : Nat) (f : Ctx → Ctx) : (s.modCtx c i f).tiles = s.tiles := rfl
@[simp] theorem State.modCtx_slots (c i : Nat) (f : Ctx → Ctx) : (s.modCtx c i f).slots = s.slots := rfl
@[simp] theorem State.modCtx_clusters (c i : Nat) (f : Ctx → Ctx) : (s.modCtx c i f).clusters = s.clusters := rfl
@[simp] theorem State.modCtx_procs (c i : Nat) (f : Ctx → Ctx) : (s.modCtx c i f).procs = s.procs := rfl
@[simp] theorem State.modCtx_maps (c i : Nat) (f : Ctx → Ctx) : (s.modCtx c i f).maps = s.maps := rfl
@[simp] theorem State.modCtx_sync (c i : Nat) (f : Ctx → Ctx) : (s.modCtx c i f).sync = s.sync := rfl
@[simp] theorem State.modCtx_slices (c i : Nat) (f : Ctx → Ctx) : (s.modCtx c i f).slices = s.slices := rfl
@[simp] theorem State.modCtx_hostHomes (c i : Nat) (f : Ctx → Ctx) : (s.modCtx c i f).hostHomes = s.hostHomes := rfl
@[simp] theorem State.modCtx_moved (c i : Nat) (f : Ctx → Ctx) : (s.modCtx c i f).moved = s.moved := rfl
@[simp] theorem State.modCtx_senders (c i : Nat) (f : Ctx → Ctx) : (s.modCtx c i f).senders = s.senders := rfl
@[simp] theorem State.modCtx_parts (c i : Nat) (f : Ctx → Ctx) : (s.modCtx c i f).parts = s.parts := rfl
@[simp] theorem State.modCtx_queues (c i : Nat) (f : Ctx → Ctx) : (s.modCtx c i f).queues = s.queues := rfl
@[simp] theorem State.modCtx_tasks (c i : Nat) (f : Ctx → Ctx) : (s.modCtx c i f).tasks = s.tasks := rfl
@[simp] theorem State.modCtx_insts (c i : Nat) (f : Ctx → Ctx) : (s.modCtx c i f).insts = s.insts := rfl
@[simp] theorem State.modCtx_images (c i : Nat) (f : Ctx → Ctx) : (s.modCtx c i f).images = s.images := rfl
@[simp] theorem State.modCtx_jobs (c i : Nat) (f : Ctx → Ctx) : (s.modCtx c i f).jobs = s.jobs := rfl
@[simp] theorem State.modCtx_links (c i : Nat) (f : Ctx → Ctx) : (s.modCtx c i f).links = s.links := rfl
@[simp] theorem State.modCtx_solders (c i : Nat) (f : Ctx → Ctx) : (s.modCtx c i f).solders = s.solders := rfl
@[simp] theorem State.modCtx_peers (c i : Nat) (f : Ctx → Ctx) : (s.modCtx c i f).peers = s.peers := rfl
@[simp] theorem State.modCtx_routes (c i : Nat) (f : Ctx → Ctx) : (s.modCtx c i f).routes = s.routes := rfl
@[simp] theorem State.modCtx_switches (c i : Nat) (f : Ctx → Ctx) : (s.modCtx c i f).switches = s.switches := rfl
@[simp] theorem State.modCtx_owners (c i : Nat) (f : Ctx → Ctx) : (s.modCtx c i f).owners = s.owners := rfl
@[simp] theorem State.modCtx_remotes (c i : Nat) (f : Ctx → Ctx) : (s.modCtx c i f).remotes = s.remotes := rfl
@[simp] theorem State.modCtx_net (c i : Nat) (f : Ctx → Ctx) : (s.modCtx c i f).net = s.net := rfl
@[simp] theorem State.modCtx_mctrs (c i : Nat) (f : Ctx → Ctx) : (s.modCtx c i f).mctrs = s.mctrs := rfl
@[simp] theorem State.modCtx_tqueue (c i : Nat) (f : Ctx → Ctx) : (s.modCtx c i f).tqueue = s.tqueue := rfl
@[simp] theorem State.modCtx_devId (c i : Nat) (f : Ctx → Ctx) : (s.modCtx c i f).devId = s.devId := rfl
@[simp] theorem State.modCtx_hot (c i : Nat) (f : Ctx → Ctx) : (s.modCtx c i f).hot = s.hot := rfl
@[simp] theorem State.modCtx_capped (c i : Nat) (f : Ctx → Ctx) : (s.modCtx c i f).capped = s.capped := rfl
@[simp] theorem State.modCtx_boot (c i : Nat) (f : Ctx → Ctx) : (s.modCtx c i f).boot = s.boot := rfl
@[simp] theorem State.modCtx_mon (c i : Nat) (f : Ctx → Ctx) : (s.modCtx c i f).mon = s.mon := rfl
@[simp] theorem State.modCtx_hostSide (c i : Nat) (f : Ctx → Ctx) : (s.modCtx c i f).hostSide = s.hostSide := rfl
@[simp] theorem State.modCtx_nextTask (c i : Nat) (f : Ctx → Ctx) : (s.modCtx c i f).nextTask = s.nextTask := rfl
@[simp] theorem State.modCtx_nextInst (c i : Nat) (f : Ctx → Ctx) : (s.modCtx c i f).nextInst = s.nextInst := rfl
@[simp] theorem State.modCtx_nextCtx (c i : Nat) (f : Ctx → Ctx) : (s.modCtx c i f).nextCtx = s.nextCtx := rfl
@[simp] theorem State.modCtx_nextPkt (c i : Nat) (f : Ctx → Ctx) : (s.modCtx c i f).nextPkt = s.nextPkt := rfl
@[simp] theorem State.modCtx_clk (c i : Nat) (f : Ctx → Ctx) : (s.modCtx c i f).clk = s.clk := rfl
@[simp] theorem State.modCtx_stepNo (c i : Nat) (f : Ctx → Ctx) : (s.modCtx c i f).stepNo = s.stepNo := rfl
@[simp] theorem State.modCtx_freeNo (c i : Nat) (f : Ctx → Ctx) : (s.modCtx c i f).freeNo = s.freeNo := rfl
@[simp] theorem State.modCtx_cur (c i : Nat) (f : Ctx → Ctx) : (s.modCtx c i f).cur = s.cur := rfl
@[simp] theorem State.modCtx_ev (c i : Nat) (f : Ctx → Ctx) : (s.modCtx c i f).ev = s.ev := rfl
@[simp] theorem State.modCtx_agenda (c i : Nat) (f : Ctx → Ctx) : (s.modCtx c i f).agenda = s.agenda := rfl
@[simp] theorem State.modCtx_engineTurn (c i : Nat) (f : Ctx → Ctx) : (s.modCtx c i f).engineTurn = s.engineTurn := rfl
@[simp] theorem State.modCtx_engineNext (c i : Nat) (f : Ctx → Ctx) : (s.modCtx c i f).engineNext = s.engineNext := rfl
@[simp] theorem State.modCtx_lastCore (c i : Nat) (f : Ctx → Ctx) : (s.modCtx c i f).lastCore = s.lastCore := rfl
@[simp] theorem State.modCtx_colour (c i : Nat) (f : Ctx → Ctx) : (s.modCtx c i f).colour = s.colour := rfl

@[simp] theorem State.modCurCore_mem (f : Core → Core) : (s.modCurCore f).mem = s.mem := rfl
@[simp] theorem State.modCurCore_host (f : Core → Core) : (s.modCurCore f).host = s.host := rfl
@[simp] theorem State.modCurCore_lmem (f : Core → Core) : (s.modCurCore f).lmem = s.lmem := rfl
@[simp] theorem State.modCurCore_tiles (f : Core → Core) : (s.modCurCore f).tiles = s.tiles := rfl
@[simp] theorem State.modCurCore_slots (f : Core → Core) : (s.modCurCore f).slots = s.slots := rfl
@[simp] theorem State.modCurCore_clusters (f : Core → Core) : (s.modCurCore f).clusters = s.clusters := rfl
@[simp] theorem State.modCurCore_procs (f : Core → Core) : (s.modCurCore f).procs = s.procs := rfl
@[simp] theorem State.modCurCore_maps (f : Core → Core) : (s.modCurCore f).maps = s.maps := rfl
@[simp] theorem State.modCurCore_sync (f : Core → Core) : (s.modCurCore f).sync = s.sync := rfl
@[simp] theorem State.modCurCore_slices (f : Core → Core) : (s.modCurCore f).slices = s.slices := rfl
@[simp] theorem State.modCurCore_hostHomes (f : Core → Core) : (s.modCurCore f).hostHomes = s.hostHomes := rfl
@[simp] theorem State.modCurCore_moved (f : Core → Core) : (s.modCurCore f).moved = s.moved := rfl
@[simp] theorem State.modCurCore_senders (f : Core → Core) : (s.modCurCore f).senders = s.senders := rfl
@[simp] theorem State.modCurCore_parts (f : Core → Core) : (s.modCurCore f).parts = s.parts := rfl
@[simp] theorem State.modCurCore_queues (f : Core → Core) : (s.modCurCore f).queues = s.queues := rfl
@[simp] theorem State.modCurCore_tasks (f : Core → Core) : (s.modCurCore f).tasks = s.tasks := rfl
@[simp] theorem State.modCurCore_insts (f : Core → Core) : (s.modCurCore f).insts = s.insts := rfl
@[simp] theorem State.modCurCore_images (f : Core → Core) : (s.modCurCore f).images = s.images := rfl
@[simp] theorem State.modCurCore_jobs (f : Core → Core) : (s.modCurCore f).jobs = s.jobs := rfl
@[simp] theorem State.modCurCore_links (f : Core → Core) : (s.modCurCore f).links = s.links := rfl
@[simp] theorem State.modCurCore_solders (f : Core → Core) : (s.modCurCore f).solders = s.solders := rfl
@[simp] theorem State.modCurCore_peers (f : Core → Core) : (s.modCurCore f).peers = s.peers := rfl
@[simp] theorem State.modCurCore_routes (f : Core → Core) : (s.modCurCore f).routes = s.routes := rfl
@[simp] theorem State.modCurCore_switches (f : Core → Core) : (s.modCurCore f).switches = s.switches := rfl
@[simp] theorem State.modCurCore_owners (f : Core → Core) : (s.modCurCore f).owners = s.owners := rfl
@[simp] theorem State.modCurCore_remotes (f : Core → Core) : (s.modCurCore f).remotes = s.remotes := rfl
@[simp] theorem State.modCurCore_net (f : Core → Core) : (s.modCurCore f).net = s.net := rfl
@[simp] theorem State.modCurCore_mctrs (f : Core → Core) : (s.modCurCore f).mctrs = s.mctrs := rfl
@[simp] theorem State.modCurCore_tqueue (f : Core → Core) : (s.modCurCore f).tqueue = s.tqueue := rfl
@[simp] theorem State.modCurCore_devId (f : Core → Core) : (s.modCurCore f).devId = s.devId := rfl
@[simp] theorem State.modCurCore_hot (f : Core → Core) : (s.modCurCore f).hot = s.hot := rfl
@[simp] theorem State.modCurCore_capped (f : Core → Core) : (s.modCurCore f).capped = s.capped := rfl
@[simp] theorem State.modCurCore_boot (f : Core → Core) : (s.modCurCore f).boot = s.boot := rfl
@[simp] theorem State.modCurCore_mon (f : Core → Core) : (s.modCurCore f).mon = s.mon := rfl
@[simp] theorem State.modCurCore_hostSide (f : Core → Core) : (s.modCurCore f).hostSide = s.hostSide := rfl
@[simp] theorem State.modCurCore_nextTask (f : Core → Core) : (s.modCurCore f).nextTask = s.nextTask := rfl
@[simp] theorem State.modCurCore_nextInst (f : Core → Core) : (s.modCurCore f).nextInst = s.nextInst := rfl
@[simp] theorem State.modCurCore_nextCtx (f : Core → Core) : (s.modCurCore f).nextCtx = s.nextCtx := rfl
@[simp] theorem State.modCurCore_nextPkt (f : Core → Core) : (s.modCurCore f).nextPkt = s.nextPkt := rfl
@[simp] theorem State.modCurCore_clk (f : Core → Core) : (s.modCurCore f).clk = s.clk := rfl
@[simp] theorem State.modCurCore_stepNo (f : Core → Core) : (s.modCurCore f).stepNo = s.stepNo := rfl
@[simp] theorem State.modCurCore_freeNo (f : Core → Core) : (s.modCurCore f).freeNo = s.freeNo := rfl
@[simp] theorem State.modCurCore_cur (f : Core → Core) : (s.modCurCore f).cur = s.cur := rfl
@[simp] theorem State.modCurCore_ev (f : Core → Core) : (s.modCurCore f).ev = s.ev := rfl
@[simp] theorem State.modCurCore_agenda (f : Core → Core) : (s.modCurCore f).agenda = s.agenda := rfl
@[simp] theorem State.modCurCore_engineTurn (f : Core → Core) : (s.modCurCore f).engineTurn = s.engineTurn := rfl
@[simp] theorem State.modCurCore_engineNext (f : Core → Core) : (s.modCurCore f).engineNext = s.engineNext := rfl
@[simp] theorem State.modCurCore_lastCore (f : Core → Core) : (s.modCurCore f).lastCore = s.lastCore := rfl
@[simp] theorem State.modCurCore_colour (f : Core → Core) : (s.modCurCore f).colour = s.colour := rfl

@[simp] theorem State.modCur_mem (f : Ctx → Ctx) : (s.modCur f).mem = s.mem := rfl
@[simp] theorem State.modCur_host (f : Ctx → Ctx) : (s.modCur f).host = s.host := rfl
@[simp] theorem State.modCur_lmem (f : Ctx → Ctx) : (s.modCur f).lmem = s.lmem := rfl
@[simp] theorem State.modCur_tiles (f : Ctx → Ctx) : (s.modCur f).tiles = s.tiles := rfl
@[simp] theorem State.modCur_slots (f : Ctx → Ctx) : (s.modCur f).slots = s.slots := rfl
@[simp] theorem State.modCur_clusters (f : Ctx → Ctx) : (s.modCur f).clusters = s.clusters := rfl
@[simp] theorem State.modCur_procs (f : Ctx → Ctx) : (s.modCur f).procs = s.procs := rfl
@[simp] theorem State.modCur_maps (f : Ctx → Ctx) : (s.modCur f).maps = s.maps := rfl
@[simp] theorem State.modCur_sync (f : Ctx → Ctx) : (s.modCur f).sync = s.sync := rfl
@[simp] theorem State.modCur_slices (f : Ctx → Ctx) : (s.modCur f).slices = s.slices := rfl
@[simp] theorem State.modCur_hostHomes (f : Ctx → Ctx) : (s.modCur f).hostHomes = s.hostHomes := rfl
@[simp] theorem State.modCur_moved (f : Ctx → Ctx) : (s.modCur f).moved = s.moved := rfl
@[simp] theorem State.modCur_senders (f : Ctx → Ctx) : (s.modCur f).senders = s.senders := rfl
@[simp] theorem State.modCur_parts (f : Ctx → Ctx) : (s.modCur f).parts = s.parts := rfl
@[simp] theorem State.modCur_queues (f : Ctx → Ctx) : (s.modCur f).queues = s.queues := rfl
@[simp] theorem State.modCur_tasks (f : Ctx → Ctx) : (s.modCur f).tasks = s.tasks := rfl
@[simp] theorem State.modCur_insts (f : Ctx → Ctx) : (s.modCur f).insts = s.insts := rfl
@[simp] theorem State.modCur_images (f : Ctx → Ctx) : (s.modCur f).images = s.images := rfl
@[simp] theorem State.modCur_jobs (f : Ctx → Ctx) : (s.modCur f).jobs = s.jobs := rfl
@[simp] theorem State.modCur_links (f : Ctx → Ctx) : (s.modCur f).links = s.links := rfl
@[simp] theorem State.modCur_solders (f : Ctx → Ctx) : (s.modCur f).solders = s.solders := rfl
@[simp] theorem State.modCur_peers (f : Ctx → Ctx) : (s.modCur f).peers = s.peers := rfl
@[simp] theorem State.modCur_routes (f : Ctx → Ctx) : (s.modCur f).routes = s.routes := rfl
@[simp] theorem State.modCur_switches (f : Ctx → Ctx) : (s.modCur f).switches = s.switches := rfl
@[simp] theorem State.modCur_owners (f : Ctx → Ctx) : (s.modCur f).owners = s.owners := rfl
@[simp] theorem State.modCur_remotes (f : Ctx → Ctx) : (s.modCur f).remotes = s.remotes := rfl
@[simp] theorem State.modCur_net (f : Ctx → Ctx) : (s.modCur f).net = s.net := rfl
@[simp] theorem State.modCur_mctrs (f : Ctx → Ctx) : (s.modCur f).mctrs = s.mctrs := rfl
@[simp] theorem State.modCur_tqueue (f : Ctx → Ctx) : (s.modCur f).tqueue = s.tqueue := rfl
@[simp] theorem State.modCur_devId (f : Ctx → Ctx) : (s.modCur f).devId = s.devId := rfl
@[simp] theorem State.modCur_hot (f : Ctx → Ctx) : (s.modCur f).hot = s.hot := rfl
@[simp] theorem State.modCur_capped (f : Ctx → Ctx) : (s.modCur f).capped = s.capped := rfl
@[simp] theorem State.modCur_boot (f : Ctx → Ctx) : (s.modCur f).boot = s.boot := rfl
@[simp] theorem State.modCur_mon (f : Ctx → Ctx) : (s.modCur f).mon = s.mon := rfl
@[simp] theorem State.modCur_hostSide (f : Ctx → Ctx) : (s.modCur f).hostSide = s.hostSide := rfl
@[simp] theorem State.modCur_nextTask (f : Ctx → Ctx) : (s.modCur f).nextTask = s.nextTask := rfl
@[simp] theorem State.modCur_nextInst (f : Ctx → Ctx) : (s.modCur f).nextInst = s.nextInst := rfl
@[simp] theorem State.modCur_nextCtx (f : Ctx → Ctx) : (s.modCur f).nextCtx = s.nextCtx := rfl
@[simp] theorem State.modCur_nextPkt (f : Ctx → Ctx) : (s.modCur f).nextPkt = s.nextPkt := rfl
@[simp] theorem State.modCur_clk (f : Ctx → Ctx) : (s.modCur f).clk = s.clk := rfl
@[simp] theorem State.modCur_stepNo (f : Ctx → Ctx) : (s.modCur f).stepNo = s.stepNo := rfl
@[simp] theorem State.modCur_freeNo (f : Ctx → Ctx) : (s.modCur f).freeNo = s.freeNo := rfl
@[simp] theorem State.modCur_cur (f : Ctx → Ctx) : (s.modCur f).cur = s.cur := rfl
@[simp] theorem State.modCur_ev (f : Ctx → Ctx) : (s.modCur f).ev = s.ev := rfl
@[simp] theorem State.modCur_agenda (f : Ctx → Ctx) : (s.modCur f).agenda = s.agenda := rfl
@[simp] theorem State.modCur_engineTurn (f : Ctx → Ctx) : (s.modCur f).engineTurn = s.engineTurn := rfl
@[simp] theorem State.modCur_engineNext (f : Ctx → Ctx) : (s.modCur f).engineNext = s.engineNext := rfl
@[simp] theorem State.modCur_lastCore (f : Ctx → Ctx) : (s.modCur f).lastCore = s.lastCore := rfl
@[simp] theorem State.modCur_colour (f : Ctx → Ctx) : (s.modCur f).colour = s.colour := rfl

@[simp] theorem State.retire_mem : (s.retire).mem = s.mem := rfl
@[simp] theorem State.retire_host : (s.retire).host = s.host := rfl
@[simp] theorem State.retire_lmem : (s.retire).lmem = s.lmem := rfl
@[simp] theorem State.retire_tiles : (s.retire).tiles = s.tiles := rfl
@[simp] theorem State.retire_slots : (s.retire).slots = s.slots := rfl
@[simp] theorem State.retire_clusters : (s.retire).clusters = s.clusters := rfl
@[simp] theorem State.retire_procs : (s.retire).procs = s.procs := rfl
@[simp] theorem State.retire_maps : (s.retire).maps = s.maps := rfl
@[simp] theorem State.retire_sync : (s.retire).sync = s.sync := rfl
@[simp] theorem State.retire_slices : (s.retire).slices = s.slices := rfl
@[simp] theorem State.retire_hostHomes : (s.retire).hostHomes = s.hostHomes := rfl
@[simp] theorem State.retire_moved : (s.retire).moved = s.moved := rfl
@[simp] theorem State.retire_senders : (s.retire).senders = s.senders := rfl
@[simp] theorem State.retire_parts : (s.retire).parts = s.parts := rfl
@[simp] theorem State.retire_queues : (s.retire).queues = s.queues := rfl
@[simp] theorem State.retire_tasks : (s.retire).tasks = s.tasks := rfl
@[simp] theorem State.retire_insts : (s.retire).insts = s.insts := rfl
@[simp] theorem State.retire_images : (s.retire).images = s.images := rfl
@[simp] theorem State.retire_jobs : (s.retire).jobs = s.jobs := rfl
@[simp] theorem State.retire_links : (s.retire).links = s.links := rfl
@[simp] theorem State.retire_solders : (s.retire).solders = s.solders := rfl
@[simp] theorem State.retire_peers : (s.retire).peers = s.peers := rfl
@[simp] theorem State.retire_routes : (s.retire).routes = s.routes := rfl
@[simp] theorem State.retire_switches : (s.retire).switches = s.switches := rfl
@[simp] theorem State.retire_owners : (s.retire).owners = s.owners := rfl
@[simp] theorem State.retire_remotes : (s.retire).remotes = s.remotes := rfl
@[simp] theorem State.retire_net : (s.retire).net = s.net := rfl
@[simp] theorem State.retire_mctrs : (s.retire).mctrs = s.mctrs := rfl
@[simp] theorem State.retire_tqueue : (s.retire).tqueue = s.tqueue := rfl
@[simp] theorem State.retire_devId : (s.retire).devId = s.devId := rfl
@[simp] theorem State.retire_hot : (s.retire).hot = s.hot := rfl
@[simp] theorem State.retire_capped : (s.retire).capped = s.capped := rfl
@[simp] theorem State.retire_boot : (s.retire).boot = s.boot := rfl
@[simp] theorem State.retire_mon : (s.retire).mon = s.mon := rfl
@[simp] theorem State.retire_hostSide : (s.retire).hostSide = s.hostSide := rfl
@[simp] theorem State.retire_nextTask : (s.retire).nextTask = s.nextTask := rfl
@[simp] theorem State.retire_nextInst : (s.retire).nextInst = s.nextInst := rfl
@[simp] theorem State.retire_nextCtx : (s.retire).nextCtx = s.nextCtx := rfl
@[simp] theorem State.retire_nextPkt : (s.retire).nextPkt = s.nextPkt := rfl
@[simp] theorem State.retire_clk : (s.retire).clk = s.clk := rfl
@[simp] theorem State.retire_stepNo : (s.retire).stepNo = s.stepNo := rfl
@[simp] theorem State.retire_freeNo : (s.retire).freeNo = s.freeNo := rfl
@[simp] theorem State.retire_cur : (s.retire).cur = s.cur := rfl
@[simp] theorem State.retire_ev : (s.retire).ev = s.ev := rfl
@[simp] theorem State.retire_agenda : (s.retire).agenda = s.agenda := rfl
@[simp] theorem State.retire_engineTurn : (s.retire).engineTurn = s.engineTurn := rfl
@[simp] theorem State.retire_engineNext : (s.retire).engineNext = s.engineNext := rfl
@[simp] theorem State.retire_lastCore : (s.retire).lastCore = s.lastCore := rfl
@[simp] theorem State.retire_colour : (s.retire).colour = s.colour := rfl

@[simp] theorem State.retireTo_mem (p : Word) : (s.retireTo p).mem = s.mem := rfl
@[simp] theorem State.retireTo_host (p : Word) : (s.retireTo p).host = s.host := rfl
@[simp] theorem State.retireTo_lmem (p : Word) : (s.retireTo p).lmem = s.lmem := rfl
@[simp] theorem State.retireTo_tiles (p : Word) : (s.retireTo p).tiles = s.tiles := rfl
@[simp] theorem State.retireTo_slots (p : Word) : (s.retireTo p).slots = s.slots := rfl
@[simp] theorem State.retireTo_clusters (p : Word) : (s.retireTo p).clusters = s.clusters := rfl
@[simp] theorem State.retireTo_procs (p : Word) : (s.retireTo p).procs = s.procs := rfl
@[simp] theorem State.retireTo_maps (p : Word) : (s.retireTo p).maps = s.maps := rfl
@[simp] theorem State.retireTo_sync (p : Word) : (s.retireTo p).sync = s.sync := rfl
@[simp] theorem State.retireTo_slices (p : Word) : (s.retireTo p).slices = s.slices := rfl
@[simp] theorem State.retireTo_hostHomes (p : Word) : (s.retireTo p).hostHomes = s.hostHomes := rfl
@[simp] theorem State.retireTo_moved (p : Word) : (s.retireTo p).moved = s.moved := rfl
@[simp] theorem State.retireTo_senders (p : Word) : (s.retireTo p).senders = s.senders := rfl
@[simp] theorem State.retireTo_parts (p : Word) : (s.retireTo p).parts = s.parts := rfl
@[simp] theorem State.retireTo_queues (p : Word) : (s.retireTo p).queues = s.queues := rfl
@[simp] theorem State.retireTo_tasks (p : Word) : (s.retireTo p).tasks = s.tasks := rfl
@[simp] theorem State.retireTo_insts (p : Word) : (s.retireTo p).insts = s.insts := rfl
@[simp] theorem State.retireTo_images (p : Word) : (s.retireTo p).images = s.images := rfl
@[simp] theorem State.retireTo_jobs (p : Word) : (s.retireTo p).jobs = s.jobs := rfl
@[simp] theorem State.retireTo_links (p : Word) : (s.retireTo p).links = s.links := rfl
@[simp] theorem State.retireTo_solders (p : Word) : (s.retireTo p).solders = s.solders := rfl
@[simp] theorem State.retireTo_peers (p : Word) : (s.retireTo p).peers = s.peers := rfl
@[simp] theorem State.retireTo_routes (p : Word) : (s.retireTo p).routes = s.routes := rfl
@[simp] theorem State.retireTo_switches (p : Word) : (s.retireTo p).switches = s.switches := rfl
@[simp] theorem State.retireTo_owners (p : Word) : (s.retireTo p).owners = s.owners := rfl
@[simp] theorem State.retireTo_remotes (p : Word) : (s.retireTo p).remotes = s.remotes := rfl
@[simp] theorem State.retireTo_net (p : Word) : (s.retireTo p).net = s.net := rfl
@[simp] theorem State.retireTo_mctrs (p : Word) : (s.retireTo p).mctrs = s.mctrs := rfl
@[simp] theorem State.retireTo_tqueue (p : Word) : (s.retireTo p).tqueue = s.tqueue := rfl
@[simp] theorem State.retireTo_devId (p : Word) : (s.retireTo p).devId = s.devId := rfl
@[simp] theorem State.retireTo_hot (p : Word) : (s.retireTo p).hot = s.hot := rfl
@[simp] theorem State.retireTo_capped (p : Word) : (s.retireTo p).capped = s.capped := rfl
@[simp] theorem State.retireTo_boot (p : Word) : (s.retireTo p).boot = s.boot := rfl
@[simp] theorem State.retireTo_mon (p : Word) : (s.retireTo p).mon = s.mon := rfl
@[simp] theorem State.retireTo_hostSide (p : Word) : (s.retireTo p).hostSide = s.hostSide := rfl
@[simp] theorem State.retireTo_nextTask (p : Word) : (s.retireTo p).nextTask = s.nextTask := rfl
@[simp] theorem State.retireTo_nextInst (p : Word) : (s.retireTo p).nextInst = s.nextInst := rfl
@[simp] theorem State.retireTo_nextCtx (p : Word) : (s.retireTo p).nextCtx = s.nextCtx := rfl
@[simp] theorem State.retireTo_nextPkt (p : Word) : (s.retireTo p).nextPkt = s.nextPkt := rfl
@[simp] theorem State.retireTo_clk (p : Word) : (s.retireTo p).clk = s.clk := rfl
@[simp] theorem State.retireTo_stepNo (p : Word) : (s.retireTo p).stepNo = s.stepNo := rfl
@[simp] theorem State.retireTo_freeNo (p : Word) : (s.retireTo p).freeNo = s.freeNo := rfl
@[simp] theorem State.retireTo_cur (p : Word) : (s.retireTo p).cur = s.cur := rfl
@[simp] theorem State.retireTo_ev (p : Word) : (s.retireTo p).ev = s.ev := rfl
@[simp] theorem State.retireTo_agenda (p : Word) : (s.retireTo p).agenda = s.agenda := rfl
@[simp] theorem State.retireTo_engineTurn (p : Word) : (s.retireTo p).engineTurn = s.engineTurn := rfl
@[simp] theorem State.retireTo_engineNext (p : Word) : (s.retireTo p).engineNext = s.engineNext := rfl
@[simp] theorem State.retireTo_lastCore (p : Word) : (s.retireTo p).lastCore = s.lastCore := rfl
@[simp] theorem State.retireTo_colour (p : Word) : (s.retireTo p).colour = s.colour := rfl

@[simp] theorem State.orFlags_mem (f : Flags5) : (s.orFlags f).mem = s.mem := rfl
@[simp] theorem State.orFlags_host (f : Flags5) : (s.orFlags f).host = s.host := rfl
@[simp] theorem State.orFlags_lmem (f : Flags5) : (s.orFlags f).lmem = s.lmem := rfl
@[simp] theorem State.orFlags_tiles (f : Flags5) : (s.orFlags f).tiles = s.tiles := rfl
@[simp] theorem State.orFlags_slots (f : Flags5) : (s.orFlags f).slots = s.slots := rfl
@[simp] theorem State.orFlags_clusters (f : Flags5) : (s.orFlags f).clusters = s.clusters := rfl
@[simp] theorem State.orFlags_procs (f : Flags5) : (s.orFlags f).procs = s.procs := rfl
@[simp] theorem State.orFlags_maps (f : Flags5) : (s.orFlags f).maps = s.maps := rfl
@[simp] theorem State.orFlags_sync (f : Flags5) : (s.orFlags f).sync = s.sync := rfl
@[simp] theorem State.orFlags_slices (f : Flags5) : (s.orFlags f).slices = s.slices := rfl
@[simp] theorem State.orFlags_hostHomes (f : Flags5) : (s.orFlags f).hostHomes = s.hostHomes := rfl
@[simp] theorem State.orFlags_moved (f : Flags5) : (s.orFlags f).moved = s.moved := rfl
@[simp] theorem State.orFlags_senders (f : Flags5) : (s.orFlags f).senders = s.senders := rfl
@[simp] theorem State.orFlags_parts (f : Flags5) : (s.orFlags f).parts = s.parts := rfl
@[simp] theorem State.orFlags_queues (f : Flags5) : (s.orFlags f).queues = s.queues := rfl
@[simp] theorem State.orFlags_tasks (f : Flags5) : (s.orFlags f).tasks = s.tasks := rfl
@[simp] theorem State.orFlags_insts (f : Flags5) : (s.orFlags f).insts = s.insts := rfl
@[simp] theorem State.orFlags_images (f : Flags5) : (s.orFlags f).images = s.images := rfl
@[simp] theorem State.orFlags_jobs (f : Flags5) : (s.orFlags f).jobs = s.jobs := rfl
@[simp] theorem State.orFlags_links (f : Flags5) : (s.orFlags f).links = s.links := rfl
@[simp] theorem State.orFlags_solders (f : Flags5) : (s.orFlags f).solders = s.solders := rfl
@[simp] theorem State.orFlags_peers (f : Flags5) : (s.orFlags f).peers = s.peers := rfl
@[simp] theorem State.orFlags_routes (f : Flags5) : (s.orFlags f).routes = s.routes := rfl
@[simp] theorem State.orFlags_switches (f : Flags5) : (s.orFlags f).switches = s.switches := rfl
@[simp] theorem State.orFlags_owners (f : Flags5) : (s.orFlags f).owners = s.owners := rfl
@[simp] theorem State.orFlags_remotes (f : Flags5) : (s.orFlags f).remotes = s.remotes := rfl
@[simp] theorem State.orFlags_net (f : Flags5) : (s.orFlags f).net = s.net := rfl
@[simp] theorem State.orFlags_mctrs (f : Flags5) : (s.orFlags f).mctrs = s.mctrs := rfl
@[simp] theorem State.orFlags_tqueue (f : Flags5) : (s.orFlags f).tqueue = s.tqueue := rfl
@[simp] theorem State.orFlags_devId (f : Flags5) : (s.orFlags f).devId = s.devId := rfl
@[simp] theorem State.orFlags_hot (f : Flags5) : (s.orFlags f).hot = s.hot := rfl
@[simp] theorem State.orFlags_capped (f : Flags5) : (s.orFlags f).capped = s.capped := rfl
@[simp] theorem State.orFlags_boot (f : Flags5) : (s.orFlags f).boot = s.boot := rfl
@[simp] theorem State.orFlags_mon (f : Flags5) : (s.orFlags f).mon = s.mon := rfl
@[simp] theorem State.orFlags_hostSide (f : Flags5) : (s.orFlags f).hostSide = s.hostSide := rfl
@[simp] theorem State.orFlags_nextTask (f : Flags5) : (s.orFlags f).nextTask = s.nextTask := rfl
@[simp] theorem State.orFlags_nextInst (f : Flags5) : (s.orFlags f).nextInst = s.nextInst := rfl
@[simp] theorem State.orFlags_nextCtx (f : Flags5) : (s.orFlags f).nextCtx = s.nextCtx := rfl
@[simp] theorem State.orFlags_nextPkt (f : Flags5) : (s.orFlags f).nextPkt = s.nextPkt := rfl
@[simp] theorem State.orFlags_clk (f : Flags5) : (s.orFlags f).clk = s.clk := rfl
@[simp] theorem State.orFlags_stepNo (f : Flags5) : (s.orFlags f).stepNo = s.stepNo := rfl
@[simp] theorem State.orFlags_freeNo (f : Flags5) : (s.orFlags f).freeNo = s.freeNo := rfl
@[simp] theorem State.orFlags_cur (f : Flags5) : (s.orFlags f).cur = s.cur := rfl
@[simp] theorem State.orFlags_ev (f : Flags5) : (s.orFlags f).ev = s.ev := rfl
@[simp] theorem State.orFlags_agenda (f : Flags5) : (s.orFlags f).agenda = s.agenda := rfl
@[simp] theorem State.orFlags_engineTurn (f : Flags5) : (s.orFlags f).engineTurn = s.engineTurn := rfl
@[simp] theorem State.orFlags_engineNext (f : Flags5) : (s.orFlags f).engineNext = s.engineNext := rfl
@[simp] theorem State.orFlags_lastCore (f : Flags5) : (s.orFlags f).lastCore = s.lastCore := rfl
@[simp] theorem State.orFlags_colour (f : Flags5) : (s.orFlags f).colour = s.colour := rfl

@[simp] theorem State.modCluster_mem (k : Nat) (f : Cluster → Cluster) : (s.modCluster k f).mem = s.mem := rfl
@[simp] theorem State.modCluster_host (k : Nat) (f : Cluster → Cluster) : (s.modCluster k f).host = s.host := rfl
@[simp] theorem State.modCluster_lmem (k : Nat) (f : Cluster → Cluster) : (s.modCluster k f).lmem = s.lmem := rfl
@[simp] theorem State.modCluster_tiles (k : Nat) (f : Cluster → Cluster) : (s.modCluster k f).tiles = s.tiles := rfl
@[simp] theorem State.modCluster_slots (k : Nat) (f : Cluster → Cluster) : (s.modCluster k f).slots = s.slots := rfl
@[simp] theorem State.modCluster_cores (k : Nat) (f : Cluster → Cluster) : (s.modCluster k f).cores = s.cores := rfl
@[simp] theorem State.modCluster_procs (k : Nat) (f : Cluster → Cluster) : (s.modCluster k f).procs = s.procs := rfl
@[simp] theorem State.modCluster_maps (k : Nat) (f : Cluster → Cluster) : (s.modCluster k f).maps = s.maps := rfl
@[simp] theorem State.modCluster_sync (k : Nat) (f : Cluster → Cluster) : (s.modCluster k f).sync = s.sync := rfl
@[simp] theorem State.modCluster_slices (k : Nat) (f : Cluster → Cluster) : (s.modCluster k f).slices = s.slices := rfl
@[simp] theorem State.modCluster_hostHomes (k : Nat) (f : Cluster → Cluster) : (s.modCluster k f).hostHomes = s.hostHomes := rfl
@[simp] theorem State.modCluster_moved (k : Nat) (f : Cluster → Cluster) : (s.modCluster k f).moved = s.moved := rfl
@[simp] theorem State.modCluster_senders (k : Nat) (f : Cluster → Cluster) : (s.modCluster k f).senders = s.senders := rfl
@[simp] theorem State.modCluster_parts (k : Nat) (f : Cluster → Cluster) : (s.modCluster k f).parts = s.parts := rfl
@[simp] theorem State.modCluster_queues (k : Nat) (f : Cluster → Cluster) : (s.modCluster k f).queues = s.queues := rfl
@[simp] theorem State.modCluster_tasks (k : Nat) (f : Cluster → Cluster) : (s.modCluster k f).tasks = s.tasks := rfl
@[simp] theorem State.modCluster_insts (k : Nat) (f : Cluster → Cluster) : (s.modCluster k f).insts = s.insts := rfl
@[simp] theorem State.modCluster_images (k : Nat) (f : Cluster → Cluster) : (s.modCluster k f).images = s.images := rfl
@[simp] theorem State.modCluster_jobs (k : Nat) (f : Cluster → Cluster) : (s.modCluster k f).jobs = s.jobs := rfl
@[simp] theorem State.modCluster_links (k : Nat) (f : Cluster → Cluster) : (s.modCluster k f).links = s.links := rfl
@[simp] theorem State.modCluster_solders (k : Nat) (f : Cluster → Cluster) : (s.modCluster k f).solders = s.solders := rfl
@[simp] theorem State.modCluster_peers (k : Nat) (f : Cluster → Cluster) : (s.modCluster k f).peers = s.peers := rfl
@[simp] theorem State.modCluster_routes (k : Nat) (f : Cluster → Cluster) : (s.modCluster k f).routes = s.routes := rfl
@[simp] theorem State.modCluster_switches (k : Nat) (f : Cluster → Cluster) : (s.modCluster k f).switches = s.switches := rfl
@[simp] theorem State.modCluster_owners (k : Nat) (f : Cluster → Cluster) : (s.modCluster k f).owners = s.owners := rfl
@[simp] theorem State.modCluster_remotes (k : Nat) (f : Cluster → Cluster) : (s.modCluster k f).remotes = s.remotes := rfl
@[simp] theorem State.modCluster_net (k : Nat) (f : Cluster → Cluster) : (s.modCluster k f).net = s.net := rfl
@[simp] theorem State.modCluster_mctrs (k : Nat) (f : Cluster → Cluster) : (s.modCluster k f).mctrs = s.mctrs := rfl
@[simp] theorem State.modCluster_tqueue (k : Nat) (f : Cluster → Cluster) : (s.modCluster k f).tqueue = s.tqueue := rfl
@[simp] theorem State.modCluster_devId (k : Nat) (f : Cluster → Cluster) : (s.modCluster k f).devId = s.devId := rfl
@[simp] theorem State.modCluster_hot (k : Nat) (f : Cluster → Cluster) : (s.modCluster k f).hot = s.hot := rfl
@[simp] theorem State.modCluster_capped (k : Nat) (f : Cluster → Cluster) : (s.modCluster k f).capped = s.capped := rfl
@[simp] theorem State.modCluster_boot (k : Nat) (f : Cluster → Cluster) : (s.modCluster k f).boot = s.boot := rfl
@[simp] theorem State.modCluster_mon (k : Nat) (f : Cluster → Cluster) : (s.modCluster k f).mon = s.mon := rfl
@[simp] theorem State.modCluster_hostSide (k : Nat) (f : Cluster → Cluster) : (s.modCluster k f).hostSide = s.hostSide := rfl
@[simp] theorem State.modCluster_nextTask (k : Nat) (f : Cluster → Cluster) : (s.modCluster k f).nextTask = s.nextTask := rfl
@[simp] theorem State.modCluster_nextInst (k : Nat) (f : Cluster → Cluster) : (s.modCluster k f).nextInst = s.nextInst := rfl
@[simp] theorem State.modCluster_nextCtx (k : Nat) (f : Cluster → Cluster) : (s.modCluster k f).nextCtx = s.nextCtx := rfl
@[simp] theorem State.modCluster_nextPkt (k : Nat) (f : Cluster → Cluster) : (s.modCluster k f).nextPkt = s.nextPkt := rfl
@[simp] theorem State.modCluster_clk (k : Nat) (f : Cluster → Cluster) : (s.modCluster k f).clk = s.clk := rfl
@[simp] theorem State.modCluster_stepNo (k : Nat) (f : Cluster → Cluster) : (s.modCluster k f).stepNo = s.stepNo := rfl
@[simp] theorem State.modCluster_freeNo (k : Nat) (f : Cluster → Cluster) : (s.modCluster k f).freeNo = s.freeNo := rfl
@[simp] theorem State.modCluster_cur (k : Nat) (f : Cluster → Cluster) : (s.modCluster k f).cur = s.cur := rfl
@[simp] theorem State.modCluster_ev (k : Nat) (f : Cluster → Cluster) : (s.modCluster k f).ev = s.ev := rfl
@[simp] theorem State.modCluster_agenda (k : Nat) (f : Cluster → Cluster) : (s.modCluster k f).agenda = s.agenda := rfl
@[simp] theorem State.modCluster_engineTurn (k : Nat) (f : Cluster → Cluster) : (s.modCluster k f).engineTurn = s.engineTurn := rfl
@[simp] theorem State.modCluster_engineNext (k : Nat) (f : Cluster → Cluster) : (s.modCluster k f).engineNext = s.engineNext := rfl
@[simp] theorem State.modCluster_lastCore (k : Nat) (f : Cluster → Cluster) : (s.modCluster k f).lastCore = s.lastCore := rfl
@[simp] theorem State.modCluster_colour (k : Nat) (f : Cluster → Cluster) : (s.modCluster k f).colour = s.colour := rfl

@[simp] theorem State.modSlice_mem (n : Nat) (f : Slice → Slice) : (s.modSlice n f).mem = s.mem := rfl
@[simp] theorem State.modSlice_host (n : Nat) (f : Slice → Slice) : (s.modSlice n f).host = s.host := rfl
@[simp] theorem State.modSlice_lmem (n : Nat) (f : Slice → Slice) : (s.modSlice n f).lmem = s.lmem := rfl
@[simp] theorem State.modSlice_tiles (n : Nat) (f : Slice → Slice) : (s.modSlice n f).tiles = s.tiles := rfl
@[simp] theorem State.modSlice_slots (n : Nat) (f : Slice → Slice) : (s.modSlice n f).slots = s.slots := rfl
@[simp] theorem State.modSlice_cores (n : Nat) (f : Slice → Slice) : (s.modSlice n f).cores = s.cores := rfl
@[simp] theorem State.modSlice_clusters (n : Nat) (f : Slice → Slice) : (s.modSlice n f).clusters = s.clusters := rfl
@[simp] theorem State.modSlice_procs (n : Nat) (f : Slice → Slice) : (s.modSlice n f).procs = s.procs := rfl
@[simp] theorem State.modSlice_maps (n : Nat) (f : Slice → Slice) : (s.modSlice n f).maps = s.maps := rfl
@[simp] theorem State.modSlice_sync (n : Nat) (f : Slice → Slice) : (s.modSlice n f).sync = s.sync := rfl
@[simp] theorem State.modSlice_hostHomes (n : Nat) (f : Slice → Slice) : (s.modSlice n f).hostHomes = s.hostHomes := rfl
@[simp] theorem State.modSlice_moved (n : Nat) (f : Slice → Slice) : (s.modSlice n f).moved = s.moved := rfl
@[simp] theorem State.modSlice_senders (n : Nat) (f : Slice → Slice) : (s.modSlice n f).senders = s.senders := rfl
@[simp] theorem State.modSlice_parts (n : Nat) (f : Slice → Slice) : (s.modSlice n f).parts = s.parts := rfl
@[simp] theorem State.modSlice_queues (n : Nat) (f : Slice → Slice) : (s.modSlice n f).queues = s.queues := rfl
@[simp] theorem State.modSlice_tasks (n : Nat) (f : Slice → Slice) : (s.modSlice n f).tasks = s.tasks := rfl
@[simp] theorem State.modSlice_insts (n : Nat) (f : Slice → Slice) : (s.modSlice n f).insts = s.insts := rfl
@[simp] theorem State.modSlice_images (n : Nat) (f : Slice → Slice) : (s.modSlice n f).images = s.images := rfl
@[simp] theorem State.modSlice_jobs (n : Nat) (f : Slice → Slice) : (s.modSlice n f).jobs = s.jobs := rfl
@[simp] theorem State.modSlice_links (n : Nat) (f : Slice → Slice) : (s.modSlice n f).links = s.links := rfl
@[simp] theorem State.modSlice_solders (n : Nat) (f : Slice → Slice) : (s.modSlice n f).solders = s.solders := rfl
@[simp] theorem State.modSlice_peers (n : Nat) (f : Slice → Slice) : (s.modSlice n f).peers = s.peers := rfl
@[simp] theorem State.modSlice_routes (n : Nat) (f : Slice → Slice) : (s.modSlice n f).routes = s.routes := rfl
@[simp] theorem State.modSlice_switches (n : Nat) (f : Slice → Slice) : (s.modSlice n f).switches = s.switches := rfl
@[simp] theorem State.modSlice_owners (n : Nat) (f : Slice → Slice) : (s.modSlice n f).owners = s.owners := rfl
@[simp] theorem State.modSlice_remotes (n : Nat) (f : Slice → Slice) : (s.modSlice n f).remotes = s.remotes := rfl
@[simp] theorem State.modSlice_net (n : Nat) (f : Slice → Slice) : (s.modSlice n f).net = s.net := rfl
@[simp] theorem State.modSlice_mctrs (n : Nat) (f : Slice → Slice) : (s.modSlice n f).mctrs = s.mctrs := rfl
@[simp] theorem State.modSlice_tqueue (n : Nat) (f : Slice → Slice) : (s.modSlice n f).tqueue = s.tqueue := rfl
@[simp] theorem State.modSlice_devId (n : Nat) (f : Slice → Slice) : (s.modSlice n f).devId = s.devId := rfl
@[simp] theorem State.modSlice_hot (n : Nat) (f : Slice → Slice) : (s.modSlice n f).hot = s.hot := rfl
@[simp] theorem State.modSlice_capped (n : Nat) (f : Slice → Slice) : (s.modSlice n f).capped = s.capped := rfl
@[simp] theorem State.modSlice_boot (n : Nat) (f : Slice → Slice) : (s.modSlice n f).boot = s.boot := rfl
@[simp] theorem State.modSlice_mon (n : Nat) (f : Slice → Slice) : (s.modSlice n f).mon = s.mon := rfl
@[simp] theorem State.modSlice_hostSide (n : Nat) (f : Slice → Slice) : (s.modSlice n f).hostSide = s.hostSide := rfl
@[simp] theorem State.modSlice_nextTask (n : Nat) (f : Slice → Slice) : (s.modSlice n f).nextTask = s.nextTask := rfl
@[simp] theorem State.modSlice_nextInst (n : Nat) (f : Slice → Slice) : (s.modSlice n f).nextInst = s.nextInst := rfl
@[simp] theorem State.modSlice_nextCtx (n : Nat) (f : Slice → Slice) : (s.modSlice n f).nextCtx = s.nextCtx := rfl
@[simp] theorem State.modSlice_nextPkt (n : Nat) (f : Slice → Slice) : (s.modSlice n f).nextPkt = s.nextPkt := rfl
@[simp] theorem State.modSlice_clk (n : Nat) (f : Slice → Slice) : (s.modSlice n f).clk = s.clk := rfl
@[simp] theorem State.modSlice_stepNo (n : Nat) (f : Slice → Slice) : (s.modSlice n f).stepNo = s.stepNo := rfl
@[simp] theorem State.modSlice_freeNo (n : Nat) (f : Slice → Slice) : (s.modSlice n f).freeNo = s.freeNo := rfl
@[simp] theorem State.modSlice_cur (n : Nat) (f : Slice → Slice) : (s.modSlice n f).cur = s.cur := rfl
@[simp] theorem State.modSlice_ev (n : Nat) (f : Slice → Slice) : (s.modSlice n f).ev = s.ev := rfl
@[simp] theorem State.modSlice_agenda (n : Nat) (f : Slice → Slice) : (s.modSlice n f).agenda = s.agenda := rfl
@[simp] theorem State.modSlice_engineTurn (n : Nat) (f : Slice → Slice) : (s.modSlice n f).engineTurn = s.engineTurn := rfl
@[simp] theorem State.modSlice_engineNext (n : Nat) (f : Slice → Slice) : (s.modSlice n f).engineNext = s.engineNext := rfl
@[simp] theorem State.modSlice_lastCore (n : Nat) (f : Slice → Slice) : (s.modSlice n f).lastCore = s.lastCore := rfl
@[simp] theorem State.modSlice_colour (n : Nat) (f : Slice → Slice) : (s.modSlice n f).colour = s.colour := rfl

@[simp] theorem State.modQueue_mem (q : Nat) (f : HostQueue → HostQueue) : (s.modQueue q f).mem = s.mem := rfl
@[simp] theorem State.modQueue_host (q : Nat) (f : HostQueue → HostQueue) : (s.modQueue q f).host = s.host := rfl
@[simp] theorem State.modQueue_lmem (q : Nat) (f : HostQueue → HostQueue) : (s.modQueue q f).lmem = s.lmem := rfl
@[simp] theorem State.modQueue_tiles (q : Nat) (f : HostQueue → HostQueue) : (s.modQueue q f).tiles = s.tiles := rfl
@[simp] theorem State.modQueue_slots (q : Nat) (f : HostQueue → HostQueue) : (s.modQueue q f).slots = s.slots := rfl
@[simp] theorem State.modQueue_cores (q : Nat) (f : HostQueue → HostQueue) : (s.modQueue q f).cores = s.cores := rfl
@[simp] theorem State.modQueue_clusters (q : Nat) (f : HostQueue → HostQueue) : (s.modQueue q f).clusters = s.clusters := rfl
@[simp] theorem State.modQueue_procs (q : Nat) (f : HostQueue → HostQueue) : (s.modQueue q f).procs = s.procs := rfl
@[simp] theorem State.modQueue_maps (q : Nat) (f : HostQueue → HostQueue) : (s.modQueue q f).maps = s.maps := rfl
@[simp] theorem State.modQueue_sync (q : Nat) (f : HostQueue → HostQueue) : (s.modQueue q f).sync = s.sync := rfl
@[simp] theorem State.modQueue_slices (q : Nat) (f : HostQueue → HostQueue) : (s.modQueue q f).slices = s.slices := rfl
@[simp] theorem State.modQueue_hostHomes (q : Nat) (f : HostQueue → HostQueue) : (s.modQueue q f).hostHomes = s.hostHomes := rfl
@[simp] theorem State.modQueue_moved (q : Nat) (f : HostQueue → HostQueue) : (s.modQueue q f).moved = s.moved := rfl
@[simp] theorem State.modQueue_senders (q : Nat) (f : HostQueue → HostQueue) : (s.modQueue q f).senders = s.senders := rfl
@[simp] theorem State.modQueue_parts (q : Nat) (f : HostQueue → HostQueue) : (s.modQueue q f).parts = s.parts := rfl
@[simp] theorem State.modQueue_tasks (q : Nat) (f : HostQueue → HostQueue) : (s.modQueue q f).tasks = s.tasks := rfl
@[simp] theorem State.modQueue_insts (q : Nat) (f : HostQueue → HostQueue) : (s.modQueue q f).insts = s.insts := rfl
@[simp] theorem State.modQueue_images (q : Nat) (f : HostQueue → HostQueue) : (s.modQueue q f).images = s.images := rfl
@[simp] theorem State.modQueue_jobs (q : Nat) (f : HostQueue → HostQueue) : (s.modQueue q f).jobs = s.jobs := rfl
@[simp] theorem State.modQueue_links (q : Nat) (f : HostQueue → HostQueue) : (s.modQueue q f).links = s.links := rfl
@[simp] theorem State.modQueue_solders (q : Nat) (f : HostQueue → HostQueue) : (s.modQueue q f).solders = s.solders := rfl
@[simp] theorem State.modQueue_peers (q : Nat) (f : HostQueue → HostQueue) : (s.modQueue q f).peers = s.peers := rfl
@[simp] theorem State.modQueue_routes (q : Nat) (f : HostQueue → HostQueue) : (s.modQueue q f).routes = s.routes := rfl
@[simp] theorem State.modQueue_switches (q : Nat) (f : HostQueue → HostQueue) : (s.modQueue q f).switches = s.switches := rfl
@[simp] theorem State.modQueue_owners (q : Nat) (f : HostQueue → HostQueue) : (s.modQueue q f).owners = s.owners := rfl
@[simp] theorem State.modQueue_remotes (q : Nat) (f : HostQueue → HostQueue) : (s.modQueue q f).remotes = s.remotes := rfl
@[simp] theorem State.modQueue_net (q : Nat) (f : HostQueue → HostQueue) : (s.modQueue q f).net = s.net := rfl
@[simp] theorem State.modQueue_mctrs (q : Nat) (f : HostQueue → HostQueue) : (s.modQueue q f).mctrs = s.mctrs := rfl
@[simp] theorem State.modQueue_tqueue (q : Nat) (f : HostQueue → HostQueue) : (s.modQueue q f).tqueue = s.tqueue := rfl
@[simp] theorem State.modQueue_devId (q : Nat) (f : HostQueue → HostQueue) : (s.modQueue q f).devId = s.devId := rfl
@[simp] theorem State.modQueue_hot (q : Nat) (f : HostQueue → HostQueue) : (s.modQueue q f).hot = s.hot := rfl
@[simp] theorem State.modQueue_capped (q : Nat) (f : HostQueue → HostQueue) : (s.modQueue q f).capped = s.capped := rfl
@[simp] theorem State.modQueue_boot (q : Nat) (f : HostQueue → HostQueue) : (s.modQueue q f).boot = s.boot := rfl
@[simp] theorem State.modQueue_mon (q : Nat) (f : HostQueue → HostQueue) : (s.modQueue q f).mon = s.mon := rfl
@[simp] theorem State.modQueue_hostSide (q : Nat) (f : HostQueue → HostQueue) : (s.modQueue q f).hostSide = s.hostSide := rfl
@[simp] theorem State.modQueue_nextTask (q : Nat) (f : HostQueue → HostQueue) : (s.modQueue q f).nextTask = s.nextTask := rfl
@[simp] theorem State.modQueue_nextInst (q : Nat) (f : HostQueue → HostQueue) : (s.modQueue q f).nextInst = s.nextInst := rfl
@[simp] theorem State.modQueue_nextCtx (q : Nat) (f : HostQueue → HostQueue) : (s.modQueue q f).nextCtx = s.nextCtx := rfl
@[simp] theorem State.modQueue_nextPkt (q : Nat) (f : HostQueue → HostQueue) : (s.modQueue q f).nextPkt = s.nextPkt := rfl
@[simp] theorem State.modQueue_clk (q : Nat) (f : HostQueue → HostQueue) : (s.modQueue q f).clk = s.clk := rfl
@[simp] theorem State.modQueue_stepNo (q : Nat) (f : HostQueue → HostQueue) : (s.modQueue q f).stepNo = s.stepNo := rfl
@[simp] theorem State.modQueue_freeNo (q : Nat) (f : HostQueue → HostQueue) : (s.modQueue q f).freeNo = s.freeNo := rfl
@[simp] theorem State.modQueue_cur (q : Nat) (f : HostQueue → HostQueue) : (s.modQueue q f).cur = s.cur := rfl
@[simp] theorem State.modQueue_ev (q : Nat) (f : HostQueue → HostQueue) : (s.modQueue q f).ev = s.ev := rfl
@[simp] theorem State.modQueue_agenda (q : Nat) (f : HostQueue → HostQueue) : (s.modQueue q f).agenda = s.agenda := rfl
@[simp] theorem State.modQueue_engineTurn (q : Nat) (f : HostQueue → HostQueue) : (s.modQueue q f).engineTurn = s.engineTurn := rfl
@[simp] theorem State.modQueue_engineNext (q : Nat) (f : HostQueue → HostQueue) : (s.modQueue q f).engineNext = s.engineNext := rfl
@[simp] theorem State.modQueue_lastCore (q : Nat) (f : HostQueue → HostQueue) : (s.modQueue q f).lastCore = s.lastCore := rfl
@[simp] theorem State.modQueue_colour (q : Nat) (f : HostQueue → HostQueue) : (s.modQueue q f).colour = s.colour := rfl

@[simp] theorem State.modPart_mem (p : Nat) (f : Part → Part) : (s.modPart p f).mem = s.mem := rfl
@[simp] theorem State.modPart_host (p : Nat) (f : Part → Part) : (s.modPart p f).host = s.host := rfl
@[simp] theorem State.modPart_lmem (p : Nat) (f : Part → Part) : (s.modPart p f).lmem = s.lmem := rfl
@[simp] theorem State.modPart_tiles (p : Nat) (f : Part → Part) : (s.modPart p f).tiles = s.tiles := rfl
@[simp] theorem State.modPart_slots (p : Nat) (f : Part → Part) : (s.modPart p f).slots = s.slots := rfl
@[simp] theorem State.modPart_cores (p : Nat) (f : Part → Part) : (s.modPart p f).cores = s.cores := rfl
@[simp] theorem State.modPart_clusters (p : Nat) (f : Part → Part) : (s.modPart p f).clusters = s.clusters := rfl
@[simp] theorem State.modPart_procs (p : Nat) (f : Part → Part) : (s.modPart p f).procs = s.procs := rfl
@[simp] theorem State.modPart_maps (p : Nat) (f : Part → Part) : (s.modPart p f).maps = s.maps := rfl
@[simp] theorem State.modPart_sync (p : Nat) (f : Part → Part) : (s.modPart p f).sync = s.sync := rfl
@[simp] theorem State.modPart_slices (p : Nat) (f : Part → Part) : (s.modPart p f).slices = s.slices := rfl
@[simp] theorem State.modPart_hostHomes (p : Nat) (f : Part → Part) : (s.modPart p f).hostHomes = s.hostHomes := rfl
@[simp] theorem State.modPart_moved (p : Nat) (f : Part → Part) : (s.modPart p f).moved = s.moved := rfl
@[simp] theorem State.modPart_senders (p : Nat) (f : Part → Part) : (s.modPart p f).senders = s.senders := rfl
@[simp] theorem State.modPart_queues (p : Nat) (f : Part → Part) : (s.modPart p f).queues = s.queues := rfl
@[simp] theorem State.modPart_tasks (p : Nat) (f : Part → Part) : (s.modPart p f).tasks = s.tasks := rfl
@[simp] theorem State.modPart_insts (p : Nat) (f : Part → Part) : (s.modPart p f).insts = s.insts := rfl
@[simp] theorem State.modPart_images (p : Nat) (f : Part → Part) : (s.modPart p f).images = s.images := rfl
@[simp] theorem State.modPart_jobs (p : Nat) (f : Part → Part) : (s.modPart p f).jobs = s.jobs := rfl
@[simp] theorem State.modPart_links (p : Nat) (f : Part → Part) : (s.modPart p f).links = s.links := rfl
@[simp] theorem State.modPart_solders (p : Nat) (f : Part → Part) : (s.modPart p f).solders = s.solders := rfl
@[simp] theorem State.modPart_peers (p : Nat) (f : Part → Part) : (s.modPart p f).peers = s.peers := rfl
@[simp] theorem State.modPart_routes (p : Nat) (f : Part → Part) : (s.modPart p f).routes = s.routes := rfl
@[simp] theorem State.modPart_switches (p : Nat) (f : Part → Part) : (s.modPart p f).switches = s.switches := rfl
@[simp] theorem State.modPart_owners (p : Nat) (f : Part → Part) : (s.modPart p f).owners = s.owners := rfl
@[simp] theorem State.modPart_remotes (p : Nat) (f : Part → Part) : (s.modPart p f).remotes = s.remotes := rfl
@[simp] theorem State.modPart_net (p : Nat) (f : Part → Part) : (s.modPart p f).net = s.net := rfl
@[simp] theorem State.modPart_mctrs (p : Nat) (f : Part → Part) : (s.modPart p f).mctrs = s.mctrs := rfl
@[simp] theorem State.modPart_tqueue (p : Nat) (f : Part → Part) : (s.modPart p f).tqueue = s.tqueue := rfl
@[simp] theorem State.modPart_devId (p : Nat) (f : Part → Part) : (s.modPart p f).devId = s.devId := rfl
@[simp] theorem State.modPart_hot (p : Nat) (f : Part → Part) : (s.modPart p f).hot = s.hot := rfl
@[simp] theorem State.modPart_capped (p : Nat) (f : Part → Part) : (s.modPart p f).capped = s.capped := rfl
@[simp] theorem State.modPart_boot (p : Nat) (f : Part → Part) : (s.modPart p f).boot = s.boot := rfl
@[simp] theorem State.modPart_mon (p : Nat) (f : Part → Part) : (s.modPart p f).mon = s.mon := rfl
@[simp] theorem State.modPart_hostSide (p : Nat) (f : Part → Part) : (s.modPart p f).hostSide = s.hostSide := rfl
@[simp] theorem State.modPart_nextTask (p : Nat) (f : Part → Part) : (s.modPart p f).nextTask = s.nextTask := rfl
@[simp] theorem State.modPart_nextInst (p : Nat) (f : Part → Part) : (s.modPart p f).nextInst = s.nextInst := rfl
@[simp] theorem State.modPart_nextCtx (p : Nat) (f : Part → Part) : (s.modPart p f).nextCtx = s.nextCtx := rfl
@[simp] theorem State.modPart_nextPkt (p : Nat) (f : Part → Part) : (s.modPart p f).nextPkt = s.nextPkt := rfl
@[simp] theorem State.modPart_clk (p : Nat) (f : Part → Part) : (s.modPart p f).clk = s.clk := rfl
@[simp] theorem State.modPart_stepNo (p : Nat) (f : Part → Part) : (s.modPart p f).stepNo = s.stepNo := rfl
@[simp] theorem State.modPart_freeNo (p : Nat) (f : Part → Part) : (s.modPart p f).freeNo = s.freeNo := rfl
@[simp] theorem State.modPart_cur (p : Nat) (f : Part → Part) : (s.modPart p f).cur = s.cur := rfl
@[simp] theorem State.modPart_ev (p : Nat) (f : Part → Part) : (s.modPart p f).ev = s.ev := rfl
@[simp] theorem State.modPart_agenda (p : Nat) (f : Part → Part) : (s.modPart p f).agenda = s.agenda := rfl
@[simp] theorem State.modPart_engineTurn (p : Nat) (f : Part → Part) : (s.modPart p f).engineTurn = s.engineTurn := rfl
@[simp] theorem State.modPart_engineNext (p : Nat) (f : Part → Part) : (s.modPart p f).engineNext = s.engineNext := rfl
@[simp] theorem State.modPart_lastCore (p : Nat) (f : Part → Part) : (s.modPart p f).lastCore = s.lastCore := rfl
@[simp] theorem State.modPart_colour (p : Nat) (f : Part → Part) : (s.modPart p f).colour = s.colour := rfl

@[simp] theorem State.post_mem (i : Instr) (e : Ev) : (s.post i e).mem = s.mem := rfl
@[simp] theorem State.post_host (i : Instr) (e : Ev) : (s.post i e).host = s.host := rfl
@[simp] theorem State.post_lmem (i : Instr) (e : Ev) : (s.post i e).lmem = s.lmem := rfl
@[simp] theorem State.post_tiles (i : Instr) (e : Ev) : (s.post i e).tiles = s.tiles := rfl
@[simp] theorem State.post_slots (i : Instr) (e : Ev) : (s.post i e).slots = s.slots := rfl
@[simp] theorem State.post_cores (i : Instr) (e : Ev) : (s.post i e).cores = s.cores := rfl
@[simp] theorem State.post_clusters (i : Instr) (e : Ev) : (s.post i e).clusters = s.clusters := rfl
@[simp] theorem State.post_procs (i : Instr) (e : Ev) : (s.post i e).procs = s.procs := rfl
@[simp] theorem State.post_maps (i : Instr) (e : Ev) : (s.post i e).maps = s.maps := rfl
@[simp] theorem State.post_sync (i : Instr) (e : Ev) : (s.post i e).sync = s.sync := rfl
@[simp] theorem State.post_slices (i : Instr) (e : Ev) : (s.post i e).slices = s.slices := rfl
@[simp] theorem State.post_hostHomes (i : Instr) (e : Ev) : (s.post i e).hostHomes = s.hostHomes := rfl
@[simp] theorem State.post_moved (i : Instr) (e : Ev) : (s.post i e).moved = s.moved := rfl
@[simp] theorem State.post_senders (i : Instr) (e : Ev) : (s.post i e).senders = s.senders := rfl
@[simp] theorem State.post_parts (i : Instr) (e : Ev) : (s.post i e).parts = s.parts := rfl
@[simp] theorem State.post_queues (i : Instr) (e : Ev) : (s.post i e).queues = s.queues := rfl
@[simp] theorem State.post_tasks (i : Instr) (e : Ev) : (s.post i e).tasks = s.tasks := rfl
@[simp] theorem State.post_insts (i : Instr) (e : Ev) : (s.post i e).insts = s.insts := rfl
@[simp] theorem State.post_images (i : Instr) (e : Ev) : (s.post i e).images = s.images := rfl
@[simp] theorem State.post_jobs (i : Instr) (e : Ev) : (s.post i e).jobs = s.jobs := rfl
@[simp] theorem State.post_links (i : Instr) (e : Ev) : (s.post i e).links = s.links := rfl
@[simp] theorem State.post_solders (i : Instr) (e : Ev) : (s.post i e).solders = s.solders := rfl
@[simp] theorem State.post_peers (i : Instr) (e : Ev) : (s.post i e).peers = s.peers := rfl
@[simp] theorem State.post_routes (i : Instr) (e : Ev) : (s.post i e).routes = s.routes := rfl
@[simp] theorem State.post_switches (i : Instr) (e : Ev) : (s.post i e).switches = s.switches := rfl
@[simp] theorem State.post_owners (i : Instr) (e : Ev) : (s.post i e).owners = s.owners := rfl
@[simp] theorem State.post_remotes (i : Instr) (e : Ev) : (s.post i e).remotes = s.remotes := rfl
@[simp] theorem State.post_net (i : Instr) (e : Ev) : (s.post i e).net = s.net := rfl
@[simp] theorem State.post_mctrs (i : Instr) (e : Ev) : (s.post i e).mctrs = s.mctrs := rfl
@[simp] theorem State.post_tqueue (i : Instr) (e : Ev) : (s.post i e).tqueue = s.tqueue := rfl
@[simp] theorem State.post_devId (i : Instr) (e : Ev) : (s.post i e).devId = s.devId := rfl
@[simp] theorem State.post_hot (i : Instr) (e : Ev) : (s.post i e).hot = s.hot := rfl
@[simp] theorem State.post_capped (i : Instr) (e : Ev) : (s.post i e).capped = s.capped := rfl
@[simp] theorem State.post_boot (i : Instr) (e : Ev) : (s.post i e).boot = s.boot := rfl
@[simp] theorem State.post_mon (i : Instr) (e : Ev) : (s.post i e).mon = s.mon := rfl
@[simp] theorem State.post_hostSide (i : Instr) (e : Ev) : (s.post i e).hostSide = s.hostSide := rfl
@[simp] theorem State.post_nextTask (i : Instr) (e : Ev) : (s.post i e).nextTask = s.nextTask := rfl
@[simp] theorem State.post_nextInst (i : Instr) (e : Ev) : (s.post i e).nextInst = s.nextInst := rfl
@[simp] theorem State.post_nextCtx (i : Instr) (e : Ev) : (s.post i e).nextCtx = s.nextCtx := rfl
@[simp] theorem State.post_nextPkt (i : Instr) (e : Ev) : (s.post i e).nextPkt = s.nextPkt := rfl
@[simp] theorem State.post_clk (i : Instr) (e : Ev) : (s.post i e).clk = s.clk := rfl
@[simp] theorem State.post_stepNo (i : Instr) (e : Ev) : (s.post i e).stepNo = s.stepNo := rfl
@[simp] theorem State.post_freeNo (i : Instr) (e : Ev) : (s.post i e).freeNo = s.freeNo := rfl
@[simp] theorem State.post_cur (i : Instr) (e : Ev) : (s.post i e).cur = s.cur := rfl
@[simp] theorem State.post_ev (i : Instr) (e : Ev) : (s.post i e).ev = s.ev := rfl
@[simp] theorem State.post_engineTurn (i : Instr) (e : Ev) : (s.post i e).engineTurn = s.engineTurn := rfl
@[simp] theorem State.post_engineNext (i : Instr) (e : Ev) : (s.post i e).engineNext = s.engineNext := rfl
@[simp] theorem State.post_lastCore (i : Instr) (e : Ev) : (s.post i e).lastCore = s.lastCore := rfl
@[simp] theorem State.post_colour (i : Instr) (e : Ev) : (s.post i e).colour = s.colour := rfl

/-! ## Cores, contexts and units read back -/

@[simp] theorem State.core_setCore_same (c : Nat) (k : Core) : (s.setCore c k).core c = k :=
  NMap.get_put_same s.cores c k Core.idle

theorem State.core_setCore_other (c d : Nat) (k : Core) (h : d ≠ c) : (s.setCore c k).core d = s.core d :=
  NMap.get_put_other s.cores c d k Core.idle h

@[simp] theorem State.core_modCore_same (c : Nat) (f : Core → Core) : (s.modCore c f).core c = f (s.core c) :=
  s.core_setCore_same c _

theorem State.core_modCore_other (c d : Nat) (f : Core → Core) (h : d ≠ c) : (s.modCore c f).core d = s.core d :=
  s.core_setCore_other c d _ h

@[simp] theorem State.curCore_modCurCore (f : Core → Core) : (s.modCurCore f).curCore = f s.curCore :=
  s.core_modCore_same s.cur.1 f

@[simp] theorem State.cluster_modCluster_same (k : Nat) (f : Cluster → Cluster) :
    (s.modCluster k f).cluster k = f (s.cluster k) := NMap.get_put_same s.clusters k _ Cluster.zero

theorem State.cluster_modCluster_other (k j : Nat) (f : Cluster → Cluster) (h : j ≠ k) :
    (s.modCluster k f).cluster j = s.cluster j := NMap.get_put_other s.clusters k j _ Cluster.zero h

@[simp] theorem State.slice_modSlice_same (k : Nat) (f : Slice → Slice) : (s.modSlice k f).slice k = f (s.slice k) :=
  NMap.get_put_same s.slices k _ Slice.zero

@[simp] theorem State.queue_modQueue_same (k : Nat) (f : HostQueue → HostQueue) : (s.modQueue k f).queue k = f (s.queue k) :=
  NMap.get_put_same s.queues k _ HostQueue.zero

theorem State.queue_modQueue_other (k j : Nat) (f : HostQueue → HostQueue) (h : j ≠ k) :
    (s.modQueue k f).queue j = s.queue j := NMap.get_put_other s.queues k j _ HostQueue.zero h

@[simp] theorem State.part_modPart_same (k : Nat) (f : Part → Part) : (s.modPart k f).part k = f (s.part k) :=
  NMap.get_put_same s.parts k _ _

@[simp] theorem Core.ctx_setCtx_same (k : Core) (i : Nat) (x : Ctx) (h : i < 11) : (k.setCtx i x).ctx i = x := by
  simp [Core.ctx, Core.setCtx, h]

theorem Core.ctx_setCtx_other (k : Core) (i j : Nat) (x : Ctx) (h : j ≠ i) : (k.setCtx i x).ctx j = k.ctx j := by
  unfold Core.ctx Core.setCtx
  rw [Vector.getElem?_setIfInBounds_ne (Ne.symm h)]

@[simp] theorem State.ctx_setCtx_same (c i : Nat) (x : Ctx) (h : i < 11) : (s.setCtx c i x).ctx c i = x := by
  simp [State.ctx, State.setCtx, h]

theorem State.ctx_setCtx_other (c i d j : Nat) (x : Ctx) (h : (d, j) ≠ (c, i)) : (s.setCtx c i x).ctx d j = s.ctx d j := by
  unfold State.ctx State.setCtx
  by_cases hd : d = c
  · subst hd
    rw [State.core_modCore_same, Core.ctx_setCtx_other]
    rintro rfl
    exact h rfl
  · rw [State.core_modCore_other _ _ _ _ hd]

@[simp] theorem State.curCtx_modCur (f : Ctx → Ctx) (h : s.cur.2 < 11) : (s.modCur f).curCtx = f s.curCtx :=
  s.ctx_setCtx_same s.cur.1 s.cur.2 _ h

/-- The fields of the issuing core but its contexts stand when one of its contexts changes. -/
theorem State.curCore_modCur (f : Ctx → Ctx) : (s.modCur f).curCore = s.curCore.setCtx s.cur.2 (f s.curCtx) :=
  s.core_modCore_same s.cur.1 _

@[simp] theorem State.curCtx_modCurCore (f : Core → Core) (h : ∀ k : Core, (f k).ctxs = k.ctxs) :
    (s.modCurCore f).curCtx = s.curCtx := by
  show Core.ctx ((s.modCurCore f).core s.cur.1) s.cur.2 = _
  rw [State.modCurCore, State.core_modCore_same]
  simp [Core.ctx, h, State.curCtx, State.ctx]

end Sys2Proof.Machine
end

