-- ==== Sys2Proof/Laws/Ops.lean ====
section
/-! SUPPORT. What the shared operations can do: registers, retiring, running an instruction, taking an exception. -/

namespace Sys2Proof.Machine

/-! ## Every meaning answers a next state -/

theorem runInstr_total (m : M Unit) (s : State) : ∃ t, runInstr m s = .next t := by
  unfold runInstr
  split <;> exact ⟨_, rfl⟩

theorem runInstr_ok {m : M Unit} {s t : State} (h : m s = .ok () t) : runInstr m s = .next t := by
  simp [runInstr, h]

theorem runInstr_trap {m : M Unit} {s t : State} {c cls p : Nat} {v : Word} (h : m s = .error (.trap c v cls p) t) :
    runInstr m s = .next (t.takeTrap t.cur.1 t.cur.2 ⟨c, v, cls, p, t.curCtx.pc⟩) := by
  simp [runInstr, h]

theorem runInstr_wait {m : M Unit} {s t : State} {w : Wait} (h : m s = .error (.wait w) t) :
    runInstr m s = .next (t.modCur (fun x => { x with wait := some w })) := by
  simp [runInstr, h]

theorem runInstr_restart {m : M Unit} {s t : State} (h : m s = .error .restart t) :
    runInstr m s = .next (t.discard t.cur.1 t.cur.2) := by
  simp [runInstr, h]

theorem runEvent_total (f : Ev → State → State) (s : State) : ∃ t, runEvent f s = .next t := ⟨_, rfl⟩

theorem raiseAt_total (c : Nat) (v : Word) (s : State) : ∃ t, raiseAt c v s = .next t := ⟨_, rfl⟩

theorem alu_total (d : BitVec 5) (v : Word) (s : State) : ∃ t, alu d v s = .next t := ⟨_, rfl⟩

/-! ## The monad -/

theorem M.bind_ok {α β : Type} {m : M α} {f : α → M β} {s t : State} {a : α} (h : m s = .ok a t) :
    (m >>= f) s = f a t := by
  show EStateM.bind m f s = _
  simp [EStateM.bind, h]

theorem M.bind_error {α β : Type} {m : M α} {f : α → M β} {s t : State} {e : Stop} (h : m s = .error e t) :
    (m >>= f) s = .error e t := by
  show EStateM.bind m f s = _
  simp [EStateM.bind, h]

theorem trapIf_false (c : Nat) (v : Word) (s : State) : trapIf false c v s = .ok () s := rfl

theorem trapIf_true (c : Nat) (v : Word) (s : State) : trapIf true c v s = .error (.trap c v 0 0) s := rfl

theorem waitIf_false (w : Wait) (s : State) : waitIf false w s = .ok () s := rfl

theorem waitIf_true (w : Wait) (s : State) : waitIf true w s = .error (.wait w) s := rfl

theorem writeX_ok (r : BitVec 5) (v : Word) (s : State) : writeX r v s = .ok () (s.setX r v) := rfl

theorem retire_ok (s : State) : retire s = .ok () s.retire := rfl

theorem endBlock_idle {s : State} (h : s.curCtx.sig.live = false) : endBlock s = .ok () s := by
  simp [endBlock, bind, EStateM.bind, get, getThe, MonadStateOf.get, EStateM.get, h, pure, EStateM.pure]

/-! ## Registers (R214) -/

@[simp] theorem State.x_zero (s : State) : s.x (0#5) = 0 := by simp [State.x]

@[simp] theorem State.setX_zero (s : State) (v : Word) : s.setX (0#5) v = s := by simp [State.setX]

/-- A register write changes nothing but the cores. -/
theorem State.setX_cores (s : State) (r : BitVec 5) (v : Word) : s.setX r v = { s with cores := (s.setX r v).cores } := by
  unfold State.setX
  split
  · rfl
  · simp only
    split <;> rfl

@[simp] theorem State.setX_mem (s : State) (r : BitVec 5) (v : Word) : (s.setX r v).mem = s.mem := by
  rw [State.setX_cores]
@[simp] theorem State.setX_host (s : State) (r : BitVec 5) (v : Word) : (s.setX r v).host = s.host := by
  rw [State.setX_cores]
@[simp] theorem State.setX_lmem (s : State) (r : BitVec 5) (v : Word) : (s.setX r v).lmem = s.lmem := by
  rw [State.setX_cores]
@[simp] theorem State.setX_tiles (s : State) (r : BitVec 5) (v : Word) : (s.setX r v).tiles = s.tiles := by
  rw [State.setX_cores]
@[simp] theorem State.setX_slots (s : State) (r : BitVec 5) (v : Word) : (s.setX r v).slots = s.slots := by
  rw [State.setX_cores]
@[simp] theorem State.setX_clusters (s : State) (r : BitVec 5) (v : Word) : (s.setX r v).clusters = s.clusters := by
  rw [State.setX_cores]
@[simp] theorem State.setX_procs (s : State) (r : BitVec 5) (v : Word) : (s.setX r v).procs = s.procs := by
  rw [State.setX_cores]
@[simp] theorem State.setX_maps (s : State) (r : BitVec 5) (v : Word) : (s.setX r v).maps = s.maps := by
  rw [State.setX_cores]
@[simp] theorem State.setX_sync (s : State) (r : BitVec 5) (v : Word) : (s.setX r v).sync = s.sync := by
  rw [State.setX_cores]
@[simp] theorem State.setX_slices (s : State) (r : BitVec 5) (v : Word) : (s.setX r v).slices = s.slices := by
  rw [State.setX_cores]
@[simp] theorem State.setX_hostHomes (s : State) (r : BitVec 5) (v : Word) : (s.setX r v).hostHomes = s.hostHomes := by
  rw [State.setX_cores]
@[simp] theorem State.setX_moved (s : State) (r : BitVec 5) (v : Word) : (s.setX r v).moved = s.moved := by
  rw [State.setX_cores]
@[simp] theorem State.setX_senders (s : State) (r : BitVec 5) (v : Word) : (s.setX r v).senders = s.senders := by
  rw [State.setX_cores]
@[simp] theorem State.setX_parts (s : State) (r : BitVec 5) (v : Word) : (s.setX r v).parts = s.parts := by
  rw [State.setX_cores]
@[simp] theorem State.setX_queues (s : State) (r : BitVec 5) (v : Word) : (s.setX r v).queues = s.queues := by
  rw [State.setX_cores]
@[simp] theorem State.setX_tasks (s : State) (r : BitVec 5) (v : Word) : (s.setX r v).tasks = s.tasks := by
  rw [State.setX_cores]
@[simp] theorem State.setX_insts (s : State) (r : BitVec 5) (v : Word) : (s.setX r v).insts = s.insts := by
  rw [State.setX_cores]
@[simp] theorem State.setX_images (s : State) (r : BitVec 5) (v : Word) : (s.setX r v).images = s.images := by
  rw [State.setX_cores]
@[simp] theorem State.setX_jobs (s : State) (r : BitVec 5) (v : Word) : (s.setX r v).jobs = s.jobs := by
  rw [State.setX_cores]
@[simp] theorem State.setX_links (s : State) (r : BitVec 5) (v : Word) : (s.setX r v).links = s.links := by
  rw [State.setX_cores]
@[simp] theorem State.setX_solders (s : State) (r : BitVec 5) (v : Word) : (s.setX r v).solders = s.solders := by
  rw [State.setX_cores]
@[simp] theorem State.setX_peers (s : State) (r : BitVec 5) (v : Word) : (s.setX r v).peers = s.peers := by
  rw [State.setX_cores]
@[simp] theorem State.setX_routes (s : State) (r : BitVec 5) (v : Word) : (s.setX r v).routes = s.routes := by
  rw [State.setX_cores]
@[simp] theorem State.setX_switches (s : State) (r : BitVec 5) (v : Word) : (s.setX r v).switches = s.switches := by
  rw [State.setX_cores]
@[simp] theorem State.setX_owners (s : State) (r : BitVec 5) (v : Word) : (s.setX r v).owners = s.owners := by
  rw [State.setX_cores]
@[simp] theorem State.setX_remotes (s : State) (r : BitVec 5) (v : Word) : (s.setX r v).remotes = s.remotes := by
  rw [State.setX_cores]
@[simp] theorem State.setX_net (s : State) (r : BitVec 5) (v : Word) : (s.setX r v).net = s.net := by
  rw [State.setX_cores]
@[simp] theorem State.setX_mctrs (s : State) (r : BitVec 5) (v : Word) : (s.setX r v).mctrs = s.mctrs := by
  rw [State.setX_cores]
@[simp] theorem State.setX_tqueue (s : State) (r : BitVec 5) (v : Word) : (s.setX r v).tqueue = s.tqueue := by
  rw [State.setX_cores]
@[simp] theorem State.setX_devId (s : State) (r : BitVec 5) (v : Word) : (s.setX r v).devId = s.devId := by
  rw [State.setX_cores]
@[simp] theorem State.setX_hot (s : State) (r : BitVec 5) (v : Word) : (s.setX r v).hot = s.hot := by
  rw [State.setX_cores]
@[simp] theorem State.setX_capped (s : State) (r : BitVec 5) (v : Word) : (s.setX r v).capped = s.capped := by
  rw [State.setX_cores]
@[simp] theorem State.setX_boot (s : State) (r : BitVec 5) (v : Word) : (s.setX r v).boot = s.boot := by
  rw [State.setX_cores]
@[simp] theorem State.setX_mon (s : State) (r : BitVec 5) (v : Word) : (s.setX r v).mon = s.mon := by
  rw [State.setX_cores]
@[simp] theorem State.setX_hostSide (s : State) (r : BitVec 5) (v : Word) : (s.setX r v).hostSide = s.hostSide := by
  rw [State.setX_cores]
@[simp] theorem State.setX_nextTask (s : State) (r : BitVec 5) (v : Word) : (s.setX r v).nextTask = s.nextTask := by
  rw [State.setX_cores]
@[simp] theorem State.setX_nextInst (s : State) (r : BitVec 5) (v : Word) : (s.setX r v).nextInst = s.nextInst := by
  rw [State.setX_cores]
@[simp] theorem State.setX_nextCtx (s : State) (r : BitVec 5) (v : Word) : (s.setX r v).nextCtx = s.nextCtx := by
  rw [State.setX_cores]
@[simp] theorem State.setX_nextPkt (s : State) (r : BitVec 5) (v : Word) : (s.setX r v).nextPkt = s.nextPkt := by
  rw [State.setX_cores]
@[simp] theorem State.setX_clk (s : State) (r : BitVec 5) (v : Word) : (s.setX r v).clk = s.clk := by
  rw [State.setX_cores]
@[simp] theorem State.setX_stepNo (s : State) (r : BitVec 5) (v : Word) : (s.setX r v).stepNo = s.stepNo := by
  rw [State.setX_cores]
@[simp] theorem State.setX_freeNo (s : State) (r : BitVec 5) (v : Word) : (s.setX r v).freeNo = s.freeNo := by
  rw [State.setX_cores]
@[simp] theorem State.setX_cur (s : State) (r : BitVec 5) (v : Word) : (s.setX r v).cur = s.cur := by
  rw [State.setX_cores]
@[simp] theorem State.setX_ev (s : State) (r : BitVec 5) (v : Word) : (s.setX r v).ev = s.ev := by
  rw [State.setX_cores]
@[simp] theorem State.setX_agenda (s : State) (r : BitVec 5) (v : Word) : (s.setX r v).agenda = s.agenda := by
  rw [State.setX_cores]
@[simp] theorem State.setX_engineTurn (s : State) (r : BitVec 5) (v : Word) : (s.setX r v).engineTurn = s.engineTurn := by
  rw [State.setX_cores]
@[simp] theorem State.setX_engineNext (s : State) (r : BitVec 5) (v : Word) : (s.setX r v).engineNext = s.engineNext := by
  rw [State.setX_cores]
@[simp] theorem State.setX_lastCore (s : State) (r : BitVec 5) (v : Word) : (s.setX r v).lastCore = s.lastCore := by
  rw [State.setX_cores]
@[simp] theorem State.setX_colour (s : State) (r : BitVec 5) (v : Word) : (s.setX r v).colour = s.colour := by
  rw [State.setX_cores]

/-- The issuing context after a register write: only its own registers, and only at user level. -/
theorem State.curCtx_setX (s : State) (r : BitVec 5) (v : Word) (h : s.cur.2 < 11) :
    (s.setX r v).curCtx = if r = 0 ∨ s.curCtx.sup = true then s.curCtx
      else { s.curCtx with regs := s.curCtx.regs.setIfInBounds r.toNat v } := by
  by_cases hr : r = 0
  · subst hr; simp
  · simp only [State.setX, hr, if_false, false_or]
    generalize hf : (fun k : Core => { k with frames := markDirty k.frames s.frameNo }) = f
    have h1 : (s.modCurCore f).curCtx = s.curCtx := s.curCtx_modCurCore f (by subst hf; exact fun _ => rfl)
    rw [h1]
    split
    · rw [State.curCtx_modCurCore, h1]
      exact fun _ => rfl
    · rw [State.curCtx_modCur (s.modCurCore f) _ h, h1]

@[simp] theorem State.setX_sup (s : State) (r : BitVec 5) (v : Word) (h : s.cur.2 < 11) :
    (s.setX r v).curCtx.sup = s.curCtx.sup := by
  rw [State.curCtx_setX s r v h]
  split <;> rfl

/-- The PC does not change by a register write. -/
@[simp] theorem State.setX_pc (s : State) (r : BitVec 5) (v : Word) (h : s.cur.2 < 11) :
    (s.setX r v).curCtx.pc = s.curCtx.pc := by
  rw [State.curCtx_setX s r v h]
  split <;> rfl

/-! ## Retiring (R231) -/

/-- Outside a repeat frame the PC moves on by one word and INSTRET counts the instruction. -/
theorem Ctx.retire_plain (x : Ctx) (h : x.rpt = none) : x.retire = { x with instret := x.instret + 1, pc := x.pc + 4 } := by
  simp [Ctx.retire, h]

@[simp] theorem Ctx.retire_instret (x : Ctx) : x.retire.instret = x.instret + 1 := by
  unfold Ctx.retire
  split
  · split <;> rfl
  · rfl

@[simp] theorem Ctx.retire_regs (x : Ctx) : x.retire.regs = x.regs := by
  unfold Ctx.retire
  split
  · split <;> rfl
  · rfl

@[simp] theorem Ctx.retire_sup (x : Ctx) : x.retire.sup = x.sup := by
  unfold Ctx.retire
  split
  · split <;> rfl
  · rfl

/-! ## Taking an exception (R346) -/

/-- At user level, with no other context of the core at supervisor level and no rollback to make, a context enters its
handler. -/
theorem State.takeTrap_user (s : State) (c i : Nat) (r : TrapReq) (hr : r.cause ≠ Cause.uncorrData)
    (hs : (s.ctx c i).sup = false) (ho : (s.core c).otherSup i = false) :
    s.takeTrap c i r = s.modCtx c i (fun x => x.enterTrap r s.clk) := by
  simp [State.takeTrap, hr, hs, ho]

/-- While another context of the core is at supervisor level the trap waits. -/
theorem State.takeTrap_waits (s : State) (c i : Nat) (r : TrapReq) (hr : r.cause ≠ Cause.uncorrData)
    (hs : (s.ctx c i).sup = false) (ho : (s.core c).otherSup i = true) :
    s.takeTrap c i r = s.modCtx c i (fun x => { x with trapPend := some r, wait := some .supervisor }) := by
  simp [State.takeTrap, hr, hs, ho]

theorem Ctx.enterTrap_regs (x : Ctx) (r : TrapReq) (n : Nat) :
    (x.enterTrap r n).sup = true ∧ (x.enterTrap r n).epc = r.epc &&& 0xFFFFFFFFFFFF ∧
    (x.enterTrap r n).ecause = word r.cause ∧ (x.enterTrap r n).eval = r.eval ∧
    (x.enterTrap r n).estat = x.estatAt r.cls r.preason ∧ (x.enterTrap r n).pc = x.tvec &&& 0xFFFFFFFFFFFC ∧
    (x.enterTrap r n).regs = x.regs ∧ (x.enterTrap r n).h = x.h := ⟨rfl, rfl, rfl, rfl, rfl, rfl, rfl, rfl⟩

theorem Ctx.returnFrom_regs (x : Ctx) :
    x.returnFrom.sup = false ∧ x.returnFrom.pc = x.epc ∧ x.returnFrom.regs = x.regs ∧ x.returnFrom.h = x.h :=
  ⟨rfl, rfl, rfl, rfl⟩

end Sys2Proof.Machine
end

