-- ==== Sys2Proof/Laws/PerInstr.lean ====
section
/-! SUPPORT. One lemma per constructor of Instr: the decoder reads an instruction back from its word. -/

namespace Sys2Proof.Laws

theorem Encoded.add (d : BitVec 5) (a : BitVec 5) (b : BitVec 5) : Encoded.Statement (.add d a b) := by
  intro hw _
  rw [show encode (.add d a b) = enc3 (0x01*2^26 + 0*2^0) d 21 a 16 b 11 from rfl]
  obtain ⟨hm, hf, e0, e1, e2⟩ := layout0 0x01 0 (by decide) (by decide) d a b
  generalize enc3 (0x01*2^26 + 0*2^0) d 21 a 16 b 11 = w at *
  exact decode_of w _ ((decodeRaw_01 w hm).trans (by simp [decode01, hf, e0, e1, e2])) hw

theorem Encoded.sub (d : BitVec 5) (a : BitVec 5) (b : BitVec 5) : Encoded.Statement (.sub d a b) := by
  intro hw _
  rw [show encode (.sub d a b) = enc3 (0x01*2^26 + 1*2^0) d 21 a 16 b 11 from rfl]
  obtain ⟨hm, hf, e0, e1, e2⟩ := layout0 0x01 1 (by decide) (by decide) d a b
  generalize enc3 (0x01*2^26 + 1*2^0) d 21 a 16 b 11 = w at *
  exact decode_of w _ ((decodeRaw_01 w hm).trans (by simp [decode01, hf, e0, e1, e2])) hw

theorem Encoded.and (d : BitVec 5) (a : BitVec 5) (b : BitVec 5) : Encoded.Statement (.and d a b) := by
  intro hw _
  rw [show encode (.and d a b) = enc3 (0x01*2^26 + 2*2^0) d 21 a 16 b 11 from rfl]
  obtain ⟨hm, hf, e0, e1, e2⟩ := layout0 0x01 2 (by decide) (by decide) d a b
  generalize enc3 (0x01*2^26 + 2*2^0) d 21 a 16 b 11 = w at *
  exact decode_of w _ ((decodeRaw_01 w hm).trans (by simp [decode01, hf, e0, e1, e2])) hw

theorem Encoded.or (d : BitVec 5) (a : BitVec 5) (b : BitVec 5) : Encoded.Statement (.or d a b) := by
  intro hw _
  rw [show encode (.or d a b) = enc3 (0x01*2^26 + 3*2^0) d 21 a 16 b 11 from rfl]
  obtain ⟨hm, hf, e0, e1, e2⟩ := layout0 0x01 3 (by decide) (by decide) d a b
  generalize enc3 (0x01*2^26 + 3*2^0) d 21 a 16 b 11 = w at *
  exact decode_of w _ ((decodeRaw_01 w hm).trans (by simp [decode01, hf, e0, e1, e2])) hw

theorem Encoded.xor (d : BitVec 5) (a : BitVec 5) (b : BitVec 5) : Encoded.Statement (.xor d a b) := by
  intro hw _
  rw [show encode (.xor d a b) = enc3 (0x01*2^26 + 4*2^0) d 21 a 16 b 11 from rfl]
  obtain ⟨hm, hf, e0, e1, e2⟩ := layout0 0x01 4 (by decide) (by decide) d a b
  generalize enc3 (0x01*2^26 + 4*2^0) d 21 a 16 b 11 = w at *
  exact decode_of w _ ((decodeRaw_01 w hm).trans (by simp [decode01, hf, e0, e1, e2])) hw

theorem Encoded.andn (d : BitVec 5) (a : BitVec 5) (b : BitVec 5) : Encoded.Statement (.andn d a b) := by
  intro hw _
  rw [show encode (.andn d a b) = enc3 (0x01*2^26 + 5*2^0) d 21 a 16 b 11 from rfl]
  obtain ⟨hm, hf, e0, e1, e2⟩ := layout0 0x01 5 (by decide) (by decide) d a b
  generalize enc3 (0x01*2^26 + 5*2^0) d 21 a 16 b 11 = w at *
  exact decode_of w _ ((decodeRaw_01 w hm).trans (by simp [decode01, hf, e0, e1, e2])) hw

theorem Encoded.sll (d : BitVec 5) (a : BitVec 5) (b : BitVec 5) : Encoded.Statement (.sll d a b) := by
  intro hw _
  rw [show encode (.sll d a b) = enc3 (0x01*2^26 + 6*2^0) d 21 a 16 b 11 from rfl]
  obtain ⟨hm, hf, e0, e1, e2⟩ := layout0 0x01 6 (by decide) (by decide) d a b
  generalize enc3 (0x01*2^26 + 6*2^0) d 21 a 16 b 11 = w at *
  exact decode_of w _ ((decodeRaw_01 w hm).trans (by simp [decode01, hf, e0, e1, e2])) hw

theorem Encoded.srl (d : BitVec 5) (a : BitVec 5) (b : BitVec 5) : Encoded.Statement (.srl d a b) := by
  intro hw _
  rw [show encode (.srl d a b) = enc3 (0x01*2^26 + 7*2^0) d 21 a 16 b 11 from rfl]
  obtain ⟨hm, hf, e0, e1, e2⟩ := layout0 0x01 7 (by decide) (by decide) d a b
  generalize enc3 (0x01*2^26 + 7*2^0) d 21 a 16 b 11 = w at *
  exact decode_of w _ ((decodeRaw_01 w hm).trans (by simp [decode01, hf, e0, e1, e2])) hw

theorem Encoded.sra (d : BitVec 5) (a : BitVec 5) (b : BitVec 5) : Encoded.Statement (.sra d a b) := by
  intro hw _
  rw [show encode (.sra d a b) = enc3 (0x01*2^26 + 8*2^0) d 21 a 16 b 11 from rfl]
  obtain ⟨hm, hf, e0, e1, e2⟩ := layout0 0x01 8 (by decide) (by decide) d a b
  generalize enc3 (0x01*2^26 + 8*2^0) d 21 a 16 b 11 = w at *
  exact decode_of w _ ((decodeRaw_01 w hm).trans (by simp [decode01, hf, e0, e1, e2])) hw

theorem Encoded.rol (d : BitVec 5) (a : BitVec 5) (b : BitVec 5) : Encoded.Statement (.rol d a b) := by
  intro hw _
  rw [show encode (.rol d a b) = enc3 (0x01*2^26 + 9*2^0) d 21 a 16 b 11 from rfl]
  obtain ⟨hm, hf, e0, e1, e2⟩ := layout0 0x01 9 (by decide) (by decide) d a b
  generalize enc3 (0x01*2^26 + 9*2^0) d 21 a 16 b 11 = w at *
  exact decode_of w _ ((decodeRaw_01 w hm).trans (by simp [decode01, hf, e0, e1, e2])) hw

theorem Encoded.mul (d : BitVec 5) (a : BitVec 5) (b : BitVec 5) : Encoded.Statement (.mul d a b) := by
  intro hw _
  rw [show encode (.mul d a b) = enc3 (0x01*2^26 + 10*2^0) d 21 a 16 b 11 from rfl]
  obtain ⟨hm, hf, e0, e1, e2⟩ := layout0 0x01 10 (by decide) (by decide) d a b
  generalize enc3 (0x01*2^26 + 10*2^0) d 21 a 16 b 11 = w at *
  exact decode_of w _ ((decodeRaw_01 w hm).trans (by simp [decode01, hf, e0, e1, e2])) hw

theorem Encoded.mulh (d : BitVec 5) (a : BitVec 5) (b : BitVec 5) : Encoded.Statement (.mulh d a b) := by
  intro hw _
  rw [show encode (.mulh d a b) = enc3 (0x01*2^26 + 11*2^0) d 21 a 16 b 11 from rfl]
  obtain ⟨hm, hf, e0, e1, e2⟩ := layout0 0x01 11 (by decide) (by decide) d a b
  generalize enc3 (0x01*2^26 + 11*2^0) d 21 a 16 b 11 = w at *
  exact decode_of w _ ((decodeRaw_01 w hm).trans (by simp [decode01, hf, e0, e1, e2])) hw

theorem Encoded.mulhu (d : BitVec 5) (a : BitVec 5) (b : BitVec 5) : Encoded.Statement (.mulhu d a b) := by
  intro hw _
  rw [show encode (.mulhu d a b) = enc3 (0x01*2^26 + 12*2^0) d 21 a 16 b 11 from rfl]
  obtain ⟨hm, hf, e0, e1, e2⟩ := layout0 0x01 12 (by decide) (by decide) d a b
  generalize enc3 (0x01*2^26 + 12*2^0) d 21 a 16 b 11 = w at *
  exact decode_of w _ ((decodeRaw_01 w hm).trans (by simp [decode01, hf, e0, e1, e2])) hw

theorem Encoded.div (d : BitVec 5) (a : BitVec 5) (b : BitVec 5) : Encoded.Statement (.div d a b) := by
  intro hw _
  rw [show encode (.div d a b) = enc3 (0x01*2^26 + 13*2^0) d 21 a 16 b 11 from rfl]
  obtain ⟨hm, hf, e0, e1, e2⟩ := layout0 0x01 13 (by decide) (by decide) d a b
  generalize enc3 (0x01*2^26 + 13*2^0) d 21 a 16 b 11 = w at *
  exact decode_of w _ ((decodeRaw_01 w hm).trans (by simp [decode01, hf, e0, e1, e2])) hw

theorem Encoded.divu (d : BitVec 5) (a : BitVec 5) (b : BitVec 5) : Encoded.Statement (.divu d a b) := by
  intro hw _
  rw [show encode (.divu d a b) = enc3 (0x01*2^26 + 14*2^0) d 21 a 16 b 11 from rfl]
  obtain ⟨hm, hf, e0, e1, e2⟩ := layout0 0x01 14 (by decide) (by decide) d a b
  generalize enc3 (0x01*2^26 + 14*2^0) d 21 a 16 b 11 = w at *
  exact decode_of w _ ((decodeRaw_01 w hm).trans (by simp [decode01, hf, e0, e1, e2])) hw

theorem Encoded.rem (d : BitVec 5) (a : BitVec 5) (b : BitVec 5) : Encoded.Statement (.rem d a b) := by
  intro hw _
  rw [show encode (.rem d a b) = enc3 (0x01*2^26 + 15*2^0) d 21 a 16 b 11 from rfl]
  obtain ⟨hm, hf, e0, e1, e2⟩ := layout0 0x01 15 (by decide) (by decide) d a b
  generalize enc3 (0x01*2^26 + 15*2^0) d 21 a 16 b 11 = w at *
  exact decode_of w _ ((decodeRaw_01 w hm).trans (by simp [decode01, hf, e0, e1, e2])) hw

theorem Encoded.remu (d : BitVec 5) (a : BitVec 5) (b : BitVec 5) : Encoded.Statement (.remu d a b) := by
  intro hw _
  rw [show encode (.remu d a b) = enc3 (0x01*2^26 + 16*2^0) d 21 a 16 b 11 from rfl]
  obtain ⟨hm, hf, e0, e1, e2⟩ := layout0 0x01 16 (by decide) (by decide) d a b
  generalize enc3 (0x01*2^26 + 16*2^0) d 21 a 16 b 11 = w at *
  exact decode_of w _ ((decodeRaw_01 w hm).trans (by simp [decode01, hf, e0, e1, e2])) hw

theorem Encoded.min (d : BitVec 5) (a : BitVec 5) (b : BitVec 5) : Encoded.Statement (.min d a b) := by
  intro hw _
  rw [show encode (.min d a b) = enc3 (0x01*2^26 + 17*2^0) d 21 a 16 b 11 from rfl]
  obtain ⟨hm, hf, e0, e1, e2⟩ := layout0 0x01 17 (by decide) (by decide) d a b
  generalize enc3 (0x01*2^26 + 17*2^0) d 21 a 16 b 11 = w at *
  exact decode_of w _ ((decodeRaw_01 w hm).trans (by simp [decode01, hf, e0, e1, e2])) hw

theorem Encoded.max (d : BitVec 5) (a : BitVec 5) (b : BitVec 5) : Encoded.Statement (.max d a b) := by
  intro hw _
  rw [show encode (.max d a b) = enc3 (0x01*2^26 + 18*2^0) d 21 a 16 b 11 from rfl]
  obtain ⟨hm, hf, e0, e1, e2⟩ := layout0 0x01 18 (by decide) (by decide) d a b
  generalize enc3 (0x01*2^26 + 18*2^0) d 21 a 16 b 11 = w at *
  exact decode_of w _ ((decodeRaw_01 w hm).trans (by simp [decode01, hf, e0, e1, e2])) hw

theorem Encoded.minu (d : BitVec 5) (a : BitVec 5) (b : BitVec 5) : Encoded.Statement (.minu d a b) := by
  intro hw _
  rw [show encode (.minu d a b) = enc3 (0x01*2^26 + 19*2^0) d 21 a 16 b 11 from rfl]
  obtain ⟨hm, hf, e0, e1, e2⟩ := layout0 0x01 19 (by decide) (by decide) d a b
  generalize enc3 (0x01*2^26 + 19*2^0) d 21 a 16 b 11 = w at *
  exact decode_of w _ ((decodeRaw_01 w hm).trans (by simp [decode01, hf, e0, e1, e2])) hw

theorem Encoded.maxu (d : BitVec 5) (a : BitVec 5) (b : BitVec 5) : Encoded.Statement (.maxu d a b) := by
  intro hw _
  rw [show encode (.maxu d a b) = enc3 (0x01*2^26 + 20*2^0) d 21 a 16 b 11 from rfl]
  obtain ⟨hm, hf, e0, e1, e2⟩ := layout0 0x01 20 (by decide) (by decide) d a b
  generalize enc3 (0x01*2^26 + 20*2^0) d 21 a 16 b 11 = w at *
  exact decode_of w _ ((decodeRaw_01 w hm).trans (by simp [decode01, hf, e0, e1, e2])) hw

theorem Encoded.slt (d : BitVec 5) (a : BitVec 5) (b : BitVec 5) : Encoded.Statement (.slt d a b) := by
  intro hw _
  rw [show encode (.slt d a b) = enc3 (0x01*2^26 + 21*2^0) d 21 a 16 b 11 from rfl]
  obtain ⟨hm, hf, e0, e1, e2⟩ := layout0 0x01 21 (by decide) (by decide) d a b
  generalize enc3 (0x01*2^26 + 21*2^0) d 21 a 16 b 11 = w at *
  exact decode_of w _ ((decodeRaw_01 w hm).trans (by simp [decode01, hf, e0, e1, e2])) hw

theorem Encoded.sltu (d : BitVec 5) (a : BitVec 5) (b : BitVec 5) : Encoded.Statement (.sltu d a b) := by
  intro hw _
  rw [show encode (.sltu d a b) = enc3 (0x01*2^26 + 22*2^0) d 21 a 16 b 11 from rfl]
  obtain ⟨hm, hf, e0, e1, e2⟩ := layout0 0x01 22 (by decide) (by decide) d a b
  generalize enc3 (0x01*2^26 + 22*2^0) d 21 a 16 b 11 = w at *
  exact decode_of w _ ((decodeRaw_01 w hm).trans (by simp [decode01, hf, e0, e1, e2])) hw

theorem Encoded.seq (d : BitVec 5) (a : BitVec 5) (b : BitVec 5) : Encoded.Statement (.seq d a b) := by
  intro hw _
  rw [show encode (.seq d a b) = enc3 (0x01*2^26 + 23*2^0) d 21 a 16 b 11 from rfl]
  obtain ⟨hm, hf, e0, e1, e2⟩ := layout0 0x01 23 (by decide) (by decide) d a b
  generalize enc3 (0x01*2^26 + 23*2^0) d 21 a 16 b 11 = w at *
  exact decode_of w _ ((decodeRaw_01 w hm).trans (by simp [decode01, hf, e0, e1, e2])) hw

theorem Encoded.clz (d : BitVec 5) (a : BitVec 5) : Encoded.Statement (.clz d a) := by
  intro hw _
  rw [show encode (.clz d a) = enc2 (0x01*2^26 + 24*2^0) d 21 a 16 from rfl]
  obtain ⟨hm, hf, t0, e0, e1⟩ := layout1 0x01 24 (by decide) (by decide) d a
  generalize enc2 (0x01*2^26 + 24*2^0) d 21 a 16 = w at *
  exact decode_of w _ ((decodeRaw_01 w hm).trans (by simp [decode01, onlyIf, hf, t0, e0, e1])) hw

theorem Encoded.ctz (d : BitVec 5) (a : BitVec 5) : Encoded.Statement (.ctz d a) := by
  intro hw _
  rw [show encode (.ctz d a) = enc2 (0x01*2^26 + 25*2^0) d 21 a 16 from rfl]
  obtain ⟨hm, hf, t0, e0, e1⟩ := layout1 0x01 25 (by decide) (by decide) d a
  generalize enc2 (0x01*2^26 + 25*2^0) d 21 a 16 = w at *
  exact decode_of w _ ((decodeRaw_01 w hm).trans (by simp [decode01, onlyIf, hf, t0, e0, e1])) hw

theorem Encoded.popc (d : BitVec 5) (a : BitVec 5) : Encoded.Statement (.popc d a) := by
  intro hw _
  rw [show encode (.popc d a) = enc2 (0x01*2^26 + 26*2^0) d 21 a 16 from rfl]
  obtain ⟨hm, hf, t0, e0, e1⟩ := layout1 0x01 26 (by decide) (by decide) d a
  generalize enc2 (0x01*2^26 + 26*2^0) d 21 a 16 = w at *
  exact decode_of w _ ((decodeRaw_01 w hm).trans (by simp [decode01, onlyIf, hf, t0, e0, e1])) hw

theorem Encoded.brev (d : BitVec 5) (a : BitVec 5) : Encoded.Statement (.brev d a) := by
  intro hw _
  rw [show encode (.brev d a) = enc2 (0x01*2^26 + 27*2^0) d 21 a 16 from rfl]
  obtain ⟨hm, hf, t0, e0, e1⟩ := layout1 0x01 27 (by decide) (by decide) d a
  generalize enc2 (0x01*2^26 + 27*2^0) d 21 a 16 = w at *
  exact decode_of w _ ((decodeRaw_01 w hm).trans (by simp [decode01, onlyIf, hf, t0, e0, e1])) hw

theorem Encoded.bext (d : BitVec 5) (a : BitVec 5) (b : BitVec 5) : Encoded.Statement (.bext d a b) := by
  intro hw _
  rw [show encode (.bext d a b) = enc3 (0x01*2^26 + 28*2^0) d 21 a 16 b 11 from rfl]
  obtain ⟨hm, hf, e0, e1, e2⟩ := layout0 0x01 28 (by decide) (by decide) d a b
  generalize enc3 (0x01*2^26 + 28*2^0) d 21 a 16 b 11 = w at *
  exact decode_of w _ ((decodeRaw_01 w hm).trans (by simp [decode01, hf, e0, e1, e2])) hw

theorem Encoded.bdep (d : BitVec 5) (a : BitVec 5) (b : BitVec 5) : Encoded.Statement (.bdep d a b) := by
  intro hw _
  rw [show encode (.bdep d a b) = enc3 (0x01*2^26 + 29*2^0) d 21 a 16 b 11 from rfl]
  obtain ⟨hm, hf, e0, e1, e2⟩ := layout0 0x01 29 (by decide) (by decide) d a b
  generalize enc3 (0x01*2^26 + 29*2^0) d 21 a 16 b 11 = w at *
  exact decode_of w _ ((decodeRaw_01 w hm).trans (by simp [decode01, hf, e0, e1, e2])) hw

theorem Encoded.cmov (d : BitVec 5) (a : BitVec 5) (b : BitVec 5) : Encoded.Statement (.cmov d a b) := by
  intro hw _
  rw [show encode (.cmov d a b) = enc3 (0x01*2^26 + 30*2^0) d 21 a 16 b 11 from rfl]
  obtain ⟨hm, hf, e0, e1, e2⟩ := layout0 0x01 30 (by decide) (by decide) d a b
  generalize enc3 (0x01*2^26 + 30*2^0) d 21 a 16 b 11 = w at *
  exact decode_of w _ ((decodeRaw_01 w hm).trans (by simp [decode01, hf, e0, e1, e2])) hw

theorem Encoded.addw (d : BitVec 5) (a : BitVec 5) (b : BitVec 5) : Encoded.Statement (.addw d a b) := by
  intro hw _
  rw [show encode (.addw d a b) = enc3 (0x01*2^26 + 31*2^0) d 21 a 16 b 11 from rfl]
  obtain ⟨hm, hf, e0, e1, e2⟩ := layout0 0x01 31 (by decide) (by decide) d a b
  generalize enc3 (0x01*2^26 + 31*2^0) d 21 a 16 b 11 = w at *
  exact decode_of w _ ((decodeRaw_01 w hm).trans (by simp [decode01, hf, e0, e1, e2])) hw

theorem Encoded.addi (d : BitVec 5) (a : BitVec 5) (i : BitVec 16) : Encoded.Statement (.addi d a i) := by
  intro hw _
  rw [show encode (.addi d a i) = enc3 (0x02*2^26) d 21 a 16 i 0 from rfl]
  obtain ⟨hm, e0, e1, e2⟩ := layout2 0x02 (by decide) d a i
  generalize enc3 (0x02*2^26) d 21 a 16 i 0 = w at *
  exact decode_of w _ ((decodeRaw_02 w hm).trans (by simp [decode02, e0, e1, e2])) hw

theorem Encoded.andi (d : BitVec 5) (a : BitVec 5) (i : BitVec 16) : Encoded.Statement (.andi d a i) := by
  intro hw _
  rw [show encode (.andi d a i) = enc3 (0x03*2^26) d 21 a 16 i 0 from rfl]
  obtain ⟨hm, e0, e1, e2⟩ := layout2 0x03 (by decide) d a i
  generalize enc3 (0x03*2^26) d 21 a 16 i 0 = w at *
  exact decode_of w _ ((decodeRaw_03 w hm).trans (by simp [decode03, e0, e1, e2])) hw

theorem Encoded.ori (d : BitVec 5) (a : BitVec 5) (i : BitVec 16) : Encoded.Statement (.ori d a i) := by
  intro hw _
  rw [show encode (.ori d a i) = enc3 (0x04*2^26) d 21 a 16 i 0 from rfl]
  obtain ⟨hm, e0, e1, e2⟩ := layout2 0x04 (by decide) d a i
  generalize enc3 (0x04*2^26) d 21 a 16 i 0 = w at *
  exact decode_of w _ ((decodeRaw_04 w hm).trans (by simp [decode04, e0, e1, e2])) hw

theorem Encoded.xori (d : BitVec 5) (a : BitVec 5) (i : BitVec 16) : Encoded.Statement (.xori d a i) := by
  intro hw _
  rw [show encode (.xori d a i) = enc3 (0x05*2^26) d 21 a 16 i 0 from rfl]
  obtain ⟨hm, e0, e1, e2⟩ := layout2 0x05 (by decide) d a i
  generalize enc3 (0x05*2^26) d 21 a 16 i 0 = w at *
  exact decode_of w _ ((decodeRaw_05 w hm).trans (by simp [decode05, e0, e1, e2])) hw

theorem Encoded.slli (d : BitVec 5) (a : BitVec 5) (s : BitVec 6) : Encoded.Statement (.slli d a s) := by
  intro hw _
  rw [show encode (.slli d a s) = enc3 (0x06*2^26 + 0*2^6) d 21 a 16 s 0 from rfl]
  obtain ⟨hm, hf, t0, e0, e1, e2⟩ := layout3 0x06 0 (by decide) (by decide) d a s
  generalize enc3 (0x06*2^26 + 0*2^6) d 21 a 16 s 0 = w at *
  exact decode_of w _ ((decodeRaw_06 w hm).trans (by simp [decode06, onlyIf, hf, t0, e0, e1, e2])) hw

theorem Encoded.srli (d : BitVec 5) (a : BitVec 5) (s : BitVec 6) : Encoded.Statement (.srli d a s) := by
  intro hw _
  rw [show encode (.srli d a s) = enc3 (0x06*2^26 + 1*2^6) d 21 a 16 s 0 from rfl]
  obtain ⟨hm, hf, t0, e0, e1, e2⟩ := layout3 0x06 1 (by decide) (by decide) d a s
  generalize enc3 (0x06*2^26 + 1*2^6) d 21 a 16 s 0 = w at *
  exact decode_of w _ ((decodeRaw_06 w hm).trans (by simp [decode06, onlyIf, hf, t0, e0, e1, e2])) hw

theorem Encoded.srai (d : BitVec 5) (a : BitVec 5) (s : BitVec 6) : Encoded.Statement (.srai d a s) := by
  intro hw _
  rw [show encode (.srai d a s) = enc3 (0x06*2^26 + 2*2^6) d 21 a 16 s 0 from rfl]
  obtain ⟨hm, hf, t0, e0, e1, e2⟩ := layout3 0x06 2 (by decide) (by decide) d a s
  generalize enc3 (0x06*2^26 + 2*2^6) d 21 a 16 s 0 = w at *
  exact decode_of w _ ((decodeRaw_06 w hm).trans (by simp [decode06, onlyIf, hf, t0, e0, e1, e2])) hw

theorem Encoded.roli (d : BitVec 5) (a : BitVec 5) (s : BitVec 6) : Encoded.Statement (.roli d a s) := by
  intro hw _
  rw [show encode (.roli d a s) = enc3 (0x06*2^26 + 3*2^6) d 21 a 16 s 0 from rfl]
  obtain ⟨hm, hf, t0, e0, e1, e2⟩ := layout3 0x06 3 (by decide) (by decide) d a s
  generalize enc3 (0x06*2^26 + 3*2^6) d 21 a 16 s 0 = w at *
  exact decode_of w _ ((decodeRaw_06 w hm).trans (by simp [decode06, onlyIf, hf, t0, e0, e1, e2])) hw

theorem Encoded.slti (d : BitVec 5) (a : BitVec 5) (i : BitVec 16) : Encoded.Statement (.slti d a i) := by
  intro hw _
  rw [show encode (.slti d a i) = enc3 (0x07*2^26) d 21 a 16 i 0 from rfl]
  obtain ⟨hm, e0, e1, e2⟩ := layout2 0x07 (by decide) d a i
  generalize enc3 (0x07*2^26) d 21 a 16 i 0 = w at *
  exact decode_of w _ ((decodeRaw_07 w hm).trans (by simp [decode07, e0, e1, e2])) hw

theorem Encoded.sltiu (d : BitVec 5) (a : BitVec 5) (i : BitVec 16) : Encoded.Statement (.sltiu d a i) := by
  intro hw _
  rw [show encode (.sltiu d a i) = enc3 (0x08*2^26) d 21 a 16 i 0 from rfl]
  obtain ⟨hm, e0, e1, e2⟩ := layout2 0x08 (by decide) d a i
  generalize enc3 (0x08*2^26) d 21 a 16 i 0 = w at *
  exact decode_of w _ ((decodeRaw_08 w hm).trans (by simp [decode08, e0, e1, e2])) hw

theorem Encoded.lui (d : BitVec 5) (i : BitVec 16) : Encoded.Statement (.lui d i) := by
  intro hw _
  rw [show encode (.lui d i) = enc2 (0x09*2^26) d 21 i 0 from rfl]
  obtain ⟨hm, t0, e0, e1⟩ := layout4 0x09 (by decide) d i
  generalize enc2 (0x09*2^26) d 21 i 0 = w at *
  exact decode_of w _ ((decodeRaw_09 w hm).trans (by simp [decode09, onlyIf, t0, e0, e1])) hw

theorem Encoded.movk (d : BitVec 5) (q : BitVec 2) (i : BitVec 16) : Encoded.Statement (.movk d q i) := by
  intro hw _
  rw [show encode (.movk d q i) = enc3 (0x0A*2^26) d 21 q 16 i 0 from rfl]
  obtain ⟨hm, t0, e0, e1, e2⟩ := layout5 0x0A (by decide) d q i
  generalize enc3 (0x0A*2^26) d 21 q 16 i 0 = w at *
  exact decode_of w _ ((decodeRaw_0A w hm).trans (by simp [decode0A, onlyIf, t0, e0, e1, e2])) hw

theorem Encoded.faddS (d : BitVec 5) (a : BitVec 5) (b : BitVec 5) : Encoded.Statement (.faddS d a b) := by
  intro hw _
  rw [show encode (.faddS d a b) = enc3 (0x0B*2^26 + 0*2^0) d 21 a 16 b 11 from rfl]
  obtain ⟨hm, hf, e0, e1, e2⟩ := layout0 0x0B 0 (by decide) (by decide) d a b
  generalize enc3 (0x0B*2^26 + 0*2^0) d 21 a 16 b 11 = w at *
  exact decode_of w _ ((decodeRaw_0B w hm).trans (by simp [decode0B, hf, e0, e1, e2])) hw

theorem Encoded.fsubS (d : BitVec 5) (a : BitVec 5) (b : BitVec 5) : Encoded.Statement (.fsubS d a b) := by
  intro hw _
  rw [show encode (.fsubS d a b) = enc3 (0x0B*2^26 + 1*2^0) d 21 a 16 b 11 from rfl]
  obtain ⟨hm, hf, e0, e1, e2⟩ := layout0 0x0B 1 (by decide) (by decide) d a b
  generalize enc3 (0x0B*2^26 + 1*2^0) d 21 a 16 b 11 = w at *
  exact decode_of w _ ((decodeRaw_0B w hm).trans (by simp [decode0B, hf, e0, e1, e2])) hw

theorem Encoded.fmulS (d : BitVec 5) (a : BitVec 5) (b : BitVec 5) : Encoded.Statement (.fmulS d a b) := by
  intro hw _
  rw [show encode (.fmulS d a b) = enc3 (0x0B*2^26 + 2*2^0) d 21 a 16 b 11 from rfl]
  obtain ⟨hm, hf, e0, e1, e2⟩ := layout0 0x0B 2 (by decide) (by decide) d a b
  generalize enc3 (0x0B*2^26 + 2*2^0) d 21 a 16 b 11 = w at *
  exact decode_of w _ ((decodeRaw_0B w hm).trans (by simp [decode0B, hf, e0, e1, e2])) hw

theorem Encoded.fdivS (d : BitVec 5) (a : BitVec 5) (b : BitVec 5) : Encoded.Statement (.fdivS d a b) := by
  intro hw _
  rw [show encode (.fdivS d a b) = enc3 (0x0B*2^26 + 3*2^0) d 21 a 16 b 11 from rfl]
  obtain ⟨hm, hf, e0, e1, e2⟩ := layout0 0x0B 3 (by decide) (by decide) d a b
  generalize enc3 (0x0B*2^26 + 3*2^0) d 21 a 16 b 11 = w at *
  exact decode_of w _ ((decodeRaw_0B w hm).trans (by simp [decode0B, hf, e0, e1, e2])) hw

theorem Encoded.fsqrtS (d : BitVec 5) (a : BitVec 5) : Encoded.Statement (.fsqrtS d a) := by
  intro hw _
  rw [show encode (.fsqrtS d a) = enc2 (0x0B*2^26 + 4*2^0) d 21 a 16 from rfl]
  obtain ⟨hm, hf, t0, e0, e1⟩ := layout1 0x0B 4 (by decide) (by decide) d a
  generalize enc2 (0x0B*2^26 + 4*2^0) d 21 a 16 = w at *
  exact decode_of w _ ((decodeRaw_0B w hm).trans (by simp [decode0B, onlyIf, hf, t0, e0, e1])) hw

theorem Encoded.fminS (d : BitVec 5) (a : BitVec 5) (b : BitVec 5) : Encoded.Statement (.fminS d a b) := by
  intro hw _
  rw [show encode (.fminS d a b) = enc3 (0x0B*2^26 + 5*2^0) d 21 a 16 b 11 from rfl]
  obtain ⟨hm, hf, e0, e1, e2⟩ := layout0 0x0B 5 (by decide) (by decide) d a b
  generalize enc3 (0x0B*2^26 + 5*2^0) d 21 a 16 b 11 = w at *
  exact decode_of w _ ((decodeRaw_0B w hm).trans (by simp [decode0B, hf, e0, e1, e2])) hw

theorem Encoded.fmaxS (d : BitVec 5) (a : BitVec 5) (b : BitVec 5) : Encoded.Statement (.fmaxS d a b) := by
  intro hw _
  rw [show encode (.fmaxS d a b) = enc3 (0x0B*2^26 + 6*2^0) d 21 a 16 b 11 from rfl]
  obtain ⟨hm, hf, e0, e1, e2⟩ := layout0 0x0B 6 (by decide) (by decide) d a b
  generalize enc3 (0x0B*2^26 + 6*2^0) d 21 a 16 b 11 = w at *
  exact decode_of w _ ((decodeRaw_0B w hm).trans (by simp [decode0B, hf, e0, e1, e2])) hw

theorem Encoded.fmaddS (d : BitVec 5) (a : BitVec 5) (b : BitVec 5) : Encoded.Statement (.fmaddS d a b) := by
  intro hw _
  rw [show encode (.fmaddS d a b) = enc3 (0x0B*2^26 + 7*2^0) d 21 a 16 b 11 from rfl]
  obtain ⟨hm, hf, e0, e1, e2⟩ := layout0 0x0B 7 (by decide) (by decide) d a b
  generalize enc3 (0x0B*2^26 + 7*2^0) d 21 a 16 b 11 = w at *
  exact decode_of w _ ((decodeRaw_0B w hm).trans (by simp [decode0B, hf, e0, e1, e2])) hw

theorem Encoded.feqS (d : BitVec 5) (a : BitVec 5) (b : BitVec 5) : Encoded.Statement (.feqS d a b) := by
  intro hw _
  rw [show encode (.feqS d a b) = enc3 (0x0B*2^26 + 8*2^0) d 21 a 16 b 11 from rfl]
  obtain ⟨hm, hf, e0, e1, e2⟩ := layout0 0x0B 8 (by decide) (by decide) d a b
  generalize enc3 (0x0B*2^26 + 8*2^0) d 21 a 16 b 11 = w at *
  exact decode_of w _ ((decodeRaw_0B w hm).trans (by simp [decode0B, hf, e0, e1, e2])) hw

theorem Encoded.fltS (d : BitVec 5) (a : BitVec 5) (b : BitVec 5) : Encoded.Statement (.fltS d a b) := by
  intro hw _
  rw [show encode (.fltS d a b) = enc3 (0x0B*2^26 + 9*2^0) d 21 a 16 b 11 from rfl]
  obtain ⟨hm, hf, e0, e1, e2⟩ := layout0 0x0B 9 (by decide) (by decide) d a b
  generalize enc3 (0x0B*2^26 + 9*2^0) d 21 a 16 b 11 = w at *
  exact decode_of w _ ((decodeRaw_0B w hm).trans (by simp [decode0B, hf, e0, e1, e2])) hw

theorem Encoded.fleS (d : BitVec 5) (a : BitVec 5) (b : BitVec 5) : Encoded.Statement (.fleS d a b) := by
  intro hw _
  rw [show encode (.fleS d a b) = enc3 (0x0B*2^26 + 10*2^0) d 21 a 16 b 11 from rfl]
  obtain ⟨hm, hf, e0, e1, e2⟩ := layout0 0x0B 10 (by decide) (by decide) d a b
  generalize enc3 (0x0B*2^26 + 10*2^0) d 21 a 16 b 11 = w at *
  exact decode_of w _ ((decodeRaw_0B w hm).trans (by simp [decode0B, hf, e0, e1, e2])) hw

theorem Encoded.faddD (d : BitVec 5) (a : BitVec 5) (b : BitVec 5) : Encoded.Statement (.faddD d a b) := by
  intro hw _
  rw [show encode (.faddD d a b) = enc3 (0x0B*2^26 + 11*2^0) d 21 a 16 b 11 from rfl]
  obtain ⟨hm, hf, e0, e1, e2⟩ := layout0 0x0B 11 (by decide) (by decide) d a b
  generalize enc3 (0x0B*2^26 + 11*2^0) d 21 a 16 b 11 = w at *
  exact decode_of w _ ((decodeRaw_0B w hm).trans (by simp [decode0B, hf, e0, e1, e2])) hw

theorem Encoded.fsubD (d : BitVec 5) (a : BitVec 5) (b : BitVec 5) : Encoded.Statement (.fsubD d a b) := by
  intro hw _
  rw [show encode (.fsubD d a b) = enc3 (0x0B*2^26 + 12*2^0) d 21 a 16 b 11 from rfl]
  obtain ⟨hm, hf, e0, e1, e2⟩ := layout0 0x0B 12 (by decide) (by decide) d a b
  generalize enc3 (0x0B*2^26 + 12*2^0) d 21 a 16 b 11 = w at *
  exact decode_of w _ ((decodeRaw_0B w hm).trans (by simp [decode0B, hf, e0, e1, e2])) hw

theorem Encoded.fmulD (d : BitVec 5) (a : BitVec 5) (b : BitVec 5) : Encoded.Statement (.fmulD d a b) := by
  intro hw _
  rw [show encode (.fmulD d a b) = enc3 (0x0B*2^26 + 13*2^0) d 21 a 16 b 11 from rfl]
  obtain ⟨hm, hf, e0, e1, e2⟩ := layout0 0x0B 13 (by decide) (by decide) d a b
  generalize enc3 (0x0B*2^26 + 13*2^0) d 21 a 16 b 11 = w at *
  exact decode_of w _ ((decodeRaw_0B w hm).trans (by simp [decode0B, hf, e0, e1, e2])) hw

theorem Encoded.fdivD (d : BitVec 5) (a : BitVec 5) (b : BitVec 5) : Encoded.Statement (.fdivD d a b) := by
  intro hw _
  rw [show encode (.fdivD d a b) = enc3 (0x0B*2^26 + 14*2^0) d 21 a 16 b 11 from rfl]
  obtain ⟨hm, hf, e0, e1, e2⟩ := layout0 0x0B 14 (by decide) (by decide) d a b
  generalize enc3 (0x0B*2^26 + 14*2^0) d 21 a 16 b 11 = w at *
  exact decode_of w _ ((decodeRaw_0B w hm).trans (by simp [decode0B, hf, e0, e1, e2])) hw

theorem Encoded.fsqrtD (d : BitVec 5) (a : BitVec 5) : Encoded.Statement (.fsqrtD d a) := by
  intro hw _
  rw [show encode (.fsqrtD d a) = enc2 (0x0B*2^26 + 15*2^0) d 21 a 16 from rfl]
  obtain ⟨hm, hf, t0, e0, e1⟩ := layout1 0x0B 15 (by decide) (by decide) d a
  generalize enc2 (0x0B*2^26 + 15*2^0) d 21 a 16 = w at *
  exact decode_of w _ ((decodeRaw_0B w hm).trans (by simp [decode0B, onlyIf, hf, t0, e0, e1])) hw

theorem Encoded.fminD (d : BitVec 5) (a : BitVec 5) (b : BitVec 5) : Encoded.Statement (.fminD d a b) := by
  intro hw _
  rw [show encode (.fminD d a b) = enc3 (0x0B*2^26 + 16*2^0) d 21 a 16 b 11 from rfl]
  obtain ⟨hm, hf, e0, e1, e2⟩ := layout0 0x0B 16 (by decide) (by decide) d a b
  generalize enc3 (0x0B*2^26 + 16*2^0) d 21 a 16 b 11 = w at *
  exact decode_of w _ ((decodeRaw_0B w hm).trans (by simp [decode0B, hf, e0, e1, e2])) hw

theorem Encoded.fmaxD (d : BitVec 5) (a : BitVec 5) (b : BitVec 5) : Encoded.Statement (.fmaxD d a b) := by
  intro hw _
  rw [show encode (.fmaxD d a b) = enc3 (0x0B*2^26 + 17*2^0) d 21 a 16 b 11 from rfl]
  obtain ⟨hm, hf, e0, e1, e2⟩ := layout0 0x0B 17 (by decide) (by decide) d a b
  generalize enc3 (0x0B*2^26 + 17*2^0) d 21 a 16 b 11 = w at *
  exact decode_of w _ ((decodeRaw_0B w hm).trans (by simp [decode0B, hf, e0, e1, e2])) hw

theorem Encoded.fmaddD (d : BitVec 5) (a : BitVec 5) (b : BitVec 5) : Encoded.Statement (.fmaddD d a b) := by
  intro hw _
  rw [show encode (.fmaddD d a b) = enc3 (0x0B*2^26 + 18*2^0) d 21 a 16 b 11 from rfl]
  obtain ⟨hm, hf, e0, e1, e2⟩ := layout0 0x0B 18 (by decide) (by decide) d a b
  generalize enc3 (0x0B*2^26 + 18*2^0) d 21 a 16 b 11 = w at *
  exact decode_of w _ ((decodeRaw_0B w hm).trans (by simp [decode0B, hf, e0, e1, e2])) hw

theorem Encoded.feqD (d : BitVec 5) (a : BitVec 5) (b : BitVec 5) : Encoded.Statement (.feqD d a b) := by
  intro hw _
  rw [show encode (.feqD d a b) = enc3 (0x0B*2^26 + 19*2^0) d 21 a 16 b 11 from rfl]
  obtain ⟨hm, hf, e0, e1, e2⟩ := layout0 0x0B 19 (by decide) (by decide) d a b
  generalize enc3 (0x0B*2^26 + 19*2^0) d 21 a 16 b 11 = w at *
  exact decode_of w _ ((decodeRaw_0B w hm).trans (by simp [decode0B, hf, e0, e1, e2])) hw

theorem Encoded.fltD (d : BitVec 5) (a : BitVec 5) (b : BitVec 5) : Encoded.Statement (.fltD d a b) := by
  intro hw _
  rw [show encode (.fltD d a b) = enc3 (0x0B*2^26 + 20*2^0) d 21 a 16 b 11 from rfl]
  obtain ⟨hm, hf, e0, e1, e2⟩ := layout0 0x0B 20 (by decide) (by decide) d a b
  generalize enc3 (0x0B*2^26 + 20*2^0) d 21 a 16 b 11 = w at *
  exact decode_of w _ ((decodeRaw_0B w hm).trans (by simp [decode0B, hf, e0, e1, e2])) hw

theorem Encoded.fleD (d : BitVec 5) (a : BitVec 5) (b : BitVec 5) : Encoded.Statement (.fleD d a b) := by
  intro hw _
  rw [show encode (.fleD d a b) = enc3 (0x0B*2^26 + 21*2^0) d 21 a 16 b 11 from rfl]
  obtain ⟨hm, hf, e0, e1, e2⟩ := layout0 0x0B 21 (by decide) (by decide) d a b
  generalize enc3 (0x0B*2^26 + 21*2^0) d 21 a 16 b 11 = w at *
  exact decode_of w _ ((decodeRaw_0B w hm).trans (by simp [decode0B, hf, e0, e1, e2])) hw

theorem Encoded.fcvtSD (d : BitVec 5) (a : BitVec 5) : Encoded.Statement (.fcvtSD d a) := by
  intro hw _
  rw [show encode (.fcvtSD d a) = enc2 (0x0B*2^26 + 22*2^0) d 21 a 16 from rfl]
  obtain ⟨hm, hf, t0, e0, e1⟩ := layout1 0x0B 22 (by decide) (by decide) d a
  generalize enc2 (0x0B*2^26 + 22*2^0) d 21 a 16 = w at *
  exact decode_of w _ ((decodeRaw_0B w hm).trans (by simp [decode0B, onlyIf, hf, t0, e0, e1])) hw

theorem Encoded.fcvtDS (d : BitVec 5) (a : BitVec 5) : Encoded.Statement (.fcvtDS d a) := by
  intro hw _
  rw [show encode (.fcvtDS d a) = enc2 (0x0B*2^26 + 23*2^0) d 21 a 16 from rfl]
  obtain ⟨hm, hf, t0, e0, e1⟩ := layout1 0x0B 23 (by decide) (by decide) d a
  generalize enc2 (0x0B*2^26 + 23*2^0) d 21 a 16 = w at *
  exact decode_of w _ ((decodeRaw_0B w hm).trans (by simp [decode0B, onlyIf, hf, t0, e0, e1])) hw

theorem Encoded.fcvtSW (d : BitVec 5) (a : BitVec 5) : Encoded.Statement (.fcvtSW d a) := by
  intro hw _
  rw [show encode (.fcvtSW d a) = enc2 (0x0B*2^26 + 24*2^0) d 21 a 16 from rfl]
  obtain ⟨hm, hf, t0, e0, e1⟩ := layout1 0x0B 24 (by decide) (by decide) d a
  generalize enc2 (0x0B*2^26 + 24*2^0) d 21 a 16 = w at *
  exact decode_of w _ ((decodeRaw_0B w hm).trans (by simp [decode0B, onlyIf, hf, t0, e0, e1])) hw

theorem Encoded.fcvtWS (d : BitVec 5) (a : BitVec 5) : Encoded.Statement (.fcvtWS d a) := by
  intro hw _
  rw [show encode (.fcvtWS d a) = enc2 (0x0B*2^26 + 25*2^0) d 21 a 16 from rfl]
  obtain ⟨hm, hf, t0, e0, e1⟩ := layout1 0x0B 25 (by decide) (by decide) d a
  generalize enc2 (0x0B*2^26 + 25*2^0) d 21 a 16 = w at *
  exact decode_of w _ ((decodeRaw_0B w hm).trans (by simp [decode0B, onlyIf, hf, t0, e0, e1])) hw

theorem Encoded.fcvtDL (d : BitVec 5) (a : BitVec 5) : Encoded.Statement (.fcvtDL d a) := by
  intro hw _
  rw [show encode (.fcvtDL d a) = enc2 (0x0B*2^26 + 26*2^0) d 21 a 16 from rfl]
  obtain ⟨hm, hf, t0, e0, e1⟩ := layout1 0x0B 26 (by decide) (by decide) d a
  generalize enc2 (0x0B*2^26 + 26*2^0) d 21 a 16 = w at *
  exact decode_of w _ ((decodeRaw_0B w hm).trans (by simp [decode0B, onlyIf, hf, t0, e0, e1])) hw

theorem Encoded.fcvtLD (d : BitVec 5) (a : BitVec 5) : Encoded.Statement (.fcvtLD d a) := by
  intro hw _
  rw [show encode (.fcvtLD d a) = enc2 (0x0B*2^26 + 27*2^0) d 21 a 16 from rfl]
  obtain ⟨hm, hf, t0, e0, e1⟩ := layout1 0x0B 27 (by decide) (by decide) d a
  generalize enc2 (0x0B*2^26 + 27*2^0) d 21 a 16 = w at *
  exact decode_of w _ ((decodeRaw_0B w hm).trans (by simp [decode0B, onlyIf, hf, t0, e0, e1])) hw

theorem Encoded.fcvtBfS (d : BitVec 5) (a : BitVec 5) : Encoded.Statement (.fcvtBfS d a) := by
  intro hw _
  rw [show encode (.fcvtBfS d a) = enc2 (0x0B*2^26 + 28*2^0) d 21 a 16 from rfl]
  obtain ⟨hm, hf, t0, e0, e1⟩ := layout1 0x0B 28 (by decide) (by decide) d a
  generalize enc2 (0x0B*2^26 + 28*2^0) d 21 a 16 = w at *
  exact decode_of w _ ((decodeRaw_0B w hm).trans (by simp [decode0B, onlyIf, hf, t0, e0, e1])) hw

theorem Encoded.fcvtSBf (d : BitVec 5) (a : BitVec 5) : Encoded.Statement (.fcvtSBf d a) := by
  intro hw _
  rw [show encode (.fcvtSBf d a) = enc2 (0x0B*2^26 + 29*2^0) d 21 a 16 from rfl]
  obtain ⟨hm, hf, t0, e0, e1⟩ := layout1 0x0B 29 (by decide) (by decide) d a
  generalize enc2 (0x0B*2^26 + 29*2^0) d 21 a 16 = w at *
  exact decode_of w _ ((decodeRaw_0B w hm).trans (by simp [decode0B, onlyIf, hf, t0, e0, e1])) hw

theorem Encoded.ldb (d : BitVec 5) (a : BitVec 5) (h : BitVec 4) (o : BitVec 9) : Encoded.Statement (.ldb d a h o) := by
  intro hw _
  rw [show encode (.ldb d a h o) = enc4 (0x0C*2^26 + 0*2^9) d 21 a 16 h 12 o 0 from rfl]
  obtain ⟨hm, hf, e0, e1, e2, e3⟩ := layout6 0x0C 0 (by decide) (by decide) d a h o
  generalize enc4 (0x0C*2^26 + 0*2^9) d 21 a 16 h 12 o 0 = w at *
  exact decode_of w _ ((decodeRaw_0C w hm).trans (by simp [decode0C, hf, e0, e1, e2, e3])) hw

theorem Encoded.ldbu (d : BitVec 5) (a : BitVec 5) (h : BitVec 4) (o : BitVec 9) : Encoded.Statement (.ldbu d a h o) := by
  intro hw _
  rw [show encode (.ldbu d a h o) = enc4 (0x0C*2^26 + 1*2^9) d 21 a 16 h 12 o 0 from rfl]
  obtain ⟨hm, hf, e0, e1, e2, e3⟩ := layout6 0x0C 1 (by decide) (by decide) d a h o
  generalize enc4 (0x0C*2^26 + 1*2^9) d 21 a 16 h 12 o 0 = w at *
  exact decode_of w _ ((decodeRaw_0C w hm).trans (by simp [decode0C, hf, e0, e1, e2, e3])) hw

theorem Encoded.ldh (d : BitVec 5) (a : BitVec 5) (h : BitVec 4) (o : BitVec 9) : Encoded.Statement (.ldh d a h o) := by
  intro hw _
  rw [show encode (.ldh d a h o) = enc4 (0x0C*2^26 + 2*2^9) d 21 a 16 h 12 o 0 from rfl]
  obtain ⟨hm, hf, e0, e1, e2, e3⟩ := layout6 0x0C 2 (by decide) (by decide) d a h o
  generalize enc4 (0x0C*2^26 + 2*2^9) d 21 a 16 h 12 o 0 = w at *
  exact decode_of w _ ((decodeRaw_0C w hm).trans (by simp [decode0C, hf, e0, e1, e2, e3])) hw

theorem Encoded.ldhu (d : BitVec 5) (a : BitVec 5) (h : BitVec 4) (o : BitVec 9) : Encoded.Statement (.ldhu d a h o) := by
  intro hw _
  rw [show encode (.ldhu d a h o) = enc4 (0x0C*2^26 + 3*2^9) d 21 a 16 h 12 o 0 from rfl]
  obtain ⟨hm, hf, e0, e1, e2, e3⟩ := layout6 0x0C 3 (by decide) (by decide) d a h o
  generalize enc4 (0x0C*2^26 + 3*2^9) d 21 a 16 h 12 o 0 = w at *
  exact decode_of w _ ((decodeRaw_0C w hm).trans (by simp [decode0C, hf, e0, e1, e2, e3])) hw

theorem Encoded.ldw (d : BitVec 5) (a : BitVec 5) (h : BitVec 4) (o : BitVec 9) : Encoded.Statement (.ldw d a h o) := by
  intro hw _
  rw [show encode (.ldw d a h o) = enc4 (0x0C*2^26 + 4*2^9) d 21 a 16 h 12 o 0 from rfl]
  obtain ⟨hm, hf, e0, e1, e2, e3⟩ := layout6 0x0C 4 (by decide) (by decide) d a h o
  generalize enc4 (0x0C*2^26 + 4*2^9) d 21 a 16 h 12 o 0 = w at *
  exact decode_of w _ ((decodeRaw_0C w hm).trans (by simp [decode0C, hf, e0, e1, e2, e3])) hw

theorem Encoded.ldwu (d : BitVec 5) (a : BitVec 5) (h : BitVec 4) (o : BitVec 9) : Encoded.Statement (.ldwu d a h o) := by
  intro hw _
  rw [show encode (.ldwu d a h o) = enc4 (0x0C*2^26 + 5*2^9) d 21 a 16 h 12 o 0 from rfl]
  obtain ⟨hm, hf, e0, e1, e2, e3⟩ := layout6 0x0C 5 (by decide) (by decide) d a h o
  generalize enc4 (0x0C*2^26 + 5*2^9) d 21 a 16 h 12 o 0 = w at *
  exact decode_of w _ ((decodeRaw_0C w hm).trans (by simp [decode0C, hf, e0, e1, e2, e3])) hw

theorem Encoded.ldd (d : BitVec 5) (a : BitVec 5) (h : BitVec 4) (o : BitVec 9) : Encoded.Statement (.ldd d a h o) := by
  intro hw _
  rw [show encode (.ldd d a h o) = enc4 (0x0C*2^26 + 6*2^9) d 21 a 16 h 12 o 0 from rfl]
  obtain ⟨hm, hf, e0, e1, e2, e3⟩ := layout6 0x0C 6 (by decide) (by decide) d a h o
  generalize enc4 (0x0C*2^26 + 6*2^9) d 21 a 16 h 12 o 0 = w at *
  exact decode_of w _ ((decodeRaw_0C w hm).trans (by simp [decode0C, hf, e0, e1, e2, e3])) hw

theorem Encoded.stb (d : BitVec 5) (a : BitVec 5) (h : BitVec 4) (o : BitVec 9) : Encoded.Statement (.stb d a h o) := by
  intro hw _
  rw [show encode (.stb d a h o) = enc4 (0x0D*2^26 + 0*2^9) d 21 a 16 h 12 o 0 from rfl]
  obtain ⟨hm, hf, e0, e1, e2, e3⟩ := layout6 0x0D 0 (by decide) (by decide) d a h o
  generalize enc4 (0x0D*2^26 + 0*2^9) d 21 a 16 h 12 o 0 = w at *
  exact decode_of w _ ((decodeRaw_0D w hm).trans (by simp [decode0D, hf, e0, e1, e2, e3])) hw

theorem Encoded.sth (d : BitVec 5) (a : BitVec 5) (h : BitVec 4) (o : BitVec 9) : Encoded.Statement (.sth d a h o) := by
  intro hw _
  rw [show encode (.sth d a h o) = enc4 (0x0D*2^26 + 1*2^9) d 21 a 16 h 12 o 0 from rfl]
  obtain ⟨hm, hf, e0, e1, e2, e3⟩ := layout6 0x0D 1 (by decide) (by decide) d a h o
  generalize enc4 (0x0D*2^26 + 1*2^9) d 21 a 16 h 12 o 0 = w at *
  exact decode_of w _ ((decodeRaw_0D w hm).trans (by simp [decode0D, hf, e0, e1, e2, e3])) hw

theorem Encoded.stw (d : BitVec 5) (a : BitVec 5) (h : BitVec 4) (o : BitVec 9) : Encoded.Statement (.stw d a h o) := by
  intro hw _
  rw [show encode (.stw d a h o) = enc4 (0x0D*2^26 + 2*2^9) d 21 a 16 h 12 o 0 from rfl]
  obtain ⟨hm, hf, e0, e1, e2, e3⟩ := layout6 0x0D 2 (by decide) (by decide) d a h o
  generalize enc4 (0x0D*2^26 + 2*2^9) d 21 a 16 h 12 o 0 = w at *
  exact decode_of w _ ((decodeRaw_0D w hm).trans (by simp [decode0D, hf, e0, e1, e2, e3])) hw

theorem Encoded.std (d : BitVec 5) (a : BitVec 5) (h : BitVec 4) (o : BitVec 9) : Encoded.Statement (.std d a h o) := by
  intro hw _
  rw [show encode (.std d a h o) = enc4 (0x0D*2^26 + 3*2^9) d 21 a 16 h 12 o 0 from rfl]
  obtain ⟨hm, hf, e0, e1, e2, e3⟩ := layout6 0x0D 3 (by decide) (by decide) d a h o
  generalize enc4 (0x0D*2^26 + 3*2^9) d 21 a 16 h 12 o 0 = w at *
  exact decode_of w _ ((decodeRaw_0D w hm).trans (by simp [decode0D, hf, e0, e1, e2, e3])) hw

theorem Encoded.stn (d : BitVec 5) (a : BitVec 5) (h : BitVec 4) (o : BitVec 9) : Encoded.Statement (.stn d a h o) := by
  intro hw _
  rw [show encode (.stn d a h o) = enc4 (0x0D*2^26 + 4*2^9) d 21 a 16 h 12 o 0 from rfl]
  obtain ⟨hm, hf, e0, e1, e2, e3⟩ := layout6 0x0D 4 (by decide) (by decide) d a h o
  generalize enc4 (0x0D*2^26 + 4*2^9) d 21 a 16 h 12 o 0 = w at *
  exact decode_of w _ ((decodeRaw_0D w hm).trans (by simp [decode0D, hf, e0, e1, e2, e3])) hw

theorem Encoded.hset (d : BitVec 5) (a : BitVec 5) : Encoded.Statement (.hset d a) := by
  intro hw _
  rw [show encode (.hset d a) = enc2 (0x0E*2^26 + 0*2^0) d 21 a 16 from rfl]
  obtain ⟨hm, hf, t0, e0, e1⟩ := layout7 0x0E 0 (by decide) (by decide) d a
  generalize enc2 (0x0E*2^26 + 0*2^0) d 21 a 16 = w at *
  exact decode_of w _ ((decodeRaw_0E w hm).trans (by simp [decode0E, onlyIf, hf, t0, e0, e1])) hw

theorem Encoded.hget (d : BitVec 5) (a : BitVec 5) : Encoded.Statement (.hget d a) := by
  intro hw _
  rw [show encode (.hget d a) = enc2 (0x0E*2^26 + 1*2^0) d 21 a 16 from rfl]
  obtain ⟨hm, hf, t0, e0, e1⟩ := layout7 0x0E 1 (by decide) (by decide) d a
  generalize enc2 (0x0E*2^26 + 1*2^0) d 21 a 16 = w at *
  exact decode_of w _ ((decodeRaw_0E w hm).trans (by simp [decode0E, onlyIf, hf, t0, e0, e1])) hw

theorem Encoded.hinfo (d : BitVec 5) (a : BitVec 5) : Encoded.Statement (.hinfo d a) := by
  intro hw _
  rw [show encode (.hinfo d a) = enc2 (0x0E*2^26 + 2*2^0) d 21 a 16 from rfl]
  obtain ⟨hm, hf, t0, e0, e1⟩ := layout7 0x0E 2 (by decide) (by decide) d a
  generalize enc2 (0x0E*2^26 + 2*2^0) d 21 a 16 = w at *
  exact decode_of w _ ((decodeRaw_0E w hm).trans (by simp [decode0E, onlyIf, hf, t0, e0, e1])) hw

theorem Encoded.hlen (d : BitVec 5) (a : BitVec 5) : Encoded.Statement (.hlen d a) := by
  intro hw _
  rw [show encode (.hlen d a) = enc2 (0x0E*2^26 + 3*2^0) d 21 a 16 from rfl]
  obtain ⟨hm, hf, t0, e0, e1⟩ := layout7 0x0E 3 (by decide) (by decide) d a
  generalize enc2 (0x0E*2^26 + 3*2^0) d 21 a 16 = w at *
  exact decode_of w _ ((decodeRaw_0E w hm).trans (by simp [decode0E, onlyIf, hf, t0, e0, e1])) hw

theorem Encoded.hsub (d : BitVec 5) (a : BitVec 5) (b : BitVec 5) (h : BitVec 4) : Encoded.Statement (.hsub d a b h) := by
  intro hw _
  rw [show encode (.hsub d a b h) = enc4 (0x0E*2^26 + 4*2^0) d 21 a 16 b 11 h 5 from rfl]
  obtain ⟨hm, hf, t0, e0, e1, e2, e3⟩ := layout8 0x0E 4 (by decide) (by decide) d a b h
  generalize enc4 (0x0E*2^26 + 4*2^0) d 21 a 16 b 11 h 5 = w at *
  exact decode_of w _ ((decodeRaw_0E w hm).trans (by simp [decode0E, onlyIf, hf, t0, e0, e1, e2, e3])) hw

theorem Encoded.oalloc (d : BitVec 5) (a : BitVec 5) (b : BitVec 5) : Encoded.Statement (.oalloc d a b) := by
  intro hw _
  rw [show encode (.oalloc d a b) = enc3 (0x0E*2^26 + 5*2^0) d 21 a 16 b 11 from rfl]
  obtain ⟨hm, hf, t0, e0, e1, e2⟩ := layout9 0x0E 5 (by decide) (by decide) d a b
  generalize enc3 (0x0E*2^26 + 5*2^0) d 21 a 16 b 11 = w at *
  exact decode_of w _ ((decodeRaw_0E w hm).trans (by simp [decode0E, onlyIf, hf, t0, e0, e1, e2])) hw

theorem Encoded.ofree (a : BitVec 5) : Encoded.Statement (.ofree a) := by
  intro hw _
  rw [show encode (.ofree a) = enc1 (0x0E*2^26 + 6*2^0) a 16 from rfl]
  obtain ⟨hm, hf, t0, t1, e0⟩ := layout10 0x0E 6 (by decide) (by decide) a
  generalize enc1 (0x0E*2^26 + 6*2^0) a 16 = w at *
  exact decode_of w _ ((decodeRaw_0E w hm).trans (by simp [decode0E, onlyIf, hf, t0, t1, e0])) hw

theorem Encoded.amoSwap (d : BitVec 5) (a : BitVec 5) (b : BitVec 5) (h : BitVec 4) (o : BitVec 2) (w' : BitVec 1) : Encoded.Statement (.amoSwap d a b h o w') := by
  intro hw _
  rw [show encode (.amoSwap d a b h o w') = enc6 (0x0F*2^26 + 0*2^0) d 21 a 16 b 11 h 7 o 5 w' 0 from rfl]
  obtain ⟨hm, hf, e0, e1, e2, e3, e4, e5⟩ := layout11 0x0F 0 (by decide) (by decide) d a b h o w'
  generalize enc6 (0x0F*2^26 + 0*2^0) d 21 a 16 b 11 h 7 o 5 w' 0 = w at *
  have hb := w'.isLt
  have hc : w'.toNat = 0 ∨ w'.toNat = 1 := by omega
  apply decode_of w _ _ hw
  rw [decodeRaw_0F w hm]
  rcases hc with hc | hc <;> rw [hc] at hf <;> simp [decode0F, hf, e0, e1, e2, e3, e4, e5]

theorem Encoded.amoCas (d : BitVec 5) (a : BitVec 5) (b : BitVec 5) (h : BitVec 4) (o : BitVec 2) (w' : BitVec 1) : Encoded.Statement (.amoCas d a b h o w') := by
  intro hw _
  rw [show encode (.amoCas d a b h o w') = enc6 (0x0F*2^26 + 2*2^0) d 21 a 16 b 11 h 7 o 5 w' 0 from rfl]
  obtain ⟨hm, hf, e0, e1, e2, e3, e4, e5⟩ := layout11 0x0F 2 (by decide) (by decide) d a b h o w'
  generalize enc6 (0x0F*2^26 + 2*2^0) d 21 a 16 b 11 h 7 o 5 w' 0 = w at *
  have hb := w'.isLt
  have hc : w'.toNat = 0 ∨ w'.toNat = 1 := by omega
  apply decode_of w _ _ hw
  rw [decodeRaw_0F w hm]
  rcases hc with hc | hc <;> rw [hc] at hf <;> simp [decode0F, hf, e0, e1, e2, e3, e4, e5]

theorem Encoded.amoAdd (d : BitVec 5) (a : BitVec 5) (b : BitVec 5) (h : BitVec 4) (o : BitVec 2) (w' : BitVec 1) : Encoded.Statement (.amoAdd d a b h o w') := by
  intro hw _
  rw [show encode (.amoAdd d a b h o w') = enc6 (0x0F*2^26 + 4*2^0) d 21 a 16 b 11 h 7 o 5 w' 0 from rfl]
  obtain ⟨hm, hf, e0, e1, e2, e3, e4, e5⟩ := layout11 0x0F 4 (by decide) (by decide) d a b h o w'
  generalize enc6 (0x0F*2^26 + 4*2^0) d 21 a 16 b 11 h 7 o 5 w' 0 = w at *
  have hb := w'.isLt
  have hc : w'.toNat = 0 ∨ w'.toNat = 1 := by omega
  apply decode_of w _ _ hw
  rw [decodeRaw_0F w hm]
  rcases hc with hc | hc <;> rw [hc] at hf <;> simp [decode0F, hf, e0, e1, e2, e3, e4, e5]

theorem Encoded.amoAnd (d : BitVec 5) (a : BitVec 5) (b : BitVec 5) (h : BitVec 4) (o : BitVec 2) (w' : BitVec 1) : Encoded.Statement (.amoAnd d a b h o w') := by
  intro hw _
  rw [show encode (.amoAnd d a b h o w') = enc6 (0x0F*2^26 + 6*2^0) d 21 a 16 b 11 h 7 o 5 w' 0 from rfl]
  obtain ⟨hm, hf, e0, e1, e2, e3, e4, e5⟩ := layout11 0x0F 6 (by decide) (by decide) d a b h o w'
  generalize enc6 (0x0F*2^26 + 6*2^0) d 21 a 16 b 11 h 7 o 5 w' 0 = w at *
  have hb := w'.isLt
  have hc : w'.toNat = 0 ∨ w'.toNat = 1 := by omega
  apply decode_of w _ _ hw
  rw [decodeRaw_0F w hm]
  rcases hc with hc | hc <;> rw [hc] at hf <;> simp [decode0F, hf, e0, e1, e2, e3, e4, e5]

theorem Encoded.amoOr (d : BitVec 5) (a : BitVec 5) (b : BitVec 5) (h : BitVec 4) (o : BitVec 2) (w' : BitVec 1) : Encoded.Statement (.amoOr d a b h o w') := by
  intro hw _
  rw [show encode (.amoOr d a b h o w') = enc6 (0x0F*2^26 + 8*2^0) d 21 a 16 b 11 h 7 o 5 w' 0 from rfl]
  obtain ⟨hm, hf, e0, e1, e2, e3, e4, e5⟩ := layout11 0x0F 8 (by decide) (by decide) d a b h o w'
  generalize enc6 (0x0F*2^26 + 8*2^0) d 21 a 16 b 11 h 7 o 5 w' 0 = w at *
  have hb := w'.isLt
  have hc : w'.toNat = 0 ∨ w'.toNat = 1 := by omega
  apply decode_of w _ _ hw
  rw [decodeRaw_0F w hm]
  rcases hc with hc | hc <;> rw [hc] at hf <;> simp [decode0F, hf, e0, e1, e2, e3, e4, e5]

theorem Encoded.amoXor (d : BitVec 5) (a : BitVec 5) (b : BitVec 5) (h : BitVec 4) (o : BitVec 2) (w' : BitVec 1) : Encoded.Statement (.amoXor d a b h o w') := by
  intro hw _
  rw [show encode (.amoXor d a b h o w') = enc6 (0x0F*2^26 + 10*2^0) d 21 a 16 b 11 h 7 o 5 w' 0 from rfl]
  obtain ⟨hm, hf, e0, e1, e2, e3, e4, e5⟩ := layout11 0x0F 10 (by decide) (by decide) d a b h o w'
  generalize enc6 (0x0F*2^26 + 10*2^0) d 21 a 16 b 11 h 7 o 5 w' 0 = w at *
  have hb := w'.isLt
  have hc : w'.toNat = 0 ∨ w'.toNat = 1 := by omega
  apply decode_of w _ _ hw
  rw [decodeRaw_0F w hm]
  rcases hc with hc | hc <;> rw [hc] at hf <;> simp [decode0F, hf, e0, e1, e2, e3, e4, e5]

theorem Encoded.amoMin (d : BitVec 5) (a : BitVec 5) (b : BitVec 5) (h : BitVec 4) (o : BitVec 2) (w' : BitVec 1) : Encoded.Statement (.amoMin d a b h o w') := by
  intro hw _
  rw [show encode (.amoMin d a b h o w') = enc6 (0x0F*2^26 + 12*2^0) d 21 a 16 b 11 h 7 o 5 w' 0 from rfl]
  obtain ⟨hm, hf, e0, e1, e2, e3, e4, e5⟩ := layout11 0x0F 12 (by decide) (by decide) d a b h o w'
  generalize enc6 (0x0F*2^26 + 12*2^0) d 21 a 16 b 11 h 7 o 5 w' 0 = w at *
  have hb := w'.isLt
  have hc : w'.toNat = 0 ∨ w'.toNat = 1 := by omega
  apply decode_of w _ _ hw
  rw [decodeRaw_0F w hm]
  rcases hc with hc | hc <;> rw [hc] at hf <;> simp [decode0F, hf, e0, e1, e2, e3, e4, e5]

theorem Encoded.amoMax (d : BitVec 5) (a : BitVec 5) (b : BitVec 5) (h : BitVec 4) (o : BitVec 2) (w' : BitVec 1) : Encoded.Statement (.amoMax d a b h o w') := by
  intro hw _
  rw [show encode (.amoMax d a b h o w') = enc6 (0x0F*2^26 + 14*2^0) d 21 a 16 b 11 h 7 o 5 w' 0 from rfl]
  obtain ⟨hm, hf, e0, e1, e2, e3, e4, e5⟩ := layout11 0x0F 14 (by decide) (by decide) d a b h o w'
  generalize enc6 (0x0F*2^26 + 14*2^0) d 21 a 16 b 11 h 7 o 5 w' 0 = w at *
  have hb := w'.isLt
  have hc : w'.toNat = 0 ∨ w'.toNat = 1 := by omega
  apply decode_of w _ _ hw
  rw [decodeRaw_0F w hm]
  rcases hc with hc | hc <;> rw [hc] at hf <;> simp [decode0F, hf, e0, e1, e2, e3, e4, e5]

theorem Encoded.amoMinu (d : BitVec 5) (a : BitVec 5) (b : BitVec 5) (h : BitVec 4) (o : BitVec 2) (w' : BitVec 1) : Encoded.Statement (.amoMinu d a b h o w') := by
  intro hw _
  rw [show encode (.amoMinu d a b h o w') = enc6 (0x0F*2^26 + 16*2^0) d 21 a 16 b 11 h 7 o 5 w' 0 from rfl]
  obtain ⟨hm, hf, e0, e1, e2, e3, e4, e5⟩ := layout11 0x0F 16 (by decide) (by decide) d a b h o w'
  generalize enc6 (0x0F*2^26 + 16*2^0) d 21 a 16 b 11 h 7 o 5 w' 0 = w at *
  have hb := w'.isLt
  have hc : w'.toNat = 0 ∨ w'.toNat = 1 := by omega
  apply decode_of w _ _ hw
  rw [decodeRaw_0F w hm]
  rcases hc with hc | hc <;> rw [hc] at hf <;> simp [decode0F, hf, e0, e1, e2, e3, e4, e5]

theorem Encoded.amoMaxu (d : BitVec 5) (a : BitVec 5) (b : BitVec 5) (h : BitVec 4) (o : BitVec 2) (w' : BitVec 1) : Encoded.Statement (.amoMaxu d a b h o w') := by
  intro hw _
  rw [show encode (.amoMaxu d a b h o w') = enc6 (0x0F*2^26 + 18*2^0) d 21 a 16 b 11 h 7 o 5 w' 0 from rfl]
  obtain ⟨hm, hf, e0, e1, e2, e3, e4, e5⟩ := layout11 0x0F 18 (by decide) (by decide) d a b h o w'
  generalize enc6 (0x0F*2^26 + 18*2^0) d 21 a 16 b 11 h 7 o 5 w' 0 = w at *
  have hb := w'.isLt
  have hc : w'.toNat = 0 ∨ w'.toNat = 1 := by omega
  apply decode_of w _ _ hw
  rw [decodeRaw_0F w hm]
  rcases hc with hc | hc <;> rw [hc] at hf <;> simp [decode0F, hf, e0, e1, e2, e3, e4, e5]

theorem Encoded.amoFaddS (d : BitVec 5) (a : BitVec 5) (b : BitVec 5) (h : BitVec 4) (o : BitVec 2) : Encoded.Statement (.amoFaddS d a b h o) := by
  intro hw _
  rw [show encode (.amoFaddS d a b h o) = enc5 (0x0F*2^26 + 20*2^0) d 21 a 16 b 11 h 7 o 5 from rfl]
  obtain ⟨hm, hf, e0, e1, e2, e3, e4⟩ := layout12 0x0F 20 (by decide) (by decide) d a b h o
  generalize enc5 (0x0F*2^26 + 20*2^0) d 21 a 16 b 11 h 7 o 5 = w at *
  exact decode_of w _ ((decodeRaw_0F w hm).trans (by simp [decode0F, hf, e0, e1, e2, e3, e4])) hw

theorem Encoded.redAdd (a : BitVec 5) (b : BitVec 5) (h : BitVec 4) (o : BitVec 1) (w' : BitVec 1) : Encoded.Statement (.redAdd a b h o w') := by
  intro hw _
  rw [show encode (.redAdd a b h o w') = enc5 (0x10*2^26 + 0*2^0) a 16 b 11 h 7 o 6 w' 0 from rfl]
  obtain ⟨hm, hf, t0, t1, e0, e1, e2, e3, e4⟩ := layout13 0x10 0 (by decide) (by decide) a b h o w'
  generalize enc5 (0x10*2^26 + 0*2^0) a 16 b 11 h 7 o 6 w' 0 = w at *
  have hb := w'.isLt
  have hc : w'.toNat = 0 ∨ w'.toNat = 1 := by omega
  apply decode_of w _ _ hw
  rw [decodeRaw_10 w hm]
  rcases hc with hc | hc <;> rw [hc] at hf <;> simp [decode10, onlyIf, hf, t0, t1, e0, e1, e2, e3, e4]

theorem Encoded.redAnd (a : BitVec 5) (b : BitVec 5) (h : BitVec 4) (o : BitVec 1) (w' : BitVec 1) : Encoded.Statement (.redAnd a b h o w') := by
  intro hw _
  rw [show encode (.redAnd a b h o w') = enc5 (0x10*2^26 + 2*2^0) a 16 b 11 h 7 o 6 w' 0 from rfl]
  obtain ⟨hm, hf, t0, t1, e0, e1, e2, e3, e4⟩ := layout13 0x10 2 (by decide) (by decide) a b h o w'
  generalize enc5 (0x10*2^26 + 2*2^0) a 16 b 11 h 7 o 6 w' 0 = w at *
  have hb := w'.isLt
  have hc : w'.toNat = 0 ∨ w'.toNat = 1 := by omega
  apply decode_of w _ _ hw
  rw [decodeRaw_10 w hm]
  rcases hc with hc | hc <;> rw [hc] at hf <;> simp [decode10, onlyIf, hf, t0, t1, e0, e1, e2, e3, e4]

theorem Encoded.redOr (a : BitVec 5) (b : BitVec 5) (h : BitVec 4) (o : BitVec 1) (w' : BitVec 1) : Encoded.Statement (.redOr a b h o w') := by
  intro hw _
  rw [show encode (.redOr a b h o w') = enc5 (0x10*2^26 + 4*2^0) a 16 b 11 h 7 o 6 w' 0 from rfl]
  obtain ⟨hm, hf, t0, t1, e0, e1, e2, e3, e4⟩ := layout13 0x10 4 (by decide) (by decide) a b h o w'
  generalize enc5 (0x10*2^26 + 4*2^0) a 16 b 11 h 7 o 6 w' 0 = w at *
  have hb := w'.isLt
  have hc : w'.toNat = 0 ∨ w'.toNat = 1 := by omega
  apply decode_of w _ _ hw
  rw [decodeRaw_10 w hm]
  rcases hc with hc | hc <;> rw [hc] at hf <;> simp [decode10, onlyIf, hf, t0, t1, e0, e1, e2, e3, e4]

theorem Encoded.redXor (a : BitVec 5) (b : BitVec 5) (h : BitVec 4) (o : BitVec 1) (w' : BitVec 1) : Encoded.Statement (.redXor a b h o w') := by
  intro hw _
  rw [show encode (.redXor a b h o w') = enc5 (0x10*2^26 + 6*2^0) a 16 b 11 h 7 o 6 w' 0 from rfl]
  obtain ⟨hm, hf, t0, t1, e0, e1, e2, e3, e4⟩ := layout13 0x10 6 (by decide) (by decide) a b h o w'
  generalize enc5 (0x10*2^26 + 6*2^0) a 16 b 11 h 7 o 6 w' 0 = w at *
  have hb := w'.isLt
  have hc : w'.toNat = 0 ∨ w'.toNat = 1 := by omega
  apply decode_of w _ _ hw
  rw [decodeRaw_10 w hm]
  rcases hc with hc | hc <;> rw [hc] at hf <;> simp [decode10, onlyIf, hf, t0, t1, e0, e1, e2, e3, e4]

theorem Encoded.redMin (a : BitVec 5) (b : BitVec 5) (h : BitVec 4) (o : BitVec 1) (w' : BitVec 1) : Encoded.Statement (.redMin a b h o w') := by
  intro hw _
  rw [show encode (.redMin a b h o w') = enc5 (0x10*2^26 + 8*2^0) a 16 b 11 h 7 o 6 w' 0 from rfl]
  obtain ⟨hm, hf, t0, t1, e0, e1, e2, e3, e4⟩ := layout13 0x10 8 (by decide) (by decide) a b h o w'
  generalize enc5 (0x10*2^26 + 8*2^0) a 16 b 11 h 7 o 6 w' 0 = w at *
  have hb := w'.isLt
  have hc : w'.toNat = 0 ∨ w'.toNat = 1 := by omega
  apply decode_of w _ _ hw
  rw [decodeRaw_10 w hm]
  rcases hc with hc | hc <;> rw [hc] at hf <;> simp [decode10, onlyIf, hf, t0, t1, e0, e1, e2, e3, e4]

theorem Encoded.redMax (a : BitVec 5) (b : BitVec 5) (h : BitVec 4) (o : BitVec 1) (w' : BitVec 1) : Encoded.Statement (.redMax a b h o w') := by
  intro hw _
  rw [show encode (.redMax a b h o w') = enc5 (0x10*2^26 + 10*2^0) a 16 b 11 h 7 o 6 w' 0 from rfl]
  obtain ⟨hm, hf, t0, t1, e0, e1, e2, e3, e4⟩ := layout13 0x10 10 (by decide) (by decide) a b h o w'
  generalize enc5 (0x10*2^26 + 10*2^0) a 16 b 11 h 7 o 6 w' 0 = w at *
  have hb := w'.isLt
  have hc : w'.toNat = 0 ∨ w'.toNat = 1 := by omega
  apply decode_of w _ _ hw
  rw [decodeRaw_10 w hm]
  rcases hc with hc | hc <;> rw [hc] at hf <;> simp [decode10, onlyIf, hf, t0, t1, e0, e1, e2, e3, e4]

theorem Encoded.redMinu (a : BitVec 5) (b : BitVec 5) (h : BitVec 4) (o : BitVec 1) (w' : BitVec 1) : Encoded.Statement (.redMinu a b h o w') := by
  intro hw _
  rw [show encode (.redMinu a b h o w') = enc5 (0x10*2^26 + 12*2^0) a 16 b 11 h 7 o 6 w' 0 from rfl]
  obtain ⟨hm, hf, t0, t1, e0, e1, e2, e3, e4⟩ := layout13 0x10 12 (by decide) (by decide) a b h o w'
  generalize enc5 (0x10*2^26 + 12*2^0) a 16 b 11 h 7 o 6 w' 0 = w at *
  have hb := w'.isLt
  have hc : w'.toNat = 0 ∨ w'.toNat = 1 := by omega
  apply decode_of w _ _ hw
  rw [decodeRaw_10 w hm]
  rcases hc with hc | hc <;> rw [hc] at hf <;> simp [decode10, onlyIf, hf, t0, t1, e0, e1, e2, e3, e4]

theorem Encoded.redMaxu (a : BitVec 5) (b : BitVec 5) (h : BitVec 4) (o : BitVec 1) (w' : BitVec 1) : Encoded.Statement (.redMaxu a b h o w') := by
  intro hw _
  rw [show encode (.redMaxu a b h o w') = enc5 (0x10*2^26 + 14*2^0) a 16 b 11 h 7 o 6 w' 0 from rfl]
  obtain ⟨hm, hf, t0, t1, e0, e1, e2, e3, e4⟩ := layout13 0x10 14 (by decide) (by decide) a b h o w'
  generalize enc5 (0x10*2^26 + 14*2^0) a 16 b 11 h 7 o 6 w' 0 = w at *
  have hb := w'.isLt
  have hc : w'.toNat = 0 ∨ w'.toNat = 1 := by omega
  apply decode_of w _ _ hw
  rw [decodeRaw_10 w hm]
  rcases hc with hc | hc <;> rw [hc] at hf <;> simp [decode10, onlyIf, hf, t0, t1, e0, e1, e2, e3, e4]

theorem Encoded.redFaddS (a : BitVec 5) (b : BitVec 5) (h : BitVec 4) (o : BitVec 1) : Encoded.Statement (.redFaddS a b h o) := by
  intro hw _
  rw [show encode (.redFaddS a b h o) = enc4 (0x10*2^26 + 16*2^0) a 16 b 11 h 7 o 6 from rfl]
  obtain ⟨hm, hf, t0, t1, e0, e1, e2, e3⟩ := layout14 0x10 16 (by decide) (by decide) a b h o
  generalize enc4 (0x10*2^26 + 16*2^0) a 16 b 11 h 7 o 6 = w at *
  exact decode_of w _ ((decodeRaw_10 w hm).trans (by simp [decode10, onlyIf, hf, t0, t1, e0, e1, e2, e3])) hw

theorem Encoded.redFmaxS (a : BitVec 5) (b : BitVec 5) (h : BitVec 4) (o : BitVec 1) : Encoded.Statement (.redFmaxS a b h o) := by
  intro hw _
  rw [show encode (.redFmaxS a b h o) = enc4 (0x10*2^26 + 17*2^0) a 16 b 11 h 7 o 6 from rfl]
  obtain ⟨hm, hf, t0, t1, e0, e1, e2, e3⟩ := layout14 0x10 17 (by decide) (by decide) a b h o
  generalize enc4 (0x10*2^26 + 17*2^0) a 16 b 11 h 7 o 6 = w at *
  exact decode_of w _ ((decodeRaw_10 w hm).trans (by simp [decode10, onlyIf, hf, t0, t1, e0, e1, e2, e3])) hw

theorem Encoded.rgn (s : BitVec 16) : Encoded.Statement (.rgn s) := by
  intro hw _
  rw [show encode (.rgn s) = enc1 (0x11*2^26 + 0*2^25) s 0 from rfl]
  obtain ⟨hm, hf, t0, e0⟩ := layout15 0x11 0 (by decide) (by decide) s
  generalize enc1 (0x11*2^26 + 0*2^25) s 0 = w at *
  exact decode_of w _ ((decodeRaw_11 w hm).trans (by simp [decode11, onlyIf, hf, t0, e0])) hw

theorem Encoded.rgnx (s : BitVec 16) : Encoded.Statement (.rgnx s) := by
  intro hw _
  rw [show encode (.rgnx s) = enc1 (0x11*2^26 + 1*2^25) s 0 from rfl]
  obtain ⟨hm, hf, t0, e0⟩ := layout15 0x11 1 (by decide) (by decide) s
  generalize enc1 (0x11*2^26 + 1*2^25) s 0 = w at *
  exact decode_of w _ ((decodeRaw_11 w hm).trans (by simp [decode11, onlyIf, hf, t0, e0])) hw

theorem Encoded.beq (a : BitVec 5) (b : BitVec 5) (o : BitVec 16) : Encoded.Statement (.beq a b o) := by
  intro hw _
  rw [show encode (.beq a b o) = enc3 (0x12*2^26) a 21 b 16 o 0 from rfl]
  obtain ⟨hm, e0, e1, e2⟩ := layout2 0x12 (by decide) a b o
  generalize enc3 (0x12*2^26) a 21 b 16 o 0 = w at *
  exact decode_of w _ ((decodeRaw_12 w hm).trans (by simp [decode12, e0, e1, e2])) hw

theorem Encoded.bne (a : BitVec 5) (b : BitVec 5) (o : BitVec 16) : Encoded.Statement (.bne a b o) := by
  intro hw _
  rw [show encode (.bne a b o) = enc3 (0x13*2^26) a 21 b 16 o 0 from rfl]
  obtain ⟨hm, e0, e1, e2⟩ := layout2 0x13 (by decide) a b o
  generalize enc3 (0x13*2^26) a 21 b 16 o 0 = w at *
  exact decode_of w _ ((decodeRaw_13 w hm).trans (by simp [decode13, e0, e1, e2])) hw

theorem Encoded.blt (a : BitVec 5) (b : BitVec 5) (o : BitVec 16) : Encoded.Statement (.blt a b o) := by
  intro hw _
  rw [show encode (.blt a b o) = enc3 (0x14*2^26) a 21 b 16 o 0 from rfl]
  obtain ⟨hm, e0, e1, e2⟩ := layout2 0x14 (by decide) a b o
  generalize enc3 (0x14*2^26) a 21 b 16 o 0 = w at *
  exact decode_of w _ ((decodeRaw_14 w hm).trans (by simp [decode14, e0, e1, e2])) hw

theorem Encoded.bge (a : BitVec 5) (b : BitVec 5) (o : BitVec 16) : Encoded.Statement (.bge a b o) := by
  intro hw _
  rw [show encode (.bge a b o) = enc3 (0x15*2^26) a 21 b 16 o 0 from rfl]
  obtain ⟨hm, e0, e1, e2⟩ := layout2 0x15 (by decide) a b o
  generalize enc3 (0x15*2^26) a 21 b 16 o 0 = w at *
  exact decode_of w _ ((decodeRaw_15 w hm).trans (by simp [decode15, e0, e1, e2])) hw

theorem Encoded.bltu (a : BitVec 5) (b : BitVec 5) (o : BitVec 16) : Encoded.Statement (.bltu a b o) := by
  intro hw _
  rw [show encode (.bltu a b o) = enc3 (0x16*2^26) a 21 b 16 o 0 from rfl]
  obtain ⟨hm, e0, e1, e2⟩ := layout2 0x16 (by decide) a b o
  generalize enc3 (0x16*2^26) a 21 b 16 o 0 = w at *
  exact decode_of w _ ((decodeRaw_16 w hm).trans (by simp [decode16, e0, e1, e2])) hw

theorem Encoded.bgeu (a : BitVec 5) (b : BitVec 5) (o : BitVec 16) : Encoded.Statement (.bgeu a b o) := by
  intro hw _
  rw [show encode (.bgeu a b o) = enc3 (0x17*2^26) a 21 b 16 o 0 from rfl]
  obtain ⟨hm, e0, e1, e2⟩ := layout2 0x17 (by decide) a b o
  generalize enc3 (0x17*2^26) a 21 b 16 o 0 = w at *
  exact decode_of w _ ((decodeRaw_17 w hm).trans (by simp [decode17, e0, e1, e2])) hw

theorem Encoded.bbs (a : BitVec 5) (t : BitVec 6) (o : BitVec 15) : Encoded.Statement (.bbs a t o) := by
  intro hw _
  rw [show encode (.bbs a t o) = enc3 (0x18*2^26) a 21 t 15 o 0 from rfl]
  obtain ⟨hm, e0, e1, e2⟩ := layout16 0x18 (by decide) a t o
  generalize enc3 (0x18*2^26) a 21 t 15 o 0 = w at *
  exact decode_of w _ ((decodeRaw_18 w hm).trans (by simp [decode18, e0, e1, e2])) hw

theorem Encoded.bbc (a : BitVec 5) (t : BitVec 6) (o : BitVec 15) : Encoded.Statement (.bbc a t o) := by
  intro hw _
  rw [show encode (.bbc a t o) = enc3 (0x19*2^26) a 21 t 15 o 0 from rfl]
  obtain ⟨hm, e0, e1, e2⟩ := layout16 0x19 (by decide) a t o
  generalize enc3 (0x19*2^26) a 21 t 15 o 0 = w at *
  exact decode_of w _ ((decodeRaw_19 w hm).trans (by simp [decode19, e0, e1, e2])) hw

theorem Encoded.j (o : BitVec 26) : Encoded.Statement (.j o) := by
  intro hw _
  rw [show encode (.j o) = enc1 (0x1A*2^26) o 0 from rfl]
  obtain ⟨hm, e0⟩ := layout17 0x1A (by decide) o
  generalize enc1 (0x1A*2^26) o 0 = w at *
  exact decode_of w _ ((decodeRaw_1A w hm).trans (by simp [decode1A, e0])) hw

theorem Encoded.jal (o : BitVec 26) : Encoded.Statement (.jal o) := by
  intro hw _
  rw [show encode (.jal o) = enc1 (0x1B*2^26) o 0 from rfl]
  obtain ⟨hm, e0⟩ := layout17 0x1B (by decide) o
  generalize enc1 (0x1B*2^26) o 0 = w at *
  exact decode_of w _ ((decodeRaw_1B w hm).trans (by simp [decode1B, e0])) hw

theorem Encoded.jr (a : BitVec 5) : Encoded.Statement (.jr a) := by
  intro hw _
  rw [show encode (.jr a) = enc1 (0x1C*2^26 + 0*2^0) a 16 from rfl]
  obtain ⟨hm, hf, t0, t1, e0⟩ := layout18 0x1C 0 (by decide) (by decide) a
  generalize enc1 (0x1C*2^26 + 0*2^0) a 16 = w at *
  exact decode_of w _ ((decodeRaw_1C w hm).trans (by simp [decode1C, onlyIf, hf, t0, t1, e0])) hw

theorem Encoded.jalr (d : BitVec 5) (a : BitVec 5) : Encoded.Statement (.jalr d a) := by
  intro hw _
  rw [show encode (.jalr d a) = enc2 (0x1C*2^26 + 1*2^0) d 21 a 16 from rfl]
  obtain ⟨hm, hf, t0, e0, e1⟩ := layout1 0x1C 1 (by decide) (by decide) d a
  generalize enc2 (0x1C*2^26 + 1*2^0) d 21 a 16 = w at *
  exact decode_of w _ ((decodeRaw_1C w hm).trans (by simp [decode1C, onlyIf, hf, t0, e0, e1])) hw

theorem Encoded.fence (a : BitVec 5) : Encoded.Statement (.fence a) := by
  intro hw _
  rw [show encode (.fence a) = enc1 (0x1D*2^26 + 0*2^0) a 16 from rfl]
  obtain ⟨hm, hf, t0, t1, e0⟩ := layout10 0x1D 0 (by decide) (by decide) a
  generalize enc1 (0x1D*2^26 + 0*2^0) a 16 = w at *
  exact decode_of w _ ((decodeRaw_1D w hm).trans (by simp [decode1D, onlyIf, hf, t0, t1, e0])) hw

theorem Encoded.rfence : Encoded.Statement (.rfence) := by
  intro hw _
  rw [show encode (.rfence) = enc0 (0x1D*2^26 + 1*2^0) from rfl]
  obtain ⟨hm, hf, t0⟩ := layout19 0x1D 1 (by decide) (by decide)
  generalize enc0 (0x1D*2^26 + 1*2^0) = w at *
  exact decode_of w _ ((decodeRaw_1D w hm).trans (by simp [decode1D, onlyIf, hf, t0])) hw

theorem Encoded.wait (d : BitVec 5) (a : BitVec 5) : Encoded.Statement (.wait d a) := by
  intro hw _
  rw [show encode (.wait d a) = enc2 (0x1D*2^26 + 2*2^0) d 21 a 16 from rfl]
  obtain ⟨hm, hf, t0, e0, e1⟩ := layout7 0x1D 2 (by decide) (by decide) d a
  generalize enc2 (0x1D*2^26 + 2*2^0) d 21 a 16 = w at *
  exact decode_of w _ ((decodeRaw_1D w hm).trans (by simp [decode1D, onlyIf, hf, t0, e0, e1])) hw

theorem Encoded.evsig (a : BitVec 5) (b : BitVec 5) : Encoded.Statement (.evsig a b) := by
  intro hw _
  rw [show encode (.evsig a b) = enc2 (0x1D*2^26 + 3*2^0) a 16 b 11 from rfl]
  obtain ⟨hm, hf, t0, t1, e0, e1⟩ := layout20 0x1D 3 (by decide) (by decide) a b
  generalize enc2 (0x1D*2^26 + 3*2^0) a 16 b 11 = w at *
  exact decode_of w _ ((decodeRaw_1D w hm).trans (by simp [decode1D, onlyIf, hf, t0, t1, e0, e1])) hw

theorem Encoded.barEvent (d : BitVec 5) (a : BitVec 5) (b : BitVec 5) : Encoded.Statement (.barEvent d a b) := by
  intro hw _
  rw [show encode (.barEvent d a b) = enc3 (0x1D*2^26 + 4*2^0) d 21 a 16 b 11 from rfl]
  obtain ⟨hm, hf, t0, e0, e1, e2⟩ := layout9 0x1D 4 (by decide) (by decide) d a b
  generalize enc3 (0x1D*2^26 + 4*2^0) d 21 a 16 b 11 = w at *
  exact decode_of w _ ((decodeRaw_1D w hm).trans (by simp [decode1D, hf, t0, e0, e1, e2])) hw

theorem Encoded.barObject (d : BitVec 5) (b : BitVec 5) (h : BitVec 4) : Encoded.Statement (.barObject d b h) := by
  intro hw _
  rw [show encode (.barObject d b h) = enc3 (0x1D*2^26 + 4*2^0 + 512) d 21 b 11 h 5 from rfl]
  obtain ⟨hm, hf, t0, t1, e0, e1, e2⟩ := layout21 0x1D 4 (by decide) (by decide) d b h
  generalize enc3 (0x1D*2^26 + 4*2^0 + 512) d 21 b 11 h 5 = w at *
  have t2 : (fldN w 5 6 == 0) = false := by
    rw [beq_eq_false_iff_ne]; intro h; rw [fldN] at h t0; omega
  exact decode_of w _ ((decodeRaw_1D w hm).trans (by simp [decode1D, hf, t0, t1, e0, e1, e2, t2])) hw

theorem Encoded.lock (a : BitVec 5) : Encoded.Statement (.lock a) := by
  intro hw _
  rw [show encode (.lock a) = enc1 (0x1D*2^26 + 5*2^0) a 16 from rfl]
  obtain ⟨hm, hf, t0, t1, e0⟩ := layout10 0x1D 5 (by decide) (by decide) a
  generalize enc1 (0x1D*2^26 + 5*2^0) a 16 = w at *
  exact decode_of w _ ((decodeRaw_1D w hm).trans (by simp [decode1D, onlyIf, hf, t0, t1, e0])) hw

theorem Encoded.unlock (a : BitVec 5) : Encoded.Statement (.unlock a) := by
  intro hw _
  rw [show encode (.unlock a) = enc1 (0x1D*2^26 + 6*2^0) a 16 from rfl]
  obtain ⟨hm, hf, t0, t1, e0⟩ := layout10 0x1D 6 (by decide) (by decide) a
  generalize enc1 (0x1D*2^26 + 6*2^0) a 16 = w at *
  exact decode_of w _ ((decodeRaw_1D w hm).trans (by simp [decode1D, onlyIf, hf, t0, t1, e0])) hw

theorem Encoded.pause : Encoded.Statement (.pause) := by
  intro hw _
  rw [show encode (.pause) = enc0 (0x1D*2^26 + 7*2^0) from rfl]
  obtain ⟨hm, hf, t0⟩ := layout19 0x1D 7 (by decide) (by decide)
  generalize enc0 (0x1D*2^26 + 7*2^0) = w at *
  exact decode_of w _ ((decodeRaw_1D w hm).trans (by simp [decode1D, onlyIf, hf, t0])) hw

theorem Encoded.vcdef (a : BitVec 5) (b : BitVec 5) : Encoded.Statement (.vcdef a b) := by
  intro hw _
  rw [show encode (.vcdef a b) = enc2 (0x1E*2^26 + 0*2^0) a 16 b 11 from rfl]
  obtain ⟨hm, hf, t0, t1, e0, e1⟩ := layout20 0x1E 0 (by decide) (by decide) a b
  generalize enc2 (0x1E*2^26 + 0*2^0) a 16 b 11 = w at *
  exact decode_of w _ ((decodeRaw_1E w hm).trans (by simp [decode1E, onlyIf, hf, t0, t1, e0, e1])) hw

theorem Encoded.vcsize (a : BitVec 5) : Encoded.Statement (.vcsize a) := by
  intro hw _
  rw [show encode (.vcsize a) = enc1 (0x1E*2^26 + 1*2^0) a 16 from rfl]
  obtain ⟨hm, hf, t0, t1, e0⟩ := layout10 0x1E 1 (by decide) (by decide) a
  generalize enc1 (0x1E*2^26 + 1*2^0) a 16 = w at *
  exact decode_of w _ ((decodeRaw_1E w hm).trans (by simp [decode1E, onlyIf, hf, t0, t1, e0])) hw

theorem Encoded.vcpar (a : BitVec 5) : Encoded.Statement (.vcpar a) := by
  intro hw _
  rw [show encode (.vcpar a) = enc1 (0x1E*2^26 + 2*2^0) a 16 from rfl]
  obtain ⟨hm, hf, t0, t1, e0⟩ := layout10 0x1E 2 (by decide) (by decide) a
  generalize enc1 (0x1E*2^26 + 2*2^0) a 16 = w at *
  exact decode_of w _ ((decodeRaw_1E w hm).trans (by simp [decode1E, onlyIf, hf, t0, t1, e0])) hw

theorem Encoded.vcbind (a : BitVec 5) (h : BitVec 4) : Encoded.Statement (.vcbind a h) := by
  intro hw _
  rw [show encode (.vcbind a h) = enc2 (0x1E*2^26 + 3*2^0) a 16 h 5 from rfl]
  obtain ⟨hm, hf, t0, t1, e0, e1⟩ := layout22 0x1E 3 (by decide) (by decide) a h
  generalize enc2 (0x1E*2^26 + 3*2^0) a 16 h 5 = w at *
  exact decode_of w _ ((decodeRaw_1E w hm).trans (by simp [decode1E, onlyIf, hf, t0, t1, e0, e1])) hw

theorem Encoded.vcunb (a : BitVec 5) (h : BitVec 4) : Encoded.Statement (.vcunb a h) := by
  intro hw _
  rw [show encode (.vcunb a h) = enc2 (0x1E*2^26 + 4*2^0) a 16 h 5 from rfl]
  obtain ⟨hm, hf, t0, t1, e0, e1⟩ := layout22 0x1E 4 (by decide) (by decide) a h
  generalize enc2 (0x1E*2^26 + 4*2^0) a 16 h 5 = w at *
  exact decode_of w _ ((decodeRaw_1E w hm).trans (by simp [decode1E, onlyIf, hf, t0, t1, e0, e1])) hw

theorem Encoded.vcwb (a : BitVec 5) (o : BitVec 1) (h : BitVec 4) : Encoded.Statement (.vcwb a o h) := by
  intro hw _
  rw [show encode (.vcwb a o h) = enc3 (0x1E*2^26 + 5*2^0) a 16 o 9 h 5 from rfl]
  obtain ⟨hm, hf, t0, t1, e0, e1, e2⟩ := layout23 0x1E 5 (by decide) (by decide) a o h
  generalize enc3 (0x1E*2^26 + 5*2^0) a 16 o 9 h 5 = w at *
  exact decode_of w _ ((decodeRaw_1E w hm).trans (by simp [decode1E, onlyIf, hf, t0, t1, e0, e1, e2])) hw

theorem Encoded.vcinv (a : BitVec 5) (o : BitVec 1) (h : BitVec 4) : Encoded.Statement (.vcinv a o h) := by
  intro hw _
  rw [show encode (.vcinv a o h) = enc3 (0x1E*2^26 + 6*2^0) a 16 o 9 h 5 from rfl]
  obtain ⟨hm, hf, t0, t1, e0, e1, e2⟩ := layout23 0x1E 6 (by decide) (by decide) a o h
  generalize enc3 (0x1E*2^26 + 6*2^0) a 16 o 9 h 5 = w at *
  exact decode_of w _ ((decodeRaw_1E w hm).trans (by simp [decode1E, onlyIf, hf, t0, t1, e0, e1, e2])) hw

theorem Encoded.vcq (d : BitVec 5) (a : BitVec 5) : Encoded.Statement (.vcq d a) := by
  intro hw _
  rw [show encode (.vcq d a) = enc2 (0x1E*2^26 + 7*2^0) d 21 a 16 from rfl]
  obtain ⟨hm, hf, t0, e0, e1⟩ := layout7 0x1E 7 (by decide) (by decide) d a
  generalize enc2 (0x1E*2^26 + 7*2^0) d 21 a 16 = w at *
  exact decode_of w _ ((decodeRaw_1E w hm).trans (by simp [decode1E, onlyIf, hf, t0, e0, e1])) hw

theorem Encoded.rpt (a : BitVec 5) (b : BitVec 5) (n : BitVec 4) : Encoded.Statement (.rpt a b n) := by
  intro hw _
  rw [show encode (.rpt a b n) = enc3 (0x1F*2^26 + 0*2^0) a 16 b 11 n 5 from rfl]
  obtain ⟨hm, hf, t0, t1, e0, e1, e2⟩ := layout24 0x1F 0 (by decide) (by decide) a b n
  generalize enc3 (0x1F*2^26 + 0*2^0) a 16 b 11 n 5 = w at *
  exact decode_of w _ ((decodeRaw_1F w hm).trans (by simp [decode1F, onlyIf, hf, t0, t1, e0, e1, e2])) hw

theorem Encoded.start (d : BitVec 5) (a : BitVec 5) (b : BitVec 5) : Encoded.Statement (.start d a b) := by
  intro hw _
  rw [show encode (.start d a b) = enc3 (0x1F*2^26 + 1*2^0) d 21 a 16 b 11 from rfl]
  obtain ⟨hm, hf, t0, e0, e1, e2⟩ := layout9 0x1F 1 (by decide) (by decide) d a b
  generalize enc3 (0x1F*2^26 + 1*2^0) d 21 a 16 b 11 = w at *
  exact decode_of w _ ((decodeRaw_1F w hm).trans (by simp [decode1F, onlyIf, hf, t0, e0, e1, e2])) hw

theorem Encoded.hexit : Encoded.Statement (.hexit) := by
  intro hw _
  rw [show encode (.hexit) = enc0 (0x1F*2^26 + 2*2^0) from rfl]
  obtain ⟨hm, hf, t0⟩ := layout19 0x1F 2 (by decide) (by decide)
  generalize enc0 (0x1F*2^26 + 2*2^0) = w at *
  exact decode_of w _ ((decodeRaw_1F w hm).trans (by simp [decode1F, onlyIf, hf, t0])) hw

theorem Encoded.yield : Encoded.Statement (.yield) := by
  intro hw _
  rw [show encode (.yield) = enc0 (0x1F*2^26 + 3*2^0) from rfl]
  obtain ⟨hm, hf, t0⟩ := layout19 0x1F 3 (by decide) (by decide)
  generalize enc0 (0x1F*2^26 + 3*2^0) = w at *
  exact decode_of w _ ((decodeRaw_1F w hm).trans (by simp [decode1F, onlyIf, hf, t0])) hw

theorem Encoded.cp (d : BitVec 5) (a : BitVec 5) : Encoded.Statement (.cp d a) := by
  intro hw _
  rw [show encode (.cp d a) = enc2 (0x20*2^26 + 0*2^0) d 21 a 16 from rfl]
  obtain ⟨hm, hf, t0, e0, e1⟩ := layout7 0x20 0 (by decide) (by decide) d a
  generalize enc2 (0x20*2^26 + 0*2^0) d 21 a 16 = w at *
  exact decode_of w _ ((decodeRaw_20 w hm).trans (by simp [decode20, onlyIf, hf, t0, e0, e1])) hw

theorem Encoded.mcast (d : BitVec 5) (a : BitVec 5) : Encoded.Statement (.mcast d a) := by
  intro hw _
  rw [show encode (.mcast d a) = enc2 (0x20*2^26 + 1*2^0) d 21 a 16 from rfl]
  obtain ⟨hm, hf, t0, e0, e1⟩ := layout7 0x20 1 (by decide) (by decide) d a
  generalize enc2 (0x20*2^26 + 1*2^0) d 21 a 16 = w at *
  exact decode_of w _ ((decodeRaw_20 w hm).trans (by simp [decode20, onlyIf, hf, t0, e0, e1])) hw

theorem Encoded.jwait (d : BitVec 5) (a : BitVec 5) : Encoded.Statement (.jwait d a) := by
  intro hw _
  rw [show encode (.jwait d a) = enc2 (0x20*2^26 + 2*2^0) d 21 a 16 from rfl]
  obtain ⟨hm, hf, t0, e0, e1⟩ := layout7 0x20 2 (by decide) (by decide) d a
  generalize enc2 (0x20*2^26 + 2*2^0) d 21 a 16 = w at *
  exact decode_of w _ ((decodeRaw_20 w hm).trans (by simp [decode20, onlyIf, hf, t0, e0, e1])) hw

theorem Encoded.jpoll (d : BitVec 5) (a : BitVec 5) : Encoded.Statement (.jpoll d a) := by
  intro hw _
  rw [show encode (.jpoll d a) = enc2 (0x20*2^26 + 3*2^0) d 21 a 16 from rfl]
  obtain ⟨hm, hf, t0, e0, e1⟩ := layout7 0x20 3 (by decide) (by decide) d a
  generalize enc2 (0x20*2^26 + 3*2^0) d 21 a 16 = w at *
  exact decode_of w _ ((decodeRaw_20 w hm).trans (by simp [decode20, onlyIf, hf, t0, e0, e1])) hw

theorem Encoded.tmig (d : BitVec 5) (a : BitVec 5) (h : BitVec 4) : Encoded.Statement (.tmig d a h) := by
  intro hw _
  rw [show encode (.tmig d a h) = enc3 (0x20*2^26 + 4*2^0) d 21 a 16 h 5 from rfl]
  obtain ⟨hm, hf, t0, e0, e1, e2⟩ := layout25 0x20 4 (by decide) (by decide) d a h
  generalize enc3 (0x20*2^26 + 4*2^0) d 21 a 16 h 5 = w at *
  exact decode_of w _ ((decodeRaw_20 w hm).trans (by simp [decode20, onlyIf, hf, t0, e0, e1, e2])) hw

theorem Encoded.cpjoin (d : BitVec 5) (a : BitVec 5) : Encoded.Statement (.cpjoin d a) := by
  intro hw _
  rw [show encode (.cpjoin d a) = enc2 (0x20*2^26 + 5*2^0) d 21 a 16 from rfl]
  obtain ⟨hm, hf, t0, e0, e1⟩ := layout7 0x20 5 (by decide) (by decide) d a
  generalize enc2 (0x20*2^26 + 5*2^0) d 21 a 16 = w at *
  exact decode_of w _ ((decodeRaw_20 w hm).trans (by simp [decode20, onlyIf, hf, t0, e0, e1])) hw

theorem Encoded.qpost (d : BitVec 5) (a : BitVec 5) (h : BitVec 4) : Encoded.Statement (.qpost d a h) := by
  intro hw _
  rw [show encode (.qpost d a h) = enc3 (0x21*2^26 + 0*2^0) d 21 a 16 h 5 from rfl]
  obtain ⟨hm, hf, t0, e0, e1, e2⟩ := layout25 0x21 0 (by decide) (by decide) d a h
  generalize enc3 (0x21*2^26 + 0*2^0) d 21 a 16 h 5 = w at *
  exact decode_of w _ ((decodeRaw_21 w hm).trans (by simp [decode21, onlyIf, hf, t0, e0, e1, e2])) hw

theorem Encoded.send (a : BitVec 5) (h : BitVec 4) : Encoded.Statement (.send a h) := by
  intro hw _
  rw [show encode (.send a h) = enc2 (0x21*2^26 + 1*2^0) a 16 h 5 from rfl]
  obtain ⟨hm, hf, t0, t1, e0, e1⟩ := layout22 0x21 1 (by decide) (by decide) a h
  generalize enc2 (0x21*2^26 + 1*2^0) a 16 h 5 = w at *
  exact decode_of w _ ((decodeRaw_21 w hm).trans (by simp [decode21, onlyIf, hf, t0, t1, e0, e1])) hw

theorem Encoded.recv (d : BitVec 5) (a : BitVec 5) (h : BitVec 4) : Encoded.Statement (.recv d a h) := by
  intro hw _
  rw [show encode (.recv d a h) = enc3 (0x21*2^26 + 2*2^0) d 21 a 16 h 5 from rfl]
  obtain ⟨hm, hf, t0, e0, e1, e2⟩ := layout25 0x21 2 (by decide) (by decide) d a h
  generalize enc3 (0x21*2^26 + 2*2^0) d 21 a 16 h 5 = w at *
  exact decode_of w _ ((decodeRaw_21 w hm).trans (by simp [decode21, onlyIf, hf, t0, e0, e1, e2])) hw

theorem Encoded.qtry (d : BitVec 5) (a : BitVec 5) (h : BitVec 4) : Encoded.Statement (.qtry d a h) := by
  intro hw _
  rw [show encode (.qtry d a h) = enc3 (0x21*2^26 + 3*2^0) d 21 a 16 h 5 from rfl]
  obtain ⟨hm, hf, t0, e0, e1, e2⟩ := layout25 0x21 3 (by decide) (by decide) d a h
  generalize enc3 (0x21*2^26 + 3*2^0) d 21 a 16 h 5 = w at *
  exact decode_of w _ ((decodeRaw_21 w hm).trans (by simp [decode21, onlyIf, hf, t0, e0, e1, e2])) hw

theorem Encoded.rdqAdd (d : BitVec 5) (a : BitVec 5) (b : BitVec 5) (h : BitVec 4) : Encoded.Statement (.rdqAdd d a b h) := by
  intro hw _
  rw [show encode (.rdqAdd d a b h) = enc4 (0x21*2^26 + 4*2^0) d 21 a 16 b 11 h 5 from rfl]
  obtain ⟨hm, hf, t0, e0, e1, e2, e3⟩ := layout8 0x21 4 (by decide) (by decide) d a b h
  generalize enc4 (0x21*2^26 + 4*2^0) d 21 a 16 b 11 h 5 = w at *
  exact decode_of w _ ((decodeRaw_21 w hm).trans (by simp [decode21, onlyIf, hf, t0, e0, e1, e2, e3])) hw

theorem Encoded.rdqMax (d : BitVec 5) (a : BitVec 5) (b : BitVec 5) (h : BitVec 4) : Encoded.Statement (.rdqMax d a b h) := by
  intro hw _
  rw [show encode (.rdqMax d a b h) = enc4 (0x21*2^26 + 5*2^0) d 21 a 16 b 11 h 5 from rfl]
  obtain ⟨hm, hf, t0, e0, e1, e2, e3⟩ := layout8 0x21 5 (by decide) (by decide) d a b h
  generalize enc4 (0x21*2^26 + 5*2^0) d 21 a 16 b 11 h 5 = w at *
  exact decode_of w _ ((decodeRaw_21 w hm).trans (by simp [decode21, onlyIf, hf, t0, e0, e1, e2, e3])) hw

theorem Encoded.sstep : Encoded.Statement (.sstep) := by
  intro hw _
  rw [show encode (.sstep) = enc0 (0x22*2^26 + 0*2^0) from rfl]
  obtain ⟨hm, hf, t0⟩ := layout19 0x22 0 (by decide) (by decide)
  generalize enc0 (0x22*2^26 + 0*2^0) = w at *
  exact decode_of w _ ((decodeRaw_22 w hm).trans (by simp [decode22, onlyIf, hf, t0])) hw

theorem Encoded.snap (d : BitVec 5) (h : BitVec 4) : Encoded.Statement (.snap d h) := by
  intro hw _
  rw [show encode (.snap d h) = enc2 (0x22*2^26 + 1*2^0) d 21 h 5 from rfl]
  obtain ⟨hm, hf, t0, e0, e1⟩ := layout26 0x22 1 (by decide) (by decide) d h
  generalize enc2 (0x22*2^26 + 1*2^0) d 21 h 5 = w at *
  exact decode_of w _ ((decodeRaw_22 w hm).trans (by simp [decode22, onlyIf, hf, t0, e0, e1])) hw

theorem Encoded.snapst (d : BitVec 5) (s : BitVec 2) (h : BitVec 4) : Encoded.Statement (.snapst d s h) := by
  intro hw _
  rw [show encode (.snapst d s h) = enc3 (0x22*2^26 + 2*2^0) d 21 s 9 h 5 from rfl]
  obtain ⟨hm, hf, t0, e0, e1, e2⟩ := layout27 0x22 2 (by decide) (by decide) d s h
  generalize enc3 (0x22*2^26 + 2*2^0) d 21 s 9 h 5 = w at *
  exact decode_of w _ ((decodeRaw_22 w hm).trans (by simp [decode22, onlyIf, hf, t0, e0, e1, e2])) hw

theorem Encoded.rollbk (a : BitVec 5) (h : BitVec 4) : Encoded.Statement (.rollbk a h) := by
  intro hw _
  rw [show encode (.rollbk a h) = enc2 (0x22*2^26 + 3*2^0) a 16 h 5 from rfl]
  obtain ⟨hm, hf, t0, t1, e0, e1⟩ := layout22 0x22 3 (by decide) (by decide) a h
  generalize enc2 (0x22*2^26 + 3*2^0) a 16 h 5 = w at *
  exact decode_of w _ ((decodeRaw_22 w hm).trans (by simp [decode22, onlyIf, hf, t0, t1, e0, e1])) hw

theorem Encoded.trap (d : BitVec 5) (a : BitVec 5) : Encoded.Statement (.trap d a) := by
  intro hw _
  rw [show encode (.trap d a) = enc2 (0x23*2^26 + 0*2^0) d 21 a 16 from rfl]
  obtain ⟨hm, hf, t0, e0, e1⟩ := layout7 0x23 0 (by decide) (by decide) d a
  generalize enc2 (0x23*2^26 + 0*2^0) d 21 a 16 = w at *
  exact decode_of w _ ((decodeRaw_23 w hm).trans (by simp [decode23, onlyIf, hf, t0, e0, e1])) hw

theorem Encoded.eret : Encoded.Statement (.eret) := by
  intro hw _
  rw [show encode (.eret) = enc0 (0x23*2^26 + 1*2^0) from rfl]
  obtain ⟨hm, hf, t0⟩ := layout19 0x23 1 (by decide) (by decide)
  generalize enc0 (0x23*2^26 + 1*2^0) = w at *
  exact decode_of w _ ((decodeRaw_23 w hm).trans (by simp [decode23, onlyIf, hf, t0])) hw

theorem Encoded.csrr (d : BitVec 5) (c : BitVec 11) : Encoded.Statement (.csrr d c) := by
  intro hw _
  rw [show encode (.csrr d c) = enc2 (0x23*2^26 + 2*2^0) d 21 c 5 from rfl]
  obtain ⟨hm, hf, t0, e0, e1⟩ := layout28 0x23 2 (by decide) (by decide) d c
  generalize enc2 (0x23*2^26 + 2*2^0) d 21 c 5 = w at *
  exact decode_of w _ ((decodeRaw_23 w hm).trans (by simp [decode23, onlyIf, hf, t0, e0, e1])) hw

theorem Encoded.csrw (a : BitVec 5) (c : BitVec 11) : Encoded.Statement (.csrw a c) := by
  intro hw _
  rw [show encode (.csrw a c) = enc2 (0x23*2^26 + 3*2^0) a 16 c 5 from rfl]
  obtain ⟨hm, hf, t0, e0, e1⟩ := layout29 0x23 3 (by decide) (by decide) a c
  generalize enc2 (0x23*2^26 + 3*2^0) a 16 c 5 = w at *
  exact decode_of w _ ((decodeRaw_23 w hm).trans (by simp [decode23, onlyIf, hf, t0, e0, e1])) hw

theorem Encoded.csrs (a : BitVec 5) (c : BitVec 11) : Encoded.Statement (.csrs a c) := by
  intro hw _
  rw [show encode (.csrs a c) = enc2 (0x23*2^26 + 4*2^0) a 16 c 5 from rfl]
  obtain ⟨hm, hf, t0, e0, e1⟩ := layout29 0x23 4 (by decide) (by decide) a c
  generalize enc2 (0x23*2^26 + 4*2^0) a 16 c 5 = w at *
  exact decode_of w _ ((decodeRaw_23 w hm).trans (by simp [decode23, onlyIf, hf, t0, e0, e1])) hw

theorem Encoded.halt (a : BitVec 5) : Encoded.Statement (.halt a) := by
  intro hw _
  rw [show encode (.halt a) = enc1 (0x23*2^26 + 5*2^0) a 16 from rfl]
  obtain ⟨hm, hf, t0, t1, e0⟩ := layout10 0x23 5 (by decide) (by decide) a
  generalize enc1 (0x23*2^26 + 5*2^0) a 16 = w at *
  exact decode_of w _ ((decodeRaw_23 w hm).trans (by simp [decode23, onlyIf, hf, t0, t1, e0])) hw

theorem Encoded.brk (i : BitVec 6) : Encoded.Statement (.brk i) := by
  intro hw _
  rw [show encode (.brk i) = enc1 (0x23*2^26 + 6*2^0) i 5 from rfl]
  obtain ⟨hm, hf, t0, e0⟩ := layout30 0x23 6 (by decide) (by decide) i
  generalize enc1 (0x23*2^26 + 6*2^0) i 5 = w at *
  exact decode_of w _ ((decodeRaw_23 w hm).trans (by simp [decode23, onlyIf, hf, t0, e0])) hw

theorem Encoded.seal (d : BitVec 5) (a : BitVec 5) : Encoded.Statement (.seal d a) := by
  intro hw _
  rw [show encode (.seal d a) = enc2 (0x23*2^26 + 7*2^0) d 21 a 16 from rfl]
  obtain ⟨hm, hf, t0, e0, e1⟩ := layout7 0x23 7 (by decide) (by decide) d a
  generalize enc2 (0x23*2^26 + 7*2^0) d 21 a 16 = w at *
  exact decode_of w _ ((decodeRaw_23 w hm).trans (by simp [decode23, onlyIf, hf, t0, e0, e1])) hw

theorem Encoded.nop : Encoded.Statement (.nop) := by
  intro hw _
  rw [show encode (.nop) = enc0 (0x23*2^26 + 8*2^0) from rfl]
  obtain ⟨hm, hf, t0⟩ := layout19 0x23 8 (by decide) (by decide)
  generalize enc0 (0x23*2^26 + 8*2^0) = w at *
  exact decode_of w _ ((decodeRaw_23 w hm).trans (by simp [decode23, onlyIf, hf, t0])) hw

theorem Encoded.tld (d : BitVec 3) (h : BitVec 4) (s : BitVec 5) (x : BitVec 5) : Encoded.Statement (.tld d h s x) := by
  intro hw _
  rw [show encode (.tld d h s x) = enc4 (0x28*2^26 + 0*2^0) d 23 h 19 s 12 x 7 from rfl]
  obtain ⟨hm, hf, t0, e0, e1, e2, e3⟩ := layout31 0x28 0 (by decide) (by decide) d h s x
  generalize enc4 (0x28*2^26 + 0*2^0) d 23 h 19 s 12 x 7 = w at *
  exact decode_of w _ ((decodeRaw_28 w hm).trans (by simp [decode28, onlyIf, hf, t0, e0, e1, e2, e3])) hw

theorem Encoded.tst (d : BitVec 3) (h : BitVec 4) (s : BitVec 5) (x : BitVec 5) : Encoded.Statement (.tst d h s x) := by
  intro hw _
  rw [show encode (.tst d h s x) = enc4 (0x28*2^26 + 1*2^0) d 23 h 19 s 12 x 7 from rfl]
  obtain ⟨hm, hf, t0, e0, e1, e2, e3⟩ := layout31 0x28 1 (by decide) (by decide) d h s x
  generalize enc4 (0x28*2^26 + 1*2^0) d 23 h 19 s 12 x 7 = w at *
  exact decode_of w _ ((decodeRaw_28 w hm).trans (by simp [decode28, onlyIf, hf, t0, e0, e1, e2, e3])) hw

theorem Encoded.tzero (d : BitVec 3) (s : BitVec 5) : Encoded.Statement (.tzero d s) := by
  intro hw _
  rw [show encode (.tzero d s) = enc2 (0x28*2^26 + 2*2^0) d 23 s 12 from rfl]
  obtain ⟨hm, hf, t0, t1, e0, e1⟩ := layout32 0x28 2 (by decide) (by decide) d s
  generalize enc2 (0x28*2^26 + 2*2^0) d 23 s 12 = w at *
  exact decode_of w _ ((decodeRaw_28 w hm).trans (by simp [decode28, onlyIf, hf, t0, t1, e0, e1])) hw

theorem Encoded.tmov (d : BitVec 3) (s : BitVec 5) (x : BitVec 5) : Encoded.Statement (.tmov d s x) := by
  intro hw _
  rw [show encode (.tmov d s x) = enc3 (0x28*2^26 + 3*2^0) d 23 s 12 x 7 from rfl]
  obtain ⟨hm, hf, t0, e0, e1, e2⟩ := layout33 0x28 3 (by decide) (by decide) d s x
  generalize enc3 (0x28*2^26 + 3*2^0) d 23 s 12 x 7 = w at *
  exact decode_of w _ ((decodeRaw_28 w hm).trans (by simp [decode28, onlyIf, hf, t0, e0, e1, e2])) hw

theorem Encoded.ttr (d : BitVec 3) (s : BitVec 5) (x : BitVec 5) : Encoded.Statement (.ttr d s x) := by
  intro hw _
  rw [show encode (.ttr d s x) = enc3 (0x28*2^26 + 4*2^0) d 23 s 12 x 7 from rfl]
  obtain ⟨hm, hf, t0, e0, e1, e2⟩ := layout33 0x28 4 (by decide) (by decide) d s x
  generalize enc3 (0x28*2^26 + 4*2^0) d 23 s 12 x 7 = w at *
  exact decode_of w _ ((decodeRaw_28 w hm).trans (by simp [decode28, onlyIf, hf, t0, e0, e1, e2])) hw

theorem Encoded.tbc (d : BitVec 3) (s : BitVec 5) : Encoded.Statement (.tbc d s) := by
  intro hw _
  rw [show encode (.tbc d s) = enc2 (0x28*2^26 + 5*2^0) d 23 s 12 from rfl]
  obtain ⟨hm, hf, t0, t1, e0, e1⟩ := layout32 0x28 5 (by decide) (by decide) d s
  generalize enc2 (0x28*2^26 + 5*2^0) d 23 s 12 = w at *
  exact decode_of w _ ((decodeRaw_28 w hm).trans (by simp [decode28, onlyIf, hf, t0, t1, e0, e1])) hw

theorem Encoded.tgat (d : BitVec 3) (s : BitVec 5) (x : BitVec 5) : Encoded.Statement (.tgat d s x) := by
  intro hw _
  rw [show encode (.tgat d s x) = enc3 (0x28*2^26 + 6*2^0) d 23 s 12 x 7 from rfl]
  obtain ⟨hm, hf, t0, e0, e1, e2⟩ := layout33 0x28 6 (by decide) (by decide) d s x
  generalize enc3 (0x28*2^26 + 6*2^0) d 23 s 12 x 7 = w at *
  exact decode_of w _ ((decodeRaw_28 w hm).trans (by simp [decode28, onlyIf, hf, t0, e0, e1, e2])) hw

theorem Encoded.vadd (d : BitVec 3) (a : BitVec 3) (b : BitVec 3) (s : BitVec 5) (x : BitVec 5) (y : BitVec 3) : Encoded.Statement (.vadd d a b s x y) := by
  intro hw _
  rw [show encode (.vadd d a b s x y) = enc6 (0x29*2^26 + 0*2^0) d 23 a 20 b 17 s 12 x 7 y 0 from rfl]
  obtain ⟨hm, hf, e0, e1, e2, e3, e4, e5⟩ := layout34 0x29 0 (by decide) (by decide) d a b s x y
  generalize enc6 (0x29*2^26 + 0*2^0) d 23 a 20 b 17 s 12 x 7 y 0 = w at *
  have hb := y.isLt
  have hc : y.toNat = 0 ∨ y.toNat = 1 ∨ y.toNat = 2 ∨ y.toNat = 3 ∨ y.toNat = 4 ∨ y.toNat = 5 ∨ y.toNat = 6 ∨ y.toNat = 7 := by omega
  apply decode_of w _ _ hw
  rw [decodeRaw_29 w hm]
  rcases hc with hc | hc | hc | hc | hc | hc | hc | hc <;> rw [hc] at hf <;> simp [decode29, hf, e0, e1, e2, e3, e4, e5]

theorem Encoded.vsub (d : BitVec 3) (a : BitVec 3) (b : BitVec 3) (s : BitVec 5) (x : BitVec 5) (y : BitVec 3) : Encoded.Statement (.vsub d a b s x y) := by
  intro hw _
  rw [show encode (.vsub d a b s x y) = enc6 (0x29*2^26 + 8*2^0) d 23 a 20 b 17 s 12 x 7 y 0 from rfl]
  obtain ⟨hm, hf, e0, e1, e2, e3, e4, e5⟩ := layout34 0x29 8 (by decide) (by decide) d a b s x y
  generalize enc6 (0x29*2^26 + 8*2^0) d 23 a 20 b 17 s 12 x 7 y 0 = w at *
  have hb := y.isLt
  have hc : y.toNat = 0 ∨ y.toNat = 1 ∨ y.toNat = 2 ∨ y.toNat = 3 ∨ y.toNat = 4 ∨ y.toNat = 5 ∨ y.toNat = 6 ∨ y.toNat = 7 := by omega
  apply decode_of w _ _ hw
  rw [decodeRaw_29 w hm]
  rcases hc with hc | hc | hc | hc | hc | hc | hc | hc <;> rw [hc] at hf <;> simp [decode29, hf, e0, e1, e2, e3, e4, e5]

theorem Encoded.vmul (d : BitVec 3) (a : BitVec 3) (b : BitVec 3) (s : BitVec 5) (x : BitVec 5) (y : BitVec 3) : Encoded.Statement (.vmul d a b s x y) := by
  intro hw _
  rw [show encode (.vmul d a b s x y) = enc6 (0x29*2^26 + 16*2^0) d 23 a 20 b 17 s 12 x 7 y 0 from rfl]
  obtain ⟨hm, hf, e0, e1, e2, e3, e4, e5⟩ := layout34 0x29 16 (by decide) (by decide) d a b s x y
  generalize enc6 (0x29*2^26 + 16*2^0) d 23 a 20 b 17 s 12 x 7 y 0 = w at *
  have hb := y.isLt
  have hc : y.toNat = 0 ∨ y.toNat = 1 ∨ y.toNat = 2 ∨ y.toNat = 3 ∨ y.toNat = 4 ∨ y.toNat = 5 ∨ y.toNat = 6 ∨ y.toNat = 7 := by omega
  apply decode_of w _ _ hw
  rw [decodeRaw_29 w hm]
  rcases hc with hc | hc | hc | hc | hc | hc | hc | hc <;> rw [hc] at hf <;> simp [decode29, hf, e0, e1, e2, e3, e4, e5]

theorem Encoded.vfma (d : BitVec 3) (a : BitVec 3) (b : BitVec 3) (s : BitVec 5) (x : BitVec 5) (y : BitVec 3) : Encoded.Statement (.vfma d a b s x y) := by
  intro hw _
  rw [show encode (.vfma d a b s x y) = enc6 (0x29*2^26 + 24*2^0) d 23 a 20 b 17 s 12 x 7 y 0 from rfl]
  obtain ⟨hm, hf, e0, e1, e2, e3, e4, e5⟩ := layout34 0x29 24 (by decide) (by decide) d a b s x y
  generalize enc6 (0x29*2^26 + 24*2^0) d 23 a 20 b 17 s 12 x 7 y 0 = w at *
  have hb := y.isLt
  have hc : y.toNat = 0 ∨ y.toNat = 1 ∨ y.toNat = 2 ∨ y.toNat = 3 ∨ y.toNat = 4 ∨ y.toNat = 5 ∨ y.toNat = 6 ∨ y.toNat = 7 := by omega
  apply decode_of w _ _ hw
  rw [decodeRaw_29 w hm]
  rcases hc with hc | hc | hc | hc | hc | hc | hc | hc <;> rw [hc] at hf <;> simp [decode29, hf, e0, e1, e2, e3, e4, e5]

theorem Encoded.vmin (d : BitVec 3) (a : BitVec 3) (b : BitVec 3) (s : BitVec 5) (x : BitVec 5) (y : BitVec 3) : Encoded.Statement (.vmin d a b s x y) := by
  intro hw _
  rw [show encode (.vmin d a b s x y) = enc6 (0x29*2^26 + 32*2^0) d 23 a 20 b 17 s 12 x 7 y 0 from rfl]
  obtain ⟨hm, hf, e0, e1, e2, e3, e4, e5⟩ := layout34 0x29 32 (by decide) (by decide) d a b s x y
  generalize enc6 (0x29*2^26 + 32*2^0) d 23 a 20 b 17 s 12 x 7 y 0 = w at *
  have hb := y.isLt
  have hc : y.toNat = 0 ∨ y.toNat = 1 ∨ y.toNat = 2 ∨ y.toNat = 3 ∨ y.toNat = 4 ∨ y.toNat = 5 ∨ y.toNat = 6 ∨ y.toNat = 7 := by omega
  apply decode_of w _ _ hw
  rw [decodeRaw_29 w hm]
  rcases hc with hc | hc | hc | hc | hc | hc | hc | hc <;> rw [hc] at hf <;> simp [decode29, hf, e0, e1, e2, e3, e4, e5]

theorem Encoded.vmax (d : BitVec 3) (a : BitVec 3) (b : BitVec 3) (s : BitVec 5) (x : BitVec 5) (y : BitVec 3) : Encoded.Statement (.vmax d a b s x y) := by
  intro hw _
  rw [show encode (.vmax d a b s x y) = enc6 (0x29*2^26 + 40*2^0) d 23 a 20 b 17 s 12 x 7 y 0 from rfl]
  obtain ⟨hm, hf, e0, e1, e2, e3, e4, e5⟩ := layout34 0x29 40 (by decide) (by decide) d a b s x y
  generalize enc6 (0x29*2^26 + 40*2^0) d 23 a 20 b 17 s 12 x 7 y 0 = w at *
  have hb := y.isLt
  have hc : y.toNat = 0 ∨ y.toNat = 1 ∨ y.toNat = 2 ∨ y.toNat = 3 ∨ y.toNat = 4 ∨ y.toNat = 5 ∨ y.toNat = 6 ∨ y.toNat = 7 := by omega
  apply decode_of w _ _ hw
  rw [decodeRaw_29 w hm]
  rcases hc with hc | hc | hc | hc | hc | hc | hc | hc <;> rw [hc] at hf <;> simp [decode29, hf, e0, e1, e2, e3, e4, e5]

theorem Encoded.vand (d : BitVec 3) (a : BitVec 3) (b : BitVec 3) (s : BitVec 5) (x : BitVec 5) : Encoded.Statement (.vand d a b s x) := by
  intro hw _
  rw [show encode (.vand d a b s x) = enc5 (0x29*2^26 + 48*2^0) d 23 a 20 b 17 s 12 x 7 from rfl]
  obtain ⟨hm, hf, e0, e1, e2, e3, e4⟩ := layout35 0x29 48 (by decide) (by decide) d a b s x
  generalize enc5 (0x29*2^26 + 48*2^0) d 23 a 20 b 17 s 12 x 7 = w at *
  exact decode_of w _ ((decodeRaw_29 w hm).trans (by simp [decode29, hf, e0, e1, e2, e3, e4])) hw

theorem Encoded.vor (d : BitVec 3) (a : BitVec 3) (b : BitVec 3) (s : BitVec 5) (x : BitVec 5) : Encoded.Statement (.vor d a b s x) := by
  intro hw _
  rw [show encode (.vor d a b s x) = enc5 (0x29*2^26 + 49*2^0) d 23 a 20 b 17 s 12 x 7 from rfl]
  obtain ⟨hm, hf, e0, e1, e2, e3, e4⟩ := layout35 0x29 49 (by decide) (by decide) d a b s x
  generalize enc5 (0x29*2^26 + 49*2^0) d 23 a 20 b 17 s 12 x 7 = w at *
  exact decode_of w _ ((decodeRaw_29 w hm).trans (by simp [decode29, hf, e0, e1, e2, e3, e4])) hw

theorem Encoded.vxor (d : BitVec 3) (a : BitVec 3) (b : BitVec 3) (s : BitVec 5) (x : BitVec 5) : Encoded.Statement (.vxor d a b s x) := by
  intro hw _
  rw [show encode (.vxor d a b s x) = enc5 (0x29*2^26 + 50*2^0) d 23 a 20 b 17 s 12 x 7 from rfl]
  obtain ⟨hm, hf, e0, e1, e2, e3, e4⟩ := layout35 0x29 50 (by decide) (by decide) d a b s x
  generalize enc5 (0x29*2^26 + 50*2^0) d 23 a 20 b 17 s 12 x 7 = w at *
  exact decode_of w _ ((decodeRaw_29 w hm).trans (by simp [decode29, hf, e0, e1, e2, e3, e4])) hw

theorem Encoded.vshl (d : BitVec 3) (a : BitVec 3) (b : BitVec 3) (s : BitVec 5) (x : BitVec 5) : Encoded.Statement (.vshl d a b s x) := by
  intro hw _
  rw [show encode (.vshl d a b s x) = enc5 (0x29*2^26 + 51*2^0) d 23 a 20 b 17 s 12 x 7 from rfl]
  obtain ⟨hm, hf, e0, e1, e2, e3, e4⟩ := layout35 0x29 51 (by decide) (by decide) d a b s x
  generalize enc5 (0x29*2^26 + 51*2^0) d 23 a 20 b 17 s 12 x 7 = w at *
  exact decode_of w _ ((decodeRaw_29 w hm).trans (by simp [decode29, hf, e0, e1, e2, e3, e4])) hw

theorem Encoded.vshr (d : BitVec 3) (a : BitVec 3) (b : BitVec 3) (s : BitVec 5) (x : BitVec 5) : Encoded.Statement (.vshr d a b s x) := by
  intro hw _
  rw [show encode (.vshr d a b s x) = enc5 (0x29*2^26 + 52*2^0) d 23 a 20 b 17 s 12 x 7 from rfl]
  obtain ⟨hm, hf, e0, e1, e2, e3, e4⟩ := layout35 0x29 52 (by decide) (by decide) d a b s x
  generalize enc5 (0x29*2^26 + 52*2^0) d 23 a 20 b 17 s 12 x 7 = w at *
  exact decode_of w _ ((decodeRaw_29 w hm).trans (by simp [decode29, hf, e0, e1, e2, e3, e4])) hw

theorem Encoded.vexp2 (d : BitVec 3) (a : BitVec 3) (s : BitVec 5) : Encoded.Statement (.vexp2 d a s) := by
  intro hw _
  rw [show encode (.vexp2 d a s) = enc3 (0x2A*2^26 + 0*2^0) d 23 a 20 s 12 from rfl]
  obtain ⟨hm, hf, t0, t1, e0, e1, e2⟩ := layout36 0x2A 0 (by decide) (by decide) d a s
  generalize enc3 (0x2A*2^26 + 0*2^0) d 23 a 20 s 12 = w at *
  exact decode_of w _ ((decodeRaw_2A w hm).trans (by simp [decode2A, onlyIf, hf, t0, t1, e0, e1, e2])) hw

theorem Encoded.vrcp (d : BitVec 3) (a : BitVec 3) (s : BitVec 5) : Encoded.Statement (.vrcp d a s) := by
  intro hw _
  rw [show encode (.vrcp d a s) = enc3 (0x2A*2^26 + 1*2^0) d 23 a 20 s 12 from rfl]
  obtain ⟨hm, hf, t0, t1, e0, e1, e2⟩ := layout36 0x2A 1 (by decide) (by decide) d a s
  generalize enc3 (0x2A*2^26 + 1*2^0) d 23 a 20 s 12 = w at *
  exact decode_of w _ ((decodeRaw_2A w hm).trans (by simp [decode2A, onlyIf, hf, t0, t1, e0, e1, e2])) hw

theorem Encoded.vrsqrt (d : BitVec 3) (a : BitVec 3) (s : BitVec 5) : Encoded.Statement (.vrsqrt d a s) := by
  intro hw _
  rw [show encode (.vrsqrt d a s) = enc3 (0x2A*2^26 + 2*2^0) d 23 a 20 s 12 from rfl]
  obtain ⟨hm, hf, t0, t1, e0, e1, e2⟩ := layout36 0x2A 2 (by decide) (by decide) d a s
  generalize enc3 (0x2A*2^26 + 2*2^0) d 23 a 20 s 12 = w at *
  exact decode_of w _ ((decodeRaw_2A w hm).trans (by simp [decode2A, onlyIf, hf, t0, t1, e0, e1, e2])) hw

theorem Encoded.vlog2 (d : BitVec 3) (a : BitVec 3) (s : BitVec 5) : Encoded.Statement (.vlog2 d a s) := by
  intro hw _
  rw [show encode (.vlog2 d a s) = enc3 (0x2A*2^26 + 3*2^0) d 23 a 20 s 12 from rfl]
  obtain ⟨hm, hf, t0, t1, e0, e1, e2⟩ := layout36 0x2A 3 (by decide) (by decide) d a s
  generalize enc3 (0x2A*2^26 + 3*2^0) d 23 a 20 s 12 = w at *
  exact decode_of w _ ((decodeRaw_2A w hm).trans (by simp [decode2A, onlyIf, hf, t0, t1, e0, e1, e2])) hw

theorem Encoded.vtanh (d : BitVec 3) (a : BitVec 3) (s : BitVec 5) : Encoded.Statement (.vtanh d a s) := by
  intro hw _
  rw [show encode (.vtanh d a s) = enc3 (0x2A*2^26 + 4*2^0) d 23 a 20 s 12 from rfl]
  obtain ⟨hm, hf, t0, t1, e0, e1, e2⟩ := layout36 0x2A 4 (by decide) (by decide) d a s
  generalize enc3 (0x2A*2^26 + 4*2^0) d 23 a 20 s 12 = w at *
  exact decode_of w _ ((decodeRaw_2A w hm).trans (by simp [decode2A, onlyIf, hf, t0, t1, e0, e1, e2])) hw

theorem Encoded.vabsF32 (d : BitVec 3) (a : BitVec 3) (s : BitVec 5) : Encoded.Statement (.vabsF32 d a s) := by
  intro hw _
  rw [show encode (.vabsF32 d a s) = enc3 (0x2A*2^26 + 5*2^0) d 23 a 20 s 12 from rfl]
  obtain ⟨hm, hf, t0, t1, e0, e1, e2⟩ := layout36 0x2A 5 (by decide) (by decide) d a s
  generalize enc3 (0x2A*2^26 + 5*2^0) d 23 a 20 s 12 = w at *
  exact decode_of w _ ((decodeRaw_2A w hm).trans (by simp [decode2A, onlyIf, hf, t0, t1, e0, e1, e2])) hw

theorem Encoded.vabsBf16 (d : BitVec 3) (a : BitVec 3) (s : BitVec 5) : Encoded.Statement (.vabsBf16 d a s) := by
  intro hw _
  rw [show encode (.vabsBf16 d a s) = enc3 (0x2A*2^26 + 6*2^0) d 23 a 20 s 12 from rfl]
  obtain ⟨hm, hf, t0, t1, e0, e1, e2⟩ := layout36 0x2A 6 (by decide) (by decide) d a s
  generalize enc3 (0x2A*2^26 + 6*2^0) d 23 a 20 s 12 = w at *
  exact decode_of w _ ((decodeRaw_2A w hm).trans (by simp [decode2A, onlyIf, hf, t0, t1, e0, e1, e2])) hw

theorem Encoded.vnegF32 (d : BitVec 3) (a : BitVec 3) (s : BitVec 5) : Encoded.Statement (.vnegF32 d a s) := by
  intro hw _
  rw [show encode (.vnegF32 d a s) = enc3 (0x2A*2^26 + 7*2^0) d 23 a 20 s 12 from rfl]
  obtain ⟨hm, hf, t0, t1, e0, e1, e2⟩ := layout36 0x2A 7 (by decide) (by decide) d a s
  generalize enc3 (0x2A*2^26 + 7*2^0) d 23 a 20 s 12 = w at *
  exact decode_of w _ ((decodeRaw_2A w hm).trans (by simp [decode2A, onlyIf, hf, t0, t1, e0, e1, e2])) hw

theorem Encoded.vnegBf16 (d : BitVec 3) (a : BitVec 3) (s : BitVec 5) : Encoded.Statement (.vnegBf16 d a s) := by
  intro hw _
  rw [show encode (.vnegBf16 d a s) = enc3 (0x2A*2^26 + 8*2^0) d 23 a 20 s 12 from rfl]
  obtain ⟨hm, hf, t0, t1, e0, e1, e2⟩ := layout36 0x2A 8 (by decide) (by decide) d a s
  generalize enc3 (0x2A*2^26 + 8*2^0) d 23 a 20 s 12 = w at *
  exact decode_of w _ ((decodeRaw_2A w hm).trans (by simp [decode2A, onlyIf, hf, t0, t1, e0, e1, e2])) hw

theorem Encoded.vcvtBf16F32 (d : BitVec 3) (a : BitVec 3) (p : BitVec 3) (s : BitVec 5) : Encoded.Statement (.vcvtBf16F32 d a p s) := by
  intro hw _
  rw [show encode (.vcvtBf16F32 d a p s) = enc4 (0x2A*2^26 + 9*2^0) d 23 a 20 p 17 s 12 from rfl]
  obtain ⟨hm, hf, t0, e0, e1, e2, e3⟩ := layout37 0x2A 9 (by decide) (by decide) d a p s
  generalize enc4 (0x2A*2^26 + 9*2^0) d 23 a 20 p 17 s 12 = w at *
  exact decode_of w _ ((decodeRaw_2A w hm).trans (by simp [decode2A, onlyIf, hf, t0, e0, e1, e2, e3])) hw

theorem Encoded.vcvtF32Bf16 (d : BitVec 3) (a : BitVec 3) (p : BitVec 3) (s : BitVec 5) : Encoded.Statement (.vcvtF32Bf16 d a p s) := by
  intro hw _
  rw [show encode (.vcvtF32Bf16 d a p s) = enc4 (0x2A*2^26 + 10*2^0) d 23 a 20 p 17 s 12 from rfl]
  obtain ⟨hm, hf, t0, e0, e1, e2, e3⟩ := layout37 0x2A 10 (by decide) (by decide) d a p s
  generalize enc4 (0x2A*2^26 + 10*2^0) d 23 a 20 p 17 s 12 = w at *
  exact decode_of w _ ((decodeRaw_2A w hm).trans (by simp [decode2A, onlyIf, hf, t0, e0, e1, e2, e3])) hw

theorem Encoded.vcvtF16F32 (d : BitVec 3) (a : BitVec 3) (p : BitVec 3) (s : BitVec 5) : Encoded.Statement (.vcvtF16F32 d a p s) := by
  intro hw _
  rw [show encode (.vcvtF16F32 d a p s) = enc4 (0x2A*2^26 + 11*2^0) d 23 a 20 p 17 s 12 from rfl]
  obtain ⟨hm, hf, t0, e0, e1, e2, e3⟩ := layout37 0x2A 11 (by decide) (by decide) d a p s
  generalize enc4 (0x2A*2^26 + 11*2^0) d 23 a 20 p 17 s 12 = w at *
  exact decode_of w _ ((decodeRaw_2A w hm).trans (by simp [decode2A, onlyIf, hf, t0, e0, e1, e2, e3])) hw

theorem Encoded.vcvtF32F16 (d : BitVec 3) (a : BitVec 3) (p : BitVec 3) (s : BitVec 5) : Encoded.Statement (.vcvtF32F16 d a p s) := by
  intro hw _
  rw [show encode (.vcvtF32F16 d a p s) = enc4 (0x2A*2^26 + 12*2^0) d 23 a 20 p 17 s 12 from rfl]
  obtain ⟨hm, hf, t0, e0, e1, e2, e3⟩ := layout37 0x2A 12 (by decide) (by decide) d a p s
  generalize enc4 (0x2A*2^26 + 12*2^0) d 23 a 20 p 17 s 12 = w at *
  exact decode_of w _ ((decodeRaw_2A w hm).trans (by simp [decode2A, onlyIf, hf, t0, e0, e1, e2, e3])) hw

theorem Encoded.vcvtE4m3F32 (d : BitVec 3) (a : BitVec 3) (p : BitVec 3) (s : BitVec 5) : Encoded.Statement (.vcvtE4m3F32 d a p s) := by
  intro hw _
  rw [show encode (.vcvtE4m3F32 d a p s) = enc4 (0x2A*2^26 + 13*2^0) d 23 a 20 p 17 s 12 from rfl]
  obtain ⟨hm, hf, t0, e0, e1, e2, e3⟩ := layout37 0x2A 13 (by decide) (by decide) d a p s
  generalize enc4 (0x2A*2^26 + 13*2^0) d 23 a 20 p 17 s 12 = w at *
  exact decode_of w _ ((decodeRaw_2A w hm).trans (by simp [decode2A, onlyIf, hf, t0, e0, e1, e2, e3])) hw

theorem Encoded.vcvtF32E4m3 (d : BitVec 3) (a : BitVec 3) (p : BitVec 3) (s : BitVec 5) : Encoded.Statement (.vcvtF32E4m3 d a p s) := by
  intro hw _
  rw [show encode (.vcvtF32E4m3 d a p s) = enc4 (0x2A*2^26 + 14*2^0) d 23 a 20 p 17 s 12 from rfl]
  obtain ⟨hm, hf, t0, e0, e1, e2, e3⟩ := layout37 0x2A 14 (by decide) (by decide) d a p s
  generalize enc4 (0x2A*2^26 + 14*2^0) d 23 a 20 p 17 s 12 = w at *
  exact decode_of w _ ((decodeRaw_2A w hm).trans (by simp [decode2A, onlyIf, hf, t0, e0, e1, e2, e3])) hw

theorem Encoded.vcvtE5m2F32 (d : BitVec 3) (a : BitVec 3) (p : BitVec 3) (s : BitVec 5) : Encoded.Statement (.vcvtE5m2F32 d a p s) := by
  intro hw _
  rw [show encode (.vcvtE5m2F32 d a p s) = enc4 (0x2A*2^26 + 15*2^0) d 23 a 20 p 17 s 12 from rfl]
  obtain ⟨hm, hf, t0, e0, e1, e2, e3⟩ := layout37 0x2A 15 (by decide) (by decide) d a p s
  generalize enc4 (0x2A*2^26 + 15*2^0) d 23 a 20 p 17 s 12 = w at *
  exact decode_of w _ ((decodeRaw_2A w hm).trans (by simp [decode2A, onlyIf, hf, t0, e0, e1, e2, e3])) hw

theorem Encoded.vcvtF32E5m2 (d : BitVec 3) (a : BitVec 3) (p : BitVec 3) (s : BitVec 5) : Encoded.Statement (.vcvtF32E5m2 d a p s) := by
  intro hw _
  rw [show encode (.vcvtF32E5m2 d a p s) = enc4 (0x2A*2^26 + 16*2^0) d 23 a 20 p 17 s 12 from rfl]
  obtain ⟨hm, hf, t0, e0, e1, e2, e3⟩ := layout37 0x2A 16 (by decide) (by decide) d a p s
  generalize enc4 (0x2A*2^26 + 16*2^0) d 23 a 20 p 17 s 12 = w at *
  exact decode_of w _ ((decodeRaw_2A w hm).trans (by simp [decode2A, onlyIf, hf, t0, e0, e1, e2, e3])) hw

theorem Encoded.vcvtI32F32 (d : BitVec 3) (a : BitVec 3) (s : BitVec 5) : Encoded.Statement (.vcvtI32F32 d a s) := by
  intro hw _
  rw [show encode (.vcvtI32F32 d a s) = enc3 (0x2A*2^26 + 17*2^0) d 23 a 20 s 12 from rfl]
  obtain ⟨hm, hf, t0, t1, e0, e1, e2⟩ := layout36 0x2A 17 (by decide) (by decide) d a s
  generalize enc3 (0x2A*2^26 + 17*2^0) d 23 a 20 s 12 = w at *
  exact decode_of w _ ((decodeRaw_2A w hm).trans (by simp [decode2A, onlyIf, hf, t0, t1, e0, e1, e2])) hw

theorem Encoded.vcvtF32I32 (d : BitVec 3) (a : BitVec 3) (s : BitVec 5) : Encoded.Statement (.vcvtF32I32 d a s) := by
  intro hw _
  rw [show encode (.vcvtF32I32 d a s) = enc3 (0x2A*2^26 + 18*2^0) d 23 a 20 s 12 from rfl]
  obtain ⟨hm, hf, t0, t1, e0, e1, e2⟩ := layout36 0x2A 18 (by decide) (by decide) d a s
  generalize enc3 (0x2A*2^26 + 18*2^0) d 23 a 20 s 12 = w at *
  exact decode_of w _ ((decodeRaw_2A w hm).trans (by simp [decode2A, onlyIf, hf, t0, t1, e0, e1, e2])) hw

theorem Encoded.vcvtBf16Cb4 (d : BitVec 3) (a : BitVec 3) (p : BitVec 3) (s : BitVec 5) : Encoded.Statement (.vcvtBf16Cb4 d a p s) := by
  intro hw _
  rw [show encode (.vcvtBf16Cb4 d a p s) = enc4 (0x2A*2^26 + 19*2^0) d 23 a 20 p 17 s 12 from rfl]
  obtain ⟨hm, hf, t0, e0, e1, e2, e3⟩ := layout37 0x2A 19 (by decide) (by decide) d a p s
  generalize enc4 (0x2A*2^26 + 19*2^0) d 23 a 20 p 17 s 12 = w at *
  exact decode_of w _ ((decodeRaw_2A w hm).trans (by simp [decode2A, onlyIf, hf, t0, e0, e1, e2, e3])) hw

theorem Encoded.vcmpEqF32 (d : BitVec 3) (a : BitVec 3) (b : BitVec 3) (s : BitVec 5) (x : BitVec 5) : Encoded.Statement (.vcmpEqF32 d a b s x) := by
  intro hw _
  rw [show encode (.vcmpEqF32 d a b s x) = enc5 (0x2B*2^26 + 0*2^0) d 23 a 20 b 17 s 12 x 7 from rfl]
  obtain ⟨hm, hf, e0, e1, e2, e3, e4⟩ := layout35 0x2B 0 (by decide) (by decide) d a b s x
  generalize enc5 (0x2B*2^26 + 0*2^0) d 23 a 20 b 17 s 12 x 7 = w at *
  exact decode_of w _ ((decodeRaw_2B w hm).trans (by simp [decode2B, hf, e0, e1, e2, e3, e4])) hw

theorem Encoded.vcmpEqBf16 (d : BitVec 3) (a : BitVec 3) (b : BitVec 3) (s : BitVec 5) (x : BitVec 5) : Encoded.Statement (.vcmpEqBf16 d a b s x) := by
  intro hw _
  rw [show encode (.vcmpEqBf16 d a b s x) = enc5 (0x2B*2^26 + 1*2^0) d 23 a 20 b 17 s 12 x 7 from rfl]
  obtain ⟨hm, hf, e0, e1, e2, e3, e4⟩ := layout35 0x2B 1 (by decide) (by decide) d a b s x
  generalize enc5 (0x2B*2^26 + 1*2^0) d 23 a 20 b 17 s 12 x 7 = w at *
  exact decode_of w _ ((decodeRaw_2B w hm).trans (by simp [decode2B, hf, e0, e1, e2, e3, e4])) hw

theorem Encoded.vcmpEqI32 (d : BitVec 3) (a : BitVec 3) (b : BitVec 3) (s : BitVec 5) (x : BitVec 5) : Encoded.Statement (.vcmpEqI32 d a b s x) := by
  intro hw _
  rw [show encode (.vcmpEqI32 d a b s x) = enc5 (0x2B*2^26 + 2*2^0) d 23 a 20 b 17 s 12 x 7 from rfl]
  obtain ⟨hm, hf, e0, e1, e2, e3, e4⟩ := layout35 0x2B 2 (by decide) (by decide) d a b s x
  generalize enc5 (0x2B*2^26 + 2*2^0) d 23 a 20 b 17 s 12 x 7 = w at *
  exact decode_of w _ ((decodeRaw_2B w hm).trans (by simp [decode2B, hf, e0, e1, e2, e3, e4])) hw

theorem Encoded.vcmpNeF32 (d : BitVec 3) (a : BitVec 3) (b : BitVec 3) (s : BitVec 5) (x : BitVec 5) : Encoded.Statement (.vcmpNeF32 d a b s x) := by
  intro hw _
  rw [show encode (.vcmpNeF32 d a b s x) = enc5 (0x2B*2^26 + 3*2^0) d 23 a 20 b 17 s 12 x 7 from rfl]
  obtain ⟨hm, hf, e0, e1, e2, e3, e4⟩ := layout35 0x2B 3 (by decide) (by decide) d a b s x
  generalize enc5 (0x2B*2^26 + 3*2^0) d 23 a 20 b 17 s 12 x 7 = w at *
  exact decode_of w _ ((decodeRaw_2B w hm).trans (by simp [decode2B, hf, e0, e1, e2, e3, e4])) hw

theorem Encoded.vcmpNeBf16 (d : BitVec 3) (a : BitVec 3) (b : BitVec 3) (s : BitVec 5) (x : BitVec 5) : Encoded.Statement (.vcmpNeBf16 d a b s x) := by
  intro hw _
  rw [show encode (.vcmpNeBf16 d a b s x) = enc5 (0x2B*2^26 + 4*2^0) d 23 a 20 b 17 s 12 x 7 from rfl]
  obtain ⟨hm, hf, e0, e1, e2, e3, e4⟩ := layout35 0x2B 4 (by decide) (by decide) d a b s x
  generalize enc5 (0x2B*2^26 + 4*2^0) d 23 a 20 b 17 s 12 x 7 = w at *
  exact decode_of w _ ((decodeRaw_2B w hm).trans (by simp [decode2B, hf, e0, e1, e2, e3, e4])) hw

theorem Encoded.vcmpNeI32 (d : BitVec 3) (a : BitVec 3) (b : BitVec 3) (s : BitVec 5) (x : BitVec 5) : Encoded.Statement (.vcmpNeI32 d a b s x) := by
  intro hw _
  rw [show encode (.vcmpNeI32 d a b s x) = enc5 (0x2B*2^26 + 5*2^0) d 23 a 20 b 17 s 12 x 7 from rfl]
  obtain ⟨hm, hf, e0, e1, e2, e3, e4⟩ := layout35 0x2B 5 (by decide) (by decide) d a b s x
  generalize enc5 (0x2B*2^26 + 5*2^0) d 23 a 20 b 17 s 12 x 7 = w at *
  exact decode_of w _ ((decodeRaw_2B w hm).trans (by simp [decode2B, hf, e0, e1, e2, e3, e4])) hw

theorem Encoded.vcmpLtF32 (d : BitVec 3) (a : BitVec 3) (b : BitVec 3) (s : BitVec 5) (x : BitVec 5) : Encoded.Statement (.vcmpLtF32 d a b s x) := by
  intro hw _
  rw [show encode (.vcmpLtF32 d a b s x) = enc5 (0x2B*2^26 + 6*2^0) d 23 a 20 b 17 s 12 x 7 from rfl]
  obtain ⟨hm, hf, e0, e1, e2, e3, e4⟩ := layout35 0x2B 6 (by decide) (by decide) d a b s x
  generalize enc5 (0x2B*2^26 + 6*2^0) d 23 a 20 b 17 s 12 x 7 = w at *
  exact decode_of w _ ((decodeRaw_2B w hm).trans (by simp [decode2B, hf, e0, e1, e2, e3, e4])) hw

theorem Encoded.vcmpLtBf16 (d : BitVec 3) (a : BitVec 3) (b : BitVec 3) (s : BitVec 5) (x : BitVec 5) : Encoded.Statement (.vcmpLtBf16 d a b s x) := by
  intro hw _
  rw [show encode (.vcmpLtBf16 d a b s x) = enc5 (0x2B*2^26 + 7*2^0) d 23 a 20 b 17 s 12 x 7 from rfl]
  obtain ⟨hm, hf, e0, e1, e2, e3, e4⟩ := layout35 0x2B 7 (by decide) (by decide) d a b s x
  generalize enc5 (0x2B*2^26 + 7*2^0) d 23 a 20 b 17 s 12 x 7 = w at *
  exact decode_of w _ ((decodeRaw_2B w hm).trans (by simp [decode2B, hf, e0, e1, e2, e3, e4])) hw

theorem Encoded.vcmpLtI32 (d : BitVec 3) (a : BitVec 3) (b : BitVec 3) (s : BitVec 5) (x : BitVec 5) : Encoded.Statement (.vcmpLtI32 d a b s x) := by
  intro hw _
  rw [show encode (.vcmpLtI32 d a b s x) = enc5 (0x2B*2^26 + 8*2^0) d 23 a 20 b 17 s 12 x 7 from rfl]
  obtain ⟨hm, hf, e0, e1, e2, e3, e4⟩ := layout35 0x2B 8 (by decide) (by decide) d a b s x
  generalize enc5 (0x2B*2^26 + 8*2^0) d 23 a 20 b 17 s 12 x 7 = w at *
  exact decode_of w _ ((decodeRaw_2B w hm).trans (by simp [decode2B, hf, e0, e1, e2, e3, e4])) hw

theorem Encoded.vcmpLeF32 (d : BitVec 3) (a : BitVec 3) (b : BitVec 3) (s : BitVec 5) (x : BitVec 5) : Encoded.Statement (.vcmpLeF32 d a b s x) := by
  intro hw _
  rw [show encode (.vcmpLeF32 d a b s x) = enc5 (0x2B*2^26 + 9*2^0) d 23 a 20 b 17 s 12 x 7 from rfl]
  obtain ⟨hm, hf, e0, e1, e2, e3, e4⟩ := layout35 0x2B 9 (by decide) (by decide) d a b s x
  generalize enc5 (0x2B*2^26 + 9*2^0) d 23 a 20 b 17 s 12 x 7 = w at *
  exact decode_of w _ ((decodeRaw_2B w hm).trans (by simp [decode2B, hf, e0, e1, e2, e3, e4])) hw

theorem Encoded.vcmpLeBf16 (d : BitVec 3) (a : BitVec 3) (b : BitVec 3) (s : BitVec 5) (x : BitVec 5) : Encoded.Statement (.vcmpLeBf16 d a b s x) := by
  intro hw _
  rw [show encode (.vcmpLeBf16 d a b s x) = enc5 (0x2B*2^26 + 10*2^0) d 23 a 20 b 17 s 12 x 7 from rfl]
  obtain ⟨hm, hf, e0, e1, e2, e3, e4⟩ := layout35 0x2B 10 (by decide) (by decide) d a b s x
  generalize enc5 (0x2B*2^26 + 10*2^0) d 23 a 20 b 17 s 12 x 7 = w at *
  exact decode_of w _ ((decodeRaw_2B w hm).trans (by simp [decode2B, hf, e0, e1, e2, e3, e4])) hw

theorem Encoded.vcmpLeI32 (d : BitVec 3) (a : BitVec 3) (b : BitVec 3) (s : BitVec 5) (x : BitVec 5) : Encoded.Statement (.vcmpLeI32 d a b s x) := by
  intro hw _
  rw [show encode (.vcmpLeI32 d a b s x) = enc5 (0x2B*2^26 + 11*2^0) d 23 a 20 b 17 s 12 x 7 from rfl]
  obtain ⟨hm, hf, e0, e1, e2, e3, e4⟩ := layout35 0x2B 11 (by decide) (by decide) d a b s x
  generalize enc5 (0x2B*2^26 + 11*2^0) d 23 a 20 b 17 s 12 x 7 = w at *
  exact decode_of w _ ((decodeRaw_2B w hm).trans (by simp [decode2B, hf, e0, e1, e2, e3, e4])) hw

theorem Encoded.vsel (d : BitVec 3) (a : BitVec 3) (b : BitVec 3) (s : BitVec 5) (x : BitVec 5) : Encoded.Statement (.vsel d a b s x) := by
  intro hw _
  rw [show encode (.vsel d a b s x) = enc5 (0x2B*2^26 + 12*2^0) d 23 a 20 b 17 s 12 x 7 from rfl]
  obtain ⟨hm, hf, e0, e1, e2, e3, e4⟩ := layout35 0x2B 12 (by decide) (by decide) d a b s x
  generalize enc5 (0x2B*2^26 + 12*2^0) d 23 a 20 b 17 s 12 x 7 = w at *
  exact decode_of w _ ((decodeRaw_2B w hm).trans (by simp [decode2B, hf, e0, e1, e2, e3, e4])) hw

theorem Encoded.vsum (d : BitVec 3) (a : BitVec 3) (y : BitVec 3) (s : BitVec 5) : Encoded.Statement (.vsum d a y s) := by
  intro hw _
  rw [show encode (.vsum d a y s) = enc4 (0x2B*2^26 + 13*2^0) d 23 a 20 y 17 s 12 from rfl]
  obtain ⟨hm, hf, t0, e0, e1, e2, e3⟩ := layout37 0x2B 13 (by decide) (by decide) d a y s
  generalize enc4 (0x2B*2^26 + 13*2^0) d 23 a 20 y 17 s 12 = w at *
  exact decode_of w _ ((decodeRaw_2B w hm).trans (by simp [decode2B, onlyIf, hf, t0, e0, e1, e2, e3])) hw

theorem Encoded.vmaxr (d : BitVec 3) (a : BitVec 3) (y : BitVec 3) (s : BitVec 5) : Encoded.Statement (.vmaxr d a y s) := by
  intro hw _
  rw [show encode (.vmaxr d a y s) = enc4 (0x2B*2^26 + 14*2^0) d 23 a 20 y 17 s 12 from rfl]
  obtain ⟨hm, hf, t0, e0, e1, e2, e3⟩ := layout37 0x2B 14 (by decide) (by decide) d a y s
  generalize enc4 (0x2B*2^26 + 14*2^0) d 23 a 20 y 17 s 12 = w at *
  exact decode_of w _ ((decodeRaw_2B w hm).trans (by simp [decode2B, onlyIf, hf, t0, e0, e1, e2, e3])) hw

theorem Encoded.vperm (d : BitVec 3) (a : BitVec 3) (b : BitVec 3) (s : BitVec 5) : Encoded.Statement (.vperm d a b s) := by
  intro hw _
  rw [show encode (.vperm d a b s) = enc4 (0x2B*2^26 + 15*2^0) d 23 a 20 b 17 s 12 from rfl]
  obtain ⟨hm, hf, t0, e0, e1, e2, e3⟩ := layout37 0x2B 15 (by decide) (by decide) d a b s
  generalize enc4 (0x2B*2^26 + 15*2^0) d 23 a 20 b 17 s 12 = w at *
  exact decode_of w _ ((decodeRaw_2B w hm).trans (by simp [decode2B, onlyIf, hf, t0, e0, e1, e2, e3])) hw

theorem Encoded.fuseF32 (d : BitVec 3) (a : BitVec 3) (b : BitVec 3) (s : BitVec 5) (x : BitVec 5) : Encoded.Statement (.fuseF32 d a b s x) := by
  intro hw _
  rw [show encode (.fuseF32 d a b s x) = enc5 (0x2C*2^26 + 0*2^0) d 23 a 20 b 17 s 12 x 7 from rfl]
  obtain ⟨hm, hf, e0, e1, e2, e3, e4⟩ := layout35 0x2C 0 (by decide) (by decide) d a b s x
  generalize enc5 (0x2C*2^26 + 0*2^0) d 23 a 20 b 17 s 12 x 7 = w at *
  exact decode_of w _ ((decodeRaw_2C w hm).trans (by simp [decode2C, hf, e0, e1, e2, e3, e4])) hw

theorem Encoded.fuseBf16 (d : BitVec 3) (a : BitVec 3) (b : BitVec 3) (s : BitVec 5) (x : BitVec 5) : Encoded.Statement (.fuseBf16 d a b s x) := by
  intro hw _
  rw [show encode (.fuseBf16 d a b s x) = enc5 (0x2C*2^26 + 1*2^0) d 23 a 20 b 17 s 12 x 7 from rfl]
  obtain ⟨hm, hf, e0, e1, e2, e3, e4⟩ := layout35 0x2C 1 (by decide) (by decide) d a b s x
  generalize enc5 (0x2C*2^26 + 1*2^0) d 23 a 20 b 17 s 12 x 7 = w at *
  exact decode_of w _ ((decodeRaw_2C w hm).trans (by simp [decode2C, hf, e0, e1, e2, e3, e4])) hw

theorem Encoded.mmaBf16 (d : BitVec 3) (a : BitVec 3) (s : BitVec 5) (x : BitVec 5) : Encoded.Statement (.mmaBf16 d a s x) := by
  intro hw _
  rw [show encode (.mmaBf16 d a s x) = enc4 (0x2D*2^26 + 0*2^0) d 23 a 20 s 12 x 7 from rfl]
  obtain ⟨hm, hf, t0, e0, e1, e2, e3⟩ := layout38 0x2D 0 (by decide) (by decide) d a s x
  generalize enc4 (0x2D*2^26 + 0*2^0) d 23 a 20 s 12 x 7 = w at *
  exact decode_of w _ ((decodeRaw_2D w hm).trans (by simp [decode2D, onlyIf, hf, t0, e0, e1, e2, e3])) hw

theorem Encoded.mmaF16 (d : BitVec 3) (a : BitVec 3) (s : BitVec 5) (x : BitVec 5) : Encoded.Statement (.mmaF16 d a s x) := by
  intro hw _
  rw [show encode (.mmaF16 d a s x) = enc4 (0x2D*2^26 + 1*2^0) d 23 a 20 s 12 x 7 from rfl]
  obtain ⟨hm, hf, t0, e0, e1, e2, e3⟩ := layout38 0x2D 1 (by decide) (by decide) d a s x
  generalize enc4 (0x2D*2^26 + 1*2^0) d 23 a 20 s 12 x 7 = w at *
  exact decode_of w _ ((decodeRaw_2D w hm).trans (by simp [decode2D, onlyIf, hf, t0, e0, e1, e2, e3])) hw

theorem Encoded.mmaE4m3 (d : BitVec 3) (a : BitVec 3) (s : BitVec 5) (x : BitVec 5) : Encoded.Statement (.mmaE4m3 d a s x) := by
  intro hw _
  rw [show encode (.mmaE4m3 d a s x) = enc4 (0x2D*2^26 + 2*2^0) d 23 a 20 s 12 x 7 from rfl]
  obtain ⟨hm, hf, t0, e0, e1, e2, e3⟩ := layout38 0x2D 2 (by decide) (by decide) d a s x
  generalize enc4 (0x2D*2^26 + 2*2^0) d 23 a 20 s 12 x 7 = w at *
  exact decode_of w _ ((decodeRaw_2D w hm).trans (by simp [decode2D, onlyIf, hf, t0, e0, e1, e2, e3])) hw

theorem Encoded.mmaE5m2 (d : BitVec 3) (a : BitVec 3) (s : BitVec 5) (x : BitVec 5) : Encoded.Statement (.mmaE5m2 d a s x) := by
  intro hw _
  rw [show encode (.mmaE5m2 d a s x) = enc4 (0x2D*2^26 + 3*2^0) d 23 a 20 s 12 x 7 from rfl]
  obtain ⟨hm, hf, t0, e0, e1, e2, e3⟩ := layout38 0x2D 3 (by decide) (by decide) d a s x
  generalize enc4 (0x2D*2^26 + 3*2^0) d 23 a 20 s 12 x 7 = w at *
  exact decode_of w _ ((decodeRaw_2D w hm).trans (by simp [decode2D, onlyIf, hf, t0, e0, e1, e2, e3])) hw

theorem Encoded.mmaCb4 (d : BitVec 3) (a : BitVec 3) (s : BitVec 5) (x : BitVec 5) : Encoded.Statement (.mmaCb4 d a s x) := by
  intro hw _
  rw [show encode (.mmaCb4 d a s x) = enc4 (0x2D*2^26 + 4*2^0) d 23 a 20 s 12 x 7 from rfl]
  obtain ⟨hm, hf, t0, e0, e1, e2, e3⟩ := layout38 0x2D 4 (by decide) (by decide) d a s x
  generalize enc4 (0x2D*2^26 + 4*2^0) d 23 a 20 s 12 x 7 = w at *
  exact decode_of w _ ((decodeRaw_2D w hm).trans (by simp [decode2D, onlyIf, hf, t0, e0, e1, e2, e3])) hw

theorem Encoded.wbld (o : BitVec 3) (x : BitVec 5) : Encoded.Statement (.wbld o x) := by
  intro hw _
  rw [show encode (.wbld o x) = enc2 (0x2D*2^26 + 5*2^0) o 20 x 7 from rfl]
  obtain ⟨hm, hf, t0, t1, e0, e1⟩ := layout39 0x2D 5 (by decide) (by decide) o x
  generalize enc2 (0x2D*2^26 + 5*2^0) o 20 x 7 = w at *
  exact decode_of w _ ((decodeRaw_2D w hm).trans (by simp [decode2D, onlyIf, hf, t0, t1, e0, e1])) hw

theorem Encoded.lmode (m' : BitVec 3) : Encoded.Statement (.lmode m') := by
  intro hw _
  rw [show encode (.lmode m') = enc1 (0x2D*2^26 + 6*2^0) m' 23 from rfl]
  obtain ⟨hm, hf, t0, e0⟩ := layout40 0x2D 6 (by decide) (by decide) m'
  generalize enc1 (0x2D*2^26 + 6*2^0) m' 23 = w at *
  exact decode_of w _ ((decodeRaw_2D w hm).trans (by simp [decode2D, onlyIf, hf, t0, e0])) hw

theorem Encoded.lfence : Encoded.Statement (.lfence) := by
  intro hw _
  rw [show encode (.lfence) = enc0 (0x2D*2^26 + 7*2^0) from rfl]
  obtain ⟨hm, hf, t0⟩ := layout41 0x2D 7 (by decide) (by decide)
  generalize enc0 (0x2D*2^26 + 7*2^0) = w at *
  exact decode_of w _ ((decodeRaw_2D w hm).trans (by simp [decode2D, onlyIf, hf, t0])) hw

theorem Encoded.ssm (d : BitVec 3) (x : BitVec 5) : Encoded.Statement (.ssm d x) := by
  intro hw _
  rw [show encode (.ssm d x) = enc2 (0x2E*2^26 + 0*2^0) d 23 x 7 from rfl]
  obtain ⟨hm, hf, t0, e0, e1⟩ := layout42 0x2E 0 (by decide) (by decide) d x
  generalize enc2 (0x2E*2^26 + 0*2^0) d 23 x 7 = w at *
  exact decode_of w _ ((decodeRaw_2E w hm).trans (by simp [decode2E, onlyIf, hf, t0, e0, e1])) hw

theorem Encoded.ssmC (d : BitVec 3) (x : BitVec 5) : Encoded.Statement (.ssmC d x) := by
  intro hw _
  rw [show encode (.ssmC d x) = enc2 (0x2E*2^26 + 1*2^0) d 23 x 7 from rfl]
  obtain ⟨hm, hf, t0, e0, e1⟩ := layout42 0x2E 1 (by decide) (by decide) d x
  generalize enc2 (0x2E*2^26 + 1*2^0) d 23 x 7 = w at *
  exact decode_of w _ ((decodeRaw_2E w hm).trans (by simp [decode2E, onlyIf, hf, t0, e0, e1])) hw

theorem Encoded.ssmR (d : BitVec 3) (x : BitVec 5) : Encoded.Statement (.ssmR d x) := by
  intro hw _
  rw [show encode (.ssmR d x) = enc2 (0x2E*2^26 + 2*2^0) d 23 x 7 from rfl]
  obtain ⟨hm, hf, t0, e0, e1⟩ := layout42 0x2E 2 (by decide) (by decide) d x
  generalize enc2 (0x2E*2^26 + 2*2^0) d 23 x 7 = w at *
  exact decode_of w _ ((decodeRaw_2E w hm).trans (by simp [decode2E, onlyIf, hf, t0, e0, e1])) hw

theorem Encoded.deviceStart : Encoded.Statement .deviceStart := fun _ h => absurd rfl h

theorem Encoded.startStepTimeout : Encoded.Statement .startStepTimeout := fun _ h => absurd rfl h

theorem Encoded.standbyPowerLoss : Encoded.Statement .standbyPowerLoss := fun _ h => absurd rfl h

theorem Encoded.clockFault : Encoded.Statement .clockFault := fun _ h => absurd rfl h

theorem Encoded.thermalWarn : Encoded.Statement .thermalWarn := fun _ h => absurd rfl h

theorem Encoded.thermalTrip : Encoded.Statement .thermalTrip := fun _ h => absurd rfl h

theorem Encoded.thermalRecover : Encoded.Statement .thermalRecover := fun _ h => absurd rfl h

theorem Encoded.powerCap : Encoded.Statement .powerCap := fun _ h => absurd rfl h

theorem Encoded.solderFlit : Encoded.Statement .solderFlit := fun _ h => absurd rfl h

theorem Encoded.d2dRetrain : Encoded.Statement .d2dRetrain := fun _ h => absurd rfl h

theorem Encoded.linkFlitReceive : Encoded.Statement .linkFlitReceive := fun _ h => absurd rfl h

theorem Encoded.linkCrc : Encoded.Statement .linkCrc := fun _ h => absurd rfl h

theorem Encoded.linkRetrain : Encoded.Statement .linkRetrain := fun _ h => absurd rfl h

theorem Encoded.linkDown : Encoded.Statement .linkDown := fun _ h => absurd rfl h

theorem Encoded.trainReq : Encoded.Statement .trainReq := fun _ h => absurd rfl h

theorem Encoded.trainDone : Encoded.Statement .trainDone := fun _ h => absurd rfl h

theorem Encoded.eack : Encoded.Statement .eack := fun _ h => absurd rfl h

theorem Encoded.echo : Encoded.Statement .echo := fun _ h => absurd rfl h

theorem Encoded.echoReply : Encoded.Statement .echoReply := fun _ h => absurd rfl h

theorem Encoded.idset : Encoded.Statement .idset := fun _ h => absurd rfl h

theorem Encoded.e2eRequestArrive : Encoded.Statement .e2eRequestArrive := fun _ h => absurd rfl h

theorem Encoded.e2eRetransmit : Encoded.Statement .e2eRetransmit := fun _ h => absurd rfl h

theorem Encoded.e2eRequestFail : Encoded.Statement .e2eRequestFail := fun _ h => absurd rfl h

theorem Encoded.e2eAckTimer : Encoded.Statement .e2eAckTimer := fun _ h => absurd rfl h

theorem Encoded.switchReceive : Encoded.Statement .switchReceive := fun _ h => absurd rfl h

theorem Encoded.outputArbitrate : Encoded.Statement .outputArbitrate := fun _ h => absurd rfl h

theorem Encoded.agePromote : Encoded.Statement .agePromote := fun _ h => absurd rfl h

theorem Encoded.rd : Encoded.Statement .rd := fun _ h => absurd rfl h

theorem Encoded.wr : Encoded.Statement .wr := fun _ h => absurd rfl h

theorem Encoded.wrh : Encoded.Statement .wrh := fun _ h => absurd rfl h

theorem Encoded.atom : Encoded.Statement .atom := fun _ h => absurd rfl h

theorem Encoded.red : Encoded.Statement .red := fun _ h => absurd rfl h

theorem Encoded.nib : Encoded.Statement .nib := fun _ h => absurd rfl h

theorem Encoded.sendMsg : Encoded.Statement .sendMsg := fun _ h => absurd rfl h

theorem Encoded.qpostMsg : Encoded.Statement .qpostMsg := fun _ h => absurd rfl h

theorem Encoded.take : Encoded.Statement .take := fun _ h => absurd rfl h

theorem Encoded.takecan : Encoded.Statement .takecan := fun _ h => absurd rfl h

theorem Encoded.rst : Encoded.Statement .rst := fun _ h => absurd rfl h

theorem Encoded.rld : Encoded.Statement .rld := fun _ h => absurd rfl h

theorem Encoded.inv : Encoded.Statement .inv := fun _ h => absurd rfl h

theorem Encoded.brd : Encoded.Statement .brd := fun _ h => absurd rfl h

theorem Encoded.mrd : Encoded.Statement .mrd := fun _ h => absurd rfl h

theorem Encoded.bwrh : Encoded.Statement .bwrh := fun _ h => absurd rfl h

theorem Encoded.mfwd : Encoded.Statement .mfwd := fun _ h => absurd rfl h

theorem Encoded.rdata : Encoded.Statement .rdata := fun _ h => absurd rfl h

theorem Encoded.ack : Encoded.Statement .ack := fun _ h => absurd rfl h

theorem Encoded.ares : Encoded.Statement .ares := fun _ h => absurd rfl h

theorem Encoded.msg : Encoded.Statement .msg := fun _ h => absurd rfl h

theorem Encoded.empty : Encoded.Statement .empty := fun _ h => absurd rfl h

theorem Encoded.lack : Encoded.Statement .lack := fun _ h => absurd rfl h

theorem Encoded.fail : Encoded.Statement .fail := fun _ h => absurd rfl h

theorem Encoded.bdata : Encoded.Statement .bdata := fun _ h => absurd rfl h

theorem Encoded.mdata : Encoded.Statement .mdata := fun _ h => absurd rfl h

theorem Encoded.msetup : Encoded.Statement .msetup := fun _ h => absurd rfl h

theorem Encoded.mjoin : Encoded.Statement .mjoin := fun _ h => absurd rfl h

theorem Encoded.marker : Encoded.Statement .marker := fun _ h => absurd rfl h

theorem Encoded.creply : Encoded.Statement .creply := fun _ h => absurd rfl h

theorem Encoded.cpoll : Encoded.Statement .cpoll := fun _ h => absurd rfl h

theorem Encoded.event : Encoded.Statement .event := fun _ h => absurd rfl h

theorem Encoded.sched : Encoded.Statement .sched := fun _ h => absurd rfl h

theorem Encoded.vcstep : Encoded.Statement .vcstep := fun _ h => absurd rfl h

theorem Encoded.sroll : Encoded.Statement .sroll := fun _ h => absurd rfl h

theorem Encoded.mon : Encoded.Statement .mon := fun _ h => absurd rfl h

theorem Encoded.unknownMessage : Encoded.Statement .unknownMessage := fun _ h => absurd rfl h

theorem Encoded.dramComplete : Encoded.Statement .dramComplete := fun _ h => absurd rfl h

theorem Encoded.spillFetch : Encoded.Statement .spillFetch := fun _ h => absurd rfl h

theorem Encoded.barrierArrive : Encoded.Statement .barrierArrive := fun _ h => absurd rfl h

theorem Encoded.migrationEnd : Encoded.Statement .migrationEnd := fun _ h => absurd rfl h

theorem Encoded.mcastSend : Encoded.Statement .mcastSend := fun _ h => absurd rfl h

theorem Encoded.mcastComplete : Encoded.Statement .mcastComplete := fun _ h => absurd rfl h

theorem Encoded.translationRead : Encoded.Statement .translationRead := fun _ h => absurd rfl h

theorem Encoded.keyGenerationInstall : Encoded.Statement .keyGenerationInstall := fun _ h => absurd rfl h

theorem Encoded.tailWrite : Encoded.Statement .tailWrite := fun _ h => absurd rfl h

theorem Encoded.cplheadWrite : Encoded.Statement .cplheadWrite := fun _ h => absurd rfl h

theorem Encoded.statusClear : Encoded.Statement .statusClear := fun _ h => absurd rfl h

theorem Encoded.queueEnable : Encoded.Statement .queueEnable := fun _ h => absurd rfl h

theorem Encoded.queuePause : Encoded.Statement .queuePause := fun _ h => absurd rfl h

theorem Encoded.queueResume : Encoded.Statement .queueResume := fun _ h => absurd rfl h

theorem Encoded.queueDisable : Encoded.Statement .queueDisable := fun _ h => absurd rfl h

theorem Encoded.queueReset : Encoded.Statement .queueReset := fun _ h => absurd rfl h

theorem Encoded.queueConfigWrite : Encoded.Statement .queueConfigWrite := fun _ h => absurd rfl h

theorem Encoded.teldataRead : Encoded.Statement .teldataRead := fun _ h => absurd rfl h

theorem Encoded.registerWrite : Encoded.Statement .registerWrite := fun _ h => absurd rfl h

theorem Encoded.takePacket : Encoded.Statement .takePacket := fun _ h => absurd rfl h

theorem Encoded.packetStart : Encoded.Statement .packetStart := fun _ h => absurd rfl h

theorem Encoded.packetComplete : Encoded.Statement .packetComplete := fun _ h => absurd rfl h

theorem Encoded.nopPacket : Encoded.Statement .nopPacket := fun _ h => absurd rfl h

theorem Encoded.launch : Encoded.Statement .launch := fun _ h => absurd rfl h

theorem Encoded.graph : Encoded.Statement .graph := fun _ h => absurd rfl h

theorem Encoded.copy : Encoded.Statement .copy := fun _ h => absurd rfl h

theorem Encoded.signal : Encoded.Statement .signal := fun _ h => absurd rfl h

theorem Encoded.waitPacket : Encoded.Statement .waitPacket := fun _ h => absurd rfl h

theorem Encoded.waitTimeout : Encoded.Statement .waitTimeout := fun _ h => absurd rfl h

theorem Encoded.resync : Encoded.Statement .resync := fun _ h => absurd rfl h

theorem Encoded.snapshot : Encoded.Statement .snapshot := fun _ h => absurd rfl h

theorem Encoded.admitPacket : Encoded.Statement .admitPacket := fun _ h => absurd rfl h

theorem Encoded.retire : Encoded.Statement .retire := fun _ h => absurd rfl h

theorem Encoded.partCreate : Encoded.Statement .partCreate := fun _ h => absurd rfl h

theorem Encoded.partReset : Encoded.Statement .partReset := fun _ h => absurd rfl h

theorem Encoded.partDestroy : Encoded.Statement .partDestroy := fun _ h => absurd rfl h

theorem Encoded.banks : Encoded.Statement .banks := fun _ h => absurd rfl h

theorem Encoded.mapFlush : Encoded.Statement .mapFlush := fun _ h => absurd rfl h

theorem Encoded.report : Encoded.Statement .report := fun _ h => absurd rfl h

theorem Encoded.auditRead : Encoded.Statement .auditRead := fun _ h => absurd rfl h

theorem Encoded.pewterUpdate : Encoded.Statement .pewterUpdate := fun _ h => absurd rfl h

theorem Encoded.pewterHandover : Encoded.Statement .pewterHandover := fun _ h => absurd rfl h

theorem Encoded.policyLoad : Encoded.Statement .policyLoad := fun _ h => absurd rfl h

theorem Encoded.policyUnload : Encoded.Statement .policyUnload := fun _ h => absurd rfl h

theorem Encoded.policyPin : Encoded.Statement .policyPin := fun _ h => absurd rfl h

theorem Encoded.errinj : Encoded.Statement .errinj := fun _ h => absurd rfl h

theorem Encoded.debugToken : Encoded.Statement .debugToken := fun _ h => absurd rfl h

theorem Encoded.gangStart : Encoded.Statement .gangStart := fun _ h => absurd rfl h

theorem Encoded.dispatchDecision : Encoded.Statement .dispatchDecision := fun _ h => absurd rfl h

theorem Encoded.periodStart : Encoded.Statement .periodStart := fun _ h => absurd rfl h

theorem Encoded.sliceEnd : Encoded.Statement .sliceEnd := fun _ h => absurd rfl h

theorem Encoded.preempt : Encoded.Statement .preempt := fun _ h => absurd rfl h

theorem Encoded.preemptTimeout : Encoded.Statement .preemptTimeout := fun _ h => absurd rfl h

theorem Encoded.resume : Encoded.Statement .resume := fun _ h => absurd rfl h

theorem Encoded.yieldPoint : Encoded.Statement .yieldPoint := fun _ h => absurd rfl h

theorem Encoded.instanceComplete : Encoded.Statement .instanceComplete := fun _ h => absurd rfl h

theorem Encoded.trapEntry : Encoded.Statement .trapEntry := fun _ h => absurd rfl h

theorem Encoded.noticeEntry : Encoded.Statement .noticeEntry := fun _ h => absurd rfl h

theorem Encoded.watchdog : Encoded.Statement .watchdog := fun _ h => absurd rfl h

theorem Encoded.pauseExpire : Encoded.Statement .pauseExpire := fun _ h => absurd rfl h

theorem Encoded.frameFill : Encoded.Statement .frameFill := fun _ h => absurd rfl h

theorem Encoded.latticeGrant : Encoded.Statement .latticeGrant := fun _ h => absurd rfl h

theorem Encoded.rewireComplete : Encoded.Statement .rewireComplete := fun _ h => absurd rfl h

theorem Encoded.movementServe : Encoded.Statement .movementServe := fun _ h => absurd rfl h

theorem Encoded.latticeComplete : Encoded.Statement .latticeComplete := fun _ h => absurd rfl h

theorem Encoded.copyJobStart : Encoded.Statement .copyJobStart := fun _ h => absurd rfl h

theorem Encoded.eventLineStore : Encoded.Statement .eventLineStore := fun _ h => absurd rfl h

theorem Encoded.eventBarStore : Encoded.Statement .eventBarStore := fun _ h => absurd rfl h

theorem Encoded.mutexStore : Encoded.Statement .mutexStore := fun _ h => absurd rfl h

theorem Encoded.barcfgWrite : Encoded.Statement .barcfgWrite := fun _ h => absurd rfl h

theorem Encoded.coreCut : Encoded.Statement .coreCut := fun _ h => absurd rfl h

theorem Encoded.cowCopy : Encoded.Statement .cowCopy := fun _ h => absurd rfl h

theorem Encoded.countPoll : Encoded.Statement .countPoll := fun _ h => absurd rfl h

theorem Encoded.snapshotSeal : Encoded.Statement .snapshotSeal := fun _ h => absurd rfl h

theorem Encoded.snapshotFail : Encoded.Statement .snapshotFail := fun _ h => absurd rfl h

theorem Encoded.backgroundCopy : Encoded.Statement .backgroundCopy := fun _ h => absurd rfl h

theorem Encoded.superstepRollback : Encoded.Statement .superstepRollback := fun _ h => absurd rfl h

theorem Encoded.partitionMetadataError : Encoded.Statement .partitionMetadataError := fun _ h => absurd rfl h

theorem Encoded.requestTimeout : Encoded.Statement .requestTimeout := fun _ h => absurd rfl h

theorem Encoded.fetchFault : Encoded.Statement .fetchFault := fun _ h => absurd rfl h

theorem Encoded.illegalWord : Encoded.Statement .illegalWord := fun _ h => absurd rfl h

theorem Encoded.tdiStateChange : Encoded.Statement .tdiStateChange := fun _ h => absurd rfl h

theorem Encoded.cxlMemRequest : Encoded.Statement .cxlMemRequest := fun _ h => absurd rfl h

theorem Encoded.cxlCacheSnoop : Encoded.Statement .cxlCacheSnoop := fun _ h => absurd rfl h

theorem Encoded.hostMemoryCompletion : Encoded.Statement .hostMemoryCompletion := fun _ h => absurd rfl h

theorem Encoded.policyImageFault : Encoded.Statement .policyImageFault := fun _ h => absurd rfl h

theorem Encoded.debugPortCommand : Encoded.Statement .debugPortCommand := fun _ h => absurd rfl h

theorem Encoded.d2dRetrainEnd : Encoded.Statement .d2dRetrainEnd := fun _ h => absurd rfl h

theorem Encoded.jobRollbackRequest : Encoded.Statement .jobRollbackRequest := fun _ h => absurd rfl h

end Sys2Proof.Laws
end

