-- ==== Sys2Proof/Machine/Efong.lean ====
section
/-! DEFINITION. What the assembler efong puts into a code object (R380, R381, R384, R385, R389, R390): the operand words it builds,
the expansion of `li`, handle words and data, the signatures, and its checks of a repeat frame. Nothing of it is state of the
device; source text and diagnostics are a host program's (log entry 131). -/

namespace Sys2Proof.Machine.Efong

/-! ## Operand words (R216, R218, R220, R221, R380) -/

/-- The pattern of the decimal `n / 10 ^ k`, rounded to nearest even once. -/
def decimalBits (f : Fmt) (n : Int) (k : Nat) : Nat := (fDiv f .rne (FVal.ofInt n) (FVal.ofInt (10 ^ k : Nat))).bits

/-- `f32(v)` for the decimal `n / 10 ^ k`. -/
def f32Word (n : Int) (k : Nat) : Word := word (decimalBits .f32 n k)

/-- `bf16(v)`. -/
def bf16Word (n : Int) (k : Nat) : Word := word (decimalBits .bf16 n k)

/-- `win(s, n)`: none outside 0–127 and 1–128, which is E003. -/
def winWord (s n : Nat) : Option Word := if s < 128 ∧ 1 ≤ n ∧ n ≤ 128 then some (word (n % 128 * 256 + s)) else none

/-- `mask(b)`: MEN and MBASE. -/
def maskWord (b : Nat) : Option Word := if b < 32 then some (word (2 ^ 21 + b * 2 ^ 16)) else none

/-- `sat`. -/
def satWord : Word := word (2 ^ 22)
/-- `bc`. -/
def bcWord : Word := word (2 ^ 23)
/-- `na`. -/
def naWord : Word := word (2 ^ 24)
/-- `nb`. -/
def nbWord : Word := word (2 ^ 25)
/-- `zc`. -/
def zcWord : Word := word (2 ^ 26)

/-- `kf(v)`: KCONST. -/
def kfWord (n : Int) (k : Nat) : Word := word (decimalBits .f32 n k * 2 ^ 32)

/-- `wslot(s, k)`. -/
def slotWord (s k : Nat) : Word := word (s + k * 16)

/-- The tokens of a `fuse` program, in the order of their numbers. -/
inductive Token where
  | a | b | c | d | add | sub | mul | max | min | neg | abs | exp2 | rcp | rsqrt | tanh | dup
  deriving DecidableEq, Repr

/-- `prog(t, ...)`: the count and the tokens; none for an empty program or more than 15 tokens. -/
def progWord (ts : List Token) : Option Word :=
  if ts.isEmpty || 15 < ts.length then none
  else some (word (ts.length * 2 ^ 60 + ts.reverse.foldl (fun n t => n * 16 + t.ctorIdx) 0))

/-- `strides(d, a, b, tD, tA, tB)`. -/
def stridesWord (d a b tD tA tB : Nat) : Word :=
  word (d % 8 + a % 8 * 8 + b % 8 * 64 + tD % 8 * 512 + tA % 8 * 4096 + tB % 8 * 32768)

/-! ## `li` (R381) -/

/-- Field `q` of a value: bits [16q + 15 : 16q]. -/
def part (v : Word) (q : Nat) : BitVec 16 := BitVec.ofNat 16 (v.toNat / 2 ^ (16 * q))

/-- The fewest words that give register `d` the value `v`. -/
def li (d : BitVec 5) (v : Word) : List Instr :=
  if -32768 ≤ v.toInt ∧ v.toInt ≤ 32767 then [.addi d 0 (part v 0)]
  else
    let low : List Instr := .lui d (part v 1) :: (if part v 0 = 0 then [] else [.movk d 0 (part v 0)])
    let fill : BitVec 16 := if v.getLsbD 31 then 0xFFFF else 0
    let top : List Instr := [2, 3].filterMap (fun q => if part v q = fill then none else some (.movk d (BitVec.ofNat 2 q) (part v q)))
    low ++ top

/-! ## Data (R379, R384, R385) -/

/-- A data directive of `n` bytes per value, little-endian; none when a value does not fit (E003). -/
def dataBytes (n : Nat) (vs : List Int) : Option (List Byte) :=
  if vs.all (fun v => decide (-(2 ^ (8 * n - 1) : Nat) ≤ v ∧ v < (2 ^ (8 * n) : Nat))) then
    some (vs.flatMap (fun v => leBytes n (v % ((2 ^ (8 * n) : Nat) : Int)).toNat))
  else none

/-- `.align n`: the zero bytes up to a multiple of 2^n. -/
def alignBytes (n at_ : Nat) : List Byte := List.replicate ((2 ^ n - at_ % 2 ^ n) % 2 ^ n) 0

/-- The HWORD relocation: the handle word of a created object, with GV 1. -/
def hword (index gen : Nat) : List Byte := leBytes 8 (handleWord index gen).toNat

/-- The EXTBR relocation: the word offset in a field of `n` bits; one out of reach fails the load. -/
def branchOffset (n pc target : Nat) : Option (BitVec n) :=
  let d : Int := ((target : Int) - pc) / 4
  if (target % 4 = pc % 4) ∧ -(2 ^ (n - 1) : Nat) ≤ d ∧ d < (2 ^ (n - 1) : Nat) then some (BitVec.ofInt n d) else none

/-- A parameter block at a place: a guard word of zeros, zeros up to a multiple of 64, and `n` zeros; with the place of the block. -/
def pblock (n at_ : Nat) : Nat × List Byte :=
  let pad := alignBytes 6 (at_ + 4)
  (at_ + 4 + pad.length, List.replicate (4 + pad.length + n) 0)

/-! ## Signatures (R105, R390) -/

/-- Whether an instruction is a branch or a jump, by its major (R213). -/
def isBranch (w : IWord) : Bool :=
  let m := w.toNat / 2 ^ 26
  (0x12 ≤ m && m ≤ 0x1B) || m == 0x1C

/-- The commit instructions that their opcode shows (R133). A store to the event window or through a gang window is one by its
address. -/
def isCommit (i : Instr) : Bool :=
  match i with
  | .amoSwap .. => true
  | .amoCas .. => true
  | .amoAdd .. => true
  | .amoAnd .. => true
  | .amoOr .. => true
  | .amoXor .. => true
  | .amoMin .. => true
  | .amoMax .. => true
  | .amoMinu .. => true
  | .amoMaxu .. => true
  | .amoFaddS .. => true
  | .redAdd .. => true
  | .redAnd .. => true
  | .redOr .. => true
  | .redXor .. => true
  | .redMin .. => true
  | .redMax .. => true
  | .redMinu .. => true
  | .redMaxu .. => true
  | .redFaddS .. => true
  | .redFmaxS .. => true
  | .send .. => true
  | .recv .. => true
  | .qtry .. => true
  | .rdqAdd .. => true
  | .rdqMax .. => true
  | .qpost .. => true
  | .cp .. => true
  | .mcast .. => true
  | .evsig .. => true
  | .barEvent .. => true
  | .barObject .. => true
  | .lock .. => true
  | .unlock .. => true
  | .sstep .. => true
  | .snap .. => true
  | .oalloc .. => true
  | .seal .. => true
  | _ => false

/-- Whether a word opens a block: `rgn` or `rgnx`. -/
def opens (w : IWord) : Bool := match decode w with
  | some (.rgn _) => true
  | some (.rgnx _) => true
  | _ => false

/-- Whether a word ends a block, and is part of it. -/
def ends (w : IWord) : Bool := isBranch w || (match decode w with
  | some i => isCommit i
  | none => false)

/-- The signature of the block that the words after its opening word continue, from the CRC so far; none when it has no ending
instruction. -/
def blockCrc (c : Nat) : List IWord → Option Nat
  | [] => none
  | w :: ws => if opens w then none else if ends w then some (crcWord c w) else blockCrc (crcWord c w) ws

/-- The words of a code object with the signature of each block in its opening word, and 0 where there is none to check. An explicit
one is kept. -/
def sign : List IWord → List IWord
  | [] => []
  | w :: ws =>
    if opens w && w.toNat % 0x10000 == 0 then
      BitVec.ofNat 32 (w.toNat + (blockCrc (crcWord 0xFFFF w) ws).getD 0) :: sign ws
    else w :: sign ws

/-! ## Repeat frames (R221, R389) -/

/-- The diagnostics of a frame of `n` words: E014, E015 and E016 by their numbers. -/
def frameErrors (n : Nat) (ws : List IWord) : List Nat :=
  (if n = 0 ∨ 16 < n then [14] else []) ++ (ws.take n).filterMap (fun w => match decode w with
    | some (.rpt ..) => some 16
    | _ => if capturable w then none else some 15)

end Sys2Proof.Machine.Efong
end

