-- ==== Sys2Proof/Tests/Slice0.lean ====
section
/-! SUPPORT. Tests of single definitions and single steps, the ill-formed terms that the check refuses, and for each
statement of Obligations.lean a state that meets its hypotheses. -/

namespace Sys2Proof.Tests

open Sys2Proof Sys2Proof.Machine Sys2Proof.Spec

-- One theorem at a time: each evaluation in the kernel would otherwise hold a thread of its own.
set_option Elab.async false

/-! ## Helpers: small states -/

/-- Equality of states, field by field. -/
def same (u t : State) : Bool :=
  decide (u.mem = t.mem) && decide (u.host = t.host) && decide (u.lmem = t.lmem) &&
  decide (u.tiles = t.tiles) && decide (u.slots = t.slots) && decide (u.cores = t.cores) &&
  decide (u.clusters = t.clusters) && decide (u.procs = t.procs) && decide (u.maps = t.maps) &&
  decide (u.sync = t.sync) && decide (u.slices = t.slices) && decide (u.hostHomes = t.hostHomes) && decide (u.moved = t.moved) && decide (u.senders = t.senders) &&
  decide (u.parts = t.parts) && decide (u.queues = t.queues) && decide (u.tasks = t.tasks) &&
  decide (u.insts = t.insts) && decide (u.images = t.images) && decide (u.jobs = t.jobs) &&
  decide (u.links = t.links) && decide (u.solders = t.solders) && decide (u.peers = t.peers) &&
  decide (u.routes = t.routes) && decide (u.switches = t.switches) && decide (u.owners = t.owners) &&
  decide (u.remotes = t.remotes) && decide (u.net = t.net) && decide (u.mctrs = t.mctrs) &&
  decide (u.tqueue = t.tqueue) && decide (u.devId = t.devId) && decide (u.hot = t.hot) &&
  decide (u.capped = t.capped) && decide (u.boot = t.boot) && decide (u.mon = t.mon) &&
  decide (u.hostSide = t.hostSide) && decide (u.nextTask = t.nextTask) && decide (u.nextInst = t.nextInst) &&
  decide (u.nextCtx = t.nextCtx) && decide (u.nextPkt = t.nextPkt) && decide (u.clk = t.clk) &&
  decide (u.stepNo = t.stepNo) && decide (u.freeNo = t.freeNo) && decide (u.cur = t.cur) &&
  decide (u.ev = t.ev) && decide (u.agenda = t.agenda) && decide (u.engineTurn = t.engineTurn) &&
  decide (u.engineNext = t.engineNext) && decide (u.lastCore = t.lastCore) && decide (u.colour = t.colour)

theorem same_eq {u t : State} (h : same u t = true) : u = t := by
  cases u
  cases t
  simpa [same, and_assoc] using h

/-- Whether an instruction answers the next state `t`. -/
def ans (i : Instr) (s t : State) : Bool := match exec i s with
  | .next u => same u t
  | _ => false

/-- A property of the next state of an instruction. -/
def after (i : Instr) (s : State) (f : State → Bool) : Bool := match exec i s with
  | .next u => f u
  | _ => false

/-- An instruction whose next state holds one more cause at the monitor, and a property. -/
def raises (i : Instr) (s : State) (c : Nat) (f : State → Bool) : Bool := after i s (fun t =>
  decide (t.mon.faults.map (fun (e : FaultRec) => (e.cause, e.cls)) = s.mon.faults.map (fun (e : FaultRec) => (e.cause, e.cls)) ++ [(c, 2)]) && f t)

/-- A property of what a computation gives. -/
def okM {α : Type} (m : M α) (s : State) (f : α → State → Bool) : Bool := match m s with
  | .ok a u => f a u
  | .error _ _ => false

/-- A property of the trap that a computation raises. -/
def trapM {α : Type} (m : M α) (s : State) (f : Nat → Word → Nat → State → Bool) : Bool := match m s with
  | .error (.trap c v 0 p) u => f c v p u
  | _ => false

/-- Context 0 of core 0, at user level, in partition 1, at the word `w`. -/
def base (w : Nat) : State := State.reset.placeWord w

/-- Registers of the context that issues. -/
def regs (s : State) (l : List (BitVec 5 × Word)) : State := l.foldl (fun s p => s.setX p.1 p.2) s

/-- The context with a block open whose words do not hash to what its opening names. -/
def badBlock (s : State) : State := s.modCur (fun x => { x with sig := ⟨true, 0, 2, 1, none⟩ })

/-- The context with a block open that may end. -/
def goodBlock (s : State) : State := s.modCur (fun x => { x with sig := ⟨true, 0, 2, 2, none⟩ })

/-- The context at supervisor level. -/
def super (s : State) : State := s.modCur (fun x => { x with sup := true })

/-- Context 0 with small values in x1 to x4 and a block open. -/
def ints : State := goodBlock (regs (base 0) [(1, 20), (2, word (2 ^ 64 - 3)), (3, 7), (4, 0)])

/-! ## Words

The words are written out field by field from the formats of R213 and the function codes of R226; the hexadecimal ones are
the worked examples of the specification. -/

/-- A word reads as an instruction. -/
def reads (w : Nat) (i : Instr) : Bool := decide (decode (BitVec.ofNat 32 w) = some i)

/-- Words that read as no instruction. -/
def refusedWords (l : List Nat) : Bool := l.all (fun w => decide (decode (BitVec.ofNat 32 w) = none))

theorem test_decode_integer :
    ((reads 0b000001_10001_01001_10110_00000000000 (.add 17 9 22)) &&
    (reads 0b000001_10001_01001_10110_00000000001 (.sub 17 9 22)) &&
    (reads 0b000001_10001_01001_10110_00000000010 (.and 17 9 22)) &&
    (reads 0b000001_10001_01001_10110_00000000011 (.or 17 9 22)) &&
    (reads 0b000001_10001_01001_10110_00000000100 (.xor 17 9 22)) &&
    (reads 0b000001_10001_01001_10110_00000000101 (.andn 17 9 22)) &&
    (reads 0b000001_10001_01001_10110_00000000110 (.sll 17 9 22)) &&
    (reads 0b000001_10001_01001_10110_00000000111 (.srl 17 9 22)) &&
    (reads 0b000001_10001_01001_10110_00000001000 (.sra 17 9 22)) &&
    (reads 0b000001_10001_01001_10110_00000001001 (.rol 17 9 22)) &&
    (reads 0b000001_10001_01001_10110_00000001010 (.mul 17 9 22)) &&
    (reads 0b000001_10001_01001_10110_00000001011 (.mulh 17 9 22)) &&
    (reads 0b000001_10001_01001_10110_00000001100 (.mulhu 17 9 22)) &&
    (reads 0b000001_10001_01001_10110_00000001101 (.div 17 9 22)) &&
    (reads 0b000001_10001_01001_10110_00000001110 (.divu 17 9 22)) &&
    (reads 0b000001_10001_01001_10110_00000001111 (.rem 17 9 22)) &&
    (reads 0b000001_10001_01001_10110_00000010000 (.remu 17 9 22)) &&
    (reads 0b000001_10001_01001_10110_00000010001 (.min 17 9 22)) &&
    (reads 0b000001_10001_01001_10110_00000010010 (.max 17 9 22)) &&
    (reads 0b000001_10001_01001_10110_00000010011 (.minu 17 9 22)) &&
    (reads 0b000001_10001_01001_10110_00000010100 (.maxu 17 9 22)) &&
    (reads 0b000001_10001_01001_10110_00000010101 (.slt 17 9 22)) &&
    (reads 0b000001_10001_01001_10110_00000010110 (.sltu 17 9 22)) &&
    (reads 0b000001_10001_01001_10110_00000010111 (.seq 17 9 22)) &&
    (reads 0b000001_10001_01001_00000_00000011000 (.clz 17 9)) &&
    (reads 0b000001_10001_01001_00000_00000011001 (.ctz 17 9)) &&
    (reads 0b000001_10001_01001_00000_00000011010 (.popc 17 9)) &&
    (reads 0b000001_10001_01001_00000_00000011011 (.brev 17 9)) &&
    (reads 0b000001_10001_01001_10110_00000011100 (.bext 17 9 22)) &&
    (reads 0b000001_10001_01001_10110_00000011101 (.bdep 17 9 22)) &&
    (reads 0b000001_10001_01001_10110_00000011110 (.cmov 17 9 22)) &&
    (reads 0b000001_10001_01001_10110_00000011111 (.addw 17 9 22))) = true := by
  decide +kernel

theorem test_decode_immediate :
    ((reads 0b000010_10001_01001_1010010111000011 (.addi 17 9 0xA5C3)) &&
    (reads 0b000011_10001_01001_1010010111000011 (.andi 17 9 0xA5C3)) &&
    (reads 0b000100_10001_01001_1010010111000011 (.ori 17 9 0xA5C3)) &&
    (reads 0b000101_10001_01001_1010010111000011 (.xori 17 9 0xA5C3)) &&
    (reads 0b000110_10001_01001_0000000000101101 (.slli 17 9 45)) &&
    (reads 0b000110_10001_01001_0000000001101101 (.srli 17 9 45)) &&
    (reads 0b000110_10001_01001_0000000010101101 (.srai 17 9 45)) &&
    (reads 0b000110_10001_01001_0000000011101101 (.roli 17 9 45)) &&
    (reads 0b000111_10001_01001_1010010111000011 (.slti 17 9 0xA5C3)) &&
    (reads 0b001000_10001_01001_1010010111000011 (.sltiu 17 9 0xA5C3)) &&
    (reads 0b001001_10001_00000_1010010111000011 (.lui 17 0xA5C3)) &&
    (reads 0b001010_10001_00010_1010010111000011 (.movk 17 2 0xA5C3))) = true := by
  decide +kernel

theorem test_decode_scalar_float :
    ((reads 0b001011_10001_01001_10110_00000000000 (.faddS 17 9 22)) &&
    (reads 0b001011_10001_01001_10110_00000000001 (.fsubS 17 9 22)) &&
    (reads 0b001011_10001_01001_10110_00000000010 (.fmulS 17 9 22)) &&
    (reads 0b001011_10001_01001_10110_00000000011 (.fdivS 17 9 22)) &&
    (reads 0b001011_10001_01001_00000_00000000100 (.fsqrtS 17 9)) &&
    (reads 0b001011_10001_01001_10110_00000000101 (.fminS 17 9 22)) &&
    (reads 0b001011_10001_01001_10110_00000000110 (.fmaxS 17 9 22)) &&
    (reads 0b001011_10001_01001_10110_00000000111 (.fmaddS 17 9 22)) &&
    (reads 0b001011_10001_01001_10110_00000001000 (.feqS 17 9 22)) &&
    (reads 0b001011_10001_01001_10110_00000001001 (.fltS 17 9 22)) &&
    (reads 0b001011_10001_01001_10110_00000001010 (.fleS 17 9 22)) &&
    (reads 0b001011_10001_01001_10110_00000001011 (.faddD 17 9 22)) &&
    (reads 0b001011_10001_01001_10110_00000001100 (.fsubD 17 9 22)) &&
    (reads 0b001011_10001_01001_10110_00000001101 (.fmulD 17 9 22)) &&
    (reads 0b001011_10001_01001_10110_00000001110 (.fdivD 17 9 22)) &&
    (reads 0b001011_10001_01001_00000_00000001111 (.fsqrtD 17 9)) &&
    (reads 0b001011_10001_01001_10110_00000010000 (.fminD 17 9 22)) &&
    (reads 0b001011_10001_01001_10110_00000010001 (.fmaxD 17 9 22)) &&
    (reads 0b001011_10001_01001_10110_00000010010 (.fmaddD 17 9 22)) &&
    (reads 0b001011_10001_01001_10110_00000010011 (.feqD 17 9 22)) &&
    (reads 0b001011_10001_01001_10110_00000010100 (.fltD 17 9 22)) &&
    (reads 0b001011_10001_01001_10110_00000010101 (.fleD 17 9 22)) &&
    (reads 0b001011_10001_01001_00000_00000010110 (.fcvtSD 17 9)) &&
    (reads 0b001011_10001_01001_00000_00000010111 (.fcvtDS 17 9)) &&
    (reads 0b001011_10001_01001_00000_00000011000 (.fcvtSW 17 9)) &&
    (reads 0b001011_10001_01001_00000_00000011001 (.fcvtWS 17 9)) &&
    (reads 0b001011_10001_01001_00000_00000011010 (.fcvtDL 17 9)) &&
    (reads 0b001011_10001_01001_00000_00000011011 (.fcvtLD 17 9)) &&
    (reads 0b001011_10001_01001_00000_00000011100 (.fcvtBfS 17 9)) &&
    (reads 0b001011_10001_01001_00000_00000011101 (.fcvtSBf 17 9))) = true := by
  decide +kernel

theorem test_decode_memory :
    ((reads 0b001100_10001_01001_1101_000_110100101 (.ldb 17 9 13 0x1A5)) &&
    (reads 0b001100_10001_01001_1101_001_110100101 (.ldbu 17 9 13 0x1A5)) &&
    (reads 0b001100_10001_01001_1101_010_110100101 (.ldh 17 9 13 0x1A5)) &&
    (reads 0b001100_10001_01001_1101_011_110100101 (.ldhu 17 9 13 0x1A5)) &&
    (reads 0b001100_10001_01001_1101_100_110100101 (.ldw 17 9 13 0x1A5)) &&
    (reads 0b001100_10001_01001_1101_101_110100101 (.ldwu 17 9 13 0x1A5)) &&
    (reads 0b001100_10001_01001_1101_110_110100101 (.ldd 17 9 13 0x1A5)) &&
    (reads 0b001101_10001_01001_1101_000_110100101 (.stb 17 9 13 0x1A5)) &&
    (reads 0b001101_10001_01001_1101_001_110100101 (.sth 17 9 13 0x1A5)) &&
    (reads 0b001101_10001_01001_1101_010_110100101 (.stw 17 9 13 0x1A5)) &&
    (reads 0b001101_10001_01001_1101_011_110100101 (.std 17 9 13 0x1A5)) &&
    (reads 0b001101_10001_01001_1101_100_110100101 (.stn 17 9 13 0x1A5))) = true := by
  decide +kernel

theorem test_decode_objects :
    ((reads 0b001110_01101_01001_00000_000000_00000 (.hset 13 9)) &&
    (reads 0b001110_10001_01101_00000_000000_00001 (.hget 17 13)) &&
    (reads 0b001110_10001_01101_00000_000000_00010 (.hinfo 17 13)) &&
    (reads 0b001110_10001_01101_00000_000000_00011 (.hlen 17 13)) &&
    (reads 0b001110_10001_01001_10110_001101_00100 (.hsub 17 9 22 13)) &&
    (reads 0b001110_10001_01001_10110_000000_00101 (.oalloc 17 9 22)) &&
    (reads 0b001110_00000_01001_00000_000000_00110 (.ofree 9))) = true := by
  decide +kernel

theorem test_decode_atomics :
    ((reads 0b001111_10001_01001_10110_1101_10_00000 (.amoSwap 17 9 22 13 2 0)) &&
    (reads 0b001111_10001_01001_10110_1101_10_00001 (.amoSwap 17 9 22 13 2 1)) &&
    (reads 0b001111_10001_01001_10110_1101_10_00010 (.amoCas 17 9 22 13 2 0)) &&
    (reads 0b001111_10001_01001_10110_1101_10_00011 (.amoCas 17 9 22 13 2 1)) &&
    (reads 0b001111_10001_01001_10110_1101_10_00100 (.amoAdd 17 9 22 13 2 0)) &&
    (reads 0b001111_10001_01001_10110_1101_10_00101 (.amoAdd 17 9 22 13 2 1)) &&
    (reads 0b001111_10001_01001_10110_1101_10_00110 (.amoAnd 17 9 22 13 2 0)) &&
    (reads 0b001111_10001_01001_10110_1101_10_00111 (.amoAnd 17 9 22 13 2 1)) &&
    (reads 0b001111_10001_01001_10110_1101_10_01000 (.amoOr 17 9 22 13 2 0)) &&
    (reads 0b001111_10001_01001_10110_1101_10_01001 (.amoOr 17 9 22 13 2 1)) &&
    (reads 0b001111_10001_01001_10110_1101_10_01010 (.amoXor 17 9 22 13 2 0)) &&
    (reads 0b001111_10001_01001_10110_1101_10_01011 (.amoXor 17 9 22 13 2 1)) &&
    (reads 0b001111_10001_01001_10110_1101_10_01100 (.amoMin 17 9 22 13 2 0)) &&
    (reads 0b001111_10001_01001_10110_1101_10_01101 (.amoMin 17 9 22 13 2 1)) &&
    (reads 0b001111_10001_01001_10110_1101_10_01110 (.amoMax 17 9 22 13 2 0)) &&
    (reads 0b001111_10001_01001_10110_1101_10_01111 (.amoMax 17 9 22 13 2 1)) &&
    (reads 0b001111_10001_01001_10110_1101_10_10000 (.amoMinu 17 9 22 13 2 0)) &&
    (reads 0b001111_10001_01001_10110_1101_10_10001 (.amoMinu 17 9 22 13 2 1)) &&
    (reads 0b001111_10001_01001_10110_1101_10_10010 (.amoMaxu 17 9 22 13 2 0)) &&
    (reads 0b001111_10001_01001_10110_1101_10_10011 (.amoMaxu 17 9 22 13 2 1)) &&
    (reads 0b001111_10001_01001_10110_1101_10_10100 (.amoFaddS 17 9 22 13 2)) &&
    (reads 0b010000_00000_01001_10110_1101_10_00000 (.redAdd 9 22 13 1 0)) &&
    (reads 0b010000_00000_01001_10110_1101_10_00001 (.redAdd 9 22 13 1 1)) &&
    (reads 0b010000_00000_01001_10110_1101_10_00010 (.redAnd 9 22 13 1 0)) &&
    (reads 0b010000_00000_01001_10110_1101_10_00011 (.redAnd 9 22 13 1 1)) &&
    (reads 0b010000_00000_01001_10110_1101_10_00100 (.redOr 9 22 13 1 0)) &&
    (reads 0b010000_00000_01001_10110_1101_10_00101 (.redOr 9 22 13 1 1)) &&
    (reads 0b010000_00000_01001_10110_1101_10_00110 (.redXor 9 22 13 1 0)) &&
    (reads 0b010000_00000_01001_10110_1101_10_00111 (.redXor 9 22 13 1 1)) &&
    (reads 0b010000_00000_01001_10110_1101_10_01000 (.redMin 9 22 13 1 0)) &&
    (reads 0b010000_00000_01001_10110_1101_10_01001 (.redMin 9 22 13 1 1)) &&
    (reads 0b010000_00000_01001_10110_1101_10_01010 (.redMax 9 22 13 1 0)) &&
    (reads 0b010000_00000_01001_10110_1101_10_01011 (.redMax 9 22 13 1 1)) &&
    (reads 0b010000_00000_01001_10110_1101_10_01100 (.redMinu 9 22 13 1 0)) &&
    (reads 0b010000_00000_01001_10110_1101_10_01101 (.redMinu 9 22 13 1 1)) &&
    (reads 0b010000_00000_01001_10110_1101_10_01110 (.redMaxu 9 22 13 1 0)) &&
    (reads 0b010000_00000_01001_10110_1101_10_01111 (.redMaxu 9 22 13 1 1)) &&
    (reads 0b010000_00000_01001_10110_1101_10_10000 (.redFaddS 9 22 13 1)) &&
    (reads 0b010000_00000_01001_10110_1101_10_10001 (.redFmaxS 9 22 13 1))) = true := by
  decide +kernel

theorem test_decode_branches :
    ((reads 0b010001_0_000000000_1010010111000011 (.rgn 0xA5C3)) &&
    (reads 0b010001_1_000000000_1010010111000011 (.rgnx 0xA5C3)) &&
    (reads 0b010010_10001_01001_1010010111000011 (.beq 17 9 0xA5C3)) &&
    (reads 0b010011_10001_01001_1010010111000011 (.bne 17 9 0xA5C3)) &&
    (reads 0b010100_10001_01001_1010010111000011 (.blt 17 9 0xA5C3)) &&
    (reads 0b010101_10001_01001_1010010111000011 (.bge 17 9 0xA5C3)) &&
    (reads 0b010110_10001_01001_1010010111000011 (.bltu 17 9 0xA5C3)) &&
    (reads 0b010111_10001_01001_1010010111000011 (.bgeu 17 9 0xA5C3)) &&
    (reads 0b011000_10001_101101_101101000111100 (.bbs 17 45 0x5A3C)) &&
    (reads 0b011001_10001_101101_101101000111100 (.bbc 17 45 0x5A3C)) &&
    (reads 0b011010_10110000111010010111110001 (.j 0x2C3A5F1)) &&
    (reads 0b011011_10110000111010010111110001 (.jal 0x2C3A5F1)) &&
    (reads 0b011100_00000_01001_00000_00000000000 (.jr 9)) &&
    (reads 0b011100_10001_01001_00000_00000000001 (.jalr 17 9))) = true := by
  decide +kernel

theorem test_decode_synchronisation :
    ((reads 0b011101_00000_01001_00000_000000_00000 (.fence 9)) &&
    (reads 0b011101_00000_00000_00000_000000_00001 (.rfence)) &&
    (reads 0b011101_10001_01001_00000_000000_00010 (.wait 17 9)) &&
    (reads 0b011101_00000_01001_10110_000000_00011 (.evsig 9 22)) &&
    (reads 0b011101_10001_01001_10110_000000_00100 (.barEvent 17 9 22)) &&
    (reads 0b011101_10001_00000_10110_011101_00100 (.barObject 17 22 13)) &&
    (reads 0b011101_00000_01001_00000_000000_00101 (.lock 9)) &&
    (reads 0b011101_00000_01001_00000_000000_00110 (.unlock 9)) &&
    (reads 0b011101_00000_00000_00000_000000_00111 (.pause))) = true := by
  decide +kernel

theorem test_decode_virtual_caches :
    ((reads 0b011110_00000_01001_10110_000000_00000 (.vcdef 9 22)) &&
    (reads 0b011110_00000_01001_00000_000000_00001 (.vcsize 9)) &&
    (reads 0b011110_00000_01001_00000_000000_00010 (.vcpar 9)) &&
    (reads 0b011110_00000_01001_00000_001101_00011 (.vcbind 9 13)) &&
    (reads 0b011110_00000_01001_00000_001101_00100 (.vcunb 9 13)) &&
    (reads 0b011110_00000_01001_00000_011101_00101 (.vcwb 9 1 13)) &&
    (reads 0b011110_00000_01001_00000_000000_00110 (.vcinv 9 0 0)) &&
    (reads 0b011110_10001_01001_00000_000000_00111 (.vcq 17 9))) = true := by
  decide +kernel

theorem test_decode_control :
    ((reads 0b011111_00000_01001_10110_001101_00000 (.rpt 9 22 13)) &&
    (reads 0b011111_10001_01001_10110_000000_00001 (.start 17 9 22)) &&
    (reads 0b011111_00000_00000_00000_000000_00010 (.hexit)) &&
    (reads 0b011111_00000_00000_00000_000000_00011 (.yield)) &&
    (reads 0b100000_10001_01001_00000_000000_00000 (.cp 17 9)) &&
    (reads 0b100000_10001_01001_00000_000000_00001 (.mcast 17 9)) &&
    (reads 0b100000_10001_01001_00000_000000_00010 (.jwait 17 9)) &&
    (reads 0b100000_10001_01001_00000_000000_00011 (.jpoll 17 9)) &&
    (reads 0b100000_10001_01001_00000_001101_00100 (.tmig 17 9 13)) &&
    (reads 0b100000_10001_01001_00000_000000_00101 (.cpjoin 17 9)) &&
    (reads 0b100001_10001_01001_00000_001101_00000 (.qpost 17 9 13)) &&
    (reads 0b100001_00000_01001_00000_001101_00001 (.send 9 13)) &&
    (reads 0b100001_10001_01001_00000_001101_00010 (.recv 17 9 13)) &&
    (reads 0b100001_10001_01001_00000_001101_00011 (.qtry 17 9 13)) &&
    (reads 0b100001_10001_01001_10110_001101_00100 (.rdqAdd 17 9 22 13)) &&
    (reads 0b100001_10001_01001_10110_001101_00101 (.rdqMax 17 9 22 13)) &&
    (reads 0b100010_00000_00000_00000_000000_00000 (.sstep)) &&
    (reads 0b100010_10001_00000_00000_001101_00001 (.snap 17 13)) &&
    (reads 0b100010_10001_00000_00000_011101_00010 (.snapst 17 1 13)) &&
    (reads 0b100010_00000_01001_00000_001101_00011 (.rollbk 9 13))) = true := by
  decide +kernel

theorem test_decode_system :
    ((reads 0b100011_10001_01001_00000_000000_00000 (.trap 17 9)) &&
    (reads 0b100011_00000_00000_00000_000000_00001 (.eret)) &&
    (reads 0b100011_10001_00000_10000100001_00010 (.csrr 17 0x421)) &&
    (reads 0x8C800422 (.csrr 4 0x021)) &&
    (reads 0b100011_00000_01001_10000100001_00011 (.csrw 9 0x421)) &&
    (reads 0b100011_00000_01001_10000100001_00100 (.csrs 9 0x421)) &&
    (reads 0b100011_00000_01001_00000_000000_00101 (.halt 9)) &&
    (reads 0b100011_00000_00000_00000_101101_00110 (.brk 45)) &&
    (reads 0b100011_10001_01001_00000_000000_00111 (.seal 17 9)) &&
    (reads 0b100011_00000_00000_00000_000000_01000 (.nop))) = true := by
  decide +kernel

theorem test_decode_tiles :
    ((reads 0b101000_101_1101_00_10010_01011_0000000 (.tld 5 13 18 11)) &&
    (reads 0b101000_101_1101_00_10010_01011_0000001 (.tst 5 13 18 11)) &&
    (reads 0b101000_101_0000_00_10010_00000_0000010 (.tzero 5 18)) &&
    (reads 0b101000_101_0000_00_10010_01011_0000011 (.tmov 5 18 11)) &&
    (reads 0b101000_101_0000_00_10010_01011_0000100 (.ttr 5 18 11)) &&
    (reads 0b101000_101_0000_00_10010_00000_0000101 (.tbc 5 18)) &&
    (reads 0b101000_101_0000_00_10010_01011_0000110 (.tgat 5 18 11)) &&
    (reads 0b101001_101_011_110_10010_01011_0000000 (.vadd 5 3 6 18 11 0)) &&
    (reads 0b101001_101_011_110_10010_01011_0001001 (.vsub 5 3 6 18 11 1)) &&
    (reads 0b101001_101_011_110_10010_01011_0010010 (.vmul 5 3 6 18 11 2)) &&
    (reads 0b101001_101_011_110_10010_01011_0011011 (.vfma 5 3 6 18 11 3)) &&
    (reads 0b101001_101_011_110_10010_01011_0100100 (.vmin 5 3 6 18 11 4)) &&
    (reads 0b101001_101_011_110_10010_01011_0101101 (.vmax 5 3 6 18 11 5)) &&
    (reads 0b101001_101_011_110_10010_01011_0110000 (.vand 5 3 6 18 11)) &&
    (reads 0b101001_101_011_110_10010_01011_0110001 (.vor 5 3 6 18 11)) &&
    (reads 0b101001_101_011_110_10010_01011_0110010 (.vxor 5 3 6 18 11)) &&
    (reads 0b101001_101_011_110_10010_01011_0110011 (.vshl 5 3 6 18 11)) &&
    (reads 0b101001_101_011_110_10010_01011_0110100 (.vshr 5 3 6 18 11))) = true := by
  decide +kernel

theorem test_decode_vector :
    ((reads 0b101010_101_011_000_10010_00000_0000000 (.vexp2 5 3 18)) &&
    (reads 0b101010_101_011_000_10010_00000_0000001 (.vrcp 5 3 18)) &&
    (reads 0b101010_101_011_000_10010_00000_0000010 (.vrsqrt 5 3 18)) &&
    (reads 0b101010_101_011_000_10010_00000_0000011 (.vlog2 5 3 18)) &&
    (reads 0b101010_101_011_000_10010_00000_0000100 (.vtanh 5 3 18)) &&
    (reads 0b101010_101_011_000_10010_00000_0000101 (.vabsF32 5 3 18)) &&
    (reads 0b101010_101_011_000_10010_00000_0000110 (.vabsBf16 5 3 18)) &&
    (reads 0b101010_101_011_000_10010_00000_0000111 (.vnegF32 5 3 18)) &&
    (reads 0b101010_101_011_000_10010_00000_0001000 (.vnegBf16 5 3 18)) &&
    (reads 0b101010_101_011_001_10010_00000_0001001 (.vcvtBf16F32 5 3 1 18)) &&
    (reads 0b101010_101_011_001_10010_00000_0001010 (.vcvtF32Bf16 5 3 1 18)) &&
    (reads 0b101010_101_011_001_10010_00000_0001011 (.vcvtF16F32 5 3 1 18)) &&
    (reads 0b101010_101_011_001_10010_00000_0001100 (.vcvtF32F16 5 3 1 18)) &&
    (reads 0b101010_101_011_011_10010_00000_0001101 (.vcvtE4m3F32 5 3 3 18)) &&
    (reads 0b101010_101_011_011_10010_00000_0001110 (.vcvtF32E4m3 5 3 3 18)) &&
    (reads 0b101010_101_011_011_10010_00000_0001111 (.vcvtE5m2F32 5 3 3 18)) &&
    (reads 0b101010_101_011_011_10010_00000_0010000 (.vcvtF32E5m2 5 3 3 18)) &&
    (reads 0b101010_101_011_000_10010_00000_0010001 (.vcvtI32F32 5 3 18)) &&
    (reads 0b101010_101_011_000_10010_00000_0010010 (.vcvtF32I32 5 3 18)) &&
    (reads 0b101010_101_011_011_10010_00000_0010011 (.vcvtBf16Cb4 5 3 3 18)) &&
    (reads 0xAB34400D (.vcvtE4m3F32 6 3 2 4)) &&
    (reads 0b101011_101_011_110_10010_01011_0000000 (.vcmpEqF32 5 3 6 18 11)) &&
    (reads 0b101011_101_011_110_10010_01011_0000001 (.vcmpEqBf16 5 3 6 18 11)) &&
    (reads 0b101011_101_011_110_10010_01011_0000010 (.vcmpEqI32 5 3 6 18 11)) &&
    (reads 0b101011_101_011_110_10010_01011_0000011 (.vcmpNeF32 5 3 6 18 11)) &&
    (reads 0b101011_101_011_110_10010_01011_0000100 (.vcmpNeBf16 5 3 6 18 11)) &&
    (reads 0b101011_101_011_110_10010_01011_0000101 (.vcmpNeI32 5 3 6 18 11)) &&
    (reads 0b101011_101_011_110_10010_01011_0000110 (.vcmpLtF32 5 3 6 18 11)) &&
    (reads 0b101011_101_011_110_10010_01011_0000111 (.vcmpLtBf16 5 3 6 18 11)) &&
    (reads 0b101011_101_011_110_10010_01011_0001000 (.vcmpLtI32 5 3 6 18 11)) &&
    (reads 0b101011_101_011_110_10010_01011_0001001 (.vcmpLeF32 5 3 6 18 11)) &&
    (reads 0b101011_101_011_110_10010_01011_0001010 (.vcmpLeBf16 5 3 6 18 11)) &&
    (reads 0b101011_101_011_110_10010_01011_0001011 (.vcmpLeI32 5 3 6 18 11)) &&
    (reads 0b101011_101_011_110_10010_01011_0001100 (.vsel 5 3 6 18 11)) &&
    (reads 0b101011_101_011_101_10010_00000_0001101 (.vsum 5 3 5 18)) &&
    (reads 0b101011_101_011_101_10010_00000_0001110 (.vmaxr 5 3 5 18)) &&
    (reads 0b101011_101_011_110_10010_00000_0001111 (.vperm 5 3 6 18)) &&
    (reads 0b101100_101_011_110_10010_01011_0000000 (.fuseF32 5 3 6 18 11)) &&
    (reads 0b101100_101_011_110_10010_01011_0000001 (.fuseBf16 5 3 6 18 11))) = true := by
  decide +kernel

theorem test_decode_matrix :
    ((reads 0b101101_101_011_000_10010_01011_0000000 (.mmaBf16 5 3 18 11)) &&
    (reads 0b101101_101_011_000_10010_01011_0000001 (.mmaF16 5 3 18 11)) &&
    (reads 0b101101_101_011_000_10010_01011_0000010 (.mmaE4m3 5 3 18 11)) &&
    (reads 0b101101_101_011_000_10010_01011_0000011 (.mmaE5m2 5 3 18 11)) &&
    (reads 0b101101_101_011_000_10010_01011_0000100 (.mmaCb4 5 3 18 11)) &&
    (reads 0b101101_000_011_000_00000_01011_0000101 (.wbld 3 11)) &&
    (reads 0xB4000006 (.lmode 0)) &&
    (reads 0xB4800006 (.lmode 1)) &&
    (reads 0xB4000007 (.lfence)) &&
    (reads 0b101110_101_000_000_00000_01011_0000000 (.ssm 5 11)) &&
    (reads 0b101110_101_000_000_00000_01011_0000001 (.ssmC 5 11)) &&
    (reads 0b101110_101_000_000_00000_01011_0000010 (.ssmR 5 11))) = true := by
  decide +kernel

theorem test_refused_zero_and_ones :
    (
      refusedWords [0x00000000,
        0xFFFFFFFF]) = true := by
  decide +kernel

theorem test_refused_majors :
    ((
      refusedWords [0b000000_00000000000000000000000001,
        0b100100_00000000000000000000000001,
        0b100111_00000000000000000000000001,
        0b101111_00000000000000000000000001]) &&
    (refusedWords [0b111111_00000000000000000000000001])) = true := by
  decide +kernel

theorem test_refused_function_codes :
    ((
      refusedWords [0b000001_10001_01001_10110_00000100000,
        0b001011_10001_01001_10110_00000011110,
        0b001100_10001_01001_1101_111_110100101,
        0b001101_10001_01001_1101_101_110100101]) &&
    (
      refusedWords [0b001110_00000_00000_00000_000000_00111,
        0b001111_10001_01001_10110_1101_10_10101,
        0b010000_00000_01001_10110_1101_10_10010,
        0b011100_00000_01001_00000_00000000010]) &&
    (
      refusedWords [0b011101_00000_00000_00000_000000_01000,
        0b011110_00000_00000_00000_000000_01000,
        0b011111_00000_00000_00000_000000_00100,
        0b100000_00000_00000_00000_000000_00110]) &&
    (
      refusedWords [0b100001_00000_00000_00000_000000_00110,
        0b100010_00000_00000_00000_000000_00100,
        0b100011_00000_00000_00000_000000_01001,
        0b101000_101_0000_00_10010_00000_0000111]) &&
    (
      refusedWords [0b101001_101_011_110_10010_01011_0000110,
        0b101001_101_011_110_10010_01011_0101111,
        0b101001_101_011_110_10010_01011_0110101,
        0b101010_101_011_110_10010_01011_0010100]) &&
    (
      refusedWords [0b101011_101_011_110_10010_01011_0010000,
        0b101100_101_011_110_10010_01011_0000010,
        0b101101_101_011_110_10010_01011_0001000,
        0b101110_101_011_110_10010_01011_0000011])) = true := by
  decide +kernel

theorem test_refused_reserved_fields :
    ((
      refusedWords [0b000001_10001_01001_10110_00000011000,
        0b000110_10001_01001_0000000100000000,
        0b001001_10001_01001_1010010111000011,
        0b001010_10001_00100_1010010111000011]) &&
    (
      refusedWords [0b001011_10001_01001_10110_00000000100,
        0b001110_10001_01001_10110_010000_00100,
        0b001110_00001_01001_00000_000000_00110,
        0b010000_10001_01001_10110_1101_10_00000]) &&
    (
      refusedWords [0b010000_00000_01001_10110_1101_01_00000,
        0b010001_0_000000001_0000000000000111,
        0b011100_00001_01001_00000_00000000000,
        0b011101_00000_00001_00000_000000_00001]) &&
    (
      refusedWords [0b011101_10001_00001_10110_010000_00100,
        0b011110_00000_01001_00000_001101_00101,
        0b011111_00001_01001_10110_001101_00000,
        0b100010_00000_01001_00001_001101_00011]) &&
    (
      refusedWords [0b100011_00000_00000_00000_000001_01000,
        0b101000_101_0001_00_10010_00000_0000010,
        0b101000_101_0000_01_10010_00000_0000010,
        0b101010_101_011_000_10010_01011_0000000]) &&
    (
      refusedWords [0b101011_101_011_101_10010_01011_0001101,
        0b101101_101_011_110_10010_01011_0000000,
        0b101101_000_000_000_00000_00001_0000111,
        0b101110_101_011_000_00000_01011_0000000])) = true := by
  decide +kernel

theorem test_refused_register_fields :
    ((
      refusedWords [0b001110_00000_01001_00000_000000_00000,
        0b001110_10000_01001_00000_000000_00000,
        0b001110_10001_10000_00000_000000_00001,
        0b101010_101_011_010_10010_00000_0001001]) &&
    (
      refusedWords [0b101010_101_011_100_10010_00000_0001101,
        0b101011_101_011_110_10010_00000_0001101,
        0b101101_010_000_000_00000_00000_0000110])) = true := by
  decide +kernel

/-! ## Ill-formed instructions -/

theorem smoke_type_codes :
    (
      [.vadd 0 0 0 0 0 6, .vadd 0 0 0 0 0 7, .vsub 0 0 0 0 0 6, .vsub 0 0 0 0 0 7, .vmul 0 0 0 0 0 6, .vmul 0 0 0 0 0 7, .vfma 0 0 0 0 0 6, .vfma 0 0 0 0 0 7, .vmin 0 0 0 0 0 6, .vmin 0 0 0 0 0 7, .vmax 0 0 0 0 0 6, .vmax 0 0 0 0 0 7].all
        (fun (i : Instr) => !i.wellFormed)) = true := by
  decide +kernel

theorem smoke_object_fields :
    ((!(Instr.vcwb 0 0 1).wellFormed) &&
    (!(Instr.vcinv 0 0 1).wellFormed) &&
    ((Instr.vcwb 0 0 0).wellFormed) &&
    ((Instr.vcinv 0 1 1).wellFormed)) = true := by
  decide +kernel

theorem smoke_handle_fields :
    ((!(Instr.hset 0 1).wellFormed) &&
    (!(Instr.hset 16 1).wellFormed) &&
    (!(Instr.hget 1 16).wellFormed) &&
    (!(Instr.hinfo 1 16).wellFormed) &&
    (!(Instr.hlen 1 16).wellFormed) &&
    ((Instr.hset 15 1).wellFormed) &&
    ((Instr.hget 1 15).wellFormed)) = true := by
  decide +kernel

theorem smoke_parts :
    ((!(Instr.vcvtBf16F32 0 1 2 0).wellFormed) &&
    (!(Instr.vcvtF32Bf16 0 1 2 0).wellFormed) &&
    (!(Instr.vcvtF16F32 0 1 2 0).wellFormed) &&
    (!(Instr.vcvtF32F16 0 1 2 0).wellFormed) &&
    (!(Instr.vcvtE4m3F32 0 1 4 0).wellFormed) &&
    (!(Instr.vcvtF32E4m3 0 1 4 0).wellFormed) &&
    (!(Instr.vcvtE5m2F32 0 1 4 0).wellFormed) &&
    (!(Instr.vcvtF32E5m2 0 1 4 0).wellFormed) &&
    (!(Instr.vcvtBf16Cb4 0 1 4 0).wellFormed) &&
    ((Instr.vcvtBf16F32 0 1 1 0).wellFormed) &&
    ((Instr.vcvtE4m3F32 0 1 3 0).wellFormed)) = true := by
  decide +kernel

theorem smoke_row_types_and_modes :
    ((!(Instr.vsum 0 0 6 0).wellFormed) &&
    (!(Instr.vmaxr 0 0 6 0).wellFormed) &&
    (!(Instr.lmode 2).wellFormed) &&
    ((Instr.vsum 0 0 5 0).wellFormed) &&
    ((Instr.lmode 1).wellFormed)) = true := by
  decide +kernel

/-! ## Words, steps, integers, floating point, branches -/

theorem wit_DecodeReadsEncodedInstruction :
    (((Instr.add 1 2 3).wellFormed && encode (.add 1 2 3) != 0 && decide (decode (encode (.add 1 2 3)) = some (.add 1 2 3))) &&
    ((Instr.ldd 31 31 15 0x1FF).wellFormed && decide (decode (encode (.ldd 31 31 15 0x1FF)) = some (.ldd 31 31 15 0x1FF))) &&
    ((Instr.bbs 31 63 0x7FF).wellFormed && decide (decode (encode (.bbs 31 63 0x7FF)) = some (.bbs 31 63 0x7FF)))) = true := by
  decide +kernel

theorem wit_StepRunsDecodedInstruction :
    ((
      let s := base 0x04221800
      let t := (onTurn s 0 0).drainTables 0
      decide (s.agenda = []) && !s.engineTurn && decide (s.nextCtx? = some (0, 0)) && decide ((s.ctx 0 0).trapPend = none) &&
      decide ((s.ctx 0 0).bar? = none) && decide ((s.ctx 0 0).rpt = none) && decide ((s.ctx 0 0).wait = none) && decide ((s.ctx 0 0).ibuf = none) &&
      (s.core 0).frames.any (fun f => f.1 == (onTurn s 0 0).frameNo) &&
      decide ((t.fetch 0 0).1 = .got 0x04221800) && (decode 0x04221800).isSome) &&
    (decide (State.reset.agenda = (.deviceStart, Ev.zero) :: []))) = true := by
  decide +kernel

theorem wit_RegisterFile :
    (decide (ints.cur.2 < 11) && decide (ints.curCtx.rpt = none) && decide ((ints.setX 31 9).x 31 = 9)) = true := by
  decide +kernel

theorem wit_IntegerResult :
    ((
      [Instr.add 1 2 3, .sub 1 2 3, .and 1 2 3, .or 1 2 3, .xor 0 2 3, .andn 1 2 3, .sll 1 2 3, .srl 1 2 3, .sra 1 2 3, .rol 1 2 3,
       .mul 1 2 3, .mulh 1 2 3, .mulhu 1 2 3, .min 1 2 3, .max 1 2 3, .minu 1 2 3, .maxu 1 2 3, .slt 1 2 3, .sltu 1 2 3, .seq 1 2 3,
       .clz 1 4, .ctz 1 4, .popc 1 2, .brev 1 3, .bext 1 2 3, .bdep 1 2 3, .cmov 1 2 4, .addw 1 2 3].all (fun i =>
      match aluValue ints i with
      | some p => ans i ints (ints.setX p.1 p.2).retire
      | none => false)) &&
    (
      [Instr.addi 1 2 0x8000, .andi 1 2 0xFFFF, .ori 1 2 1, .xori 1 2 1, .slli 1 2 63, .srli 1 2 63, .srai 1 2 63, .roli 1 2 1,
       .slti 1 2 0xFFFF, .sltiu 1 2 0xFFFF, .lui 1 0x8000, .movk 1 3 0xFFFF].all (fun i =>
      match immValue ints i with
      | some p => ans i ints (ints.setX p.1 p.2).retire
      | none => false))) = true := by
  decide +kernel

theorem wit_DivisionResult :
    ((
      [Instr.div 1 2 3, .divu 1 2 3, .rem 1 2 3, .remu 1 2 3].all (fun i => match divValue ints i with
      | some p => decide (p.2.2.1 ≠ 0) && ans i ints (ints.setX p.1 p.2.2.2).retire
      | none => false)) &&
    (
      [Instr.div 1 2 4, .divu 1 2 4, .rem 1 2 4, .remu 1 2 0].all (fun i => match divValue ints i with
      | some p => decide (p.2.2.1 = 0) && ans i ints (raised ints 0x45 p.2.1)
      | none => false)) &&
    (
      let s := regs (base 0) [(2, 0x8000000000000000), (3, word (2 ^ 64 - 1))]
      ans (.div 1 2 3) s (s.setX 1 0x8000000000000000).retire && ans (.rem 1 2 3) s (s.setX 1 0).retire)) = true := by
  decide +kernel

theorem wit_BitOperations :
    (((0x4000000000000000#64).getLsbD 62 && decide ((0x4000000000000000#64).toNat < 2 ^ 63) && decide (clzW 0x4000000000000000 = 1)) &&
    ((0x10#64).getLsbD 4 && (List.range 4).all (fun j => !(0x10#64).getLsbD j) && decide (ctzW 0x10 = 4))) = true := by
  decide +kernel

theorem wit_GatherScatter :
    (
      (0x50#64).getLsbD 6 && decide (popCount 0x50 6 = 1) && decide (popCount 0x50 64 = 2) && !(0x50#64).getLsbD 5 &&
      decide (bextFrom 0x40 0x50 64 0 0 = 2) && decide (bdepFrom 2 0x50 64 0 0 = 0x40)) = true := by
  decide +kernel

theorem wit_ScalarFrame :
    (decide (ints.cur.2 < 11) && decide ((31 : BitVec 5) ≠ 1) && decide ((10 : Nat) ≠ ints.cur.2) && decide (1 ≠ ints.cur.1)) = true := by
  decide +kernel

/-- Floats in x1 (1.0), x2 (2.0), x3 (0.0) of f32 and x5 to x7 of f64. -/
def floats (ten : Word) : State :=
  (regs (base 0) [(1, 0x3F800000), (2, 0x40400000), (3, 0), (5, 0x3FF0000000000000), (6, 0x4008000000000000), (7, 0)]).modCur
    (fun x => { x with fcsr := ten <<< 8 })

theorem wit_FloatResult :
    ((
      [Instr.faddS 4 1 2, .fsubS 4 1 2, .fmulS 4 1 2, .fdivS 4 1 2, .fsqrtS 4 2, .fminS 4 1 2, .fmaxS 4 1 2, .fmaddS 2 1 2, .feqS 4 1 2,
       .fltS 4 1 2, .fleS 4 1 2, .faddD 4 5 6, .fsubD 4 5 6, .fmulD 4 5 6, .fdivD 4 5 6, .fsqrtD 4 6, .fminD 4 5 6, .fmaxD 4 5 6,
       .fmaddD 6 5 6, .feqD 4 5 6, .fltD 4 5 6, .fleD 4 5 6, .fcvtSD 4 6, .fcvtDS 4 2, .fcvtSW 4 2, .fcvtWS 4 2, .fcvtDL 4 1, .fcvtLD 4 6,
       .fcvtBfS 4 2, .fcvtSBf 4 1].all (fun i => match fpValue (floats 0) i with
      | some p => decide (p.2.2 &&& enabled (floats 0) = 0) && ans i (floats 0) (((floats 0).setX p.1 p.2.1).orFlags p.2.2).retire
      | none => false)) &&
    (
      match fpValue (floats 0x1F) (.fdivS 4 1 3) with
      | some p => decide (p.2.2 &&& enabled (floats 0x1F) = 8) && ans (.fdivS 4 1 3) (floats 0x1F) (raised (floats 0x1F) 0x41 8)
      | none => false) &&
    (
      match fpValue (floats 1) (.fdivD 4 5 6) with
      | some p => decide (p.2.2 &&& enabled (floats 1) = 1) && ans (.fdivD 4 5 6) (floats 1) (raised (floats 1) 0x44 1)
      | none => false)) = true := by
  decide +kernel

theorem wit_BranchResult :
    ((
      [(Instr.beq 1 1 0x7FF, true), (.bne 1 1 1, false), (.blt 2 1 1, true), (.bge 1 2 0x400, true), (.bltu 2 1 1, false), (.bgeu 2 1 1, true),
       (.bbs 1 2 1, true), (.bbc 1 2 1, false)].all (fun p => match branchOf ints p.1 with
      | some q => decide (q.1 = p.2) && decide (ints.curCtx.sig.crc = ints.curCtx.sig.expected) &&
          ans p.1 ints ((closed ints).retireTo (if q.1 = true then q.2 else (closed ints).curCtx.pc + 4))
      | none => false)) &&
    (
      [Instr.j 1, .jal 0x1FFFFFF, .jr 1, .jalr 1 1].all (fun i => match jumpOf ints i with
      | some q => ans i ints (((closed ints).setX q.1 ((closed ints).curCtx.pc + 4)).retireTo q.2)
      | none => false))) = true := by
  decide +kernel

theorem wit_SignatureMismatch :
    ((
      let s := badBlock (base 0)
      s.curCtx.sig.live && decide (s.curCtx.sig.crc ≠ s.curCtx.sig.expected) && decide (¬ (s.curCtx.sup = true ∨ s.curCtx.rgnx = true ∨ s.curCtx.sig.missed = some s.curCtx.sig.opening)) &&
      ans (.beq 0 0 1) s ((s.modCur (fun x => { x with sig := { SigState.idle with missed := some s.curCtx.sig.opening } })).discard 0 0)) &&
    (
      let s := super (badBlock (base 0))
      s.curCtx.sup && ans (.j 1) s (raised (s.modCur (fun x => { x with sig := SigState.idle })) 0x0E (word (2 + 0x10000))))) = true := by
  decide +kernel

/-! ## Loads, stores, the handle check -/

/-- The entry of object `i` of the context, of one page at base 0x40000 × i. -/
def entryOf (i rights fmt len : Nat) : Ent :=
  { placedEnt (memKey 1 0 0 (0x10000 + 64 * i)) with
    index := i, rights := rights, fmt := fmt, len := len, base := 0x40000 * i, pmap := 0x20000 + 0x1000 * i }

/-- A state with object `i`, mapped to a page of tier 0. -/
def withObj (s : State) (i rights fmt len page : Nat) : State :=
  let s := ({ s with procs := s.procs.put 1 { placedProc with otlen := 16 } } : State).putEnt (entryOf i rights fmt len)
  let key := memKey 1 0 0 (0x20000 + 0x1000 * i)
  let s := { s with mem := s.mem.putLE key 8 (2 ^ 63 + page) }
  s.modCluster 0 (fun k => { k with tcache := k.tcache.put key (word (2 ^ 63 + page)) })

/-- Object 2, named by h3, with rights R, W and A and with the bytes 0x81 to 0x88 at offset 8. -/
def data : State :=
  let s := regs ((withObj (base 0) 2 0xB 0 0x1000 5).setH 3 ⟨2, 0⟩) [(1, 8), (2, 0x1122334455667788)]
  { s with mem := s.mem.putLE (memKey 1 0 0 0x50008) 8 0x8887868584838281 }

/-- Bytes 0x81 to 0x88 at the place `a` of local memory. -/
def local8 (a : Nat) : State :=
  let s := regs (base 0) [(1, word a), (2, 0x1122334455667788)]
  { s with lmem := s.lmem.putLE a 8 0x8887868584838281 }

/-- The loads and the stores of both. -/
def loads (h : BitVec 4) : List Instr := [.ldb 4 1 h 0, .ldbu 4 1 h 0, .ldh 4 1 h 0, .ldhu 4 1 h 0, .ldw 4 1 h 0, .ldwu 4 1 h 0, .ldd 4 1 h 0]

/-- The stores of x2. -/
def stores (h : BitVec 4) : List Instr := [.stb 2 1 h 0, .sth 2 1 h 0, .stw 2 1 h 0, .std 2 1 h 0]

theorem wit_LocalLoadResult :
    ((
      (loads 0).all (fun i => match loadForm i with
      | some (d, _, _, _, n, ext) => ans i (local8 0x3F3F8) (((local8 0x3F3F8).setX d (ext ((local8 0x3F3F8).lmem.getLE 0x3F3F8 n))).retire) &&
          !(local8 0x3F3F8).lmem.poisoned 0x3F3F8 n && decide (0x3F3F8 % n = 0 ∧ 0x3F3F8 + n ≤ 0x3F400)
      | none => false)) &&
    (
      let s := regs (base 0) [(1, 0x3F408)]
      ans (.ldd 4 1 0 0) s (s.setX 4 0x3F408).retire && ans (.ldb 4 1 0 1) s (s.setX 4 (word (2 ^ 64 - 12))).retire && ans (.ldbu 4 1 0 1) s (s.setX 4 0xF4).retire) &&
    (
      let s := regs (base 0) [(1, 0x3FFF8)]
      ans (.ldd 4 1 0 0) s (s.setX 4 0).retire) &&
    (
      let s := (regs (base 0) [(1, 0x200FF8)])
      decide ((0x200FF8 : Int) + 8 ≤ 0x201000) && ans (.ldd 4 1 0 0) s (s.setX 4 (s.eventRead 0 0xFF8)).retire)) = true := by
  decide +kernel

theorem wit_LocalAccessTraps :
    ((
      let s := regs (base 0) [(1, 0)]
      ans (.ldd 4 1 0 0x1FF) s (raised s Cause.hBound (word (2 ^ 48 - 8)))) &&
    (
      let s := regs (base 0) [(1, 0x201000)]
      ans (.stb 4 1 0 0) s (raised s Cause.hBound 0x201000) && ans (.ldd 4 1 0 0x1FF) s (s.setX 4 (s.eventRead 0 0xFF8)).retire) &&
    (
      let s := regs (base 0) [(1, 1)]
      ans (.ldh 4 1 0 0) s (raised s Cause.hAlign 1)) &&
    (
      let s := regs (base 0) [(1, 0x200000)]
      ans (.stw 4 1 0 0) s (raised s Cause.hAlign 0x200000)) &&
    (
      let s := regs (base 0) [(1, 0x40000)]
      ans (.ldb 4 1 0 0) s (raised s Cause.windowScalar 0x40000)) &&
    (
      let s := regs (base 0) [(1, 0x1FFFFC)]
      ans (.stw 4 1 0 0) s (raised s Cause.windowScalar 0x1FFFFC))) = true := by
  decide +kernel

theorem wit_LocalStoreResult :
    ((
      (stores 0).all (fun i => match storeForm i with
      | some (d, _, _, _, n) => let s := local8 0x3F3F8
        let t := (s.localWrite 0 0x3F3F8 (leBytes n (s.x d).toNat)).retire
        ans i s t && decide (t.lmem.get 0x3F3F8 = 0x88) && decide (t.lmem.get (0x3F3F8 + n) = s.lmem.get (0x3F3F8 + n))
      | none => false)) &&
    (
      (stores 0).all (fun i => match storeForm i with
      | some (d, _, _, _, n) => let s := local8 0x3F400
        let t := (s.localWrite 0 0x3F400 (leBytes n (s.x d).toNat)).retire
        ans i s t && decide (t.lmem = s.lmem)
      | none => false)) &&
    (
      let s := regs (base 0) [(1, 0x3F410), (2, 5)]
      after (.std 1 1 0 0) s (fun t => decide ((t.ctx 0 0).regs[2]? = some 0x3F410)))) = true := by
  decide +kernel

theorem wit_GlobalLoadResult :
    (
      (loads 3).all (fun i => match loadForm i with
      | some (d, _, _, _, n, ext) => okM (checkHandle (data.hreg 3) 8 (loadNeed n)) data (fun acc u =>
          let p := u.l1Line 0 1 (u.accLeaf acc.ent) ((acc.ent.base + acc.off) / 128) ((acc.homeAt 0).lineOf 8) none ((2 ^ n - 1) * 2 ^ 8)
          decide (acc.ent.fmt = 0) && decide (u.ctxidOf 0 = 1) && decide (u.reshaping 1 (u.path 1 (acc.ent.leaf 0)) = none) && u.curCore.wq.isEmpty &&
          decide (acc.homeAt 0 = .mem (memKey 1 0 0 0x50008)) && !u.hostDenies (acc.homeAt 0) && decide ((acc.ent.base + acc.off) % 128 = 8) &&
          !lineBad p.1.poison 8 n && ans i data (p.2.setX d (ext (leNat ((p.1.data.drop 8).take n)))).retire &&
          decide (leNat ((p.1.data.drop 8).take 8) = 0x8887868584838281))
      | none => false)) = true := by
  decide +kernel

theorem wit_GlobalStoreResult :
    ((
      (stores 3).all (fun i => match storeForm i with
      | some (d, _, _, _, n) => okM (checkHandle (data.hreg 3) 8 (storeNeed n)) data (fun acc u =>
          let entry : WqEntry := ⟨0, .store, 2, 8, acc.ent.base + 8, acc.homeAt 0, acc.ent.leaf 0, leBytes n (data.x d).toNat, false⟩
          decide (acc.ent.fmt = 0) && !u.wxBad (acc.homeAt 0) (leBytes n (data.x d).toNat) && decide (u.mctrs.get (niEndpoint 0) 0 / 2 ^ 39 ≤ u.keygenOf (u.partOfBlock 0)) &&
          decide (u.curCore.wq.length < 16) &&
          ans i data ((u.modCurCore (fun k => { k with wq := k.wq ++ [entry] })).modCurCore (fun k => { k with rollable := false })).retire)
      | none => false)) &&
    (
      let e : WqEntry := ⟨0, .store, 2, 8, 0x80008, .mem (memKey 1 0 0 0x50008), 0, [1], false⟩
      let s := data.modCurCore (fun k => { k with wq := List.replicate 16 e })
      okM (checkHandle (s.hreg 3) 8 (storeNeed 1)) s (fun acc u => decide (acc.ent.fmt = 0) && !u.wxBad (acc.homeAt 0) [0x88] && decide (u.curCore.wq.length = 16) &&
        ans (.stb 2 1 3 0) s (u.modCur (fun x => { x with wait := some .writeRoom }))))) = true := by
  decide +kernel

theorem wit_NibbleStoreResult :
    ((
      let s := regs (local8 0) [(1, 1), (2, 0xF5)]
      ans (.stn 2 1 0 0) s (s.localWrite 0 0 [0x51]).retire && ans (.stn 2 1 0 1) s (s.localWrite 0 1 [0x85]).retire) &&
    (
      let s := regs (base 0) [(1, 0x2FFFFF), (2, 0xF5)]
      ans (.stn 2 1 0 0) s (s.localWrite 0 0x3FFFF [0x50]).retire) &&
    (
      let s := regs (base 0) [(1, 0x80000), (2, 0xF5)]
      ans (.stn 2 1 0 0) s (raised s Cause.windowScalar 0x40000)) &&
    (
      let s := regs (base 0) [(1, 0x300000), (2, 0xF5)]
      ans (.stn 2 1 0 0) s (raised s Cause.windowScalar 0x180000)) &&
    (
      okM (checkHandle (data.hreg 3) 4 (storeNeed 1)) data (fun acc u =>
      let entry : WqEntry := ⟨0, .nib false 8, 2, 4, acc.ent.base + 4, acc.homeAt 0, acc.ent.leaf 0, [], false⟩
      decide (acc.ent.fmt = 0) && !u.wxBad (acc.homeAt 0) [8] &&
      ans (.stn 2 1 3 0) data ((u.modCurCore (fun k => { k with wq := k.wq ++ [entry] })).modCurCore (fun k => { k with rollable := false })).retire))) = true := by
  decide +kernel

theorem wit_CheckOrder :
    ((
      decide (data.liveEnt 1 5 = none) && (match data.checkEnt 1 ⟨5, 0⟩ (-1) (loadNeed 8) with
      | .error b => decide (b = ⟨0x10, word (5 * 2 ^ 48 + 2 ^ 48 - 1), 0⟩)
      | .ok _ => false)) &&
    (
      match data.checkEnt 1 ⟨2, 7⟩ 0 (loadNeed 8) with
      | .error b => decide (b = ⟨Cause.hStale, word (2 * 2 ^ 48), 0⟩)
      | .ok _ => false) &&
    (
      match data.checkEnt 1 ⟨2, 0⟩ 0 ⟨[0, 2], 8, true, 8, false, .fetch⟩ with
      | .error b => decide (b = ⟨rightCause 2, word (2 * 2 ^ 48 + 2), 0⟩)
      | .ok _ => false) &&
    (
      let s := data.putEnt (entryOf 2 0x1B 0 0x1000)
      match s.checkEnt 1 ⟨2, 0⟩ 0 (storeNeed 8) with
      | .error b => decide (b = ⟨Cause.syncStore, word (2 * 2 ^ 48), 0⟩)
      | .ok _ => false) &&
    (
      match data.checkEnt 1 ⟨2, 0⟩ 0xFF9 (loadNeed 8) with
      | .error b => decide (b = ⟨Cause.hBound, word (2 * 2 ^ 48 + 0xFF9), 0⟩)
      | .ok _ => false) &&
    (
      match data.checkEnt 1 ⟨2, 0⟩ 4 (loadNeed 8) with
      | .error b => decide (b = ⟨Cause.hAlign, word (2 * 2 ^ 48 + 4), 0⟩)
      | .ok _ => false) &&
    (
      match data.checkEnt 1 ⟨2, 0⟩ 0xFFC (atomNeed 8) with
      | .error b => decide (b = ⟨Cause.hBound, word (2 * 2 ^ 48 + 0xFFC), 0⟩)
      | .ok _ => false) &&
    (
      match data.checkEnt 1 ⟨2, 0⟩ 4 (atomNeed 8) with
      | .error b => decide (b = ⟨Cause.atomicAlign, word (2 * 2 ^ 48 + 4), 0⟩)
      | .ok _ => false) &&
    (
      match data.checkEnt 1 ⟨2, 0⟩ 0xFF8 (loadNeed 8) with
      | .ok e => decide (data.liveEnt 1 2 = some e)
      | .error _ => false)) = true := by
  decide +kernel

/-- Object 6, a gang window, named by h7. -/
def window : State := regs ((withObj (base 0) 6 3 15 0x40000 7).setH 7 ⟨6, 0⟩) [(1, 8), (2, 5)]

theorem wit_GangWindowAccess :
    ((
      okM (checkEntry (window.hreg 7) 8 (loadNeed 8)) window (fun e u => decide (e.fmt = 15) && decide (u.gangTarget 8 = some (0, 8)) && decide (u.curCtx.wait = none) && decide (window.curCtx.wait = none) &&
      (let v := u.modCur (fun x => { x with access := some ⟨e, 8, []⟩ })
       let p := v.newTag 0
       ans (.ldd 4 1 7 0) window ((p.2.sendLocal 0 0x0C p.1 3 8 6 8 true []).modCur (fun x => { x with wait := some (.remote p.1) }))))) &&
    (
      okM (checkEntry (window.hreg 7) 8 (loadNeed 1)) window (fun e _ =>
        let s := window.modCur (fun x => { x with wait := some (.remote 9), replies := [⟨9, 0x40, [0x85], 0⟩], access := some ⟨e, 8, []⟩ })
        ans (.ldb 4 1 7 0) s (((s.modCur (fun x => { x with replies := [] })).modCur (fun x => { x with wait := none, access := none, noFill := false })).setX 4 (word (2 ^ 64 - 0x7B))).retire)) &&
    (
      okM (checkEntry (window.hreg 7) 8 (storeNeed 4)) window (fun e u => decide (e.fmt = 15) && !u.curCtx.sig.live && decide (u.curCore.rfcnt < 255) &&
      (let p := u.newTag 0
       let v := p.2.sendLocal 0 0x0B p.1 2 8 6 8 false [5]
       ans (.stw 2 1 7 0) window (v.modCurCore (fun k => { k with rfcnt := k.rfcnt + 1 })).commit)))) = true := by
  decide +kernel

theorem wit_DrainedStoreReachesMemory :
    (
      let s := data
      let t := storeAt 0 256 0 0 (.mem (memKey 1 0 0 0x50000)) [1, 2, 3] 5 0 [] s
      s.inService (memKey 1 0 0 0x50000) && decide (s.forwardTo (memKey 1 0 0 0x50000) = []) && decide (s.jobs = []) && decide (s.guarded (.mem (memKey 1 0 0 0x50000)) [1, 2, 3] (s.roMask (memKey 1 0 0 0x50000) 3 5) = 5) &&
      decide (s.roMask (memKey 1 0 0 0x50000) 3 5 = 5) && decide (s.roByte (memKey 1 0 0 0x50000) 7 = 7) &&
      decide (t.mem.get (memKey 1 0 0 0x50002) = 3) && decide (t.mem.get (memKey 1 0 0 0x50001) = 0)) = true := by
  decide +kernel

/-! ## Releases, atomics, objects -/

/-- Whether a release goes through. -/
def settledB (s : State) (scope : Nat) : Bool := @decide (settled s scope) (by unfold settled; infer_instance)

/-- Whether an acquire goes through. -/
def acquirableB (s : State) (scope : Nat) : Bool := @decide (acquirable s scope) (by unfold acquirable; infer_instance)

/-- The context with virtual cache 1 of 128 KiB under memory. -/
def withVc (s : State) : State := { s with procs := s.procs.map (fun (p : Nat × Proc) => (p.1, { p.2 with vcs := [(1, ⟨0, 1, 0, 0, [], none, none, [], []⟩)] })) }

theorem wit_FenceResult :
    ((
      [(0 : Nat), 1, 2, 3].all (fun sc => let s := regs data [(1, word sc)]
        settledB s sc && acquirableB (s.release 0 sc) sc && ans (.fence 1) s ((s.release 0 sc).acquire 0 sc).retire)) &&
    (
      let s := regs (withVc data) [(1, 0x41)]
      (s.vc 1 1).isSome && settledB s 0x41 && acquirableB (s.release 0 0x41) 0x41 && ans (.fence 1) s ((s.release 0 0x41).acquire 0 0x41).retire) &&
    (
      let s := regs data [(1, 0x100)]
      ans (.fence 1) s (raised s Cause.illRsv (word (2 ^ 32 + (encode (.fence 1)).toNat)))) &&
    (
      [(4 : Nat), 0x40, 0x80, 0xFF].all (fun sc => let s := regs data [(1, word sc)]
        ans (.fence 1) s (raised s Cause.vcRange 6))) &&
    (
      let s := regs data [(1, 0x7F)]
      ans (.fence 1) s (raised s Cause.vcUndef 0x3F00))) = true := by
  decide +kernel

theorem wit_AtomicAtHome :
    (
      let a : Acc := ⟨entryOf 2 0xB 0 0x1000, 8, [(0, .mem (memKey 1 0 0 0x50008))]⟩
      data.inService (memKey 1 0 0 0x50008) && !data.mem.poisoned (memKey 1 0 0 0x50008) 8 && !data.wxBad (.mem (memKey 1 0 0 0x50008)) [1] &&
      [0, 1, 2, 3, 4, 5, 6, 7, 8, 9].all (fun m => match data.atomHome 0 1 a m 8 2 3 5 2 with
        | .ok p => decide (p.1 = 0x8887868584838281) && (p.2.sync.look (4 * (memKey 1 0 0 0x50008 / 128))).isSome &&
            decide (p.2.mem.getLE (memKey 1 0 0 0x50008) 8 = (combine m 8 0x8887868584838281 3 5).getD 0x8887868584838281)
        | .error _ => false)) = true := by
  decide +kernel

/-- The addresses of `data` for an atomic: x1 = 8, x2 the operand, x4 the word expected. -/
def atoms : State := goodBlock (regs data [(2, 3), (4, word 0x8887868584838281)])

/-- An atomic of `atoms` and its result by the statement. -/
def atomic (s : State) (i : Instr) : Bool := match amoForm i with
  | some (d, a, b, h, ord, m, n) => okM (checkHandle ((closed s).hreg h.toNat) (s.x a).toInt (atomNeed n)) (closed s) (fun acc u =>
      let leaf := u.accLeaf acc.ent
      let la := (acc.ent.base + acc.off) / 128
      let scope := u.curCtx.scope.toNat % 256
      let v := ((releasedIf u (ord = 2 ∨ ord = 3) scope).snoop 1 0 la).coloured 0 1 leaf la (fun s => s.pathClean 0 1 leaf la) |>.countOwn 0 (acc.homeAt 0)
      decide (acc.ent.fmt = 0) && decide (u.ctxidOf u.cur.1 = 1) && !u.hostDenies (acc.homeAt 0) &&
      (match u.scopeCheck 1 leaf scope with
        | .ok _ => true
        | .error _ => false) && decide (u.reshaping 1 (u.path 1 leaf) = none) && u.curCore.wq.isEmpty && settledB u scope &&
      (match ({ v with colour := some (parity (v.core 0).snapGen) } : State).atomHome 0 1 acc m n ord ((s.x b).toNat % 2 ^ (8 * n)) ((s.x d).toNat % 2 ^ (8 * n)) scope with
        | .ok p =>
          let z := { p.2 with colour := none }
          acquirableB z scope && ans i s (committed ((acquiredIf z (ord = 1 ∨ ord = 3) scope).setX d (oldValue m n p.1)) false)
        | .error _ => false))
  | none => false

theorem wit_AtomicResult :
    (([Instr.amoSwap 4 1 2 3 0 0, .amoCas 4 1 2 3 2 0, .amoAdd 4 1 2 3 0 1, .amoAnd 4 1 2 3 2 1, .amoOr 4 1 2 3 0 0, .amoXor 4 1 2 3 2 0, .amoMin 4 1 2 3 0 1, .amoMax 4 1 2 3 2 1, .amoMinu 4 1 2 3 0 0, .amoMaxu 4 1 2 3 2 0, .amoFaddS 4 1 2 3 2].all (atomic atoms)) &&
    ([Instr.amoSwap 0 1 2 3 1 0, .amoCas 0 1 2 3 3 0, .amoAdd 0 1 2 3 1 1, .amoAnd 0 1 2 3 3 1, .amoOr 0 1 2 3 1 0, .amoXor 0 1 2 3 3 0, .amoMin 0 1 2 3 1 1, .amoMax 0 1 2 3 3 1, .amoMinu 0 1 2 3 1 0, .amoMaxu 0 1 2 3 3 0, .amoFaddS 0 1 2 3 3].all (atomic atoms))) = true := by
  decide +kernel

theorem wit_HandleCheckTraps :
    ((
      let s := regs data [(1, 0x1000)]
      (loads 3).all (fun i => match loadForm i with
      | some (_, _, _, _, n, _) => trapM (checkEntry (s.hreg 3) 0x1000 (loadNeed n)) s (fun c v p u => decide (c = Cause.hBound) &&
          ans i s (u.takeTrap 0 0 ⟨c, v, 0, p, u.curCtx.pc⟩))
      | none => false)) &&
    (
      (stores 9).all (fun i => match storeForm i with
      | some (_, _, _, _, n) => trapM (checkEntry (data.hreg 9) 8 (storeNeed n)) data (fun c v p u => decide (c = 0x10 ∨ c = Cause.hInvalid) &&
          ans i data (u.takeTrap 0 0 ⟨c, v, 0, p, u.curCtx.pc⟩))
      | none => false)) &&
    (ans (.amoAdd 4 1 2 0 0 1) atoms (raised (closed atoms) Cause.hRightA 3) && ans (.redAdd 1 2 0 0 1) atoms (raised (closed atoms) Cause.hRightA 3)) &&
    (
      let s := regs atoms [(1, 4)]
      trapM (checkHandle ((closed s).hreg 3) 4 (atomNeed 8)) (closed s) (fun c v p u => decide (c = Cause.atomicAlign) &&
        ans (.amoAdd 4 1 2 3 0 1) s (u.takeTrap 0 0 ⟨c, v, 0, p, u.curCtx.pc⟩) && ans (.redMaxu 1 2 3 0 1) s (u.takeTrap 0 0 ⟨c, v, 0, p, u.curCtx.pc⟩)))) = true := by
  decide +kernel

theorem wit_ReductionResult :
    (
      [Instr.redAdd 1 2 3 0 1, .redAnd 1 2 3 1 0, .redOr 1 2 3 0 1, .redXor 1 2 3 0 1, .redMin 1 2 3 0 1, .redMax 1 2 3 1 1, .redMinu 1 2 3 0 1, .redMaxu 1 2 3 0 1,
       .redFaddS 1 2 3 0, .redFmaxS 1 2 3 1].all (fun i => match redForm i with
      | some (_, b, _, rel, m, n) => okM (checkHandle ((closed atoms).hreg 3) 8 (atomNeed n)) (closed atoms) (fun acc u =>
          let scope := u.curCtx.scope.toNat % 256
          let v := releasedIf u (rel = true) scope
          let operand := (atoms.x b).toNat % 2 ^ (8 * n)
          let entry : WqEntry := ⟨0, .red m n (word operand) rel scope, acc.ent.index, acc.off, acc.ent.base + acc.off, acc.homeAt 0, acc.ent.leaf 0, [], false⟩
          settledB u scope && !v.wxBad (acc.homeAt 0) (leBytes n (redNew m n (leNat (v.homeRead (acc.homeAt 0) n).1) operand)) &&
          decide (v.curCore.wq.length < 16) &&
          ans i atoms (committed (v.modCurCore (fun k => { k with wq := k.wq ++ [entry] })) false))
      | none => false)) = true := by
  decide +kernel

theorem wit_HandleRegisterResult :
    ((
      let s := regs data [(1, 0x100000002)]
      let t := current s
      ans (.hset 9 1) s (t.setH 9 ⟨2, 0⟩).retire) &&
    (
      let s := regs data [(1, 0x100010002)]
      ans (.hset 9 1) s (raised (current s) Cause.hStale (word (2 * 2 ^ 48)))) &&
    (
      let s := regs data [(1, 0x10002)]
      ans (.hset 9 1) s ((current s).setH 9 ⟨2, 0⟩).retire) &&
    (ans (.hget 1 3) data (data.setX 1 0x100000002).retire && ans (.hget 1 0) data (data.setX 1 0).retire) &&
    (
      match (current data).liveEnt 1 2 with
      | some e => decide (e.gen = 0) && ans (.hinfo 1 3) data ((current data).setX 1 (word (e.place * 2 ^ 56 + e.acct * 2 ^ 50 + e.fmt * 2 ^ 46 + e.cbslot * 2 ^ 34 + e.rights * 2 ^ 16 + e.gen))).retire &&
          ans (.hlen 1 3) data ((current data).setX 1 0x1000).retire
      | none => false) &&
    (ans (.hlen 1 7) window ((current window).setX 1 0x40000).retire) &&
    (ans (.hinfo 1 0) data (data.setX 1 0x30000).retire && ans (.hlen 1 0) data (data.setX 1 0x40000).retire)) = true := by
  decide +kernel

theorem wit_SubObjectResult :
    ((
      let s := regs data [(1, word (3 * 2 ^ 57 + 15 * 2 ^ 53 + 0x100)), (2, word (0xF00))]
      let t := current s
      match t.liveEnt 1 2, t.freeEntry 1, t.ent 1 3 with
      | some src, some n, some old => decide (n = 3) && decide (old.len = 0) &&
          (let e := subEnt src n old.key 1 1 0x100 0xF00 3 15
           ans (.hsub 4 1 2 3) s (((t.recordMap 1 src).putEnt e).setX 4 (word (2 ^ 32 + 65536 + 3))).retire)
      | _, _, _ => false) &&
    (
      let s := regs data [(1, word (1 * 2 ^ 57 + 0x101)), (2, word (15 * 2 ^ 48 + 0xF00))]
      ans (.hsub 4 1 2 3) s (raised (current s) Cause.hBound (word (2 * 2 ^ 48 + 0x101)))) &&
    (
      let s := regs data [(1, word (6 * 2 ^ 57)), (2, word (15 * 2 ^ 48 + 0xF00))]
      ans (.hsub 4 1 2 3) s (raised (current s) Cause.hWx (word (2 * 2 ^ 48)))) &&
    (
      let s := regs data [(1, word (1 * 2 ^ 57 + 0x100)), (2, word (15 * 2 ^ 48 + 0xF00))]
      after (.hsub 4 1 2 3) s (fun t => decide ((t.liveEnt 1 15).map (fun e => (e.base, e.len, e.rights)) = some (0x80100, 0xF00, 1))))) = true := by
  decide +kernel

/-- A context that may allocate: account 0 has 4 pages of tier 0, and 8 pages are reserved. -/
def roomy (len : Word) (b : Word) : State :=
  let s := regs data [(1, len), (2, b)]
  let s := { s with mem := (s.mem.putLE (memKey 1 0 0 0x40000) 4 1).putLE (memKey 1 0 0 0x40004) 4 4 }
  goodBlock { s with procs := s.procs.put 1 { placedProc with otlen := 16, resH := 8, usedH := 1 } }

theorem wit_ObjectLifetime :
    ((
      let s := roomy 0x10001 (word (3 * 2 ^ 14))
      let t := current (closed s)
      match t.proc? 1, t.freeEntry 1, t.ent 1 3 with
      | some p, some k, some old => decide (k = 3) && decide ((t.part p.part).slices.get 0 [] ≠ []) && decide (t.mem.getLE (t.acctKey p 0 0) 4 = 1) &&
          decide (t.mem.getLE (t.acctKey p 0 0 + 4) 4 = 4) && decide (p.usedH + 2 ≤ p.resH) &&
          (let r := (t.addUsed 1 0 0 2 false).makeObject 1 k old.key 1 0x10001 3 0 0 0 0
           ans (.oalloc 4 1 2) s (committed ((r.2.putEnt r.1).setX 4 (word (2 ^ 32 + r.1.gen * 65536 + r.1.index))) false))
      | _, _, _ => false) &&
    (
      let s := roomy 0 0
      ans (.oalloc 4 1 2) s (raised (current (closed s)) Cause.hInvalid (word (2 ^ 32)))) &&
    (
      let s := roomy 1 (word (4 * 2 ^ 14))
      ans (.oalloc 4 1 2) s (raised (current (closed s)) Cause.hWx 0)) &&
    (
      let s := roomy 0x30001 0
      ans (.oalloc 4 1 2) s (raised (current (closed s)) Cause.quota (word (4 * 2 ^ 32)))) &&
    (
      let s := regs data [(1, 0x100000002)]
      let s := { s with maps := [(memKey 1 0 0 0x22000, ⟨1, 2, [], false, 0, 1, 0, none⟩)] }
      let t := current s
      match t.ent 1 2, t.maps.look (t.tableKey 1 0x22000) with
      | some e, some r => decide (e.pmap = 0x22000 ∧ r.alloc = 2 ∧ r.transit = none ∧ e.owner = 1) && ans (.ofree 1) s (t.freeObject 1 (t.tableKey 1 0x22000) r 0x22000).retire
      | _, _ => false) &&
    (
      let s := regs data [(1, 2)]
      let s := { s with maps := [(memKey 1 0 0 0x22000, ⟨1, 5, [], false, 0, 1, 0, none⟩)] }
      match (current s).ent 1 2 with
      | some e => ans (.ofree 1) s ((current s).freeEnt e).retire
      | none => false) &&
    (
      let s := regs data [(1, 0x1FFFF0003)]
      match (current s).ent 1 3 with
      | some e => decide (e.len = 0 ∧ e.gen = 0) && ans (.ofree 1) s (current s).retire
      | none => false) &&
    (
      let s := regs data [(1, 0x100010002)]
      ans (.ofree 1) s (raised (current s) Cause.hStale (word (2 * 2 ^ 48)))) &&
    (
      let s := (regs data [(1, 2)]).putEnt { entryOf 2 0xB 0 0x1000 with owner := 2 }
      ans (.ofree 1) s (raised (current s) Cause.hInvalid (word (2 * 2 ^ 48 + 4 * 2 ^ 32))))) = true := by
  decide +kernel

/-! ## Synchronisation, virtual caches, regions, helpers -/

theorem wit_FenceResults :
    ((
      let t := (data.drain 0).cleanRemote 1
      decide (t.curCore.rfcnt = 0) && !t.remoteBusy && decide (t.curCtx.deferred.find? (fun d => d.point == .rfence) = none) && ans .rfence data t.retire) &&
    (
      let d : Deferred := ⟨0x30, 7, .rfence, 3⟩
      let s := data.modCur (fun x => { x with deferred := [⟨0x31, 8, .lfence, 0⟩, d] })
      let t := (s.drain 0).cleanRemote 1
      ans .rfence s (delivered t d)) &&
    (
      let s := data.modCurCore (fun k => { k with rfcnt := 1 })
      ans .rfence s (waiting ((s.drain 0).cleanRemote 1) .remoteIdle))) = true := by
  decide +kernel

theorem wit_EventUnitResult :
    ((
      let s := (regs data [(1, 31)]).setLine 0 31 ⟨5, true⟩
      let t := (s.setLine 0 31 ELine.zero).takeValue 31 4 5
      acquirableB t 1 && ans (.wait 4 1) s (t.acquire 0 1)) &&
    (
      let s := regs data [(1, 0)]
      ans (.wait 4 1) s (waiting s (.line 0 4))) &&
    (
      let s := goodBlock (regs data [(1, 31), (2, 0x100000005)])
      let t := (closed s).release 0 1
      settledB (closed s) 1 && ans (.evsig 1 2) s (committed (t.signal 0 31 5) false)) &&
    (
      let s := goodBlock (regs data [(1, 0x2000F8), (2, 6)])
      let t := (closed s).release 0 1
      ans (.std 2 1 0 0) s (committed (t.signal 0 31 6) false)) &&
    (
      let s := goodBlock (regs data [(1, 15), (2, 0)])
      let t := (closed s).release 0 1
      decide ((t.ebar 0 15).gen = 0) && ans (.barEvent 4 1 2) s ((committed ((t.wakePause 0).setEbar 0 15 ⟨1, 0, []⟩) true).modCur (fun x => { x with barWait := some ⟨true, 15, 0, 4, false⟩, wait := some (.barEvent 15 0) }))) &&
    (
      let s := (regs data [(1, 0), (2, 255)]).setEbar 0 0 ⟨255, 2, []⟩
      ans (.barEvent 4 1 2) s ((committed (((closed s).release 0 1).setEbar 0 0 ⟨255, 2, [(0, 0)]⟩) true).modCur (fun x => { x with barWait := some ⟨true, 0, 255, 4, false⟩, wait := some (.barEvent 0 255) }))) &&
    (
      let s := regs data [(1, 0), (2, 255)]
      ans (.barEvent 4 1 2) s (raised ((closed s).release 0 1) Cause.barStale 0)) &&
    (
      let s := (regs data [(1, 1), (2, 3)]).setEbar 0 1 ⟨3, 2, [(0, 0)]⟩
      ans (.barEvent 4 1 2) s (raised ((closed s).release 0 1) Cause.barOverrun (word (3 * 65536 + 1))))) = true := by
  decide +kernel

/-- Object 4, a barrier named by h5: NEED `need`, generation `gen`; x2 is `g`. -/
def barrier (need gen : Nat) (g : Word) : State :=
  let s := regs ((withObj (base 0) 4 16 0 0x1000 6).setH 5 ⟨4, 0⟩) [(2, g)]
  s.putObar (.mem (memKey 1 0 0 0x60000)) { s.obar (.mem (memKey 1 0 0 0x60000)) with need := need, gen := gen, have_ := 0, scope := 2 }

/-- The statement of `bar` on the object. -/
def barObj (s : State) (g : Nat) : Bool := okM (barAccess (s.hreg 5) false) (closed s) (fun a u =>
  let home := a.homeAt 0
  let t := u.release u.cur.1 (u.obar home).scope
  let o := t.obar home
  let after := if max o.need 1 ≤ o.have_ + 1 then t.putObar home { o with have_ := 0, gen := (o.gen + 1) % 2 ^ 32 } else t.putObar home { o with have_ := o.have_ + 1 }
  let z := (committed after true).modCur (fun x => { x with barWait := some ⟨false, 4, g, 4, false⟩, wait := some (.barObject 4 g) })
  decide (a.peer? = none) && settledB u (u.obar home).scope && (if g = o.gen then
    ans (.barObject 4 2 5) s (if (z.obar home).gen ≠ g then (z.stepGangs 1 4 g).foldl (fun s i => s.armStep i) z else z)
    else ans (.barObject 4 2 5) s (raised t Cause.barStale (word (4 * 2 ^ 48 + o.gen * 65536)))))

/-- Object 4, named by h5, is page 5 of entry 7 of context 1 of device 3; x2 is `g`. -/
def farBarrier (g : Word) : State :=
  regs ((withObj (base 0) 4 16 0 0x1000 (3 * 2 ^ 58 + 3 * 2 ^ 52 + 2 ^ 36 + 7 * 2 ^ 20 + 5)).setH 5 ⟨4, 0⟩) [(2, g)]

/-- A context that waits for answer 9, which brings `gen`. -/
def answered (s : State) (a : Option Acc) (gen : Word) : State :=
  s.modCur (fun x => { x with wait := some (.remote 9), access := a, replies := [⟨9, 0x43, [gen], 0⟩] })

theorem wit_ObjectBarrierResult :
    ((barObj (barrier 1 0 0) 0 && barObj (barrier 2 5 5) 5 && barObj (barrier 2 0xFFFFFFFF 0xFFFFFFFF) 0xFFFFFFFF) &&
    (
      let s := barrier 1 3 2
      okM (barAccess (s.hreg 5) false) (closed s) (fun a u => settledB u (u.obar (a.homeAt 0)).scope && decide ((u.obar (a.homeAt 0)).gen = 3)) &&
        after (.barObject 4 2 5) s (fun t => decide (t.curCtx.ecause = word Cause.barStale) && decide (t.curCtx.eval = word (4 * 2 ^ 48 + 3 * 65536)))) &&
    (
      let s := farBarrier 6
      okM (barAccess (s.hreg 5) false) (closed s) (fun a u =>
        let t := (u.release 0 3).modCur (fun x => { x with access := some a })
        let (tag, v) := t.newTag 0
        decide (a.peer? = some (3, 1, 7, 5, 0)) && decide (u.curCtx.wait = none) && settledB u 3 && decide (t.curCtx.wait = none) &&
        ans (.barObject 4 2 5) s ((v.sendRemote 3 0 0 false true 4 0 (v.barMsg 3 tag 5 0 1 7 (some 6))).modCur
          (fun x => { x with wait := some (.remote tag) })))) &&
    (
      let s := farBarrier 6
      okM (barAccess (s.hreg 5) false) s (fun a _ =>
        let t := s.modCur (fun x => { x with wait := none, access := none, replies := [] })
        okM (barAccess (s.hreg 5) false) (answered s (some a) 6) (fun b u => decide (b = a) && decide (u.curCtx.wait = some (.remote 9))) &&
        ans (.barObject 4 2 5) (answered s (some a) 6) ((committed t true).modCur (fun x => { x with
          barWait := some ⟨false, 4, 6, 4, false⟩, wait := some (.barObject 4 6) })) &&
        ans (.barObject 4 2 5) (answered s (some a) 7) (raised t Cause.barStale (word (4 * 2 ^ 48 + 7 * 65536))) &&
        ans (.barObject 4 2 5) ((super (answered s (some a) 6)).setX 2 6) ((committed ((super t).setX 2 6) true).modCur (fun x => { x with
          supBar := some ⟨false, 4, 6, 4, false⟩, wait := some (.barObject 4 6) })))) &&
    (
      let s := barrier 1 6 5
      let w : BarWait := ⟨false, 4, 5, 4, false⟩
      decide (s.objFar 1 4 = none) && acquirableB s 0 && decide (s.objScope 1 4 = 0) && okM (finishBar w) s (fun _ u =>
        same u (((s.acquire 0 0).setX 4 6).modCur (fun x => { x with barWait := none, wait := none })))) &&
    (
      let s := farBarrier 6
      let w : BarWait := ⟨false, 4, 6, 4, false⟩
      decide (s.objFar 1 4 = some (3, 1, 7, 5, 0)) && okM (finishBar w) (answered s none 6) (fun _ u =>
        same u (s.modCur (fun x => { x with wait := some (.barObject 4 6) }))) &&
        okM (finishBar w) (answered s none 7) (fun _ u => decide (u.x 4 = 7) && decide (u.curCtx.wait = none))) &&
    (
      let s := barrier 2 5 0
      let m := fun (op : Nat) => { mkMsg 0 12 3 4 0 0x04 9 1 false [q0Word 4 0, q1Word 1 0 0 0 31 0 4, word op, 0] with sdev := 3 }
      !s.bankShut 12 (m 0) && decide ((m 0).req.aop = barrierAop) && (match s.placeOf 12 (m 0) [rS] with
        | .ok pl => decide ((s.obar pl.home).gen = 5) && decide (s.serve 12 (m 0) = some (s.answer 12 (m 0) 0x43 [5] 0)) &&
            (let t := s.withColour (m (2 ^ 32 + 5)) (fun s => (s.objArrive pl.home 5).2)
             decide ((t.obar pl.home).gen = 5) && decide ((t.obar pl.home).have_ = 1) &&
             decide (s.serve 12 (m (2 ^ 32 + 5)) = some (t.answer 12 (m (2 ^ 32 + 5)) 0x43 [5] 0)))
        | .error _ => false))) = true := by
  decide +kernel

theorem wit_MutexResult :
    ((
      let s := goodBlock (regs data [(1, 15)])
      let u := (closed s).setMutex 0 15 ⟨true, 0, 0, 1, []⟩
      acquirableB u 1 && decide (s.curCore.inst = 1) && ans (.lock 1) s (committed (u.acquire 0 1) true)) &&
    (
      let s := (regs data [(1, 0)]).setMutex 0 0 ⟨true, 0, 0, 1, []⟩
      ans (.lock 1) s (raised s Cause.deadlockSelf 0)) &&
    (
      let s := (regs data [(1, 0)]).setMutex 0 0 ⟨true, 0, 3, 1, []⟩
      ans (.lock 1) s (waiting (s.setMutex 0 0 ⟨true, 0, 3, 1, [(0, 0)]⟩) (.mutex 0))) &&
    (
      let s := (regs data [(1, 15)]).setMutex 0 15 ⟨true, 0, 0, 1, []⟩
      ans (.unlock 1) s (committed (((s.release 0 1).wakePause 0).setMutex 0 15 ⟨false, 0, 0, 0, []⟩) true)) &&
    (
      let s := ((regs data [(1, 0)]).setMutex 0 0 ⟨true, 0, 0, 1, [(0, 2)]⟩).setCtx 0 2 { Ctx.zero with live := true, wait := some (.mutex 0) }
      let v := ((s.release 0 1).wakePause 0).setMutex 0 0 ⟨true, 0, 2, 1, []⟩
      ans (.unlock 1) s (committed (v.asCtx 0 2 (fun s => (s.modCur (fun x => { x with wait := none })).commit)) true)) &&
    (
      let s := regs data [(1, 3)]
      ans (.unlock 1) s (raised (s.release 0 1) Cause.mutexOwner 3))) = true := by
  decide +kernel

theorem wit_VirtualCacheResult :
    (
      let s := regs data [(1, word (1 * 2 ^ 32 + 1 * 2 ^ 16 + 63)), (2, 1)]
      let s := { s with procs := s.procs.map (fun (p : Nat × Proc) => (p.1, { p.2 with banks := [(0, 1)] })) }
      match s.proc? 1 with
      | some p => decide (p.vcs.look 63 = none) && decide (vcDepth p.vcs 0 ≤ 5) && (if placeOk 1 1 1 && s.banksOk p 63 1 1 1 then
          ans (.vcdef 1 2) s (s.modProc 1 (fun p => { p with vcs := p.vcs.put 63 ⟨1, 1, 1, 0, [], none, none, [], []⟩ })).retire else false)
      | none => false) = true := by
  decide +kernel

/-- Virtual caches 1 (of size code 1 in the first block) and 2 under it; x1 is `a`. -/
def cached (op : Option (VcOp × VcPhase)) (queued : Option VcOp) (a b : Word) : State :=
  let s := regs data [(1, a), (2, b)]
  { s with procs := s.procs.map (fun (p : Nat × Proc) => (p.1, { p.2 with
      banks := [(0, 3)], vcs := [(1, ⟨1, 1, 1, 0, [], op, queued, [], []⟩), (2, ⟨1, 1, 2, 1, [], none, none, [], []⟩)] })) }

theorem wit_VirtualCacheResult_again :
    ((
      let s := cached none none (word (2 ^ 32 + 2 ^ 16 + 1)) 1
      ans (.vcdef 1 2) s s.retire) &&
    (
      let s := cached none none (word (2 ^ 16 + 1)) 0
      ans (.vcsize 1) s s.retire) &&
    (
      let s := cached none none (word (2 * 2 ^ 16 + 1)) 0
      match s.proc? 1 with
      | some p => placeOk 2 1 1 && s.banksOk p 1 2 1 1 && ans (.vcsize 1) s (s.enterPhase 1 1 (.size 2) .cut).retire
      | none => false) &&
    (
      let s := cached (some (.parent 2, .evict)) none (word (2 * 2 ^ 16 + 1)) 0
      ans (.vcsize 1) s (s.modVc 1 1 (fun c => { c with queued := some (.size 2) })).retire) &&
    (
      let s := cached (some (.parent 2, .evict)) (some (.parent 0)) (word (2 * 2 ^ 16 + 1)) 0
      ans (.vcsize 1) s (raised s Cause.vcBusy 0x100)) &&
    (
      let s := cached none none (word (2 ^ 24 + 2)) 0
      ans (.vcpar 1) s s.retire) &&
    (
      let s := cached none none 2 0
      ans (.vcpar 1) s (s.enterPhase 1 2 (.parent 0) .cut).retire) &&
    (
      let s := cached (some (.size 2, .evict)) none (word (2 ^ 24 + 2)) 0
      let s := { s with procs := s.procs.map (fun (p : Nat × Proc) => (p.1, { p.2 with vcs := p.2.vcs.put 2 ⟨1, 1, 2, 0, [], some (.size 1, .cut), none, [], []⟩ })) }
      ans (.vcpar 1) s (s.modVc 1 2 (fun c => { c with queued := some (.parent 1) })).retire) &&
    (
      let s := cached none none 0 0
      ans (.vcq 4 1) s (s.setX 4 (word (2 ^ 63))).retire) &&
    (
      let s := cached none none 63 0
      ans (.vcq 4 1) s (s.setX 4 0).retire) &&
    (
      let s := cached none none 2 0
      ans (.vcq 4 1) s (s.setX 4 (word (2 ^ 63 + 2 ^ 48 + 2 * 2 ^ 40 + 2 ^ 32))).retire)) = true := by
  decide +kernel

theorem wit_BindAndCleanResult :
    ((
      let s := cached none none (word (0xFF * 256 + 3 * 64 + 2)) 0
      match (current s).liveEnt 1 2 with
      | some e => decide (e.owner = 1 ∧ e.fmt ≠ 15) && ans (.vcbind 1 3) s ((current s).putEnt { e with binds := setBits e.binds 63 48 0xFF02 }).retire &&
          (let u := cached none none 0xC0 0
           ans (.vcunb 1 3) u ((current u).putEnt { e with binds := setBits e.binds 63 48 0 }).retire)
      | none => false) &&
    (
      let s := cached none none 2 0
      match (current s).liveEnt 1 2 with
      | some e => let sel := fun (l : CLine) => decide (e.base / 128 ≤ l.la) && decide (l.la * 128 < e.base + e.len)
        !((current s).cleanVc 1 2 sel).remoteBusy && !((current s).invalVc 1 2 sel).remoteBusy && !(s.cleanVc 1 2 (fun _ => true)).remoteBusy && !(s.invalVc 1 2 (fun _ => true)).remoteBusy &&
        ans (.vcwb 1 1 3) s ((current s).cleanVc 1 2 sel).retire && ans (.vcinv 1 1 3) s ((current s).invalVc 1 2 sel).retire &&
          ans (.vcwb 1 0 0) s (s.cleanVc 1 2 (fun _ => true)).retire && ans (.vcinv 1 0 0) s (s.invalVc 1 2 (fun _ => true)).retire
      | none => false)) = true := by
  decide +kernel

theorem wit_RegionAndHelperResult :
    ((
      let s := base 0
      ans (.rgn 0xABCD) s ((s.openRegion false).modCur (fun x => x.sigOpen (encode (.rgn 0xABCD)))).retire && ans (.rgnx 0) s ((s.openRegion true).modCur (fun x => x.sigOpen (encode (.rgnx 0)))).retire &&
      decide ((s.openRegion true).curCtx.rgnx = true) && decide (s.curCore.snapPhase ≠ 1)) &&
    (
      let s := (base 0).modCur (fun x => { x with restarting := true, rgnskip := 3 })
      decide ((s.openRegion false).curCtx.rgnskip = 3) && ans (.rgn 1) s ((s.openRegion false).modCur (fun x => x.sigOpen (encode (.rgn 1)))).retire) &&
    (ans (.rgn 1) (super (base 0)) ((super (base 0)).modCur (fun x => x.sigOpen (encode (.rgn 1)))).retire) &&
    (
      let s := regs (base 0) [(1, word (2 ^ 32 + 2)), (2, 0x3FFFF)]
      ans (.rpt 1 2 15) s (s.retire.modCur (fun x => { x with rpt := some ⟨16, [], 4, 2, 0x3FFFF, 0, 0, true⟩ }))) &&
    (
      let s := regs (base 0) [(1, 2), (2, 0x40000)]
      ans (.rpt 1 2 0) s (raised s Cause.illRsv (word (6 * 2 ^ 32 + (encode (.rpt 1 2 0)).toNat)))) &&
    (
      let s := regs (base 0) [(1, 0x100), (2, 7)]
      decide (searchUp (fun n => !(s.curCore.ctx n).live) 10 1 = some 1) && after (.start 4 1 2) s (fun t => decide ((t.ctx 0 1).pc = 0x100) && (t.ctx 0 1).live && decide (t.x 4 = 1) && decide ((t.ctx 0 1).regs[3]? = some 1))) &&
    (
      let s := (List.range 10).foldl (fun s i => s.modCtx 0 (i + 1) (fun x => { x with live := true })) (base 0)
      ans (.start 4 1 2) s (raised s Cause.helperLimit 10) && ans .hexit s (raised s Cause.helperOrphan 0x7FE)) &&
    (
      let s := ({ base 0 with cur := (0, 1) } : State).modCur (fun x => { x with live := true })
      ans (.start 4 1 2) s (raised s Cause.helperLimit 0xFF) && settledB s 1 &&
      after .hexit s (fun t => !(t.ctx 0 1).live && decide (t.line 0 31 = ⟨2, true⟩))) &&
    (
      let s := base 0
      decide (s.curCore.liveMask = 0) && s.curCore.wq.isEmpty && after .hexit s (fun t => (t.core 0).ended && !(t.ctx 0 0).live)) &&
    (after .yield (base 0) (fun t => decide (t.curCtx.wait = some .yielded)) && after .nop (base 0) (fun t => decide (t.curCtx.pc = 4)) && ans .pause data (data.retire.modCur (fun x => { x with wait := some .pause, pauseLeft := 0 })))) = true := by
  decide +kernel

/-! ## Engine jobs, queues -/

/-- Four words of a record at an offset of local memory; x1 names it. -/
def record (off : Nat) (w : List Nat) : State :=
  let s := goodBlock (regs data [(1, word off)])
  { s with lmem := s.lmem.putRange off (w.flatMap (fun v => leBytes 8 v)) }

/-- Whether a job may be entered. -/
def jobOpenB (s : State) (c q : Nat) : Bool := @decide (jobOpen s c q) (by unfold jobOpen; infer_instance)

theorem wit_CopyIssueResult :
    ((
      let s := record 0 []
      let s := regs s [(1, 4)]
      ans (.cp 4 1) s (raised (closed s) Cause.cpRecord 1) && ans (.mcast 4 1) s (raised (closed s) Cause.cpRecord 1)) &&
    (
      let s := regs (record 0 []) [(1, 0x3FFE8)]
      ans (.cp 4 1) s (raised (closed s) Cause.cpRecord 1)) &&
    (
      let s := record 0 [2 * 2 ^ 48, 2 * 2 ^ 48, 0x20 * 2 ^ 55 + 8, 0]
      !s.scopeOk 1 0x20 && ans (.cp 4 1) s (raised (closed s) Cause.cpRecord 2)) &&
    (
      let s := record 0 [2 * 2 ^ 48, 2 * 2 ^ 48, 2 * 2 ^ 55 + 2 * 2 ^ 40 + 9, 8 * 2 ^ 32 + 8]
      s.scopeOk 1 2 && ans (.cp 4 1) s (raised (closed s) Cause.cpRecord 3)) &&
    (
      let s := record 0 [2 * 2 ^ 48 + 16, 3, 2 ^ 63 + 3 * 2 ^ 55 + 2 * 2 ^ 40 + 8, 8 * 2 ^ 32 + 8]
      s.scopeOk 1 3 && jobOpenB (closed s) 0 1 && ans (.cp 4 1) s (committed (issued (closed s) 1 4 (fun u seq =>
        { Job.new seq 1 0 .copy 3 with srch := u.indexHandle 1 2, srcoff := 16, dsth := u.indexHandle 1 0, dstoff := 3, rows := 2, len := 8, sstride := 8, dstride := 8 })) (s.copyRollable 1 0))) &&
    (
      let s := record 0 [2 * 2 ^ 48 + 128, 0, 2 * 2 ^ 55 + 128, 0x3F380]
      s.scopeOk 1 2 && ans (.mcast 4 1) s (raised (closed s) Cause.mcastMask 0)) &&
    (
      let s := record 0 [2 * 2 ^ 48 + 128, 1, 2 * 2 ^ 55 + 128, 0x3F380]
      decide (onesOf 1 64 = [0]) && (s.gang 0).contains 0 && jobOpenB (closed s) 0 0 && decide (searchUp (fun i => !(s.mcastSlots 0).contains i) 4 0 = some 0) &&
      ans (.mcast 4 1) s (committed (issued (closed s) 0 4 (fun u seq =>
        { Job.new seq 1 0 (.mcast 1) 2 with srch := u.indexHandle 1 2, srcoff := 128, dstoff := 0x3F380, len := 128, rows := 0 })) false))) = true := by
  decide +kernel

/-- The state with one job of queue 0, number 1, of core 0; x1 is its id. -/
def jobs1 (done : Bool) (fault : Nat) (reported : Bool) : State :=
  let s := regs data [(1, 1)]
  let j := { Job.new 1 1 0 .copy 2 with done := done, fault := fault, reported := reported, faultH := 2 }
  (s.modCluster 0 (fun k => { k with jobs := [(0, [j])] })).modCore 0 (fun k => { k with jobSeq0 := 2 })

theorem wit_JobResult :
    ((
      let s := jobs1 false 0 false
      decide (s.jobId 0 1 = some (0, 1)) && (s.findJob 0 0 1).isSome &&
      ans (.jwait 4 1) s (waiting s (.job 0 1)) && ans (.jpoll 4 1) s (s.setX 4 0).retire) &&
    (
      let s := jobs1 true 0 false
      acquirableB s 2 && ans (.jwait 4 1) s ((s.acquire 0 2).setX 4 0).retire && ans (.jpoll 4 1) s ((s.acquire 0 2).setX 4 1).retire) &&
    (
      let s := jobs1 true 3 true
      ans (.jwait 4 1) s ((s.acquire 0 2).setX 4 1).retire && ans (.jpoll 4 1) s ((s.acquire 0 2).setX 4 2).retire) &&
    (
      let s := jobs1 true 3 false
      ans (.jwait 4 1) s (raised (s.reportJob 0 0 1) Cause.jobFault (word (2 ^ 32 + 2 * 256 + 3)))) &&
    (
      let s := regs data [(1, 2)]
      decide (s.jobId 0 2 = none) && ans (.jwait 4 1) s (raised s Cause.jobId 2) && ans (.jpoll 4 1) s (raised s Cause.jobId 2)) &&
    (
      let s := (regs data [(1, 1)]).modCore 0 (fun k => { k with jobSeq0 := 2 })
      decide (s.findJob 0 0 1 = none) && acquirableB s 3 && ans (.jwait 4 1) s ((s.acquire 0 3).setX 4 0).retire && ans (.jpoll 4 1) s ((s.acquire 0 3).setX 4 1).retire) &&
    (
      let s := regs data [(1, 0x10000)]
      ans (.cpjoin 4 1) s (raised s Cause.cpJoin 0)) &&
    (
      let s := regs data [(1, 0x1FFFF)]
      jobOpenB s 0 1 && after (.cpjoin 4 1) s (fun t => decide (t.x 4 = word (2 ^ 28 + 1)) && decide ((t.jobsOf 0 1).length = 1))) &&
    (
      let s := regs data [(1, 2)]
      okM (checkEntry (s.hreg 3) 0 ⟨[], 0, false, 0, false, .write⟩) s (fun e0 u => decide (e0.fmt ≠ 15) && okM (checkEntry (s.hreg 3) 0 ⟨[rW], 0, false, 0, false, .write⟩) u (fun e v =>
        decide (e.tier = 0) && jobOpenB v 0 1 && (match v.requestMove 1 e false (0, jobQueue 0 1, v.curCore.jobSeq 1) with
          | .ok p => p.1 && decide ((v.mapRec 1 e).transit = none) && decide (p.2 = { v with maps := v.maps.put (v.mapKey 1 e) (v.mapRec 1 e) }) && ans (.tmig 4 1 3) s (issued p.2 1 4 (fun _ seq => { Job.new seq 1 0 (.migrate e.pmap) 0 with done := true })).retire
          | .error _ => false)))) &&
    (
      let s := regs data [(1, 1)]
      okM (checkEntry (s.hreg 3) 0 ⟨[rW], 0, false, 0, false, .write⟩) s (fun e v => match v.requestMove 1 e true (0, jobQueue 0 0, v.curCore.jobSeq 0) with
          | .ok _ => false
          | .error b => ans (.tmig 4 1 3) s (v.takeTrap 0 0 ⟨b.cause, b.eval, 0, b.preason, v.curCtx.pc⟩)))) = true := by
  decide +kernel

/-- Object 4, a queue of 16 slots named by h5, of a kind and an element type, with TAIL and HEAD. -/
def queueObj (kind elem tail head : Nat) (closed : Bool) (l : List (BitVec 5 × Word)) : State :=
  let s := regs ((withObj (base 0) 4 0x13 0 0x1000 6).setH 5 ⟨4, 0⟩) l
  let m := s.mem.putLE (memKey 1 0 0 0x60000) 8 (kind * 2 ^ 60 + (if closed then 2 ^ 59 else 0) + elem * 2 ^ 54 + 4 * 2 ^ 43)
  goodBlock { s with mem := m.putLE (memKey 1 0 0 0x60008) 8 (tail * 2 ^ 32 + head) }

/-- A property of the queue and the state after the checks of a queue instruction. -/
def qok (s : State) (rights : List Nat) (use : Use) (kind : Nat) (f : Acc → State → QDesc → Bool) : Bool :=
  okM (queueHandle (s.hreg 5) false rights use) (Sys2Proof.Spec.closed s) (fun acc u =>
    let q := u.qdescAt (acc.homeAt 0) acc.ent.len
    decide (acc.peer? = none) && !q.bad && decide (q.elem ≠ 3) && decide (q.kind = kind) && f acc u q)

theorem wit_QueueResult :
    ((
      let s := queueObj 1 0 20 5 false [(1, 0x3F3C0)]
      qok s [rS, rW] .write 1 (fun acc u q => decide (q.count = 15) && !q.closed && okM (slotPage acc (q.slot q.tail) .write) u (fun _ w =>
        let t := sent w 0 1 acc q 0x3F3C0
        let v := { t with tasks := t.tasks.put 1 { (t.tasks.get 1 ⟨1, 1, 1, 0, .none, [], 0, none, none, false, 0⟩) with children := 1 } }
        ans (.qpost 4 1 5) s (committed ((v.handPacket 1 acc.ent.index q.prio ⟨q.tail, (w.countOwn 0 (acc.homeAt 0)).localWords 0 0x3F3C0, 1, false⟩).setX 4 20) false)))) &&
    (
      let s := queueObj 1 0 21 5 false [(1, 0)]
      qok s [rS, rW] .write 1 (fun acc u q => decide (q.count = 16) && ans (.qpost 4 1 5) s (waiting u (.queueRoom acc.ent.index)))) &&
    (
      let s := queueObj 1 0 21 5 true [(1, 0)]
      qok s [rS, rW] .write 1 (fun acc u q => q.closed && ans (.qpost 4 1 5) s (raised u Cause.qClosed (word (acc.ent.index * 2 ^ 48))))) &&
    (
      let s := queueObj 2 0 15 0 false [(1, 0)]
      qok s [rS, rW] .write 2 (fun acc u q => okM (slotPage acc (q.slot q.tail) .write) u (fun _ w => settledB w 3 &&
        ans (.send 1 5) s (committed (sent (w.release 0 3) 0 1 acc q 0) false)))) &&
    (
      let s := queueObj 2 0 16 0 false [(1, 0)]
      qok s [rS, rW] .write 2 (fun acc u _ => ans (.send 1 5) s (waiting u (.queueRoom acc.ent.index)))) &&
    (
      let s := queueObj 2 0 0 0 true [(1, 0)]
      qok s [rS, rW] .write 2 (fun acc u _ => ans (.send 1 5) s (raised u Cause.qClosed (word (acc.ent.index * 2 ^ 48))))) &&
    (
      let s := queueObj 2 0 0 0xFFFFFFFF false [(1, 0x3F3C0)]
      qok s [rS, rR] .read 2 (fun acc u q => decide (q.count = 1) && okM (slotPage acc (q.slot q.head) .read) u (fun _ w =>
        let m := w.take64 1 acc.ent.index q (acc.homeAt 0) (parity w.curCore.snapGen)
        let t := m.2.putMsg 0 0x3F3C0 m.1.2.1 m.1.2.2
        acquirableB w 3 && acquirableB t 3 && ans (.recv 4 1 5) s (committed ((t.acquire 0 3).setX 4 (word m.1.1)) false) &&
          ans (.qtry 4 1 5) s (committed ((t.acquire 0 3).setX 4 (word (2 ^ 63 + m.1.1))) false)))) &&
    (
      let s := queueObj 2 0 7 7 false [(1, 0)]
      qok s [rS, rR] .read 2 (fun acc u _ => ans (.recv 4 1 5) s (waiting u (.queueMsg acc.ent.index)) && ans (.qtry 4 1 5) s (committed (u.setX 4 0) false))) &&
    (
      let s := queueObj 2 0 7 7 true [(1, 0)]
      qok s [rS, rR] .read 2 (fun acc u _ => ans (.recv 4 1 5) s (raised u Cause.qClosed (word (acc.ent.index * 2 ^ 48))))) &&
    (
      let s := queueObj 2 1 7 7 false [(1, 3), (2, 0x1FFF), (4, 3)]
      qok s [rS, rR] .read 2 (fun _ u _ => ans (.rdqAdd 4 1 2 5) s (committed u false) && ans (.rdqMax 4 1 2 5) s (committed u false))) &&
    (
      let s := queueObj 2 2 7 7 false [(1, 3), (2, 0), (4, 2)]
      qok s [rS, rR] .read 2 (fun acc u _ => ans (.rdqMax 4 1 2 5) s (waiting (u.modCur Ctx.atRdq) (.queueMsg acc.ent.index)))) &&
    (
      let s := queueObj 2 2 8 7 false [(1, 3), (2, 0x1FFF), (4, 2)]
      qok s [rS, rR] .read 2 (fun acc u q => s.curCore.latticeIdle && okM (slotPage acc (q.slot q.head) .read) u (fun _ w =>
        let m := w.take64 1 acc.ent.index q (acc.homeAt 0) (parity w.curCore.snapGen)
        !m.2.rowPoisoned 0 7 127 (64 * 7) 64 && decide (m.1.2.2 = 0))))) = true := by
  decide +kernel

/-! ## Supersteps, system instructions, exceptions -/

/-- Object 8, a job object named by h9: CUR and PHASE, devices by mask. -/
def jobObj (cur phase mask : Nat) : State :=
  let s := (withObj (base 0) 8 (3 + 2 ^ rJ) 0 0x1000 6).setH 9 ⟨8, 0⟩
  let m := (s.mem.putLE (memKey 1 0 0 0x60000) 8 cur).putLE (memKey 1 0 0 0x60008) 8 (phase + 3 * 2 ^ 32)
  { s with mem := (m.putLE (memKey 1 0 0 0x60010) 8 mask).putLE (memKey 1 0 0 0x60018) 8 2 }

/-- The job of object 8 with one sealed generation, 5. -/
def jobSealed : State :=
  let s := super (regs (jobObj 5 0 1) [])
  match jobAccess 9 s with
  | .ok r t => { t with jobs := t.jobs.put r.2.2 { r.2.1 with snaps := [{ Snap.new 5 0 true with sealed := true, manifest := 3 }] } }
  | .error _ _ => s

/-- Whether a number is assigned. -/
def assignedB (n : Nat) : Bool := @decide (assigned n) (by unfold assigned; infer_instance)

/-- Whether a register is only read. -/
def readOnlyB (n : Nat) : Bool := @decide (readOnly n) (by unfold readOnly; infer_instance)

theorem wit_RecoveryResult :
    ((ans .sstep ints (raised (closed ints) Cause.hInvalid (word (6 * 2 ^ 32)))) &&
    (
      let s := (barrier 1 0 0).modCore 0 (fun k => { k with plan := [word (4 * 2 ^ 32)] })
      okM gangBarrier (closed s) (fun r t0 => decide (t0 = closed s) && okM remoteSettled (closed s) (fun _ u =>
        u.curCore.latticeIdle && u.curCtx.deferred.isEmpty && settledB u (u.obar r.2).scope &&
        (let t := (u.release 0 (u.obar r.2).scope).writeBackAll 0
         let v := t.modCurCore (fun k => { k with stepNew := true })
         let z := (committed ((v.noteBarrier r.2).putObar r.2 { v.obar r.2 with have_ := 0, gen := 1 }) true).modCur (fun x => { x with
            barWait := some ⟨false, 4, 0, 0, true⟩, wait := some (.barObject 4 0) })
         decide ((v.obar r.2).gen = 0) && ans .sstep s ((z.stepGangs 1 4 0).foldl (fun s i => s.armStep i) z))))) &&
    (
      let s := jobObj 5 0 2
      okM (jobAccess 9) (closed s) (fun r u => !r.2.1.devmask.testBit 0 && ans (.snap 4 9) s (raised u Cause.hInvalid (word (8 * 2 ^ 32 + 8 * 2 ^ 48))))) &&
    (
      let s := jobObj 5 1 1
      okM (jobAccess 9) (closed s) (fun r u => r.2.1.devmask.testBit 0 && ans (.snap 4 9) s (committed (u.setX 4 5) false))) &&
    (
      let s := jobObj 0xFFFFFFFF 0 1
      okM (jobAccess 9) (closed s) (fun r u => decide ((u.jobWord r.2.1 1).toNat % 4 = 0) && (
        let v := (u.startSnap r.2.2 r.2.1.ctxid r.2.1.handle r.1.ent 0).setX 4 (word (2 ^ 32))
        match v.pendingCut 0 with
        | some (b, m) => ans (.snap 4 9) s (committed (v.cutAt (niEndpoint 0) b m.gen) false)
        | none => false))) &&
    (
      let s := jobObj 5 0 1
      okM (jobAccess 9) s (fun r u => ans (.snapst 4 0 9) s (u.setX 4 (u.jobWord r.2.1 0)).retire && ans (.snapst 4 1 9) s (u.setX 4 (word (3 * 2 ^ 48))).retire)) &&
    (ans (.snapst 4 2 9) ints (raised ints Cause.illRsv (word (encode (.snapst 4 2 9)).toNat))) &&
    (
      let s := regs jobSealed [(1, 4)]
      okM (jobAccess 9) s (fun r u => (u.jobs.look r.2.2).isSome && ans (.rollbk 1 9) s (raised u Cause.hInvalid (word (7 * 2 ^ 32 + 8 * 2 ^ 48))))) &&
    (
      let s := regs jobSealed [(1, 5)]
      okM (jobAccess 9) s (fun r u => match u.jobs.look r.2.2 with
        | some k => u.onChain k 5 && !u.onChain k 4 &&
            decide (k.roll = none) && ans (.rollbk 1 9) s (waiting (u.startRollback r.2.2 r.2.1 0 5) .restart)
        | none => false)) &&
    (
      [(some (0, 5, 0) : Option (Nat × Nat × Nat)), some (0, 5, 2)].all (fun roll =>
      let s := regs (match jobAccess 9 jobSealed with
        | .ok r t => t.modJob r.2.2 (fun j => { j with roll := roll })
        | .error _ t => t) [(1, 5)]
      okM (jobAccess 9) s (fun r u => decide (((u.jobs.look r.2.2).getD r.2.1).roll = roll) &&
        ans (.rollbk 1 9) s (if roll = some (0, 5, 0) then (u.modJob r.2.2 (fun j => { j with roll := none })).retire else waiting u .restart))))) = true := by
  decide +kernel

theorem wit_ControlRegisterResult :
    (([(3 : Nat), 0x48, 0x7FF].all (fun n => !assignedB n && ans (.csrr 1 (BitVec.ofNat 11 n)) ints (raised ints Cause.csrUndef (word n)) && ans (.csrw 1 (BitVec.ofNat 11 n)) ints (raised ints Cause.csrUndef (word n)))) &&
    ([(0x40 : Nat), 0x47].all (fun n => assignedB n && ans (.csrs 1 (BitVec.ofNat 11 n)) ints (raised ints Cause.illPriv (word (encode (.csrs 1 (BitVec.ofNat 11 n))).toNat)))) &&
    ([(0 : Nat), 1, 2, 0x20, 0x21, 0x22, 0x30, 0x31, 0x50, 0x51].all (fun n => readOnlyB n && ans (.csrr 1 (BitVec.ofNat 11 n)) ints (ints.setX 1 (ints.csr n)).retire && ans (.csrw 1 (BitVec.ofNat 11 n)) ints (raised ints Cause.csrRo (word n)))) &&
    ([(0x10 : Nat), 0x11, 0x12, 0x13, 0x14, 0x15].all (fun n => !readOnlyB n && ans (.csrw 3 (BitVec.ofNat 11 n)) ints (ints.setCsr n 7 false).retire)) &&
    (
      let s := (super ints).modCur (fun x => { x with scratch := 8 })
      let t := s.modCore 0 (fun k => { k with sregs := k.sregs.setIfInBounds 3 7 })
      decide (t.x 3 = 7) && ans (.csrs 3 0x47) t (t.setCsr 0x47 7 true).retire && decide ((t.setCsr 0x47 7 true).curCtx.scratch = 15) &&
      decide ((t.setCsr 0x40 (word (2 ^ 48 - 1)) false).curCtx.epc = word (2 ^ 48 - 1)) && decide ((t.setCsr 0x40 (word (2 ^ 48)) false).curCtx.epc = 0)) &&
    (
      let s := ints.modCore 0 (fun k => { k with lqst := 0x1F00 })
      decide ((s.setCsr 0x11 0x100 false).curCore.lqst = 0x1E00) && decide ((s.setCsr 0x11 0x10100 true).curCore.lqst = 0x11E00))) = true := by
  decide +kernel

theorem wit_SupervisorResult :
    ((
      let s := regs ints [(1, 0xFFFFFFFFFFFFFFFF)]
      ans (.trap 0 1) s (raised s Cause.syscall 0xFFFFFFFFFFFFFFFF) && ans (.trap 4 1) s (raised s Cause.illRsv (word (encode (.trap 4 1)).toNat))) &&
    (
      let s := (super ints).modCore 0 (fun k => { k with sregs := k.sregs.setIfInBounds 1 0x10000 })
      ans (.trap 4 1) s (s.setX 4 0xFF).retire) &&
    (
      let n := (searchUp (fun n => (monitorCall n).isSome) 256 0).getD 0
      let s := (super ints).modCore 0 (fun k => { k with sregs := k.sregs.setIfInBounds 1 (word n) })
      match monitorCall n with
      | some i => ans (.trap 4 1) s (waiting (s.post i { Ev.zero with at_ := 0, x := 0, y := 4, words := [s.x 1, s.x 2, s.x 3, s.x 4, s.x 5, s.x 6, s.x 7, s.x 8] }) .monitor)
      | none => false) &&
    (
      let s := (super ints).modCur (fun x => { x with epc := 0x1000, estat := 0 })
      !s.curCtx.eretBad && !s.curCtx.poisonKill && after .eret s (fun t => decide (t.curCtx.pc = 0x1000) && !t.curCtx.sup)) &&
    (
      let f : RptFrame := ⟨4, [0, 0, 0, 0], 0x1000, 9, 0, 0, 0, false⟩
      let s := (super ints).modCur (fun x => { x with epc := 0x1000, estat := word (3 * 2 ^ 32 + 2 * 2 ^ 20 + 2 ^ 19), rpt := some f })
      !s.curCtx.eretBad && after .eret s (fun t => decide (t.curCtx.rpt = some { f with pass := 3, pos := 2, active := true }))) &&
    (
      let s := (super ints).modCur (fun x => { x with estat := 0x80000 })
      s.curCtx.eretBad && ans .eret s (raised s Cause.eretState 0x80000)) &&
    (
      let s := (super ints).modCur (fun x => { x with poisonKill := true })
      ans .eret s (s.killTask 1 Cause.uncorrData)) &&
    (
      let s := super ints
      ans (.halt 0) s (s.killTask 1 0) && decide (s.curCore.task = 1)) &&
    (decide (¬ (2 ≤ ints.mon.debugOpen ∧ ints.mon.debugArm = true)) && ans (.brk 63) ints (raised ints Cause.brk 63)) &&
    (
      let s := { ints with mon := { ints.mon with debugOpen := 2, debugArm := true } }
      after (.brk 0) s (fun t => t.curCore.debugHalt && decide (t.curCtx = s.curCtx))) &&
    ([Instr.eret, .halt 1, .seal 1 2, .rollbk 1 2].all (fun i => ans i ints (raised ints Cause.illPriv (word (encode i).toNat))))) = true := by
  decide +kernel

/-- Supervisor code that seals the object in x1. -/
def sealer (s : State) : State := goodBlock ((super s).modCore 0 (fun k => { k with sregs := k.sregs.setIfInBounds 1 2 }))

theorem wit_SupervisorResult_seal :
    ((
      let s := sealer (withObj (base 0) 2 7 0 0x1000 5)
      ans (.seal 4 1) s (raised (current (closed s)) Cause.sealFail 1)) &&
    (
      let s := sealer (withObj (base 0) 2 3 0 0x400001 5)
      ans (.seal 4 1) s (raised (current (closed s)) Cause.sealFail 2)) &&
    (
      let s := sealer ((withObj (base 0) 2 3 0 0x1000 5).putEnt { entryOf 3 3 0 0x1000 with base := 0x80000, pmap := 0x22000 })
      decide ((current (closed s)).writerOf 1 ((s.liveEnt 1 2).getD (entryOf 0 0 0 0)) = some 3) && ans (.seal 4 1) s (raised (current (closed s)) Cause.sealFail 0x303)) &&
    (
      let s := sealer (withObj (base 0) 2 3 0 0x8 5)
      let t := current (closed s)
      match t.liveEnt 1 2 with
      | some e => decide (t.writerOf 1 e = none) && settledB t 2 && decide (e.len ≤ 0x400000)
      | none => false)) = true := by
  decide +kernel

theorem wit_ExceptionResult :
    ((
      let s := ints.modCur (fun x => { x with tvec := 0x1003, pc := 0x44 })
      let t := s.takeTrap 0 0 ⟨Cause.hBound, 7, 3, 3, 0x44⟩
      decide (s.curCtx.sup = false) && !(s.core 0).otherSup 0 && decide (t.curCtx.pc = 0x1000 ∧ t.curCtx.epc = 0x44 ∧ t.curCtx.eval = 7 ∧ t.curCtx.estat = word (3 * 2 ^ 17 + 3 * 2 ^ 15))) &&
    (
      let f : RptFrame := ⟨2, [0, 0], 0x1000, 9, 0, 0, 1, true⟩
      let s := ints.modCur (fun x => { x with rpt := some f })
      let t := s.takeTrap 0 0 ⟨Cause.hBound, 7, 0, 0, 0x44⟩
      t.curCtx.estat.getLsbD 19 && decide (t.curCtx.estat.toNat / 2 ^ 20 % 16 = 1)) &&
    (
      let s := super ints
      decide ((s.tasks.look (s.core 0).task).isSome) && decide ((s.takeTrap 0 0 ⟨Cause.hBound, 7, 0, 0, 0⟩).tasks.look 1 ≠ none) && !((s.takeTrap 0 0 ⟨Cause.hBound, 7, 0, 0, 0⟩).ctx 0 0).live)) = true := by
  decide +kernel

/-! ## Lattice instructions -/

/-- Operand words in x1 and x2, in the mode asked for; object 2 stands behind h3. -/
def lat (matrix : Bool) (w v : Word) : State :=
  let s := regs data [(1, w), (2, v)]
  s.modCore 0 (fun k => { k with lqst := if matrix then 0x80 else 0 })

/-- Whether an instruction may enter. -/
def latticeOpenB (s : State) : Bool := @decide (latticeOpen s) (by unfold latticeOpen; infer_instance)

/-- Whether an operand word passes. -/
def operandOkB (w : Word) (honoured n : Nat) : Bool := @decide (operandOk w honoured n) (by unfold operandOk; infer_instance)

/-- The instructions of two sources: tB and xs2 are as named. -/
def pairs (b : BitVec 3) (q : BitVec 5) : List Instr := [.vadd 0 1 b 1 q 0, .vsub 0 1 b 1 q 1, .vmul 0 1 b 1 q 2, .vfma 0 1 b 1 q 0, .vmin 0 1 b 1 q 5, .vmax 0 1 b 1 q 0, .vand 0 1 b 1 q, .vor 0 1 b 1 q,
  .vxor 0 1 b 1 q, .vshl 0 1 b 1 q, .vshr 0 1 b 1 q, .vcmpEqF32 0 1 b 1 q, .vcmpEqBf16 0 1 b 1 q, .vcmpEqI32 0 1 b 1 q, .vcmpNeF32 0 1 b 1 q,
  .vcmpNeBf16 0 1 b 1 q, .vcmpNeI32 0 1 b 1 q, .vcmpLtF32 0 1 b 1 q, .vcmpLtBf16 0 1 b 1 q, .vcmpLtI32 0 1 b 1 q, .vcmpLeF32 0 1 b 1 q,
  .vcmpLeBf16 0 1 b 1 q, .vcmpLeI32 0 1 b 1 q, .vsel 0 1 b 1 q]

/-- The instructions of one source. -/
def singles : List Instr := [.vexp2 0 1 1, .vrcp 0 1 1, .vrsqrt 0 1 1, .vlog2 0 1 1, .vtanh 0 1 1, .vabsF32 0 1 1, .vabsBf16 0 1 1, .vnegF32 0 1 1, .vnegBf16 0 1 1,
  .vcvtBf16F32 0 1 0 1, .vcvtF32Bf16 0 1 0 1, .vcvtF16F32 0 1 0 1, .vcvtF32F16 0 1 0 1, .vcvtE4m3F32 0 1 0 1, .vcvtF32E4m3 0 1 0 1, .vcvtE5m2F32 0 1 0 1,
  .vcvtF32E5m2 0 1 0 1, .vcvtI32F32 0 1 1, .vcvtF32I32 0 1 1, .vcvtBf16Cb4 0 1 0 1, .vsum 0 1 0 1, .vmaxr 0 1 1 1, .vperm 0 1 0 1]

theorem wit_VectorEntry_pair :
    ((
      let s := lat false 0x8000 0
      latticeOpenB s && (pairs 2 0).all (fun i => match pairForm i with
      | some (_, _, q, n, extra) => operandOkB (s.x 1) (0xBFFFFF + extra) n && ans i s (entered s (LEntry.new i 0 (s.x 1) (s.x q) (s.maskOf (s.x 1) n)))
      | none => false)) &&
    (
      let s := lat false 0x808000 7
      latticeOpenB s && (pairs 0 2).all (fun i => match pairForm i with
      | some (_, _, q, n, extra) => operandOkB (s.x 1) (0xBFFFFF + extra) n && ans i s (entered s (LEntry.new i 0 (s.x 1) (s.x q) (s.maskOf (s.x 1) n)))
      | none => false)) &&
    (
      let s := lat true 0 0
      (pairs 2 0).all (fun i => matrixMode s && ans i s (raised s Cause.illMode (word (encode i).toNat)))) &&
    (
      let s := lat false 0x40000000 0
      (pairs 2 0).all (fun i => ans i s (raised s Cause.illRsv (word (2 ^ 32 + (encode i).toNat))))) &&
    (
      let s := lat false 0x817F 0
      let i := Instr.vor 0 1 2 1 0
      ans i s (raised s Cause.illReg (word (3 * 2 ^ 32 + (encode i).toNat)))) &&
    (
      let s := lat false 0x210000 0
      let i := Instr.vcmpEqI32 0 1 2 1 0
      ans i s (raised s Cause.illReg (word (4 * 2 ^ 32 + (encode i).toNat)))) &&
    (
      let s := (lat false 0 0).modCore 0 (fun k => { k with lq := List.replicate 32 (LEntry.new (.tzero 0 0) 0 0 0 0) })
      ans (.vadd 0 1 2 1 0 0) s (waiting s .latticeRoom)) &&
    (
      let s := (lat false 0 0).modCur (fun x => { x with rgnskip := 2, lcount := 1 })
      after (.vadd 0 1 2 1 0 0) s (fun t => decide (t.curCtx.lcount = 2 ∧ t.curCore.lq = [] ∧ t.curCtx.rgnskip = 2)) && after (.vexp2 0 1 1) s (fun t => decide (t.curCtx.lcount = 2)))) = true := by
  decide +kernel

theorem wit_VectorEntry_single :
    ((
      let s := (lat false 0x817E 0).modCur (fun x => { x with cbsel := 0xFFF })
      let s := regs s [(1, 0x027E)]
      latticeOpenB s && singles.all (fun i => match singleForm i with
      | some (_, n, extra) => operandOkB (s.x 1) (0x3FFFFF + extra) n && ans i s (entered s { LEntry.new i 0 (s.x 1) 0 (s.maskOf (s.x 1) n) with cbslot := 0xFFF })
      | none => false)) &&
    (
      let s := lat true 0 0
      singles.all (fun i => ans i s (raised s Cause.illMode (word (encode i).toNat)))) &&
    (
      let s := lat false 0 0x1000000000000000
      operandOkB 0 0x3FFFFF 128 && decide (fuseBad 0x1000000000000000 = none) && ans (.fuseF32 0 1 2 1 2) s (entered s (LEntry.new (.fuseF32 0 1 2 1 2) 0 0 (s.x 2) (s.maskOf 0 128)))) &&
    (
      let s := lat false 0 0
      match fuseBad 0 with
      | some r => ans (.fuseBf16 0 1 2 1 2) s (raised s Cause.fuseStack (word (r.1 * 2 ^ 36) + word (r.2 * 2 ^ 32 + (encode (.fuseBf16 0 1 2 1 2)).toNat)))
      | none => false)) = true := by
  decide +kernel

theorem wit_MovementEntry :
    ((
      let s := lat false 0x200000 7
      latticeOpenB s && operandOkB 0x200000 0x3FFFFF 128 && ans (.tzero 0 1) s (entered s (LEntry.new (.tzero 0 1) 0 0x200000 0 (s.maskOf 0x200000 128))) && ans (.tbc 7 1) s (entered s (LEntry.new (.tbc 7 1) 0 0x200000 0 (s.maskOf 0x200000 128)))) &&
    (
      let s := lat true 0x8000 7
      ans (.tmov 0 1 2) s (entered s (LEntry.new (.tmov 0 1 2) 0 0x8000 7 0)) && ans (.ttr 0 1 2) s (entered s (LEntry.new (.ttr 0 1 2) 0 0x8000 7 0)) && ans (.tgat 0 1 2) s (entered s (LEntry.new (.tgat 0 1 2) 0 0x8000 7 0))) &&
    (
      let s := lat true 0 63
      ans (.tgat 7 1 2) s (entered s (LEntry.new (.tgat 7 1 2) 0 0 63 0))) &&
    (
      let s := lat false 0x0200 0x3FC00
      let e := { LEntry.new (.tld 0 0 1 2) 0 0x0200 0x3FC00 0 with off := 0x3FC00 }
      decide (localMove 0x3FC00 2 false = none) && ans (.tld 0 0 1 2) s (entered s e)) &&
    (
      let s := lat false 0x0200 0x3F000
      let e := { LEntry.new (.tst 0 0 1 2) 0 0x0200 0x3F000 0 with off := 0x3F000, fault := localMove 0x3F000 2 true }
      decide (localMove 0x3F000 2 true = none) && decide (localMove 0x1FFC00 1 false = none) && decide ((localMove 0x3F008 2 true).isSome) && ans (.tst 0 0 1 2) s (entered s e)) &&
    (
      let s := lat false 0x0100 8
      let t := current s
      match t.checkMove 1 (t.hreg 3) 8 winBytes 8 false with
      | .ok o => okM (checkPages o 8 ⟨[], winBytes o.fmt, false, 8, false, .read⟩) t (fun a u => latticeOpenB u &&
          ans (.tld 1 3 1 2) s (entered u { LEntry.new (.tld 1 3 1 2) 0 0x0100 8 0 with
            index := o.index, base := o.base, off := a.off, leaf := o.leaf 0, homes := a.homes, cbslot := o.cbslot, fmt := o.fmt }))
      | .error _ => false) &&
    (
      let s := lat false 0x0100 0x1000
      let t := current s
      match t.checkMove 1 (t.hreg 3) 0x1000 winBytes 8 true with
      | .ok _ => false
      | .error b => ans (.tst 1 3 1 2) s (entered t { LEntry.new (.tst 1 3 1 2) 0 0x0100 0x1000 0 with fault := some (b.cause, b.eval) }))) = true := by
  decide +kernel

theorem wit_MatrixAndFence :
    ((
      let s := lat true 0x7000000 0x1000
      latticeOpenB s && [(Instr.mmaBf16 0 1 1 2, 0), (.mmaF16 0 1 1 2, 1), (.mmaE4m3 0 1 1 2, 2), (.mmaE5m2 0 1 1 2, 3), (.mmaCb4 0 1 1 2, 4)].all (fun p => matrixMode s && decide ((s.x 2).toNat / 16 % 512 = 256) &&
        ans p.1 s (entered s { LEntry.new p.1 0 (s.x 1) (s.x 2) 0 with fmt := p.2 }))) &&
    (
      let s := lat true 0 0x1010
      decide ((s.x 2).toNat / 16 % 512 = 257) && ans (.mmaBf16 0 1 1 2) s (raised s Cause.mmaShape (word (2 * 2 ^ 32 + (encode (.mmaBf16 0 1 1 2)).toNat))) &&
      ans (.mmaE4m3 0 1 1 2) s (entered s { LEntry.new (.mmaE4m3 0 1 1 2) 0 0 (s.x 2) 0 with fmt := 2 })) &&
    (
      let s := lat true 0 0
      ans (.mmaCb4 0 1 1 2) s (raised s Cause.mmaShape (word (2 * 2 ^ 32 + (encode (.mmaCb4 0 1 1 2)).toNat))) && ans (.mmaF16 2 2 1 2) s (raised s Cause.mmaShape (word (5 * 2 ^ 32 + (encode (.mmaF16 2 2 1 2)).toNat)))) &&
    (
      let s := lat false 0 0x1000
      [Instr.mmaBf16 0 1 1 2, .ssm 0 2, .ssmC 0 2, .ssmR 0 2].all (fun i => ans i s (raised s Cause.illMode (word (encode i).toNat)))) &&
    (
      let s := lat true 0 0xFFFF
      [Instr.ssm 0 2, .ssmC 0 2, .ssmR 7 2].all (fun i => ans i s (entered s { LEntry.new i 0 0 0xFFFF 0 with index := 0xFFFF }))) &&
    (
      let s := regs (lat true 0 0) [(2, word (5 * 2 ^ 13))]
      let t := current s
      match t.checkMove 1 (t.indexHandle 1 5) (s.x 0).toInt (wbldBytes (s.x 2)) 0 false with
      | .error b => latticeOpenB t && ans (.wbld 0 2) s (entered t { LEntry.new (.wbld 0 2) 0 0 (s.x 2) 0 with fault := some (b.cause, b.eval) })
      | .ok _ => false) &&
    (
      let s := regs (withObj (base 0) 2 1 1 0x10000 5) [(2, word (2 * 2 ^ 13 + 16)), (3, 0)]
      let t := current s
      match t.checkMove 1 (t.indexHandle 1 2) (s.x 3).toInt (wbldBytes (s.x 2)) 0 false with
      | .error _ => false
      | .ok x => decide (wbldBytes (s.x 2) 1 ≠ 0) && okM (checkPages x 0 ⟨[], wbldBytes (s.x 2) 1, false, 0, false, .read⟩) t (fun a u => latticeOpenB u &&
          ans (.wbld 3 2) s (entered u { LEntry.new (.wbld 3 2) 0 0 (s.x 2) 0 with
            index := x.index, base := x.base, off := 0, leaf := x.leaf 0, homes := a.homes, cbslot := x.cbslot, fmt := x.fmt, params := [word x.gen] }))) &&
    (
      let s := lat false 0 0
      s.curCore.latticeIdle && after (.lmode 1) s (fun t => matrixMode t && decide (t.curCore.lqst = 0x80)) && after (.lmode 0) s (fun t => decide (t.curCore.lqst = 0)) && ans .lfence s (s.drain 0).retire) &&
    (
      let s := (lat false 0 0).modCore 0 (fun k => { k with lq := [LEntry.new (.tzero 0 0) 0 0 0 0] })
      !s.curCore.latticeIdle && ans (.lmode 1) s (waiting s .latticeEmpty) && ans .lfence s (waiting (s.drain 0) .latticeEmpty)) &&
    (
      let d : Deferred := ⟨Cause.hBound, 9, .lfence, 0⟩
      let s := (lat false 0 0).modCur (fun x => { x with deferred := [⟨0x31, 8, .rfence, 0⟩, d] })
      ans .lfence s (delivered (s.drain 0) d))) = true := by
  decide +kernel

/-! ## The fabric, requests, answers -/

/-- A state with the event that is present. -/
def at' (s : State) (e : Ev) : State := { s with ev := e, agenda := [] }

/-- A message of context 1 from core 0's network interface to endpoint `dep`. -/
def msgTo (dep op tag : Nat) (size addr : Nat) (handle : Nat) (more : List Word) : Msg :=
  mkMsg 0 dep 0 (niEndpoint 0) (if op = 3 then 1 else 0) op tag 1 false ([q0Word size addr, q1Word 1 0 0 0 0 0 handle] ++ more)

/-- A read of object 2's doubleword at its home slice. -/
def readReq : Msg := msgTo 12 0x01 7 3 0x50008 2 []

theorem wit_FabricEvents :
    ((
      let s := at' data { Ev.zero with at_ := 0, x := 0, msg := readReq }
      !s.shutSwitch 0 && s.headerOk 0 0 readReq && decide ((s.outsOf 0 0 readReq).1 ≠ []) && ans .switchReceive s ((s.modSwitch 0 (fun k => { k with
        tie := (s.outsOf 0 0 readReq).2, queues := k.queues.put 0 [⟨readReq, 0, (s.outsOf 0 0 readReq).1, [], []⟩] })).signalStop 0 0 0)) &&
    (
      let s := at' data { Ev.zero with at_ := 0, x := 0, msg := { readReq with plen := 17 } }
      !s.shutSwitch 0 && !s.headerOk 0 0 s.ev.msg && (match s.inputOwner 0 0 with
        | some p => raises .switchReceive s Cause.eccUncorrMeta (fun t => decide (t.agenda = s.agenda ++ [(.partReset, { Ev.zero with x := p, z := 1 })]))
        | none => false)) &&
    (
      let s := at' (data.modSwitch 0 (fun k => { k with queues := [(0, [⟨readReq, 0, [12], [], []⟩])] })) { Ev.zero with at_ := 0, x := 12 }
      match (s.switchNow 0).choose 0 12 with
      | (some h, k) => decide (readReq.op ≠ 0x72 ∧ readReq.ddev = s.devId) && !s.solderHeld 0 12 && decide (h = (0, 0)) && decide ((k.queues.get 0 []).head? = some ⟨readReq, 0, [12], [], []⟩) && decide (nextSwitch 0 12 = none) &&
          ans .outputArbitrate s (((({ s with switches := s.switches.put 0 ({ k with stops := (s.switch 0).stops }.granted h 12) } : State).ageHeads 0 12 readReq.beats).signalStop 0 0 0).post readReq.event
            { Ev.zero with at_ := portEndpoint 0 12, msg := readReq })
      | _ => false) &&
    (
      let s := at' (data.modSwitch 0 (fun k => { k with queues := [(0, [⟨readReq, 0, [16], [], []⟩])] })) { Ev.zero with at_ := 0, x := 16 }
      match (s.switchNow 0).choose 0 16, nextSwitch 0 16 with
      | (some h, k), some n => !s.solderHeld 0 16 && !crossesSolder n.1 n.2 && ans .outputArbitrate s
          (((({ s with switches := s.switches.put 0 ({ k with stops := (s.switch 0).stops }.granted h 16) } : State).ageHeads 0 16 readReq.beats).signalStop 0 h.1 h.2).post .switchReceive { Ev.zero with at_ := n.1, x := n.2, msg := readReq })
      | _, _ => false) &&
    (
      let s := at' (data.modSwitch 0 (fun k => { k with queues := [(0, [⟨readReq, 0, [16], [], []⟩])] })) { Ev.zero with at_ := 0, x := 0, y := 16 }
      ans .agePromote s (s.modSwitch 0 (fun k => { k with queues := k.queues.put 0 [⟨readReq, 0, [16], [], [16]⟩] }))) &&
    (
      let s := { at' data { Ev.zero with at_ := 128, x := 0, msg := readReq } with boot := { data.boot with shut := [0] } }
      s.shutSwitch 128 && ans .switchReceive s s) &&
    (
      [((0 : Nat), (0 : Nat)), (niEndpoint 3, 24), (12, 0xFFFF)].all (fun p => let s := at' data { Ev.zero with at_ := p.1, msg := readReq }
        ans .unknownMessage s (s.audit 4 p.2 1 readReq.header0)))) = true := by
  decide +kernel

/-- Whether the message that arrives passes. -/
def passesB (s : State) : Bool := @decide (passes s) (by unfold passes; infer_instance)

theorem wit_RequestEvents :
    ((
      let s := at' data { Ev.zero with at_ := 12, msg := { readReq with tagOk := false } }
      ans .rd s (s.audit 4 0xFFFF 1 s.ev.msg.header0)) &&
    (
      let s := at' data { Ev.zero with at_ := niEndpoint 3, msg := { readReq with sep := niEndpoint 40 } }
      let s := { s with mon := { s.mon with firewalls := [(3, 0)] } }
      s.firewallRefuses s.ev.at_ s.ev.msg && ans .rd s (s.audit 3 24 3 s.ev.msg.header0)) &&
    (
      let s := at' data { Ev.zero with at_ := 12, msg := readReq }
      passesB s && isSlice 12 && decide (((counted s).slice 0).entries.length = 0) && ans .rd s ((counted s).modSlice 0 (fun k => { k with entries := [⟨(counted s).reqLine 12 readReq, [⟨12, readReq, (counted s).reqLine 12 readReq⟩]⟩] }))) &&
    (
      let s := at' data { Ev.zero with at_ := 12, msg := readReq }
      let s := s.modSlice 0 (fun k => { k with entries := [⟨s.reqLine 12 readReq, [⟨12, readReq, 0⟩]⟩] })
      ans .brd s ((counted s).modSlice 0 (fun k => { k with entries := [⟨s.reqLine 12 readReq, [⟨12, readReq, 0⟩, ⟨12, readReq, s.reqLine 12 readReq⟩]⟩] }))) &&
    (
      let s := at' data { Ev.zero with at_ := 12, msg := readReq }
      let s := s.modSlice 0 (fun k => { k with spill := [⟨12, readReq, 0⟩] })
      ans .rd s ((counted s).modSlice 0 (fun k => { k with spill := [⟨12, readReq, 0⟩, ⟨12, readReq, s.reqLine 12 readReq⟩] }))) &&
    (
      let s := at' data { Ev.zero with at_ := 4, msg := msgTo 4 0x0A 7 3 0x80008 2 [] }
      passesB s && !isSlice 4 && (match (counted s).serve 4 s.ev.msg with
        | some u => ans .takecan s u
        | none => false)) &&
    (
      let s := data.modSlice 0 (fun k => { k with entries := [⟨5, [⟨12, readReq, 0⟩]⟩] })
      let s := at' s { Ev.zero with at_ := 0, x := 5 }
      ans .dramComplete s ([⟨12, readReq, 0⟩].foldl (fun s r => s.serveOrWait r) (s.modSlice 0 (fun k => { k with entries := [] })))) &&
    (
      let s := at' (data.modSlice 0 (fun k => { k with spill := [⟨12, readReq, 0⟩] })) { Ev.zero with at_ := 0 }
      ans .spillFetch s (s.modSlice 0 (fun k => { k with spill := [], entries := [⟨s.reqLine 12 readReq, [⟨12, readReq, 0⟩]⟩] }))) &&
    (
      let s := at' (data.modSlice 0 (fun k => { k with spill := [⟨12, readReq, 0⟩], entries := [⟨data.reqLine 12 readReq, []⟩] })) { Ev.zero with at_ := 0 }
      ans .spillFetch s (s.modSlice 0 (fun k => { k with spill := [], entries := [⟨s.reqLine 12 readReq, [⟨12, readReq, 0⟩]⟩] }))) &&
    (
      match data.placeOf 12 readReq [rR] with
      | .ok pl => !data.bankShut 12 readReq && !data.hostDenies pl.home && decide ((data.placeRead pl 8).1.1 = leBytes 8 0x8887868584838281) &&
          decide (data.serve 12 readReq = some ((data.placeRead pl 8).2.answer 12 readReq 0x41 [0x8887868584838281] 0))
      | .error _ => false) &&
    (
      let m := msgTo 12 0x03 7 3 0x50000 2 (0xFF :: List.replicate 8 1)
      match data.placeOf 12 m [rW] with
      | .ok pl => (match data.placeWrite m pl m.half.1 m.half.2 (m.poison / 8 % 256) with
          | some u => !data.hostDenies pl.home && decide (data.serve 12 m = some (u.answer 12 m 0x42 [] 0))
          | none => false)
      | .error _ => false) &&
    (
      let m := msgTo 4 0x01 7 3 0x50000 9 []
      match data.placeOf 4 m [rR] with
      | .ok _ => false
      | .error c => decide (data.serve 4 m = some (data.answer 4 m 0x4F [word (c * 2 ^ 56)] 0))) &&
    (
      let s := queueObj 2 0 8 7 false []
      let m := { msgTo 12 0x09 7 3 0x60000 4 [0] with sdev := 0 }
      match s.queuePlace 12 m [rS, rR] with
      | .ok r =>
          let q := s.take64 1 4 r.2.1 r.2.2 m.col
          !s.bankShut 12 m && !(m.word 0).getLsbD 1 && decide (r.2.1.kind = 2) && decide (r.2.1.count = 1) &&
            decide (s.serve 12 m = some (q.2.answer 12 m 0x44 (word q.1.1 :: bytesWords q.1.2.1) (q.1.2.2 * 2)))
      | .error _ => false) &&
    (
      let m := msgTo 0 0x0B 7 3 0x3F3F8 6 [0x55]
      let s := at' data { Ev.zero with at_ := 0, msg := m }
      let p := (counted s).foreignWrite 0 0x3F3F8 (leBytes 8 0x55) false
      passesB s && (niOf 0).isSome && p.1 && ans .rst s (p.2.answer 0 m 0x42 [] 0) && decide (p.2.lmem.get 0x3F3F8 = 0x55)) &&
    (
      let m := msgTo 0 0x0B 7 3 0x3F400 6 [0x55]
      let s := at' data { Ev.zero with at_ := 0, msg := m }
      ans .rst s ((counted s).answer 0 m 0x4F [word (Cause.remoteFail * 2 ^ 56)] 0)) &&
    (
      let m := msgTo 0 0x06 7 0 4 6 [0x105]
      let s := at' data { Ev.zero with at_ := 0, msg := m }
      ans .nib s (((counted s).foreignWrite 0 4 [0x50] false).2.answer 0 m 0x42 [] 0)) &&
    (
      let m := msgTo 0 0x0C 7 3 8 6 []
      let s := at' (local8 8) { Ev.zero with at_ := 0, msg := m }
      ans .rld s ((counted s).answer 0 m 0x41 [0x8887868584838281] 0)) &&
    (
      let m := msgTo 0 0x0D 7 0 0x80000 6 []
      let s := at' data { Ev.zero with at_ := 0, msg := m }
      ans .inv s (((coresOf 0).filter (fun n => s.ctxidOf n == 1)).foldl (fun s n => s.l1Drop n 0x1000) (counted s) |>.answer 0 m 0x42 [] 0))) = true := by
  decide +kernel

/-- A request of core 0's context 0 under tag 7 to device `dev`, and its answer. -/
def asked (dev agent : Nat) (w : Option Wait) : State :=
  let r : Remote := ⟨7, 0, agent, true, 2, 8, dev, 5, false, readReq, 0, 0, none, false⟩
  let s := data.modCtx 0 0 (fun x => { x with wait := w })
  at' { s with remotes := [r] } { Ev.zero with at_ := 0, msg := { mkMsg 0 0 dev 12 0 0x41 7 1 false [9] with poison := 1 } }

theorem wit_AnswerAndRetryEvents :
    ((
      let s := at' data { Ev.zero with at_ := 0, msg := mkMsg 0 0 0 12 0 0x41 7 1 false [9] }
      passesB s && decide ((counted s).remoteFor 0 s.ev.msg = none) && ans .rdata s (counted s) && ans .empty s (counted s)) &&
    (
      let s := asked 0 0 (some (.remote 7))
      match (counted s).remoteFor 0 s.ev.msg with
      | some r => passesB s && decide (r.ctx < 11) && (let u := (((counted s).closeRemote r).settle r).withdrawn r
          ans .rdata s (u.setCtx 0 0 { u.ctx 0 0 with replies := [⟨7, 0x41, [9], 1⟩] }))
      | none => false) &&
    (
      let s := asked 0 0 (some .pause)
      match (counted s).remoteFor 0 s.ev.msg with
      | some r => ans .ares s ((((counted s).closeRemote r).settle r).withdrawn r)
      | none => false) &&
    (
      let s := (asked 0 100 none).modCore 0 (fun k => { k with lq := [LEntry.new (.tzero 0 0) 0 0 0 0] })
      match (counted s).remoteFor 0 s.ev.msg with
      | some r => (match (((counted s).closeRemote r).core 0).entryOf 100 with
          | some e => ans .rdata s (((counted s).closeRemote r).modCore 0 (fun k => k.putEntry { e with lines := e.lines.put 8 (leBytes 8 9 ++ leBytes 2 1) }))
          | none => false)
      | none => false) &&
    (
      let m := { readReq with sdev := 3 }
      let s := at' data { Ev.zero with at_ := 12, msg := m, words := [word (5 * 2 ^ 32 + 4)] }
      let t := s.modPeer 3 (fun p => { p with replays := p.replays.filter (fun r => (r.2.eseq + 2 ^ 32 - 4) % 2 ^ 32 < 2 ^ 31) })
      decide ((t.peer 3).replays.look 5 = none) && ans .e2eRequestArrive s ((t.modPeer 3 (fun p => { p with replays := p.replays.put 5 ⟨5, false, []⟩ })).post m.event { Ev.zero with at_ := 12, msg := { m with eseq := 5 } })) &&
    (
      let s := (at' data { Ev.zero with at_ := 12, msg := { readReq with sdev := 3 }, words := [word (5 * 2 ^ 32 + 4)] }).modPeer 3 (fun p => { p with replays := [(5, ⟨5, false, []⟩)] })
      ans .e2eRequestArrive s s) &&
    (
      let m := { readReq with sdev := 3 }
      let s := (at' data { Ev.zero with at_ := 12, msg := m, words := [word (5 * 2 ^ 32 + 4)] }).modPeer 3 (fun p => { p with replays := [(5, ⟨5, true, [0x41, 9]⟩)] })
      ans .e2eRequestArrive s (s.post m.event { Ev.zero with at_ := 12, msg := { m with eseq := 5 } })) &&
    (
      let m := { readReq with sdev := 3, op := 3 }
      let s := (at' data { Ev.zero with at_ := 12, msg := m, words := [word (5 * 2 ^ 32 + 4)] }).modPeer 3 (fun p => { p with replays := [(5, ⟨5, true, [0x42, 9]⟩)] })
      after .e2eRequestArrive s (fun t => decide (t.net.map (fun (a : Msg) => (a.op, a.payload, a.eseq, a.tagid, a.ddev)) = [(0x42, [9], 5, m.tagid, 3)]) ||
        decide (t.agenda.map (fun (a : Instr × Ev) => (a.2.msg.op, a.2.msg.payload, a.2.msg.eseq, a.2.msg.tagid, a.2.msg.ddev)) = [(0x42, [9], 5, m.tagid, 3)]))) &&
    (
      let s := { asked 3 0 (some (.remote 7)) with ev := { Ev.zero with at_ := 3, x := 5 } }
      match s.remotes.find? (fun r => r.dev == 3 && r.eseq == 5 && r.dev != s.devId) with
      | some r => ans .e2eRetransmit s (({ s with remotes := [{ r with sent := s.clk, retries := 1 }] } : State).inject r.msg) &&
          ans .e2eRequestFail s (s.failRemote r Cause.remoteFail (word (3 * 2 ^ 32 + 5))) &&
          (let u := { s with remotes := [{ r with retries := 8 }] }
           ans .e2eRetransmit u (u.post .e2eRequestFail { Ev.zero with at_ := 3, x := 5 })) &&
          decide (s.failRemote r Cause.remoteFail 1 = (let u := (s.closeRemote r).settle r
            u.setCtx 0 0 { u.ctx 0 0 with replies := [⟨7, 0x4F, [word (Cause.remoteFail * 2 ^ 56), 1], 0⟩] }))
      | none => false) &&
    (
      let s := { asked 0 0 (some (.remote 7)) with ev := { Ev.zero with at_ := 0, x := 7 } }
      (s.remotes.find? (fun r => r.dev == s.devId && r.core == 0 && r.tag == 7)).isSome) &&
    (
      let s := { at' data { Ev.zero with at_ := 3 } with routes := [(3, 0x8000)], links := [(0, { Link.zero with trained := true })] }
      decide (s.linkTo 3 = some 0) && ans .e2eAckTimer s ((s.modLink 0 (fun k => k.send 2 [3, word (3 * 2 ^ 52)] false)).modPeer 3 (fun p => { p with owedAck := false })))) = true := by
  decide +kernel

/-! ## The copy unit, links -/

/-- The event `e` at a state where queue 0 of cluster 0 holds the job `j`. -/
def withJob (j : Job) (e : Ev) : State := at' (data.modCluster 0 (fun k => { k with jobs := [(0, [j])] })) e

/-- The next turn of cluster 0's queues is queue 1's. -/
def nextTurn (s : State) : State := s.modCluster 0 (fun k => { k with jobNext := 1 })

/-- A copy of 8 bytes in local memory. -/
def localCopy (pos : Nat) : Job := { Job.new 1 1 0 .copy 2 with srcoff := 8, dstoff := 0x3F3F8, len := 8, pos := pos }

theorem wit_CopyEvents :
    ((
      let s := withJob (localCopy 8) Ev.zero
      decide ((nextTurn s).headJob 0 0 = some (localCopy 8)) && decide ((localCopy 8).total ≤ 8) && ans .copyJobStart s ((nextTurn s).endJob 0 0 1 0 0) &&
      decide ((s.endJob 0 0 1 3 4).jobsOf 0 0 = [{ localCopy 8 with done := true, fault := 3, faultH := 4 }])) &&
    (
      let s := withJob (localCopy 0) Ev.zero
      ans .copyJobStart s ((nextTurn s).copyPiece 0 0 (localCopy 0) none)) &&
    (
      let s := withJob { localCopy 0 with kind := .join 1 [1] } Ev.zero
      (nextTurn s).joinOver 0 (1 &&& (2 ^ 16 - 1 - 1)) [1] && ans .copyJobStart s ((nextTurn s).endJob 0 0 1 0 0)) &&
    (
      let s := withJob { localCopy 0 with kind := .mcast 1, srch := ⟨9, 0⟩ } Ev.zero
      match (nextTurn s).mcastSource 0 { localCopy 0 with kind := .mcast 1, srch := ⟨9, 0⟩ } with
      | (.error b, u) => ans .copyJobStart s (u.endJob 0 0 1 b.cause 9)
      | _ => false) &&
    (
      let j := { localCopy 0 with kind := .mcast 1, srch := ⟨2, 0⟩, srcoff := 0, len := 128, dstoff := 0 }
      let s := withJob j Ev.zero
      let s := s.putEnt { ((s.liveEnt 1 2).getD (entryOf 0 0 0 0)) with rights := 2 ^ rR + 2 ^ rM }
      match (nextTurn s).mcastSource 0 j with
      | (.ok a, u) => !u.mcastFar j a && ans .copyJobStart s (u.sendSetups 0 0 j 1)
      | _ => false) &&
    (
      let s := withJob (localCopy 0) Ev.zero
      match s.copySide 0 (localCopy 0) Handle.zero ((localCopy 0).places 0).2 8 true with
      | (.ok (.loc d o), u) => decide (d = 0 ∧ o = 0x3F3F8) && decide (s.writePiece 0 0 (localCopy 0) [1, 2, 3, 4, 5, 6, 7, 8] [false] =
          (u.intoLocal d o [1, 2, 3, 4, 5, 6, 7, 8] [false] (parity (u.cluster 0).snapGen)).modJobAt 0 0 1 (fun k => { k with pos := 8, tag := 0, got := [] }))
      | _ => false) &&
    (
      let j := { localCopy 0 with srch := ⟨2, 0⟩ }
      let s := withObj (withJob j Ev.zero) 2 1 0 0x1000 (3 * 2 ^ 58 + 3 * 2 ^ 52 + 2 ^ 36 + 7 * 2 ^ 20 + 5)
      match s.copySide 0 j j.srch 8 (s.piece j) false with
      | (.ok (.obj a), u) => !s.sideShut 0 1 j.srch && !s.sideShut 0 1 j.dsth && !u.hostDenies (a.homeAt 0) && (match u.unitRead 0 j a 0 (s.piece j) with
          | (.error h, v) => decide (s.copyPiece 0 0 j none = v.askUnit 0 0 j (v.path 1 (unitLeaf a.ent 0)) h) &&
              decide ((((s.copyPiece 0 0 j none).headJob 0 0).map (fun k => k.tag)) ≠ some 0)
          | _ => false)
      | _ => false) &&
    (
      let j := { localCopy 0 with tag := 0x8001, lines := 1, got := [(5, [])] }
      let s := withJob j { Ev.zero with at_ := 4, msg := { mkMsg 0 4 0 12 2 0x50 0x8000 1 false (List.replicate 16 0x0101010101010101) with poison := 1 } }
      let u := (counted s).jobLine 0 0 j (s.ev.msg.payload.flatMap (fun w => leBytes 8 w.toNat) ++ leBytes 2 1)
      passesB s && decide (niOf 4 = some 0) && decide ((counted s).jobByTag 0 0x8000 = some (0, j)) && decide ((counted s).remoteFor 4 s.ev.msg = none) &&
      ans .bdata s u && decide ((u.headJob 0 0).map (fun k => (k.tag, k.got)) = some (0, [(5, List.replicate 128 1 ++ [1, 0])])) &&
      ans .lack s ((counted s).modJobAt 0 0 1 (fun k => { k with lines := 0, tag := 0 })) && ans .fail s ((counted s).endJob 0 0 1 1 0)) &&
    (
      let j := { localCopy 0 with tag := 0x8001, srch := ⟨2, 0⟩ }
      let s := withObj (withJob j { Ev.zero with at_ := 0, msg := mkMsg 0 0 3 12 2 0x50 0x8000 1 false (List.replicate 16 0x0101010101010101) }) 2 1 0 0x1000
        (3 * 2 ^ 58 + 3 * 2 ^ 52 + 2 ^ 36 + 7 * 2 ^ 20 + 5)
      let j := { j with got := [((Home.peer 3 1 7 5 0).code, [])] }
      let s := s.modCluster 0 (fun k => { k with jobs := [(0, [j])] })
      let u := (counted s).jobLine 0 0 j (s.ev.msg.payload.flatMap (fun w => leBytes 8 w.toNat) ++ leBytes 2 0)
      passesB s && decide (niOf 0 = some 0) && j.intoCluster && decide ((counted s).jobByTag 0 0x8000 = some (0, j)) && (match u.headJob 0 0 with
        | some k => ans .bdata s (u.copyPiece 0 0 k (some s.ev.msg)) && decide ((u.copyPiece 0 0 k (some s.ev.msg)).lmem.getLE 0x3F3F8 8 = 0x0101010101010101)
        | none => false)) &&
    (
      let s := withJob (localCopy 0) Ev.zero
      let m := mkMsg 0 0 0 12 2 0x50 0x8000 1 false []
      let bs : List Byte := List.replicate 8 1
      match s.copySide 0 (localCopy 0) Handle.zero 0x3F3F8 8 true with
      | (.ok (.loc c o), u) =>
          let v := (u.intoLocal c o bs [false] m.col).modJobAt 0 0 1 (fun k => { k with pos := 8, tag := 0x8001, lines := 1, got := [] })
          decide (s.lineIn 0 0 (localCopy 0) m bs [false] = v.inject (mkMsg 0 (cuEndpoint 0) 0 (niEndpoint 0) 1 0x46 0x8000 1 (parity (v.cluster 0).snapGen) []))
      | _ => false) &&
    (
      let j := { localCopy 0 with tag := 0x8001, lines := 1 }
      let s := withJob j { Ev.zero with at_ := 4, msg := mkMsg 0 4 3 12 1 0x4F 0x8000 1 false [word (Cause.hBound * 2 ^ 56)] }
      passesB s && decide ((counted s).remoteFor 4 s.ev.msg = none) && ans .fail s ((counted s).endJob 0 0 1 Cause.remoteFail 0)) &&
    (
      let j := { localCopy 0 with tag := 0x8001, lines := 2 }
      let s := withJob j { Ev.zero with at_ := 4, msg := mkMsg 0 4 0 12 2 0x46 0x8000 1 false [] }
      ans .lack s ((counted s).modJobAt 0 0 1 (fun k => { k with lines := 1 }))) &&
    (
      let s := asked 0 0 none
      match (counted s).remoteFor 0 s.ev.msg with
      | some r => ans .ack s ((((counted s).closeRemote r).settle r).withdrawn r) && ans .fail s (((counted s).failCause r s.ev.msg).2.failRemote r ((counted s).failCause r s.ev.msg).1.1 ((counted s).failCause r s.ev.msg).1.2)
      | none => false) &&
    (
      let s := at' data { Ev.zero with at_ := 0, msg := mkMsg 0 0 0 12 1 0x08 7 1 false [word (31 * 2 ^ 59 + 0xFF * 2 ^ 51 + 2 * 2 ^ 40 + 3 * 2 ^ 29)] }
      let u := (counted s).modCluster 0 (fun k => { k with deliv := k.deliv ++ [⟨31, 0xFF, 2, 3, []⟩], joins := [] })
      passesB s && ans .msetup s (u.inject (mkMsg 0 12 0 0 1 0x42 7 1 (parity (u.epGen 0)) []))) &&
    (
      let m := { msgTo 12 0x22 (3 * 2048) 0 0x50000 2 [2] with tc := 1, mcmask := 1 }
      match data.placeOf 12 m [rR] with
      | .ok pl => !data.bankShut 12 m && decide ((data.slice (waitUnit 12)).records = []) && decide (data.readLines 12 m pl ≠ []) && decide (data.serve 12 m = some (data.modSlice 0 (fun k => { k with
          records := [⟨3, 1, 2, 0, 0, 1, data.readLines 12 m pl, [], 1, 0, [], [(3, niEndpoint 0, 3 * 2048)], [], false⟩] })))
      | .error _ => false) &&
    (
      let place := (Home.mem (memKey 1 0 0 0x50000)).code
      let r : McastRec := ⟨3, 1, 2, 0, 0, 1, [(0, place)], [], 3, 0, [], [(3, 0, 6144)], [], false⟩
      let s := at' (data.modSlice 0 (fun k => { k with records := [r] })) { Ev.zero with at_ := 0, x := 3 }
      let s := { s with mem := s.mem.addPoison (memKey 1 0 0 0x50000) }
      let p := s.lineMsg 0 r 3 0x60 0 place 3 true
      s.recReady 0 r && !s.recAbsent r place && decide (p.1.poison = 1) && ans .mcastSend s (((p.2.inject p.1).unitSent 0 2).modSlice 0 (fun k => { k with
        records := [{ r with lines := [], sent := [(0, place)], owed := [(3, 0, 0), (3, 0, 1)], bad := [3] }] }))) &&
    (
      let r : McastRec := ⟨3, 1, 2, 1, 0, 1, [(0, 0x80000)], [], 1, 0, [], [(3, 0, 6144)], [], false⟩
      let s := withVc (withObj data 2 1 0 0x1000 (3 * 2 ^ 58 + 3 * 2 ^ 52 + 2 ^ 36 + 7 * 2 ^ 20 + 5))
      let s := at' (s.modSlice 5000 (fun k => { k with records := [r] })) { Ev.zero with at_ := 5000, x := 3 }
      s.recReady 5000 r && s.recAbsent r 0x80000 && ans .mcastSend s ((s.modSlice 5000 (fun k => { k with records := [{ r with asking := true }] })).askLine
        (s.payer 1).1 mcastAgent 2 (s.recHome r 0x80000) (unitEndpoint 5000))) &&
    (
      let s := at' data { Ev.zero with at_ := 0, msg := { mkMsg 0 0 0 12 2 0x60 (3 * 2048) 1 false (List.replicate 16 0) with mc := true } }
      passesB s && ans .mdata s ((counted s).deliverLine 0 s.ev.msg)) &&
    (
      let s := at' data { Ev.zero with at_ := 0, msg := { mkMsg 0 0 0 12 2 0x61 (3 * 2048) 1 false (List.replicate 16 0) with mc := true } }
      ans .mdata s ((counted s).modCluster 0 (fun k => { k with held := [s.ev.msg] }))) &&
    (
      let s := at' data { Ev.zero with at_ := 0, msg := mkMsg 0 0 0 12 2 0x70 0 1 false [word (3 * 2 ^ 59 + 4 * 2 ^ 54 + 5 * 2 ^ 43)] }
      decide (((counted s).cluster 0).held = []) && ans .mjoin s (((counted s).modCluster 0 (fun k => { k with joins := [⟨3, 4, 5, 12⟩] })).modCluster 0 (fun k => { k with held := [] }))) &&
    (
      let r : McastRec := ⟨3, 1, 2, 0, 0, 1, [], [(0, 0)], 1, 0, [], [(3, 0, 6144)], [3], false⟩
      let s := at' (data.modSlice 0 (fun k => { k with records := [r] })) { Ev.zero with at_ := 0, x := 3 }
      let t := s.modSlice 0 (fun k => { k with records := [] })
      ans .mcastComplete s (t.inject { mkMsg 0 0 0 (unitEndpoint 0) 1 0x42 6144 1 (parity (t.epGen (unitEndpoint 0))) [] with poison := 1 })) &&
    (
      let x : Transit := ⟨true, 0x100000, 2, 2, [(0, 0, 1)], []⟩
      let r : MapRec := ⟨1, 2, [⟨0, 0, 1⟩], false, 0x80000, 1, 0, some x⟩
      let key := memKey 1 0 0 0x22000
      let s := at' { data with maps := [(key, r)] } { Ev.zero with at_ := key }
      let mv := s.moves key r x
      let u := (((s.rewriteMap key r x).movePages mv).modProc 1 (fun p => { p with left := p.left ++ mv.map (fun m => m.1) })).placeAll 1 0x22000 (fun e => { e with tier := 1, mig := 0, qv := false, qt := false })
      let v := u.releaseTier { r with transit := none } 0 false
      decide ((keyParts key).2.2.2 = 0x22000) && ans .migrationEnd s (({ v.2 with maps := v.2.maps.put key v.1 } : State).endJob 0 0 1 0 0))) = true := by
  decide +kernel

theorem wit_LinkEvents :
    ((
      let s := at' data { Ev.zero with at_ := 1, x := 3, y := 130, flit := { Flit.zero with msgs := [⟨readReq, none, 0⟩] } }
      ans .solderFlit s ((s.modSolder 1 (fun k => { k with seq := 1, fails := 0 })).post .switchReceive { Ev.zero with at_ := 130, x := 3, msg := readReq })) &&
    (
      let s := at' (data.modSolder 1 (fun k => { k with fails := 15 })) { Ev.zero with at_ := 1, flit := { Flit.zero with crcOk := false } }
      ans .solderFlit s ((s.modSolder 1 (fun k => { k with fails := 16 })).post .solderFlit { s.ev with flit := Flit.zero })) &&
    (
      let s := at' (data.modSolder 1 (fun k => { k with fails := 16 })) { Ev.zero with at_ := 1, x := 2, y := 3, flit := { Flit.zero with crcOk := false, msgs := [⟨readReq, none, 0⟩] } }
      ans .solderFlit s (((s.modSolder 1 (fun k => { k with fails := 0 })).modSolder 1 (fun k => { k with held := [(3, 2, readReq)] })).post .d2dRetrain { Ev.zero with at_ := 1 })) &&
    (
      let s := at' data { Ev.zero with at_ := 7 }
      raises .d2dRetrain s Cause.d2dRetrain (fun t => (t.solder 7).retrain && decide ((t.solder 7).until_ = 18800))) &&
    (
      let s := at' (data.modSolder 5 (fun k => { k with retrain := true, held := [(3, 2, readReq)] })) { Ev.zero with at_ := 5 }
      ans .d2dRetrainEnd s ((s.modSolder 5 (fun k => { k with retrain := false, retrains := 0, held := [] })).post .switchReceive { Ev.zero with at_ := 3, x := 2, msg := readReq }) &&
      (let u := { s with ev := { s.ev with x := 1 } }
       ans .d2dRetrainEnd u (u.modSolder 5 (fun k => { k with retrains := 1, until_ := 18800 })))) &&
    (
      let s := at' (data.modSolder 4 (fun k => { k with retrain := true, retrains := 2 })) { Ev.zero with at_ := 4, x := 1 }
      after .d2dRetrainEnd s (fun t => decide ((t.solder 4).retrains = 3) && !(t.solder 4).retrain)) &&
    (
      let f := { Flit.zero with crcOk := false }
      let s := at' data { Ev.zero with at_ := 2, flit := f }
      !f.ok && ans .linkFlitReceive s (s.modLink 2 (fun k => k.send 1 [] true))) &&
    (
      let f := { Flit.zero with lseq := 1023, msgs := [⟨readReq, none, 0⟩] }
      let s := at' (data.modLink 2 (fun k => { k with recvSeq := 1023 })) { Ev.zero with at_ := 2, flit := f }
      let t := s.modLink 2 (fun k => { k.acked f with stop := 0 })
      let u := t.modLink 2 (fun k => { k with recvSeq := 0, heard := true })
      f.ok && ans .linkFlitReceive s (((u.fromLink 2 ⟨readReq, none, 0⟩).modLink 2 (fun k => k.send 1 [] false)).pump 2)) &&
    (
      let f := { Flit.zero with kind := 2, words := 4 :: List.replicate 29 0 }
      let s := at' data { Ev.zero with at_ := 2, flit := f }
      let u := (s.modLink 2 (fun k => { k.acked f with stop := 0 })).modLink 2 (fun k => { k with recvSeq := 1, heard := true })
      f.ok && decide (controlEvent 4 = .echo) && ans .linkFlitReceive s (((u.post .echo { Ev.zero with at_ := 2, words := f.words }).modLink 2 (fun k => k.send 1 [] false)).pump 2)) &&
    (
      let f := { Flit.zero with lseq := 5 }
      let s := at' data { Ev.zero with at_ := 2, flit := f }
      ans .linkFlitReceive s ((s.modLink 2 (fun k => { k.acked f with stop := 0 })).pump 2)) &&
    (
      let f := { Flit.zero with lseq := 5, nak := true }
      let s := at' data { Ev.zero with at_ := 2, flit := f }
      ans .linkFlitReceive s (((s.modLink 2 (fun k => { k.acked f with stop := 0 })).replay 2).pump 2)) &&
    (
      let s := at' data { Ev.zero with at_ := 2, words := [0, 9, 0x55] }
      !(s.link 2).down && raises .linkCrc s Cause.linkCrc (fun _ => true) && raises .linkRetrain s Cause.linkRetrain (fun t => decide ((t.link 2).retrains = 1) && (t.link 2).retrain) &&
      ans .trainReq s (s.modLink 2 (fun k => { k with retrain := true, until_ := 0, since := s.clk })) && ans .trainDone s ((s.modLink 2 (fun k => { k with rtt := 9 })).trained 2) &&
      ans .echo s (s.modLink 2 (fun k => k.send 2 [5, 9] false)) && ans .idset s { s with devId := 9, mon := { s.mon with jobDomain := leBytes 8 0x55 } }) &&
    (
      let s := at' data { Ev.zero with at_ := 2, x := 1 }
      ans .linkRetrain s ((s.modLink 2 (fun k => { k with failed := 1 })).trainLink 2 1) && (let u := s.modLink 2 (fun k => { k with failed := 2 })
       ans .linkRetrain u ((u.modLink 2 (fun k => { k with failed := 3 })).post .linkDown { Ev.zero with at_ := 2 }))) &&
    (
      let s := at' (data.modLink 2 (fun k => { k with echo := 9 })) { Ev.zero with at_ := 2, words := [0, 9] }
      ans .echoReply s (s.modLink 2 (fun k => { k with rtt := 0 }))) &&
    (
      let r : Word := word (5 * 2 ^ 58 + 0 * 2 ^ 52 + 7)
      let s := at' data { Ev.zero with at_ := 2, words := [3, r] }
      ans .eack s (s.applyCack 5 7)) &&
    (
      let r : Word := word (5 * 2 ^ 58 + 3 * 2 ^ 52 + 7)
      let s := at' { data with routes := [(3, 0x8000)], links := [(0, { Link.zero with trained := true })] } { Ev.zero with at_ := 2, words := [3, r] }
      decide (s.linkTo 3 = some 0) && ans .eack s (s.modLink 0 (fun k => k.send 2 [3, r] false))) &&
    (
      let s := at' data { Ev.zero with at_ := 2 }
      let t := s.logFault Cause.linkDown 2 0xFFFF 0 2
      decide ((s.link 2).waiting = []) && decide (s.remotes = []) && decide (s.snapsOver 2 = []) && ans .linkDown s
        (({ t with boot := { t.boot with links := clearBits t.boot.links 2 1 } } : State).modLink 2 (fun k => { k with down := true, retrain := false, waiting := [], unacked := [], owed := [] }))) &&
    (
      let r : Remote := ⟨7, 0, 0, true, 2, 8, 3, 5, false, readReq, 0, 0, some 2, false⟩
      let s := at' { data with remotes := [r] } { Ev.zero with at_ := 2 }
      let t := s.logFault Cause.linkDown 2 0xFFFF 0 2
      let v := ({ t with boot := { t.boot with links := clearBits t.boot.links 2 1 } } : State).modLink 2 (fun k => { k with down := true, retrain := false, waiting := [], unacked := [], owed := [] })
      let w := { s with routes := [(3, 0x8000)], links := [(0, { Link.zero with trained := true })] }
      let tw := w.logFault Cause.linkDown 2 0xFFFF 0 2
      let vw := ({ tw with boot := { tw.boot with links := clearBits tw.boot.links 2 1 } } : State).modLink 2 (fun k => { k with down := true, retrain := false, waiting := [], unacked := [], owed := [] })
      decide (v.linkTo 3 = none) && ans .linkDown s (v.failRemote r Cause.linkDown 2) && (vw.linkTo 3).isSome && ans .linkDown w (vw.resend r)) &&
    (
      let s := { at' data { Ev.zero with at_ := 2 } with boot := { data.boot with links := 0 } }
      ans .linkRetrain s s && ans .trainReq s s && ans .trainDone s s && ans .linkFlitReceive s s) &&
    (
      let s := at' data { Ev.zero with at_ := 2, x := 2 }
      ans .linkRetrain s (s.trainLink 2 2)) &&
    (
      let s := at' data { Ev.zero with at_ := 18, words := [0, 9, 0x55] }
      ans .idset s (s.modLink 2 (fun k => k.send 2 [6, 9, 0x55] false)))) = true := by
  decide +kernel

/-! ## Control messages, snapshots, the device, the monitor -/

/-- A control message with one word. -/
def ctl (op tag : Nat) (w : Nat) : Msg := mkMsg 0 0 0 12 3 op tag 1 false [word w]

theorem wit_ControlMessageEvents :
    ((
      let s := at' data { Ev.zero with at_ := 0, msg := ctl 0x70 0x70 (2 ^ 56 + 31 * 2 ^ 48 + 5) }
      passesB s && ans .event s ((counted s).signal 7 31 5)) &&
    (
      let s := at' data { Ev.zero with at_ := 0, x := 0, y := 15, words := [0] }
      ans .eventLineStore s (s.signal 0 0 0) && ans .barcfgWrite s (s.setEbar 0 15 { s.ebar 0 15 with need := 0 }) &&
      (match s.barArrive 0 0 15 0 with
        | .ok t => ans .eventBarStore s t
        | .error _ => false) &&
      (match s.unlock 0 0 15 with
        | .ok _ => false
        | .error b => ans .mutexStore s (s.takeTrap 0 0 ⟨b.cause, b.eval, 0, b.preason, s.curCtx.pc⟩))) &&
    (
      let s := at' (data.setMutex 0 3 ⟨true, 0, 0, 1, []⟩) { Ev.zero with at_ := 0, x := 0, y := 3, words := [88] }
      ans .barcfgWrite s (s.setEbar 0 3 { s.ebar 0 3 with need := 88 }) && (match s.unlock 0 0 3 with
        | .ok t => ans .mutexStore s t
        | .error _ => false)) &&
    (
      let s := at' data { Ev.zero with at_ := 0, x := 0, y := 0, words := [89] }
      ans .barcfgWrite s s && (match s.barArrive 0 0 0 89 with
        | .ok _ => false
        | .error b => ans .eventBarStore s (s.takeTrap 0 0 ⟨b.cause, b.eval, 0, b.preason, s.curCtx.pc⟩))) &&
    (
      let s := at' (barrier 2 5 0) { Ev.zero with at_ := 1, x := 4, y := 5, z := 1 }
      match s.objHome 1 4 with
      | some h => ans .barrierArrive s (s.putObar h { s.obar h with have_ := 1 }) && (let u := { s with ev := { s.ev with y := 4 } }
          match u.tasks.look 1 with
          | some t => ans .barrierArrive u { u with tasks := u.tasks.put 1 { t with stale := true } }
          | none => false)
      | none => false) &&
    (
      let s := at' (barrier 1 5 0) { Ev.zero with at_ := 1, x := 4, y := 5, z := 1 }
      match s.objHome 1 4 with
      | some h => ans .barrierArrive s (s.putObar h { s.obar h with have_ := 0, gen := 6 })
      | none => false) &&
    (
      let s := at' data { Ev.zero with at_ := 0, msg := ctl 0x71 0 (2 ^ 56 + 1) }
      decide ((counted s).coresOn 0 1 = [0]) && ans .sched s ((counted s).modCore 0 (fun k => { k with preempt := true, ctxs := k.ctxs.map (fun x => { x with preempt := false }) })) && ans .mon s ((counted s).post .keyGenerationInstall { Ev.zero with at_ := 1 })) &&
    (
      let s := at' data { Ev.zero with at_ := 0, msg := ctl 0x71 0 (2 * 2 ^ 56 + 1) }
      ans .sched s ((counted s).modCore 0 (fun k => { k with preempt := false }))) &&
    (
      let s := at' { data with jobs := [(5, ⟨1, 8, 1, 0, 2, 1, [], [], 0, false, 0, [], none, none⟩)] } { Ev.zero with at_ := 0, msg := ctl 0x77 8 (2 * 2 ^ 56 + 9) }
      let v := fun (k : Nat) => { s with ev := { s.ev with msg := ctl 0x77 8 (k * 2 ^ 56 + 9) } }
      decide (((counted s).jobByHandle s.ev.msg).isSome) && ans .mon s ((counted s).post .jobRollbackRequest { Ev.zero with at_ := 5, x := 9 }) &&
      ans .mon (v 3) ((counted (v 3)).post .snapshotSeal { Ev.zero with at_ := 5, x := 9 }) && ans .mon (v 4) ((counted (v 4)).post .snapshotFail { Ev.zero with at_ := 5, x := 9, z := 1 })) &&
    (
      let s := at' data { Ev.zero with at_ := 0, msg := ctl 0x77 8 (11 * 2 ^ 56) }
      ans .mon s { counted s with mon := { (counted s).mon with inbox := [s.ev.msg] } }) &&
    (
      let s := at' data { Ev.zero with at_ := 6, msg := ctl 0x79 8 (2 ^ 63 - 1) }
      ans .vcstep s (s.inject { s.ev.msg with dep := 12, sep := 0, payload := [word (2 ^ 64 - 1)] })) &&
    (
      let c : Vc := ⟨4, 1, 7, 0, [], some (.size 5, .evict), none, [], []⟩
      let s := at' { data with procs := data.procs.map (fun (p : Nat × Proc) => (p.1, { p.2 with vcs := [(63, c)] })) } { Ev.zero with at_ := 6, msg := ctl 0x79 8 (2 ^ 63 + 2 * 2 ^ 56 + 63 * 2 ^ 50 + 1) }
      decide (s.vc 1 63 = some c) && decide (placedN 1 7 = 3) && ans .vcstep s (s.modVc 1 63 (fun k => { k with replies := [8] }))) &&
    (
      let s := at' data { Ev.zero with at_ := 2, x := 4 }
      decide (s.keygenOf 2 = 1) && ans .keyGenerationInstall s { s with mon := { s.mon with keygen := s.mon.keygen.put 2 4 } }) &&
    (
      let s := at' data { Ev.zero with at_ := 0, x := 0 }
      ans .superstepRollback s ((s.modCtx 0 0 (fun x => { x with wait := some .halted })).inject (mkMsg 0 0 0 0 3 0x78 0 1 false [0]))) &&
    (
      let r : StepRecord := ⟨[{ Ctx.zero with rgnpc := 0x40 }], 0x80, 0xF8, Mem.empty, [(memKey 1 0 0 0x50000, Mem.empty)], 0, ELine.zero, [], [], [], [], 1, 1, [(4 * memKey 1 0 0 0x60000, 3, 2)]⟩
      let s := at' (data.modCore 0 (fun k => { k with stepRec := some r, sstepn := 7 })) { Ev.zero with at_ := 0, msg := ctl 0x78 0 7 }
      let h := s.modCur (fun x => { x with sup := true })
      let t := s.restoreMember 0
      passesB s && !((counted s).core 0).rollHalt && ans .sroll s ((counted s).stopMember 0) && ans .sroll h ((counted h).modCore 0 (fun k => { k with rollAsk := true })) &&
      decide ((t.core 0).lqst = 0x80 ∧ (t.core 0).lweight = 0xF8 ∧ (t.ctx 0 0).pc = 0x40 ∧ t.tiles.get (rowKey 0 0 0) = 0)) &&
    (
      let s := at' (data.modCore 0 (fun k => { k with rollAsk := true })) { Ev.zero with at_ := 0, y := 1 }
      ans .superstepRollback s (s.stopMember 0)) &&
    (
      let r : StepRecord := ⟨[{ Ctx.zero with rgnpc := 0x40 }], 0x80, 0xF8, Mem.empty, [(memKey 1 0 0 0x50000, Mem.empty)], 0, ELine.zero, [], [], [], [], 1, 1, [(4 * memKey 1 0 0 0x60000, 3, 2)]⟩
      let s := at' (data.modCore 0 (fun k => { k with stepRec := some r, sstepn := 7, rollHalt := true })) { Ev.zero with at_ := 0, y := 2 }
      let h := Home.ofCode (4 * memKey 1 0 0 0x60000)
      s.rollSettled (s.gang 0) && decide (s.gang 0 = [0]) && ans .superstepRollback s (((s.putObar h { s.obar h with gen := 3, have_ := 2 }).restorePages r.objects).restoreMember 0))) = true := by
  decide +kernel

/-- A job of context 1 under number 5, of partition 1 and device 0, with one generation. -/
def snapJob (g : Snap) : JobState := ⟨1, 8, 1, 0, 2, 1, [g], [], 0, false, 0, [], none, none⟩

/-- A state with that job, a message of endpoint `sep` and its generation `g`. -/
def snapping (g : Snap) (sep op w : Nat) : State :=
  at' { data with jobs := [(5, snapJob g)], parts := data.parts.map (fun (p : Nat × Part) => (p.1, { p.2 with job := 5 })) }
    { Ev.zero with at_ := 0, msg := { ctl op 8 w with sep := sep } }

/-- Generation 9 in progress. -/
def gen9 : Snap := Snap.new 9 0 true

theorem wit_SnapshotEvents_messages :
    ((
      let s := at' data { Ev.zero with at_ := 0, msg := ctl 0x72 8 1 }
      decide (((counted s).jobs.look ((counted s).markerJob s.ev.msg)).isNone) && ans .marker s (counted s)) &&
    (
      let s := snapping gen9 12 0x72 9
      let t := counted s
      decide (t.markerJob s.ev.msg = 5) && ans .marker s ((t.beginCut 5 9).cutCluster 5 9 0) && (let u := { s with ev := { s.ev with msg := ctl 0x72 8 8 } }
       ans .marker u (counted u)) && (let u := { s with ev := { s.ev with at_ := 12 } }
       ans .marker u (((counted u).beginCut 5 9).cutSlice 5 9 0))) &&
    (
      let s := { snapping gen9 12 0x75 9 with jobs := [] }
      decide ((counted s).jobByHandle s.ev.msg = none) && ans .creply s (counted s) && ans .cpoll s (counted s)) &&
    (
      let s := snapping gen9 12 0x75 (3 * 2 ^ 32 + 2)
      let t := counted s
      (t.jobByHandle s.ev.msg).isSome && (t.treeChildren (snapJob gen9) 0).contains 12 && ans .creply s (t.noteChild 5 9 0 12 3 2)) &&
    (
      let s := snapping gen9 2048 0x75 (3 * 2 ^ 32 + 2)
      let t := counted s
      !(t.treeChildren (snapJob gen9) 0).contains 2048 && t.initiates (snapJob gen9) && ans .creply s (t.noteDevice 5 9 0 3 2)) &&
    (
      let s := snapping gen9 2048 0x75 (3 * 2 ^ 32 + 2)
      let s := { s with jobs := [(5, { snapJob gen9 with home := 4096 })], ev := { s.ev with msg := { s.ev.msg with sdev := 1 } } }
      let t := counted s
      (t.jobByHandle s.ev.msg).isSome && !t.initiates { snapJob gen9 with home := 4096 } && ans .creply s t) &&
    (
      let s := snapping gen9 12 0x74 9
      ans .cpoll s ((counted s).pollAtEp 5 0) && (let u := { s with ev := { s.ev with msg := { s.ev.msg with sdev := 1 } } }
       ans .cpoll u ((counted u).pollAtEp 5 (niEndpoint ((counted u).jobCluster (snapJob gen9))))) && (let u := { s with ev := { s.ev with msg := ctl 0x74 8 8 } }
       ans .cpoll u (counted u))) &&
    (
      let s := snapping gen9 12 0x75 0
      let g := { gen9 with replies := [(0, (3, 3))] }
      let u := s.modSnap 5 9 (fun g => { g with replies := g.replies.put 0 (3, 3) })
      let j := snapJob g
      decide (u.jobs.look 5 = some j) && same (s.noteDevice 5 9 0 3 3) (((((u.putPhase j 3 none).modJob 5 (fun j => { j with pollAt := 0 })).modSnap 5 9 (fun g => { g with sent := 3 })).tellJob j
        (word (7 * 2 ^ 56 + 9))).post .snapshotSeal { Ev.zero with at_ := 5, x := 9 })) &&
    (
      let s := snapping gen9 12 0x75 0
      let u := s.modSnap 5 9 (fun g => { g with replies := g.replies.put 0 (3, 2) })
      same (s.noteDevice 5 9 0 3 2) ((u.putPhase (snapJob { gen9 with replies := [(0, (3, 2))] }) 2 none).modJob 5 (fun j => { j with pollAt := u.clk + 15040 }))) &&
    (
      let s := snapping gen9 12 0x75 0
      let s := { s with jobs := [(5, { snapJob gen9 with devmask := 3 })] }
      same (s.noteDevice 5 9 0 3 2) (s.modSnap 5 9 (fun g => { g with replies := g.replies.put 0 (3, 2) }))) &&
    (
      let s := snapping gen9 12 0x75 0
      let s := { s with ev := { s.ev with at_ := 5 } }
      ans .countPoll s ((s.modJob 5 (fun j => { j with pollAt := s.clk + 15040 })).pollAtEp 5 0)) &&
    (
      let s := snapping gen9 12 0x75 0
      let s := { s with ev := { s.ev with at_ := 5 }, jobs := [(5, { snapJob gen9 with devmask := 2, home := 3 })] }
      ans .countPoll s ((s.modJob 5 (fun j => { j with pollAt := s.clk + 15040 })).inject (mkMsg 1 0x800 0 3 3 0x74 8 1 true [9])))) = true := by
  decide +kernel

theorem wit_SnapshotEvents_steps :
    ((
      let s := snapping { gen9 with began := true } 12 0x75 0
      let e := fun (v : Ev) => { s with ev := v }
      let a := e { Ev.zero with at_ := 0, x := 11 }
      let b := e { Ev.zero with at_ := 0, x := 12 }
      let c := e { Ev.zero with at_ := 0, x := 13 }
      ans .coreCut a (a.cutCtx 0 11) && decide (s.snapOfBlock 0 = some (5, { gen9 with began := true })) && ans .coreCut b (b.replyUnit 5 { gen9 with began := true } 12) &&
        ans .coreCut c (c.replyUnit 5 { gen9 with began := true } 0)) &&
    (
      let p : PageCut := ⟨1, 2, 0, memKey 1 0 0 0x50000, none, none, false⟩
      let s := snapping { gen9 with began := true, pages := [p] } 12 0x75 0
      let e := fun (v : Ev) => { s with ev := v }
      let a := e { Ev.zero with at_ := memKey 1 0 0 0x50000 }
      let b := e { Ev.zero with at_ := 3, x := 1, y := 5, z := 9 }
      let c := e { Ev.zero with at_ := 5, x := 9 }
      let d := e { Ev.zero with at_ := 5, x := 9, y := 2 }
      ans .cowCopy a ((a.cowPage (memKey 1 0 0 0x50000)).storePage (memKey 1 0 0 0x50000)) && ans .cowCopy b (b.storeUnit 5 9 0 3) &&
        ans .backgroundCopy c ((c.cowPageIn (fun o => o.gen == 9) p.key).post .cowCopy { Ev.zero with at_ := p.key }) && ans .backgroundCopy d (d.storeSaved 5 9 2) &&
        (let v := { c with jobs := [(5, snapJob { gen9 with pages := [{ p with stored := true }] })] }
         ans .backgroundCopy v v)) &&
    (
      let s := snapping { gen9 with sealed := true } 12 0x75 0
      let e := fun (v : Ev) => { s with ev := v }
      let a := e { Ev.zero with at_ := 5, x := 9 }
      let b := e { Ev.zero with at_ := 5, x := 9, y := 3 }
      let t := fun (u : State) => (u.modJob 5 (fun j => { j with goal := none })).rollbackJob 5 9
      !a.savesNow (snapJob { gen9 with sealed := true }) && decide (a.devId = 0) && ans .jobRollbackRequest a ((t a).noteRolled 5 0) &&
        ans .jobRollbackRequest b ((t b).inject (mkMsg 3 0x800 0 (niEndpoint ((t b).jobCluster (snapJob { gen9 with sealed := true }))) 3 0x7A 8 1 false [word (10 * 2 ^ 56 + 9)]))) &&
    (
      let s := snapping { gen9 with sealed := true } 12 0x75 0
      let s := { s with ev := { Ev.zero with at_ := 5, x := 9, y := 3 }, insts := s.insts.map (fun (i : Nat × Inst) => (i.1, { i.2 with st := .preempting })) }
      s.savesNow (snapJob { gen9 with sealed := true }) && ans .jobRollbackRequest s (s.modJob 5 (fun j => { j with goal := some (9, 3) }))) &&
    (
      let s := snapping gen9 12 0x75 0
      let s := { s with ev := { Ev.zero with at_ := 5, x := 9, y := 1 } }
      let f := { s with ev := { Ev.zero with at_ := 5, x := 9, y := 2 } }
      let g := { s with ev := { Ev.zero with at_ := 5, x := 9, y := 2, z := 1 } }
      let n := { s with ev := { Ev.zero with at_ := 6 } }
      ans .snapshotSeal s (s.sendPart 5 9) && ans .snapshotSeal n n && ans .snapshotFail n n && ans .snapshotFail g (g.failGen 5 9 2) &&
        (match (f.failGen 5 9 2).jobs.look 5 with
        | some j => ans .snapshotFail f ((f.failGen 5 9 2).tellJob j (word (4 * 2 ^ 56 + 2 * 2 ^ 32 + 9)))
        | none => false)) &&
    (
      let s := { snapping gen9 12 0x75 0 with ev := { Ev.zero with at_ := 5, x := 9 }, jobs := [(5, { snapJob gen9 with home := 4096 })] }
      match (s.sealSnap 5 9).jobs.look 5 with
      | some j => !(s.sealSnap 5 9).initiates j && ans .snapshotSeal s (s.sealSnap 5 9)
      | none => false) &&
    (
      let s := { snapping { gen9 with sealed := true } 12 0x75 0 with ev := { Ev.zero with at_ := 5, x := 9 } }
      match (s.sealSnap 5 9).jobs.look 5 with
      | some j => (s.sealSnap 5 9).initiates j && j.snaps.any (fun g => g.gen == 9 && g.sealed) && ans .snapshotSeal s ((s.sealSnap 5 9).tellJob j (word (3 * 2 ^ 56 + 9)))
      | none => false) &&
    (
      let p : PageCut := ⟨1, 2, 0, memKey 1 0 0 0x50000, none, none, false⟩
      let s := { data with jobs := [(5, snapJob { gen9 with pages := [p] })] }
      match (s.cowPage (memKey 1 0 0 0x50008)).jobs.look 5 with
      | some k => k.snaps.any (fun m => m.pages.any (fun q => decide (q.key = p.key) && q.bytes.isSome))
      | none => false)) = true := by
  decide +kernel

theorem wit_DeviceEvents :
    ((decide (State.reset.boot.phase = .off ∧ State.reset.boot.step = 0 ∧ State.reset.boot.fails ≠ 3)) &&
    (
      let s := { State.reset with boot := { Boot.zero with step := 2 }, ev := { Ev.zero with at_ := 2 }, agenda := [] }
      ans .deviceStart s (({ s with boot := { s.boot with step := 3 } } : State).post .deviceStart { Ev.zero with at_ := 3 }) &&
      (let u := { s with ev := { s.ev with words := [1] } }
       ans .deviceStart u (u.post .startStepTimeout { Ev.zero with x := 5 }))) &&
    (
      let s := { State.reset with boot := { Boot.zero with step := 5, links := 0 }, ev := { Ev.zero with at_ := 5 }, agenda := [] }
      ans .deviceStart s (({ s with boot := { s.boot with step := 6 } } : State).post .deviceStart { Ev.zero with at_ := 6 })) &&
    (
      let s := { State.reset with boot := { State.reset.boot with step := 3, fails := 2 }, ev := { Ev.zero with x := 5 }, agenda := [] }
      after .startStepTimeout s (fun t => decide (t.boot.reason = 5 ∧ t.boot.fails = 2 ∧ t.boot.step = 0)) && ans .standbyPowerLoss s { s with boot := { s.boot with fails := 0 } }) &&
    (
      let s := at' data { Ev.zero with at_ := 0 }
      raises .clockFault s Cause.clockFault (fun _ => true) && raises .thermalWarn s Cause.thermalWarn (fun _ => true) && raises .powerCap s Cause.powerCap (fun t => t.capped)) &&
    (
      let s := at' data { Ev.zero with at_ := 1, x := 31 }
      raises .clockFault s Cause.clockFault (fun _ => true) && raises .partitionMetadataError s Cause.eccUncorrMeta (fun _ => true)) &&
    (
      let s := at' { data with hot := 8 } { Ev.zero with at_ := 3 }
      ans .thermalRecover s { s with hot := 0 } && after .thermalTrip s (fun t => decide (t.hot = 8) && t.mon.faults.any (fun (e : FaultRec) => e.cause == Cause.thermalTrip))) &&
    (
      let s := at' data { Ev.zero with at_ := 0 }
      ans .startStepTimeout s s && decide (s.boot.phase ≠ .off) && after .deviceStart s (fun t => decide (t.boot.phase = .off ∧ t.boot.step = 0))) &&
    (
      let s := at' data { Ev.zero with at_ := 1 }
      ans .deviceStart s s) &&
    (
      let s := at' (data.modSwitch hubRoot (fun k => { k with queues := [(5, [⟨readReq, 1, [], [], []⟩, ⟨readReq, 1, [], [], []⟩])] })) { Ev.zero with at_ := 1, x := 5 }
      raises .partitionMetadataError s Cause.eccUncorrMeta (fun t => decide (((t.switch hubRoot).queues.get 5 []).length = 1))) &&
    (
      let s := at' data { Ev.zero with at_ := 0, x := 1 }
      after .partitionMetadataError s (fun t => t.mon.faults.any (fun (e : FaultRec) => e.cause == Cause.eccUncorrMeta))) &&
    (
      let s := at' { data with clk := 10, mon := { data.mon with counters := [(0x2002, 1)] } } { Ev.zero with at_ := 3, x := 2 }
      decide (s.mon.counters.get (0x2000 + 2) 0 ≠ 0) && ans .partitionMetadataError s { s with mon := { s.mon with counters := s.mon.counters.put 0x32 1 } }) &&
    (
      let s := at' data { Ev.zero with at_ := 512, x := 1 }
      decide (6 ≤ s.boot.step) && ans .tdiStateChange s { s with hostSide := { s.hostSide with tdi := [(512, 1)] } } && (let u := { s with boot := { s.boot with step := 5, cxl := true } }
       ans .tdiStateChange u u && ans .cxlMemRequest u u && ans .cxlCacheSnoop u u)) &&
    (
      let s := at' { data with boot := { data.boot with cxl := true, window := List.replicate 128 131072 } } { Ev.zero with at_ := 65535, x := 1, words := [7] }
      decide (65535 < s.windowBytes) && (let u := { s with ev := { s.ev with at_ := s.windowBytes } }
       ans .cxlMemRequest u u) && ans .cxlMemRequest s { s with mem := s.mem.putRange (windowKey (65535 / 128 * 128)) (wordsLine [7]) } && after .cxlCacheSnoop s (fun t => decide (t.hostSide.cxlRead.length = 16)) &&
      (let u := { s with ev := { s.ev with x := 0 } }
       after .cxlMemRequest u (fun t => decide (t.hostSide.cxlRead.length = 16) && decide (t.mem = u.mem)))) &&
    (
      let s := at' data { Ev.zero with at_ := 5, x := 1 }
      ans .cxlMemRequest s s && ans .cxlCacheSnoop s s && after .hostMemoryCompletion s (fun t => decide (t.hostSide.denied = [5])) && after .hostMemoryCompletion { s with ev := { s.ev with x := 0 }, hostSide := { s.hostSide with denied := [4, 5] } } (fun t => decide (t.hostSide.denied = [4]))) &&
    (
      let s := at' { data with mon := { data.mon with debugOpen := 3 } } { Ev.zero with at_ := 0, x := 1 }
      ans .debugPortCommand s (s.modCore 0 (fun k => { k with debugHalt := true })) && (let u := { s with ev := { s.ev with x := 7, z := 1, y := 8, words := [9] } }
       ans .debugPortCommand u { u with lmem := u.lmem.putLE 8 8 9 }) && (let u := { s with ev := { s.ev with x := 6, y := memKey 1 0 0 0x50008 } }
       ans .debugPortCommand u { u with mon := { u.mon with debugOut := [0x8887868584838281] } }) && (let u := { s with ev := { s.ev with x := 4 } }
       ans .debugPortCommand u { u with mon := { u.mon with debugArm := true } }) && (let u := { s with ev := { s.ev with x := 3 } }
       ans .debugPortCommand u (u.modCore 0 (fun k => { k with debugHalt := false, debugStep := false }))) && (let u := { s with ev := { s.ev with x := 8 } }
       ans .debugPortCommand u { u with mon := { u.mon with debugOut := [0] } }) && (let u := { s with ev := { s.ev with x := 12 } }
       ans .debugPortCommand u { u with mon := { u.mon with debugOut := [(u.ctx 0 0).pc, (u.ctx 0 0).instret] } }) && (let u := { s with ev := { s.ev with x := 13, z := 1, y := 0x800 } }
       ans .debugPortCommand u { u with mon := { u.mon with debugOut := [u.debugUnit 1 0x800] } }) && (let u := { s with ev := { s.ev with x := 14, z := 1, y := 0x800, words := [4096] } }
       ans .debugPortCommand u (u.debugSetUnit 1 0x800 4096))) &&
    (
      let s := at' data Ev.zero
      decide (s.mon.nonceFresh = false) && after .debugToken s (fun t => decide (t.mon.audit.length = 1))) &&
    (
      let s := at' { data with mon := { data.mon with debugOpen := 1 } } { Ev.zero with at_ := 0, x := 1 }
      decide (s.mon.debugOpen < s.debugNeeds 1 0) && ans .debugPortCommand s s)) = true := by
  decide +kernel

/-- With no nonce out, or for an empty token, the port stays shut. -/
theorem wit_DeviceEvents_token (s : State) (n : List Byte) : s.tokenOk [] n = false ∧ State.reset.mon.nonceFresh = false := by
  constructor
  · simp [State.tokenOk, leNat]
  · rfl

/-- A table of zeros is rejected whatever its signature. -/
theorem wit_DeviceEvents_table : ∃ r, State.reset.tableBad = some r := by
  unfold State.tableBad
  simp only []
  split
  · exact ⟨_, rfl⟩
  · split
    · exact ⟨_, rfl⟩
    · next h => exact absurd (by decide +kernel : State.reset.tableFormed = false) (by simpa using h)

/-- A monitor call of core 0 with arguments, from a context of the function `vf`; x9 receives the status. -/
def called (vf z : Nat) (l : List Word) : State :=
  let s := (super data).modCur (fun x => { x with wait := some .monitor })
  at' { s with procs := s.procs.map (fun (p : Nat × Proc) => (p.1, { p.2 with vf := vf })) } { Ev.zero with at_ := 0, x := 0, y := 9, z := z, words := l }

theorem wit_MonitorCalls :
    ((
      let s := called 3 0 [1]
      [Instr.partCreate, .partReset, .partDestroy, .auditRead, .pewterUpdate, .policyLoad, .policyUnload, .policyPin].all (fun i => ans i s (returned s 0xFE []))) &&
    (
      let s := called 0 0 [31, 0x80000000, 0x100000000000]
      decide (s.createBad 31 0x80000000 0x1000 = none) && after .partCreate s (fun t => (t.parts.look 31).isSome)) &&
    (
      let s := called 0 0 [1, 2, 0]
      decide (s.createBad 1 2 0 = some 1) && ans .partCreate s (returned s 1 []) && (s.parts.look 1).isSome && after .partDestroy s (fun t => (t.parts.look 1).isNone)) &&
    (
      let s := called 0 0 [0]
      decide (s.parts.look 0 = none) && ans .partReset s (returned s 2 []) && ans .partDestroy s (returned s 2 [])) &&
    (
      let s := called 3 1 []
      ans .partReset { s with ev := { s.ev with x := 1 } } (({ s with ev := { s.ev with x := 1 } } : State).resetPart 1)) &&
    (
      let s := called 3 0 [1, 0, word (2 ^ 48 - 1), 0]
      s.contextOf 1 3 && (s.part 1).blocks.testBit 0 && s.boot.blocks.testBit 0 && ans .banks s ((s.modProc 1 (fun c => { c with banks := c.banks.put 0 (2 ^ 48 - 1) })).callReturn s.ev 0 [])) &&
    (
      let s := called 3 0 [1, 0, 1, 1]
      let s := { s with procs := s.procs.map (fun (p : Nat × Proc) => (p.1, { p.2 with banks := [(0, 3)] })) }
      ans .banks s ((s.modProc 1 (fun c => { c with banks := c.banks.put 0 2 })).callReturn s.ev 0 [])) &&
    (
      let s := called 3 0 [2]
      match s.callEnt 1 2 [] with
      | some e => let t := s.dropMap 1 1 e
        !t.oldAccess 1 2 && ans .mapFlush s (({ t with mon := { t.mon with flushes := [] } } : State).callReturn s.ev 0 [])
      | none => false) &&
    (
      let s := called 3 0 [1, 2, 0xFC0, 2, 0x1000]
      (s.callEnt 1 2 [rR]).isSome && (s.callEnt 1 2 [rW]).isSome && s.contextOf 1 3 && decide (0xFC0 + 64 ≤ 0x1000)) &&
    (
      let s := called 0 0 [2, 0xFE0, 5]
      let s := { s with mon := { s.mon with audit := [⟨1, 2, 3, 4, 5⟩, ⟨2, 2, 3, 4, 5⟩], auditLost := 6 } }
      let t := s.devWrite 1 2 0xFE0 (Audit.bytes ⟨1, 2, 3, 4, 5⟩)
      ans .auditRead s (({ t with mon := { t.mon with audit := [⟨2, 2, 3, 4, 5⟩], auditLost := 0 } } : State).callReturn s.ev 0 [1, 6])) &&
    (
      let s := called 3 0 [2, 0xFF8]
      match s.translate 1 (entryOf 2 0xB 0 0x1000) 0xFF8 .write 0 with
      | .ok (.mem k) => let la := (0x80000 + 0xFF8) / 128
        let t := (s.drainThrough 0 (fun w => w.oaddr / 128 == la)).coloured 0 1 0 la (fun s => s.pathClean 0 1 0 la)
        let u := (t.cowPage k).markPage k
        decide ((entryOf 2 0xB 0 0x1000).leaf 0 = 0) && ans .errinj s (({ u with mem := u.mem.addPoison k } : State).callReturn s.ev 0 [])
      | _ => false) &&
    (
      let s := called 0 0 [2]
      decide (s.mon.staged = none) && (s.callEnt 1 2 [rR]).isSome && !s.imageSigned (imageOfBytes (s.objectBytes 1 (entryOf 2 0xB 0 0x1000))) && ans .policyLoad s (returned s 1 []) &&
      (let u := { s with mon := { s.mon with roles := [(0, 2)] } }
       ans .pewterUpdate u ((u.notice 1 Cause.fwUpdate 1 0xFFFF 0).callReturn u.ev 0 []))) &&
    (
      let s := called 0 0 [2]
      let s := { s with mon := { s.mon with staged := some (1, []) } }
      ans .pewterUpdate s (returned s 6 []) && (let u := { s with ev := { s.ev with x := 1 } }
       ans .pewterHandover u (({ u with mon := { u.mon with staged := none } } : State).notice 1 Cause.fwUpdate 3 0xFFFF 0))) &&
    (
      let s := called 0 0 [7]
      let u := { s with mon := { s.mon with pins := [(3, 7)] } }
      ans .policyUnload u (returned u 4 []) && (let v := { s with mon := { s.mon with policies := [⟨7, []⟩, ⟨8, []⟩] } }
       ans .policyUnload v (({ v with mon := { v.mon with policies := [⟨8, []⟩] } } : State).callReturn v.ev 0 []))) &&
    (
      let s := called 0 0 [512, 7]
      let s := { s with mon := { s.mon with policies := [⟨7, []⟩] } }
      !s.functionLives 512 && ans .policyPin s (returned s 2 [])) &&
    (
      let s := called 0 0 [512, 7]
      let s := { s with mon := { s.mon with policies := [⟨7, []⟩] }, procs := s.procs.flatMap (fun (p : Nat × Proc) => [p, (2, { p.2 with vf := 512 })]) }
      s.functionLives 512 && ans .policyPin s (({ s with mon := { s.mon with pins := [(512, 7)], repinned := [512] } } : State).callReturn s.ev 0 []))) = true := by
  decide +kernel

/-- An image of 16 bytes whose signature is two bytes long: all that is left to hold is the verification (log entry 8). -/
theorem wit_MonitorCalls_image (s : State) :
    s.imageSigned [1, 0, 0, 0, 0, 0, 0, 0, 16, 0, 0, 0, 2, 0, 9, 9] =
      Config.falconVerify s.vendorKey [1, 0, 0, 0, 0, 0, 0, 0, 16, 0, 0, 0, 2, 0] [9, 9] := rfl

/-! ## Queues, packets, the dispatcher, the events of the cores -/

/-- Queue 0 of context 1 in a state, with 16 packets and records, and what waits and runs there. -/
def hostQ (st : Nat) (waiting : List Packet) (running : List Running) : HostQueue :=
  { HostQueue.zero with qstate := st, ringbase := 0x1000, ringcfg := 4, cplbase := 0x2000, cplcfg := 4, owner := 65537, waiting := waiting, running := running }

/-- A write of `v` to a register of queue 0. -/
def qw (k : HostQueue) (x : Nat) (v : Word) : State := at' { data with queues := [(0, k)] } { Ev.zero with x := x, words := [v] }

/-- A LAUNCH of one instance on core 1. -/
def launch1 : Packet := ⟨3, [1, word (2 ^ 48), word (2 ^ 24 + 2 * 2 ^ 16), word (2 ^ 32), 5, 6, 0, 0], 0, false⟩

/-- A packet of one word of body. -/
def packet (t : Nat) (w : List Nat) : Packet := ⟨3, word t :: (w.map word ++ List.replicate (7 - w.length) 0), 0, false⟩

/-- The event of a packet that runs on queue 0. -/
def runs (s : State) (p : Packet) : State := at' { s with queues := [(0, hostQ 1 [] [⟨p, 0, 0⟩])] } { Ev.zero with x := p.idx }

/-- What completes a packet of `runs`. -/
def doneB (s : State) (st res : Nat) : State := s.post .packetComplete { Ev.zero with x := 3, y := st, z := res }

theorem wit_QueueEvents_registers :
    ((
      let s := qw (hostQ 1 [] []) 0 16
      decide (s.pageQueue s.ev = some 0) && ans .tailWrite s (s.modQueue 0 (fun k => { k with tail := 16 })) && ans .cplheadWrite s (s.modQueue 0 (fun k => { k with cplhead := 16 }))) &&
    (
      let s := qw (hostQ 1 [] []) 0 17
      ans .tailWrite s (s.modQueue 0 (fun k => { k with qstate := 4, ecode := 1 }))) &&
    (
      let s := qw { hostQ 0 [] [] with cfgrej := true } 0 0x80
      ans .statusClear s (s.modQueue 0 (fun k => { k with cfgrej := false })) && ans .queueEnable s (s.modQueue 0 (fun k => { k with qstate := 1 }))) &&
    (
      let s := qw { hostQ 0 [] [] with ringcfg := 3 } 0 0
      ans .queueEnable s (s.modQueue 0 (fun k => { k with qstate := 4, ecode := 5 }))) &&
    (
      let s := qw (hostQ 1 [] []) 0 0
      ans .queuePause s (s.modQueue 0 (fun k => { k with qstate := 2 })) && ans .queueDisable s (s.modQueue 0 (fun k => { k with qstate := 0 }))) &&
    (
      let s := qw (hostQ 2 [launch1] []) 0 0
      ans .queueResume s (s.modQueue 0 (fun k => { k with qstate := 1 })) && ans .queueDisable s (s.modQueue 0 (fun k => { k with qstate := 3 }))) &&
    (
      let s := qw { hostQ 4 [] [] with tail := 9, ecode := 3, cfgrej := true } 0 0
      after .queueReset s (fun t => decide ((t.queue 0).qstate = 0 ∧ (t.queue 0).head = 9 ∧ (t.queue 0).ecode = 0) && !(t.queue 0).cfgrej)) &&
    (
      let s := qw (hostQ 1 [] []) 0x800 0
      !s.privateShut 0 s.ev && ans .queueConfigWrite s (s.modQueue 0 (fun k => { k with cfgrej := true }))) &&
    (
      let s := qw (hostQ 0 [] []) 0x800 0x3000
      ans .queueConfigWrite s (s.modQueue 0 (fun k => { k with ringbase := 0x3000 })) && (let u := qw (hostQ 0 [] []) 0x808 255
       ans .queueConfigWrite u (u.modQueue 0 (fun k => { k with ringcfg := 255 }))) && (let u := qw (hostQ 0 [] []) 0x810 0
       ans .queueConfigWrite u (u.modQueue 0 (fun k => { k with cplbase := 0 }))) && (let u := qw (hostQ 0 [] []) 0x818 65535
       ans .queueConfigWrite u (u.modQueue 0 (fun k => { k with cplcfg := 65535 })))) &&
    (
      let s := qw { hostQ 0 [] [] with owner := 65537 + 2 ^ 18 } 0x800 0
      let s := { s with hostSide := { s.hostSide with tdi := [(0, 2)] } }
      let u := { s with ev := { s.ev with x := 0xFF8, words := [0, 4] } }
      s.privateShut 0 s.ev && ans .queueConfigWrite s (s.audit 1 0 0 0x800) && u.privateShut 0 u.ev && ans .queueConfigWrite u (u.audit 1 0 0 0xFF8)) &&
    (
      let s := qw { hostQ 0 [] [] with cfgrej := true } 0 0x88
      ans .statusClear s s && ans .statusClear { s with ev := { s.ev with words := [1] } } { s with ev := { s.ev with words := [1] } }) &&
    (
      let s := at' data { Ev.zero with words := [7] }
      let u := { s with mon := { s.mon with telidx := [(0, 0x20)] } }
      let v := { s with mon := { s.mon with telidx := [(0, 6)], counters := [(6, 9)] } }
      !s.protectedVf 0 && ans .teldataRead u { u with hostSide := { u.hostSide with regRead := u.bootStatus } } && ans .teldataRead v { v with hostSide := { v.hostSide with regRead := 9 } } &&
        after .teldataRead s (fun t => decide (t.freeNo = s.freeNo + 1))) &&
    (
      let r := fun (v : Nat) => { qw { hostQ 1 [] [] with tail := 5, head := 4, cplhead := 3, cpltail := 2, ecode := 6, cfgrej := true } 1 (word v) with mon := data.mon }
      let is := fun (v : Nat) (w : Word) => ans .teldataRead (r v) { r v with hostSide := { (r v).hostSide with regRead := w } }
      decide (6 ≤ (r 0).boot.step) && decide ((r 0).pageQueue (r 0).ev = some 0) && (r 0).ev.whole && !(r 0).privateShut 0 (r 0).ev && is 0 5 && is 8 4 && is 0x10 3 && is 0x18 2 &&
        is 0x20 (word (6 * 256 + 128 + 1)) && is 0x28 0 && is 0x800 0x1000 && is 0x820 65537) &&
    (
      let s := { qw { hostQ 0 [] [] with owner := 65537 + 2 ^ 18 } 1 0x800 with hostSide := { HostSide.zero with tdi := [(0, 2)] } }
      let n := { s with ev := { s.ev with at_ := 40000 } }
      s.privateShut 0 s.ev && ans .teldataRead s (({ s with hostSide := { s.hostSide with regRead := 0 } } : State).audit 1 0 0 0x800) &&
        decide (n.pageQueue n.ev = none) && ans .teldataRead n { n with hostSide := { n.hostSide with regRead := 0 } }) &&
    (
      let r := fun (off v : Nat) => at' { data with queues := [(0, hostQ 1 [] [])] } { Ev.zero with at_ := 0x10000, x := off, words := [word v] }
      let to_ := fun (off v : Nat) (i : Instr) => ans .registerWrite (r off v) ((r off v).post i { (r off v).ev with at_ := 0 })
      to_ 0x28 1 .queueEnable && to_ 0x28 2 .queuePause && to_ 0x28 3 .queueResume && to_ 0x28 4 .queueDisable && to_ 0x28 5 .queueReset && to_ 0 7 .tailWrite && to_ 0x10 7 .cplheadWrite &&
        to_ 0x20 128 .statusClear && to_ 0x800 4096 .queueConfigWrite && ans .registerWrite (r 0x28 0) (r 0x28 0) && ans .registerWrite (r 0x28 6) (r 0x28 6)) &&
    (
      let s := at' { data with mon := { data.mon with firewalls := [(3, 0)] } } { Ev.zero with at_ := 5, x := 3, words := [9] }
      ans .registerWrite s { s with mon := { s.mon with pmasks := [(3, 9)] } }) &&
    (
      let s := qw (hostQ 1 [] []) 0 16
      let u := { s with boot := { s.boot with step := 5 } }
      let v := { s with ev := { s.ev with words := [16, 4] } }
      let w := { s with ev := { s.ev with x := 0x800, words := [16, 4] } }
      !v.ev.whole && [Instr.tailWrite, .cplheadWrite, .statusClear, .queueEnable, .queuePause, .queueResume, .queueDisable, .queueReset, .queueConfigWrite].all (fun i => (i == .queueConfigWrite || ans i v v) && ans i u u) && !w.privateShut 0 w.ev && ans .queueConfigWrite w w &&
        ans .teldataRead u u && ans .registerWrite u u) &&
    (
      let s := { qw { hostQ 0 [] [] with owner := 65537 + 2 ^ 18 } 0 0 with hostSide := { HostSide.zero with tdi := [(0, 2)] } }
      let s := { s with mon := { s.mon with telidx := [(0, 5)] } }
      s.protectedVf 0 && !telAllowed 5 && ans .teldataRead s (({ s with hostSide := { s.hostSide with regRead := 0 } } : State).audit 2 0 5 0)) &&
    (
      let s := at' data { Ev.zero with at_ := 1, x := 4, words := [65535] }
      ans .registerWrite s { s with mon := { s.mon with telidx := [(4, 65535)] } } && (let u := at' data { Ev.zero with at_ := 2, x := 63, words := [0x8000] }
       ans .registerWrite u { u with routes := [(63, 0x8000)] }) && (let u := at' data { Ev.zero with at_ := 3, x := 5, words := [63] }
       ans .registerWrite u { u with owners := [(5, 63)] }) && (let u := at' data { Ev.zero with at_ := 6, x := 1, y := 2, words := [8] }
       ans .registerWrite u (u.modSwitch 1 (fun k => { k with weights := [(2, 8)] })) && ans .registerWrite { u with ev := { u.ev with z := 1 } } { u with ev := { u.ev with z := 1 } })) &&
    (
      let s := at' data { Ev.zero with at_ := 1, x := 6, words := [44] }
      ans .teldataRead s { s with hostSide := { s.hostSide with regRead := word ((s.switch 1).weight 1 44) } })) = true := by
  decide +kernel

theorem wit_QueueEvents_packets :
    ((
      let s := qw { hostQ 1 [] [] with tail := 1 } 0 0
      !s.hostAborts 0x1000 && ans .takePacket s (s.modQueue 0 (fun k => { k with head := 1, waiting := [⟨0, List.replicate 8 0, 0, false⟩] })) && (let u := { s with hostSide := { s.hostSide with denied := [0] } }
       u.hostAborts 0x1000 && ans .takePacket u (u.modQueue 0 (fun k => { k with qstate := 4, ecode := 2 })))) &&
    (
      let p := packet 0 []
      let s := qw (hostQ 1 [p] []) 0 0
      let t := { s.modQueue 0 (fun k => { k with waiting := [], running := [⟨p, 0, 0⟩], lastStart := 1 }) with nextPkt := 2 }
      decide ((s.queue 0).nextStart true = some p) && (match t.checkPacket 0 p with
        | .ok _ => ans .packetStart s (t.post .nopPacket { Ev.zero with x := 3 })
        | .error _ => false)) &&
    (
      let p := { packet 0 [] with aborted := true }
      let s := qw (hostQ 1 [p] []) 0 0
      let t := { s.modQueue 0 (fun k => { k with waiting := [], running := [⟨p, 0, 0⟩], lastStart := 1 }) with nextPkt := 2 }
      ans .packetStart s (t.post .packetComplete { Ev.zero with x := 3, y := 10, z := 0 })) &&
    (
      let p := packet 3 [2 * 2 ^ 48 + 4, 2 * 2 ^ 48 + 8, 6, 0, 7, 8]
      let s := { qw (hostQ 1 [p] []) 0 0 with hot := 15 }
      s.tooHot 0 p && ans .packetStart s s) &&
    (
      let p := packet 10 []
      let s := qw (hostQ 1 [p] []) 0 0
      let t := { s.modQueue 0 (fun k => { k with waiting := [], running := [⟨p, 0, 0⟩], lastStart := 1 }) with nextPkt := 2 }
      match t.checkPacket 0 p with
        | .ok _ => false
        | .error e => ans .packetStart s (t.post .packetComplete { Ev.zero with x := 3, y := e.1, z := e.2 })) &&
    (
      let s := runs data (packet 0 [])
      let g := { s with boot := { s.boot with blocks := 0 } }
      !g.hasQueue 0 && ans .packetComplete g g && s.hasQueue 0 && decide (s.runningPkt 0 3 = some ⟨packet 0 [], 0, 0⟩) && !openResult 0 && ans .packetComplete s ((s.modQueue 0 (fun k => { k with running := [], rsv := 0 })).modQueue 0 HostQueue.settled)) &&
    (
      let s := runs data (packet 0x200 [])
      !s.hostAborts 0x2000 && decide ((s.writeRecord 0 (packet 0x200 []) 0 7).host.getLE 0x2010 8 = 7)) &&
    (
      let s := runs data (packet 0 [])
      ans .nopPacket s (doneB s 0 0)) &&
    (
      let s := runs data launch1
      ans .launch s (s.makeTask 0 ⟨launch1, 0, 0⟩ [launch1.launchNode]) && (match (s.makeTask 0 ⟨launch1, 0, 0⟩ [launch1.launchNode]).tasks.look 1 with
        | some t => decide (t.ctxid = 1 ∧ t.part = 1 ∧ t.owner = .packet 0 3)
        | none => false)) &&
    (
      let s := runs data (packet 2 [2 * 2 ^ 48])
      let m := ((s.mem.putLE (memKey 1 0 0 0x50000) 8 1).putLE (memKey 1 0 0 0x50008) 8 0).putLE (memKey 1 0 0 0x50040) 8 (2 ^ 48)
      let s := { s with mem := (m.putLE (memKey 1 0 0 0x50048) 8 (2 ^ 24 + 2 * 2 ^ 16)).putLE (memKey 1 0 0 0x50050) 8 (2 ^ 32) }
      match s.graphNodes 1 1 2 with
      | .ok ns => decide (ns.length = 1) && ans .graph s (s.makeTask 0 ⟨packet 2 [2 * 2 ^ 48], 0, 0⟩ ns)
      | .error _ => false) &&
    (
      let s := runs data (packet 3 [2 * 2 ^ 48 + 4, 2 * 2 ^ 48 + 8, 6, 0, 7, 8])
      !s.minimal && ans .copy s (s.setJobs (s.firstCluster 1) 16 [{ Job.new 1 1 (s.firstCluster 1 * 8) (.packet 0 3) 2 with srch := s.indexHandle 1 2, srcoff := 4, dsth := s.indexHandle 1 2, dstoff := 8, rows := 1, len := 6, sstride := 7, dstride := 8 }])) &&
    (
      let s := runs (barrier 1 5 0) (packet 4 [4 * 2 ^ 48 + 5])
      let a := s.arriveAt 1 4 5
      ans .signal s (doneB a.2 (if a.1 = true then 1 else 0) 0)) &&
    (
      let s := runs (barrier 1 5 0) (packet 5 [4 * 2 ^ 48 + 4, 100])
      s.genReleased 0 (packet 5 [4 * 2 ^ 48 + 4, 100]) && ans .waitPacket s (doneB s 0 4)) &&
    (
      let s := runs (barrier 1 5 0) (packet 5 [4 * 2 ^ 48 + 5, 100])
      !s.genReleased 0 (packet 5 [4 * 2 ^ 48 + 5, 100]) && ans .waitPacket s s && ans .waitTimeout s ((doneB s 9 0).modQueue 0 (fun k => { k with qstate := 4, ecode := 4 }))) &&
    (
      let s := runs data (packet 6 [0x5000, 7])
      decide (7 < s.summary.length) && ans .resync s (doneB s 8 s.summary.length) && (let u := runs data (packet 6 [0x5000, 0xFFFF])
       !u.hostAborts 0x5000 && ans .resync u (doneB { u with host := u.host.putRange 0x5000 u.summary } 0 u.summary.length))) &&
    (
      let s := runs (jobObj 5 0 1) (packet 7 [8 * 2 ^ 48 + 9])
      match s.liveEnt 1 8, s.objHome 1 8 with
      | some e, some home => let j := s.jobOf (jobNo home) 1 8 e (senderWord s.devId (niEndpoint (s.firstCluster (s.queuePart 0) * 8 / 8)))
        decide (bits (s.jobWord j 0) 63 32 ≠ 9) && ans .snapshot s (doneB s 1 0)
      | _, _ => false) &&
    (
      let s := runs (jobObj 5 0 1) (packet 7 [8 * 2 ^ 48 + 0])
      let v := { s with mem := s.mem.putLE (memKey 1 0 0 0x60008) 8 (1 + 3 * 2 ^ 32) }
      match s.liveEnt 1 8, s.objHome 1 8 with
      | some e, some home =>
          let sep := senderWord s.devId (niEndpoint (s.firstCluster (s.queuePart 0) * 8 / 8))
          let j := s.jobOf (jobNo home) 1 8 e sep
          let wait := fun (t : State) => t.modJob (jobNo home) (fun j => { j with waiters := j.waiters ++ [(0, 3)] })
          decide (bits (s.jobWord j 0) 63 32 = 0) && j.devmask.testBit 0 && decide (bits (s.jobWord j 1) 1 0 = 0) && decide (bits (v.jobWord j 1) 1 0 = 1) &&
            ans .snapshot s (wait (s.startSnap (jobNo home) 1 8 e (s.firstCluster (s.queuePart 0) * 8))) && ans .snapshot v (wait v)
      | _, _ => false) &&
    (
      let s := withObj (base 0) 2 7 0 0x100000 5
      let s := { s with mem := s.mem.putLE (memKey 1 0 0 0x50000) 8 (2 ^ 32) }
      let s := runs s (packet 8 [0, 2 * 2 ^ 48 + 0x10000, 0, 2 * 2 ^ 48, 2 ^ 48 + 5, 8 * 2 ^ 32 + 0x1000])
      decide ((0 : Int) ≤ s.freePages 1 0 ∧ (0 : Int) ≤ s.freePages 1 1) && decide (s.procs.length = 1) && decide (s.queuePart 0 = 1) &&
        after .admitPacket s (fun t => decide (t.agenda.map (fun (a : Instr × Ev) => (a.1, a.2.x, a.2.y, a.2.z)) = [(.packetComplete, 3, 0, s.freshCtx)]) && (t.procs.look s.freshCtx).isSome)) &&
    (
      let s := runs data (packet 8 [2 ^ 63])
      decide (s.freePages 1 0 < (2 ^ 31 : Int)) && ans .admitPacket s (doneB s 7 0)) &&
    (
      let s := runs data (packet 9 [1])
      after .retire s (fun t => (match t.procs.look 1 with
        | some p => p.retired
        | none => false) && decide (t.mon.keys.look 1 = none)))) = true := by
  decide +kernel

/-- A state in which function 0 has its slice and queue 0 holds a LAUNCH. -/
def busy : State := (qw (hostQ 1 [launch1] []) 0 0 |> fun s => at' s { Ev.zero with at_ := 1 }).modPart 1 (fun p => { p with procs := [⟨0, 0, 1, 0, false⟩], sliceEnd := 100 })

/-- The node of `launch1` in a task of its own. -/
def tasked (n : Node) : State := { data with tasks := [(1, ⟨1, 1, 1, 0, .packet 0 3, [n], 0, none, none, false, 0⟩)] }

theorem wit_DispatchEvents :
    ((
      let t := busy.refreshProcs 1
      match t.chooseItem 1 with
      | (some (.go it slot), missed) => decide (slot = [1]) && ans .dispatchDecision busy ((missed.foldl (fun s k => s.passOver 1 k) t).startItem 1 it slot)
      | _ => false) &&
    (
      let s := at' data { Ev.zero with at_ := 1 }
      decide ((s.refreshProcs 1).chooseItem 1 = (none, [])) && ans .dispatchDecision s (s.refreshProcs 1)) &&
    (
      let s := at' (tasked launch1.launchNode) { Ev.zero with at_ := 1, words := [1] }
      s.coreFree 1 && after .gangStart s (fun u => decide ((u.core 1).inst = 1 ∧ (u.core 1).gangSize = 1) && decide (((u.core 1).ctx 0).pc = 0))) &&
    (
      let s := at' ((tasked { launch1.launchNode with started := 1 }).modCore 0 (fun k => { k with ended := true })) { Ev.zero with at_ := 1 }
      match s.insts.look 1 with
      | some i => let u := (s.release 0 2).freeCores [0]
        s.instOver i && decide (i.cores = [0]) && (match u.tasks.look 1 with
          | some t => ans .instanceComplete s (({ u with
              insts := u.insts.del 1
              tasks := u.tasks.put 1 { t with nodes := [{ launch1.launchNode with started := 1, done := 1, finished := true }] } } : State).post .instanceComplete { Ev.zero with at_ := 1, x := 2 })
          | none => false)
      | none => false) &&
    (
      let s := at' { tasked { launch1.launchNode with finished := true } with insts := [] } { Ev.zero with at_ := 1, x := 2 }
      ans .instanceComplete s (({ s with tasks := [] } : State).post .packetComplete { Ev.zero with at_ := 0, x := 3, y := 0, z := 1 })) &&
    (
      let t := { busy with mon := { busy.mon with policyNow := [] } }
      (t.runnableVfs 1).contains 0 && decide (t.share 0 = 16) && decide (t.runningOf 1 (fun v => t.share v == 0) = []) &&
      after .periodStart busy (fun u => decide ((u.part 1).sliceVf = 0 ∧ (u.part 1).sliceEnd = 4000 * 1880 ∧ (u.part 1).inPeriod = [0]))) &&
    (
      let s := (at' { data with insts := [] } { Ev.zero with at_ := 1 }).modPart 1 (fun p => { p with sliceEnd := 100 })
      !(s.runnableVfs 1).contains 0 && ans .sliceEnd s (s.modPart 1 (fun q => q.newSlice 0 0 [])) && (let u := s.modPart 1 (fun p => { p with slicesLeft := [(2, 7)] })
       ans .sliceEnd u (u.modPart 1 (fun q => q.newSlice 2 107 [])))) &&
    (
      let s := at' data { Ev.zero with at_ := 512 }
      raises .policyImageFault s Cause.fwAssert (fun t => decide (t.mon.policyBad = [512])))) = true := by
  decide +kernel

/-- Context 1 with a save object of two images, object 2 at page 5. -/
def savable : State :=
  let s := { data with procs := data.procs.map (fun (p : Nat × Proc) => (p.1, { p.2 with save := 2 })) }
  { s with mem := s.mem.putLE (memKey 1 0 0 0x50000) 8 (2 * 2 ^ 32) }

/-- The instance of `data` in a state of its own. -/
def inst1 (st : InstState) (images : List Nat) : Inst := ⟨1, 1, 0, 0, [0], st, images, 0, false, 0, 0, 0⟩

theorem wit_DispatchEvents_preempt :
    ((
      let s := at' { savable.modCore 0 (fun k => { k with ended := true }) with insts := [(1, inst1 .preempting [])] } { Ev.zero with at_ := 1, x := 9 }
      s.saveReady (inst1 .preempting []) && ans .preempt s (s.saveInst (inst1 .preempting []))) &&
    (
      let s := at' savable { Ev.zero with at_ := 1, x := 1 }
      s.canSave (inst1 .running []) && ans .preempt s (s.askPreempt (inst1 .running []) 0) && ((s.askPreempt (inst1 .running []) 0).core 0).preempt) &&
    (
      let s := at' savable { Ev.zero with at_ := 1 }
      ans .preemptTimeout s ((s.notice (s.instCtx (inst1 .running [])) Cause.preempted 1 0xFFFF 1).killTask 1 Cause.preempted)) &&
    (
      let s := at' { tasked { launch1.launchNode with started := 1 } with insts := [(1, inst1 .saved [imageKey 1 0])] } { Ev.zero with at_ := 1, words := [1] }
      let k := imageKey 1 0
      let u := s.cutResumed (inst1 .saved [k]) [1]
      let v := (u.restoreImage (inst1 .saved [k]) [1] 1 (u.imageAt k)).dropImage k
      let lent := { inst1 .saved [k] with donate := true, lender := 1 }
      let l := { s with insts := [(1, lent)] }
      let lu := l.cutResumed lent [1]
      let lv := (lu.restoreImage lent [1] 1 (lu.imageAt k)).dropImage k
      !s.imageCopying 1 && (s.slotsOf (inst1 .saved [k])).contains [1] && s.coreFree 1 && ans .resume s (({ v with insts := v.insts.put 1 { inst1 .running [] with cores := [1] } } : State).charge1 (v.instCtx (inst1 .saved [k])) 1) &&
        ans .resume l (({ lv with insts := lv.insts.put 1 { inst1 .running [] with cores := [1], lender := 1 } } : State).charge1 1 1)) &&
    (
      let j : Inst := ⟨2, 1, 0, 0, [1], .saved, [], 0, false, 0, 0, 0⟩
      let s := at' ({ tasked { launch1.launchNode with started := 2, count := 2, cores := [0] } with insts := [(1, { inst1 .running [] with index := 1 }), (2, j)] }.modCtx 0 0 (fun x => { x with yieldPoint := true })) { Ev.zero with at_ := 0 }
      (s.ctx 0 0).yieldPoint && decide ((s.instsOf 1 0).filter (fun j => j.st == .saved && decide (j.index < 1)) = [j]) && decide (s.freeSlot 1 10 [[0]] = none) &&
      ans .yieldPoint s (s.post .preempt { Ev.zero with at_ := 1, x := 3, y := 2 }))) = true := by
  decide +kernel

theorem wit_CoreEvents :
    ((
      let r : TrapReq := ⟨Cause.hBound, 5, 0, 0, 0x10⟩
      let s := at' (data.modCtx 0 0 (fun x => { x with trapPend := some r })) Ev.zero
      let u := s.modCtx 0 1 (fun x => { x with live := true, sup := true })
      let v := at' data Ev.zero
      !(s.core 0).otherSup 0 && ans .trapEntry s (s.takeTrap 0 0 r) && (u.core 0).otherSup 0 && ans .trapEntry u u && decide ((v.ctx 0 0).trapPend = none) && ans .trapEntry v v) &&
    (
      let s := at' data { Ev.zero with y := Cause.hInvalid, z := 1, words := [7] }
      ans .fetchFault s (s.takeTrap 0 0 ⟨Cause.hInvalid, 7, 0, 1, 0⟩) && ans .illegalWord s (s.takeTrap 0 0 ⟨Cause.hInvalid, 7, 0, 0, 0⟩)) &&
    (
      let s := at' (super data) Ev.zero
      ans .watchdog s (((s.notice 1 Cause.watchdog 1 0 1).logFault Cause.watchdog 2 0 1 1).killTask 1 Cause.watchdog)) &&
    (
      let s := at' (data.modCtx 0 0 (fun x => { x with wait := some .pause, pauseCount := 4095 })) Ev.zero
      ans .pauseExpire s (s.setCtx 0 0 { s.ctx 0 0 with wait := none, pauseCount := 4095 })) &&
    (
      let s := at' data { Ev.zero with x := 11 }
      ans .frameFill s (s.modCore 0 (fun k => { k with frames := k.frames ++ [(11, false)] }))) &&
    (
      let s := at' (data.modCore 0 (fun k => { k with frames := [(0, true), (1, false), (2, false), (3, false)] })) { Ev.zero with x := 4 }
      after .frameFill s (fun t => decide ((t.core 0).frames = [(1, false), (2, false), (3, false), (4, false)]))) &&
    (
      let s := at' { data with tqueue := [(0, 0x40), (1, 0x40)] } { Ev.zero with x := 0x40 }
      ans .translationRead s { s with tqueue := [(1, 0x40)] }) &&
    (
      let K := memKey 1 0 0 0x50000
      let s := at' { (data.modCur (fun x => { x with wait := some (.translation K) })) with tqueue := [(0, K)], mem := data.mem.putLE K 8 (2 ^ 63 + 3) } { Ev.zero with x := K }
      let t := ({ s with tqueue := [] } : State).modCur (fun x => { x with mapRead := some (K, word (2 ^ 63 + 3)) })
      let l := { s with mem := s.mem.addPoison K }
      !s.tableLost K 8 && ans .translationRead s (t.mapPage 0 K (word (2 ^ 63 + 3))) && l.tableLost K 8 && ans .translationRead l { t with mem := l.mem }) &&
    (
      let e := { LEntry.new (.vadd 0 1 2 0 0 0) 0 0 0 0 with seq := 0 }
      let s := at' (data.modCore 0 (fun k => { k with lq := [e] })) Ev.zero
      match s.decideGrant 0 with
      | (some c, _) => s.grantReady 0 && decide (c = 0) && !e.wantsMatrix && after .latticeGrant s (fun u => decide ((u.core 0).lq = []) && (u.cluster 0).rewire.isNone)
      | _ => false) &&
    (
      let e := { LEntry.new (.mmaE4m3 0 1 0 0) 0 0 0 0 with seq := 0 }
      let s := at' (data.modCore 0 (fun k => { k with lq := [e] })) Ev.zero
      match s.decideGrant 0 with
      | (some c, t) => decide (c = 0) && e.wantsMatrix && ans .latticeGrant s (t.modCluster 0 (fun k => { k with rewire := some (0, 1) }))
      | _ => false) &&
    (
      let e := { LEntry.new (.mmaE4m3 0 1 0 0) 0 0 0 0 with seq := 0 }
      let s := at' ((data.modCore 0 (fun k => { k with lq := [e] })).modCluster 0 (fun k => { k with rewire := some (0, 1) })) Ev.zero
      decide ((coresOf 0).filter s.eligible = [0] ∨ (s.decideGrant 0).1 = none) && after .rewireComplete s (fun t => (t.cluster 0).matrix && decide ((t.core 0).lq = []))) &&
    (
      let e := { LEntry.new (.tzero 1 0) 0 0 0 0 with mask := 1 }
      let s := at' (data.modCore 0 (fun k => { k with lq := [e] })) Ev.zero
      decide (((List.range 8).map (fun i => 0 * 8 + ((s.cluster 0).moveNext + i) % 8)).find? s.moveReadyCore = some 0) && ans .movementServe s ((s.serveCore 0).modCluster 0 (fun k => { k with moveNext := 1 }))) &&
    (
      let e := { LEntry.new (.vadd 0 1 2 0 0 0) 0 0 0 0 with finished := true, flags := 1 }
      let s := at' (data.modCore 0 (fun k => { k with inflight := [e] })) Ev.zero
      !s.awaits 0 e && ans .latticeComplete s ((s.modCore 0 (fun k => { k with inflight := [] })).recordEntry 0 e)) &&
    (
      let e := { LEntry.new (.ssm 0 2) 0 0 0 0 with row := 1 }
      let s := at' (data.modCore 0 (fun k => { k with inflight := [e] })) Ev.zero
      let t := at' (data.modCore 0 (fun k => { k with lq := [e] })) Ev.zero
      !s.awaits 0 e && !t.awaits 0 e && !e.finished && e.inChunk && e.supplied && ans .latticeComplete s (s.advanceChunk 0 e false) && ans .latticeComplete t (t.advanceChunk 0 e true)) &&
    (
      let s := (data.modCore 0 (fun k => { k with lq := [LEntry.new (.vadd 0 1 2 0 0 0) 0 0 0 0], lweight := 0x28, acc := 0 })).modCore 1 (fun k => { k with lq := [LEntry.new (.vadd 0 1 2 0 0 0) 0 0 0 0], lweight := 0x18, acc := 0 })
      let ws := s.contenders 0
      match s.decideGrant 0 with
      | (some c, t) => decide (c = 0) && decide (ws.map (fun p => p.1) = [0, 1]) && decide ((t.core 1).acc = accHeld ((s.core 1).acc + ((ws.getD 1 (0, 0)).2 : Int))) &&
          decide ((t.core 0).acc = accHeld (accHeld ((s.core 0).acc + ((ws.getD 0 (0, 0)).2 : Int)) - ((ws.map (fun p => p.2)).sum : Int)))
      | _ => false) &&
    (
      let s := at' ({ savable with cur := (0, 0) }.notice 1 Cause.sliceEnd 5 0xFFFF 0) Ev.zero
      match s.noticeDue 0 with
      | some n => decide (n = (Cause.sliceEnd, 5)) && (let t := s.withdraw 0 0
          ans .noticeEntry s (t.takeTrap 0 0 ⟨Cause.sliceEnd, 5, 2, 0, (t.ctx 0 0).pc⟩))
      | none => false) &&
    (
      let s := data.modCore 0 (fun k => { k with lq := [LEntry.new (.vadd 0 1 2 0 0 0) 0 0 0 0] })
      decide ((coresOf 0).filter s.eligible = [0]) && decide ((s.decideGrant 0).1 = some 0))) = true := by
  decide +kernel

theorem wit_EveryStepGoesOn :
    (
      match State.reset.pick with
      | .run i _ => decide (i = .deviceStart)
      | .to _ => false) = true := by
  decide +kernel

/-- R380 and R220 give the program word, R230 and R381 the constant of 16_scalar_instructions.md; 0x29B1 is the check value of
CRC-16/CCITT-FALSE; the block of R390's listing has the signature 0x5552 under R105 (log entry 132). -/
theorem test_efong :
    ((decide (Efong.progWord [.b, .neg, .exp2, .d, .add, .rcp, .a, .mul] = some 0x8000000060C43B91)) &&
    (
      decide (Efong.li 5 0x0123456789ABCDEF = [.lui 5 0x89AB, .movk 5 0 0xCDEF, .movk 5 2 0x4567, .movk 5 3 0x0123]) && decide (Efong.li 5 0xFFFFFFFFFFFFFFFF = [.addi 5 0 0xFFFF]) &&
      decide (Efong.li 5 0x40000 = [.lui 5 4])) &&
    (decide ([0x31, 0x32, 0x33, 0x34, 0x35, 0x36, 0x37, 0x38, 0x39].foldl crcByte 0xFFFF = 0x29B1)) &&
    (decide (Efong.sign [0x44000000, 0x05282800, 0x44000000, 0x09090000, 0x08A70000, 0x4CA0FFFA] = [0x44000000, 0x05282800, 0x44005552, 0x09090000, 0x08A70000, 0x4CA0FFFA])) &&
    (decide (Efong.f32Word 25 1 = 0x40200000) && decide (Efong.bf16Word (-2) 0 = 0xC000) && decide (Efong.frameErrors 2 [encode (.rpt 1 2 0), encode (.j 0)] = [16, 15]))) = true := by
  decide +kernel

/-- R352: the core record of an image starts at its byte 0xC0000, the record of context 0 at 0xC1000; a resume takes RGNPC from there.
What is written to a save object across a page boundary is read back. -/
theorem test_image :
    ((
      let x := { Ctx.zero with live := true, rgnpc := 0x44, scratch := 7 }
      let m : CoreImage := { CoreImage.zero with lqst := 0x80, lweight := 0xF8, ctxs := [x] }
      let b := (Mem.empty.putLE 0xC1000 8 0x123456789ABCDEF4).putLE 0xC0008 8 0x28
      decide (m.words.getD 0 0 = 0x80) && decide (m.words.getD 1 0 = 0xF8) && decide (m.words.getD 512 0 = 0x44) && decide (m.words.getD 519 0 = 7) &&
        decide ((m.reread b).ctxs.map (fun x => x.rgnpc) = [0x56789ABCDEF4]) && decide ((m.reread b).lweight = 0x28)) &&
    (
      let s : State := data.putEnt (entryOf 2 0xB 0 0x20000)
      let s : State := { s with mem := (List.range 2).foldl (fun m i => m.putLE (memKey 1 0 0 (0x22000 + 8 * i)) 8 (2 ^ 63 + (0x20 + i))) s.mem }
      let m := ((Mem.empty.put 0 7).put 15 9).addPoison 8
      let t := s.putStore 1 2 0xFFF8 m 16
      decide (t.mem.get (memKey 1 0 0 0x20FFF8) = 7) && decide (t.mem.get (memKey 1 0 0 0x210007) = 9) && t.mem.poisoned (memKey 1 0 0 0x210000) 8 &&
        decide (t.takeStore 1 2 0xFFF8 16 = some m))) = true := by
  decide +kernel

/-! ## Waits, refusals and the premises of the statements -/

/-- A context that begins its instruction, with an empty write queue and nothing owed by another device. -/
theorem wit_starts : starts data ∧ tablesOpen data ∧ acquiresNow data 3 := by
  have h : data.curCtx.wait = none := by decide +kernel
  have q : data.curCore.wq = [] := by decide +kernel
  refine ⟨fun g => by simp [h], fun a => by simp [q] at a, ?_, fun _ => by decide +kernel⟩
  show _ = _
  decide +kernel

/-- Object 2 on page 5 of host memory. -/
def hostData : State :=
  let pte := 2 ^ 63 + 2 ^ 59 + 5
  let s := { data with mem := data.mem.putLE (memKey 1 0 0 0x22000) 8 pte }
  s.modCluster 0 (fun k => { k with tcache := k.tcache.put (memKey 1 0 0 0x22000) (word pte) })

theorem wit_Refusals :
    ((
      let s := { hostData with hostSide := { hostData.hostSide with denied := [5] } }
      okM (checkHandle (s.hreg 3) 8 (loadNeed 8)) s (fun acc u => u.hostDenies (acc.homeAt 0) && (findLine u.curCore.l1 0x1000).isNone &&
        u.reachesHome 1 0x1000 (255 * 256) (u.path 1 (u.accLeaf acc.ent))) &&
        after (.ldd 4 1 3 0) s (fun t => decide (t.freeNo = s.freeNo + 1) && decide ((t.ctx 0 0).ecause = Cause.remoteFail) && (t.ctx 0 0).sup)) &&
    (
      let s := data.modCurCore (fun k => { k with rfcnt := 1 })
      (s.drain 0).curCore.latticeIdle && ans .lfence s (waiting (s.drain 0) .remoteIdle)) &&
    (
      let r : StepRecord := ⟨[{ Ctx.zero with rgnpc := 0x40 }], 0x80, 0xF8, Mem.empty, [], 0, ELine.zero, [], [], [], [], 1, 1, []⟩
      let s := at' (data.modCore 0 (fun k => { k with stepRec := some r, sstepn := 6 })) { Ev.zero with at_ := 0, msg := ctl 0x78 0 7 }
      passesB s && ans .sroll s ((counted s).modCore 0 (fun k => { k with rollAsk := true }))) &&
    (
      let s := at' (data.modSlice 0 (fun k => { k with takes := (List.range 128).map (fun i => ⟨i, readReq, i⟩) })) { Ev.zero with at_ := 12, msg := readReq }
      !((counted s).slice 0).holds ((counted s).reqLine 12 readReq) && ans .rd s ((counted s).modSlice 0 (fun k => { k with spill := [⟨12, readReq, (counted s).reqLine 12 readReq⟩] }))) &&
    (
      let m := { msgTo 4 0x0A 7 3 8 2 [] with sdev := 1 }
      let s := at' data { Ev.zero with at_ := 4, msg := m }
      let t := counted s
      match t.placeOf 4 m [] with
      | .ok pl => (match t.slicePlace pl.home with
        | some n => ans .takecan s (t.post .switchReceive { Ev.zero with at_ := hubRoot, x := 196, msg := { m with dep := sliceEndpoint n } })
        | none => false)
      | .error _ => false) &&
    (
      let l : CLine := ⟨5, (Home.peer 3 1 7 5 0).code, 2 ^ 128 - 1, 1, List.replicate 128 0, 0, 0⟩
      let s := at' ((tasked { launch1.launchNode with started := 1 }).modCore 0 (fun k => { k with ended := true })) { Ev.zero with at_ := 1 }
      let s := ({ s with procs := s.procs.map (fun (p : Nat × Proc) => (p.1, { p.2 with vcs := [(1, ⟨0, 1, 0, 0, [l], none, none, [], []⟩)] })) } : State).putEnt
        { entryOf 2 0xB 0 0x1000 with binds := 0x101010101010101 }
      match s.insts.look 1 with
      | some i => let v := s.release 0 (s.endScope i)
        s.instOver i && !v.quiet 0 && ans .instanceComplete s v
      | none => false) &&
    (
      let s := at' (data.modCluster 0 (fun k => { k with rewire := some (0, 1) })) Ev.zero
      ans .rewireComplete s (s.modCluster 0 (fun k => { k with rewire := none, matrix := true }))) &&
    (
      let e := { LEntry.new (.ssm 0 2) 0 0 0 0 with finished := true, poke := some (4, 9) }
      let s := at' (data.modCore 0 (fun k => { k with inflight := [e] })) Ev.zero
      !s.awaits 0 e && !s.entryBlocked 0 e && ans .latticeComplete s ((e.writeCode 0 1 (4, 9) s).modCore 0 (fun k => k.putFlight { e with poke := none }))) &&
    (
      let s := snapping { gen9 with sealed := true } 12 0x75 0
      let s := { s with ev := { Ev.zero with at_ := 5, x := 9, y := 3 } }
      let h := super s
      !h.savesNow (snapJob { gen9 with sealed := true }) && h.handlersNow (snapJob { gen9 with sealed := true }) &&
        ans .jobRollbackRequest h (h.modJob 5 (fun j => { j with goal := some (9, 3) })))) = true := by
  decide +kernel

end Sys2Proof.Tests
end

section
/-! PROOFS. The package: the events of the device that start it, serve it, and reach it from the host and the debug port, and the life
and the effects of packets. -/

namespace Sys2Proof.Proofs.Package

open Sys2Proof.Machine Sys2Proof.Spec

/-! ## Running an event -/

section
variable (s : State)

theorem exec_deviceStart : exec .deviceStart s = execDeviceStart s := rfl
theorem exec_startStepTimeout : exec .startStepTimeout s = execStartStepTimeout s := rfl
theorem exec_clockFault : exec .clockFault s = execClockFault s := rfl
theorem exec_thermalTrip : exec .thermalTrip s = execThermalTrip s := rfl
theorem exec_thermalRecover : exec .thermalRecover s = execThermalRecover s := rfl
theorem exec_partitionMetadataError : exec .partitionMetadataError s = execPartitionMetadataError s := rfl
theorem exec_tdiStateChange : exec .tdiStateChange s = execTdiStateChange s := rfl
theorem exec_cxlMemRequest : exec .cxlMemRequest s = execCxlMemRequest s := rfl
theorem exec_cxlCacheSnoop : exec .cxlCacheSnoop s = execCxlCacheSnoop s := rfl
theorem exec_hostMemoryCompletion : exec .hostMemoryCompletion s = execHostMemoryCompletion s := rfl
theorem exec_debugToken : exec .debugToken s = execDebugToken s := rfl
theorem exec_debugPortCommand : exec .debugPortCommand s = execDebugPortCommand s := rfl
theorem exec_takePacket : exec .takePacket s = execTakePacket s := rfl
theorem exec_packetStart : exec .packetStart s = execPacketStart s := rfl
theorem exec_packetComplete : exec .packetComplete s = execPacketComplete s := rfl
theorem exec_nopPacket : exec .nopPacket s = execNopPacket s := rfl
theorem exec_launch : exec .launch s = execLaunch s := rfl
theorem exec_graph : exec .graph s = execGraph s := rfl
theorem exec_copy : exec .copy s = execCopy s := rfl
theorem exec_signal : exec .signal s = execSignal s := rfl
theorem exec_waitPacket : exec .waitPacket s = execWaitPacket s := rfl
theorem exec_waitTimeout : exec .waitTimeout s = execWaitTimeout s := rfl
theorem exec_resync : exec .resync s = execResync s := rfl
theorem exec_snapshot : exec .snapshot s = execSnapshot s := rfl
theorem exec_admitPacket : exec .admitPacket s = execAdmitPacket s := rfl
theorem exec_retire : exec .retire s = execRetire s := rfl

end

theorem answers_of_eq {i : Instr} {s t u : State} (h : Answers i s t) (e : t = u) : Answers i s u := e ▸ h

theorem answers_runEvent {i : Instr} {f : Ev → State → State} {s t : State} (hx : exec i s = runEvent f s)
    (ht : f s.ev s = t) : Answers i s t :=
  hx.trans (congrArg _ ht)

/-- Before step 6 of the start-up no access of the host arrives. -/
theorem answers_onHost_shut {i : Instr} {f : Ev → State → State} {s : State} (hx : exec i s = onHost f s)
    (h : s.boot.step < 6) : Answers i s s := by
  simp [Answers, hx, onHost, runEvent, State.linkOpen, h]

theorem answers_onHost_open {i : Instr} {f : Ev → State → State} {s t : State} (hx : exec i s = onHost f s)
    (h : 6 ≤ s.boot.step) (ht : f s.ev s = t) : Answers i s t := by
  simp [Answers, hx, onHost, runEvent, State.linkOpen, h, ht]

/-- An access with no effect leaves the state as it was, whether the link is open or not. -/
theorem answers_onHost_idle {i : Instr} {f : Ev → State → State} {s : State} (hx : exec i s = onHost f s)
    (h : f s.ev s = s) : Answers i s s := by
  simp [Answers, hx, onHost, runEvent, h]

/-- A packet's effect acts on the packet that has started. -/
theorem answers_onPacket {i : Instr} {f : Nat → Running → State → State} {s t : State} {r : Running}
    (hx : exec i s = onPacket f s) (hr : s.runningPkt s.ev.at_ s.ev.x = some r) (ht : f s.ev.at_ r s = t) : Answers i s t := by
  simp [Answers, hx, onPacket, runEvent, hr, ht]

/-! ## Start-up (R17, R78, R79) -/

@[simp] theorem extendReg_boot (s : State) (n t : Nat) (x : List Byte) : (s.extendReg n t x).boot = s.boot := rfl

@[simp] theorem createPart_boot (s : State) (n blocks ports : Nat) : (s.createPart n blocks ports).boot = s.boot := rfl

theorem deviceStart_resets {s : State} (hp : s.boot.phase ≠ .off) (ha : s.ev.at_ = 0) :
    Answers .deviceStart s s.deviceReset :=
  answers_runEvent (exec_deviceStart s) (by simp [hp, ha])

theorem deviceStart_ignored {s : State} (hp : s.boot.phase ≠ .off) (ha : s.ev.at_ ≠ 0) :
    Answers .deviceStart s s :=
  answers_runEvent (exec_deviceStart s) (by simp [hp, ha])

section
variable {s : State} (hp : s.boot.phase = .off) (ha : s.ev.at_ = s.boot.step)
include hp ha

theorem deviceStart_fuses (h : s.boot.step = 0) : Answers .deviceStart s (s.startFuses s.ev.y) :=
  answers_runEvent (exec_deviceStart s) (by simp [hp, ha, h])

theorem deviceStart_verify (h : s.boot.step = 1) : Answers .deviceStart s s.startVerify :=
  answers_runEvent (exec_deviceStart s) (by simp [hp, ha, h])

theorem deviceStart_solder (h : s.boot.step = 2) :
    Answers .deviceStart s (if s.ev.words = [] then s.stepOver 3 else s.startFailed 5) :=
  answers_runEvent (exec_deviceStart s) (by simp [hp, ha, h])

theorem deviceStart_links (h : s.boot.step = 5) :
    Answers .deviceStart s (((onesOf s.boot.links 16).foldl (fun s l => s.trainLink l 2) s).stepOver 6) :=
  answers_runEvent (exec_deviceStart s) (by simp [hp, ha, h])

theorem deviceStart_done (h : s.boot.step = 6) : Answers .deviceStart s s.startDone :=
  answers_runEvent (exec_deviceStart s) (by simp [hp, ha, h])

end

theorem startStepTimeout_ignored {s : State} (hp : s.boot.phase ≠ .off) : Answers .startStepTimeout s s :=
  answers_runEvent (exec_startStepTimeout s) (if_pos hp)

theorem startStepTimeout_resets {s : State} (hp : s.boot.phase = .off) :
    Answers .startStepTimeout s { s.deviceReset with boot := { s.deviceReset.boot with reason := s.ev.x } } :=
  answers_runEvent (exec_startStepTimeout s) (if_neg (not_not.2 hp))

/-- A step that is over makes the next one due. -/
theorem stepOver_posts (s : State) {n : Nat} (h : n < 7) :
    s.stepOver n = { s with boot := { s.boot with step := n } }.post .deviceStart { Ev.zero with at_ := n } :=
  if_pos h

/-- Unless the count of failed starts has reached 3, step 1 counts one more and makes step 2 due. -/
theorem startFuses_goesOn {s : State} (y : Nat) (h : s.boot.fails ≠ 3) :
    s.startFuses y = (
      let t := { s with boot := { s.boot.fused with lifecycle := s.boot.lifecycle ||| y % 4 } }
      let u := t.extendReg 0 1 (shake256 Config.bootRom ++ leBytes 1 t.boot.lifecycle ++ t.presence)
      let v := { u with boot := { u.boot with fails := u.boot.fails + 1, step := 1 } }
      v.post .deviceStart { Ev.zero with at_ := 1 }) := by
  unfold State.startFuses
  exact (if_neg h).trans (stepOver_posts _ (by decide))

theorem startVerify_fails {s : State} {r : Nat} (h : s.tableBad = some r) : s.startVerify = s.startFailed r := by
  simp [State.startVerify, h]

theorem startDone_boot (s : State) :
    s.startDone.boot.phase = .running ∧ s.startDone.boot.step = 7 ∧ s.startDone.boot.fails = 0 := by
  simp [State.startDone, State.stepOver]

theorem startSteps : StartSteps := by
  refine ⟨fun s hp ha => ⟨fun h0 hf => ?_, fun r h1 hr => ?_, fun h2 hw => ?_, fun h2 hw => ?_, fun h5 hl => ?_, fun h6 => ?_⟩,
    fun s hp => ⟨?_, deviceStart_resets hp, deviceStart_ignored hp⟩, fun s hp => ?_, fun s => rfl⟩
  · exact answers_of_eq (deviceStart_fuses hp ha h0) (startFuses_goesOn _ hf)
  · exact answers_of_eq (deviceStart_verify hp ha h1) (startVerify_fails hr)
  · exact answers_of_eq (deviceStart_solder hp ha h2) ((if_pos hw).trans (stepOver_posts s (by decide)))
  · exact answers_of_eq (deviceStart_solder hp ha h2) (if_neg hw)
  · have hnone : (onesOf s.boot.links 16).foldl (fun s l => s.trainLink l 2) s = s := by simp [hl, onesOf]
    exact answers_of_eq (deviceStart_links hp ha h5) ((congrArg (·.stepOver 6) hnone).trans (stepOver_posts s (by decide)))
  · exact ⟨s.startDone, deviceStart_done hp ha h6, startDone_boot s⟩
  · exact startStepTimeout_ignored hp
  · exact ⟨_, startStepTimeout_resets hp, rfl, rfl, rfl, rfl, rfl, rfl, rfl, rfl, rfl⟩

/-! ## Service (R13, R16, R100, R101) -/

/-- A corrected error within a millisecond of the last report is only counted. -/
theorem partitionMetadataError_counts {s : State} (ha : s.ev.at_ = 3) (h0 : s.mon.counters.get (0x2000 + s.ev.x) 0 ≠ 0)
    (hms : s.clk + 1 - s.mon.counters.get (0x2000 + s.ev.x) 0 < msCycles) :
    Answers .partitionMetadataError s { s with mon := { s.mon with
      counters := s.mon.counters.put (0x30 + s.ev.x) (s.mon.counters.get (0x30 + s.ev.x) 0 + 1) } } := by
  have hquiet : ¬ (s.mon.counters.get (0x2000 + s.ev.x) 0 = 0 ∨
      msCycles ≤ s.clk + 1 - s.mon.counters.get (0x2000 + s.ev.x) 0) := by omega
  exact answers_runEvent (exec_partitionMetadataError s) (by simp only [ha, if_neg hquiet])

theorem serviceSteps : ServiceSteps := by
  intro s
  refine ⟨fun h => ?_, fun h => ?_, rfl, fun h => ?_, ?_, rfl, fun h => ?_, fun h => ?_, partitionMetadataError_counts⟩
  · exact answers_runEvent (exec_clockFault s) (by simp [h, State.unitOut])
  · exact answers_runEvent (exec_clockFault s) (by simp [h, State.unitOut])
  · exact answers_runEvent (exec_thermalTrip s) (if_pos h)
  · exact answers_runEvent (exec_thermalRecover s) (by simp [clearBits])
  · exact answers_runEvent (exec_partitionMetadataError s) (by simp only [h])
  · exact answers_runEvent (exec_partitionMetadataError s) (by simp only [h])

/-! ## The host link (R32, R33, R52) -/

theorem hostLinkSteps : HostLinkSteps := by
  intro s
  have htdi := exec_tdiStateChange s
  have hmem := exec_cxlMemRequest s
  have hsnoop := exec_cxlCacheSnoop s
  refine ⟨fun h => ⟨answers_onHost_shut htdi h, answers_onHost_shut hmem h, answers_onHost_shut hsnoop h⟩,
    fun h h0 h512 => ?_, fun h hc hw => ⟨fun hx => ?_, fun hx => ?_⟩, fun h hc => ?_, fun hw => ?_, fun hc => ⟨?_, ?_⟩, ?_⟩
  · exact answers_onHost_open htdi h (if_neg (by omega))
  · exact answers_onHost_open hmem h (by simp [hc, hw, hx])
  · exact answers_onHost_open hmem h (by simp [hc, hw, hx, lineWords])
  · exact answers_onHost_open hsnoop h (by simp [hc, lineWords])
  · exact answers_onHost_idle hmem (by simp [hw])
  · exact answers_onHost_idle hmem (by simp [hc])
  · exact answers_onHost_idle hsnoop (by simp [hc])
  · refine ⟨_, exec_hostMemoryCompletion s, fun p hp => ?_, ?_, rfl, rfl⟩
    · show p ∈ (if s.ev.x = 1 then _ else _) ↔ _
      split <;> simp [hp]
    · show s.ev.at_ ∈ (if s.ev.x = 1 then _ else _) ↔ _
      split
      · next hx => simp [hx]
      · next hx => simp [hx]

/-! ## The debug port (R80, R94) -/

theorem debugPortCommand_shut {s : State} (h : s.mon.debugOpen < s.debugNeeds s.ev.x s.ev.at_) :
    Answers .debugPortCommand s s :=
  answers_runEvent (exec_debugPortCommand s) (if_pos h)

/-- The level that a command needs, by its number. -/
theorem debugNeeds_level (s : State) (x c : Nat) :
    (x = 0 ∨ x = 11 → s.debugNeeds x c = 0) ∧ (x = 8 ∨ x = 12 → s.debugNeeds x c = 1) ∧
    (1 ≤ x → x ≤ 5 → (s.mon.roles.look (c / 8) = none → s.debugNeeds x c = 2) ∧
      (s.mon.roles.look (c / 8) ≠ none → s.debugNeeds x c = 3)) ∧
    (6 ≤ x → x ≠ 8 → x ≠ 11 → x ≠ 12 → s.debugNeeds x c = 3) := by
  unfold State.debugNeeds
  refine ⟨fun h => if_pos h, fun h => ?_, fun h1 h5 => ?_, fun h6 h8 h11 h12 => ?_⟩
  · rw [if_neg (by omega), if_pos h]
  · rw [if_neg (by omega), if_neg (by omega), if_pos h5]
    exact ⟨fun h => by simp [h], fun h => if_pos (Option.isSome_iff_ne_none.2 h)⟩
  · rw [if_neg (by omega), if_neg (by omega), if_neg (by omega)]

theorem debugSteps : DebugSteps := by
  refine ⟨fun s => ⟨fun hn ht => ?_, fun hn ht => ?_, fun hn => ?_⟩, fun s => ⟨debugPortCommand_shut, fun hl => ?_, ?_⟩⟩
  · exact answers_runEvent (exec_debugToken s) (by simp [hn, ht])
  · exact answers_runEvent (exec_debugToken s) (by simp [hn, ht])
  · exact answers_runEvent (exec_debugToken s) (by simp [hn])
  · have hopen : ¬ s.mon.debugOpen < s.debugNeeds s.ev.x s.ev.at_ := Nat.not_lt.2 hl
    simp only [Answers, exec_debugPortCommand, execDebugPortCommand, runEvent, if_neg hopen]
    refine ⟨fun h => ?_, fun h => ?_, fun h => ?_, fun h hz => ?_, fun h hz => ?_, fun h => ?_, fun h => ?_, fun h => ?_, fun h => ?_⟩
    · simp only [h]
    · simp only [h]
    · simp only [h]
    · simp only [h, hz, State.debugSay, State.debugRead]
    · simp only [h, hz, State.debugWrite]
    · simp only [h, State.debugSay]
    · simp only [h, State.debugSay, List.append_assoc, List.cons_append, List.nil_append]
    · simp only [h, State.debugSay]
    · simp only [h]
  · rintro n rfl
    exact debugNeeds_level s _ _

/-- Settles O55: each step of the start-up and each event of service, host link and debug port runs its own case of the model. -/
theorem deviceEvents : Obligations.DeviceEvents := ⟨startSteps, serviceSteps, hostLinkSteps, debugSteps⟩

/-! ## The life of a packet (R63, R65, R69) -/

/-- A change of a queue is what it makes of the queue as it stands. -/
theorem modQueue_congr {s : State} {q : Nat} {f g : HostQueue → HostQueue} (h : f (s.queue q) = g (s.queue q)) :
    s.modQueue q f = s.modQueue q g := by
  simp [State.modQueue, h]

/-! ### The ring (R63) -/

theorem takePacket_takes {s : State} (hrun : (s.queue s.ev.at_).qstate = 1)
    (hnew : (s.queue s.ev.at_).head ≠ (s.queue s.ev.at_).tail) (hlive : (s.queue s.ev.at_).retiring = false) :
    (s.queue s.ev.at_).takes = true := by
  simp [HostQueue.takes, hrun, hnew, hlive]

/-! ### The completion record (R69) -/

theorem writeRecord_aborted {s : State} {q : Nat} (p : Packet) (st : Nat) (r : Word)
    (ha : s.hostAborts ((s.queue q).cplbase + (s.queue q).cpltail % 2 ^ ((s.queue q).cplcfg % 32) * 32) = true)
    (hq : (s.queue q).qstate = 1 ∨ (s.queue q).qstate = 2) :
    s.writeRecord q p st r = s.modQueue q (fun k => { k with qstate := 4, ecode := 3 }) :=
  (if_pos ha).trans (if_pos hq)

/-- The record of a packet whose completion raises no interrupt. -/
theorem writeRecord_written {s : State} {q : Nat} {p : Packet} (st : Nat) (r : Word)
    (ha : s.hostAborts ((s.queue q).cplbase + (s.queue q).cpltail % 2 ^ ((s.queue q).cplcfg % 32) * 32) = false)
    (hirq : bit (p.word 0) 10 = false) :
    let k := s.queue q
    let m := 2 ^ (k.cplcfg % 32)
    let ws : List Word := [word (p.idx % 2 ^ 32 * 2 ^ 32 + st * 65536 + p.type * 256 + (k.cpltail / m + 1) % 2),
      word (bits (p.word 7) 63 32 * 2 ^ 32), r, word s.time]
    let host := s.host.putRange (k.cplbase + k.cpltail % m * 32) (ws.flatMap (fun (w : Word) => leBytes 8 w.toNat))
    s.writeRecord q p st r =
      { s with host := host }.modQueue q (fun j => { j with cpltail := (k.cpltail + 1) % 2 ^ 32 }) := by
  unfold State.writeRecord
  exact (if_neg (by simp [ha])).trans (if_neg (by simp [hirq]))

/-- A record takes no queue into or out of its retirement. -/
theorem writeRecord_retiring (s : State) (q : Nat) (p : Packet) (st : Nat) (r : Word) :
    ((s.writeRecord q p st r).queue q).retiring = (s.queue q).retiring := by
  simp only [State.writeRecord]
  split
  · split
    · simp [State.queueError]
    · rfl
  · have hkeep : ∀ (t : State) (f : HostQueue → HostQueue), t.queues = s.queues → (∀ k, (f k).retiring = k.retiring) →
        ((t.modQueue q f).queue q).retiring = (s.queue q).retiring := fun t f ht hf => by
      rw [t.queue_modQueue_same, hf, State.queue, State.queue, ht]
    split
    · exact hkeep _ (fun k => { k with cpltail := _ }) rfl (fun _ => rfl)
    · exact hkeep _ (fun k => { k with cpltail := _ }) rfl (fun _ => rfl)

/-! ### Start and completion (R65) -/

theorem packetComplete_absent {s : State} (h : s.hasQueue s.ev.at_ = false) : Answers .packetComplete s s :=
  answers_runEvent (exec_packetComplete s) (by simp [h])

/-- A packet with no barrier to arrive at completes: its record, when it asks for one, and its place in the queue. -/
theorem packetComplete_leaves {s : State} {r : Running} (hq : s.hasQueue s.ev.at_ = true)
    (hr : s.runningPkt s.ev.at_ s.ev.x = some r) (hbar : bits (r.pkt.word 0) 31 16 = 0)
    (hlive : (s.queue s.ev.at_).retiring = false) (hhost : s.ev.at_ < 65536) (hroot : r.pkt.parent = 0)
    (hst : openResult s.ev.y = false) :
    let q := s.ev.at_
    let p := r.pkt
    let t := if p.records = true then s.writeRecord q p s.ev.y (word s.ev.z) else s
    Answers .packetComplete s ((t.modQueue q (fun k => { k with
      running := k.running.filter (fun o => o.pkt.idx != s.ev.x),
      rsv := k.rsv - (if p.records = true then 1 else 0) })).modQueue q HostQueue.settled) := by
  have ht : ((if r.pkt.records = true then s.writeRecord s.ev.at_ r.pkt s.ev.y (word s.ev.z) else s).queue
      s.ev.at_).retiring = false := by
    split
    · rw [writeRecord_retiring, hlive]
    · exact hlive
  refine answers_runEvent (exec_packetComplete s) ?_
  simp only [hq, hr, hroot, hbar, hst, hhost, Nat.not_le.2 hhost, State.queue_modQueue_same, if_true, if_false, decide_true,
    Bool.and_true, bne_self_eq_false, Bool.false_and, Bool.false_eq_true, false_and]
  exact modQueue_congr (by simp [ht])

/-- The state in which packet `p` of queue `q` has started and its checks are still to come. -/
def begun (s : State) (q : Nat) (p : Packet) : State :=
  let u := { s.modQueue q (fun k => { k with
    waiting := k.waiting.drop 1, running := k.running ++ [⟨p, 0, s.clk⟩]
    rsv := k.rsv + (if p.records = true ∧ q < 65536 then 1 else 0), lastStart := s.nextPkt }) with nextPkt := s.nextPkt + 1 }
  u.headOn q

theorem aborts_iff (k : HostQueue) (p : Packet) :
    k.aborts p = true ↔ k.retiring = true ∨ p.aborted = true ∨ (k.qstate ≠ 1 ∧ k.qstate ≠ 2) := by
  simp [HostQueue.aborts, or_assoc]

section
variable {s : State} {p : Packet} (hn : (s.queue s.ev.at_).nextStart (s.ev.at_ < 65536) = some p)
include hn

theorem packetStart_abandons (hab : (s.queue s.ev.at_).aborts p = true) :
    Answers .packetStart s
      ((begun s s.ev.at_ p).post .packetComplete { Ev.zero with at_ := s.ev.at_, x := p.idx, y := 10, z := 0 }) :=
  answers_runEvent (exec_packetStart s) (by simp [hn, hab, begun])

theorem packetStart_waits (hab : (s.queue s.ev.at_).aborts p = false) (hot : s.tooHot s.ev.at_ p = true) :
    Answers .packetStart s s :=
  answers_runEvent (exec_packetStart s) (by simp [hn, hab, hot])

theorem packetStart_passes (hab : (s.queue s.ev.at_).aborts p = false) (hot : s.tooHot s.ev.at_ p = false) {ns : List Node}
    (hc : (begun s s.ev.at_ p).checkPacket s.ev.at_ p = .ok ns) :
    Answers .packetStart s
      ((begun s s.ev.at_ p).post (packetEvent p.type) { Ev.zero with at_ := s.ev.at_, x := p.idx }) := by
  refine answers_runEvent (exec_packetStart s) ?_
  unfold begun at hc ⊢
  simp only [hn, hab, hot, hc, Bool.false_and, Bool.false_eq_true, if_false]

theorem packetStart_fails (hab : (s.queue s.ev.at_).aborts p = false) (hot : s.tooHot s.ev.at_ p = false) {st r : Nat}
    (hc : (begun s s.ev.at_ p).checkPacket s.ev.at_ p = .error (st, r)) :
    Answers .packetStart s
      ((begun s s.ev.at_ p).post .packetComplete { Ev.zero with at_ := s.ev.at_, x := p.idx, y := st, z := r }) := by
  refine answers_runEvent (exec_packetStart s) ?_
  unfold begun at hc ⊢
  simp only [hn, hab, hot, hc, Bool.false_and, Bool.false_eq_true, if_false]

end

theorem packetLife : PacketLife := by
  refine ⟨fun s hrun hnew hlive => ⟨fun ha => ?_, fun ha => ?_⟩, fun s p hn => ?_, fun s r => packetComplete_leaves,
    fun s => packetComplete_absent, fun s q p st r => ⟨writeRecord_aborted p st r, writeRecord_written st r⟩⟩
  · refine answers_runEvent (exec_takePacket s) ?_
    simp only [takePacket_takes hrun hnew hlive]
    exact if_neg (Bool.eq_false_iff.1 ha)
  · refine answers_runEvent (exec_takePacket s) ?_
    simp only [takePacket_takes hrun hnew hlive]
    exact if_pos ha
  · have habandoned := aborts_iff (s.queue s.ev.at_) p
    have hlive := fun h => Bool.eq_false_iff.2 (mt habandoned.1 h)
    exact ⟨fun hab => packetStart_abandons hn (habandoned.2 hab), fun hab hot => packetStart_waits hn (hlive hab) hot,
      fun ns hab hot hc => packetStart_passes hn (hlive hab) hot hc,
      fun st r hab hot hc => packetStart_fails hn (hlive hab) hot hc⟩

/-! ## The effects of packets (R67, R70) -/

section
variable {s : State} {r : Running} (hr : s.runningPkt s.ev.at_ s.ev.x = some r)
include hr

/-- R67: a SNAPSHOT of a job that is live compares its generation, then its devices, then whether one is in progress. -/
theorem snapshot_decides {e : Ent} {home : Home}
    (he : s.liveEnt (s.queue s.ev.at_).ctxid (bits (r.pkt.word 1) 63 48) = some e)
    (hh : s.objHome (s.queue s.ev.at_).ctxid (bits (r.pkt.word 1) 63 48) = some home) :
    let q := s.ev.at_
    let ctxid := (s.queue q).ctxid
    let h := bits (r.pkt.word 1) 63 48
    let n := jobNo home
    let c := s.firstCluster (s.queuePart q) * 8
    let j := s.jobOf n ctxid h e (senderWord s.devId (niEndpoint (c / 8)))
    let wait := fun (t : State) => t.modJob n (fun j => { j with waiters := j.waiters ++ [(q, r.pkt.idx)] })
    Answers .snapshot s (
      if bits (s.jobWord j 0) 63 32 ≠ bits (r.pkt.word 1) 31 0 then s.over_ q r.pkt.idx 1 0
      else if (!j.devmask.testBit s.devId) = true then s.over_ q r.pkt.idx 5 Cause.hInvalid
      else if bits (s.jobWord j 1) 1 0 ≠ 0 then wait s
      else wait (s.startSnap n ctxid h e c)) :=
  answers_onPacket (exec_snapshot s) hr (by simp only [he, hh])

/-- R67: a RESYNC whose buffer holds the summary writes it there. -/
theorem resync_writes (hlen : s.summary.length ≤ bits (r.pkt.word 2) 31 0)
    (ha : s.hostAborts (bits (r.pkt.word 1) 63 12 * 4096) = false) :
    Answers .resync s ({ s with host := s.host.putRange (bits (r.pkt.word 1) 63 12 * 4096) s.summary }.over_ s.ev.at_ r.pkt.idx 0
      s.summary.length) := by
  have hroom : ¬ bits (r.pkt.word 2) 31 0 < s.summary.length := Nat.not_lt.2 hlen
  refine answers_onPacket (exec_resync s) hr ((if_neg hroom).trans ?_)
  simp only [ha, Bool.false_eq_true, if_false]

end

theorem packetEffects : PacketEffects := by
  refine fun s r hr => ⟨answers_onPacket (exec_nopPacket s) hr rfl, answers_onPacket (exec_launch s) hr rfl, fun ns hn => ?_,
    fun hmin => answers_onPacket (exec_copy s) hr (if_neg (Bool.eq_false_iff.1 hmin)), answers_onPacket (exec_signal s) hr rfl,
    fun h => ?_, fun h => ?_, fun h => ?_, fun h => ?_, resync_writes hr, fun e home he hh => ?_,
    fun h => answers_onPacket (exec_admitPacket s) hr (if_pos (Or.inl h)),
    answers_onPacket (exec_retire s) hr rfl⟩
  · exact answers_onPacket (exec_graph s) hr (by simp only [hn])
  · exact answers_onPacket (exec_waitPacket s) hr (if_pos h)
  · exact answers_onPacket (exec_waitPacket s) hr (if_neg (Bool.eq_false_iff.1 h))
  · exact answers_onPacket (exec_waitTimeout s) hr (if_pos h)
  · exact answers_onPacket (exec_resync s) hr (if_pos h)
  · have hsnap := snapshot_decides hr he hh
    refine ⟨fun hgen => answers_of_eq hsnap (if_pos hgen), fun hgen hdev => ?_⟩
    have hsame := not_not.2 hgen
    have hours := Bool.eq_false_iff.1 (congrArg not hdev)
    exact ⟨fun hst => answers_of_eq hsnap ((if_neg hsame).trans ((if_neg hours).trans (if_neg (not_not.2 hst)))),
      fun hst => answers_of_eq hsnap ((if_neg hsame).trans ((if_neg hours).trans (if_pos hst)))⟩

/-! ## Tasks and contexts (R67, R113) -/

theorem taskStart : TaskStart := by
  intro s q r ns gen
  refine ⟨⟨s.nextTask, (s.queue q).ctxid, s.queuePart q, (s.queue q).prio, .packet q r.pkt.idx, _, 0, none, none, false,
    (s.queue q).lastStart⟩, ?_, rfl, rfl, rfl, rfl⟩
  simp only [State.makeTask]
  split
  · rfl
  · split <;> rfl

theorem admitEffect : AdmitEffect := by
  refine fun s r hr hH hC hlive hsave => answers_onPacket (exec_admitPacket s) hr ?_
  have hroom : ¬ (s.freePages (s.queuePart s.ev.at_) 0 < (bits (r.pkt.word 1) 63 32 : Int) ∨
      s.freePages (s.queuePart s.ev.at_) 1 < (bits (r.pkt.word 1) 31 0 : Int) ∨
      1023 ≤ (s.procs.filter (fun c => c.2.part == s.queuePart s.ev.at_ && !c.2.retired)).length) := by omega
  refine (if_neg hroom).trans ?_
  -- Nothing depends on which CTXID the search finds.
  generalize s.freshCtx = id at hsave ⊢
  exact if_neg (by rw [Bool.not_eq_true, Bool.not_eq_false']; exact hsave)

/-- Settles O60: what starts, completes and acts is the packet that the queue holds, and every effect is its own case of the model. -/
theorem packetEvents : Obligations.PacketEvents := ⟨packetLife, packetEffects, admitEffect, taskStart⟩

end Sys2Proof.Proofs.Package
end

section
/-! PROOFS. Answers at a requester, end-to-end retry, the Solder interfaces and the Fliveano links. -/

namespace Sys2Proof.Proofs.Links

open Sys2Proof.Machine Sys2Proof.Spec Sys2Proof.Proofs.Package

/-! ## Running an event -/

section
variable (s : State)

theorem exec_rdata : exec .rdata s = execRdata s := rfl
theorem exec_e2eRequestArrive : exec .e2eRequestArrive s = execE2eRequestArrive s := rfl
theorem exec_e2eRetransmit : exec .e2eRetransmit s = execE2eRetransmit s := rfl
theorem exec_e2eRequestFail : exec .e2eRequestFail s = execE2eRequestFail s := rfl
theorem exec_requestTimeout : exec .requestTimeout s = execRequestTimeout s := rfl
theorem exec_e2eAckTimer : exec .e2eAckTimer s = execE2eAckTimer s := rfl
theorem exec_solderFlit : exec .solderFlit s = execSolderFlit s := rfl
theorem exec_d2dRetrain : exec .d2dRetrain s = execD2dRetrain s := rfl
theorem exec_d2dRetrainEnd : exec .d2dRetrainEnd s = execD2dRetrainEnd s := rfl
theorem exec_linkFlitReceive : exec .linkFlitReceive s = execLinkFlitReceive s := rfl
theorem exec_linkCrc : exec .linkCrc s = execLinkCrc s := rfl
theorem exec_linkRetrain : exec .linkRetrain s = execLinkRetrain s := rfl
theorem exec_trainReq : exec .trainReq s = execTrainReq s := rfl
theorem exec_trainDone : exec .trainDone s = execTrainDone s := rfl
theorem exec_echo : exec .echo s = execEcho s := rfl
theorem exec_echoReply : exec .echoReply s = execEchoReply s := rfl
theorem exec_eack : exec .eack s = execEack s := rfl
theorem exec_idset : exec .idset s = execIdset s := rfl
theorem exec_linkDown : exec .linkDown s = execLinkDown s := rfl

end

section
variable {i : Instr} {f : Remote → Msg → State → State} {s : State} (hx : exec i s = takeResponse f s) (hp : passes s)
include hx hp

/-- A response that passes its checks and answers nothing is only counted. -/
theorem answers_takeResponse_unasked (h : (counted s).remoteFor s.ev.at_ s.ev.msg = none) : Answers i s (counted s) := by
  obtain ⟨htag, hfw⟩ := hp
  unfold counted at h ⊢
  simp [Answers, hx, takeResponse, takeMsgAt, runEvent, htag, hfw, h]

/-- A response that passes its checks is handled for the request that it answers. -/
theorem answers_takeResponse_asked {r : Remote} {t : State} (h : (counted s).remoteFor s.ev.at_ s.ev.msg = some r)
    (ht : f r s.ev.msg (counted s) = t) : Answers i s t := by
  obtain ⟨htag, hfw⟩ := hp
  unfold counted at h ht
  simp [Answers, hx, takeResponse, takeMsgAt, runEvent, htag, hfw, h, ht]

end

/-! ## Words and records -/

/-- A field that reaches the top of a word needs no mask. -/
theorem bits_top (w : Word) {lo : Nat} (h : lo ≤ 64) : bits w 63 lo = w.toNat / 2 ^ lo := by
  have hlt : w.toNat < 2 ^ lo * 2 ^ (64 - lo) := by
    rw [← Nat.pow_add, Nat.add_sub_cancel' h]
    exact w.isLt
  exact Nat.mod_eq_of_lt (Nat.div_lt_of_lt_mul hlt)

theorem bits_bottom (w : Word) (hi : Nat) : bits w hi 0 = w.toNat % 2 ^ (hi + 1) := by
  simp [bits]

theorem modSolder_congr {s : State} {n : Nat} {f g : Solder → Solder} (h : f (s.solder n) = g (s.solder n)) :
    s.modSolder n f = s.modSolder n g := by
  simp [State.modSolder, h]

theorem modLink_congr {s : State} {l : Nat} {f g : Link → Link} (h : f (s.link l) = g (s.link l)) :
    s.modLink l f = s.modLink l g := by
  simp [State.modLink, h]

/-- Posting leaves the event that runs in place, so each of a list of posted events may be made from it. -/
theorem foldl_post_ev {α : Type} (i : Instr) (e : Ev → α → Ev) (l : List α) (s : State) :
    l.foldl (fun t a => t.post i (e t.ev a)) s = l.foldl (fun t a => t.post i (e s.ev a)) s := by
  induction l generalizing s with
  | nil => rfl
  | cons a l ih => exact ih (s.post i (e s.ev a))

/-! ## Answers at a requester (R28, R38, R250, R262, R296) -/

/-- The context of request `r` waits for its answer. -/
def IsAwaited (u : State) (r : Remote) : Prop :=
  (u.ctx r.core r.ctx).wait = some (.remote r.tag) ∨ (u.ctx r.core r.ctx).wait = some (.fetch r.tag)

theorem handReply_awaited {u : State} {r : Remote} (op : Nat) (ws : List Word) (p : Nat) (hc : r.ctx < 11)
    (hw : IsAwaited u r) :
    u.handReply r op ws p = (true, u.setCtx r.core r.ctx { u.ctx r.core r.ctx with
      replies := (u.ctx r.core r.ctx).replies ++ [⟨r.tag, op, ws, p⟩] }) :=
  if_pos ⟨hc, hw⟩

theorem handReply_notAwaited {u : State} {r : Remote} (op : Nat) (ws : List Word) (p : Nat) (hw : ¬ IsAwaited u r) :
    u.handReply r op ws p = (false, u) :=
  if_neg fun h => hw h.2

/-- A context of a core is no copy queue, so no job waits for its requests. -/
theorem waitingJob_none {s : State} {r : Remote} (hc : r.ctx < 11) : s.waitingJob r = none :=
  if_pos (Or.inl (show r.ctx < 64 + 0 by omega))

/-- RDATA looks first for the agent that asked; the other answers complete their request. -/
theorem exec_answer {i : Instr} (s : State) (hi : i ∈ [Instr.rdata, .ares, .msg, .empty]) :
    exec i s = execRdata s ∨ exec i s = takeResponse complete s := by
  simp only [List.mem_cons, List.not_mem_nil, or_false] at hi
  obtain rfl | rfl | rfl | rfl := hi
  · exact .inl rfl
  · exact .inr rfl
  · exact .inr rfl
  · exact .inr rfl

section
variable {s : State} {r : Remote} {i : Instr} (hp : passes s) (hi : i ∈ [Instr.rdata, .ares, .msg, .empty])
include hp hi

theorem answer_unasked (h : (counted s).remoteFor s.ev.at_ s.ev.msg = none) : Answers i s (counted s) := by
  obtain hx | hx := exec_answer s hi
  · exact answers_takeResponse_unasked hx hp h
  · exact answers_takeResponse_unasked hx hp h

/-- Each of the four answers completes the request of a context; of RDATA, only those of other agents go elsewhere. -/
theorem answer_completes (h : (counted s).remoteFor s.ev.at_ s.ev.msg = some r) (hc : r.ctx < 11) :
    Answers i s (complete r s.ev.msg (counted s)) := by
  obtain hx | hx := exec_answer s hi
  · have hentry : ¬ 100 ≤ r.ctx := by omega
    have hmcast : r.ctx ≠ mcastAgent := show r.ctx ≠ 96 by omega
    exact answers_takeResponse_asked hx hp h (by simp only [if_neg hentry, if_neg hmcast, waitingJob_none hc])
  · exact answers_takeResponse_asked hx hp h rfl

end

theorem rdata_givesLine {s : State} {r : Remote} {e : LEntry} (hp : passes s)
    (h : (counted s).remoteFor s.ev.at_ s.ev.msg = some r) (hc : 100 ≤ r.ctx)
    (he : (((counted s).closeRemote r).core r.core).entryOf r.ctx = some e) :
    Answers .rdata s (((counted s).closeRemote r).modCore r.core (fun k => k.putEntry { e with
      lines := e.lines.put r.off (s.ev.msg.payload.flatMap (fun w => leBytes 8 w.toNat) ++ leBytes 2 s.ev.msg.poison) })) :=
  answers_takeResponse_asked (exec_rdata s) hp h (by simp only [if_pos hc, State.giveLine, he])

theorem answerEvents : AnswerEvents := by
  refine fun s i hp hi => ⟨answer_unasked hp hi, fun r hr hc => ⟨fun hw => ?_, fun hw => ?_⟩,
    fun r e hr => rdata_givesLine hp hr⟩
  · exact answers_of_eq (answer_completes hp hi hr hc) (congrArg Prod.snd (handReply_awaited _ _ _ hc hw))
  · exact answers_of_eq (answer_completes hp hi hr hc) (congrArg Prod.snd (handReply_notAwaited _ _ _ hw))

/-! ## End to end (R27, R28, R73) -/

section
variable {s : State} {m : Msg} {w : Word} {ep : Nat}

/-- A request whose ESEQ its source's replay table does not hold is entered there and goes on. -/
theorem e2eArrive_new
    (hnew : ∀ r, ((s.applyCack m.sdev (bits w 31 0)).peer m.sdev).replays.look (bits w 63 32 % 4096) = some r →
      r.eseq ≠ bits w 63 32) :
    s.e2eArrive ep w m = ((s.applyCack m.sdev (bits w 31 0)).modPeer m.sdev (fun p => { p with
      replays := p.replays.put (bits w 63 32 % 4096) ⟨bits w 63 32, false, []⟩ })).post m.event
        { Ev.zero with at_ := ep, msg := { m with eseq := bits w 63 32 } } := by
  unfold State.applyCack at hnew ⊢
  simp only [State.e2eArrive]
  split
  · rfl
  · next r hr => exact if_pos (hnew r hr)

variable {r : Replay}
  (hr : ((s.applyCack m.sdev (bits w 31 0)).peer m.sdev).replays.look (bits w 63 32 % 4096) = some r)
  (he : r.eseq = bits w 63 32)
include hr he

theorem e2eArrive_inProgress (hd : r.done = false) : s.e2eArrive ep w m = s.applyCack m.sdev (bits w 31 0) := by
  unfold State.applyCack at hr ⊢
  simp only [State.e2eArrive, hr]
  exact (if_neg (not_not.2 he)).trans (if_pos (by simp [hd]))

/-- An answered load is performed again (R28). -/
theorem e2eArrive_loadAgain (hd : r.done = true) (hop : m.op = 0x01 ∨ m.op = 0x0C) :
    s.e2eArrive ep w m = (s.applyCack m.sdev (bits w 31 0)).post m.event
      { Ev.zero with at_ := ep, msg := { m with eseq := bits w 63 32 } } := by
  unfold State.applyCack at hr ⊢
  simp only [State.e2eArrive, hr]
  exact (if_neg (not_not.2 he)).trans ((if_neg (by simp [hd])).trans (if_pos hop))

theorem e2eArrive_storedAnswer (hd : r.done = true) (hop : ¬ (m.op = 0x01 ∨ m.op = 0x0C)) :
    s.e2eArrive ep w m = (s.applyCack m.sdev (bits w 31 0)).inject
      ((s.applyCack m.sdev (bits w 31 0)).reply ep { m with eseq := bits w 63 32 } (r.result.getD 0 0).toNat
        (r.result.drop 1)) := by
  unfold State.applyCack at hr ⊢
  simp only [State.e2eArrive, hr]
  exact (if_neg (not_not.2 he)).trans ((if_neg (by simp [hd])).trans (if_neg hop))

end

theorem e2eRetransmit_sends {s : State} {r : Remote}
    (h : s.remotes.find? (fun r => r.dev == s.ev.at_ && r.eseq == s.ev.x && r.dev != s.devId) = some r) :
    Answers .e2eRetransmit s (if 8 ≤ r.retries then s.post .e2eRequestFail { Ev.zero with at_ := s.ev.at_, x := s.ev.x }
      else s.resend r) :=
  answers_runEvent (exec_e2eRetransmit s) (by simp only [h])

/-- A request that fails while its context waits for the answer gives it the answer FAIL. -/
theorem failRemote_awaited {s : State} {r : Remote} (cause : Nat) (eval : Word) (hc : r.ctx < 11)
    (hw : IsAwaited ((s.closeRemote r).settle r) r) :
    let u := (s.closeRemote r).settle r
    s.failRemote r cause eval = u.setCtx r.core r.ctx { u.ctx r.core r.ctx with
      replies := (u.ctx r.core r.ctx).replies ++ [⟨r.tag, 0x4F, [word (cause * 2 ^ 56), eval], 0⟩] } := by
  simp only [State.failRemote, handReply_awaited _ _ _ hc hw]

theorem e2eAckTimer_sends {s : State} {l : Nat} (h : s.linkTo s.ev.at_ = some l) :
    Answers .e2eAckTimer s ((s.sendControl l 3 [eackRecord s.devId s.ev.at_ (s.peer s.ev.at_).cack]).modPeer s.ev.at_
      (fun p => { p with owedAck := false })) :=
  answers_runEvent (exec_e2eAckTimer s) (by simp only [h])

theorem endToEndEvents : EndToEndEvents := by
  refine ⟨fun s => ?_, fun s r h => ⟨fun hn => ?_, fun hn => ?_, ?_⟩, fun s r cause eval hc => ?_,
    fun s r h => ⟨s.free.1.toNat % 2 ^ 32, ?_⟩, fun s l => e2eAckTimer_sends⟩
  · have heseq := bits_top (s.ev.words.getD 0 0) (lo := 32) (by decide)
    have hcack := bits_bottom (s.ev.words.getD 0 0) 31
    have harrive := fun t => answers_runEvent (t := t) (exec_e2eRequestArrive s)
    simp only [← heseq, ← hcack]
    refine ⟨fun hnew => ?_, fun r hr he => ⟨fun hd => ?_, fun hd hop => ?_, fun hd hrd hnib => ?_⟩⟩
    · exact harrive _ (e2eArrive_new hnew)
    · exact harrive _ (e2eArrive_inProgress hr he hd)
    · exact harrive _ (e2eArrive_loadAgain hr he hd hop)
    · exact ⟨_, harrive _ (e2eArrive_storedAnswer hr he hd (not_or.2 ⟨hrd, hnib⟩)), rfl, rfl, rfl, rfl, rfl⟩
  · exact answers_of_eq (e2eRetransmit_sends h) (if_neg (Nat.not_le.2 hn))
  · exact answers_of_eq (e2eRetransmit_sends h) (if_pos hn)
  · exact answers_runEvent (exec_e2eRequestFail s) (by simp only [h])
  · exact fun hw => failRemote_awaited cause eval hc (Or.inl hw)
  · exact answers_runEvent (exec_requestTimeout s) (by simp only [h])

/-- Settles O50: every answer and every retry runs its own case of the model. -/
theorem answerAndRetryEvents : Obligations.AnswerAndRetryEvents := ⟨answerEvents, endToEndEvents⟩

/-! ## Solder (R21) -/

section
variable {s : State}

/-- A flit in sequence goes to its switch; what is posted leaves the event in place. -/
theorem solderFlit_handsOn (hcrc : s.ev.flit.crcOk = true) (hup : (s.solder (s.ev.at_ % 8)).retrain = false)
    (hseq : s.ev.flit.lseq = (s.solder s.ev.at_).seq) :
    Answers .solderFlit s (s.ev.flit.msgs.foldl
      (fun t m => t.post .switchReceive { Ev.zero with at_ := t.ev.y, x := t.ev.x, msg := m.msg })
      (s.modSolder s.ev.at_ (fun k => { k with seq := (k.seq + 1) % 256, fails := 0 }))) := by
  refine answers_runEvent (exec_solderFlit s) ?_
  simp only [hcrc, hup, hseq, Bool.not_true, bne_self_eq_false, Bool.false_eq_true, if_false]
  exact (foldl_post_ev .switchReceive (fun v (m : LinkMsg) => { Ev.zero with at_ := v.y, x := v.x, msg := m.msg }) _
    (s.modSolder _ _)).symm

theorem solderFlit_sentAgain (hcrc : s.ev.flit.crcOk = false) (hk : (s.solder s.ev.at_).fails < 16) :
    Answers .solderFlit s ((s.modSolder s.ev.at_ (fun k => { k with fails := k.fails + 1 })).post .solderFlit
      { s.ev with flit := { s.ev.flit with crcOk := true } }) := by
  have hfew := Nat.not_le.2 hk
  have hcount : s.modSolder s.ev.at_ (fun k => { k with fails := if 16 ≤ k.fails then 0 else k.fails + 1 }) =
      s.modSolder s.ev.at_ (fun k => { k with fails := k.fails + 1 }) := modSolder_congr (by simp only [if_neg hfew])
  exact answers_runEvent (exec_solderFlit s) (by simp only [hcrc, Bool.not_false, if_true, if_neg hfew, hcount])

/-- After 16 failed replays the flit is held and the interface retrains. -/
theorem solderFlit_retrains (hcrc : s.ev.flit.crcOk = false) (hk : 16 ≤ (s.solder s.ev.at_).fails) :
    Answers .solderFlit s (((s.modSolder s.ev.at_ (fun k => { k with fails := 0 })).modSolder (s.ev.at_ % 8) (fun k => { k with
      held := k.held ++ s.ev.flit.msgs.map (fun (m : LinkMsg) => (s.ev.y, s.ev.x, m.msg)) })).post .d2dRetrain
        { Ev.zero with at_ := s.ev.at_ % 8 }) := by
  have hcount : s.modSolder s.ev.at_ (fun k => { k with fails := if 16 ≤ k.fails then 0 else k.fails + 1 }) =
      s.modSolder s.ev.at_ (fun k => { k with fails := 0 }) := modSolder_congr (by simp only [if_pos hk])
  exact answers_runEvent (exec_solderFlit s) (by simp only [hcrc, Bool.not_false, if_true, if_pos hk, hcount])

end

theorem solderSteps : SolderSteps := by
  refine ⟨fun s => ⟨solderFlit_handsOn, solderFlit_sentAgain, solderFlit_retrains⟩, exec_d2dRetrain,
    fun s hre => ⟨fun hx => ?_, fun hx hk => ?_, fun hx hk hhub => ?_⟩⟩
  · exact answers_runEvent (exec_d2dRetrainEnd s) (by simp [hre, hx])
  · exact answers_runEvent (exec_d2dRetrainEnd s) (by simp [hre, hx, hk, us10])
  · have hlast := Nat.not_lt.2 hk
    have hcube := Nat.not_lt.2 hhub
    exact answers_runEvent (exec_d2dRetrainEnd s) (by simp [hre, hx, hlast, hcube])

/-! ## Flits of a link (R23, R24, R29, R30) -/

/-- The state once a flit that passes its checks has been read: what it acknowledges is free, and its NAK is served. -/
def flitRead (s : State) : State :=
  let t := s.modLink s.ev.at_ (fun k => { k.acked s.ev.flit with stop := s.ev.flit.stop })
  if s.ev.flit.nak = true then t.replay s.ev.at_ else t

/-- The state once the flit has been taken in sequence. -/
def flitTaken (s : State) : State :=
  (flitRead s).modLink s.ev.at_ (fun k => { k with recvSeq := (k.recvSeq + 1) % 1024, heard := true })

/-- The state once the messages of a data flit, or the record of a control flit, have been handed on. -/
def flitHandedOn (s : State) : State :=
  if s.ev.flit.kind = 0 then s.ev.flit.msgs.foldl (fun t m => t.fromLink s.ev.at_ m) (flitTaken s)
  else (flitTaken s).post (controlEvent (s.ev.flit.words.getD 0 0).toNat)
    { Ev.zero with at_ := s.ev.at_, words := s.ev.flit.words }

section
variable {s : State} (hl : s.boot.links.testBit s.ev.at_ = true)

theorem linkFlit_absent (h : s.boot.links.testBit s.ev.at_ = false) : Answers .linkFlitReceive s s :=
  answers_runEvent (exec_linkFlitReceive s) (by simp [h])

include hl

theorem linkFlit_fails (hok : s.ev.flit.ok = false) :
    Answers .linkFlitReceive s (s.modLink s.ev.at_ (fun k => k.send 1 [] true)) :=
  answers_runEvent (exec_linkFlitReceive s) (by simp [hl, hok])

variable (hok : s.ev.flit.ok = true)
include hok

theorem linkFlit_outOfSequence (hseq : s.ev.flit.lseq ≠ ((flitRead s).link s.ev.at_).recvSeq) :
    Answers .linkFlitReceive s ((flitRead s).pump s.ev.at_) := by
  refine answers_runEvent (exec_linkFlitReceive s) ?_
  unfold flitRead at hseq ⊢
  simp only [hl, hok, Bool.not_true, Bool.false_eq_true, if_false]
  exact if_pos (bne_iff_ne.2 hseq)

theorem linkFlit_inSequence (hseq : s.ev.flit.lseq = ((flitRead s).link s.ev.at_).recvSeq)
    (hkind : s.ev.flit.kind = 0 ∨ s.ev.flit.kind = 2) :
    Answers .linkFlitReceive s (((flitHandedOn s).modLink s.ev.at_ (fun k => k.send 1 [] false)).pump s.ev.at_) := by
  refine answers_runEvent (exec_linkFlitReceive s) ?_
  unfold flitHandedOn flitTaken flitRead at *
  have hinSeq := bne_eq_false_iff_eq.2 hseq
  simp only [hl, hok, Bool.not_true, Bool.false_eq_true, if_false]
  refine (if_neg (Bool.eq_false_iff.1 hinSeq)).trans ?_
  obtain h | h := hkind
  · simp only [h]
    rfl
  · simp only [h]
    rfl

end

theorem flitRead_ack {s : State} (h : s.ev.flit.nak = false) :
    flitRead s = s.modLink s.ev.at_ (fun k => { k.acked s.ev.flit with stop := s.ev.flit.stop }) :=
  if_neg (Bool.eq_false_iff.1 h)

theorem flitRead_nak {s : State} (h : s.ev.flit.nak = true) :
    flitRead s = (s.modLink s.ev.at_ (fun k => { k.acked s.ev.flit with stop := s.ev.flit.stop })).replay s.ev.at_ :=
  if_pos h

theorem linkFlits : LinkFlits := by
  refine fun s => ⟨linkFlit_absent, fun hl => ⟨linkFlit_fails hl, fun hok hnak hseq hk => ?_,
    fun hok hnak hseq hk => ?_, fun hok hnak => ?_, fun hok hnak => ?_⟩⟩
  · have h := linkFlit_inSequence hl hok (by rwa [flitRead_ack hnak]) (.inl hk)
    rwa [flitHandedOn, if_pos hk, flitTaken, flitRead_ack hnak] at h
  · have h := linkFlit_inSequence hl hok (by rwa [flitRead_ack hnak]) (.inr hk)
    rwa [flitHandedOn, if_neg (by omega), flitTaken, flitRead_ack hnak] at h
  · have h := linkFlit_outOfSequence hl hok
    rwa [flitRead_ack hnak] at h
  · have h := linkFlit_outOfSequence hl hok
    rwa [flitRead_nak hnak] at h

/-! ## The training of a link (R18, R24, R26, R29) -/

theorem retraining_absent {s : State} (hl : s.boot.links.testBit s.ev.at_ = false) :
    Answers .linkRetrain s s ∧ Answers .trainReq s s ∧ Answers .trainDone s s := by
  refine ⟨answers_runEvent (exec_linkRetrain s) ?_, answers_runEvent (exec_trainReq s) ?_,
    answers_runEvent (exec_trainDone s) ?_⟩ <;> simp [hl]

/-- What a link that is up does when it is to retrain, by the reason in the event. -/
theorem linkRetrain_tries {s : State} (hd : (s.link s.ev.at_).down = false) (hl : s.boot.links.testBit s.ev.at_ = true) :
    let l := s.ev.at_
    Answers .linkRetrain s (
      if s.ev.x = 2 then s.trainLink l 2
      else if s.ev.x = 0 then
        ((s.raiseMonitor Cause.linkRetrain).modLink l (fun k => { k with retrains := k.retrains + 1, failed := 0 })).trainLink l 1
      else if (s.link l).failed < 2 then (s.modLink l (fun k => { k with failed := k.failed + 1 })).trainLink l 1
      else (s.modLink l (fun k => { k with failed := k.failed + 1 })).post .linkDown { Ev.zero with at_ := l }) :=
  answers_runEvent (exec_linkRetrain s) (by simp only [hd, hl]; rfl)

theorem echoReply_measures {s : State} (h : (s.link s.ev.at_).echo = s.ev.words.getD 1 0) :
    Answers .echoReply s (s.modLink s.ev.at_ (fun k => { k with
      rtt := (s.clk - (s.link s.ev.at_).echo.toNat) * 25 / 47 })) :=
  answers_runEvent (exec_echoReply s) (modLink_congr (if_pos h))

/-- A control flit that holds one record and no more has that record to act on. -/
theorem eackRecords_single {r : Word} (hr : r ≠ 0) : ([3, r].drop 1).filter (fun w => w != 0) = [r] :=
  List.filter_cons_of_pos (bne_iff_ne.2 hr)

section
variable {s : State} {r : Word} (hw : s.ev.words = [3, r]) (hr : r ≠ 0)
include hw hr

theorem eack_applied (hd : bits r 57 52 = s.devId) : Answers .eack s (s.applyCack (bits r 63 58) (bits r 31 0)) := by
  refine answers_runEvent (exec_eack s) ?_
  rw [hw, eackRecords_single hr]
  exact if_pos hd

theorem eack_passedOn {k : Nat} (hd : bits r 57 52 ≠ s.devId) (hto : s.linkTo (bits r 57 52) = some k) :
    Answers .eack s (s.sendControl k 3 [eackRecord (bits r 63 58) (bits r 57 52) (bits r 31 0)]) := by
  refine answers_runEvent (exec_eack s) ?_
  rw [hw, eackRecords_single hr]
  simp only [List.foldl_cons, List.foldl_nil, if_neg hd, hto]

end

/-! ## A link that is down (R24, R30) -/

/-- The state in which link `l` is absent and what it held is gone. -/
def linkGone (s : State) (l : Nat) : State :=
  let t := s.logFault Cause.linkDown 2 0xFFFF 0 (word l)
  State.modLink { t with boot := { t.boot with links := clearBits t.boot.links l 1 } } l
    (fun k => { k with down := true, retrain := false, waiting := [], unacked := [], owed := [] })

/-- A request of a link that is down goes out again on the route that remains, and without one fails. -/
def reissue (l : Nat) (s : State) (r : Remote) : State :=
  if (s.linkTo r.dev).isSome then s.resend r else s.failRemote r Cause.linkDown (word l)

/-- With no message waiting and no snapshot over it, a link that goes down reissues its requests. -/
theorem linkDown_reissues {s : State} (hwait : (s.link s.ev.at_).waiting = []) (hsnap : s.snapsOver s.ev.at_ = []) :
    Answers .linkDown s ((s.remotes.filter (fun r => r.dev != s.devId && r.link == some s.ev.at_)).foldl (reissue s.ev.at_)
      (linkGone s s.ev.at_)) := by
  refine answers_runEvent (exec_linkDown s) ?_
  simp only [hwait, hsnap, List.foldl_nil]
  refine congrArg (fun f => List.foldl f _ _) (funext fun t => funext fun r => ?_)
  unfold reissue
  cases t.linkTo r.dev <;> rfl

theorem linkTraining : LinkTraining := by
  refine ⟨exec_linkCrc, fun s => retraining_absent, fun s hd hl => ?_, fun s => ⟨fun hl => ⟨?_, ?_⟩,
    exec_echo s, echoReply_measures, fun hx => ?_, fun hx => ?_, fun r hw hr => ?_⟩,
    fun s hwait hsnap => ⟨fun hmine => ?_, fun r hmine => ⟨fun hto => ?_, fun hto => ?_⟩⟩⟩
  · have htry := linkRetrain_tries hd hl
    refine ⟨fun hx => ?_, fun hx => ?_, fun hx hk => ?_, fun hx hk => ?_⟩
    · exact answers_of_eq htry ((if_neg (by omega)).trans (if_pos hx))
    · exact answers_of_eq htry (if_pos hx)
    · exact answers_of_eq htry ((if_neg (by omega)).trans ((if_neg (by omega)).trans (if_pos hk)))
    · exact answers_of_eq htry ((if_neg (by omega)).trans ((if_neg (by omega)).trans (if_neg (Nat.not_lt.2 hk))))
  · exact answers_runEvent (exec_trainReq s) (by simp [hl])
  · exact answers_runEvent (exec_trainDone s) (by simp [hl])
  · exact answers_runEvent (exec_idset s) ((if_neg (Nat.not_le.2 hx)).trans (by simp only [bits_bottom]; rfl))
  · exact answers_runEvent (exec_idset s) (if_pos hx)
  · simp only [← bits_bottom r 31, ← bits_top r (show 58 ≤ 64 by decide)]
    exact ⟨eack_applied hw hr, fun k => eack_passedOn hw hr⟩
  · exact answers_of_eq (linkDown_reissues hwait hsnap) (by rw [hmine]; rfl)
  · exact answers_of_eq (linkDown_reissues hwait hsnap) (by rw [hmine]; exact if_pos hto)
  · exact answers_of_eq (linkDown_reissues hwait hsnap) (by rw [hmine]; exact if_neg (by simp [linkGone, hto]))

/-- Settles O52: every flit and every event of an interface or a link runs its own case of the model. -/
theorem linkEvents : Obligations.LinkEvents := ⟨solderSteps, linkFlits, linkTraining⟩

end Sys2Proof.Proofs.Links
end

section
/-! PROOFS. The switches: what they take, choose, send and promote. -/

namespace Sys2Proof.Proofs.Fabric

open Sys2Proof.Machine Sys2Proof.Spec Sys2Proof.Proofs.Package Sys2Proof.Proofs.Links

section
variable (s : State)

theorem exec_switchReceive : exec .switchReceive s = execSwitchReceive s := rfl
theorem exec_outputArbitrate : exec .outputArbitrate s = execOutputArbitrate s := rfl
theorem exec_agePromote : exec .agePromote s = execAgePromote s := rfl
theorem exec_unknownMessage : exec .unknownMessage s = execUnknownMessage s := rfl

end

theorem modSwitch_congr {s : State} {n : Nat} {f g : Switch → Switch} (h : f (s.switch n) = g (s.switch n)) :
    s.modSwitch n f = s.modSwitch n g := by
  simp [State.modSwitch, h]

/-! ## Switches (R37, R39, R41, R44, R45, R48, R101) -/

section
variable {s : State}

theorem switchReceive_shut (h : s.shutSwitch s.ev.at_ = true) : Answers .switchReceive s s :=
  answers_runEvent (exec_switchReceive s) (if_pos h)

variable (hopen : s.shutSwitch s.ev.at_ = false)
include hopen

theorem switchReceive_queues (hok : s.headerOk s.ev.at_ s.ev.x s.ev.msg = true)
    (hmark : ¬ (s.ev.msg.op = 0x72 ∧ s.ev.msg.ddev = s.devId)) (houts : (s.outsOf s.ev.at_ s.ev.x s.ev.msg).1 ≠ []) :
    Answers .switchReceive s (s.enqueueAt s.ev.at_ s.ev.x s.ev.msg (s.outsOf s.ev.at_ s.ev.x s.ev.msg).1
      (s.outsOf s.ev.at_ s.ev.x s.ev.msg).2) := by
  have hroute : ¬ (s.outsOf s.ev.at_ s.ev.x s.ev.msg).1.isEmpty = true := by simpa using houts
  refine answers_runEvent (exec_switchReceive s) ?_
  simp only [hopen, hok, Bool.not_true, Bool.false_eq_true, if_false, if_neg hmark, if_neg hroute]

theorem switchReceive_rejects {p : Nat} (hbad : s.headerOk s.ev.at_ s.ev.x s.ev.msg = false)
    (hp : (s.raiseMonitor Cause.eccUncorrMeta).inputOwner s.ev.at_ s.ev.x = some p) :
    Answers .switchReceive s ((s.raiseMonitor Cause.eccUncorrMeta).post .partReset { Ev.zero with x := p, z := 1 }) := by
  refine answers_runEvent (exec_switchReceive s) ?_
  simp only [hopen, hbad, Bool.not_false, Bool.false_eq_true, if_false, if_true, hp]

end

/-- The state once an output has taken the head `h` that it chose, with message `q` and its pointers moved in `k`. -/
def outputTaken (s : State) (h : Nat × Nat) (k : Switch) (q : Queued) : State :=
  ({ s with switches := s.switches.put s.ev.at_ ({ k with stops := (s.switch s.ev.at_).stops }.granted h s.ev.x) }.ageHeads
    s.ev.at_ s.ev.x q.msg.beats).signalStop s.ev.at_ h.1 h.2

section
variable {s : State} {h : Nat × Nat} {k : Switch} {q : Queued} (hheld : s.solderHeld s.ev.at_ s.ev.x = false)
  (hchoice : (s.switchNow s.ev.at_).choose s.ev.at_ s.ev.x = (some h, k))
  (hhead : (k.queues.get (h.1 * 4 + h.2) []).head? = some q)
include hheld hchoice hhead

theorem outputArbitrate_toSwitch {n p : Nat} (hnext : nextSwitch s.ev.at_ s.ev.x = some (n, p))
    (hway : crossesSolder n p = false) :
    Answers .outputArbitrate s ((outputTaken s h k q).post .switchReceive { Ev.zero with at_ := n, x := p, msg := q.msg }) := by
  refine answers_runEvent (exec_outputArbitrate s) ?_
  simp only [hheld, hchoice, hhead, hnext, State.absentWay, State.toSwitch, hway, Bool.false_and, Bool.false_eq_true,
    if_false]
  rfl

theorem outputArbitrate_toEndpoint (hnext : nextSwitch s.ev.at_ s.ev.x = none) (hleaf : s.ev.at_ < 128)
    (hmark : q.msg.op ≠ 0x72) (hdev : q.msg.ddev = (outputTaken s h k q).devId) :
    Answers .outputArbitrate s ((outputTaken s h k q).post q.msg.event
      { Ev.zero with at_ := portEndpoint s.ev.at_ s.ev.x, msg := q.msg }) := by
  refine answers_runEvent (exec_outputArbitrate s) ?_
  have harrive : (outputTaken s h k q).arrive s.ev.at_ s.ev.x q.msg = (outputTaken s h k q).post q.msg.event
      { Ev.zero with at_ := portEndpoint s.ev.at_ s.ev.x, msg := q.msg } := by
    simp only [State.arrive, hmark, false_and, if_false, hdev, bne_self_eq_false, Bool.false_eq_true, if_pos hleaf]
  simp only [hheld, hchoice, hhead, hnext, Bool.false_eq_true, if_false]
  exact harrive

end

theorem agePromote_head {s : State} {m : Queued} {rest : List Queued}
    (h : (s.switch s.ev.at_).queues.get s.ev.x [] = m :: rest) :
    Answers .agePromote s (s.modSwitch s.ev.at_ (fun k => { k with
      queues := k.queues.put s.ev.x ({ m with prom := s.ev.y :: m.prom } :: rest) })) :=
  answers_runEvent (exec_agePromote s) (modSwitch_congr (by simp only [h]))

/-- Settles O48: each event of a switch runs its own case of the model. -/
theorem fabricEvents : Obligations.FabricEvents := by
  refine ⟨fun s => ⟨switchReceive_shut, switchReceive_queues, fun hopen hbad p _ => switchReceive_rejects hopen hbad⟩,
    fun s h k q hheld hchoice hhead => ⟨fun n p => ?_, ?_⟩, fun s m rest => agePromote_head, exec_unknownMessage⟩
  · exact outputArbitrate_toSwitch hheld hchoice hhead
  · exact outputArbitrate_toEndpoint hheld hchoice hhead

end Sys2Proof.Proofs.Fabric
end

section
/-! PROOFS. Requests at a home slice, at another stage, and at a network interface. -/

namespace Sys2Proof.Proofs.Requests

open Sys2Proof.Machine Sys2Proof.Spec Sys2Proof.Proofs.Package Sys2Proof.Proofs.Links

/-! ## An endpoint takes a message (R38, R73, R87) -/

section
variable {i : Instr} {f : Nat → Msg → State → State} {s : State} (hx : exec i s = takeMsgAt f s)
include hx

theorem answers_takeMsgAt_badTag (h : s.ev.msg.tagOk = false) :
    Answers i s (s.audit 4 (auditSrc s.ev.at_) s.ev.msg.part s.ev.msg.header0) := by
  simp [Answers, hx, takeMsgAt, runEvent, h]

theorem answers_takeMsgAt_refused (htag : s.ev.msg.tagOk = true) (h : s.firewallRefuses s.ev.at_ s.ev.msg = true) :
    Answers i s (s.audit 3 (auditSrc s.ev.at_) (auditSrc s.ev.at_ / 8) s.ev.msg.header0) := by
  simp [Answers, hx, takeMsgAt, runEvent, htag, h]

/-- A message that passes its checks is counted and handled. -/
theorem answers_takeMsgAt_passes {t : State} (hp : passes s) (ht : f s.ev.at_ s.ev.msg (counted s) = t) :
    Answers i s t := by
  obtain ⟨htag, hfw⟩ := hp
  unfold counted at ht
  simp [Answers, hx, takeMsgAt, runEvent, htag, hfw, ht]

end

section
variable (s : State)

theorem exec_dramComplete : exec .dramComplete s = execDramComplete s := rfl
theorem exec_spillFetch : exec .spillFetch s = execSpillFetch s := rfl
theorem exec_rst : exec .rst s = execRst s := rfl
theorem exec_nib : exec .nib s = execNib s := rfl
theorem exec_rld : exec .rld s = execRld s := rfl
theorem exec_inv : exec .inv s = execInv s := rfl

end

/-- Every request of a stage arrives in the same way. -/
theorem exec_stageRequest {i : Instr} (hi : stageRequest i) (s : State) :
    exec i s = takeMsgAt (fun ep m s => s.arriveReq ep m) s := by
  simp only [stageRequest, List.mem_cons, List.not_mem_nil, or_false] at hi
  obtain rfl | rfl | rfl | rfl | rfl | rfl | rfl | rfl | rfl | rfl | rfl | rfl | rfl := hi <;> rfl

/-! ## A request at a home slice (R58, R176, R177) -/

section
variable {s : State} {ep : Nat} {m : Msg}

theorem arriveReq_slice_moved {u : State} (hs : isSlice ep = true) (h : s.sentOn ⟨ep, m, 0⟩ = some u) :
    s.arriveReq ep m = u := by
  simp only [State.arriveReq, hs, h, if_true, Option.getD_some]

theorem arriveReq_slice_stays (hs : isSlice ep = true) (h : s.sentOn ⟨ep, m, 0⟩ = none) :
    s.arriveReq ep m = s.atSlice ep m := by
  simp only [State.arriveReq, hs, h, if_true, Option.getD_none]

/-- A spilled request of the same line waits before this one. -/
def isBehind (s : State) (ep : Nat) (m : Msg) : Bool :=
  (s.slice (epSlice ep)).spill.any (fun q => s.reqLine q.ep q.msg == s.reqLine ep m)

/-- The slice has an entry for the line of this request. -/
def hasEntry (s : State) (ep : Nat) (m : Msg) : Bool :=
  (s.slice (epSlice ep)).entries.any (fun e => e.line == s.reqLine ep m)

theorem atSlice_merges (hb : isBehind s ep m = false) (he : hasEntry s ep m = true) :
    s.atSlice ep m = s.modSlice (epSlice ep) (fun k => { k with
      entries := k.entries.map (fun e => if e.line = s.reqLine ep m then
        { e with reqs := e.reqs ++ [⟨ep, m, s.reqLine ep m⟩] } else e) }) := by
  unfold isBehind at hb
  unfold hasEntry at he
  simp only [State.atSlice, hb, he, Bool.not_false, Bool.and_self, if_true]

theorem atSlice_opens (hb : isBehind s ep m = false) (he : hasEntry s ep m = false)
    (hfree : (s.slice (epSlice ep)).holds (s.reqLine ep m) = true) :
    s.atSlice ep m = s.modSlice (epSlice ep) (fun k => { k with
      entries := k.entries ++ [⟨s.reqLine ep m, [⟨ep, m, s.reqLine ep m⟩]⟩] }) := by
  unfold isBehind at hb
  unfold hasEntry at he
  simp only [State.atSlice, hb, he, hfree, Bool.not_false, Bool.and_self, Bool.and_false, Bool.false_eq_true, if_true,
    if_false]

theorem atSlice_spills
    (h : isBehind s ep m = true ∨ hasEntry s ep m = false ∧ (s.slice (epSlice ep)).holds (s.reqLine ep m) = false)
    (hover : (s.slice (epSlice ep)).spill.length + 1 ≠ 16384) (hfull : (s.slice (epSlice ep)).spill.length + 1 ≠ 32768) :
    s.atSlice ep m = s.modSlice (epSlice ep) (fun k => { k with spill := k.spill ++ [⟨ep, m, s.reqLine ep m⟩] }) := by
  unfold isBehind hasEntry at h
  obtain hb | ⟨he, hk⟩ := h
  · simp only [State.atSlice, hb, hover, hfull, Bool.not_true, Bool.false_and, Bool.false_eq_true, if_false]
  · simp only [State.atSlice, he, hk, hover, hfull, Bool.and_false, Bool.false_eq_true, if_false]

/-! ## A request at another stage (R52, R269) -/

theorem sentOn_none {r : HomeReq} (h : isSlice r.ep = false) : s.sentOn r = none := by
  simp [State.sentOn, h]

theorem serveOrWait_served {r : HomeReq} {u : State} (hmoved : s.sentOn r = none) (h : s.serve r.ep r.msg = some u) :
    s.serveOrWait r = u := by
  simp only [State.serveOrWait, hmoved, h]

theorem serveOrWait_waits {r : HomeReq} (hmoved : s.sentOn r = none) (h : s.serve r.ep r.msg = none) :
    s.serveOrWait r = s.modSlice (waitUnit r.ep) (fun k => { k with
      takes := k.takes ++ [{ r with line := s.reqLine r.ep r.msg }] }) := by
  simp only [State.serveOrWait, hmoved, h]

variable (hs : isSlice ep = false)
include hs

/-- The hub root passes a request of another device on to the home slice of its line. -/
theorem arriveReq_far {pl : Place} {n : Nat} (hdev : m.sdev ≠ s.devId) (hpl : s.placeOf ep m [] = .ok pl)
    (hn : s.slicePlace pl.home = some n) :
    s.arriveReq ep m = s.post .switchReceive
      { Ev.zero with at_ := hubRoot, x := 192 + ep % 256, msg := { m with dep := sliceEndpoint n } } := by
  simp only [State.arriveReq, hs, beq_eq_false_iff_ne.2 hdev, hpl, hn, Bool.false_eq_true, if_false]

theorem arriveReq_here (h : m.sdev = s.devId ∨ ∀ pl, s.placeOf ep m [] = .ok pl → s.slicePlace pl.home = none) :
    s.arriveReq ep m = s.serveOrWait ⟨ep, m, 0⟩ := by
  simp only [State.arriveReq, hs, Bool.false_eq_true, if_false]
  split
  · next pl hdev hpl =>
    have hfar : m.sdev ≠ s.devId := beq_eq_false_iff_ne.1 hdev
    simp only [h.resolve_left hfar pl hpl]
  · rfl

end

theorem requestArrival : RequestArrival := by
  intro s i hi
  have hx := exec_stageRequest hi s
  refine ⟨answers_takeMsgAt_badTag hx, answers_takeMsgAt_refused hx, fun hp hs => ⟨fun u hu => ?_, fun hstay => ?_⟩,
    fun hp hs => ⟨fun pl n hdev hpl hn => ?_, fun hhere => ⟨fun u hu => ?_, fun hwait => ?_⟩⟩⟩
  · exact answers_takeMsgAt_passes hx hp (arriveReq_slice_moved hs hu)
  · have hat := answers_takeMsgAt_passes hx hp (arriveReq_slice_stays hs hstay)
    exact ⟨fun hb he => answers_of_eq hat (atSlice_merges hb he),
      fun hb he hfree => answers_of_eq hat (atSlice_opens hb he hfree),
      fun h hover hfull => answers_of_eq hat (atSlice_spills h hover hfull)⟩
  · exact answers_takeMsgAt_passes hx hp (arriveReq_far hs hdev hpl hn)
  · exact answers_takeMsgAt_passes hx hp ((arriveReq_here hs hhere).trans (serveOrWait_served (sentOn_none hs) hu))
  · exact answers_takeMsgAt_passes hx hp ((arriveReq_here hs hhere).trans (serveOrWait_waits (sentOn_none hs) hwait))

/-! ## Serving (R92, R176 to R179, R296) -/

/-- Entry `e` of a slice whose line has come is free, and its requests are served in order. -/
def entryServed (s : State) (e : HomeEntry) : State :=
  e.reqs.foldl (fun s r => s.serveOrWait r) (s.modSlice s.ev.at_ (fun k => { k with
    entries := k.entries.filter (fun o => o.line != s.ev.x) }))

theorem modSlice_congr {s : State} {n : Nat} {f g : Slice → Slice} (h : f (s.slice n) = g (s.slice n)) :
    s.modSlice n f = s.modSlice n g := by
  simp [State.modSlice, h]

theorem dramComplete_serves {s : State} {e : HomeEntry}
    (h : (s.slice s.ev.at_).entries.find? (fun e => e.line == s.ev.x) = some e) :
    Answers .dramComplete s (if ((entryServed s e).slice s.ev.at_).spill = [] then entryServed s e
      else (entryServed s e).post .spillFetch { Ev.zero with at_ := s.ev.at_ }) := by
  refine answers_runEvent (exec_dramComplete s) ?_
  simp only [h, List.isEmpty_iff]
  rfl

section
variable {s : State} {r : HomeReq} {rest : List HomeReq} (hspill : (s.slice s.ev.at_).spill = r :: rest)
include hspill

theorem spillFetch_merges (he : (s.slice s.ev.at_).entries.any (fun e => e.line == s.reqLine r.ep r.msg) = true) :
    Answers .spillFetch s (s.modSlice s.ev.at_ (fun k => { k with
      spill := rest,
      entries := k.entries.map (fun e => if e.line = s.reqLine r.ep r.msg then { e with reqs := e.reqs ++ [r] } else e) })) :=
  answers_runEvent (exec_spillFetch s) (by simp only [hspill, he, if_true])

theorem spillFetch_opens (he : (s.slice s.ev.at_).entries.any (fun e => e.line == s.reqLine r.ep r.msg) = false)
    (hfree : (s.slice s.ev.at_).holds (s.reqLine r.ep r.msg) = true) :
    Answers .spillFetch s (s.modSlice s.ev.at_ (fun k => { k with
      spill := rest, entries := k.entries ++ [⟨s.reqLine r.ep r.msg, [r]⟩] })) :=
  answers_runEvent (exec_spillFetch s) (by simp only [hspill, he, hfree, Bool.false_eq_true, if_false, if_true])

end

section
variable {s : State} {ep : Nat} {m : Msg} (hopen : s.bankShut ep m = false)

/-- Answering FAIL with a cause and no detail. -/
theorem answerFail_plain (s : State) (ep : Nat) (m : Msg) (c : Nat) :
    s.answerFail ep m c 0 = s.answer ep m 0x4F [word (c * 2 ^ 56)] 0 := by
  simp only [State.answerFail, Nat.zero_mod, Nat.add_zero]

theorem serveRead_answers {pl : Place} (hpl : s.placeOf ep m [rR] = .ok pl) (hhost : s.hostDenies pl.home = false) :
    serveRead ep m s = (s.placeRead pl m.req.size).2.answer ep m (if m.op = 0x21 then 0x50 else 0x41)
      (bytesWords (s.placeRead pl m.req.size).1.1) (s.placeRead pl m.req.size).1.2 := by
  simp only [serveRead, hpl, hhost, Bool.false_eq_true, if_false]

theorem serveRead_fails {c : Nat} (hpl : s.placeOf ep m [rR] = .error c) :
    serveRead ep m s = s.answer ep m 0x4F [word (c * 2 ^ 56)] 0 := by
  simp only [serveRead, hpl, answerFail_plain]

/-- A half line is merged and acknowledged by its class. -/
theorem serveWrite_answers {pl : Place} {u : State} (hop : m.op ≠ 0x02) (hpl : s.placeOf ep m [rW] = .ok pl)
    (hhost : s.hostDenies pl.home = false) (hu : s.placeWrite m pl m.half.1 m.half.2 (m.poison / 8 % 256) = some u) :
    serveWrite ep m s = u.answer ep m (if m.tc = 2 then 0x46 else 0x42) [] 0 := by
  simp only [serveWrite, hpl, hhost, if_neg hop, hu, Bool.false_eq_true, if_false]

theorem serveTake_takes {pl : Place} {q : QDesc} {h : Home} (hq : s.queuePlace ep m [rS, rR] = .ok (pl, q, h))
    (hkind : q.kind = 2) (hrdq : (m.word 0).getLsbD 1 = false) (hcount : q.count ≠ 0) :
    serveTake ep m s = some ((s.take64 pl.ctxid m.req.handle q h m.col).2.answer ep m 0x44
      (word (s.take64 pl.ctxid m.req.handle q h m.col).1.1 ::
        bytesWords (s.take64 pl.ctxid m.req.handle q h m.col).1.2.1)
      ((s.take64 pl.ctxid m.req.handle q h m.col).1.2.2 * 2)) := by
  simp only [serveTake, hq, hkind, bit, hrdq, hcount, bne_self_eq_false, Bool.false_and, Bool.false_eq_true, if_false]

include hopen

theorem serve_read (hop : m.op = 0x01 ∨ m.op = 0x21) : s.serve ep m = some (serveRead ep m s) := by
  obtain hop | hop := hop <;> simp only [State.serve, hopen, hop, Bool.false_eq_true, if_false]

theorem serve_half (hop : m.op = 0x03 ∨ m.op = 0x23 ∨ m.op = 0x24) : s.serve ep m = some (serveWrite ep m s) := by
  obtain hop | hop | hop := hop <;> simp only [State.serve, hopen, hop, Bool.false_eq_true, if_false]

theorem serve_take (hop : m.op = 0x09) : s.serve ep m = serveTake ep m s := by
  simp only [State.serve, hopen, hop, Bool.false_eq_true, if_false]

end

theorem requestService : RequestService := by
  refine ⟨fun s e => dramComplete_serves, fun s r rest h => ⟨spillFetch_merges h, spillFetch_opens h⟩,
    fun s ep m rights hopen => ⟨fun hop pl hpl hhost => ?_, fun hop pl u hpl hhost hu => ?_, fun hop c hpl => ?_,
      fun hop hrights pl q h hq hkind hrdq hcount => ?_⟩⟩
  · exact (serve_read hopen hop).trans (congrArg some (serveRead_answers hpl hhost))
  · exact (serve_half hopen hop).trans (congrArg some (serveWrite_answers (by omega) hpl hhost hu))
  · exact (serve_read hopen hop).trans (congrArg some (serveRead_fails hpl))
  · subst hrights
    exact (serve_take hopen hop).trans (serveTake_takes hq hkind hrdq hcount)

/-! ## Local memory (R100, R132, R168, R169, R255) -/

section
variable {s : State} {u : State} (hp : passes s)
include hp

theorem rst_written (h : (counted s).foreignWrite (niCore s.ev.at_ s.ev.msg) s.ev.msg.req.addr
      ((leBytes 8 (s.ev.msg.word 0).toNat).take s.ev.msg.req.size) s.ev.msg.col = (true, u)) :
    Answers .rst s ((u.markLocal (niCore s.ev.at_ s.ev.msg) s.ev.msg.req.addr (s.ev.msg.poison.testBit 2)).answer
      s.ev.at_ s.ev.msg 0x42 [] 0) :=
  answers_takeMsgAt_passes (exec_rst s) hp (by simp only [h])

theorem rst_refused (h : (counted s).foreignWrite (niCore s.ev.at_ s.ev.msg) s.ev.msg.req.addr
      ((leBytes 8 (s.ev.msg.word 0).toNat).take s.ev.msg.req.size) s.ev.msg.col = (false, u)) :
    Answers .rst s (u.answer s.ev.at_ s.ev.msg 0x4F [word (Cause.remoteFail * 2 ^ 56)] 0) :=
  answers_takeMsgAt_passes (exec_rst s) hp (by simp only [h, answerFail_plain])

/-- The byte of local memory with the nibble of the message put in. -/
def nibbleByte (t : State) (ep : Nat) (m : Msg) : Byte :=
  BitVec.ofNat 8 (putNibble (t.lmem.get (lkey (niCore ep m) m.req.addr)).toNat ((m.word 0).getLsbD 8)
    ((m.word 0).toNat % 16))

theorem nib_written (hni : (niOf s.ev.at_).isSome = true)
    (h : (counted s).foreignWrite (niCore s.ev.at_ s.ev.msg) s.ev.msg.req.addr [nibbleByte (counted s) s.ev.at_ s.ev.msg]
      s.ev.msg.col = (true, u)) :
    Answers .nib s ((u.markLocal (niCore s.ev.at_ s.ev.msg) s.ev.msg.req.addr (s.ev.msg.poison.testBit 2)).answer
      s.ev.at_ s.ev.msg 0x42 [] 0) := by
  have hlow : bits (s.ev.msg.word 0) 3 0 = (s.ev.msg.word 0).toNat % 16 := bits_bottom _ 3
  unfold nibbleByte at h
  exact answers_takeMsgAt_passes (exec_nib s) hp (by simp only [hni, if_true, hlow, bit, h])

end

theorem localMemoryRequests : LocalMemoryRequests :=
  fun s hp hni => ⟨fun _ => rst_written hp, fun _ => rst_refused hp, fun _ => nib_written hp hni,
    answers_takeMsgAt_passes (exec_rld s) hp rfl, answers_takeMsgAt_passes (exec_inv s) hp rfl⟩

/-- Settles O49: each request takes its own case of its stage. -/
theorem requestEvents : Obligations.RequestEvents := ⟨requestArrival, requestService, localMemoryRequests⟩

end Sys2Proof.Proofs.Requests
end

section
/-! PROOFS. What the rollback of a gang member leaves alone once it has written the record back: notices and reloads of slots. -/

namespace Sys2Proof.Proofs.Restore

open Sys2Proof.Machine

/-! ## Reading back a copy and a cleared range -/

section
variable {l r : List Host.Cell} {a : Nat}

theorem cellLook_append_left (h : ∀ c ∈ r, c.1 ≠ a) : cellLook (l ++ r) a = cellLook l a := by
  rw [cellLook_append]
  split
  · rfl
  · next hn =>
    have hl : ∀ c ∈ l, c.1 ≠ a := fun c hc he => hn (List.any_eq_true.2 ⟨c, hc, beq_iff_eq.2 he⟩)
    rw [cellLook_none h, cellLook_none hl]

theorem cellLook_append_right (h : ∀ c ∈ l, c.1 ≠ a) : cellLook (l ++ r) a = cellLook r a := by
  rw [cellLook_append, if_neg]
  intro hany
  obtain ⟨c, hc, he⟩ := List.any_eq_true.1 hany
  exact h c hc (beq_iff_eq.1 he)

end

/-- The cells of a window, moved to another place, are found there. -/
theorem cellLook_window (l : List Host.Cell) (dst src n : Nat) {i : Nat} (h : i < n) :
    cellLook ((l.filter (fun c => decide (src ≤ c.1 ∧ c.1 < src + n))).map (fun c => (c.1 - src + dst, c.2))) (dst + i) =
      cellLook l (src + i) := by
  induction l with
  | nil => rfl
  | cons c t ih =>
    obtain ⟨k, v⟩ := c
    by_cases hk : k = src + i
    · have hin : src ≤ k ∧ k < src + n := by omega
      have hto : k - src + dst = dst + i := by omega
      simp only [List.filter_cons, decide_eq_true hin, if_true, List.map_cons, cellLook, if_pos hto, if_pos hk]
    · have hfrom : cellLook ((k, v) :: t) (src + i) = cellLook t (src + i) := if_neg hk
      rw [hfrom, ← ih]
      by_cases hin : src ≤ k ∧ k < src + n
      · have hto : k - src + dst ≠ dst + i := by omega
        simp only [List.filter_cons, decide_eq_true hin, if_true, List.map_cons, cellLook, if_neg hto]
      · simp only [List.filter_cons, decide_eq_false hin, Bool.false_eq_true, if_false]

section
variable (m src : Mem) (dst a n : Nat)

theorem get_copyRange_in {i : Nat} (h : i < n) : (m.copyRange dst src a n).get (dst + i) = src.get (a + i) := by
  simp only [Mem.get, Mem.copyRange, List.append_assoc]
  rw [cellLook_append_right, cellLook_append_left, cellLook_window _ _ _ _ h]
  · intro c hc
    simp only [List.mem_filter, decide_eq_true_eq] at hc
    omega
  · intro c hc
    simp only [List.mem_filter, decide_eq_true_eq] at hc
    omega

/-- A copy leaves every byte outside its range alone. -/
theorem get_copyRange_out {b : Nat} (h : b < dst ∨ dst + n ≤ b) : (m.copyRange dst src a n).get b = m.get b := by
  have hmid : ∀ c ∈ (src.cells.filter (fun c => decide (a ≤ c.1 ∧ c.1 < a + n))).map (fun c => (c.1 - a + dst, c.2)),
      c.1 ≠ b := by
    intro c hc
    obtain ⟨d, hd, rfl⟩ := List.mem_map.1 hc
    simp only [List.mem_filter, decide_eq_true_eq] at hd
    show d.1 - a + dst ≠ b
    omega
  simp only [Mem.get, Mem.copyRange, List.append_assoc]
  obtain h | h := h
  · rw [cellLook_append_left]
    · exact cellLook_filter _ (by simpa using h)
    · intro c hc
      obtain hc | hc := List.mem_append.1 hc
      · exact hmid c hc
      · simp only [List.mem_filter, decide_eq_true_eq] at hc
        omega
  · rw [cellLook_append_right, cellLook_append_right hmid]
    · exact cellLook_filter _ (by simpa using h)
    · intro c hc
      simp only [List.mem_filter, decide_eq_true_eq] at hc
      omega

theorem get_clearRange_in {i : Nat} (h : i < n) : (m.clearRange a n).get (a + i) = 0 := by
  refine cellLook_none fun c hc => ?_
  simp only [Mem.clearRange, List.mem_filter, decide_eq_true_eq] at hc
  omega

end

/-! ## The granules of a member go back (R104) -/

/-- The cells of a granule are its bytes. -/
theorem cellLook_granuleCells (m : Mem) (a : Nat) {i : Nat} (h : i < 1024) :
    cellLook (m.granuleCells a) i = m.get (a + i) := by
  have := cellLook_window m.cells 0 a 1024 h
  rwa [Nat.zero_add] at this

/-- Granule `g` of core `c`'s local memory goes back to what it was, when it has changed. -/
def granuleBack (c : Nat) (old m : Mem) (g : Nat) : Mem :=
  if m.granuleCells (lkey c (1024 * g)) == old.granuleCells (1024 * g) then m
  else m.copyRange (lkey c (1024 * g)) old (1024 * g) 1024

theorem restoreGranules_lmem (s : State) (c : Nat) (old : Mem) :
    (s.restoreGranules c old).lmem = (List.range 256).foldl (granuleBack c old) s.lmem := by
  simp only [State.restoreGranules]
  delta granuleBack
  rfl

section
variable (c : Nat) (old m : Mem) {g i : Nat} (hi : i < 1024)
include hi

theorem granuleBack_same : (granuleBack c old m g).get (lkey c (1024 * g) + i) = old.get (1024 * g + i) := by
  unfold granuleBack
  split
  · next h =>
    rw [← cellLook_granuleCells m _ hi, ← cellLook_granuleCells old _ hi, eq_of_beq h]
  · exact get_copyRange_in m old _ _ _ hi

theorem granuleBack_other {k : Nat} (h : g ≠ k) :
    (granuleBack c old m k).get (lkey c (1024 * g) + i) = m.get (lkey c (1024 * g) + i) := by
  unfold granuleBack
  split
  · rfl
  · refine get_copyRange_out m old _ _ _ ?_
    unfold lkey
    omega

/-- A granule that is among those restored, or is right already, is right after them all. -/
theorem foldl_granuleBack (gs : List Nat)
    (h : g ∈ gs ∨ m.get (lkey c (1024 * g) + i) = old.get (1024 * g + i)) :
    (gs.foldl (granuleBack c old) m).get (lkey c (1024 * g) + i) = old.get (1024 * g + i) := by
  induction gs generalizing m with
  | nil => simpa using h
  | cons k gs ih =>
    refine ih _ ?_
    by_cases hk : g = k
    · subst hk
      exact .inr (granuleBack_same c old m hi)
    · rw [granuleBack_other c old m hi hk]
      simpa [hk] using h

end

theorem restoreGranules_get (s : State) (c : Nat) (old : Mem) {n : Nat} (h : n < 0x40000) :
    (s.restoreGranules c old).lmem.get (lkey c n) = old.get n := by
  have hsplit := Nat.div_add_mod n 1024
  have hback := foldl_granuleBack c old s.lmem (g := n / 1024) (i := n % 1024) (by omega) (List.range 256)
    (.inl (List.mem_range.2 (by omega)))
  have hkey : lkey c (1024 * (n / 1024)) + n % 1024 = lkey c n := by
    unfold lkey
    omega
  rw [hkey, hsplit] at hback
  rw [restoreGranules_lmem]
  exact hback

/-! ## What leaves the members of a gang alone -/

/-- The local memories, the tiles, and of each core the contexts and the lattice registers are the same. -/
structure SameMembers (s t : State) : Prop where
  lmem : t.lmem = s.lmem
  tiles : t.tiles = s.tiles
  ctxs : ∀ c, (t.core c).ctxs = (s.core c).ctxs
  lqst : ∀ c, (t.core c).lqst = (s.core c).lqst
  lweight : ∀ c, (t.core c).lweight = (s.core c).lweight

namespace SameMembers

theorem refl (s : State) : SameMembers s s := ⟨rfl, rfl, fun _ => rfl, fun _ => rfl, fun _ => rfl⟩

theorem trans {s t u : State} (h : SameMembers s t) (k : SameMembers t u) : SameMembers s u :=
  ⟨k.lmem.trans h.lmem, k.tiles.trans h.tiles, fun c => (k.ctxs c).trans (h.ctxs c),
    fun c => (k.lqst c).trans (h.lqst c), fun c => (k.lweight c).trans (h.lweight c)⟩

/-- A change of no core, no local memory and no tile. -/
theorem of_units {s t : State} (hl : t.lmem = s.lmem) (ht : t.tiles = s.tiles) (hc : t.cores = s.cores) :
    SameMembers s t :=
  have hcore : ∀ c, t.core c = s.core c := fun c => congrArg (fun m => NMap.get m c Core.idle) hc
  ⟨hl, ht, fun c => by rw [hcore], fun c => by rw [hcore], fun c => by rw [hcore]⟩

theorem modCore (s : State) (c : Nat) {f : Core → Core} (hx : (f (s.core c)).ctxs = (s.core c).ctxs)
    (hq : (f (s.core c)).lqst = (s.core c).lqst) (hw : (f (s.core c)).lweight = (s.core c).lweight) :
    SameMembers s (s.modCore c f) := by
  have hcore : ∀ d, (s.modCore c f).core d = if d = c then f (s.core c) else s.core d := fun d => by
    split
    · next h => rw [h, State.core_modCore_same]
    · next h => rw [State.core_modCore_other _ _ _ _ h]
  refine ⟨rfl, rfl, fun d => ?_, fun d => ?_, fun d => ?_⟩ <;> rw [hcore] <;> split <;> simp [*]

theorem foldl {α : Type} {f : State → α → State} (h : ∀ s a, SameMembers s (f s a)) (l : List α) (s : State) :
    SameMembers s (l.foldl f s) := by
  induction l generalizing s with
  | nil => exact refl s
  | cons a l ih => exact (h s a).trans (ih _)

end SameMembers

section
variable (s : State)

theorem modCluster_same (n : Nat) (f : Cluster → Cluster) : SameMembers s (s.modCluster n f) := .of_units rfl rfl rfl

theorem setJobs_same (cl q : Nat) (js : List Job) : SameMembers s (s.setJobs cl q js) := .of_units rfl rfl rfl

theorem modJob_same (n : Nat) (f : JobState → JobState) : SameMembers s (s.modJob n f) := by
  unfold State.modJob
  split
  · exact .of_units rfl rfl rfl
  · exact .refl s

theorem modSnap_same (n gen : Nat) (f : Snap → Snap) : SameMembers s (s.modSnap n gen f) := modJob_same s _ _

theorem cutSlice_same (n gen sl : Nat) : SameMembers s (s.cutSlice n gen sl) := by
  simp only [State.cutSlice]
  split
  · exact .refl s
  · exact (modSnap_same s _ _ _).trans (.of_units rfl rfl rfl)

theorem cowPageIn_same (pick : Snap → Bool) (key : Nat) : SameMembers s (s.cowPageIn pick key) := by
  simp only [State.cowPageIn]
  split
  · exact .refl s
  · split
    · exact .of_units rfl rfl rfl
    · exact .refl s

theorem crossPage_same (key : Nat) (bs : List Byte) (mask : Nat) : SameMembers s (s.crossPage key bs mask) := by
  simp only [State.crossPage]
  split
  · exact .of_units rfl rfl rfl
  · exact .refl s

theorem markPage_same (key : Nat) : SameMembers s (s.markPage key) := by
  unfold State.markPage
  split
  · exact .refl s
  · exact .of_units rfl rfl rfl

theorem listPage_same (n gen key : Nat) : SameMembers s (s.listPage n gen key) := by
  simp only [State.listPage]
  split
  · exact .refl s
  · exact modSnap_same s _ _ _

theorem listCrossed_same (n gen key : Nat) : SameMembers s (s.listCrossed n gen key) := by
  simp only [State.listCrossed]
  split
  · exact .refl s
  · split
    · exact .refl s
    · split
      · exact .refl s
      · exact modSnap_same s _ _ _

/-- What a write does to the snapshots reaches no member of a gang. -/
theorem noteWrite_same (sl : Option Nat) (key : Nat) (bs : List Byte) (mask : Nat) :
    SameMembers s (s.noteWrite sl key bs mask) := by
  have hlive : ∀ (t : State) (pick : Snap → Bool), SameMembers t ((t.cowPageIn pick key).markPage key) :=
    fun t pick => (cowPageIn_same t pick key).trans (markPage_same _ key)
  unfold State.noteWrite
  split
  · exact .refl s
  · split
    · exact hlive s _
    · next k n m _ =>
      split
      · exact hlive s _
      · have hcut : SameMembers s (if s.colour = some (parity m.gen) then s.cutSlice n m.gen k else s) := by
          split
          · exact cutSlice_same s _ _ _
          · exact .refl s
        refine hcut.trans ?_
        generalize (if s.colour = some (parity m.gen) then s.cutSlice n m.gen k else s) = t
        simp only
        split
        · exact ((cowPageIn_same t _ key).trans (crossPage_same _ key bs mask)).trans (listPage_same _ _ _ _)
        · split
          · exact (((cowPageIn_same t _ key).trans (listCrossed_same _ _ _ _)).trans (crossPage_same _ key bs mask)).trans
              (markPage_same _ key)
          · exact hlive t _

theorem audit_same (kind src at_ : Nat) (addr : Word) : SameMembers s (s.audit kind src at_ addr) := by
  unfold State.audit
  split
  · exact .of_units rfl rfl rfl
  · simp only
    split
    · exact .of_units rfl rfl rfl
    · exact .of_units rfl rfl rfl

theorem inject_same (m : Msg) : SameMembers s (s.inject m) := by
  unfold State.inject
  split
  · exact audit_same s _ _ _ _
  · simp only [State.stamp]
    split
    · exact .of_units rfl rfl rfl
    · exact .of_units rfl rfl rfl

theorem newTag_same (c : Nat) : SameMembers s (s.newTag c).2 :=
  .modCore s c (f := fun k => { k with nextTag := k.nextTag + 1 }) rfl rfl rfl

theorem sendRemote_same (dev core ctx : Nat) (load atomic : Bool) (handle off : Nat) (m : Msg) :
    SameMembers s (s.sendRemote dev core ctx load atomic handle off m) := by
  have hcount : ∀ b : Bool, SameMembers s (if b = true then s.countSent core else s) := fun b => by
    split
    · exact .modCore s core (f := fun k => { k with sent := (k.sent + 1) % 2 ^ 32 }) rfl rfl rfl
    · exact .refl s
  unfold State.sendRemote
  extract_lets p m1 held r t u
  have hsent : SameMembers s u := (hcount _).trans (.of_units rfl rfl rfl)
  split
  · exact hsent
  · exact hsent.trans (inject_same u _)

theorem sendPeerWrite_same (ctxid sep dev rctx rhnd page off : Nat) (bs : List Byte) (mask pz : Nat) :
    SameMembers s (s.sendPeerWrite ctxid sep dev rctx rhnd page off bs mask pz) := by
  simp only [State.sendPeerWrite]
  refine .foldl (fun t p => ?_) _ s
  split
  · exact .refl t
  · exact (newTag_same t _).trans (sendRemote_same _ _ _ _ _ _ _ _ _)

theorem homePoke_same (h : Home) (bs : List Byte) (mask : Nat) : SameMembers s (s.homePoke h bs mask) := by
  cases h with
  | mem key =>
    simp only [State.homePoke]
    refine .trans ?_ (.foldl (fun t k => ?_) _ _)
    · split
      · exact (noteWrite_same s _ _ _ _).trans (.of_units rfl rfl rfl)
      · exact .refl s
    · split
      · exact .of_units rfl rfl rfl
      · exact .refl t
  | host a =>
    simp only [State.homePoke]
    split
    · exact .refl s
    · exact .of_units rfl rfl rfl
  | peer dev rctx rhnd page off => exact sendPeerWrite_same s _ _ _ _ _ _ _ _ _ _
  | gone => exact .refl s

theorem devWrite_same (ctxid index off : Nat) (bs : List Byte) : SameMembers s (s.devWrite ctxid index off bs) := by
  unfold State.devWrite
  refine .foldl (fun t i => ?_) _ s
  simp only
  split
  · exact homePoke_same t _ _ _
  · exact .refl t

theorem devPut_same (ctxid index off : Nat) (w : Word) : SameMembers s (s.devPut ctxid index off w) :=
  devWrite_same s _ _ _ _

theorem notice_same (ctxid cause : Nat) (eval : Word) (core task : Nat) :
    SameMembers s (s.notice ctxid cause eval core task) := by
  unfold State.notice
  split
  · exact .refl s
  · simp only
    split
    · exact devPut_same s _ _ _ _
    · exact ((((devPut_same s _ _ _ _).trans (devPut_same _ _ _ _ _)).trans (devPut_same _ _ _ _ _)).trans
        (devPut_same _ _ _ _ _)).trans (devPut_same _ _ _ _ _)

theorem mapPage_same (cl key : Nat) (pte : Word) : SameMembers s (s.mapPage cl key pte) := by
  simp only [State.mapPage]
  split
  · exact .of_units rfl rfl rfl
  · exact .of_units rfl rfl rfl

theorem translateVia_same (cl ctxid : Nat) (e : Ent) (off : Nat) (use : Use) (ev : Word) :
    SameMembers s (s.translateVia cl ctxid e off use ev).2 := by
  simp only [State.translateVia]
  split
  · exact .refl s
  · split
    · exact .refl s
    · split
      · exact .refl s
      · exact mapPage_same s _ _ _

theorem translateAll_same (cl ctxid : Nat) (e : Ent) (off : Nat) (use : Use) (ev : Word) (ds : List Nat) :
    SameMembers s (translateAll cl ctxid e off use ev ds s).2 := by
  induction ds generalizing s with
  | nil => exact .refl s
  | cons d ds ih =>
    have hfirst := translateVia_same s cl ctxid e (off + d) use ev
    unfold translateAll
    split
    · next h => rwa [h] at hfirst
    · next t h =>
      rw [h] at hfirst
      have hrest := hfirst.trans (ih t)
      split
      · next hr => rwa [hr] at hrest
      · next hr => rwa [hr] at hrest

/-- A slot that is loaded again only joins the lattice queue of its core. -/
theorem reloadSlot_same (c n : Nat) (d : Slot) : SameMembers s (s.reloadSlot c n d) := by
  have hspoil : SameMembers s (s.spoilSlot (c / 8) n) := .of_units rfl rfl rfl
  simp only [State.reloadSlot]
  split
  · exact .refl s
  · split
    · exact hspoil
    · next e _ =>
      split
      · exact hspoil
      · have hmapped := hspoil.trans (translateAll_same _ (c / 8) d.ctxid e d.off .read 0
          (pageStarts (e.base + d.off - (s.spoilSlot (c / 8) n).mapBase d.ctxid e) (d.krows * slotRow d.fmt)))
        split
        · next h => rwa [h] at hmapped
        · next h =>
          rw [h] at hmapped
          exact hmapped.trans (.modCore _ c rfl rfl rfl)

theorem reloadSlots_same (c : Nat) (ds : NMap Slot) : SameMembers s (s.reloadSlots c ds) := by
  unfold State.reloadSlots
  exact .foldl (fun t d => reloadSlot_same t c d.1 d.2) ds s

end

/-! ## A member goes back (R104, R136) -/

/-- Core `k` goes on at the barrier of record `r`. -/
def AtRecord (r : StepRecord) (k : Core) : Prop :=
  k.lqst = r.lqst ∧ k.lweight = r.lweight ∧
    ∀ i, i < 11 → ∃ n, k.ctx i = { (r.ctxs.getD i Ctx.zero).atBarrier r.lmem i with instret := n }

/-- A member takes its local memory, its tiles and its core from the record; what follows touches no member. -/
theorem restoreMember_restores {s : State} {c : Nat} {r : StepRecord} (h : (s.core c).stepRec = some r) :
    ∃ f : Core → Core, (∀ k, AtRecord r (f k)) ∧
      SameMembers (State.modCore { s.restoreGranules c r.lmem with
        tiles := s.tiles.clearRange (rowKey c 0 0) 0x80000 } c f) (s.restoreMember c) := by
  unfold State.restoreMember
  split
  · next hnone => exact absurd (hnone.symm.trans h) nofun
  · next q hq =>
    obtain rfl : q = r := Option.some.inj (hq.symm.trans h)
    extract_lets back t rolls u w x y z
    have hunits : SameMembers u y := ((modCluster_same u _ _).trans (setJobs_same w _ _ _)).trans (setJobs_same x _ _ _)
    refine ⟨_, fun k => ⟨?_, ?_, fun i hi => ⟨(k.ctx i).instret, ?_⟩⟩,
      (hunits.trans (reloadSlots_same y c q.slots)).trans (notice_same z _ _ _ _ _)⟩
    · rfl
    · rfl
    · simp [Core.ctx, hi]

theorem restoreMember_lmem {s : State} {c : Nat} {r : StepRecord} (h : (s.core c).stepRec = some r) {n : Nat}
    (hn : n < 0x40000) : (s.restoreMember c).lmem.get (lkey c n) = r.lmem.get n := by
  obtain ⟨f, -, hkeep⟩ := restoreMember_restores h
  rw [hkeep.lmem, State.modCore_lmem]
  simp only [restoreGranules_get s c r.lmem hn]

theorem restoreMember_tiles {s : State} {c : Nat} {r : StepRecord} (h : (s.core c).stepRec = some r) {n : Nat}
    (hn : n < 0x80000) : (s.restoreMember c).tiles.get (rowKey c 0 0 + n) = 0 := by
  obtain ⟨f, -, hkeep⟩ := restoreMember_restores h
  rw [hkeep.tiles, State.modCore_tiles]
  exact get_clearRange_in _ _ _ hn

theorem restoreMember_atRecord {s : State} {c : Nat} {r : StepRecord} (h : (s.core c).stepRec = some r) :
    AtRecord r ((s.restoreMember c).core c) := by
  obtain ⟨f, hf, hkeep⟩ := restoreMember_restores h
  have hlqst := hkeep.lqst c
  have hlweight := hkeep.lweight c
  have hctxs := hkeep.ctxs c
  rw [State.core_modCore_same] at hlqst hlweight hctxs
  obtain ⟨hq, hw, hx⟩ := hf (State.core _ c)
  refine ⟨hlqst.trans hq, hlweight.trans hw, fun i hi => ?_⟩
  obtain ⟨n, hn⟩ := hx i hi
  exact ⟨n, (congrArg (fun v => (v[i]?).getD Ctx.zero) hctxs).trans hn⟩

end Sys2Proof.Proofs.Restore
end

section
/-! PROOFS. Control messages, messages of the event unit, and the superstep rollback. -/

namespace Sys2Proof.Proofs.Messages

open Sys2Proof.Machine Sys2Proof.Spec Sys2Proof.Proofs.Package Sys2Proof.Proofs.Links Sys2Proof.Proofs.Requests Sys2Proof.Proofs.Restore

section
variable (s : State)

theorem exec_event : exec .event s = execEvent s := rfl
theorem exec_eventLineStore : exec .eventLineStore s = execEventLineStore s := rfl
theorem exec_eventBarStore : exec .eventBarStore s = execEventBarStore s := rfl
theorem exec_mutexStore : exec .mutexStore s = execMutexStore s := rfl
theorem exec_barcfgWrite : exec .barcfgWrite s = execBarcfgWrite s := rfl
theorem exec_barrierArrive : exec .barrierArrive s = execBarrierArrive s := rfl
theorem exec_sched : exec .sched s = execSched s := rfl
theorem exec_mon : exec .mon s = execMon s := rfl
theorem exec_vcstep : exec .vcstep s = execVcstep s := rfl
theorem exec_keyGenerationInstall : exec .keyGenerationInstall s = execKeyGenerationInstall s := rfl
theorem exec_superstepRollback : exec .superstepRollback s = execSuperstepRollback s := rfl
theorem exec_sroll : exec .sroll s = execSroll s := rfl

end

/-! ## The event unit (R111, R141 to R144) -/

theorem event_signals {s : State} (hp : passes s) (hkind : bits (s.ev.msg.payload.getD 0 0) 63 56 = 1)
    (hrsv : bits (s.ev.msg.payload.getD 0 0) 47 32 = 0) :
    Answers .event s ((counted s).signal (epCluster s.ev.at_ * 8 + s.ev.msg.tagid / 16 % 8)
      (bits (s.ev.msg.payload.getD 0 0) 55 48 % 32) (bits (s.ev.msg.payload.getD 0 0) 31 0)) := by
  refine answers_takeMsgAt_passes (exec_event s) hp ?_
  simp only [hkind, hrsv, bne_self_eq_false, Bool.false_eq_true, if_false]

theorem changeFor_ok {s t : State} {c i : Nat} {r : Except Bad State} (h : r = .ok t) : s.changeFor c i r = t := by
  rw [h, State.changeFor]

theorem changeFor_error {s : State} {c i : Nat} {r : Except Bad State} {b : Bad} (h : r = .error b) :
    s.changeFor c i r = s.takeTrap c i ⟨b.cause, b.eval, 0, b.preason, (s.ctx c i).pc⟩ := by
  rw [h, State.changeFor]

section
variable {s : State} {h : Home} (hh : s.objHome s.ev.at_ s.ev.x = some h)
include hh

/-- An arrival with the generation of the barrier counts, and the last one that it needs releases it. -/
theorem barrierArrive_counts (hgen : s.ev.y = (s.obar h).gen) :
    Answers .barrierArrive s (if max (s.obar h).need 1 ≤ (s.obar h).have_ + 1 then
      s.putObar h { s.obar h with have_ := 0, gen := ((s.obar h).gen + 1) % 2 ^ 32 }
      else s.putObar h { s.obar h with have_ := (s.obar h).have_ + 1 }) := by
  refine answers_runEvent (exec_barrierArrive s) ?_
  simp only [State.arriveAt, hh, State.objArrive, hgen, bne_self_eq_false, Bool.false_eq_true, if_false]
  by_cases hlast : max (s.obar h).need 1 ≤ (s.obar h).have_ + 1
  · simp only [if_pos hlast, Bool.not_true, Bool.false_eq_true, if_false]
    split <;> rfl
  · simp only [if_neg hlast, Bool.not_true, Bool.false_eq_true, if_false]
    split <;> rfl

theorem barrierArrive_stale {t : Task} (hgen : s.ev.y ≠ (s.obar h).gen) (ht : s.tasks.look s.ev.z = some t) :
    Answers .barrierArrive s { s with tasks := s.tasks.put s.ev.z { t with stale := true } } := by
  refine answers_runEvent (exec_barrierArrive s) ?_
  simp only [State.arriveAt, hh, State.objArrive, bne_iff_ne.2 hgen, if_true, ht, Bool.not_false]

end

theorem eventUnitMessages : EventUnitMessages := by
  refine ⟨fun s hp => ?_, fun s => ⟨?_, fun t h => ?_, fun b h => ?_, fun t h => ?_, fun b h => ?_, fun h => ?_, fun h => ?_⟩,
    fun s h hh => ⟨barrierArrive_counts hh, fun t => barrierArrive_stale hh⟩⟩
  · have htop := bits_top (s.ev.msg.payload.getD 0 0) (lo := 56) (by decide)
    have hlow := bits_bottom (s.ev.msg.payload.getD 0 0) 31
    simp only [← htop, ← hlow]
    exact event_signals hp
  · exact answers_runEvent (exec_eventLineStore s) (by simp only [bits_bottom])
  · exact answers_runEvent (exec_eventBarStore s) (changeFor_ok h)
  · exact answers_runEvent (exec_eventBarStore s) (changeFor_error h)
  · exact answers_runEvent (exec_mutexStore s) (changeFor_ok h)
  · exact answers_runEvent (exec_mutexStore s) (changeFor_error h)
  · exact answers_runEvent (exec_barcfgWrite s) (if_neg (Nat.not_lt.2 h))
  · exact answers_runEvent (exec_barcfgWrite s) (if_pos h)

/-! ## The scheduler, the monitors and the keys (R38, R86, R110, R119, R399) -/

section
variable {s : State} (hp : passes s)
include hp

theorem sched_asks (hkind : bits (s.ev.msg.payload.getD 0 0) 63 56 = 1) :
    Answers .sched s (((counted s).coresOn (epCluster s.ev.at_) (bits (s.ev.msg.payload.getD 0 0) 31 0)).foldl
      (fun s c => s.modCore c (fun k => if k.preempt = true then k
        else { k with preempt := true, ctxs := k.ctxs.map (fun x => { x with preempt := false }) })) (counted s)) :=
  answers_takeMsgAt_passes (exec_sched s) hp (by simp only [hkind])

theorem sched_takesBack (hkind : bits (s.ev.msg.payload.getD 0 0) 63 56 = 2) :
    Answers .sched s (((counted s).coresOn (epCluster s.ev.at_) (bits (s.ev.msg.payload.getD 0 0) 31 0)).foldl
      (fun s c => s.modCore c (fun k => { k with preempt := false })) (counted s)) :=
  answers_takeMsgAt_passes (exec_sched s) hp (by simp only [hkind])

theorem mon_installs (hkind : bits (s.ev.msg.payload.getD 0 0) 63 56 = 1) :
    Answers .mon s ((counted s).post .keyGenerationInstall
      { Ev.zero with at_ := bits (s.ev.msg.payload.getD 0 0) 31 0 % 65536 }) :=
  answers_takeMsgAt_passes (exec_mon s) hp (by simp only [hkind])

section
variable {n : Nat} {j : JobState} (hj : (counted s).jobByHandle s.ev.msg = some (n, j))
include hj

theorem mon_asksRollback (hkind : bits (s.ev.msg.payload.getD 0 0) 63 56 = 2) :
    Answers .mon s ((counted s).post .jobRollbackRequest
      { Ev.zero with at_ := n, x := bits (s.ev.msg.payload.getD 0 0) 31 0, y := s.ev.msg.sdev }) :=
  answers_takeMsgAt_passes (exec_mon s) hp (by simp only [hkind, hj]; rfl)

theorem mon_seals (hkind : bits (s.ev.msg.payload.getD 0 0) 63 56 = 3) :
    Answers .mon s ((counted s).post .snapshotSeal
      { Ev.zero with at_ := n, x := bits (s.ev.msg.payload.getD 0 0) 31 0 }) :=
  answers_takeMsgAt_passes (exec_mon s) hp (by simp only [hkind, hj]; rfl)

theorem mon_fails (hkind : bits (s.ev.msg.payload.getD 0 0) 63 56 = 4) :
    Answers .mon s ((counted s).post .snapshotFail
      { Ev.zero with at_ := n, x := bits (s.ev.msg.payload.getD 0 0) 31 0,
                     y := bits (s.ev.msg.payload.getD 0 0) 39 32, z := 1 }) :=
  answers_takeMsgAt_passes (exec_mon s) hp (by simp only [hkind, hj])

end

/-- A kind that this device gives no meaning waits for the monitor. -/
theorem mon_keeps (hkind : 11 ≤ bits (s.ev.msg.payload.getD 0 0) 63 56) :
    Answers .mon s { counted s with mon := { (counted s).mon with inbox := (counted s).mon.inbox ++ [s.ev.msg] } } := by
  obtain ⟨k, hk⟩ := Nat.exists_eq_add_of_le' hkind
  exact answers_takeMsgAt_passes (exec_mon s) hp (by simp only [hk])

end

theorem vcstep_answers {s : State} (hask : bits (s.ev.msg.payload.getD 0 0) 63 56 < 0x80) :
    Answers .vcstep s (s.inject { s.ev.msg with
      dep := s.ev.msg.sep, sep := s.ev.msg.dep, payload := [word ((s.ev.msg.payload.getD 0 0).toNat + 2 ^ 63)] }) :=
  answers_runEvent (exec_vcstep s) (if_pos hask)

theorem proc_modProc_same {s : State} {ctxid : Nat} {p : Proc} (f : Proc → Proc) (h : s.proc? ctxid = some p) :
    (s.modProc ctxid f).proc? ctxid = some (f p) := by
  rw [State.modProc, h]
  exact NMap.look_put_same s.procs ctxid (f p)

theorem vc_modVc_same {s : State} {ctxid v : Nat} {c : Vc} (f : Vc → Vc) (h : s.vc ctxid v = some c) :
    (s.modVc ctxid v f).vc ctxid v = some (f c) := by
  unfold State.vc at h
  cases hp : s.proc? ctxid with
  | none => simp [hp] at h
  | some p =>
    have hlook : p.vcs.look v = some c := by simpa [hp] using h
    simp only [State.modVc, State.vc, proc_modProc_same _ hp, hlook, NMap.look_put_same]

/-- An operation with banks that have not answered does not go on. -/
theorem stepReady_waits {s : State} {ctxid v : Nat} {c : Vc} (h : s.vc ctxid v = some c)
    (hwait : c.replies.length < placedN c.blocks c.banks) : s.stepReady ctxid v = false := by
  have hmissing := Nat.not_le.2 hwait
  simp only [State.stepReady, h]
  cases c.op with
  | none => rfl
  | some o => simp [hmissing]

/-- An answer is collected while another is still to come. -/
theorem vcstep_collects {s : State} {c : Vc} {op : VcOp} {ph : VcPhase}
    (hans : 0x80 ≤ bits (s.ev.msg.payload.getD 0 0) 63 56)
    (hvc : s.vc (bits (s.ev.msg.payload.getD 0 0) 15 0) (bits (s.ev.msg.payload.getD 0 0) 55 50) = some c)
    (hop : c.op = some (op, ph)) (hph : ph.code = bits (s.ev.msg.payload.getD 0 0) 63 56 - 0x80)
    (hnew : c.replies.contains s.ev.msg.tagid = false) (hmore : c.replies.length + 1 < placedN c.blocks c.banks) :
    Answers .vcstep s (s.modVc (bits (s.ev.msg.payload.getD 0 0) 15 0) (bits (s.ev.msg.payload.getD 0 0) 55 50)
      (fun k => { k with replies := c.replies ++ [s.ev.msg.tagid] })) := by
  have hwaits := stepReady_waits (vc_modVc_same (fun k => { k with replies := c.replies ++ [s.ev.msg.tagid] }) hvc)
    (by simpa using hmore)
  refine answers_runEvent (exec_vcstep s) ((if_neg (Nat.not_lt.2 hans)).trans ?_)
  simp only [hvc, hop, hph, hnew, hwaits, bne_self_eq_false, Bool.or_self, Bool.false_eq_true, if_false]

theorem keyGenerationInstall_installs (s : State) :
    let c := s.ev.at_
    let old := s.keygenOf c
    let g := if s.ev.x = 0 then old + 1 else max old s.ev.x
    let t := if g = old ∨ (s.mon.keys.look c).isSome = false then s else s.installKey c g
    Answers .keyGenerationInstall s { t with mon := { t.mon with keygen := t.mon.keygen.put c g } } :=
  answers_runEvent (exec_keyGenerationInstall s) (by simp only [Bool.not_eq_true])

theorem controlMessages : ControlMessages := by
  refine ⟨fun s hp => ?_, fun s => ?_, keyGenerationInstall_installs⟩
  · have htop := bits_top (s.ev.msg.payload.getD 0 0) (lo := 56) (by decide)
    have hlow := bits_bottom (s.ev.msg.payload.getD 0 0) 31
    simp only [← htop, ← hlow]
    exact ⟨sched_asks hp, sched_takesBack hp, mon_installs hp,
      fun n j hj => ⟨mon_asksRollback hp hj, mon_seals hp hj, mon_fails hp hj⟩, mon_keeps hp⟩
  · have htop := bits_top (s.ev.msg.payload.getD 0 0) (lo := 56) (by decide)
    have hlow := bits_bottom (s.ev.msg.payload.getD 0 0) 15
    refine ⟨fun hask => vcstep_answers (by omega), fun c op ph hans hvc hop hph hnew hmore => ?_⟩
    rw [← hlow] at hvc ⊢
    exact vcstep_collects (by omega) hvc hop (htop ▸ hph) hnew hmore

/-! ## The rollback of a superstep (R104, R136, R193, R421) -/

section
variable {s : State}

theorem superstepRollback_tells (hy : s.ev.y = 0) : Answers .superstepRollback s (s.tellRoll s.ev.at_ s.ev.x) :=
  answers_runEvent (exec_superstepRollback s) (by simp only [hy])

theorem superstepRollback_stops (hy : s.ev.y = 1) (hask : (s.core s.ev.at_).rollAsk = true)
    (hret : (s.core s.ev.at_).inHandler = false) (hstep : (s.core s.ev.at_).sstepn = s.rollStep s.ev.at_) :
    Answers .superstepRollback s (s.stopMember s.ev.at_) := by
  have hcan : s.canStop s.ev.at_ = true := by
    simp only [State.canStop, hask, hret, hstep, Bool.not_false, beq_self_eq_true, Bool.and_self]
  exact answers_runEvent (exec_superstepRollback s) (by simp only [hy, hcan, if_true])

theorem superstepRollback_goesBack (hy : s.ev.y = 2) (hsettled : s.rollSettled (s.gang s.ev.at_) = true) :
    Answers .superstepRollback s (s.rollBack (s.gang s.ev.at_)) :=
  answers_runEvent (exec_superstepRollback s) (by simp only [hy, hsettled, if_true])

/-- A gang goes back to what its first member has recorded. -/
theorem rollBack_of_record {g : Nat} {rest : List Nat} {r : StepRecord} (h : (s.core g).stepRec = some r) :
    s.rollBack (g :: rest) = (g :: rest).foldl (fun s m => s.restoreMember m)
      ((r.barriers.foldl (fun s b => s.putObar (Home.ofCode b.1)
        { s.obar (Home.ofCode b.1) with gen := b.2.1, have_ := b.2.2 }) s).restorePages r.objects) := by
  simp only [State.rollBack, List.getElem?_cons_zero, Option.bind_some, h]

end

/-- The member of a gang that an SROLL names. -/
def rollMember (s : State) : Nat := epCluster s.ev.at_ * 8 + s.ev.msg.tagid % 8

section
variable {s : State} {r : StepRecord} (hp : passes s) (hhalt : ((counted s).core (rollMember s)).rollHalt = false)
  (hrec : ((counted s).core (rollMember s)).stepRec = some r)
include hp hhalt hrec

theorem sroll_stops (hstep : ((counted s).core (rollMember s)).sstepn = bits (s.ev.msg.payload.getD 0 0) 31 0)
    (hret : ((counted s).core (rollMember s)).inHandler = false) :
    Answers .sroll s ((counted s).stopMember (rollMember s)) := by
  unfold rollMember at *
  refine answers_takeMsgAt_passes (exec_sroll s) hp ?_
  simp only [hhalt, hrec, hstep, hret, Option.isNone_some, bne_self_eq_false, Bool.false_and, Bool.or_self,
    Bool.false_eq_true, if_false]

/-- A member in its handler is asked to stop, and so is one that has not counted the release of its barrier. -/
theorem sroll_asks
    (h : ((counted s).core (rollMember s)).sstepn = bits (s.ev.msg.payload.getD 0 0) 31 0 ∧
        ((counted s).core (rollMember s)).inHandler = true ∨
      ((counted s).core (rollMember s)).sstepn ≠ bits (s.ev.msg.payload.getD 0 0) 31 0 ∧
        (((counted s).core (rollMember s)).sstepn + 1) % 2 ^ 32 = bits (s.ev.msg.payload.getD 0 0) 31 0) :
    Answers .sroll s ((counted s).modCore (rollMember s) (fun k => { k with rollAsk := true })) := by
  unfold rollMember at *
  refine answers_takeMsgAt_passes (exec_sroll s) hp ?_
  obtain ⟨hstep, hin⟩ | ⟨hbehind, hnext⟩ := h
  · simp only [hhalt, hrec, hstep, hin, Option.isNone_some, bne_self_eq_false, Bool.false_and, Bool.or_self,
      Bool.or_false, Bool.false_eq_true, if_false, if_true]
  · simp only [hhalt, hrec, hnext, bne_iff_ne.2 hbehind, Option.isNone_some, bne_self_eq_false, Bool.and_false,
      Bool.or_self, Bool.or_true, Bool.false_eq_true, if_false, if_true]

end

theorem superstepRollbackSteps : SuperstepRollbackSteps := by
  refine ⟨fun s => ⟨superstepRollback_tells, superstepRollback_stops, fun g rest r hy hsettled hgang hrec => ?_⟩,
    fun s r hp hhalt hrec => ?_, fun s c r h => ?_⟩
  · have hback := superstepRollback_goesBack hy hsettled
    rw [hgang] at hback ⊢
    rwa [rollBack_of_record hrec] at hback
  · have hlow := bits_bottom (s.ev.msg.payload.getD 0 0) 31
    simp only [← hlow]
    exact ⟨sroll_stops hp hhalt hrec, fun hstep hin => sroll_asks hp hhalt hrec (.inl ⟨hstep, hin⟩),
      fun hbehind hnext => sroll_asks hp hhalt hrec (.inr ⟨hbehind, hnext⟩)⟩
  · obtain ⟨hlqst, hlweight, hctxs⟩ := restoreMember_atRecord h
    refine ⟨fun n => restoreMember_lmem h, fun n => restoreMember_tiles h, hlqst, hlweight, fun i hi => ?_⟩
    obtain ⟨n, hn⟩ := hctxs i hi
    rw [State.ctx, hn]
    exact ⟨rfl, rfl, rfl⟩

/-- Settles O53: each control message takes its own case, and a member that goes back has what its record holds. -/
theorem controlMessageEvents : Obligations.ControlMessageEvents :=
  ⟨eventUnitMessages, controlMessages, superstepRollbackSteps⟩

end Sys2Proof.Proofs.Messages
end

section
/-! PROOFS. The drain of a write queue leaves the event that runs in place. -/

namespace Sys2Proof.Proofs.EventKept

open Sys2Proof.Machine

/-- What leaves the event in place at every element of a list does so over the list. -/
theorem foldl_ev {α : Type} {f : State → α → State} (h : ∀ s a, (f s a).ev = s.ev) (l : List α) (s : State) :
    (l.foldl f s).ev = s.ev := by
  induction l generalizing s with
  | nil => rfl
  | cons a l ih => exact (ih _).trans (h s a)

/-- A change that is made or left out leaves the event in place when both branches do. -/
theorem ite_ev {c : Prop} [Decidable c] {s t u : State} (ht : t.ev = s.ev) (hu : u.ev = s.ev) :
    (if c then t else u).ev = s.ev := by
  split
  · exact ht
  · exact hu

section
variable (s : State)

/-! ## L1 copies and the lines of a virtual cache (R169, R171) -/

@[simp] theorem spoilFills_ev (who : Nat → Bool) (sel : CLine → Bool) : (s.spoilFills who sel).ev = s.ev := ite_ev rfl rfl

@[simp] theorem spoilCtx_ev (ctxid : Nat) (sel : CLine → Bool) : (s.spoilCtx ctxid sel).ev = s.ev := spoilFills_ev s _ _

@[simp] theorem wakeCtx_ev (c i : Nat) : (s.wakeCtx c i).ev = s.ev := ite_ev (ite_ev rfl rfl) rfl

@[simp] theorem wakeCore_ev (c : Nat) : (s.wakeCore c).ev = s.ev := ite_ev (foldl_ev (fun t => wakeCtx_ev t c) _ s) rfl

@[simp] theorem l1Drop_ev (c la : Nat) : (s.l1Drop c la).ev = s.ev := by
  simp only [State.l1Drop]
  exact ite_ev (by simp) (by simp)

@[simp] theorem l1DropClusters_ev (ctxid la holders except_ : Nat) :
    (s.l1DropClusters ctxid la holders except_).ev = s.ev :=
  foldl_ev (fun t _ => ite_ev rfl (foldl_ev (fun u c => ite_ev (l1Drop_ev u c la) rfl) _ t)) _ s

@[simp] theorem snoop_ev (ctxid c la : Nat) : (s.snoop ctxid c la).ev = s.ev :=
  foldl_ev (fun t j => ite_ev (l1Drop_ev t j la) rfl) _ s

@[simp] theorem modProc_ev (ctxid : Nat) (f : Proc → Proc) : (s.modProc ctxid f).ev = s.ev := by
  unfold State.modProc
  split <;> rfl

@[simp] theorem modVc_ev (ctxid v : Nat) (f : Vc → Vc) : (s.modVc ctxid v f).ev = s.ev := modProc_ev s ctxid _

@[simp] theorem evicted_ev (ctxid v : Nat) (w : CLine) : (s.evicted ctxid v w).ev = s.ev := by
  simp [State.evicted]

@[simp] theorem dropVc_ev (ctxid v : Nat) (sel : CLine → Bool) : (s.dropVc ctxid v sel).ev = s.ev := by
  unfold State.dropVc
  split
  · rfl
  · rw [modVc_ev]
    exact (foldl_ev (fun t l => l1DropClusters_ev t _ _ _ _) _ _).trans (spoilCtx_ev s _ _)

/-! ## What a write does to the snapshots (R184, R187, R188) -/

@[simp] theorem modJob_ev (n : Nat) (f : JobState → JobState) : (s.modJob n f).ev = s.ev := by
  unfold State.modJob
  split <;> rfl

@[simp] theorem modSnap_ev (n gen : Nat) (f : Snap → Snap) : (s.modSnap n gen f).ev = s.ev := modJob_ev s n _

@[simp] theorem cutSlice_ev (n gen sl : Nat) : (s.cutSlice n gen sl).ev = s.ev := by
  simp only [State.cutSlice]
  split
  · rfl
  · simp

@[simp] theorem sliceRecv_ev (sl : Nat) (col : Bool) : (s.sliceRecv sl col).ev = s.ev := by
  simp only [State.sliceRecv]
  split
  · rfl
  · exact ite_ev rfl (ite_ev (by simp) (ite_ev (by simp) rfl))

@[simp] theorem cowPageIn_ev (pick : Snap → Bool) (key : Nat) : (s.cowPageIn pick key).ev = s.ev :=
  ite_ev rfl (ite_ev rfl rfl)

@[simp] theorem cowPage_ev (key : Nat) : (s.cowPage key).ev = s.ev := cowPageIn_ev s _ key

@[simp] theorem crossPage_ev (key : Nat) (bs : List Byte) (mask : Nat) : (s.crossPage key bs mask).ev = s.ev :=
  ite_ev rfl rfl

@[simp] theorem markPage_ev (key : Nat) : (s.markPage key).ev = s.ev := ite_ev rfl rfl

@[simp] theorem listPage_ev (n gen key : Nat) : (s.listPage n gen key).ev = s.ev := by
  simp only [State.listPage]
  split
  · rfl
  · exact modSnap_ev s _ _ _

@[simp] theorem listCrossed_ev (n gen key : Nat) : (s.listCrossed n gen key).ev = s.ev := by
  simp only [State.listCrossed]
  split
  · rfl
  · split
    · rfl
    · exact ite_ev rfl (modSnap_ev s _ _ _)

@[simp] theorem noteWrite_ev (sl : Option Nat) (key : Nat) (bs : List Byte) (mask : Nat) :
    (s.noteWrite sl key bs mask).ev = s.ev := by
  unfold State.noteWrite
  refine ite_ev rfl ?_
  split
  · simp
  · next k n m _ =>
    have hcut : (if s.colour = some (parity m.gen) then s.cutSlice n m.gen k else s).ev = s.ev :=
      ite_ev (cutSlice_ev s _ _ _) rfl
    exact ite_ev (by simp) (ite_ev (by simpa using hcut) (ite_ev (by simpa using hcut) (by simpa using hcut)))

/-! ## Messages that a write sends (R27, R37, R52) -/

@[simp] theorem audit_ev (kind src at_ : Nat) (addr : Word) : (s.audit kind src at_ addr).ev = s.ev :=
  ite_ev rfl (ite_ev rfl rfl)

@[simp] theorem stamp_ev (m : Msg) : (s.stamp m).2.ev = s.ev := ite_ev rfl rfl

@[simp] theorem inject_ev (m : Msg) : (s.inject m).ev = s.ev := ite_ev (audit_ev s _ _ _ _) (stamp_ev s m)

@[simp] theorem newTag_ev (c : Nat) : (s.newTag c).2.ev = s.ev := rfl

@[simp] theorem sendRemote_ev (dev core ctx : Nat) (load atomic : Bool) (handle off : Nat) (m : Msg) :
    (s.sendRemote dev core ctx load atomic handle off m).ev = s.ev := by
  unfold State.sendRemote
  extract_lets p m1 held r t u
  have hcounted : u.ev = s.ev := ite_ev (t := s.countSent core) rfl rfl
  exact ite_ev hcounted ((inject_ev u m1).trans hcounted)

@[simp] theorem sendPeerWrite_ev (ctxid sep dev rctx rhnd page off : Nat) (bs : List Byte) (mask pz : Nat) :
    (s.sendPeerWrite ctxid sep dev rctx rhnd page off bs mask pz).ev = s.ev :=
  foldl_ev (fun t _ => ite_ev rfl (by simp)) _ s

@[simp] theorem sendPeerOp_ev (c : Nat) (w : WqEntry) (dev rctx rhnd page off op size scope ord aop : Nat)
    (more : List Word) : (s.sendPeerOp c w dev rctx rhnd page off op size scope ord aop more).ev = s.ev := by
  simp [State.sendPeerOp]

/-! ## A write that reaches home (R52, R58, R179) -/

@[simp] theorem homePoke_ev (h : Home) (bs : List Byte) (mask : Nat) : (s.homePoke h bs mask).ev = s.ev := by
  cases h with
  | mem key =>
    simp only [State.homePoke]
    refine (foldl_ev (fun t k => ?_) _ _).trans (ite_ev (noteWrite_ev s _ key bs mask) rfl)
    exact ite_ev rfl rfl
  | host a => exact ite_ev rfl rfl
  | peer dev rctx rhnd page off => exact sendPeerWrite_ev s _ _ _ _ _ _ _ _ _ _
  | gone => rfl

@[simp] theorem homeStore_ev (h : Home) (bs : List Byte) (mask : Nat) : (s.homeStore h bs mask).ev = s.ev := by
  unfold State.homeStore
  split <;> exact homePoke_ev s _ _ _

@[simp] theorem markHome_ev (h : Home) (pz : Nat) : (s.markHome h pz).ev = s.ev := by
  cases h with
  | mem key =>
    refine foldl_ev (fun t i => ?_) _ s
    rfl
  | host a => rfl
  | peer dev rctx rhnd page off => rfl
  | gone => rfl

/-- An access that the host aborts only defers its cause. -/
theorem unlessDenied_ev (who : Nat × Nat) (h : Home) {f : State → State} (hf : ∀ t, (f t).ev = t.ev) :
    (s.unlessDenied who h f).ev = s.ev :=
  ite_ev rfl (hf s)

@[simp] theorem homeStoreBy_ev (ctxid sep : Nat) (h : Home) (bs : List Byte) (mask pz : Nat) :
    (s.homeStoreBy ctxid sep h bs mask pz).ev = s.ev := by
  unfold State.homeStoreBy
  split
  · exact sendPeerWrite_ev s _ _ _ _ _ _ _ _ _ _
  · exact unlessDenied_ev s _ _ fun t => (markHome_ev _ h pz).trans (homeStore_ev t h bs mask)

/-! ## A path: stores, cleans and invalidations (R171, R178, R359) -/

@[simp] theorem storeAt_ev (ctxid cl src la : Nat) (home : Home) (bs : List Byte) (mask pz : Nat) (path : List Nat) :
    (storeAt ctxid cl src la home bs mask pz path s).ev = s.ev := by
  induction path generalizing cl src la home bs mask pz s with
  | nil => exact homeStoreBy_ev s _ _ _ _ _ _
  | cons v up ih =>
    unfold storeAt
    split
    · exact ih s _ _ _ _ _ _ _
    · simp only
      split
      · simp
      · rw [modVc_ev, evicted_ev]
        exact ite_ev (by simp) ((ih _ _ _ _ _ _ _ _).trans (by simp))

@[simp] theorem cleanVcTo_ev (ctxid v : Nat) (up : List Nat) (sel : CLine → Bool) :
    (s.cleanVcTo ctxid v up sel).ev = s.ev := by
  unfold State.cleanVcTo
  split
  · rfl
  · rw [modVc_ev]
    exact (foldl_ev (fun t l => storeAt_ev t _ _ _ _ _ _ _ _ _) _ _).trans (ite_ev rfl (spoilCtx_ev s _ _))

@[simp] theorem cleanVc_ev (ctxid v : Nat) (sel : CLine → Bool) : (s.cleanVc ctxid v sel).ev = s.ev := by
  unfold State.cleanVc
  split
  · rfl
  · exact cleanVcTo_ev s _ _ _ _

@[simp] theorem invalVc_ev (ctxid v : Nat) (sel : CLine → Bool) : (s.invalVc ctxid v sel).ev = s.ev := by
  simp [State.invalVc]

@[simp] theorem pathClean_ev (c ctxid leaf la : Nat) : (s.pathClean c ctxid leaf la).ev = s.ev :=
  (foldl_ev (fun t v => invalVc_ev t ctxid v _) _ _).trans (l1Drop_ev s c la)

@[simp] theorem cleanBelow_ev (ctxid : Nat) (below : List Nat) : (s.cleanBelow ctxid below).ev = s.ev :=
  foldl_ev (fun t v => cleanVc_ev t ctxid v _) _ s

/-! ## The write queue (R183, R252) -/

theorem asCtx_ev (c i : Nat) {f : State → State} (hf : ∀ t, (f t).ev = t.ev) : (s.asCtx c i f).ev = s.ev := hf _

theorem coloured_ev (c ctxid leaf la : Nat) {f : State → State} (hf : ∀ t, (f t).ev = t.ev) :
    (s.coloured c ctxid leaf la f).ev = s.ev := by
  unfold State.coloured
  split
  · exact hf s
  · exact (foldl_ev (fun t v => cleanVc_ev t ctxid v _) _ _).trans (hf _)

@[simp] theorem countOwn_ev (c : Nat) (h : Home) : (s.countOwn c h).ev = s.ev := by
  unfold State.countOwn
  split
  · split
    · rfl
    · exact sliceRecv_ev _ _ _
  · rfl

@[simp] theorem performOne_ev (c : Nat) (w : WqEntry) : (s.performOne c w).ev = s.ev := by
  cases hk : w.kind with
  | store => simp [State.performOne, hk]
  | nib high v =>
    simp only [State.performOne, hk]
    split
    · simp
    · exact (unlessDenied_ev _ _ _ fun t => homeStore_ev t _ _ _).trans (by simp)
  | red op size b release scope =>
    have hclean : (if release = true then s.cleanBelow (s.ctxidOf c) (s.below c (s.ctxidOf c) scope) else s).ev = s.ev :=
      ite_ev (cleanBelow_ev s _ _) rfl
    simp only [State.performOne, hk]
    split
    · simpa using hclean
    · refine (unlessDenied_ev _ _ _ fun t => ?_).trans (by simpa using hclean)
      exact ite_ev rfl (ite_ev (homeStore_ev t _ _ _) (homeStore_ev t _ _ _))

@[simp] theorem performWq_ev (c : Nat) (w : WqEntry) : (s.performWq c w).ev = s.ev :=
  coloured_ev s _ _ _ _ fun t => asCtx_ev t _ _ fun u => (performOne_ev _ c w).trans (ite_ev (countOwn_ev u _ _) rfl)

@[simp] theorem drainOne_ev (c : Nat) : (s.drainOne c).ev = s.ev := by
  unfold State.drainOne
  split
  · rfl
  · exact performWq_ev _ _ _

@[simp] theorem drainN_ev (c n : Nat) : (drainN c n s).ev = s.ev := by
  induction n generalizing s with
  | zero => rfl
  | succ n ih => exact (ih _).trans (drainOne_ev s c)

@[simp] theorem drainThrough_ev (c : Nat) (p : WqEntry → Bool) : (s.drainThrough c p).ev = s.ev := drainN_ev s c _

end

/-- What runs with a colour may name the core by the event in its own state. -/
theorem coloured_at_event {s : State} (f : Nat → State → State) (c ctxid leaf la : Nat) :
    s.coloured c ctxid leaf la (fun t => f t.ev.at_ t) = s.coloured c ctxid leaf la (f s.ev.at_) := rfl

end Sys2Proof.Proofs.EventKept
end

section
/-! PROOFS. The monitor calls: partitions, contexts, and the images of Pewter and of the policies. -/

namespace Sys2Proof.Proofs.Calls

open Sys2Proof.Machine Sys2Proof.Spec Sys2Proof.Proofs.Package Sys2Proof.Proofs.EventKept

section
variable (s : State)

theorem exec_partCreate : exec .partCreate s = execPartCreate s := rfl
theorem exec_partReset : exec .partReset s = execPartReset s := rfl
theorem exec_partDestroy : exec .partDestroy s = execPartDestroy s := rfl
theorem exec_banks : exec .banks s = execBanks s := rfl
theorem exec_mapFlush : exec .mapFlush s = execMapFlush s := rfl
theorem exec_report : exec .report s = execReport s := rfl
theorem exec_auditRead : exec .auditRead s = execAuditRead s := rfl
theorem exec_pewterUpdate : exec .pewterUpdate s = execPewterUpdate s := rfl
theorem exec_pewterHandover : exec .pewterHandover s = execPewterHandover s := rfl
theorem exec_policyLoad : exec .policyLoad s = execPolicyLoad s := rfl
theorem exec_policyUnload : exec .policyUnload s = execPolicyUnload s := rfl
theorem exec_policyPin : exec .policyPin s = execPolicyPin s := rfl
theorem exec_errinj : exec .errinj s = execErrinj s := rfl

end

/-! ## The form of a call (R76) -/

/-- The process of the core that calls. -/
abbrev Caller (s : State) (p : Proc) : Prop := s.proc? (s.ctxidOf s.ev.at_) = some p

section
variable {i : Instr} {f : Ev → Nat → Proc → State → Answer} {s : State} {p : Proc} (hp : Caller s p)
include hp

theorem answers_call_denied (hx : exec i s = callMonitor true f s) (hvf : p.vf ≠ 0) : Answers i s (returned s 0xFE []) :=
  answers_runEvent hx (by simp [hp, hvf, returned])

/-- A call that its caller may make returns what its service answers. -/
theorem answers_call {st : Nat} {vals : List Word} {t : State} {pf : Bool} (hx : exec i s = callMonitor pf f s)
    (hmay : pf = true → p.vf = 0) (hf : f s.ev (s.ctxidOf s.ev.at_) p s = (st, vals, t)) :
    Answers i s (t.callReturn s.ev st vals) := by
  refine answers_runEvent hx ?_
  have hallowed : (pf && p.vf != 0) = false := by
    cases pf
    · rfl
    · simp [hmay rfl]
  simp only [hp, hallowed, Bool.false_eq_true, if_false, hf]

end

/-! ## Partitions (R95 to R98, R101) -/

/-- A reset that the monitor does not begin itself is a call. -/
theorem exec_partReset_called {s : State} (h : s.ev.z ≠ 1) :
    exec .partReset s = callMonitor true (fun ev _ _ s =>
      if (s.parts.look (ev.arg 1).toNat).isSome then (0, [], s.resetPart (ev.arg 1).toNat) else (2, [], s)) s :=
  if_neg h

theorem partReset_ofMonitor {s : State} (h : s.ev.z = 1) : Answers .partReset s (s.resetPart s.ev.x) :=
  (exec_partReset s).trans (if_pos h)

theorem createBad_stands {s : State} {n : Nat} (blocks ports : Nat) (h : (s.parts.look n).isSome = true) :
    s.createBad n blocks ports = some 1 :=
  if_pos h

section
variable {s : State} {p : Proc} (hp : Caller s p)
include hp

theorem call_denied {i : Instr} (hvf : p.vf ≠ 0)
    (hi : i ∈ [.partCreate, .partReset, .partDestroy, .auditRead, .pewterUpdate, .policyLoad, .policyUnload, .policyPin])
    (hz : i = .partReset → s.ev.z ≠ 1) : Answers i s (returned s 0xFE []) := by
  simp only [List.mem_cons, List.not_mem_nil, or_false] at hi
  obtain rfl | rfl | rfl | rfl | rfl | rfl | rfl | rfl := hi
  · exact answers_call_denied hp (exec_partCreate s) hvf
  · exact answers_call_denied hp (exec_partReset_called (hz rfl)) hvf
  · exact answers_call_denied hp (exec_partDestroy s) hvf
  · exact answers_call_denied hp (exec_auditRead s) hvf
  · exact answers_call_denied hp (exec_pewterUpdate s) hvf
  · exact answers_call_denied hp (exec_policyLoad s) hvf
  · exact answers_call_denied hp (exec_policyUnload s) hvf
  · exact answers_call_denied hp (exec_policyPin s) hvf

variable (hvf : p.vf = 0)
include hvf

section
variable (hn : (s.ev.arg 1).toNat < 32) (hblocks : (s.ev.arg 2).toNat < 2 ^ 32) (hports : (s.ev.arg 3).toNat < 2 ^ 47)
  (hset : (s.ev.arg 3).toNat % 2 ^ 32 = 0)
include hn hblocks hports hset

theorem partCreate_refused {r : Nat}
    (h : s.createBad (s.ev.arg 1).toNat (s.ev.arg 2).toNat ((s.ev.arg 3).toNat / 2 ^ 32) = some r) :
    Answers .partCreate s (returned s r []) :=
  answers_call hp (exec_partCreate s) (fun _ => hvf) ((if_neg (by omega)).trans (by rw [h]))

theorem partCreate_makes
    (h : s.createBad (s.ev.arg 1).toNat (s.ev.arg 2).toNat ((s.ev.arg 3).toNat / 2 ^ 32) = none) :
    Answers .partCreate s
      ((s.createPart (s.ev.arg 1).toNat (s.ev.arg 2).toNat ((s.ev.arg 3).toNat / 2 ^ 32)).callReturn s.ev 0 []) :=
  answers_call hp (exec_partCreate s) (fun _ => hvf) ((if_neg (by omega)).trans (by rw [h]))

end

section
variable (hstands : (s.parts.look (s.ev.arg 1).toNat).isSome = true)
include hstands

theorem partReset_resets (hz : s.ev.z ≠ 1) :
    Answers .partReset s ((s.resetPart (s.ev.arg 1).toNat).callReturn s.ev 0 []) :=
  answers_call hp (exec_partReset_called hz) (fun _ => hvf) (if_pos hstands)

theorem partDestroy_destroys : Answers .partDestroy s ((s.destroyPart (s.ev.arg 1).toNat).callReturn s.ev 0 []) :=
  answers_call hp (exec_partDestroy s) (fun _ => hvf) (if_pos hstands)

end

section
variable (hnone : s.parts.look (s.ev.arg 1).toNat = none)
include hnone

theorem partReset_unknown (hz : s.ev.z ≠ 1) : Answers .partReset s (returned s 2 []) :=
  answers_call hp (exec_partReset_called hz) (fun _ => hvf) (if_neg (by simp [hnone]))

theorem partDestroy_unknown : Answers .partDestroy s (returned s 2 []) :=
  answers_call hp (exec_partDestroy s) (fun _ => hvf) (if_neg (by simp [hnone]))

end

end

theorem partitionCalls : PartitionCalls := by
  refine ⟨fun s p i hp hvf hi hz => call_denied hp hvf hi hz, fun s p hp hvf => ⟨fun hn hb hports hset => ⟨fun r h => ?_,
    fun h => ?_⟩, fun hz h => ?_, fun hz h => ?_, fun h => ?_, fun h => ?_⟩, fun s => partReset_ofMonitor,
    fun s n blocks ports => createBad_stands blocks ports⟩
  · exact partCreate_refused hp hvf hn hb hports hset h
  · exact partCreate_makes hp hvf hn hb hports hset h
  · exact partReset_resets hp hvf h hz
  · exact partReset_unknown hp hvf h hz
  · exact partDestroy_destroys hp hvf h
  · exact partDestroy_unknown hp hvf h

/-! ## Banks (R170) -/

section
variable {s : State} {p c : Proc} (hp : Caller s p) (hctx : s.contextOf (s.ev.arg 1).toNat p.vf = true)
  (hc : s.proc? (s.ev.arg 1).toNat = some c) (hmask : (s.ev.arg 3).toNat < 2 ^ 48) (hb : (s.ev.arg 2).toNat < 32)
  (hpart : (s.part c.part).blocks.testBit (s.ev.arg 2).toNat = true) (hboot : s.boot.blocks.testBit (s.ev.arg 2).toNat = true)
include hp hctx hc hmask hb hpart hboot

theorem banks_gives (hop : (s.ev.arg 4).toNat = 0)
    (hfree : s.procs.any (fun o => o.1 != (s.ev.arg 1).toNat && !o.2.retired &&
      o.2.banks.get (s.ev.arg 2).toNat 0 &&& (s.ev.arg 3).toNat != 0) = false) :
    Answers .banks s ((s.modProc (s.ev.arg 1).toNat (fun d => { d with
      banks := d.banks.put (s.ev.arg 2).toNat (c.banks.get (s.ev.arg 2).toNat 0 ||| (s.ev.arg 3).toNat) })).callReturn s.ev 0 []) := by
  refine answers_call hp (exec_banks s) nofun ?_
  have hform : ¬(2 ^ 48 ≤ (s.ev.arg 3).toNat ∨ 1 < (s.ev.arg 4).toNat) := by omega
  refine (if_neg hform).trans ?_
  simp [hctx, hc, hpart, hboot, hop, hfree, Nat.not_le.2 hb]

theorem banks_takesBack (hop : (s.ev.arg 4).toNat = 1)
    (hidle : c.vcs.any (fun v => v.2.blocks.testBit (s.ev.arg 2).toNat && v.2.banks &&& (s.ev.arg 3).toNat != 0) = false) :
    Answers .banks s ((s.modProc (s.ev.arg 1).toNat (fun d => { d with
      banks := d.banks.put (s.ev.arg 2).toNat (c.banks.get (s.ev.arg 2).toNat 0 -
        (c.banks.get (s.ev.arg 2).toNat 0 &&& (s.ev.arg 3).toNat)) })).callReturn s.ev 0 []) := by
  refine answers_call hp (exec_banks s) nofun ?_
  have hform : ¬(2 ^ 48 ≤ (s.ev.arg 3).toNat ∨ 1 < (s.ev.arg 4).toNat) := by omega
  refine (if_neg hform).trans ?_
  simp [hctx, hc, hpart, hboot, hop, hidle, Nat.not_le.2 hb]

end

/-! ## Maps, reports and the audit ring (R348, R84, R91) -/

section
variable {s : State} {p : Proc} {e : Ent} (hp : Caller s p)
include hp

/-- A flush with no old access open leaves the list of the flushes that wait. -/
theorem mapFlush_returns (he : s.callEnt (s.ctxidOf s.ev.at_) (s.ev.arg 1) [] = some e)
    (hold : (s.dropMap p.part (s.ctxidOf s.ev.at_) e).oldAccess (s.ctxidOf s.ev.at_) e.index = false) :
    let t := s.dropMap p.part (s.ctxidOf s.ev.at_) e
    Answers .mapFlush s ({ t with mon := { t.mon with
      flushes := t.mon.flushes.filter (fun f => f != s.ev) } }.callReturn s.ev 0 []) := by
  refine answers_runEvent (exec_mapFlush s) ?_
  simp only [hp, he, hold, Bool.false_eq_true, if_false]

theorem auditRead_moves (hvf : p.vf = 0) (he : s.callEnt (s.ctxidOf s.ev.at_) (s.ev.arg 1) [rW] = some e)
    (hoff : (s.ev.arg 2).toNat ≤ e.len) :
    let n := min (min (s.ev.arg 3).toNat s.mon.audit.length) ((e.len - (s.ev.arg 2).toNat) / 32)
    let t := s.devWrite (s.ctxidOf s.ev.at_) e.index (s.ev.arg 2).toNat ((s.mon.audit.take n).flatMap Audit.bytes)
    Answers .auditRead s ({ t with mon := { t.mon with
      audit := t.mon.audit.drop n, auditLost := 0 } }.callReturn s.ev 0 [word n, word s.mon.auditLost]) := by
  refine answers_call hp (exec_auditRead s) (fun _ => hvf) ?_
  simp only [he, if_neg (Nat.not_lt.2 hoff)]

end

section
variable {s : State} {p c : Proc} {src dst : Ent} (hp : Caller s p) (hc : s.proc? (s.ev.arg 1).toNat = some c)
  (hsrc : s.callEnt (s.ctxidOf s.ev.at_) (s.ev.arg 2) [rR] = some src)
  (hdst : s.callEnt (s.ctxidOf s.ev.at_) (s.ev.arg 4) [rW] = some dst)
  (hctx : s.contextOf (s.ev.arg 1).toNat p.vf = true) (hnonce : (s.ev.arg 3).toNat + 64 ≤ src.len)
include hp hc hsrc hdst hctx hnonce

/-- The answer to a report turns on whether the destination holds it. -/
theorem report_answers :
    let b := s.report (s.ev.arg 1).toNat c (s.devRead (s.ctxidOf s.ev.at_) src.index (s.ev.arg 3).toNat 64)
    (dst.len < (s.ev.arg 5).toNat + b.length → Answers .report s (returned s 2 [])) ∧
    ((s.ev.arg 5).toNat + b.length ≤ dst.len → Answers .report s
      ((s.devWrite (s.ctxidOf s.ev.at_) dst.index (s.ev.arg 5).toNat b).callReturn s.ev 0 [word b.length])) := by
  refine ⟨fun hshort => answers_call hp (exec_report s) nofun ?_, fun hfits => answers_call hp (exec_report s) nofun ?_⟩
  · simp only [hc, hsrc, hdst, hctx, Bool.not_true, Bool.false_eq_true, if_false, if_neg (Nat.not_lt.2 hnonce), if_pos hshort]
  · simp only [hc, hsrc, hdst, hctx, Bool.not_true, Bool.false_eq_true, if_false, if_neg (Nat.not_lt.2 hnonce),
      if_neg (Nat.not_lt.2 hfits)]

end

/-! ## Error injection (R416) -/

/-- The doubleword of a home in memory is poisoned wherever a write of it goes. -/
theorem poisonHome_mem (s : State) (k : Nat) :
    let u := (s.cowPage k).markPage k
    s.poisonHome (.mem k) = { u with mem := (k :: u.forwardTo k).foldl (fun m a => m.addPoison a) u.mem } := by
  have hbit : onesOf 1 16 = [0] := by decide
  simp only [State.poisonHome, State.markHome, hbit, List.foldl_cons, List.foldl_nil, Nat.mul_zero, Nat.add_zero]

/-- The clean of the path names its core by the event, which the drain before it has left in place. -/
theorem errinj_poisons {s : State} {p : Proc} {e : Ent} {k : Nat} (hp : Caller s p)
    (he : s.callEnt (s.ctxidOf s.ev.at_) (s.ev.arg 1) [rW] = some e) (halign : (s.ev.arg 2).toNat % 8 = 0)
    (hin : (s.ev.arg 2).toNat < e.len)
    (htr : s.translate (s.ctxidOf s.ev.at_) e (s.ev.arg 2).toNat .write 0 = .ok (.mem k)) :
    let la := (e.base + (s.ev.arg 2).toNat) / 128
    let leaf := e.leaf s.ev.at_
    let t := (s.drainThrough s.ev.at_ (fun w => w.oaddr / 128 == la)).coloured s.ev.at_ (s.ctxidOf s.ev.at_) leaf la
      (fun u => u.pathClean u.ev.at_ (s.ctxidOf s.ev.at_) leaf la)
    Answers .errinj s ((t.poisonHome (.mem k)).callReturn s.ev 0 []) := by
  refine answers_call hp (exec_errinj s) nofun ?_
  have hplace : ¬((s.ev.arg 2).toNat % 8 ≠ 0 ∨ e.len ≤ (s.ev.arg 2).toNat) := by omega
  simp only [he, if_neg hplace, htr]
  rw [coloured_at_event (fun c u => u.pathClean c _ _ _), drainThrough_ev]

theorem contextCalls : ContextCalls := by
  refine fun s p hp => ⟨fun c hctx hc hmask hb hpart hboot => ⟨fun hop h => ?_, fun hop h => ?_⟩, fun e he hold => ?_,
    fun c src dst hc hsrc hdst hctx hnonce => ?_, fun e hvf he hoff => ?_, fun e k he halign hin htr => ?_⟩
  · exact banks_gives hp hctx hc hmask hb hpart hboot hop h
  · exact banks_takesBack hp hctx hc hmask hb hpart hboot hop h
  · exact mapFlush_returns hp he hold
  · exact report_answers hp hc hsrc hdst hctx hnonce
  · exact auditRead_moves hp hvf he hoff
  · have h := errinj_poisons hp he halign hin htr
    simp only [poisonHome_mem] at h
    exact h

/-! ## Images (R75, R77) -/

/-- The image that a call's first argument names. -/
def imageOf (s : State) (e : Ent) : List Byte := imageOfBytes (s.objectBytes (s.ctxidOf s.ev.at_) e)

section
variable {s : State} {p : Proc} {e : Ent} (hp : Caller s p) (hvf : p.vf = 0)
  (he : s.callEnt (s.ctxidOf s.ev.at_) (s.ev.arg 1) [rR] = some e)
include hp hvf he

theorem pewterUpdate_busy (h : s.mon.staged.isSome = true) : Answers .pewterUpdate s (returned s 6 []) := by
  refine answers_call hp (exec_pewterUpdate s) (fun _ => hvf) ?_
  simp only [he, h, if_true]

section
variable (hfree : s.mon.staged = none) (hshadow : s.mon.roles.any (fun r => r.2 == 2) = true)
include hfree hshadow

theorem pewterUpdate_stages (hsig : s.imageSigned (imageOf s e) = true) (hnewer : s.mon.version < imageVersion (imageOf s e))
    (hfloor : s.cfg 0x28 8 ≤ imageVersion (imageOf s e)) :
    Answers .pewterUpdate s
      ({ s with mon := { s.mon with staged := some (s.ctxidOf s.ev.at_, imageOf s e) } }.callReturn s.ev 0 []) := by
  unfold imageOf at *
  refine answers_call hp (exec_pewterUpdate s) (fun _ => hvf) ?_
  simp only [he, hfree, hshadow, hsig, Option.isSome_none, Bool.not_true, Bool.false_eq_true, if_false]
  exact if_neg (by omega)

theorem pewterUpdate_unsigned (hsig : s.imageSigned (imageOf s e) = false) :
    Answers .pewterUpdate s ((s.updateFailed (s.ctxidOf s.ev.at_) 1).callReturn s.ev 0 []) := by
  unfold imageOf at *
  refine answers_call hp (exec_pewterUpdate s) (fun _ => hvf) ?_
  simp only [he, hfree, hshadow, hsig, Option.isSome_none, Bool.not_true, Bool.not_false, Bool.false_eq_true, if_false, if_true]

end

theorem policyLoad_unsigned (hsig : s.imageSigned (imageOf s e) = false) : Answers .policyLoad s (returned s 1 []) := by
  unfold imageOf at *
  refine answers_call hp (exec_policyLoad s) (fun _ => hvf) ?_
  simp only [he, hsig, Bool.not_false, if_true]

theorem policyLoad_holds (hsig : s.imageSigned (imageOf s e) = true)
    (hnew : s.mon.policies.any (fun q => q.version == imageVersion (imageOf s e)) = false) (hroom : s.mon.policies.length < 8) :
    let b := imageOf s e
    let t := { s with mon := { s.mon with policies := s.mon.policies ++ [Policy.mk (imageVersion b) b] } }
    Answers .policyLoad s
      ((t.extendReg 3 5 (b ++ leBytes 8 (imageVersion b))).callReturn s.ev 0 [word (imageVersion b)]) := by
  unfold imageOf at *
  refine answers_call hp (exec_policyLoad s) (fun _ => hvf) ?_
  simp only [he, hsig, hnew, Bool.not_true, Bool.false_eq_true, if_false, if_neg (Nat.not_le.2 hroom)]

end

section
variable {s : State} {p : Proc} (hp : Caller s p) (hvf : p.vf = 0)
include hp hvf

theorem policyUnload_pinned (h : s.mon.pins.any (fun q => q.2 == (s.ev.arg 1).toNat) = true) :
    Answers .policyUnload s (returned s 4 []) :=
  answers_call hp (exec_policyUnload s) (fun _ => hvf) (if_pos h)

theorem policyUnload_drops (h : s.mon.pins.any (fun q => q.2 == (s.ev.arg 1).toNat) = false) :
    Answers .policyUnload s ({ s with mon := { s.mon with
      policies := s.mon.policies.filter (fun q => q.version != (s.ev.arg 1).toNat) } }.callReturn s.ev 0 []) :=
  answers_call hp (exec_policyUnload s) (fun _ => hvf) (if_neg (Bool.eq_false_iff.1 h))

theorem policyPin_noFunction (h : s.functionLives (s.ev.arg 1).toNat = false) : Answers .policyPin s (returned s 2 []) :=
  answers_call hp (exec_policyPin s) (fun _ => hvf) (if_pos (by simp [h]))

theorem policyPin_pins (hlives : s.functionLives (s.ev.arg 1).toNat = true)
    (hheld : s.mon.policies.any (fun q => q.version == (s.ev.arg 2).toNat) = true) :
    Answers .policyPin s ({ s with mon := { s.mon with
      pins := s.mon.pins.put (s.ev.arg 1).toNat (s.ev.arg 2).toNat,
      repinned := s.mon.repinned.filter (fun n => n != (s.ev.arg 1).toNat) ++ [(s.ev.arg 1).toNat] } }.callReturn s.ev 0 []) :=
  answers_call hp (exec_policyPin s) (fun _ => hvf) (if_neg (by simp [hlives, hheld]))

end

/-- The handover of a staged image, by whether the shadows fail to initialise it. -/
theorem pewterHandover_answers {s : State} {own : Nat} {b : List Byte} (h : s.mon.staged = some (own, b)) :
    let u := { s with mon := { s.mon with staged := none } }
    Answers .pewterHandover s (if s.ev.x = 1 then u.updateFailed own 3 else
      ({ u.abandonReports with mon := { u.abandonReports.mon with version := imageVersion b } }.handOverRoles.extendReg
        2 0x0A b).deriveReport) :=
  answers_runEvent (exec_pewterHandover s) (by simp only [h])

theorem imageCalls : ImageCalls := by
  refine ⟨fun s p hp hvf => ⟨fun e he => ⟨fun hfree hshadow => ⟨fun hsig hnewer hfloor => ?_, fun hsig => ?_⟩, fun h => ?_,
    fun hsig => ?_, fun hsig hnew hroom => ?_⟩, fun h => ?_, fun h => ?_, fun h => ?_, fun hlives hheld => ?_⟩,
    fun s own b h => ⟨fun hx => ?_, fun hx => ?_⟩⟩
  · exact pewterUpdate_stages hp hvf he hfree hshadow hsig hnewer hfloor
  · exact pewterUpdate_unsigned hp hvf he hfree hshadow hsig
  · exact pewterUpdate_busy hp hvf he h
  · exact policyLoad_unsigned hp hvf he hsig
  · exact policyLoad_holds hp hvf he hsig hnew hroom
  · exact policyUnload_pinned hp hvf h
  · exact policyUnload_drops hp hvf h
  · exact policyPin_noFunction hp hvf h
  · exact policyPin_pins hp hvf hlives hheld
  · exact answers_of_eq (pewterHandover_answers h) (if_pos hx)
  · exact answers_of_eq (pewterHandover_answers h) (if_neg hx)

/-- Settles O56: each call runs its own case of the monitor, in the order of its checks. -/
theorem monitorCalls : Obligations.MonitorCalls := ⟨partitionCalls, contextCalls, imageCalls⟩

end Sys2Proof.Proofs.Calls
end

section
/-! PROOFS. The check of a handle before an access (R166), and the check of a signature block where it ends (R106). -/

namespace Sys2Proof.Proofs.Checks

open Sys2Proof.Machine Sys2Proof.Spec

/-! ## The steps of the handle check (R166) -/

/-- Step 3 raises the cause of the first right of the list that is missing. -/
theorem checkRights_missing {index rights : Nat} {l m : List Nat} {r : Nat} (hl : ∀ q ∈ l, rights.testBit q = true)
    (hr : rights.testBit r = false) :
    checkRights index rights (l ++ r :: m) = .error (Bad.of (rightCause r) (hEval index r)) := by
  induction l with
  | nil => simp [checkRights, hr]
  | cons q l ih =>
    obtain ⟨hq, hl⟩ := List.forall_mem_cons.1 hl
    simpa [checkRights, hq] using ih hl

theorem checkRights_granted {index rights : Nat} {l : List Nat} (hl : ∀ q ∈ l, rights.testBit q = true) :
    checkRights index rights l = .ok () := by
  induction l with
  | nil => rfl
  | cons q l ih =>
    obtain ⟨hq, hl⟩ := List.forall_mem_cons.1 hl
    simpa [checkRights, hq] using ih hl

/-- Step 6 fails exactly when an alignment is asked for and the place of the access is no multiple of it. -/
theorem misaligned_iff (n : Need) (e : Ent) (off : Int) :
    n.misaligned e off.toNat = true ↔ n.align ≠ 0 ∧ place e n off % n.align ≠ 0 := by
  simp [Need.misaligned, place]

section
variable {s : State} {ctxid : Nat} {h : Handle} {low : Nat}

theorem checkLive_lost (hlost : s.entLost ctxid h.index.toNat = true) :
    s.checkLive ctxid h low = .error (Bad.of Cause.uncorrData (hEval h.index.toNat low)) := by
  simp [State.checkLive, hlost]

theorem checkLive_dead (hkept : s.entLost ctxid h.index.toNat = false) (hdead : s.liveEnt ctxid h.index.toNat = none) :
    s.checkLive ctxid h low =
      .error (Bad.of (if s.freedUnder ctxid h then Cause.hStale else Cause.hInvalid) (hEval h.index.toNat low)) := by
  simp [State.checkLive, hkept, hdead]

theorem checkLive_stale {e : Ent} (hkept : s.entLost ctxid h.index.toNat = false)
    (hlive : s.liveEnt ctxid h.index.toNat = some e) (hgen : e.gen ≠ h.gen.toNat) :
    s.checkLive ctxid h low = .error (Bad.of Cause.hStale (hEval h.index.toNat low)) := by
  simp [State.checkLive, hkept, hlive, hgen]

theorem checkLive_live {e : Ent} (hkept : s.entLost ctxid h.index.toNat = false)
    (hlive : s.liveEnt ctxid h.index.toNat = some e) (hgen : e.gen = h.gen.toNat) : s.checkLive ctxid h low = .ok e := by
  simp [State.checkLive, hkept, hlive, hgen]

end

/-! ## The check as a whole -/

section
variable {s : State} {ctxid : Nat} {h : Handle} {off : Int} {n : Need}

/-- What steps 1 and 2 find is what the check raises. -/
theorem checkEnt_notLive {b : Bad} (hb : s.checkLive ctxid h (off48 off) = .error b) : s.checkEnt ctxid h off n = .error b := by
  simp [State.checkEnt, hb]

/-- On a live entry what step 3 finds is what the check raises; a gang window grants R and W only (R168). -/
theorem checkEnt_noRight {e : Ent} {b : Bad} (hlive : s.checkLive ctxid h (off48 off) = .ok e)
    (hb : checkRights e.index (if e.fmt = 15 then e.rights % 4 else e.rights) n.rights = .error b) :
    s.checkEnt ctxid h off n = .error b := by
  simp [State.checkEnt, hlive, hb]

/-- On a live entry with every right, steps 4 to 6 remain, in this order. -/
theorem checkEnt_granted {e : Ent} (hlive : s.checkLive ctxid h (off48 off) = .ok e)
    (hr : checkRights e.index (if e.fmt = 15 then e.rights % 4 else e.rights) n.rights = .ok ()) :
    s.checkEnt ctxid h off n =
      if n.plain = true ∧ e.rights.testBit rS = true then .error (Bad.of Cause.syncStore (hEval h.index.toNat (off48 off)))
      else if off < 0 ∨ (e.len : Int) < off + n.size then .error (Bad.of Cause.hBound (hEval h.index.toNat (off48 off)))
      else if n.align ≠ 0 ∧ place e n off % n.align ≠ 0 then
        .error (Bad.of (if n.atomic then Cause.atomicAlign else Cause.hAlign) (hEval h.index.toNat (off48 off)))
      else .ok e := by
  simp only [State.checkEnt, hlive, hr, Bool.and_eq_true, Bool.or_eq_true, decide_eq_true_eq, misaligned_iff]

end

/-- Settles O21: steps 1 to 3 raise what they find, and on a live entry with every right the three conditions of
`checkEnt_granted` are tried one after the other. -/
theorem checkOrder : Obligations.CheckOrder := by
  intro s ctxid h off n ev
  refine ⟨fun hlost => checkEnt_notLive (checkLive_lost hlost),
    fun hkept hdead => checkEnt_notLive (checkLive_dead hkept hdead),
    fun e hkept hlive => ⟨fun hgen => checkEnt_notLive (checkLive_stale hkept hlive hgen),
      fun hgen l m r hn hl hr => ?missing, fun hgen hall => ?granted⟩⟩
  case missing =>
    exact checkEnt_noRight (checkLive_live hkept hlive hgen) (hn ▸ checkRights_missing hl hr)
  case granted =>
    have hsteps := checkEnt_granted (off := off) (checkLive_live hkept hlive hgen) (checkRights_granted hall)
    refine ⟨fun hplain hS => hsteps.trans (if_pos ⟨hplain, hS⟩), fun hsync => ?_⟩
    replace hsteps := hsteps.trans (if_neg (by simpa [or_iff_not_imp_left] using hsync))
    refine ⟨fun hout => hsteps.trans (if_pos hout), fun hlow hhigh => ?_⟩
    replace hsteps := hsteps.trans (if_neg (by omega))
    exact ⟨fun halign hplace => hsteps.trans (if_pos ⟨halign, hplace⟩),
      fun hplace => hsteps.trans (if_neg (by simpa [or_iff_not_imp_left] using hplace))⟩

/-! ## The end of a block (R106) -/

section
variable {s : State} {i : Instr}

theorem exec_of_branchOf (hi : (branchOf s i).isSome = true) : ∃ taken target, exec i s = branch taken target s := by
  unfold branchOf at hi
  split at hi
  case h_9 => simp at hi -- no other instruction is a branch
  all_goals exact ⟨_, _, rfl⟩

theorem exec_of_jumpOf (hi : (jumpOf s i).isSome = true) : ∃ link target, exec i s = jump link target s := by
  unfold jumpOf at hi
  split at hi
  case h_5 => simp at hi -- no other instruction is a jump
  all_goals exact ⟨_, _, rfl⟩

/-- A branch and a jump check their block before they do anything else. -/
theorem exec_endsBlock (hi : (branchOf s i).isSome = true ∨ (jumpOf s i).isSome = true) :
    ∃ k : Unit → M Unit, exec i s = runInstr (endBlock >>= k) s := by
  obtain hb | hj := hi
  · obtain ⟨_, _, h⟩ := exec_of_branchOf hb
    exact ⟨_, h⟩
  · obtain ⟨_, _, h⟩ := exec_of_jumpOf hj
    exact ⟨_, h⟩

/-- A wrong block of supervisor code, of an `rgnx` region, or one that has missed before. -/
abbrev MissTraps (s : State) : Prop :=
  s.curCtx.sup = true ∨ s.curCtx.rgnx = true ∨ s.curCtx.sig.missed = some s.curCtx.sig.opening

variable (hlive : s.curCtx.sig.live = true) (hbad : s.curCtx.sig.crc ≠ s.curCtx.sig.expected)
include hlive hbad

/-- On a wrong block the checker closes it, and then traps, or remembers the miss and restarts the region. -/
theorem endBlock_wrong :
    endBlock s = if MissTraps s then
        .error (.trap Cause.sigMismatch (word (s.curCtx.sig.expected + s.curCtx.sig.crc * 0x10000)) 0 0)
          (s.modCur (fun x => { x with sig := SigState.idle }))
      else .error .restart
        (s.modCur (fun x => { x with sig := { SigState.idle with missed := some s.curCtx.sig.opening } })) := by
  rw [endBlock, M.bind_ok (m := get) (a := s) (t := s) rfl]
  simp only [hlive, hbad, Bool.not_true, Bool.false_eq_true, if_false]
  split <;> rfl

end

/-- Settles O14: what the check of the block raises, the branch or jump that ends it raises, since the check is the first
thing it does. -/
theorem signatureMismatch : Obligations.SignatureMismatch := by
  intro s i hi hlive hbad bad
  obtain ⟨k, hexec⟩ := exec_endsBlock hi
  exact ⟨fun htraps => hexec.trans (runInstr_trap (M.bind_error ((endBlock_wrong hlive hbad).trans (if_pos htraps)))),
    fun hfirst => hexec.trans (runInstr_restart (M.bind_error ((endBlock_wrong hlive hbad).trans (if_neg hfirst))))⟩

end Sys2Proof.Proofs.Checks
end

section
/-! PROOFS. What the shared steps of a synchronisation answer: the end of a block, releases and acquires, commits, and requests to
another device. -/

namespace Sys2Proof.Proofs.Sync

open Sys2Proof.Machine Sys2Proof.Spec

section
variable {α : Type} (s : State)

theorem bind_get (f : State → M α) : (get >>= f) s = f s s := rfl

theorem bind_modify (g : State → State) (f : PUnit → M α) : (modify g >>= f) s = f ⟨⟩ (g s) := rfl

theorem bind_set (t : State) (f : PUnit → M α) : (set t >>= f) s = f ⟨⟩ t := rfl

end

section
variable {s : State}

/-! ## The end of a block and the operands (R106, R268) -/

theorem endBlock_ok (h : BlockOk s) : endBlock s = .ok () (closed s) := by
  by_cases hlive : s.curCtx.sig.live = true
  · rw [endBlock, bind_get, closed, if_pos hlive]
    simp only [hlive, Bool.not_true, Bool.false_eq_true, if_false, if_pos (h hlive)]
    rfl
  · rw [endBlock_idle (Bool.eq_false_iff.2 hlive), closed, if_neg hlive]

theorem needZeroB_ok (i : Instr) {v : Word} {hi : Nat} (h : v.toNat < 2 ^ (hi + 1)) : needZeroB i v hi s = .ok () s :=
  congrFun (if_pos (Nat.div_eq_of_lt h)) s

/-! ## Releases, acquires and commits (R229, R359, R360) -/

theorem releaseAt_ok {scope : Nat} (h : settled s scope) : releaseAt scope s = .ok () (s.release s.cur.1 scope) := by
  obtain ⟨hopen, hshape, hacked⟩ := h
  have hqueue : queueOpen s = .ok () s := by
    rw [queueOpen, bind_get, hopen]
    rfl
  have hcleans : ((scope == 2 || scope == 3) && (s.release s.cur.1 scope).storesBusy) = false := by
    by_cases hs : scope = 2 ∨ scope = 3
    · rw [hacked hs, Bool.and_false]
    · simp [not_or.1 hs]
  rw [releaseAt, M.bind_ok hqueue, bind_get]
  simp only [hshape]
  rw [bind_modify, cleansAcked, bind_get, hcleans]
  rfl

theorem acquireAt_ok {scope : Nat} (h : acquirable s scope) : acquireAt scope s = .ok () (s.acquire s.cur.1 scope) := by
  rw [acquireAt, bind_get]
  simp only [acquirable] at h
  simp only [h]
  rfl

theorem commitInstr_ok (s : State) (rollable : Bool) : commitInstr rollable s = .ok () (committed s rollable) := by
  cases rollable <;> rfl

/-! ## Requests to another device (R27, R269) -/

theorem pendingTag_starts (h : starts s) : pendingTag s = .ok none s := by
  rw [pendingTag, bind_get]
  rcases hw : s.curCtx.wait with _ | w
  · rfl
  · cases w with
    | remote tag => exact absurd hw (h tag)
    | _ => rfl

theorem pendingTag_waits {tag : Nat} (h : s.curCtx.wait = some (.remote tag)) : pendingTag s = .ok (some tag) s := by
  rw [pendingTag, bind_get]
  simp only [h]
  rfl

/-- A context that begins its instruction sends its request with a fresh tag and waits for the answer to it. -/
theorem request_sends (build : Nat → State → State) (h : starts s) :
    request build s = .error (.wait (.remote (s.newTag s.cur.1).1)) (build (s.newTag s.cur.1).1 (s.newTag s.cur.1).2) := by
  rw [request, M.bind_ok (pendingTag_starts h)]
  rfl

/-- The state after the context that issues has taken the answer to its request. -/
def replyTaken (s : State) (tag : Nat) : State :=
  (s.modCur (fun x => { x with replies := x.replies.filter (fun q => q.tag != tag) })).modCur
    (fun x => { x with wait := none, access := none, noFill := false })

theorem request_answered (build : Nat → State → State) {tag : Nat} {r : Reply} (hw : s.curCtx.wait = some (.remote tag))
    (hr : s.curCtx.replies.find? (fun q => q.tag == tag) = some r) (hop : r.op ≠ 0x4F) :
    request build s = .ok r (replyTaken s tag) := by
  have htake : takeReply tag s =
      .ok (some r) (s.modCur (fun x => { x with replies := x.replies.filter (fun q => q.tag != tag) })) := by
    rw [takeReply, bind_get]
    simp only [hr]
    rfl
  rw [request, M.bind_ok (pendingTag_waits hw)]
  simp only
  rw [M.bind_ok htake]
  simp only [if_neg hop]
  rfl

end

end Sys2Proof.Proofs.Sync
end

section
/-! PROOFS. `bar` on a completion barrier object (R111, R274), of this device and of another one. -/

namespace Sys2Proof.Proofs.Barriers

open Sys2Proof.Machine Sys2Proof.Spec Sys2Proof.Proofs.Sync

/-! ## The object at its home (R111) -/

/-- A barrier object is read from memory, not from a core. -/
theorem obar_modCore (s : State) (c : Nat) (f : Core → Core) (home : Home) : (s.modCore c f).obar home = s.obar home := by
  have hread : (s.modCore c f).homeRead home 16 = s.homeRead home 16 := by cases home <;> rfl
  rw [State.obar, State.obar, hread]

theorem obar_foldl {α : Type} {f : State → α → State} {home : Home} (h : ∀ s a, (f s a).obar home = s.obar home) (l : List α)
    (s : State) : (l.foldl f s).obar home = s.obar home := by
  induction l generalizing s with
  | nil => rfl
  | cons a l ih => exact (ih _).trans (h s a)

/-- The records of the superstep hold what the object was; the object stays as it is (R104). -/
theorem obar_noteBarrier (s : State) (noted home : Home) : (s.noteBarrier noted).obar home = s.obar home :=
  obar_foldl (fun t m => obar_modCore t m _ home) _ s

/-- The state after an arrival for the generation of the object: HAVE counts it, or the arrival that makes NEED complete ends the
generation. -/
def arrival (s : State) (home : Home) : State :=
  let o := s.obar home
  let n := s.noteBarrier home
  if max o.need 1 ≤ o.have_ + 1 then n.putObar home { o with have_ := 0, gen := (o.gen + 1) % 2 ^ 32 }
  else n.putObar home { o with have_ := o.have_ + 1 }

theorem objArrive_counts {s : State} {home : Home} {g : Nat} (h : g = (s.obar home).gen) :
    (s.noteBarrier home).objArrive home g = (true, arrival s home) := by
  simp only [State.objArrive, obar_noteBarrier, h, bne_self_eq_false, Bool.false_eq_true, if_false, arrival]
  split <;> rfl

theorem objArrive_stale {s : State} {home : Home} {g : Nat} (h : g ≠ (s.obar home).gen) :
    (s.noteBarrier home).objArrive home g = (false, s.noteBarrier home) := by
  simp only [State.objArrive, obar_noteBarrier, bne_iff_ne.2 h, if_true]

/-! ## The arrival and the wait (R274 steps 2 and 3) -/

/-- The context that issues waits for a generation of a barrier object, and xd takes the next one when it is over. -/
def awaiting (s : State) (index g : Nat) (d : BitVec 5) : State :=
  s.modCur (fun x => { x.setBar (some ⟨false, index, g, d.toNat, false⟩) with wait := some (.barObject index g) })

/-- A release of the barrier arms the gangs that waited for it (R193). -/
def armed (s : State) (home : Home) (index g : Nat) : State :=
  if (s.obar home).gen ≠ g then (s.stepGangs (s.ctxidOf s.cur.1) index g).foldl (fun s i => s.armStep i) s else s

section
variable {s : State} {e : Ent} {home : Home} {g : Nat} (d : BitVec 5)

theorem arriveObject_counts (h : g = (s.obar home).gen) :
    arriveObject e home g d.toNat false true s =
      .ok () (armed (awaiting (committed (arrival s home) true) e.index g d) home e.index g) := by
  rw [arriveObject, bind_get]
  simp only [if_true, objArrive_counts h, Bool.not_true]
  rw [M.bind_ok (trapIf_false _ _ _), bind_set, M.bind_ok (commitInstr_ok _ true)]
  simp only [armed, ← bne_iff_ne]
  rfl

theorem arriveObject_stale (h : g ≠ (s.obar home).gen) :
    arriveObject e home g d.toNat false true s =
      .error (.trap Cause.barStale (barEval e.index (s.obar home).gen) 0 0) s := by
  rw [arriveObject, bind_get]
  simp only [if_true, objArrive_stale h, obar_noteBarrier, Bool.not_false]
  exact M.bind_error (trapIf_true _ _ _)

end

/-! ## An object of another device (R52, log entry 14) -/

section
variable {u : State} {a : Acc} {dev c n p o g : Nat} (d : BitVec 5)

/-- The state in which the access of the request is kept. -/
abbrev kept (u : State) (a : Acc) : State := u.modCur (fun x => { x with access := some a })

theorem arriveFar_sends (hu : starts u) (hset : settled u 3) (ht : starts (kept (u.release u.cur.1 3) a)) :
    let t := kept (u.release u.cur.1 3) a
    let tag := (t.newTag t.cur.1).1
    let v := (t.newTag t.cur.1).2
    arriveFar a dev c n p o g d.toNat u = .error (.wait (.remote tag))
      (v.sendRemote dev v.cur.1 v.cur.2 false true a.ent.index 0 (v.barMsg dev tag p o c n (some g))) := by
  rw [arriveFar, M.bind_ok (pendingTag_starts hu)]
  simp only [Option.isNone_none, if_true]
  rw [M.bind_ok (releaseAt_ok hset), keepAccess, bind_modify]
  exact M.bind_error (request_sends _ ht)

section
variable {tag : Nat} {r : Reply} (hu : u.curCtx.wait = some (.remote tag)) (hv : (kept u a).curCtx.wait = some (.remote tag))
  (hr : (kept u a).curCtx.replies.find? (fun q => q.tag == tag) = some r) (hop : r.op ≠ 0x4F)
include hu hv hr hop

theorem arriveFar_counts (hg : r.gen = g) :
    arriveFar a dev c n p o g d.toNat u =
      .ok () (awaiting (committed (replyTaken (kept u a) tag) true) a.ent.index g d) := by
  rw [arriveFar, M.bind_ok (pendingTag_waits hu)]
  simp only [Option.isNone_some, Bool.false_eq_true, if_false]
  rw [keepAccess, bind_modify, M.bind_ok (request_answered _ hv hr hop), bne_eq_false_iff_eq.2 hg,
    M.bind_ok (trapIf_false _ _ _), M.bind_ok (commitInstr_ok _ true)]
  rfl

theorem arriveFar_stale (hg : r.gen ≠ g) :
    arriveFar a dev c n p o g d.toNat u =
      .error (.trap Cause.barStale (barEval a.ent.index r.gen) 0 0) (replyTaken (kept u a) tag) := by
  rw [arriveFar, M.bind_ok (pendingTag_waits hu)]
  simp only [Option.isNone_some, Bool.false_eq_true, if_false]
  rw [keepAccess, bind_modify, M.bind_ok (request_answered _ hv hr hop), bne_iff_ne.2 hg]
  exact M.bind_error (trapIf_true _ _ _)

end
end

/-! ## The instruction -/

/-- A computation that goes on as another one does ends as it does. -/
theorem runInstr_congr {m k : M Unit} {s t : State} (h : m s = k t) : runInstr m s = runInstr k t := by
  simp only [runInstr, h]

theorem exec_barObject (d b : BitVec 5) (h : BitVec 4) (s : State) : exec (.barObject d b h) s = execBarObject d b h s := rfl

section
variable {s u : State} (d : BitVec 5) {b : BitVec 5} {h : BitVec 4} {a : Acc} (hb : (s.x b).toNat < 2 ^ 32) (hblock : BlockOk s)
  (hacc : barAccess (s.hreg h.toNat) (h == 0) (closed s) = .ok a u)
include hb hblock hacc

/-- `bar` on an object of this device releases at its scope and arrives. -/
theorem exec_barObject_here (hpeer : a.peer? = none) (hset : settled u (u.obar (a.homeAt 0)).scope) :
    exec (.barObject d b h) s = runInstr (arriveObject a.ent (a.homeAt 0) (s.x b).toNat d.toNat false true)
      (u.release u.cur.1 (u.obar (a.homeAt 0)).scope) := by
  refine (exec_barObject d b h s).trans (runInstr_congr ?_)
  rw [M.bind_ok (endBlock_ok hblock), M.bind_ok (needZeroB_ok _ hb), M.bind_ok hacc]
  simp only [hpeer]
  rw [bind_get, M.bind_ok (releaseAt_ok hset), Links.bits_bottom, Nat.mod_eq_of_lt hb]

/-- `bar` on an object of another device sends its arrival there. -/
theorem exec_barObject_far {dev c n p o : Nat} (hpeer : a.peer? = some (dev, c, n, p, o)) :
    exec (.barObject d b h) s = runInstr (arriveFar a dev c n p o (s.x b).toNat d.toNat) u := by
  refine (exec_barObject d b h s).trans (runInstr_congr ?_)
  rw [M.bind_ok (endBlock_ok hblock), M.bind_ok (needZeroB_ok _ hb), M.bind_ok hacc]
  simp only [hpeer]
  rw [Links.bits_bottom, Nat.mod_eq_of_lt hb]

end

/-! ## The end of the wait (R274 step 4) -/

section
variable {s : State} {w : BarWait} (he : w.event = false)
include he

theorem finishBar_here (hs : w.sstep = false) (hfar : s.objFar (s.ctxidOf s.cur.1) w.which = none)
    (hacq : acquirable s (s.objScope (s.ctxidOf s.cur.1) w.which)) :
    finishBar w s = .ok () (((s.acquire s.cur.1 (s.objScope (s.ctxidOf s.cur.1) w.which)).setX (BitVec.ofNat 5 w.xd)
      (word ((w.gen + 1) % 2 ^ 32))).modCur (fun x => { x.setBar none with wait := none })) := by
  have hover : barOver w s = .ok true s := by
    rw [barOver, bind_get]
    simp only [he, hfar, Bool.false_eq_true, if_false]
    rfl
  rw [finishBar, M.bind_ok hover]
  simp only [if_true]
  rw [bind_get]
  simp only [he, hs, Bool.false_eq_true, if_false]
  rw [M.bind_ok (acquireAt_ok hacq), M.bind_ok (writeX_ok _ _ _)]
  rfl

/-- GEN of an object of another device is still that of the wait: it is asked for again. -/
theorem finishBar_waits {dev c n p o tag : Nat} {r : Reply}
    (hfar : s.objFar (s.ctxidOf s.cur.1) w.which = some (dev, c, n, p, o)) (hw : s.curCtx.wait = some (.remote tag))
    (hr : s.curCtx.replies.find? (fun q => q.tag == tag) = some r) (hop : r.op ≠ 0x4F) (hg : r.gen = w.gen) :
    finishBar w s = .ok () ((replyTaken s tag).modCur (fun x => { x with wait := some (.barObject w.which w.gen) })) := by
  have hover : barOver w s = .ok false (replyTaken s tag) := by
    rw [barOver, bind_get]
    simp only [he, hfar, Bool.false_eq_true, if_false]
    rw [M.bind_ok (request_answered _ hw hr hop), hg, bne_self_eq_false]
    rfl
  rw [finishBar, M.bind_ok hover]
  simp only [Bool.false_eq_true, if_false, BarWait.wait, he]
  rfl

end

/-! ## An arrival from another device (R111, log entry 14) -/

section
variable {s : State} {ep : Nat} {m : Msg} (hop : m.op = 0x04) (haop : m.req.aop = barrierAop) (hopen : s.bankShut ep m = false)
include hop haop hopen

theorem serve_arrive : s.serve ep m = some (serveArrive ep m s) := by
  simp only [State.serve, hopen, hop, haop, Bool.false_eq_true, if_false, if_true]

variable {pl : Place} (hpl : s.placeOf ep m [rS] = .ok pl)
include hpl

theorem serve_readsGen (hread : bit (m.word 0) 32 = false) :
    s.serve ep m = some (s.answer ep m 0x43 [word (s.obar pl.home).gen] 0) := by
  rw [serve_arrive hop haop hopen]
  simp only [serveArrive, hpl, hread, Bool.false_eq_true, if_false]

/-- An arrival that does not end the generation of the object arms no gang. -/
theorem serve_countsArrival (harrive : bit (m.word 0) 32 = true) :
    let t := s.withColour m (fun s => (s.objArrive pl.home (bits (m.word 0) 31 0)).2)
    (t.obar pl.home).gen = (s.obar pl.home).gen →
    s.serve ep m = some (t.answer ep m 0x43 [word (s.obar pl.home).gen] 0) := by
  intro t hgen
  rw [serve_arrive hop haop hopen]
  simp only [serveArrive, hpl, harrive, if_true]
  rw [if_neg (by simpa using hgen)]

end

/-- Settles O31: the instruction ends its block, makes its access and arrives, here or at the home of another device, and each way
the arrival ends is its own case. -/
theorem objectBarrierResult : Obligations.ObjectBarrierResult := by
  refine ⟨fun s u d b h a hb hblock hacc => ⟨fun hpeer hset => ⟨fun hg => ?_, fun hg => ?_⟩, fun dev c n p o hpeer =>
    ⟨fun hu hset ht => ?_, fun tag r hu hv hr hop => ⟨fun hg => ?_, fun hg => ?_⟩⟩⟩,
    fun s w he hs => ⟨finishBar_here he hs, fun dev c n p o tag r => finishBar_waits he⟩,
    fun s ep m pl hop haop hopen hpl => ⟨serve_readsGen hop haop hopen hpl, serve_countsArrival hop haop hopen hpl⟩⟩
  · exact (exec_barObject_here d hb hblock hacc hpeer hset).trans (runInstr_ok (arriveObject_counts d hg))
  · exact (exec_barObject_here d hb hblock hacc hpeer hset).trans (runInstr_trap (arriveObject_stale d hg))
  · exact (exec_barObject_far d hb hblock hacc hpeer).trans (runInstr_wait (arriveFar_sends d hu hset ht))
  · exact (exec_barObject_far d hb hblock hacc hpeer).trans (runInstr_ok (arriveFar_counts d hu hv hr hop hg))
  · exact (exec_barObject_far d hb hblock hacc hpeer).trans (runInstr_trap (arriveFar_stale d hu hv hr hop hg))

end Sys2Proof.Proofs.Barriers
end

section
/-! PROOFS. The dispatcher: decisions and instances (R110, R113, R116), slices (R75, R115), and pre-emption (R119, R120, R123, R353). -/

namespace Sys2Proof.Proofs.Dispatching

open Sys2Proof.Machine Sys2Proof.Spec Sys2Proof.Proofs.Package Sys2Proof.Proofs.EventKept

section
variable (s : State)

theorem exec_dispatchDecision : exec .dispatchDecision s = execDispatchDecision s := rfl
theorem exec_gangStart : exec .gangStart s = execGangStart s := rfl
theorem exec_instanceComplete : exec .instanceComplete s = execInstanceComplete s := rfl
theorem exec_periodStart : exec .periodStart s = execPeriodStart s := rfl
theorem exec_sliceEnd : exec .sliceEnd s = execSliceEnd s := rfl
theorem exec_policyImageFault : exec .policyImageFault s = execPolicyImageFault s := rfl
theorem exec_preempt : exec .preempt s = execPreempt s := rfl
theorem exec_preemptTimeout : exec .preemptTimeout s = execPreemptTimeout s := rfl
theorem exec_resume : exec .resume s = execResume s := rfl
theorem exec_yieldPoint : exec .yieldPoint s = execYieldPoint s := rfl

end

/-! ## Decisions (R116 to R118, R121) -/

@[simp] theorem refreshProcs_ev (s : State) (part : Nat) : (s.refreshProcs part).ev = s.ev := rfl

@[simp] theorem lateReserved_ev (s : State) (part : Nat) : (lateReserved s part).ev = s.ev :=
  foldl_ev (f := fun t r => t.modPart part (fun p => { p with reserved := p.reserved ++ [r] })) (fun _ _ => rfl) _ s

/-- To pass packets over in the partition that the event names is to do so in that partition, since the event stays in place. -/
theorem foldl_passOver {s : State} {part : Nat} (h : s.ev.at_ = part) (keys : List Nat) :
    keys.foldl (fun s k => s.passOver s.ev.at_ k) s = keys.foldl (fun s k => s.passOver part k) s := by
  subst h
  induction keys generalizing s with
  | nil => rfl
  | cons k keys ih => exact ih (s := s.passOver s.ev.at_ k)

/-- The state in which a decision is made. -/
abbrev deciding (s : State) : State := lateReserved (s.refreshProcs s.ev.at_) s.ev.at_

theorem deciding_ev (s : State) : (deciding s).ev = s.ev := by simp

/-- What the choice of a decision does in a partition. -/
def chosen (part : Nat) (c : Option Choice) (t : State) : State := match c with
  | none => t
  | some (.go it slot) => t.startItem part it slot
  | some (.evict it slot) =>
    let u := t.modPart part (fun p => { p with reserved := p.reserved ++ [(it.key, slot)] })
    u.preemptAll ((u.victims part it slot).getD []) 0

/-- A decision does what it chooses in the state in which the packets before its choice have been passed over. -/
theorem dispatchDecision_does {s : State} {c : Option Choice} {missed : List Nat}
    (h : (deciding s).chooseItem s.ev.at_ = (c, missed)) :
    Answers .dispatchDecision s (chosen s.ev.at_ c (missed.foldl (fun s k => s.passOver s.ev.at_ k) (deciding s))) := by
  rw [foldl_passOver (congrArg Ev.at_ (deciding_ev s))]
  refine answers_runEvent (exec_dispatchDecision s) ?_
  unfold deciding lateReserved at *
  simp only [h]
  rfl

/-! ## How instances start (R110) -/

@[simp] theorem scrubFor_insts (s : State) (c ctxid : Nat) : (s.scrubFor c ctxid).insts = s.insts := by
  unfold State.scrubFor
  split <;> rfl

/-- A start is charged to the process in its partition alone. -/
theorem charge1_parts (s : State) (ctxid n : Nat) : ∃ parts, s.charge1 ctxid n = { s with parts := parts } := by
  unfold State.charge1
  split
  · exact ⟨s.parts, rfl⟩
  · exact ⟨_, rfl⟩

/-- Core `c` as the only member of a gang, the `y`-th of a node with no plan and no argument. -/
def soleMember (s : State) (t : Task) (n : Node) (y c : Nat) : Core :=
  let k := (s.scrubFor c t.ctxid).core c
  let seqs := if k.task = t.id then (k.jobSeq0, k.jobSeq1) else (1, 1)
  { k.released with
    task := t.id, inst := s.nextInst, gangIdx := 0, gangSize := 1, code := s.indexHandle t.ctxid n.code, plan := [], sstepG := 0,
    jobSeq0 := seqs.1, jobSeq1 := seqs.2, frames := [(0, false)], holder := t.ctxid }.setCtx 0
      (n.entryCtx y (s.svec t.ctxid) Handle.zero Handle.zero)

/-- The state in which the `y`-th gang of node `x` of a task stands on core `c` alone, before its start is charged. -/
def aloneOn (s : State) (t : Task) (n : Node) (x y c : Nat) : State :=
  let u := (s.scrubFor c t.ctxid).setCore c (soleMember s t n y c)
  { u with
    nextInst := s.nextInst + 1, tasks := u.tasks.put t.id { t with nodes := listSet t.nodes x { n with started := n.started + 1 } },
    insts := u.insts.put s.nextInst ⟨s.nextInst, t.id, x, y, [c], .running, [], 0, false, 0, 0, 0⟩ }

theorem toNat_word {c : Nat} (h : c < 2048) : (word c).toNat = c := by
  rw [word, BitVec.toNat_ofNat]
  omega

section
variable {s : State} {t : Task} {n : Node} {c : Nat} (ht : s.tasks.look s.ev.at_ = some t) (hn : t.nodes[s.ev.x]? = some n)
  (hlive : t.dead = none) (hnext : n.started = s.ev.y) (hwords : s.ev.words = [word c]) (hc : c < 2048) (hfree : s.coreFree c = true)
  (hplan : n.plan = 0) (harg : n.argh = 0)
include ht hn hlive hnext hwords hc hfree hplan harg

theorem gangStart_alone : Answers .gangStart s ((aloneOn s t n s.ev.x s.ev.y c).charge1 t.ctxid 1) := by
  have hbar : bits (0 : Word) 47 32 = 0 := by decide
  have hliving : t.dead.isSome = false := Option.isSome_eq_false_iff.2 (Option.isNone_iff_eq_none.2 hlive)
  have hnow : (n.started != s.ev.y) = false := bne_eq_false_iff_eq.2 hnext
  refine answers_runEvent (exec_gangStart s) ?_
  simp only [ht, hn, hliving, hnow, hwords, if_pos hplan, if_pos harg, List.map_cons, List.map_nil, toNat_word hc, List.all_cons,
    List.all_nil, hfree, List.getD_nil, hbar, Bool.and_self, Bool.not_true, Bool.or_self, Bool.false_eq_true, if_false, if_true]
  rfl

theorem gangStart_enters :
    ∃ u, Answers .gangStart s u ∧ (u.core c).inst = s.nextInst ∧ (u.core c).task = t.id ∧ (u.core c).gangIdx = 0 ∧
      (u.core c).gangSize = 1 ∧ (u.core c).code = s.indexHandle t.ctxid n.code ∧
      (u.core c).ctx 0 = n.entryCtx s.ev.y (s.svec t.ctxid) Handle.zero Handle.zero ∧
      u.insts = s.insts.put s.nextInst ⟨s.nextInst, t.id, s.ev.x, s.ev.y, [c], .running, [], 0, false, 0, 0, 0⟩ ∧
      u.nextInst = s.nextInst + 1 := by
  obtain ⟨parts, hcharge⟩ := charge1_parts (aloneOn s t n s.ev.x s.ev.y c) t.ctxid 1
  have hcore : ({ aloneOn s t n s.ev.x s.ev.y c with parts := parts } : State).core c = soleMember s t n s.ev.y c :=
    State.core_setCore_same (s.scrubFor c t.ctxid) c _
  refine ⟨_, gangStart_alone ht hn hlive hnext hwords hc hfree hplan harg, ?_⟩
  rw [hcharge, hcore]
  refine ⟨rfl, rfl, rfl, rfl, rfl, Core.ctx_setCtx_same _ 0 _ (by decide), ?_, rfl⟩
  simp [aloneOn]

end

/-! ## How instances and tasks end (R110, R113, R69) -/

section
variable {s : State} {i : Inst} {c : Nat} (hx : s.ev.x = 0) (hi : s.insts.look s.ev.at_ = some i) (hover : s.instOver i = true)
  (hcores : i.cores = [c])
include hx hi hover hcores

theorem instanceComplete_waits (hquiet : (s.release c (s.endScope i)).quiet c = false) :
    Answers .instanceComplete s (s.release c (s.endScope i)) := by
  refine answers_runEvent (exec_instanceComplete s) ?_
  simp only [hx, hi, hover, hcores, List.foldl_cons, List.foldl_nil, List.all_cons, List.all_nil, hquiet, Bool.and_true, Bool.not_true,
    Bool.not_false, Bool.false_eq_true, if_false, if_true]

theorem instanceComplete_counts (hquiet : (s.release c (s.endScope i)).quiet c = true) {t : Task} {n : Node}
    (ht : ((s.release c (s.endScope i)).freeCores [c]).tasks.look i.task = some t) (hn : t.nodes[i.node]? = some n) (hout : n.out = 0) :
    let u := (s.release c (s.endScope i)).freeCores [c]
    Answers .instanceComplete s ({ u with
      insts := u.insts.del i.id
      tasks := u.tasks.put t.id { t with
        nodes := listSet t.nodes i.node { n with done := n.done + 1, finished := n.done + 1 == n.count } } }.post .instanceComplete
          { Ev.zero with at_ := t.id, x := 2 }) := by
  have hnone : ((n.done + 1 == n.count) && n.out != 0) = false := by simp [hout]
  refine answers_runEvent (exec_instanceComplete s) ?_
  simp only [hx, hi, hover, hcores, List.foldl_cons, List.foldl_nil, List.all_cons, List.all_nil, hquiet, ht, hn, hnone, Bool.and_true,
    Bool.not_true, Bool.false_eq_true, if_false]
  rfl

end

theorem instanceComplete_endsTask {s : State} {t : Task} {q idx : Nat} (hx : s.ev.x = 2) (ht : s.tasks.look s.ev.at_ = some t)
    (howner : t.owner = .packet q idx) (hlive : t.dead = none) (hdone : t.nodes.all (fun n => n.finished) = true)
    (hchildren : t.children = 0) (hfault : t.childFault = none) (hstale : t.stale = false)
    (hleft : s.insts.any (fun i => i.2.task == t.id) = false) :
    Answers .instanceComplete s ({ s with tasks := s.tasks.del t.id }.post .packetComplete
      { Ev.zero with at_ := q, x := idx, y := 0, z := t.id }) := by
  have hend : s.endTask t = { s with tasks := s.tasks.del t.id }.over_ q idx 0 t.id := by
    simp only [State.endTask, hlive, hdone, hchildren, hleft, hfault, hstale, howner, Option.isSome_none, Bool.false_or, Bool.not_true,
      bne_self_eq_false, Bool.or_self, Bool.false_eq_true, if_false]
  refine answers_runEvent (exec_instanceComplete s) ?_
  simp only [hx, ht, hend]
  rfl

theorem instanceSteps : InstanceSteps :=
  ⟨fun _ => ⟨fun _ _ _ => dispatchDecision_does, fun _ _ _ => dispatchDecision_does, dispatchDecision_does⟩,
    fun _ _ _ _ => gangStart_enters, fun _ _ _ hx hi hover hcores => ⟨instanceComplete_waits hx hi hover hcores, fun hquiet _ _ =>
      instanceComplete_counts hx hi hover hcores hquiet⟩, fun _ _ _ _ => instanceComplete_endsTask⟩

/-! ## Slices (R75, R115) -/

/-- The image that a function uses from a period on: the one it pins now, if it pins one (R75). -/
def pinned (s : State) (m : NMap Nat) (v : Nat) : NMap Nat := match s.mon.pins.look v with
  | some n => m.put v n
  | none => m.del v

theorem pinned_eq (s : State) : pinned s = fun m v => ((s.mon.pins.look v).map (fun n => m.put v n)).getD (m.del v) := by
  funext m v
  unfold pinned
  cases s.mon.pins.look v <;> rfl

/-- The repins of the functions `vfs` take effect: their images are now `now`, and what they pin again has not faulted. -/
def repinned (s : State) (vfs : List Nat) (now : NMap Nat) : State :=
  { s with mon := { s.mon with
    policyNow := now
    policyBad := s.mon.policyBad.filter (fun v => !(vfs.contains v && s.mon.repinned.contains v))
    repinned := s.mon.repinned.filter (fun v => !vfs.contains v) } }

/-- The functions, among some, that have a slice in a period. -/
def sharing (s : State) (part : Nat) (vfs : List Nat) : List Nat :=
  vfs.filter (fun v => (s.runnableVfs part).contains v && s.share v != 0)

/-- The slices of the functions of a period, each as its function and its length. -/
def slices (s : State) (part : Nat) (vfs : List Nat) : List (Nat × Nat) :=
  vfs.map (fun v => (v, usCycles (s.periodUs part * s.share v / (vfs.map s.share).sum)))

/-- The first slice of a period runs, and the instances of functions without a share stop. -/
def slicing (s : State) (part : Nat) (vfs : List Nat) : State := match slices s part vfs with
  | [] => s
  | a :: t =>
    let u := s.modPart part (fun q => { (q.newSlice a.1 (max 1 (s.clk + a.2)) t) with inPeriod := vfs })
    u.preemptAll (u.runningOf part (fun v => u.share v == 0)) 1

theorem periodStart_does (s : State) :
    let vfs := (s.part s.ev.at_).procs.map (fun p => p.vf)
    let t := repinned s vfs (vfs.foldl (pinned s) s.mon.policyNow)
    Answers .periodStart s (slicing t s.ev.at_ (sharing t s.ev.at_ (List.range 513))) := by
  refine answers_runEvent (exec_periodStart s) ?_
  generalize List.range 513 = all
  rfl

/-- When nothing of a function without a share runs, the first slice alone begins. -/
theorem slicing_quiet {s : State} {part vf len : Nat} {vfs : List Nat} {rest : List (Nat × Nat)}
    (hslices : slices s part vfs = (vf, len) :: rest) (h : s.runningOf part (fun v => s.share v == 0) = []) :
    ((slicing s part vfs).part part).sliceVf = vf ∧ ((slicing s part vfs).part part).sliceEnd = max 1 (s.clk + len) ∧
      ((slicing s part vfs).part part).slicesLeft = rest ∧ ((slicing s part vfs).part part).inPeriod = vfs := by
  have hsame : ∀ f, (s.modPart part f).runningOf part (fun v => (s.modPart part f).share v == 0) = [] := fun _ => h
  have hslice : slicing s part vfs =
      s.modPart part (fun q => { (q.newSlice vf (max 1 (s.clk + len)) rest) with inPeriod := vfs }) := by
    simp only [slicing, hslices, hsame]
    rfl
  rw [hslice, State.part_modPart_same]
  exact ⟨rfl, rfl, rfl, rfl⟩

theorem policyImageFault_leaves {s : State} (h : s.mon.policyBad.contains s.ev.at_ = false) :
    Answers .policyImageFault s
      ({ s with mon := { s.mon with policyBad := s.mon.policyBad ++ [s.ev.at_] } }.raiseMonitor Cause.fwAssert) :=
  answers_runEvent (exec_policyImageFault s) (if_neg (by simpa using h))

section
variable {s : State}

theorem sliceEnd_idle_last (hidle : (s.runnableVfs s.ev.at_).contains (s.part s.ev.at_).sliceVf = false)
    (hlast : (s.part s.ev.at_).slicesLeft = []) :
    Answers .sliceEnd s (s.modPart s.ev.at_ (fun q => q.newSlice 0 0 [])) :=
  answers_runEvent (exec_sliceEnd s) (by simp only [hidle, hlast, Bool.not_false, if_true])

/-- A function with nothing left to run leaves the rest of its slice to the next one. -/
theorem sliceEnd_idle_next {a : Nat × Nat} {t : List (Nat × Nat)}
    (hidle : (s.runnableVfs s.ev.at_).contains (s.part s.ev.at_).sliceVf = false) (hnext : (s.part s.ev.at_).slicesLeft = a :: t) :
    Answers .sliceEnd s (s.modPart s.ev.at_ (fun q =>
      q.newSlice a.1 (max 1 (s.clk + a.2 + ((s.part s.ev.at_).sliceEnd - s.clk))) t)) :=
  answers_runEvent (exec_sliceEnd s) (by simp only [hidle, hnext, Bool.not_false, if_true])

/-- A function that alone has work carries on into the next slice. -/
theorem sliceEnd_alone {a : Nat × Nat} {t : List (Nat × Nat)}
    (hbusy : (s.runnableVfs s.ev.at_).contains (s.part s.ev.at_).sliceVf = true) (hnext : (s.part s.ev.at_).slicesLeft = a :: t)
    (halone : (s.part s.ev.at_).inPeriod.filter
      (fun v => v != (s.part s.ev.at_).sliceVf && (s.runnableVfs s.ev.at_).contains v) = []) :
    Answers .sliceEnd s
      (s.modPart s.ev.at_ (fun q => { q with sliceEnd := max 1 (s.clk + a.2), slicesLeft := t })) :=
  answers_runEvent (exec_sliceEnd s)
    (by simp only [hbusy, hnext, halone, Bool.not_true, Bool.false_eq_true, List.isEmpty_nil, if_false, if_true])

end

theorem sliceSteps : SliceSteps := by
  refine ⟨fun s vf len rest => ?_, fun s => ⟨sliceEnd_idle_last, fun a t => sliceEnd_alone, fun a t => sliceEnd_idle_next⟩,
    fun s => policyImageFault_leaves⟩
  have hperiod := periodStart_does s
  rw [pinned_eq] at hperiod
  exact fun hslices hnone => ⟨_, hperiod, slicing_quiet hslices hnone⟩

/-! ## What a core's withdrawn requests leave in place: the instances, and what the cores were told (R119) -/

/-- The instances are the same, and each core has been told to pre-empt or not as before. -/
structure SameRequests (s t : State) : Prop where
  insts : t.insts = s.insts
  preempt : ∀ c, (t.core c).preempt = (s.core c).preempt

namespace SameRequests

theorem refl (s : State) : SameRequests s s := ⟨rfl, fun _ => rfl⟩

theorem trans {s t u : State} (h : SameRequests s t) (k : SameRequests t u) : SameRequests s u :=
  ⟨k.insts.trans h.insts, fun c => (k.preempt c).trans (h.preempt c)⟩

/-- A change of neither cores nor instances. -/
theorem of_units {s t : State} (hi : t.insts = s.insts) (hc : t.cores = s.cores) : SameRequests s t :=
  ⟨hi, fun c => congrArg (fun m => (NMap.get m c Core.idle).preempt) hc⟩

theorem modCore (s : State) (c : Nat) {f : Core → Core} (h : (f (s.core c)).preempt = (s.core c).preempt) :
    SameRequests s (s.modCore c f) := by
  refine ⟨rfl, fun d => ?_⟩
  by_cases hd : d = c
  · rw [hd, State.core_modCore_same, h]
  · rw [State.core_modCore_other _ _ _ _ hd]

theorem foldl {α : Type} {f : State → α → State} (h : ∀ s a, SameRequests s (f s a)) (l : List α) (s : State) :
    SameRequests s (l.foldl f s) := by
  induction l generalizing s with
  | nil => exact refl s
  | cons a l ih => exact (h s a).trans (ih _)

end SameRequests

section
variable (s : State)

theorem audit_requests (kind src at_ : Nat) (addr : Word) : SameRequests s (s.audit kind src at_ addr) := by
  unfold State.audit
  split
  · exact .of_units rfl rfl
  · simp only
    split
    · exact .of_units rfl rfl
    · exact .of_units rfl rfl

theorem inject_requests (m : Msg) : SameRequests s (s.inject m) := by
  unfold State.inject
  split
  · exact audit_requests s _ _ _ _
  · simp only [State.stamp]
    split
    · exact .of_units rfl rfl
    · exact .of_units rfl rfl

theorem sendRemote_requests (dev core ctx : Nat) (load atomic : Bool) (handle off : Nat) (m : Msg) :
    SameRequests s (s.sendRemote dev core ctx load atomic handle off m) := by
  have hcount : ∀ b : Bool, SameRequests s (if b = true then s.countSent core else s) := fun b => by
    split
    · exact .modCore s core (f := fun k => { k with sent := (k.sent + 1) % 2 ^ 32 }) rfl
    · exact .refl s
  unfold State.sendRemote
  extract_lets p m1 held r t u
  have hsent : SameRequests s u := (hcount _).trans (.of_units rfl rfl)
  split
  · exact hsent
  · exact hsent.trans (inject_requests u _)

theorem cancelTakes_requests (c : Nat) : SameRequests s (s.cancelTakes c) := by
  unfold State.cancelTakes
  refine .foldl (fun t q => ?_) _ s
  exact sendRemote_requests t _ _ _ _ _ _ _ _

end

/-! ## The request to pre-empt (R119) -/

theorem look_map_if {α : Type} (m : NMap α) (p : Nat → Bool) (f : α → α) (k : Nat) :
    NMap.look (m.map (fun e => if p e.1 then (e.1, f e.2) else e)) k = (m.look k).map (fun v => if p k then f v else v) := by
  induction m with
  | nil => rfl
  | cons e m ih =>
    obtain ⟨j, v⟩ := e
    by_cases hj : j = k
    · subst hj
      cases hp : p j <;> simp [NMap.look, hp]
    · cases hp : p j <;> simp [NMap.look, hp, hj, ih]

/-- A core that a test picks is changed, if the device has it. -/
theorem core_mapCores {s : State} {p : Nat → Bool} {f : Core → Core} {c : Nat} (hp : p c = true) (hc : s.cores.look c ≠ none) :
    (s.mapCores p f).core c = f (s.core c) := by
  obtain ⟨k, hk⟩ := Option.ne_none_iff_exists'.1 hc
  simp [State.core, State.mapCores, NMap.get, look_map_if, hk, hp]

section
variable {s : State} {i : Inst} (next : Nat)

theorem askPreempt_tells {c : Nat} (hmember : i.cores.contains c = true) (hc : s.cores.look c ≠ none) :
    ((s.askPreempt i next).core c).preempt = true := by
  unfold State.askPreempt
  refine ((SameRequests.foldl cancelTakes_requests i.cores _).preempt c).trans ?_
  rw [core_mapCores hmember]
  exact hc

theorem askPreempt_insts : (s.askPreempt i next).insts = s.insts.put i.id { i with
    st := .preempting, images := (s.freeImages (s.instCtx i) i.cores.length).map (fun n => imageKey (s.instCtx i) n)
    reqTime := s.clk, next := next } := by
  unfold State.askPreempt
  exact (SameRequests.foldl cancelTakes_requests i.cores _).insts

end

section
variable {s : State} {i : Inst} (hi : s.insts.look s.ev.at_ = some i)
include hi

theorem preempt_saves (hx : s.ev.x = 9) (hready : s.saveReady i = true) : Answers .preempt s (s.saveInst i) :=
  answers_runEvent (exec_preempt s) (by simp only [hi, hx, hready, if_true])

theorem preempt_asks (hx : s.ev.x < 2) (hst : i.st = .running) (hruns : s.runOver i = false) (hsave : s.canSave i = true) :
    Answers .preempt s (s.askPreempt i 0) := by
  have h9 : s.ev.x ≠ 9 := by omega
  have h3 : s.ev.x ≠ 3 := by omega
  have h23 : ¬ (s.ev.x = 2 ∨ s.ev.x = 3) := by omega
  exact answers_runEvent (exec_preempt s)
    (by simp only [hi, hst, hruns, hsave, if_neg h9, if_neg h3, if_neg h23, Bool.not_true, Bool.or_self, Bool.false_eq_true, if_false])

theorem preemptTimeout_kills : Answers .preemptTimeout s
    ((s.notice (s.instCtx i) Cause.preempted (word i.task) 0xFFFF i.task).killTask i.task Cause.preempted) :=
  answers_runEvent (exec_preemptTimeout s) (by simp only [hi])

/-! ## The resume (R120, R124) -/

section
variable {t : Task} {c k : Nat} (hst : i.st = .saved) (ht : s.tasks.look i.task = some t) (hlive : t.dead = none)
  (hcopied : s.imageCopying i.id = false) (hslot : (s.slotsOf i).contains [c] = true) (himage : i.images = [k])
  (hwords : s.ev.words = [word c]) (hc : c < 2048) (hfree : s.coreFree c = true)
include hst ht hlive hcopied hslot himage hwords hc hfree

theorem resume_restores :
    let u := s.cutResumed i [c]
    let v := (u.restoreImage i [c] c (u.imageAt k)).dropImage k
    let lender := if i.donate = true then i.lender else 0
    Answers .resume s ({ v with insts := v.insts.put i.id { i with
      st := .running, cores := [c], images := [], donate := false, next := 0, lender := lender } }.charge1
        (if lender = 0 then v.instCtx i else lender) 1) := by
  refine answers_runEvent (exec_resume s) ?_
  simp only [hi, hst, ht, hlive, hcopied, himage, hwords, hfree, hslot, toNat_word hc, List.map_cons, List.map_nil, List.all_cons,
    List.all_nil, Option.isSome_none, bne_self_eq_false, Bool.and_self, Bool.not_true, Bool.or_self, Bool.false_eq_true, if_false,
    List.zip_cons_cons, List.zip_nil_right, List.foldl_cons, List.foldl_nil]
  rfl

end

end

/-! ## Yield points (R123) -/

theorem yieldPoint_asks {s : State} {i j : Inst} {rest : List Inst} {t : Task} {n : Node}
    (hpoint : (s.ctx s.ev.at_ s.ev.x).yieldPoint = true) (hi : s.insts.look (s.core s.ev.at_).inst = some i)
    (hlower : (s.instsOf i.task i.node).filter (fun j => j.st == .saved && decide (j.index < i.index)) = j :: rest)
    (ht : s.tasks.look i.task = some t) (hn : t.nodes[i.node]? = some n) (hst : i.st = .running) (hlive : t.dead = none)
    (hnone : s.freeSlot t.part (4 * j.id + 2) n.slots = none) :
    Answers .yieldPoint s (s.post .preempt { Ev.zero with at_ := i.id, x := 3, y := j.id }) :=
  answers_runEvent (exec_yieldPoint s)
    (by simp only [hpoint, hi, hlower, ht, hn, hst, hlive, hnone, Option.bind_some, Option.map_some, Option.isSome_none,
      bne_self_eq_false, Bool.or_self, Bool.not_true, Bool.false_eq_true, if_false])

theorem preemptSteps : PreemptSteps := by
  refine fun s i => ⟨preempt_saves, fun hi hx hst hruns hsave => ⟨preempt_asks hi hx hst hruns hsave, fun c => askPreempt_tells 0,
    askPreempt_insts 0⟩, preemptTimeout_kills, fun t c k hi hst ht hlive hcopied hslot himage hwords hc hfree => ?_,
    fun j rest t n => yieldPoint_asks⟩
  have hresume := resume_restores hi hst ht hlive hcopied hslot himage hwords hc hfree
  refine ⟨fun hown => ?_, fun hdonated hlender => ?_⟩
  · simpa only [hown, Bool.false_eq_true, if_false, if_true] using hresume
  · simpa only [hdonated, if_true, if_neg hlender] using hresume

/-- Settles O58: each event of the dispatcher runs its own case; what a decision passes over keeps the event, and what a request to
pre-empt withdraws keeps what the cores were told. -/
theorem dispatchEvents : Obligations.DispatchEvents := ⟨instanceSteps, sliceSteps, preemptSteps⟩

end Sys2Proof.Proofs.Dispatching
end

section
/-! PROOFS. A step: the event that is due, or the word that a context fetches at its turn (R127, R212). -/

namespace Sys2Proof.Proofs.Stepping

open Sys2Proof.Machine Sys2Proof.Spec

/-! ## What a change of a context keeps -/

/-- A change that keeps the repeat frame of a context, whatever its number. -/
theorem rpt_modCtx (s : State) (c i : Nat) {f : Ctx → Ctx} (h : ∀ x, (f x).rpt = x.rpt) :
    ((s.modCtx c i f).ctx c i).rpt = (s.ctx c i).rpt := by
  by_cases hi : i < 11
  · rw [State.modCtx, State.ctx_setCtx_same _ _ _ _ hi, h]
  · simp [State.modCtx, State.setCtx, State.ctx, Core.setCtx, Core.ctx, hi]

theorem rpt_fetched (x : Ctx) : x.fetched.rpt = x.rpt := by
  unfold Ctx.fetched
  split <;> rfl

theorem rpt_unblock (x : Ctx) : x.unblock.rpt = x.rpt := by
  unfold Ctx.unblock
  split <;> rfl

theorem rpt_sigWord (x : Ctx) (w : IWord) : (x.sigWord w).rpt = x.rpt := by
  unfold Ctx.sigWord
  split <;> rfl

theorem rpt_hashWord (x : Ctx) (w : IWord) : (x.hashWord w).rpt = x.rpt := by
  unfold Ctx.hashWord
  split
  · exact rpt_sigWord x w
  · exact rpt_sigWord x w
  · rfl

/-! ## The choice of the step (log entry 1) -/

section
variable {s : State} {c i : Nat}

theorem step_of_pick_run {x : Instr} {t : State} (h : s.pick = .run x t) : step s = exec x t.tick := by
  rw [step, h]

theorem pick_event {x : Instr} {e : Ev} {l : List (Instr × Ev)} (h : s.agenda = (x, e) :: l) :
    s.pick = .run x { s with agenda := l, ev := e } := by
  rw [State.pick, h]

theorem pick_context (hagenda : s.agenda = []) (hdram : s.dramReady = []) (hunits : s.engineTurn = false)
    (hnext : s.nextCtx? = some (c, i)) : s.pick = s.turn c i := by
  simp [State.pick, State.contextTurn, hagenda, hdram, hunits, hnext]

/-! ## The turn (R127, R131, R346, R350) -/

theorem core_turned (s : State) (c i : Nat) : (turned s c i).core c = { s.core c with lastCtx := i } :=
  State.core_modCore_same s c (fun k => { k with lastCtx := i })

theorem ctx_turned (s : State) (c i : Nat) : (turned s c i).ctx c i = s.ctx c i := by
  rw [State.ctx, core_turned]
  rfl

theorem ctx_useFrame (s : State) (c n i : Nat) : (s.useFrame c n).ctx c i = s.ctx c i := by
  rw [State.ctx, State.useFrame, State.core_modCore_same]
  rfl

theorem ctx_onTurn (s : State) (c i : Nat) : (onTurn s c i).ctx c i = s.ctx c i :=
  (ctx_useFrame _ c _ i).trans (ctx_turned s c i)

/-- A context with nothing to take first, its frame cached, goes on to fetch its word. -/
theorem turn_fetches (htrap : (s.ctx c i).trapPend = none) (hbar : (s.ctx c i).bar? = none) (hrpt : (s.ctx c i).rpt = none)
    (hnotice : i = 0 → (turned s c i).noticeDue c = none)
    (hframe : (s.core c).frames.any (fun f => f.1 == (turned s c i).frameNo) = true) :
    s.turn c i = (onTurn s c i).fetchTurn c i := by
  unfold State.turn
  extract_lets last _ u x n
  have hx : x = s.ctx c i := ctx_turned s c i
  have hnone : ¬ (i = 0 ∧ (u.noticeDue c).isSome = true) := fun h =>
    absurd h.2 (by rw [show u.noticeDue c = none from hnotice h.1]; exact Bool.false_ne_true)
  have hcached : (u.core c).frames.any (fun f => f.1 == n) = true := by
    rw [show u.core c = _ from core_turned s c i]
    exact hframe
  rw [if_neg (by rw [hx, htrap]; exact Bool.false_ne_true), if_neg hnone, if_neg (by rw [hcached]; exact Bool.false_ne_true)]
  simp only [hx, hbar, hrpt]
  rfl

end

/-! ## The fetched word (R106, R139, R212) -/

section
variable {s t : State} {c i : Nat} {w : IWord}

theorem fetchTurn_got (hwait : ∀ g, (s.ctx c i).wait ≠ some (.fetch g)) (hbuf : (s.ctx c i).ibuf = none)
    (hopen : (s.core c).wq.any (fun w => w.sup) = true → s.queueShut c (fun _ => true) = none)
    (hfetch : (s.drainTables c).fetch c i = (.got w, t)) :
    s.fetchTurn c i = (t.modCtx c i Ctx.fetched).withWord c i w := by
  have hshut : ((s.core c).wq.any (fun w => w.sup) && (s.queueShut c (fun _ => true)).isSome) = false := by
    cases hsup : (s.core c).wq.any (fun w => w.sup)
    · rfl
    · rw [hopen hsup]
      rfl
  have hbuffered : (s.ctx c i).buffered = none := by rw [Ctx.buffered, hbuf]
  -- `hwait` leaves the case of the fetch that asks no other device
  simp only [State.fetchTurn, hbuffered, hshut, Bool.false_eq_true, if_false, hfetch]

/-- Outside a repeat frame a word that decodes is run. -/
theorem withWord_runs {x : Instr} (hrpt : (s.ctx c i).rpt = none) (hdec : decode w = some x) :
    s.withWord c i w = .run x ((s.modCtx c i (fun x => (x.hashWord w).unblock)).modCore c Core.stepping) := by
  have hframe : ((s.modCtx c i (fun x => (x.hashWord w).unblock)).ctx c i).rpt = none :=
    (rpt_modCtx s c i (fun x => (rpt_unblock _).trans (rpt_hashWord x w))).trans hrpt
  simp only [State.withWord, hframe, State.runWord, hdec]

end

/-- Settles O2: the choice falls on the context, whose turn goes on to the fetch, and the fetched word is run; an event that is due is
chosen before anything else. -/
theorem stepRunsDecodedInstruction : Obligations.StepRunsDecodedInstruction := by
  refine ⟨fun s t c i w x hagenda hdram hunits hnext htrap hbar hrpt hwait hbuf hnotice hframe hopen hfetch hrptT hdec => ?_,
    fun s i e l h => step_of_pick_run (pick_event h)⟩
  have hgot : (onTurn s c i).fetchTurn c i = (t.modCtx c i Ctx.fetched).withWord c i w :=
    fetchTurn_got (by rwa [ctx_onTurn]) (by rwa [ctx_onTurn]) hopen hfetch
  have hruns := withWord_runs (s := t.modCtx c i Ctx.fetched) ((rpt_modCtx t c i rpt_fetched).trans hrptT) hdec
  exact step_of_pick_run ((pick_context hagenda hdram hunits hnext).trans
    ((turn_fetches htrap hbar hrpt hnotice hframe).trans (hgot.trans hruns)))

end Sys2Proof.Proofs.Stepping
end

section
/-! PROOFS. The event unit of a cluster (R141 to R144, R272 to R275): event lines, barriers, mutexes. -/

namespace Sys2Proof.Proofs.EventUnit

open Sys2Proof.Machine Sys2Proof.Spec Sys2Proof.Proofs.Sync

/-! ## Shared steps -/

section
variable {s : State}

theorem needZeroA_ok (i : Instr) {v : Word} {hi : Nat} (h : v.toNat < 2 ^ (hi + 1)) : needZeroA i v hi s = .ok () s :=
  congrFun (if_pos (Nat.div_eq_of_lt h)) s

/-- The low bits of a word that has no others are the word. -/
theorem bits_all {v : Word} {hi : Nat} (h : v.toNat < 2 ^ (hi + 1)) : bits v hi 0 = v.toNat := by
  rw [Links.bits_bottom, Nat.mod_eq_of_lt h]

theorem ofChange_ok {r : Except Bad State} {t : State} (h : r = .ok t) : ofChange r s = .ok () t := by
  rw [h]
  rfl

theorem ofChange_error {r : Except Bad State} {cause : Nat} {v : Word} (h : r = .error (Bad.of cause v)) :
    ofChange r s = .error (.trap cause v 0 0) s := by
  rw [h]
  rfl

/-- The state after the release at cluster scope that comes before an effect on the event unit. -/
abbrev releasedHere (s : State) : State := s.release s.cur.1 1

theorem signalLine_ok (l v : Nat) (h : settled s 1) :
    signalLine l v s = .ok () (committed ((releasedHere s).signal (releasedHere s).cur.1 l v) false) := by
  rw [signalLine, M.bind_ok (releaseAt_ok h), bind_modify, commitInstr_ok]

end

/-! ## Event lines (R141, R142, R272, R273) -/

section
variable {s : State} (d : BitVec 5) {a : BitVec 5} (ha : (s.x a).toNat < 32)
include ha

theorem wait_pending (hpend : (s.line s.cur.1 (s.x a).toNat).pend = true) :
    let t := (s.setLine s.cur.1 (s.x a).toNat ELine.zero).takeValue (s.x a).toNat d.toNat (s.line s.cur.1 (s.x a).toNat).value
    acquirable t 1 → Answers (.wait d a) s (t.acquire t.cur.1 1) := by
  intro t hacq
  refine runInstr_ok (s := s) ?_
  rw [M.bind_ok (needZeroA_ok _ ha)]
  simp only [bits_all (hi := 4) ha, hpend, Bool.not_true]
  rw [M.bind_ok (waitIf_false _ _), bind_modify]
  exact acquireAt_ok hacq

theorem wait_notPending (hpend : (s.line s.cur.1 (s.x a).toNat).pend = false) :
    Answers (.wait d a) s (waiting s (.line (s.x a).toNat d.toNat)) := by
  refine runInstr_wait (s := s) ?_
  rw [M.bind_ok (needZeroA_ok _ ha)]
  simp only [bits_all (hi := 4) ha, hpend, Bool.not_false]
  exact M.bind_error (waitIf_true _ _)

theorem evsig_signals (b : BitVec 5) (hblock : BlockOk s) (hset : settled (closed s) 1) :
    let t := releasedHere (closed s)
    Answers (.evsig a b) s (committed (t.signal t.cur.1 (s.x a).toNat ((s.x b).toNat % 2 ^ 32)) false) := by
  refine runInstr_ok (s := s) ?_
  rw [M.bind_ok (endBlock_ok hblock), M.bind_ok (needZeroA_ok _ ha), bits_all (hi := 4) ha, Links.bits_bottom,
    signalLine_ok _ _ hset]

end

/-- Doubleword `l` of the event window passes the checks of a local store. -/
theorem localCheck_line {l : Nat} (h : l < 32) : localCheck (0x200000 + 8 * (l : Int)) 8 = .ok () := by
  have hoff : (0x200000 + 8 * (l : Int)).toNat = 0x200000 + 8 * l := by omega
  have hin : ¬ ((0x200000 + 8 * (l : Int) < 0 || 0x201000 < 0x200000 + 8 * (l : Int) + (8 : Nat)) = true) := by
    simp only [Bool.or_eq_true, decide_eq_true_eq]
    omega
  have halign : ¬ (((0x200000 + 8 * (l : Int)).toNat % 8 != 0) = true) := by
    rw [hoff, bne_iff_ne]
    omega
  rw [localCheck, if_neg hin, if_neg halign, if_pos (by omega), if_pos rfl]

theorem std_signals {s : State} {d a : BitVec 5} {o : BitVec 9} {l : Nat} (hl : l < 32)
    (hoff : effective s a o 8 = 0x200000 + 8 * (l : Int)) (hblock : BlockOk s) (hset : settled (closed s) 1) :
    let t := releasedHere (closed s)
    Answers (.std d a 0 o) s (committed (t.signal t.cur.1 l ((s.x d).toNat % 2 ^ 32)) false) := by
  have heff : s.effOff a o 8 = 0x200000 + 8 * (l : Int) := hoff
  have hnat : (0x200000 + 8 * (l : Int)).toNat = 0x200000 + 8 * l := by omega
  have hline : (0x200000 + 8 * l - 0x200000) / 8 = l := by omega
  refine runInstr_ok (s := s) ?_
  rw [storeBytes, if_pos rfl, heff, storeLocal, localCheck_line hl]
  change (if 0x200000 ≤ (0x200000 + 8 * (l : Int)).toNat then
    storeEvent (.std d a 0 o) ((0x200000 + 8 * (l : Int)).toNat - 0x200000) (s.x d) else _) s = _
  rw [hnat, if_pos (by omega), storeEvent, if_pos (by omega), M.bind_ok (endBlock_ok hblock), hline, Links.bits_bottom,
    signalLine_ok _ _ hset]

theorem eventLineResult : EventLineResult :=
  ⟨fun _ d _ ha => ⟨wait_pending d ha, wait_notPending d ha⟩, fun _ _ b ha => evsig_signals ha b,
    fun _ _ _ _ _ hl hoff => std_signals hl hoff⟩

/-! ## Barriers (R143, R274) -/

/-- The state after an arrival of the context that issues at barrier `n` of its cluster, for the barrier's generation: the arrival
that makes the number complete ends the generation. -/
def arrivedAt (t : State) (n : Nat) : State :=
  let e := t.ebar (t.cur.1 / 8) n
  let arrived := e.arrived ++ [t.cur]
  if max e.need 1 ≤ arrived.length then (t.wakePause (t.cur.1 / 8)).setEbar (t.cur.1 / 8) n ⟨(e.gen + 1) % 256, e.need, []⟩
  else t.setEbar (t.cur.1 / 8) n { e with arrived := arrived }

section
variable {t : State} {n g : Nat}

theorem barArrive_counts (hg : g = (t.ebar (t.cur.1 / 8) n).gen)
    (hnew : (t.ebar (t.cur.1 / 8) n).arrived.contains t.cur = false) :
    t.barArrive t.cur.1 t.cur.2 n g = .ok (arrivedAt t n) := by
  simp only [State.barArrive, hg, bne_self_eq_false, hnew, Bool.false_eq_true, if_false, arrivedAt]
  split <;> rfl

theorem barArrive_stale (hg : g ≠ (t.ebar (t.cur.1 / 8) n).gen) :
    t.barArrive t.cur.1 t.cur.2 n g = .error (Bad.of Cause.barStale (unitEval n (t.ebar (t.cur.1 / 8) n).gen)) := by
  simp only [State.barArrive, bne_iff_ne.2 hg, if_true]

theorem barArrive_twice (hg : g = (t.ebar (t.cur.1 / 8) n).gen)
    (hthere : (t.ebar (t.cur.1 / 8) n).arrived.contains t.cur = true) :
    t.barArrive t.cur.1 t.cur.2 n g = .error (Bad.of Cause.barOverrun (unitEval n (t.ebar (t.cur.1 / 8) n).gen)) := by
  simp only [State.barArrive, hg, bne_self_eq_false, hthere, Bool.false_eq_true, if_false, if_true]

end

section
variable {s : State} {n g : Nat} (h : settled s 1)
include h

theorem arriveEvent_counts {t : State}
    (hr : (releasedHere s).barArrive (releasedHere s).cur.1 (releasedHere s).cur.2 n g = .ok t) :
    arriveEvent n g s = .ok () (committed t true) := by
  rw [arriveEvent, M.bind_ok (releaseAt_ok h), bind_get, M.bind_ok (ofChange_ok hr), commitInstr_ok]

theorem arriveEvent_raises {cause : Nat} {v : Word}
    (hr : (releasedHere s).barArrive (releasedHere s).cur.1 (releasedHere s).cur.2 n g = .error (Bad.of cause v)) :
    arriveEvent n g s = .error (.trap cause v 0 0) (releasedHere s) := by
  rw [arriveEvent, M.bind_ok (releaseAt_ok h), bind_get, M.bind_error (ofChange_error hr)]

end

section
variable {s : State} (d : BitVec 5) {a b : BitVec 5} (ha : (s.x a).toNat < 16) (hb : (s.x b).toNat < 256) (hblock : BlockOk s)
include ha hb hblock

/-- The event form of `bar` closes its block, arrives, and waits for the generation. -/
theorem exec_barEvent : exec (.barEvent d a b) s = runInstr (do
    arriveEvent (s.x a).toNat (s.x b).toNat
    awaitBar ⟨true, (s.x a).toNat, (s.x b).toNat, d.toNat, false⟩) (closed s) := by
  refine Barriers.runInstr_congr (t := closed s) ?_
  rw [M.bind_ok (endBlock_ok hblock), M.bind_ok (needZeroA_ok _ ha), M.bind_ok (needZeroB_ok _ hb)]
  simp only [bits_all (hi := 3) ha, bits_all (hi := 7) hb]

end

theorem eventBarrierResult : EventBarrierResult := by
  intro s d a b ha hb hblock hset
  refine ⟨fun hg hnew => ?_, fun hg => ?_, fun hg hthere => ?_⟩
  · refine (exec_barEvent d ha hb hblock).trans (runInstr_ok ?_)
    rw [M.bind_ok (arriveEvent_counts hset (barArrive_counts hg hnew))]
    rfl
  · exact (exec_barEvent d ha hb hblock).trans (runInstr_trap (M.bind_error (arriveEvent_raises hset (barArrive_stale hg))))
  · exact (exec_barEvent d ha hb hblock).trans
      (runInstr_trap (M.bind_error (arriveEvent_raises hset (barArrive_twice hg hthere))))

/-- Settles O36: a line takes or gives its value, and an arrival counts or raises what it finds, each after the release. -/
theorem eventUnitResult : Obligations.EventUnitResult := ⟨eventLineResult, eventBarrierResult⟩

/-! ## Mutexes (R144, R275) -/

theorem put_put {α : Type} (m : NMap α) (k : Nat) (v w : α) : (m.put k v).put k w = m.put k w := by
  induction m with
  | nil => simp [NMap.put]
  | cons p l ih =>
    obtain ⟨j, u⟩ := p
    by_cases hj : j = k
    · simp [NMap.put, hj]
    · by_cases hk : k < j
      · simp [NMap.put, hj, hk]
      · simp [NMap.put, hj, hk, ih]

section
variable (s : State) (cl m : Nat)

theorem mutex_setMutex (v : Mutex) : (s.setMutex cl m v).mutex cl m = v := by
  rw [State.mutex, State.setMutex, State.cluster_modCluster_same]
  exact NMap.get_put_same _ m v Mutex.zero

theorem core_setMutex (v : Mutex) (c : Nat) : (s.setMutex cl m v).core c = s.core c := rfl

/-- The last of two writes of a mutex stands. -/
theorem setMutex_setMutex (v w : Mutex) : (s.setMutex cl m v).setMutex cl m w = s.setMutex cl m w := by
  simp only [State.setMutex, State.modCluster, State.cluster, NMap.get_put_same, put_put]

/-! ### What the end of a block keeps (R106) -/

theorem mutex_closed : (closed s).mutex cl m = s.mutex cl m := by
  unfold closed
  split <;> rfl

theorem cur_closed : (closed s).cur = s.cur := by
  unfold closed
  split <;> rfl

theorem gangIdx_closed : (closed s).curCore.gangIdx = s.curCore.gangIdx := by
  unfold closed
  split
  · rw [State.curCore_modCur]
    rfl
  · rfl

end

/-! ### `lock` (R275) -/

section
variable {s : State} {a : BitVec 5} (ha : (s.x a).toNat < 16) (hblock : BlockOk s)
include ha hblock

theorem lock_own (hown : (s.mutex (s.cur.1 / 8) (s.x a).toNat).ownedBy s.curCore s.cur.2 = true) :
    Answers (.lock a) s (raised (closed s) Cause.deadlockSelf (unitEval (s.x a).toNat 0)) := by
  refine runInstr_trap (s := s) (t := closed s) ?_
  rw [M.bind_ok (endBlock_ok hblock), M.bind_ok (needZeroA_ok _ ha)]
  simp only [bits_all (hi := 3) ha, hown]
  exact M.bind_error (trapIf_true _ _ _)

theorem lock_free (hfree : (s.mutex (s.cur.1 / 8) (s.x a).toNat).held = false) :
    let u := (closed s).setMutex (s.cur.1 / 8) (s.x a).toNat (Mutex.own (closed s).curCore s.cur.2 [])
    acquirable u 1 → Answers (.lock a) s (committed (u.acquire u.cur.1 1) true) := by
  intro u hacq
  refine runInstr_ok (s := s) ?_
  rw [M.bind_ok (endBlock_ok hblock), M.bind_ok (needZeroA_ok _ ha)]
  simp only [bits_all (hi := 3) ha, Mutex.ownedBy, hfree, Bool.false_and, Bool.false_eq_true, if_false]
  rw [M.bind_ok (trapIf_false _ _ _), bind_modify, M.bind_ok (acquireAt_ok hacq), commitInstr_ok]

/-- A context that waits for a mutex whose owner runs donates nothing (R124). -/
theorem lock_waits (hheld : (s.mutex (s.cur.1 / 8) (s.x a).toNat).held = true)
    (hother : (s.mutex (s.cur.1 / 8) (s.x a).toNat).ownedBy s.curCore s.cur.2 = false)
    (hnew : (s.mutex (s.cur.1 / 8) (s.x a).toNat).waiters.contains s.cur = false)
    (hruns : ∀ o, (closed s).insts.look (s.mutex (s.cur.1 / 8) (s.x a).toNat).owner = some o → o.st ≠ .saved) :
    Answers (.lock a) s (waiting ((closed s).setMutex (s.cur.1 / 8) (s.x a).toNat
      { s.mutex (s.cur.1 / 8) (s.x a).toNat with waiters := (s.mutex (s.cur.1 / 8) (s.x a).toNat).waiters ++ [s.cur] })
        (.mutex (s.x a).toNat)) := by
  refine runInstr_wait (s := s) ?_
  rw [M.bind_ok (endBlock_ok hblock), M.bind_ok (needZeroA_ok _ ha), bits_all (hi := 3) ha]
  refine (M.bind_ok (a := ()) (t := closed s) ?_).trans ?_
  · rw [hother, trapIf_false]
  rw [if_pos hheld, if_neg (by rw [hnew]; exact Bool.false_ne_true), bind_modify]
  refine congrArg (EStateM.Result.error (Stop.wait (.mutex (s.x a).toNat))) ?_
  extract_lets t
  split
  · next o h => exact if_neg (by simpa using hruns o h)
  · rfl

end

/-! ### `unlock` (R144, R275) -/

section
variable {t : State} {m : Nat}

theorem unlock_notOwner (h : (t.mutex (t.cur.1 / 8) m).ownedBy (t.core t.cur.1) t.cur.2 = false) :
    t.unlock t.cur.1 t.cur.2 m = .error (Bad.of Cause.mutexOwner (unitEval m 0)) := by
  simp only [State.unlock, h, Bool.not_false, if_true]

section
variable (h : (t.mutex (t.cur.1 / 8) m).ownedBy (t.core t.cur.1) t.cur.2 = true)
include h

theorem unlock_frees (hnone : (t.mutex (t.cur.1 / 8) m).waiters = []) :
    t.unlock t.cur.1 t.cur.2 m = .ok ((t.wakePause (t.cur.1 / 8)).setMutex (t.cur.1 / 8) m Mutex.zero) := by
  simp only [State.unlock, h, Bool.not_true, Bool.false_eq_true, if_false, hnone, State.grantMutex, mutex_setMutex]
  rfl

/-- The oldest waiter gets the mutex, and its `lock` commits. -/
theorem unlock_handsOver {q : Nat × Nat} {rest : List (Nat × Nat)} (hq : (t.mutex (t.cur.1 / 8) m).waiters = q :: rest) :
    let w := t.wakePause (t.cur.1 / 8)
    t.unlock t.cur.1 t.cur.2 m = .ok ((w.setMutex (t.cur.1 / 8) m (Mutex.own (w.core q.1) q.2 rest)).asCtx q.1 q.2
      (fun s => (s.modCur (fun x => { x with wait := none })).commit)) := by
  simp only [State.unlock, h, Bool.not_true, Bool.false_eq_true, if_false, hq, State.grantMutex, mutex_setMutex, setMutex_setMutex,
    Mutex.zero, core_setMutex]

end
end

section
variable {s : State} {a : BitVec 5} (ha : (s.x a).toNat < 16) (hblock : BlockOk s) (hset : settled (closed s) 1)
include ha hblock hset

theorem unlock_ok {t : State}
    (h : (releasedHere (closed s)).unlock (releasedHere (closed s)).cur.1 (releasedHere (closed s)).cur.2 (s.x a).toNat = .ok t) :
    Answers (.unlock a) s (committed t true) := by
  refine runInstr_ok (s := s) ?_
  rw [M.bind_ok (endBlock_ok hblock), M.bind_ok (needZeroA_ok _ ha), bits_all (hi := 3) ha, unlockMutex,
    M.bind_ok (releaseAt_ok hset), bind_get, M.bind_ok (ofChange_ok h), commitInstr_ok]

theorem unlock_raises {cause : Nat} {v : Word}
    (h : (releasedHere (closed s)).unlock (releasedHere (closed s)).cur.1 (releasedHere (closed s)).cur.2 (s.x a).toNat =
      .error (Bad.of cause v)) :
    Answers (.unlock a) s (raised (releasedHere (closed s)) cause v) := by
  refine runInstr_trap (s := s) ?_
  rw [M.bind_ok (endBlock_ok hblock), M.bind_ok (needZeroA_ok _ ha), bits_all (hi := 3) ha, unlockMutex,
    M.bind_ok (releaseAt_ok hset), bind_get, M.bind_error (ofChange_error h)]

end

theorem ownedBy_iff (x : Mutex) (k : Core) (i : Nat) : x.ownedBy k i = true ↔ x.held = true ∧ x.gang = k.gangIdx ∧ x.ctx = i := by
  simp [Mutex.ownedBy, and_assoc]

theorem unitEval_zero (m : Nat) : unitEval m 0 = word m := by rw [unitEval, Nat.zero_mul, Nat.zero_add]

/-- Settles O32: `lock` and `unlock` end their block and take the case that the mutex stands in. -/
theorem mutexResult : Obligations.MutexResult := by
  refine ⟨fun s a ha hblock => ?_, fun s a ha hblock hset => ?_, fun s => rfl⟩
  · have hgang := gangIdx_closed s
    simp only [mutex_closed, ← unitEval_zero]
    refine ⟨lock_free ha hblock, fun hheld hown hctx => lock_own ha hblock ((ownedBy_iff _ _ _).2 ⟨hheld, hown.trans hgang, hctx⟩),
      fun hheld hother => lock_waits ha hblock hheld (Bool.eq_false_iff.2 fun h => ?_)⟩
    obtain ⟨_, hown, hctx⟩ := (ownedBy_iff _ _ _).1 h
    exact hother ⟨hown.trans hgang.symm, hctx⟩
  · refine ⟨fun hheld hgang hctx => ?_, fun hother => ?_⟩
    · have hown := (ownedBy_iff _ _ _).2 ⟨hheld, hgang, hctx⟩
      exact ⟨fun hnone => unlock_ok ha hblock hset (unlock_frees hown hnone),
        fun q rest hq => unlock_ok ha hblock hset (unlock_handsOver hown hq)⟩
    · have hnot := Bool.eq_false_iff.2 (fun h => hother ((ownedBy_iff _ _ _).1 h))
      exact (unlock_raises ha hblock hset (unlock_notOwner hnot)).trans (by rw [unitEval_zero])

end Sys2Proof.Proofs.EventUnit
end

section
/-! PROOFS. Regions, repeat frames and helpers (R133, R136, R221, R283 to R287). -/

namespace Sys2Proof.Proofs.Control

open Sys2Proof.Machine Sys2Proof.Spec Sys2Proof.Proofs.Sync

/-! ## Regions (R133, R136, R283, R421) -/

section
variable {s : State} (nonRestart : Bool)

/-- A core that is not cut-pending takes no cut where a region opens (R186). -/
theorem atEntry_noCut (h : s.curCore.snapPhase ≠ 1) : s.atEntry = s := if_neg (fun hcut => h hcut.1)

theorem openRegion_supervisor (h : s.curCtx.sup = true) : s.openRegion nonRestart = s := if_pos h

section
variable (huser : s.curCtx.sup = false)
include huser

/-- The opening word of a region that restarts. -/
theorem openRegion_restarts (hrestart : s.curCtx.restarting = true ∧ s.curCtx.pc = s.curCtx.rgnpc) :
    s.openRegion nonRestart = s.modCur (fun x => { x with restarting := false, rgnx := nonRestart }) :=
  (if_neg (by simp [huser])).trans (if_pos hrestart)

theorem openRegion_enters (hcut : s.curCore.snapPhase ≠ 1)
    (hnew : ¬ (s.curCtx.restarting = true ∧ s.curCtx.pc = s.curCtx.rgnpc)) :
    s.openRegion nonRestart = s.modCur (fun x => { x.enterRegion x.pc with rgnx := nonRestart, preempt := s.curCore.preempt }) := by
  refine (if_neg (by simp [huser])).trans ((if_neg hnew).trans (atEntry_noCut ?_))
  rwa [State.curCore_modCur]

/-- What a region that opens outside supervisor level leaves in its context. -/
theorem openRegion_regs (hcur : s.cur.2 < 11) (hcut : s.curCore.snapPhase ≠ 1) :
    let t := s.openRegion nonRestart
    t.curCtx.rgnx = nonRestart ∧
    (¬ (s.curCtx.restarting = true ∧ s.curCtx.pc = s.curCtx.rgnpc) →
      t.curCtx.rgnpc = s.curCtx.pc ∧ t.curCtx.rgnskip = 0 ∧ t.curCtx.lcount = 0) ∧
    (s.curCtx.restarting = true → s.curCtx.pc = s.curCtx.rgnpc → t.curCtx.rgnskip = s.curCtx.rgnskip) := by
  intro t
  by_cases hrestart : s.curCtx.restarting = true ∧ s.curCtx.pc = s.curCtx.rgnpc
  · rw [show t = _ from openRegion_restarts nonRestart huser hrestart, State.curCtx_modCur _ _ hcur]
    exact ⟨rfl, fun h => absurd hrestart h, fun _ _ => rfl⟩
  · rw [show t = _ from openRegion_enters nonRestart huser hcut hrestart, State.curCtx_modCur _ _ hcur]
    exact ⟨rfl, fun _ => ⟨rfl, rfl, rfl⟩, fun h hpc => absurd ⟨h, hpc⟩ hrestart⟩

end
end

theorem rgn_opens (g : BitVec 16) (s : State) :
    Answers (.rgn g) s ((s.openRegion false).modCur (fun x => x.sigOpen (encode (.rgn g)))).retire := rfl

theorem rgnx_opens (g : BitVec 16) (s : State) :
    Answers (.rgnx g) s ((s.openRegion true).modCur (fun x => x.sigOpen (encode (.rgnx g)))).retire := rfl

/-! ## Repeat frames (R221, R284) -/

section
variable {s : State} (a : BitVec 5) {b : BitVec 5} (n : BitVec 4)

theorem rpt_captures (h : (s.x b).toNat < 2 ^ 18) : Answers (.rpt a b n) s (s.retire.modCur (fun x => { x with
    rpt := some ⟨n.toNat + 1, [], x.pc, (s.x a).toNat % 2 ^ 32, s.x b, 0, 0, true⟩ })) := by
  have hzero : bits (s.x b) 63 18 = 0 := by rw [Links.bits_top _ (by decide), Nat.div_eq_of_lt h]
  rw [← Links.bits_bottom (s.x a) 31]
  exact if_neg (not_not.2 hzero)

theorem rpt_reserved (h : 2 ^ 18 ≤ (s.x b).toNat) :
    Answers (.rpt a b n) s (raised s Cause.illRsv (word (6 * 2 ^ 32 + (encode (.rpt a b n)).toNat))) := by
  have hset : bits (s.x b) 63 18 ≠ 0 := by
    rw [Links.bits_top _ (by decide)]
    exact (Nat.div_pos h (by decide)).ne'
  exact if_pos hset

end

theorem regionResult : RegionResult := by
  refine ⟨fun s g i hi hcur => ?_, fun s a b n => ⟨rpt_captures a n, rpt_reserved a n⟩, fun s => ⟨rfl, rfl⟩⟩
  have hregs := fun (huser : s.curCtx.sup = false) => openRegion_regs (decide (i = .rgnx g)) huser hcur
  refine ⟨?_, hregs, openRegion_supervisor _⟩
  obtain rfl | rfl := hi
  · exact rgn_opens g s
  · rw [decide_eq_true rfl]
    exact rgnx_opens g s

/-! ## `start` (R126, R285) -/

section
variable {s : State} (d a b : BitVec 5)

theorem start_byHelper (h : s.cur.2 ≠ 0) : Answers (.start d a b) s (raised s Cause.helperLimit 0xFF) := by
  refine runInstr_trap (s := s) (t := s) (M.bind_error ?_)
  rw [bne_iff_ne.2 h, trapIf_true]

section
variable (hnew : s.curCtx.sup = true ∨ s.curCtx.starts.length ≤ s.curCtx.startPos)
include hnew

/-- A start that its region has not recorded looks for a helper that is not live. -/
theorem start_looks : ¬ ((!s.curCtx.sup && decide (s.curCtx.startPos < s.curCtx.starts.length)) = true) := by
  rcases hnew with h | h
  · simp [h]
  · simp [Nat.not_lt.2 h]

variable (hcontrol : s.cur.2 = 0)
include hcontrol

theorem start_takes {n : Nat} (hfree : searchUp (fun n => !(s.curCore.ctx n).live) 10 1 = some n) :
    let t := s.modCurCore (fun k => k.setCtx n (s.curCtx.helper (s.x a) (s.x b) n (s.svec (s.ctxidOf s.cur.1))))
    let u := (t.setX d (word n)).modCur (fun x =>
      if x.sup then x else { x with starts := x.starts ++ [n], startPos := x.startPos + 1 })
    Answers (.start d a b) s u.retire := by
  intro t u
  refine runInstr_ok (s := s) ((M.bind_ok (a := ()) (t := s) ?_).trans ?_)
  · rw [hcontrol, bne_self_eq_false, trapIf_false]
  · rw [if_neg (start_looks hnew), hfree]
    rfl

theorem start_noneFree (hfree : searchUp (fun n => !(s.curCore.ctx n).live) 10 1 = none) :
    Answers (.start d a b) s (raised s Cause.helperLimit 10) := by
  refine runInstr_trap (s := s) (t := s) ((M.bind_ok (a := ()) (t := s) ?_).trans ?_)
  · rw [hcontrol, bne_self_eq_false, trapIf_false]
  · rw [if_neg (start_looks hnew), hfree]
    rfl

end
end

/-! ## `hexit` (R128, R286) -/

section
variable {s : State}

theorem hexit_endsHelper (hhelper : s.cur.2 ≠ 0) (hset : settled s 1) :
    let t := s.release s.cur.1 1
    t.curCtx.sup = false →
    let u := (t.writeBack t.cur.1 t.cur.2).setCtx t.cur.1 t.cur.2
      { t.curCtx with live := false, sup := false, wait := none, instret := t.curCtx.instret + 1 }
    Answers .hexit s (u.signal t.cur.1 31 (2 ^ t.cur.2)) := by
  intro t huser u
  refine runInstr_ok (s := s) ?_
  rw [if_neg hhelper, endHelper, M.bind_ok (releaseAt_ok hset)]
  have hlevel : ¬ t.curCtx.sup = true := Bool.eq_false_iff.1 huser
  exact congrArg (EStateM.Result.ok ()) ((if_neg hlevel).trans (congrArg (u.signal t.cur.1 31) (if_neg hlevel)))

/-- An empty write queue keeps no path shut. -/
theorem queueOpen_empty (h : s.curCore.wq = []) : queueOpen s = .ok () s := by
  have hopen : s.queueShut s.cur.1 (fun _ => true) = none := by
    rw [State.queueShut, show (s.core s.cur.1).wq = [] from h]
    rfl
  rw [queueOpen, bind_get, hopen]
  rfl

section
variable (hcontrol : s.cur.2 = 0)
include hcontrol

theorem hexit_orphans (hlive : s.curCore.liveMask ≠ 0) :
    Answers .hexit s (raised s Cause.helperOrphan (word s.curCore.liveMask)) := by
  refine runInstr_trap (s := s) (t := s) ?_
  rw [if_pos hcontrol]
  refine M.bind_error ?_
  rw [bne_iff_ne.2 hlive, trapIf_true]

theorem hexit_endsCore (hnone : s.curCore.liveMask = 0) (hwq : s.curCore.wq = []) :
    let t := (s.drain s.cur.1).writeBack s.cur.1 0
    Answers .hexit s ((t.modCur (fun x => { x with
      live := false, sup := false, wait := none, instret := x.instret + 1 })).modCurCore (fun k => { k with ended := true })) := by
  intro t
  refine runInstr_ok (s := s) ?_
  rw [if_pos hcontrol]
  refine (M.bind_ok (a := ()) (t := s) ?_).trans (M.bind_ok (queueOpen_empty hwq))
  rw [hnone, bne_self_eq_false, trapIf_false]

end
end

theorem helperResult : HelperResult :=
  ⟨fun _ d a b hcontrol hnew => ⟨fun _ => start_takes d a b hnew hcontrol, start_noneFree d a b hnew hcontrol⟩,
    fun _ => start_byHelper, fun _ hhelper hset _ => hexit_endsHelper hhelper hset,
    fun _ hcontrol => ⟨hexit_orphans hcontrol, hexit_endsCore hcontrol⟩⟩

/-- Settles O37: a region opens or restarts, a frame captures or is refused, and `start` and `hexit` take the case of the context that
issues. -/
theorem regionAndHelperResult : Obligations.RegionAndHelperResult := ⟨regionResult, helperResult⟩

end Sys2Proof.Proofs.Control
end

section
/-! PROOFS. How vector instructions enter the lattice queue, or are skipped on a restart (R136, R150, R216, R217, R306). -/

namespace Sys2Proof.Proofs.LatticeEntry

open Sys2Proof.Machine Sys2Proof.Spec Sys2Proof.Proofs.Sync

/-! ## What each instruction is entered by (R318 to R328) -/

/-- Bits [31:0] of the operand word that an instruction of two sources honours, `ok` beyond window, mask and BC. -/
abbrev pairBits (ok : Nat) : Nat := okWindow ||| okMask ||| okBC ||| ok

/-- The same for an instruction of one source. -/
abbrev singleBits (ok : Nat) : Nat := okWindow ||| okMask ||| ok

theorem pairBits_satOk (t : Elt) : pairBits (satOk t) = 0xBFFFFF + satOk t := by
  cases t <;> rfl

theorem pairBits_satOk_neg (t : Elt) : pairBits (satOk t ||| okNeg) = 0xBFFFFF + (satOk t + 0x7000000) := by
  cases t <;> rfl

/-- The mask and the SAT bit of a typed instruction follow its type code (R306, R318). -/
theorem pairForm_typed (d a b : BitVec 3) (p q : BitVec 5) (y : BitVec 3) :
    pairForm (.vadd d a b p q y) = some (b, p, q, (Elt.ofCode y.toNat).count, satOk (Elt.ofCode y.toNat)) := by
  rcases y with ⟨k⟩
  fin_cases k <;> rfl

theorem pairForm_vfma (d a b : BitVec 3) (p q : BitVec 5) (y : BitVec 3) :
    pairForm (.vfma d a b p q y) = some (b, p, q, (Elt.ofCode y.toNat).count, satOk (Elt.ofCode y.toNat) + 0x7000000) := by
  rcases y with ⟨k⟩
  fin_cases k <;> rfl

theorem singleForm_typed (d a y : BitVec 3) (p : BitVec 5) :
    singleForm (.vsum d a y p) = some (p, (Elt.ofCode y.toNat).count, 0) := by
  rcases y with ⟨k⟩
  fin_cases k <;> rfl

section
variable {i : Instr}

/-- The checks of the five typed operations of two sources. -/
theorem typed_of_pairForm {b b' : BitVec 3} {p q p' q' : BitVec 5} {n extra : Nat} {y : BitVec 3}
    (h : pairForm (.vadd 0 0 b p q y) = some (b', p', q', n, extra)) :
    b = b' ∧ p = p' ∧ q = q' ∧ (Elt.ofCode y.toNat).count = n ∧ pairBits (satOk (Elt.ofCode y.toNat)) = 0xBFFFFF + extra := by
  rw [pairForm_typed] at h
  cases h
  exact ⟨rfl, rfl, rfl, rfl, pairBits_satOk _⟩

theorem exec_of_pairForm {b : BitVec 3} {p q : BitVec 5} {n extra : Nat} (h : pairForm i = some (b, p, q, n, extra)) (s : State) :
    ∃ t ok, exec i s = lattice (enterBin i b p q t ok) s ∧ t.count = n ∧ pairBits ok = 0xBFFFFF + extra := by
  unfold pairForm at h
  split at h
  case h_1 | h_2 | h_3 | h_5 | h_6 =>
    obtain ⟨rfl, rfl, rfl, hn, hbits⟩ := typed_of_pairForm h
    exact ⟨_, _, rfl, hn, hbits⟩
  case h_4 d a b p q y =>
    have hform := (pairForm_vfma d a b p q y).symm.trans h
    cases hform
    exact ⟨_, _, rfl, rfl, pairBits_satOk_neg _⟩
  case h_25 => cases h -- no other instruction has two sources
  all_goals
    cases h
    exact ⟨_, _, rfl, rfl, rfl⟩

/-- The checks of the two typed reductions. -/
theorem typed_of_singleForm {y : BitVec 3} {p p' : BitVec 5} {n extra : Nat} (h : singleForm (.vsum 0 0 y p) = some (p', n, extra)) :
    p = p' ∧ (Elt.ofCode y.toNat).count = n ∧ singleBits 0 = 0x3FFFFF + extra := by
  rw [singleForm_typed] at h
  cases h
  exact ⟨rfl, rfl, rfl⟩

theorem exec_of_singleForm {p : BitVec 5} {n extra : Nat} (h : singleForm i = some (p, n, extra)) (s : State) :
    ∃ t ok, exec i s = lattice (enterUn i p t ok) s ∧ t.count = n ∧ singleBits ok = 0x3FFFFF + extra := by
  unfold singleForm at h
  split at h
  case h_21 | h_22 =>
    obtain ⟨rfl, hn, hbits⟩ := typed_of_singleForm h
    exact ⟨_, _, rfl, hn, hbits⟩
  case h_24 => cases h -- no other instruction has one source
  all_goals
    cases h
    exact ⟨_, _, rfl, rfl, rfl⟩

end

/-! ## The skip on a restart (R136) -/

section
variable {s : State} {m : M Unit}

theorem skipsLattice_false (h : s.curCtx.sup = true ∨ s.curCtx.rgnskip.toNat ≤ s.curCtx.lcount) : s.skipsLattice = false := by
  rcases h with h | h
  · simp [State.skipsLattice, h]
  · simp [State.skipsLattice, Nat.not_lt.2 h]

theorem lattice_runs (h : s.curCtx.sup = true ∨ s.curCtx.rgnskip.toNat ≤ s.curCtx.lcount) : lattice m s = runInstr m s :=
  if_neg (Bool.eq_false_iff.1 (skipsLattice_false h))

theorem lattice_skips (huser : s.curCtx.sup = false) (hskip : s.curCtx.lcount < s.curCtx.rgnskip.toNat) :
    lattice m s = .next s.skipLattice :=
  if_pos (by simp [State.skipsLattice, huser, hskip])

theorem retire_lcount (x : Ctx) : x.retire.lcount = x.lcount := by
  unfold Ctx.retire
  split
  · split <;> rfl
  · rfl

theorem retire_rgnskip (x : Ctx) : x.retire.rgnskip = x.rgnskip := by
  unfold Ctx.retire
  split
  · split <;> rfl
  · rfl

/-- A lattice instruction counted at user level that RGNSKIP names already leaves RGNSKIP as it is. -/
theorem countLattice_skipped {x : Ctx} (huser : x.sup = false) (hskip : x.lcount < x.rgnskip.toNat) :
    x.countLattice.lcount = x.lcount + 1 ∧ x.countLattice.instret = x.instret ∧
      (x.rgnskip.toNat < 2 ^ 32 → x.countLattice.rgnskip = x.rgnskip) := by
  rw [Ctx.countLattice, if_neg (Bool.eq_false_iff.1 huser)]
  refine ⟨rfl, rfl, fun hsmall => ?_⟩
  have hmax : min (max x.rgnskip.toNat (x.lcount + 1)) 0xFFFFFFFF = x.rgnskip.toNat := by omega
  simp only [hmax, word, BitVec.ofNat_toNat, BitVec.setWidth_eq]

end

theorem latticeSkip : LatticeSkip := by
  intro s i hi huser hskip hcur
  have hexec : ∃ m, exec i s = lattice m s := by
    rcases hi with hi | hi
    · obtain ⟨_, h⟩ := Option.isSome_iff_exists.1 hi
      obtain ⟨_, _, hx, _⟩ := exec_of_pairForm h s
      exact ⟨_, hx⟩
    · obtain ⟨_, h⟩ := Option.isSome_iff_exists.1 hi
      obtain ⟨_, _, hx, _⟩ := exec_of_singleForm h s
      exact ⟨_, hx⟩
  obtain ⟨m, hx⟩ := hexec
  obtain ⟨hcount, hinstret, hkept⟩ := countLattice_skipped huser hskip
  refine ⟨s.skipLattice, hx.trans (lattice_skips huser hskip), ?_, ?_, ?_, rfl, fun hsmall => ?_⟩
  · rw [State.skipLattice, State.curCtx_modCur _ _ hcur, retire_lcount, hcount]
  · rw [State.skipLattice, State.curCore_modCur]
    rfl
  · rw [State.skipLattice, State.curCtx_modCur _ _ hcur, Ctx.retire_instret, hinstret]
  · rw [State.skipLattice, State.curCtx_modCur _ _ hcur, retire_rgnskip, hkept hsmall]

/-! ## The checks of R217 -/

section
variable {s : State} (i : Instr) {w : Word}

theorem wordEval_zero : wordEval i 0 = word (encode i).toNat := by rw [wordEval, Nat.zero_mul, Nat.zero_add]

theorem wordEval_one : wordEval i 1 = word (2 ^ 32 + (encode i).toNat) := by rw [wordEval, Nat.one_mul]

theorem needMode_ok {mat : Bool} (h : matrixMode s = mat) : needMode i mat s = .ok () s := by
  have hmode : (bit s.curCore.lqst 7 != mat) = false := bne_eq_false_iff_eq.2 h
  rw [needMode, bind_get, hmode, trapIf_false]

theorem needMode_wrong {mat : Bool} (h : matrixMode s = !mat) :
    needMode i mat s = .error (.trap Cause.illMode (word (encode i).toNat) 0 0) s := by
  have hmode : (bit s.curCore.lqst 7 != mat) = true := by
    rw [show bit s.curCore.lqst 7 = !mat from h]
    cases mat <;> rfl
  rw [needMode, bind_get, hmode, trapIf_true, wordEval_zero]

theorem owBits_ok {ok : Nat} (h : w.toNat % 2 ^ 32 &&& (2 ^ 32 - 1 - ok) = 0) : owBits i w ok s = .ok () s := by
  rw [owBits, Links.bits_bottom, if_pos h]
  rfl

theorem owBits_reserved {ok : Nat} (h : w.toNat % 2 ^ 32 &&& (2 ^ 32 - 1 - ok) ≠ 0) :
    owBits i w ok s = .error (.trap Cause.illRsv (word (2 ^ 32 + (encode i).toNat)) 0 0) s := by
  rw [owBits, Links.bits_bottom, if_neg h, wordEval_one]
  rfl

theorem owBCFields_ok {b : BitVec 3} {q : BitVec 5} (h : if w.getLsbD 23 = true then b = 0 else q = 0) :
    owBCFields i w b q s = .ok () s := by
  by_cases hbc : w.getLsbD 23 = true
  · rw [if_pos hbc] at h
    rw [owBCFields, owBC, bit, if_pos hbc, h, bne_self_eq_false, trapIf_false]
  · rw [if_neg hbc] at h
    rw [owBCFields, owBC, bit, if_neg hbc, h, bne_self_eq_false, trapIf_false]

/-- The rows that the operand word names. -/
abbrev windowRows (w : Word) : Nat := if w.toNat / 256 % 256 = 0 then 128 else w.toNat / 256 % 256

theorem owStart_eq (w : Word) : owStart w = w.toNat % 256 := Links.bits_bottom w 7

theorem owWindow_ok (h : w.toNat % 256 + windowRows w ≤ 128) : owWindow i w s = .ok () s := by
  have hin : decide (128 < owStart w + owRows w) = false := by
    rw [owStart_eq]
    exact decide_eq_false (Nat.not_lt.2 h)
  rw [owWindow, hin, trapIf_false]

theorem owWindow_beyond (h : 128 < w.toNat % 256 + windowRows w) :
    owWindow i w s = .error (.trap Cause.illReg (word (3 * 2 ^ 32 + (encode i).toNat)) 0 0) s := by
  have hout : decide (128 < owStart w + owRows w) = true := by
    rw [owStart_eq]
    exact decide_eq_true h
  rw [owWindow, hout, trapIf_true]
  rfl

theorem owMaskBase_ok {n : Nat} (h : w.getLsbD 21 = true → w.toNat / 2 ^ 16 % 32 % (n / 64) = 0) :
    owMaskBase i w n s = .ok () s := by
  have hfits : (owMen w && owMbase w % (n / 64) != 0) = false := by
    cases hmen : owMen w
    · rfl
    · exact bne_eq_false_iff_eq.2 (h hmen)
  rw [owMaskBase, hfits, trapIf_false]

theorem owMaskBase_misfit {n : Nat} (hmen : w.getLsbD 21 = true) (h : w.toNat / 2 ^ 16 % 32 % (n / 64) ≠ 0) :
    owMaskBase i w n s = .error (.trap Cause.illReg (word (4 * 2 ^ 32 + (encode i).toNat)) 0 0) s := by
  have hmisfit : (owMen w && owMbase w % (n / 64) != 0) = true := by
    rw [show owMen w = true from hmen]
    exact bne_iff_ne.2 h
  rw [owMaskBase, hmisfit, trapIf_true]
  rfl

end

/-! ## The queue (R150, R186) -/

section
variable {s : State} (e : LEntry)

theorem enterLattice_enters (hroom : s.curCore.lq.length < 32) (hcut : s.curCore.snapPhase ≠ 1) :
    enterLattice e s = .ok () (entered s e) := by
  have hcutting : (s.curCore.snapPhase == 1 && s.curCore.ctxs.all (fun x => !x.live || x.cutDone)) = false := by
    rw [beq_eq_false_iff_ne.2 hcut, Bool.false_and]
  rw [enterLattice, bind_get, decide_eq_false (Nat.not_le.2 hroom), M.bind_ok (waitIf_false _ _), hcutting,
    M.bind_ok (waitIf_false _ _)]
  rfl

theorem enterLattice_waits (hfull : 32 ≤ s.curCore.lq.length) : enterLattice e s = .error (.wait .latticeRoom) s := by
  rw [enterLattice, bind_get, decide_eq_true hfull]
  exact M.bind_error (waitIf_true _ _)

end

/-! ## Two sources (R306, R319, R324, R325) -/

section
variable {s : State} (i : Instr) {b : BitVec 3} {p q : BitVec 5} (t : Elt) {ok : Nat}

theorem enterBin_wrongMode (h : matrixMode s = true) :
    enterBin i b p q t ok s = .error (.trap Cause.illMode (word (encode i).toNat) 0 0) s :=
  M.bind_error (needMode_wrong i h)

section
variable (hmode : matrixMode s = false)
include hmode

theorem enterBin_reserved (h : (s.x p).toNat % 2 ^ 32 &&& (2 ^ 32 - 1 - pairBits ok) ≠ 0) :
    enterBin i b p q t ok s = .error (.trap Cause.illRsv (word (2 ^ 32 + (encode i).toNat)) 0 0) s := by
  rw [enterBin, M.bind_ok (needMode_ok i hmode), bind_get]
  exact M.bind_error (owBits_reserved i h)

section
variable (hbits : (s.x p).toNat % 2 ^ 32 &&& (2 ^ 32 - 1 - pairBits ok) = 0)
  (hbc : if (s.x p).getLsbD 23 = true then b = 0 else q = 0)
include hbits hbc

theorem enterBin_beyond (h : 128 < (s.x p).toNat % 256 + windowRows (s.x p)) :
    enterBin i b p q t ok s = .error (.trap Cause.illReg (word (3 * 2 ^ 32 + (encode i).toNat)) 0 0) s := by
  rw [enterBin, M.bind_ok (needMode_ok i hmode), bind_get]
  rw [M.bind_ok (owBits_ok i hbits), M.bind_ok (owBCFields_ok i hbc)]
  exact M.bind_error (owWindow_beyond i h)

section
variable (hwin : (s.x p).toNat % 256 + windowRows (s.x p) ≤ 128)
include hwin

theorem enterBin_misfit (hmen : (s.x p).getLsbD 21 = true) (h : (s.x p).toNat / 2 ^ 16 % 32 % (t.count / 64) ≠ 0) :
    enterBin i b p q t ok s = .error (.trap Cause.illReg (word (4 * 2 ^ 32 + (encode i).toNat)) 0 0) s := by
  rw [enterBin, M.bind_ok (needMode_ok i hmode), bind_get]
  rw [M.bind_ok (owBits_ok i hbits), M.bind_ok (owBCFields_ok i hbc), M.bind_ok (owWindow_ok i hwin)]
  exact M.bind_error (owMaskBase_misfit i hmen h)

theorem enterBin_queues (hmask : (s.x p).getLsbD 21 = true → (s.x p).toNat / 2 ^ 16 % 32 % (t.count / 64) = 0) :
    enterBin i b p q t ok s = enterLattice (LEntry.new i s.cur.2 (s.x p) (s.x q) (s.maskOf (s.x p) t.count)) s := by
  rw [enterBin, M.bind_ok (needMode_ok i hmode), bind_get]
  rw [M.bind_ok (owBits_ok i hbits), M.bind_ok (owBCFields_ok i hbc), M.bind_ok (owWindow_ok i hwin),
    M.bind_ok (owMaskBase_ok i hmask)]

end
end
end
end

theorem vectorPairEntry : VectorPairEntry := by
  intro s i b p q n extra hform hopen
  obtain ⟨t, ok, hx, rfl, hok⟩ := exec_of_pairForm hform s
  have hrun := hx.trans (lattice_runs hopen)
  simp only [← hok]
  refine ⟨fun hmode => hrun.trans (runInstr_trap (enterBin_wrongMode i t hmode)),
    fun hmode hbits => hrun.trans (runInstr_trap (enterBin_reserved i t hmode hbits)), fun hmode hbits hbc =>
    ⟨fun hout => hrun.trans (runInstr_trap (enterBin_beyond i t hmode hbits hbc hout)),
      fun hwin hmen hmisfit => hrun.trans (runInstr_trap (enterBin_misfit i t hmode hbits hbc hwin hmen hmisfit)), ?_, ?_⟩⟩
  · rintro ⟨-, hwin, hmask⟩ ⟨-, hroom, hcut⟩
    exact hrun.trans (runInstr_ok ((enterBin_queues i t hmode hbits hbc hwin hmask).trans (enterLattice_enters _ hroom hcut)))
  · rintro ⟨-, hwin, hmask⟩ hfull
    exact hrun.trans (runInstr_wait ((enterBin_queues i t hmode hbits hbc hwin hmask).trans (enterLattice_waits _ hfull)))

/-! ## One source, and `fuse` (R220, R322, R323, R326 to R328) -/

section
variable {s : State} (i : Instr) {p : BitVec 5} (t : Elt) {ok : Nat}

theorem enterUn_wrongMode (h : matrixMode s = true) :
    enterUn i p t ok s = .error (.trap Cause.illMode (word (encode i).toNat) 0 0) s :=
  M.bind_error (needMode_wrong i h)

theorem enterUn_queues (hmode : matrixMode s = false) (hpass : operandOk (s.x p) (singleBits ok) t.count) :
    enterUn i p t ok s = enterLattice
      { LEntry.new i s.cur.2 (s.x p) 0 (s.maskOf (s.x p) t.count) with cbslot := s.curCtx.cbsel.toNat % 2 ^ 12 } s := by
  obtain ⟨hbits, hwin, hmask⟩ := hpass
  rw [enterUn, M.bind_ok (needMode_ok i hmode), bind_get]
  rw [M.bind_ok (owBits_ok i hbits), M.bind_ok (owWindow_ok i hwin), M.bind_ok (owMaskBase_ok i hmask), Links.bits_bottom]

section
variable {q : BitVec 5} (hmode : matrixMode s = false) (hpass : operandOk (s.x p) (okWindow ||| okMask) t.count)
  (hprog : (s.x q).toNat % 2 ^ 60 / 2 ^ (4 * ((s.x q).toNat / 2 ^ 60)) = 0)

include hprog in
/-- The program has no token beyond its count. -/
theorem fuse_noMoreTokens : ((s.x q).toNat % 2 ^ 60 / 2 ^ (4 * fuseCount (s.x q)) != 0) = false := by
  rw [show fuseCount (s.x q) = (s.x q).toNat / 2 ^ 60 from Links.bits_top _ (by decide), hprog, bne_self_eq_false]

include hmode hpass hprog

theorem enterFuse_queues (hgood : fuseBad (s.x q) = none) :
    enterFuse i p q t s = enterLattice (LEntry.new i s.cur.2 (s.x p) (s.x q) (s.maskOf (s.x p) t.count)) s := by
  obtain ⟨hbits, hwin, hmask⟩ := hpass
  rw [enterFuse, M.bind_ok (needMode_ok i hmode), bind_get, M.bind_ok (owBits_ok i hbits)]
  simp only [fuse_noMoreTokens hprog, hgood]
  rw [M.bind_ok (trapIf_false _ _ _), M.bind_ok (owWindow_ok i hwin), M.bind_ok (owMaskBase_ok i hmask)]

theorem enterFuse_badStack {r : Nat × Nat} (hbad : fuseBad (s.x q) = some r) :
    enterFuse i p q t s = .error (.trap Cause.fuseStack (word (r.1 * 2 ^ 36) + wordEval i r.2) 0 0) s := by
  obtain ⟨hbits, hwin, hmask⟩ := hpass
  rw [enterFuse, M.bind_ok (needMode_ok i hmode), bind_get, M.bind_ok (owBits_ok i hbits)]
  simp only [fuse_noMoreTokens hprog, hbad]
  rw [M.bind_ok (trapIf_false _ _ _), M.bind_ok (owWindow_ok i hwin), M.bind_ok (owMaskBase_ok i hmask)]
  rfl

end
end

theorem exec_fuse {s : State} {i : Instr} {d a b : BitVec 3} {p q : BitVec 5} {n : Nat}
    (hi : (i = .fuseF32 d a b p q ∧ n = 128) ∨ (i = .fuseBf16 d a b p q ∧ n = 256)) :
    ∃ t, exec i s = lattice (enterFuse i p q t) s ∧ t.count = n := by
  obtain ⟨rfl, rfl⟩ | ⟨rfl, rfl⟩ := hi
  · exact ⟨.f32, rfl, rfl⟩
  · exact ⟨.bf16, rfl, rfl⟩

theorem vectorSingleEntry : VectorSingleEntry := by
  refine ⟨fun s i p n extra hform ⟨hskip, hroom, hcut⟩ => ?_,
    fun s i d a b p q n hi ⟨hskip, hroom, hcut⟩ hmode hpass hprog => ?_⟩
  · obtain ⟨t, ok, hx, rfl, hok⟩ := exec_of_singleForm hform s
    have hrun := hx.trans (lattice_runs hskip)
    rw [← hok]
    exact ⟨fun hmode hpass => hrun.trans
        (runInstr_ok ((enterUn_queues i t hmode hpass).trans (enterLattice_enters _ hroom hcut))),
      fun hmode => hrun.trans (runInstr_trap (enterUn_wrongMode i t hmode))⟩
  · obtain ⟨t, hx, rfl⟩ := exec_fuse (s := s) hi
    have hrun := hx.trans (lattice_runs hskip)
    exact ⟨fun hgood => hrun.trans
        (runInstr_ok ((enterFuse_queues i t hmode hpass hprog hgood).trans (enterLattice_enters _ hroom hcut))),
      fun r hbad => hrun.trans (runInstr_trap (enterFuse_badStack i t hmode hpass hprog hbad))⟩

/-- Settles O46: a vector instruction is skipped, raises the first check that fails, enters the queue or waits for room. -/
theorem vectorEntry : Obligations.VectorEntry := ⟨latticeSkip, vectorPairEntry, vectorSingleEntry⟩

end Sys2Proof.Proofs.LatticeEntry
end

section
/-! PROOFS. The events of the contexts of a core (R131, R212, R227, R276, R346, R348, R350). -/

namespace Sys2Proof.Proofs.ContextEvents

open Sys2Proof.Machine Sys2Proof.Spec Sys2Proof.Proofs.Package

/-! ## Running an event -/

section
variable (s : State)

theorem exec_trapEntry : exec .trapEntry s = execTrapEntry s := rfl
theorem exec_noticeEntry : exec .noticeEntry s = execNoticeEntry s := rfl
theorem exec_watchdog : exec .watchdog s = execWatchdog s := rfl
theorem exec_pauseExpire : exec .pauseExpire s = execPauseExpire s := rfl
theorem exec_frameFill : exec .frameFill s = execFrameFill s := rfl
theorem exec_translationRead : exec .translationRead s = execTranslationRead s := rfl

end

/-! ## Traps, notices, pauses (R212, R227, R276, R346, R350) -/

section
variable {s : State}

theorem trapEntry_none (h : (s.ctx s.ev.at_ s.ev.x).trapPend = none) : Answers .trapEntry s s :=
  answers_runEvent (exec_trapEntry s) (by simp only [h])

theorem trapEntry_enters {r : TrapReq} (h : (s.ctx s.ev.at_ s.ev.x).trapPend = some r)
    (hfree : (s.core s.ev.at_).otherSup s.ev.x = false) : Answers .trapEntry s (s.takeTrap s.ev.at_ s.ev.x r) :=
  answers_runEvent (exec_trapEntry s) (by simp only [h, hfree, Bool.false_eq_true, if_false])

theorem trapEntry_waits {r : TrapReq} (h : (s.ctx s.ev.at_ s.ev.x).trapPend = some r)
    (hother : (s.core s.ev.at_).otherSup s.ev.x = true) : Answers .trapEntry s s :=
  answers_runEvent (exec_trapEntry s) (by simp only [h, hother, if_true])

theorem noticeEntry_enters {cause : Nat} {eval : Word} (h : s.noticeDue s.ev.at_ = some (cause, eval)) :
    let t := (s.wakeCtx s.ev.at_ 0).withdraw s.ev.at_ 0
    Answers .noticeEntry s (t.takeTrap s.ev.at_ 0 ⟨cause, eval, 2, 0, (t.ctx s.ev.at_ 0).pc⟩) :=
  answers_runEvent (exec_noticeEntry s) (by simp only [h])

theorem watchdog_kills (hlive : (s.ctx s.ev.at_ s.ev.x).live = true) (hsup : (s.ctx s.ev.at_ s.ev.x).sup = true) :
    let task := (s.core s.ev.at_).task
    Answers .watchdog s (((s.notice (s.ctxidOf s.ev.at_) Cause.watchdog (word task) s.ev.at_ task).logFault Cause.watchdog 2
      s.ev.at_ (s.ctxidOf s.ev.at_) (word task)).killTask task Cause.watchdog) :=
  answers_runEvent (exec_watchdog s) (if_pos (by rw [hlive, hsup]; rfl))

/-- A pause that has not made its context a yield point (R123). -/
theorem pauseExpire_ends (hwait : (s.ctx s.ev.at_ s.ev.x).wait = some .pause)
    (hshort : (s.ctx s.ev.at_ s.ev.x).pauseCount + (s.cycle - (s.ctx s.ev.at_ s.ev.x).pauseLeft) < 4096) :
    let x := s.ctx s.ev.at_ s.ev.x
    Answers .pauseExpire s
      (s.setCtx s.ev.at_ s.ev.x { x with wait := none, pauseCount := x.pauseCount + (s.cycle - x.pauseLeft) }) := by
  refine answers_runEvent (exec_pauseExpire s) ?_
  simp only [State.wakeCtx, hwait, if_true, Nat.not_le.2 hshort, decide_false, Bool.false_and, Bool.or_false, Bool.false_eq_true,
    if_false]

end

/-! ## Frames (R131, R187) -/

/-- The local memories are the same, and the frames, the contexts and the supervisor frame of core `c`. -/
structure SameFrames (c : Nat) (s t : State) : Prop where
  lmem : t.lmem = s.lmem
  frames : (t.core c).frames = (s.core c).frames
  ctxs : (t.core c).ctxs = (s.core c).ctxs
  sregs : (t.core c).sregs = (s.core c).sregs

namespace SameFrames

theorem refl (c : Nat) (s : State) : SameFrames c s s := ⟨rfl, rfl, rfl, rfl⟩

theorem trans {c : Nat} {s t u : State} (h : SameFrames c s t) (k : SameFrames c t u) : SameFrames c s u :=
  ⟨k.lmem.trans h.lmem, k.frames.trans h.frames, k.ctxs.trans h.ctxs, k.sregs.trans h.sregs⟩

/-- A change of no core and no local memory. -/
theorem of_units {c : Nat} {s t : State} (hl : t.lmem = s.lmem) (hc : t.cores = s.cores) : SameFrames c s t := by
  have hcore : t.core c = s.core c := congrArg (fun m => NMap.get m c Core.idle) hc
  exact ⟨hl, by rw [hcore], by rw [hcore], by rw [hcore]⟩

theorem foldl {c : Nat} {α : Type} {f : State → α → State} (h : ∀ s a, SameFrames c s (f s a)) (l : List α) (s : State) :
    SameFrames c s (l.foldl f s) := by
  induction l generalizing s with
  | nil => exact refl c s
  | cons a l ih => exact (h s a).trans (ih _)

end SameFrames

section
variable (s : State) (c : Nat)

theorem cowUnit_frames (u : Nat) : SameFrames c s (s.cowUnit c u) := by
  unfold State.cowUnit
  split
  · exact .refl c s
  · split
    · exact .refl c s
    · unfold State.modSnap State.modJob
      split
      · exact .of_units rfl rfl
      · exact .of_units rfl rfl

theorem cowGranules_frames (off n : Nat) : SameFrames c s (s.cowGranules c off n) := by
  unfold State.cowGranules
  split
  · exact .refl c s
  · exact .foldl (fun t i => cowUnit_frames t c _) _ s

theorem cowLmem_frames (f : Core → Mem) : SameFrames c s (s.modCore c (fun k => { k with cowLmem := f k })) := by
  refine ⟨rfl, ?_, ?_, ?_⟩ <;> rw [State.core_modCore_same]

/-- A write of the core's own puts its bytes in local memory, and leaves the frames and the registers alone. -/
theorem ownWrite_frames (off : Nat) (bs : List Byte) :
    SameFrames c { s with lmem := s.lmem.putRange (lkey c off) bs } (s.ownWrite c off bs) := by
  have hunits := cowGranules_frames s c off bs.length
  have hput : SameFrames c { s with lmem := s.lmem.putRange (lkey c off) bs }
      { s.cowGranules c off bs.length with lmem := (s.cowGranules c off bs.length).lmem.putRange (lkey c off) bs } :=
    ⟨by rw [hunits.lmem], hunits.frames, hunits.ctxs, hunits.sregs⟩
  simp only [State.ownWrite]
  split
  · exact hput
  · refine hput.trans (.foldl (fun t p => ?_) _ _)
    split
    · exact cowLmem_frames t c _
    · exact .refl c t

theorem length_frameBytes (k : Core) (f : Nat) : (k.frameBytes f).length = 256 := by
  simp [Core.frameBytes, List.length_flatMap, leBytes]

/-- Whether a frame is stale is told by its own bytes and registers. -/
theorem frameStale_congr {s t : State} {c f : Nat} (hctxs : (t.core c).ctxs = (s.core c).ctxs)
    (hsregs : (t.core c).sregs = (s.core c).sregs)
    (hbytes : ∀ i < 256, t.lmem.get (lkey c (frameBase + 256 * f) + i) = s.lmem.get (lkey c (frameBase + 256 * f) + i)) :
    t.frameStale c f = s.frameStale c f := by
  have hregs : (t.core c).frameBytes f = (s.core c).frameBytes f := by
    simp only [Core.frameBytes, Core.frameReg, Core.ctx, hctxs, hsregs]
  have hrange : t.lmem.getRange (lkey c (frameBase + 256 * f)) 256 = s.lmem.getRange (lkey c (frameBase + 256 * f)) 256 :=
    List.map_congr_left (fun i hi => hbytes i (List.mem_range.1 hi))
  rw [State.frameStale, hrange, hregs, State.frameStale]

/-- The frame that leaves the cache is written back, or is not dirty: another one is stale as before. -/
theorem frameStale_writeBack {n f : Nat} (h : f ≠ n) : (s.writeBack c n).frameStale c f = s.frameStale c f := by
  have hwritten := ownWrite_frames s c (frameBase + 256 * n) ((s.core c).frameBytes n)
  refine frameStale_congr hwritten.ctxs hwritten.sregs (fun i hi => ?_)
  rw [State.writeBack, hwritten.lmem]
  refine Mem.get_putRange_out _ _ _ _ ?_
  rw [length_frameBytes, lkey, lkey]
  omega

end

section
variable {s : State} (habsent : (s.core s.ev.at_).frames.any (fun f => f.1 == s.ev.x) = false)
include habsent

theorem frameFill_adds (hroom : (s.core s.ev.at_).frames.length < 4) : Answers .frameFill s
    (s.modCore s.ev.at_ (fun k => { k with frames := k.frames ++ [(s.ev.x, s.frameStale s.ev.at_ s.ev.x)] })) := by
  refine answers_runEvent (exec_frameFill s) ?_
  simp only [habsent, Bool.false_eq_true, if_false]
  split
  · rw [if_neg (by omega)]
  · rfl

/-- The state in which the least recently issuing frame has left the cache. -/
def frameOut (s : State) (c n : Nat) (d : Bool) : State :=
  (if d then s.writeBack c n else s).modCore c (fun k => { k with frames := k.frames.drop 1 })

theorem frameFill_replaces {n : Nat} {d : Bool} {rest : List (Nat × Bool)} (hfs : (s.core s.ev.at_).frames = (n, d) :: rest)
    (hfull : rest.length = 3) :
    let t := frameOut s s.ev.at_ n d
    Answers .frameFill s
      (t.modCore s.ev.at_ (fun k => { k with frames := k.frames ++ [(s.ev.x, t.frameStale s.ev.at_ s.ev.x)] })) := by
  refine answers_runEvent (exec_frameFill s) ?_
  rw [hfs] at habsent
  simp only [hfs, habsent, Bool.false_eq_true, if_false, List.length_cons, hfull, if_true, Nat.le_refl, Nat.reduceAdd, frameOut]

end

theorem frames_frameOut {s : State} {c n : Nat} {d : Bool} {rest : List (Nat × Bool)} (h : (s.core c).frames = (n, d) :: rest) :
    ((frameOut s c n d).core c).frames = rest := by
  have hkept : ((if d then s.writeBack c n else s).core c).frames = (s.core c).frames := by
    split
    · exact (ownWrite_frames s c _ _).frames
    · rfl
  rw [frameOut, State.core_modCore_same, hkept, h]
  rfl

theorem frameStale_frameOut {s : State} {c n f : Nat} (d : Bool) (h : f ≠ n) :
    (frameOut s c n d).frameStale c f = s.frameStale c f := by
  have hdropped : ∀ t : State, (t.modCore c (fun k => { k with frames := k.frames.drop 1 })).frameStale c f = t.frameStale c f :=
    fun t => frameStale_congr (by rw [State.core_modCore_same]) (by rw [State.core_modCore_same]) (fun _ _ => rfl)
  rw [frameOut, hdropped]
  split
  · exact frameStale_writeBack s c h
  · rfl

theorem frameFill_frames {s : State} {n : Nat} {d : Bool} {rest : List (Nat × Bool)}
    (hfs : (s.core s.ev.at_).frames = (n, d) :: rest) (hfull : rest.length = 3)
    (habsent : ((n, d) :: rest).any (fun f => f.1 == s.ev.x) = false) :
    ∃ t, Answers .frameFill s t ∧ (t.core s.ev.at_).frames = rest ++ [(s.ev.x, s.frameStale s.ev.at_ s.ev.x)] := by
  have hother : s.ev.x ≠ n := fun h => by simp [h] at habsent
  refine ⟨_, frameFill_replaces (by rw [hfs]; exact habsent) hfs hfull, ?_⟩
  rw [State.core_modCore_same, frames_frameOut hfs, frameStale_frameOut d hother]

/-! ## Translations (R348) -/

/-- The context has asked the translation queue for the entry at a key. -/
def asksFor (key : Nat) (x : Ctx) : Bool := x.wait == some (.translation key) || x.wait == some (.fetchMap key)

/-- A core of the block whose queue reads has a context that asked. -/
def coreAsks (s : State) (k : Nat × Core) : Bool := k.1 / 64 == s.ev.at_ && k.2.ctxs.any (asksFor s.ev.x)

/-- The state in which the contexts that asked have been told what the queue has read. -/
def translated (s : State) : State :=
  let told := fun (x : Ctx) => if asksFor s.ev.x x = true then { x with mapRead := some (s.ev.x, word (s.mem.getLE s.ev.x 8)) } else x
  { s with
    tqueue := s.tqueue.filter (fun t => t != (s.ev.at_, s.ev.x))
    cores := s.cores.map (fun k => if coreAsks s k = true then (k.1, { k.2 with ctxs := k.2.ctxs.map told }) else k) }

/-- The clusters of the cores that asked. -/
def askingClusters (s : State) : List Nat := ((s.cores.filter (coreAsks s)).map (fun k => k.1 / 8)).eraseDups

theorem translationRead_does (s : State) : Answers .translationRead s
    (if bit (word (s.mem.getLE s.ev.x 8)) 63 && !(translated s).tableLost s.ev.x 8 then
      (askingClusters s).foldl (fun t cl => t.mapPage cl s.ev.x (word (s.mem.getLE s.ev.x 8))) (translated s)
    else translated s) := rfl

theorem ev_mapPage (s : State) (cl key : Nat) (pte : Word) : (s.mapPage cl key pte).ev = s.ev := by
  unfold State.mapPage
  extract_lets
  split <;> rfl

/-- The caches are filled for the event that is present, which no fill changes. -/
theorem foldl_mapPage (pte : Word) (cls : List Nat) (s : State) :
    cls.foldl (fun t cl => t.mapPage cl t.ev.x pte) s = cls.foldl (fun t cl => t.mapPage cl s.ev.x pte) s := by
  induction cls generalizing s with
  | nil => rfl
  | cons cl cls ih => rw [List.foldl_cons, List.foldl_cons, ih, ev_mapPage]

section
variable {s : State}

theorem translationRead_tells (h : bit (word (s.mem.getLE s.ev.x 8)) 63 = false ∨ (translated s).tableLost s.ev.x 8 = true) :
    Answers .translationRead s (translated s) := by
  refine answers_of_eq (translationRead_does s) (if_neg ?_)
  rcases h with h | h <;> simp [h]

theorem translationRead_caches (hvalid : bit (word (s.mem.getLE s.ev.x 8)) 63 = true)
    (hkept : (translated s).tableLost s.ev.x 8 = false) :
    Answers .translationRead s
      ((askingClusters s).foldl (fun t cl => t.mapPage cl t.ev.x (word (s.mem.getLE s.ev.x 8))) (translated s)) := by
  refine answers_of_eq (translationRead_does s) ((if_pos ?_).trans (foldl_mapPage _ _ (translated s)).symm)
  rw [hvalid, hkept]
  rfl

end

theorem contextSteps : ContextSteps :=
  ⟨fun _ => ⟨trapEntry_none, fun _ h => ⟨trapEntry_enters h, trapEntry_waits h⟩⟩, fun _ _ _ => noticeEntry_enters,
    fun _ => ⟨rfl, rfl, watchdog_kills, pauseExpire_ends, frameFill_adds, fun _ _ _ => frameFill_frames,
      translationRead_tells, translationRead_caches⟩⟩

end Sys2Proof.Proofs.ContextEvents
end

section
/-! PROOFS. The arbiter's choice, and the events of the lattice (R151, R152, R157, R310, R341). -/

namespace Sys2Proof.Proofs.LatticeEvents

open Sys2Proof.Machine Sys2Proof.Spec Sys2Proof.Proofs.Package

/-! ## The contenders (R152) -/

section
variable (s : State) (cl : Nat)

theorem coresOf_rising : (coresOf cl).Pairwise (· < ·) := by
  refine List.pairwise_map.2 (List.pairwise_lt_range.imp (fun h => ?_))
  omega

/-- Each contender stands once, the cores rising. -/
theorem contenders_rising : (s.contenders cl).Pairwise (fun p q => p.1 < q.1) := by
  have hes : (((coresOf cl).filter s.eligible).map (fun c => (c, (s.core c).weight))).Pairwise (fun p q => p.1 < q.1) :=
    List.pairwise_map.2 ((coresOf_rising cl).filter s.eligible)
  simp only [State.contenders]
  split
  · exact List.pairwise_map.2 ((coresOf_rising cl).filter s.eligible)
  · exact hes.filter _

/-- A core that alone is eligible contends alone, whatever its weight. -/
theorem contenders_alone {c : Nat} (h : (coresOf cl).filter s.eligible = [c]) : ∃ w, s.contenders cl = [(c, w)] := by
  simp only [State.contenders, h]
  by_cases hw : 0 < (s.core c).weight
  · exact ⟨(s.core c).weight, by simp [hw]⟩
  · exact ⟨1, by simp [hw]⟩

/-! ## The highest accumulator (R152) -/

theorem bestCore_none {l : List (Nat × Nat)} (h : bestCore s l = none) : l = [] := by
  cases l with
  | nil => rfl
  | cons p t =>
    rw [bestCore] at h
    split at h
    · cases h
    · split at h <;> cases h

/-- The best of a rising list has the highest accumulator, and is the lowest core among equals. -/
theorem bestCore_best {l : List (Nat × Nat)} {c : Nat} (hl : l.Pairwise (fun p q => p.1 < q.1)) (h : bestCore s l = some c) :
    ∃ w, (c, w) ∈ l ∧ ∀ p ∈ l, (s.core p.1).acc ≤ (s.core c).acc ∧ ((s.core p.1).acc = (s.core c).acc → c ≤ p.1) := by
  induction l generalizing c with
  | nil => cases h
  | cons p t ih =>
    obtain ⟨hp, ht⟩ := List.pairwise_cons.1 hl
    rw [bestCore] at h
    split at h
    · next hnone =>
      cases h
      rw [bestCore_none s hnone]
      exact ⟨p.2, by simp, by simp⟩
    · next b hbest =>
      obtain ⟨w, hmem, hall⟩ := ih ht hbest
      split at h
      · next hle =>
        cases h
        refine ⟨p.2, List.mem_cons_self, fun q hq => ?_⟩
        rcases List.mem_cons.1 hq with rfl | hq
        · exact ⟨le_refl _, fun _ => le_refl _⟩
        · exact ⟨(hall q hq).1.trans hle, fun _ => (hp q hq).le⟩
      · next hlt =>
        cases h
        refine ⟨w, List.mem_cons_of_mem _ hmem, fun q hq => ?_⟩
        rcases List.mem_cons.1 hq with rfl | hq
        · exact ⟨(not_le.1 hlt).le, fun heq => absurd heq.symm.le hlt⟩
        · exact hall q hq

end

/-! ## The accumulators (R152) -/

/-- The contenders' accumulators have gained their weights. -/
def gainedAll (s : State) (ws : List (Nat × Nat)) : State :=
  ws.foldl (fun s p => s.modCore p.1 (fun k => { k with acc := accHeld (k.acc + (p.2 : Int)) })) s

theorem core_gainedAll_other {ws : List (Nat × Nat)} {c : Nat} (h : ∀ p ∈ ws, p.1 ≠ c) (s : State) :
    (gainedAll s ws).core c = s.core c := by
  induction ws generalizing s with
  | nil => rfl
  | cons p t ih =>
    refine (ih (fun q hq => h q (List.mem_cons_of_mem _ hq)) _).trans (State.core_modCore_other _ _ _ _ ?_)
    exact (h p List.mem_cons_self).symm

theorem acc_gainedAll {ws : List (Nat × Nat)} (hws : ws.Pairwise (fun p q => p.1 < q.1)) {p : Nat × Nat} (hp : p ∈ ws) (s : State) :
    ((gainedAll s ws).core p.1).acc = accHeld ((s.core p.1).acc + (p.2 : Int)) := by
  induction ws generalizing s with
  | nil => cases hp
  | cons q t ih =>
    obtain ⟨hq, ht⟩ := List.pairwise_cons.1 hws
    rcases List.mem_cons.1 hp with rfl | hp
    · refine (congrArg Core.acc (core_gainedAll_other (fun r hr => (hq r hr).ne') _)).trans ?_
      rw [State.core_modCore_same]
    · refine (ih ht hp _).trans ?_
      rw [State.core_modCore_other _ _ _ _ (hq p hp).ne']

theorem foldl_weights (ws : List (Nat × Nat)) (n : Nat) : ws.foldl (fun n p => n + p.2) n = n + (ws.map (fun p => p.2)).sum := by
  induction ws generalizing n with
  | nil => rfl
  | cons p t ih => rw [List.foldl_cons, ih, List.map_cons, List.sum_cons, Nat.add_assoc]

/-! ## The decision (R151, R152) -/

section
variable {s : State} {cl c : Nat}

theorem decideGrant_winner (h : bestCore (gainedAll s (s.contenders cl)) (s.contenders cl) = some c) :
    s.decideGrant cl = (some c, (gainedAll s (s.contenders cl)).modCore c (fun k =>
      { k with acc := accHeld (k.acc - (((s.contenders cl).map (fun p => p.2)).sum : Nat)) })) := by
  have htotal := foldl_weights (s.contenders cl) 0
  rw [Nat.zero_add] at htotal
  rw [← htotal]
  change (match bestCore (gainedAll s (s.contenders cl)) (s.contenders cl) with
    | none => _
    | some c => _) = _
  rw [h]
  rfl

theorem decideGrant_none (h : bestCore (gainedAll s (s.contenders cl)) (s.contenders cl) = none) :
    s.decideGrant cl = (none, gainedAll s (s.contenders cl)) := by
  change (match bestCore (gainedAll s (s.contenders cl)) (s.contenders cl) with
    | none => _
    | some c => _) = _
  rw [h]
  rfl

theorem decideGrant_alone (h : (coresOf cl).filter s.eligible = [c]) : (s.decideGrant cl).1 = some c := by
  obtain ⟨w, hws⟩ := contenders_alone s cl h
  rw [decideGrant_winner (by rw [hws]; rfl)]

end

theorem grantChoice : GrantChoice := by
  refine ⟨fun s cl c => decideGrant_alone, fun s t cl c h => ?_⟩
  have hrising := contenders_rising s cl
  have hacc := fun p hp => acc_gainedAll hrising (p := p) hp s
  cases hbest : bestCore (gainedAll s (s.contenders cl)) (s.contenders cl) with
  | none => cases (decideGrant_none hbest).symm.trans h
  | some b =>
    cases (decideGrant_winner hbest).symm.trans h
    obtain ⟨w, hmem, hall⟩ := bestCore_best _ hrising hbest
    refine ⟨w, hmem, fun p hp => ?_, ?_, fun p hp hother => ?_⟩
    · have hbp := hall p hp
      rwa [hacc p hp, hacc (c, w) hmem] at hbp
    · rw [State.core_modCore_same]
      exact congrArg (fun z => accHeld (z - _)) (hacc (c, w) hmem)
    · rw [State.core_modCore_other _ _ _ _ hother, hacc p hp]

/-! ## Running an event -/

section
variable (s : State)

theorem exec_latticeGrant : exec .latticeGrant s = execLatticeGrant s := rfl
theorem exec_rewireComplete : exec .rewireComplete s = execRewireComplete s := rfl
theorem exec_movementServe : exec .movementServe s = execMovementServe s := rfl
theorem exec_latticeComplete : exec .latticeComplete s = execLatticeComplete s := rfl

end

/-! ## Grants and service (R151, R157) -/

section
variable {s t : State} {c : Nat}

section
variable {e : LEntry} (hready : s.grantReady s.ev.at_ = true) (hwin : s.decideGrant s.ev.at_ = (some c, t))
  (hhead : (t.core c).head = some e)
include hready hwin hhead

theorem latticeGrant_grants (h : e.wantsMatrix = (t.cluster s.ev.at_).matrix) : Answers .latticeGrant s (t.grant c) :=
  answers_runEvent (exec_latticeGrant s) (by
    simp only [hready, hwin, hhead, h, Bool.not_true, Bool.false_eq_true, if_false, if_true])

theorem latticeGrant_rewires (h : e.wantsMatrix ≠ (t.cluster s.ev.at_).matrix) : Answers .latticeGrant s
    (t.modCluster s.ev.at_ (fun k => { k with rewire := some (c, b2n e.wantsMatrix) })) :=
  answers_runEvent (exec_latticeGrant s) (by simp only [hready, hwin, hhead, h, Bool.not_true, Bool.false_eq_true, if_false])

end

/-- The state in which the rewiring of the event's cluster to wiring `w` has ended. -/
abbrev rewired (s : State) (w : Nat) : State := s.modCluster s.ev.at_ (fun k => { k with rewire := none, matrix := w == 1 })

section
variable {w : Nat} (hrewire : (s.cluster s.ev.at_).rewire = some (c, w))
include hrewire

theorem rewireComplete_does : Answers .rewireComplete s
    (if (rewired s w).eligible c && ((rewired s w).core c).head.any (fun e => b2n e.wantsMatrix == w) then (rewired s w).grant c
    else rewired s w) :=
  answers_runEvent (exec_rewireComplete s) (by simp only [hrewire])

end

theorem movementServe_serves
    (h : ((List.range 8).map (fun i => s.ev.at_ * 8 + ((s.cluster s.ev.at_).moveNext + i) % 8)).find? s.moveReadyCore = some c) :
    Answers .movementServe s ((s.serveCore c).modCluster s.ev.at_ (fun k => { k with moveNext := (c + 1) % 8 })) :=
  answers_runEvent (exec_movementServe s) (by simp only [turnOrder, h])

end

/-! ## Completion (R150, R310, R340, R341) -/

section
variable {s : State} {e : LEntry} {rest : List LEntry} (hseq : e.seq = s.ev.x) (hanswered : s.awaits s.ev.at_ e = false)
  (hopen : s.entryBlocked s.ev.at_ e = false)
include hseq hanswered hopen

section
variable (hflight : (s.core s.ev.at_).inflight = e :: rest)
include hflight

/-- The oldest entry in flight is the one that the event names. -/
theorem completable_inflight (hcan : (e.finished || (e.inChunk && e.supplied)) = true) :
    s.completable s.ev.at_ = some s.ev.x := by
  simp only [State.completable, hflight, hcan, hanswered, hopen, hseq, Bool.not_false, Bool.and_self, if_true]

theorem latticeComplete_completes (hfin : e.finished = true) : Answers .latticeComplete s (s.completeEntry s.ev.at_ e) := by
  have hcan := completable_inflight hseq hanswered hopen hflight (by rw [hfin, Bool.true_or])
  exact answers_runEvent (exec_latticeComplete s) (by
    simp only [hcan, hflight, hfin, bne_self_eq_false, Bool.false_eq_true, if_false, if_true])

theorem latticeComplete_goesOn (hfin : e.finished = false) (hchunk : e.inChunk = true) (hsupplied : e.supplied = true) :
    Answers .latticeComplete s (s.advanceChunk s.ev.at_ e false) := by
  have hcan := completable_inflight hseq hanswered hopen hflight (by rw [hchunk, hsupplied, hfin]; rfl)
  exact answers_runEvent (exec_latticeComplete s) (by
    simp only [hcan, hflight, hfin, bne_self_eq_false, Bool.false_eq_true, if_false])

end

section
variable (hflight : (s.core s.ev.at_).inflight = []) (hqueue : (s.core s.ev.at_).lq = e :: rest)
include hflight hqueue

/-- With nothing in flight the head of the queue is the one that the event names. -/
theorem completable_head (hcan : (e.finished || (e.inChunk && e.supplied)) = true) :
    s.completable s.ev.at_ = some s.ev.x := by
  have hstands : (e.inChunk || e.finished) = true := by
    cases hfin : e.finished
    · rw [hfin, Bool.false_or] at hcan
      rw [(Bool.and_eq_true_iff.1 hcan).1]
      rfl
    · exact Bool.or_true _
  simp only [State.completable, Core.head, hflight, hqueue, List.head?_cons, hstands, hcan, hanswered, hopen, hseq,
    Bool.not_false, Bool.and_self, if_true]

theorem latticeComplete_popsHead (hfin : e.finished = true) :
    Answers .latticeComplete s (s.modCore s.ev.at_ (fun k => k.popHead { e with row := 0 })) := by
  have hcan := completable_head hseq hanswered hopen hflight hqueue (by rw [hfin, Bool.true_or])
  exact answers_runEvent (exec_latticeComplete s) (by
    simp only [hcan, hflight, hqueue, Core.head, List.head?_cons, hfin, bne_self_eq_false, Bool.false_eq_true, if_false, if_true])

theorem latticeComplete_headGoesOn (hfin : e.finished = false) (hchunk : e.inChunk = true) (hsupplied : e.supplied = true) :
    Answers .latticeComplete s (s.advanceChunk s.ev.at_ e true) := by
  have hcan := completable_head hseq hanswered hopen hflight hqueue (by rw [hchunk, hsupplied, hfin]; rfl)
  exact answers_runEvent (exec_latticeComplete s) (by
    simp only [hcan, hflight, hqueue, Core.head, List.head?_cons, hfin, bne_self_eq_false, Bool.false_eq_true, if_false])

end
end

section
variable (s : State) (c : Nat) {e : LEntry}

/-- Without a CODE to write, an entry that completes writes its results and is recorded. -/
theorem completeEntry_results (h : e.poke = none) :
    let r := e.results c s
    s.completeEntry c e =
      (r.2.modCore c (fun k => { k with inflight := k.inflight.filter (fun o => o.seq != r.1.seq) })).recordEntry c r.1 := by
  rw [State.completeEntry, h]

/-- An `ssm` that failed writes CODE first (R341). -/
theorem completeEntry_writesCode {w : Nat × Nat} (h : e.poke = some w) :
    s.completeEntry c e = (e.writeCode c (s.ctxidOf c) w s).modCore c (fun k => k.putFlight { e with poke := none }) := by
  rw [State.completeEntry, h]

/-- The rows of a movement instruction were written as they moved (R157). -/
theorem results_movement (h : e.use.unit = .movement) : e.results c s = (e, s) := by
  simp only [LEntry.results, h]

end

theorem latticeSteps : LatticeSteps := by
  refine ⟨fun s t c e hready hwin hhead => ⟨latticeGrant_grants hready hwin hhead, latticeGrant_rewires hready hwin hhead⟩,
    fun s c w hrewire => ⟨fun hstands => ?_, fun hgone => ?_⟩, fun s c => movementServe_serves,
    fun s e rest hseq hanswered hopen => ⟨fun hflight hfin hpoke => ⟨?_, results_movement s _⟩, fun w hflight hfin hpoke => ?_,
      latticeComplete_goesOn hseq hanswered hopen, latticeComplete_popsHead hseq hanswered hopen,
      latticeComplete_headGoesOn hseq hanswered hopen⟩⟩
  · exact answers_of_eq (rewireComplete_does hrewire) (if_pos hstands)
  · exact answers_of_eq (rewireComplete_does hrewire) (if_neg (Bool.eq_false_iff.1 hgone))
  · exact answers_of_eq (latticeComplete_completes hseq hanswered hopen hflight hfin) (completeEntry_results s _ hpoke)
  · exact answers_of_eq (latticeComplete_completes hseq hanswered hopen hflight hfin) (completeEntry_writesCode s _ hpoke)

/-- Settles O59: each event of a core and of its lattice runs its own case, and the arbiter's choice has the highest accumulator. -/
theorem coreEvents : Obligations.CoreEvents := ⟨ContextEvents.contextSteps, latticeSteps, grantChoice⟩

end Sys2Proof.Proofs.LatticeEvents
end

section
/-! PROOFS. The copy unit: the jobs of a cluster's queues, the answers that reach them, multicasts, and the end of a migration. -/

namespace Sys2Proof.Proofs.CopyUnit

open Sys2Proof.Machine Sys2Proof.Spec Sys2Proof.Proofs.Package Sys2Proof.Proofs.Links Sys2Proof.Proofs.Requests

section
variable (s : State)

theorem exec_copyJobStart : exec .copyJobStart s = execCopyJobStart s := rfl
theorem exec_bdata : exec .bdata s = execBdata s := rfl
theorem exec_lack : exec .lack s = execLack s := rfl
theorem exec_ack : exec .ack s = execAck s := rfl
theorem exec_fail : exec .fail s = execFail s := rfl
theorem exec_msetup : exec .msetup s = execMsetup s := rfl
theorem exec_mcastSend : exec .mcastSend s = execMcastSend s := rfl
theorem exec_mdata : exec .mdata s = execMdata s := rfl
theorem exec_mjoin : exec .mjoin s = execMjoin s := rfl
theorem exec_mcastComplete : exec .mcastComplete s = execMcastComplete s := rfl
theorem exec_migrationEnd : exec .migrationEnd s = execMigrationEnd s := rfl

end

/-! ## The jobs that a queue keeps (R290) -/

section
variable (s : State) (cl q seq : Nat)

@[simp] theorem jobsOf_setJobs (js : List Job) : (s.setJobs cl q js).jobsOf cl q = js := by
  rw [State.jobsOf, State.setJobs, State.cluster_modCluster_same, NMap.get_put_same]

@[simp] theorem jobsOf_modJobAt (f : Job → Job) :
    (s.modJobAt cl q seq f).jobsOf cl q = (s.jobsOf cl q).map (fun j => if j.seq = seq ∧ ¬ j.done then f j else j) :=
  jobsOf_setJobs s cl q _

/-- The end of a copy job completes no packet: it changes the job alone. -/
theorem endJob_copy {j : Job} (fault faultH : Nat) (hfind : (s.jobsOf cl q).find? (fun j => j.seq == seq && !j.done) = some j)
    (hkind : j.kind = .copy) :
    s.endJob cl q seq fault faultH = s.modJobAt cl q seq (fun j => { j with
      done := true, fault := fault, faultH := faultH, tag := 0, lines := 0 }) := by
  simp only [State.endJob, hfind, hkind]

end

/-! ## The step of a head job (R162, R164, R289, R292) -/

/-- The turn of the queue that the event names is over. -/
def turned (s : State) : State := s.modCluster s.ev.at_ (fun k => { k with jobNext := (s.ev.x + 1) % 16 })

section
variable {s : State} {j : Job} (hhead : (turned s).headJob s.ev.at_ s.ev.x = some j)
include hhead

theorem copyJobStart_copy (hkind : j.kind = .copy) (htag : j.tag = 0) :
    Answers .copyJobStart s (if j.total ≤ j.pos then (turned s).endJob s.ev.at_ s.ev.x j.seq j.fault j.faultH
      else (turned s).copyPiece s.ev.at_ s.ev.x j none) := by
  have hready : (turned s).jobReady s.ev.at_ s.ev.x = true := by simp only [State.jobReady, hhead, hkind, htag, beq_self_eq_true]
  unfold turned at hhead hready ⊢
  exact answers_runEvent (exec_copyJobStart s) (by
    simp only [hhead, hready, hkind, Bool.not_true, Bool.false_eq_true, if_false])

theorem copyJobStart_join {mask : Nat} {upto : List Nat} (hkind : j.kind = .join mask upto)
    (hover : (turned s).joinOver s.ev.at_ (mask &&& (2 ^ 16 - 1 - 2 ^ s.ev.x)) upto = true) :
    Answers .copyJobStart s ((turned s).endJob s.ev.at_ s.ev.x j.seq 0 0) := by
  have hready : (turned s).jobReady s.ev.at_ s.ev.x = true := by simp only [State.jobReady, hhead, hkind, hover]
  unfold turned at hhead hready ⊢
  exact answers_runEvent (exec_copyJobStart s) (by
    simp only [hhead, hready, hkind, Bool.not_true, Bool.false_eq_true, if_false])

theorem copyJobStart_mcast {cores : Nat} (hkind : j.kind = .mcast cores) (htag : j.tag = 0) :
    Answers .copyJobStart s ((turned s).mcastStep s.ev.at_ s.ev.x j cores) := by
  have hready : (turned s).jobReady s.ev.at_ s.ev.x = true := by simp only [State.jobReady, hhead, hkind, htag, beq_self_eq_true]
  unfold turned at hhead hready ⊢
  exact answers_runEvent (exec_copyJobStart s) (by
    simp only [hhead, hready, hkind, Bool.not_true, Bool.false_eq_true, if_false])

end

section
variable {s u : State} {cl q cores : Nat} {j : Job}

theorem mcastStep_badSource {b : Bad} (h : s.mcastSource cl j = (.error b, u)) :
    s.mcastStep cl q j cores = u.endJob cl q j.seq b.cause j.srch.index.toNat := by
  simp only [State.mcastStep, h]

/-- A source for which this device has a serving stage is set up at the interfaces (R404). -/
theorem mcastStep_setsUp {a : Acc} (h : s.mcastSource cl j = (.ok a, u)) (hnear : u.mcastFar j a = false) :
    s.mcastStep cl q j cores = u.sendSetups cl q j cores := by
  simp only [State.mcastStep, h, hnear, Bool.not_false, if_true]

/-- A piece without poison for local memory is written there, and the job goes on. -/
theorem writePiece_local {d o : Nat} {bs : List Byte} {bad : List Bool}
    (hside : s.copySide cl j j.dsth (j.places j.pos).2 bs.length true = (.ok (.loc d o), u)) (hbad : bad.any id = false) :
    s.writePiece cl q j bs bad = (u.intoLocal d o bs bad (parity (u.cluster cl).snapGen)).modJobAt cl q j.seq
      (fun k => k.at_ (j.pos + bs.length)) := by
  simp only [State.writePiece, hside, hbad, Bool.false_eq_true, if_false]

/-- A line of another device that the next piece needs and that has not come is asked for. -/
theorem copyPiece_asks {a : Acc} {v : State} {h : Home × Nat} (hsrc : s.sideShut cl j.ctxid j.srch = false)
    (hdst : s.sideShut cl j.ctxid j.dsth = false)
    (hside : s.copySide cl j j.srch (j.places j.pos).1 (s.piece j) false = (.ok (.obj a), u))
    (hhost : u.hostDenies (a.homeAt 0) = false) (hread : u.unitRead cl j a 0 (s.piece j) = (.error h, v)) :
    s.copyPiece cl q j none = v.askUnit cl q j (v.path j.ctxid (unitLeaf a.ent cl)) h := by
  simp only [State.copyPiece, hsrc, hdst, hside, hhost, hread, Bool.or_self, Bool.false_eq_true, if_false]

end

theorem copyJobStep : CopyJobStep := by
  refine ⟨fun s j hhead => ⟨fun hkind htag hend => ?_, fun hkind htag hmore => ?_, fun mask upto hkind hover => ?_,
      fun cores b u hkind htag hsource => ?_, fun cores a u hkind htag hsource hnear => ?_⟩,
    fun s cl q d o j bs bad u hside hbad => writePiece_local hside hbad,
    fun s cl q j a u v h hsrc hdst hside hhost hread => copyPiece_asks hsrc hdst hside hhost hread,
    fun s cl q seq fault faultH j hfind hkind => ?_⟩
  · exact answers_of_eq (copyJobStart_copy hhead hkind htag) (if_pos hend)
  · exact answers_of_eq (copyJobStart_copy hhead hkind htag) (if_neg (Nat.not_le.2 hmore))
  · exact copyJobStart_join hhead hkind hover
  · exact answers_of_eq (copyJobStart_mcast hhead hkind htag) (mcastStep_badSource hsource)
  · exact answers_of_eq (copyJobStart_mcast hhead hkind htag) (mcastStep_setsUp hsource hnear)
  · rw [endJob_copy s cl q seq fault faultH hfind hkind, jobsOf_modJobAt]

/-! ## Answers for the jobs of a cluster (R38, R164, R406) -/

/-- The job that waits has the line that BDATA brings, with its marks. -/
def lineCame (s : State) (cl q : Nat) (j : Job) : State :=
  (counted s).jobLine cl q j (s.ev.msg.payload.flatMap (fun w => leBytes 8 w.toNat) ++ leBytes 2 s.ev.msg.poison)

section
variable {s : State} {cl q : Nat} {j : Job} (hp : passes s) (hni : niOf s.ev.at_ = some cl)
  (hjob : (counted s).jobByTag cl s.ev.msg.tagid = some (q, j))
include hp hni hjob

theorem bdata_waits (h : 4 ≤ s.ev.at_ % 16 ∨ j.intoCluster = false) : Answers .bdata s (lineCame s cl q j) := by
  have hwaits : ¬ (s.ev.at_ % 16 < 4 ∧ j.intoCluster = true) := by
    rintro ⟨hport, hinto⟩
    obtain hunit | hout := h
    · omega
    · exact Bool.false_ne_true (hout.symm.trans hinto)
  exact answers_takeMsgAt_passes (exec_bdata s) hp (by
    simp only [hni, hjob, Option.bind_some, Option.map_some, if_neg hwaits, lineCame])

/-- A line for local memory of the cluster is written on at once. -/
theorem bdata_goesOn {k : Job} (hport : s.ev.at_ % 16 < 4) (hinto : j.intoCluster = true)
    (hhead : (lineCame s cl q j).headJob cl q = some k) :
    Answers .bdata s ((lineCame s cl q j).copyPiece cl q k (some s.ev.msg)) := by
  unfold lineCame at hhead ⊢
  exact answers_takeMsgAt_passes (exec_bdata s) hp (by
    simp only [hni, hjob, Option.bind_some, Option.map_some, hport, hinto, and_self, if_true, hhead])

theorem lack_counts :
    Answers .lack s (if j.lines ≤ 1 then (counted s).modJobAt cl q j.seq (fun k => { k with lines := 0, tag := 0 })
      else (counted s).modJobAt cl q j.seq (fun k => { k with lines := j.lines - 1 })) :=
  answers_takeMsgAt_passes (exec_lack s) hp (by simp only [hni, hjob, Option.bind_some, Option.map_some])

theorem fail_endsCopy (hnone : (counted s).remoteFor s.ev.at_ s.ev.msg = none) (hkind : j.kind = .copy) :
    Answers .fail s ((counted s).endJob cl q j.seq
      (if s.ev.msg.sdev = (counted s).devId ∨ bits (s.ev.msg.payload.getD 0 0) 63 56 = Cause.linkDown then
        bits (s.ev.msg.payload.getD 0 0) 63 56 else Cause.remoteFail)
      (if j.lines = 0 then j.srch else j.dsth).index.toNat) :=
  answers_takeMsgAt_passes (exec_fail s) hp (by
    simp only [hnone, hni, hjob, Option.bind_some, Option.orElse_some, Option.map_some, hkind])

end

/-- A line without poison that comes to a network interface for local memory is written there and acknowledged to the copy unit. -/
theorem lineIn_local {s u : State} {cl q c o : Nat} {j : Job} {bs : List Byte} {bad : List Bool} (m : Msg)
    (hbad : bad.any id = false)
    (hside : s.copySide cl j j.dsth (j.places j.pos).2 bs.length true = (.ok (.loc c o), u)) :
    let v := (u.intoLocal c o bs bad m.col).modJobAt cl q j.seq (fun k => { k with
      pos := j.pos + bs.length, tag := m.tagid + 1, lines := 1, got := [] })
    s.lineIn cl q j m bs bad = v.inject (mkMsg v.devId (cuEndpoint cl) v.devId (niEndpoint cl) 1 0x46 m.tagid m.part
      (parity (v.cluster cl).snapGen) []) := by
  simp only [State.lineIn, hside, hbad, Bool.false_eq_true, if_false]

section
variable {s : State} {r : Remote} (hp : passes s) (hr : (counted s).remoteFor s.ev.at_ s.ev.msg = some r)
include hp hr

theorem ack_completes : Answers .ack s (complete r s.ev.msg (counted s)) :=
  answers_takeMsgAt_passes (exec_ack s) hp (by simp only [hr])

theorem fail_failsRequest :
    Answers .fail s (((counted s).failCause r s.ev.msg).2.failRemote r ((counted s).failCause r s.ev.msg).1.1
      ((counted s).failCause r s.ev.msg).1.2) :=
  answers_takeMsgAt_passes (exec_fail s) hp (by simp only [hr])

end

theorem copyAnswers : CopyAnswers := by
  refine ⟨fun s cl q j hp hni hjob => ⟨bdata_waits hp hni hjob, fun k => bdata_goesOn hp hni hjob, fun hlast => ?_,
      fun hmore => ?_, fun hnone hkind => ?_⟩,
    fun s cl q c o j m bs bad u hbad hside => lineIn_local m hbad hside,
    fun s r hp hr => ⟨fun hw => ?_, fail_failsRequest hp hr⟩⟩
  · exact answers_of_eq (lack_counts hp hni hjob) (if_pos hlast)
  · exact answers_of_eq (lack_counts hp hni hjob) (if_neg (Nat.not_le.2 hmore))
  · have hcause := bits_top (s.ev.msg.payload.getD 0 0) (lo := 56) (by decide)
    simp only [← hcause]
    exact fail_endsCopy hp hni hjob hnone hkind
  · exact answers_of_eq (ack_completes hp hr) (congrArg Prod.snd (handReply_notAwaited _ _ _ hw))

/-! ## Multicast at the serving stage (R180, R405, R406) -/

/-- The record `r` of unit `u` becomes `n`. -/
def putRec (s : State) (u : Nat) (r n : McastRec) : State :=
  s.modSlice u (fun k => { k with records := k.records.map (fun q => if q = r then n else q) })

/-- A change of the record `r` alone may be read off `r`. -/
theorem modSlice_mapRecord (s : State) (u : Nat) (r : McastRec) (f : McastRec → McastRec) :
    s.modSlice u (fun k => { k with records := k.records.map (fun q => if q = r then f q else q) }) = putRec s u r (f r) := by
  have hf : (fun q => if q = r then f q else q) = (fun q => if q = r then f r else q) := by
    funext q
    split
    · next hq => rw [hq]
    · rfl
  rw [hf, putRec]

/-- The record that a multicast read opens. -/
def newRecord (s : State) (ep : Nat) (m : Msg) (pl : Place) : McastRec :=
  ⟨m.tagid / 2048, pl.ctxid, m.req.handle, m.req.vc, epCluster m.sep / 8, m.part, s.readLines ep m pl, [], m.mcmask, 0, [],
    [(m.tagid / 2048, m.sep, m.tagid)], [], false⟩

/-- A live record of the stage holds a line of the read, and the read may join it. -/
def canJoin (s : State) (ep : Nat) (m : Msg) (pl : Place) (r : McastRec) : Bool :=
  r.joins < 15 && r.ctxid == pl.ctxid && r.vc == m.req.vc &&
    (s.readLines ep m pl).any (fun l => r.lines.contains l || r.sent.contains l)

theorem serveMrd_opens {s : State} {ep : Nat} {m : Msg} {pl : Place} (hpl : s.placeOf ep m [rR] = .ok pl)
    (hnone : (s.slice (waitUnit ep)).records.any (canJoin s ep m pl) = false) :
    serveMrd ep m s = s.modSlice (waitUnit ep) (fun k => { k with records := k.records ++ [newRecord s ep m pl] }) := by
  have hfind : (s.slice (waitUnit ep)).records.find? (canJoin s ep m pl) = none :=
    List.find?_eq_none.2 (List.any_eq_false.1 hnone)
  unfold canJoin at hfind
  simp only [serveMrd, hpl, hfind, newRecord]

theorem serve_mrd {s : State} {ep : Nat} {m : Msg} (hop : m.op = 0x22) (hopen : s.bankShut ep m = false) :
    s.serve ep m = some (serveMrd ep m s) := by
  simp only [State.serve, hopen, hop, Bool.false_eq_true, if_false]

/-- The message of line `l` of a record, and the state with the line read. -/
def nextLine (s : State) (r : McastRec) (l : Nat × Nat) : Msg × State :=
  s.lineMsg s.ev.at_ r r.id (0x60 + r.joins) l.1 l.2 r.mask true

/-- The record once that line has been sent: every cluster of its mask owes an acknowledgement. -/
def afterLine (s : State) (r : McastRec) (l : Nat × Nat) (rest : List (Nat × Nat)) : McastRec := { r with
  lines := rest, sent := r.sent ++ [l], owed := r.owed ++ (onesOf r.mask 8).map (fun c => (r.id, l.1, c)),
  bad := if (nextLine s r l).1.poison = 0 then r.bad else r.bad ++ r.asks.map (fun a => a.1) }

section
variable {s : State} {r : McastRec} {l : Nat × Nat} {rest : List (Nat × Nat)}
  (hrec : (s.slice s.ev.at_).records.find? (fun r => r.id == s.ev.x && s.recReady s.ev.at_ r) = some r)
  (hlines : r.lines = l :: rest)
include hrec hlines

theorem mcastSend_asks (habsent : s.recAbsent r l.2 = true) :
    Answers .mcastSend s ((putRec s s.ev.at_ r { r with asking := true }).askLine (s.payer r.ctxid).1 mcastAgent r.handle
      (s.recHome r l.2) (unitEndpoint s.ev.at_)) :=
  answers_runEvent (exec_mcastSend s) (by simp only [hrec, hlines, habsent, if_true, modSlice_mapRecord])

theorem mcastSend_sends (hpresent : s.recAbsent r l.2 = false) :
    Answers .mcastSend s (putRec (((nextLine s r l).2.inject (nextLine s r l).1).unitSent s.ev.at_ (popCount r.mask 8))
      s.ev.at_ r (afterLine s r l rest)) :=
  answers_runEvent (exec_mcastSend s) (by
    simp only [hrec, hlines, hpresent, Bool.false_eq_true, if_false, modSlice_mapRecord]
    rfl)

end

/-- A record that owes nothing more and has one requester completes it, unless another record of the unit serves it too. -/
theorem mcastComplete_completes {s : State} {r : McastRec} {a : Nat × Nat × Nat}
    (hrec : (s.slice s.ev.at_).records.find? (fun r => r.id == s.ev.x && r.lines.isEmpty && r.owed.isEmpty) = some r)
    (hasks : r.asks = [a]) :
    let t := s.modSlice s.ev.at_ (fun k => { k with records := k.records.erase r })
    (t.slice s.ev.at_).records.any (fun q => q.asks.contains a) = false →
    Answers .mcastComplete s (t.inject { mkMsg t.devId a.2.1 t.devId (unitEndpoint s.ev.at_) 1 0x42 a.2.2 r.part
      (parity (t.epGen (unitEndpoint s.ev.at_))) [] with poison := b2n (r.bad.contains a.1) }) := by
  intro t hlast
  exact answers_runEvent (exec_mcastComplete s) (by
    simp only [hrec, hasks, List.foldl_cons, List.foldl_nil]
    exact if_neg (Bool.eq_false_iff.1 hlast))

/-! ## Multicast at the network interface (R404, R405) -/

section
variable {s : State} (hp : passes s)
include hp

theorem msetup_installs :
    let w := s.ev.msg.payload.getD 0 0
    let entry : Delivery := ⟨bits w 63 59, bits w 58 51, bits w 50 40, bits w 39 29, []⟩
    let u := (counted s).modCluster (epCluster s.ev.at_) (fun k => { k with
      deliv := k.deliv.filter (fun o => o.id != entry.id) ++ [entry], joins := k.joins.filter (fun n => n.of_ != entry.id) })
    Answers .msetup s (u.inject (mkMsg u.devId s.ev.msg.sep u.devId s.ev.at_ 1 0x42 s.ev.msg.tagid s.ev.msg.part
      (parity (u.epGen s.ev.at_)) [])) :=
  answers_takeMsgAt_passes (exec_msetup s) hp rfl

theorem mdata_takesLine :
    Answers .mdata s (if ((counted s).cluster (epCluster s.ev.at_)).holdsNotices s.ev.msg = true then
        (counted s).deliverLine (epCluster s.ev.at_) s.ev.msg
      else (counted s).modCluster (epCluster s.ev.at_) (fun k => { k with held := k.held ++ [s.ev.msg] })) :=
  answers_takeMsgAt_passes (exec_mdata s) hp rfl

end

theorem holdsNotices_iff {k : Cluster} {m : Msg} : k.holdsNotices m = true ↔
    m.op - 0x60 ≤ (k.joins.filter (fun n => n.of_ == m.tagid / 2048 && n.src == m.sep)).length :=
  decide_eq_true_iff

theorem modCluster_congr {s : State} {n : Nat} {f g : Cluster → Cluster} (h : f (s.cluster n) = g (s.cluster n)) :
    s.modCluster n f = s.modCluster n g := by
  simp only [State.modCluster, h]

@[simp] theorem shareGot_held (k : Cluster) (of_ by_ : Nat) : (k.shareGot of_ by_).held = k.held := by
  unfold Cluster.shareGot
  split <;> rfl

@[simp] theorem note_held (k : Cluster) (n : JoinNote) : (k.note n).held = k.held := rfl

/-- The notice of MJOIN is held, and the lines of the joined record count for the joiner. -/
def noticed (s : State) : State :=
  let w := s.ev.msg.payload.getD 0 0
  (counted s).modCluster (epCluster s.ev.at_) (fun k =>
    (k.shareGot (bits w 63 59) (bits w 58 54)).note ⟨bits w 63 59, bits w 58 54, bits w 53 43, s.ev.msg.sep⟩)

theorem noticed_held (s : State) :
    ((noticed s).cluster (epCluster s.ev.at_)).held = ((counted s).cluster (epCluster s.ev.at_)).held := by
  simp only [noticed, State.cluster_modCluster_same, note_held, shareGot_held]

/-- Where no line waits, a notice delivers none. -/
theorem mjoin_nothingHeld {s : State} (hp : passes s) (hheld : ((counted s).cluster (epCluster s.ev.at_)).held = []) :
    Answers .mjoin s ((noticed s).modCluster (epCluster s.ev.at_) (fun k => { k with held := [] })) := by
  have hnone : ((noticed s).cluster (epCluster s.ev.at_)).held = [] := (noticed_held s).trans hheld
  have hstays : (noticed s).modCluster (epCluster s.ev.at_) (fun k => { k with
      held := k.held.filter (fun h => !([] : List Msg).contains h) }) =
      (noticed s).modCluster (epCluster s.ev.at_) (fun k => { k with held := [] }) :=
    modCluster_congr (by simp only [hnone, List.filter_nil])
  refine answers_takeMsgAt_passes (exec_mjoin s) hp (Eq.trans ?_ hstays)
  unfold noticed at hnone ⊢
  simp only [hnone, List.filter_nil, List.foldl_nil]

theorem multicastSteps : MulticastSteps := by
  refine ⟨fun s hp => ?_, fun t ep m pl hop hopen hpl hnone => ?_,
    fun s r l rest hrec hlines => ⟨mcastSend_asks hrec hlines, mcastSend_sends hrec hlines⟩,
    fun s hp => ⟨fun h => ?_, fun h => ?_, fun hheld => ?_⟩,
    fun s r hrec a hasks hlast => mcastComplete_completes hrec hasks hlast⟩
  · have hid := bits_top (s.ev.msg.payload.getD 0 0) (lo := 59) (by decide)
    simp only [← hid]
    exact msetup_installs hp
  · exact (serve_mrd hop hopen).trans (congrArg some (serveMrd_opens hpl hnone))
  · exact answers_of_eq (mdata_takesLine hp) (if_pos (holdsNotices_iff.2 h))
  · exact answers_of_eq (mdata_takesLine hp) (if_neg (mt holdsNotices_iff.1 (Nat.not_le.2 h)))
  · have hid := bits_top (s.ev.msg.payload.getD 0 0) (lo := 59) (by decide)
    simp only [← hid]
    exact mjoin_nothingHeld hp hheld

/-! ## The end of a migration (R57, R58) -/

theorem transitDone_iff {s : State} {key : Nat} {r : MapRec} {x : Transit} (hmap : s.maps.look key = some r)
    (hx : r.transit = some x) : s.transitDone key = true ↔ x.total ≤ x.copied := by
  simp only [State.transitDone, hmap, hx, decide_eq_true_eq]

/-- The pages have moved, and the entries of the object name their new tier. -/
def pagesMoved (s : State) (r : MapRec) (x : Transit) : State :=
  let key := s.ev.at_
  let mv := s.moves key r x
  (((s.rewriteMap key r x).movePages mv).modProc r.ctxid (fun p => { p with left := p.left ++ mv.map (fun m => m.1) })).placeAll
    r.ctxid (keyParts key).2.2.2 (fun e => { e with tier := b2n x.toSlow, mig := 0, qv := false, qt := false })

theorem migrationEnd_ends {s : State} {r : MapRec} {x : Transit} (hmap : s.maps.look s.ev.at_ = some r)
    (hx : r.transit = some x) (hdone : x.total ≤ x.copied) (hqueued : x.qjobs = []) :
    let v := (pagesMoved s r x).releaseTier { r with transit := none } (1 - b2n x.toSlow) false
    Answers .migrationEnd s (x.jobs.foldl (fun s j => s.endJob j.1 j.2.1 j.2.2 0 0)
      { v.2 with maps := v.2.maps.put s.ev.at_ v.1 }) := by
  have hover := (transitDone_iff hmap hx).2 hdone
  refine answers_runEvent (exec_migrationEnd s) ?_
  simp only [hmap, hx, hover, hqueued, Bool.not_true, Bool.false_eq_true, if_false, List.isEmpty_nil, if_true, List.foldl_nil,
    ite_self]
  rfl

theorem migrationStep : MigrationStep := by
  intro s r x hmap hx hdone hqueued
  have hend := migrationEnd_ends hmap hx hdone hqueued
  have hsource : 1 - b2n x.toSlow = if x.toSlow then 0 else 1 := by cases x.toSlow <;> rfl
  rw [hsource] at hend
  exact hend

/-- Settles O51: the copy unit, the stages and interfaces of a multicast, and the end of a transit each run their own case. -/
theorem copyEvents : Obligations.CopyEvents := ⟨copyJobStep, copyAnswers, multicastSteps, migrationStep⟩

end Sys2Proof.Proofs.CopyUnit
end

section
/-! PROOFS. A store that leaves the write queue with no virtual cache on its path (R179, R252). -/

namespace Sys2Proof.Proofs.Drain

open Sys2Proof.Machine Sys2Proof.Spec

section
variable {s : State}

/-- With no job on the device there is no snapshot that a write could concern. -/
theorem noteWrite_noJobs (h : s.jobs = []) (sl : Option Nat) (key : Nat) (bs : List Byte) (mask : Nat) :
    s.noteWrite sl key bs mask = s := by
  rw [State.noteWrite, h]
  rfl

/-- No doubleword takes poison from a store that carries none. -/
theorem markHome_zero (s : State) (h : Home) : s.markHome h 0 = s := by cases h <;> rfl

/-- With no stage left, what goes to a home in memory reaches it: only a host refuses an access. -/
theorem storeAt_mem (s : State) (ctxid cl src la key : Nat) (bs : List Byte) (mask pz : Nat) :
    storeAt ctxid cl src la (.mem key) bs mask pz [] s = (s.homeStore (.mem key) bs mask).markHome (.mem key) pz := rfl

theorem map_getD_range (bs : List Byte) : (List.range bs.length).map (fun i => bs.getD i 0) = bs := by
  refine List.ext_getElem (by simp) fun i _ hi => ?_
  simp [hi]

variable {key : Nat} {bs : List Byte} {mask : Nat}

/-- A write to a line in service that no transit has copied, while no snapshot is in progress, is a masked write to memory. -/
theorem homePoke_mem (hserv : s.inService key = true) (hfwd : s.forwardTo key = []) (hjobs : s.jobs = []) :
    s.homePoke (.mem key) bs mask = { s with mem := s.mem.putMasked key bs mask } := by
  simp only [State.homePoke, hfwd, hserv, if_true, noteWrite_noJobs hjobs, List.foldl_nil]

/-- Where no field is read-only, a store writes the bytes that it brings. -/
theorem homeStore_mem (hro : ∀ k b, s.roByte k b = b)
    (hguard : s.guarded (.mem key) bs (s.roMask key bs.length mask) = mask) :
    s.homeStore (.mem key) bs mask = s.homePoke (.mem key) bs mask := by
  simp only [State.homeStore, hro, hguard, map_getD_range]

end

/-- Settles O23: the store is one masked write to memory, and `Mem.get_putMasked` says what is read after it. -/
theorem drainedStoreReachesMemory : Obligations.DrainedStoreReachesMemory := by
  intro s key bytes mask hserv hfwd hjobs hro hguard t
  have ht : t = { s with mem := s.mem.putMasked key bytes mask } := by
    rw [← homePoke_mem hserv hfwd hjobs, ← homeStore_mem hro hguard, ← markHome_zero (s.homeStore _ _ _) (.mem key)]
    exact storeAt_mem s 0 256 0 0 key bytes mask 0
  rw [ht]
  refine ⟨fun k hk hmask => ?written, fun b hb => ?kept, rfl, rfl, rfl, rfl⟩
  case written =>
    rw [Mem.get_putMasked, Nat.add_sub_cancel_left, if_pos ⟨Nat.le_add_right _ _, Nat.add_lt_add_left hk _, hmask⟩]
  case kept =>
    refine (s.mem.get_putMasked key bytes mask b).trans (if_neg ?_)
    rintro ⟨hlow, hhigh, hmask⟩
    simp only [hmask, Bool.true_eq_false, or_false] at hb
    omega

end Sys2Proof.Proofs.Drain
end

section
/-! PROOFS. Loads and stores through h0: local memory, the frames, the event window, and what they raise (R132, R141, R166, R167,
R249 to R251). -/

namespace Sys2Proof.Proofs.LocalAccess

open Sys2Proof.Machine Sys2Proof.Spec Sys2Proof.Proofs.Sync

/-! ## The instructions -/

/-- Sign extension of the low bits of a number, as the bit vector of that width has it. -/
theorem sextN_toInt {n : Nat} (hn : 0 < n) (v : Nat) : sextN n v = (BitVec.ofNat n v).toInt := by
  have hhalf : 2 ^ n = 2 * 2 ^ (n - 1) := by rw [← Nat.pow_succ', Nat.succ_eq_add_one, Nat.sub_add_cancel hn]
  simp only [sextN, if_neg hn.ne', BitVec.toInt_eq_toNat_cond, BitVec.toNat_ofNat]
  split <;> split <;> omega

theorem extS_signExtend {n : Nat} (hn : 0 < n) : extS n = fun v => (BitVec.ofNat n v).signExtend 64 :=
  funext fun v => congrArg (BitVec.ofInt 64) (sextN_toInt hn v)

section
variable {i : Instr} {d a : BitVec 5} {h : BitVec 4} {o : BitVec 9} {n : Nat}

theorem exec_of_loadForm {ext : Nat → Word} (hi : loadForm i = some (d, a, h, o, n, ext)) (s : State) :
    exec i s = load d a h o n ext s := by
  unfold loadForm at hi
  split at hi <;> cases hi
  · exact congrArg (load d a h o 1 · s) (extS_signExtend (by decide))
  · rfl
  · exact congrArg (load d a h o 2 · s) (extS_signExtend (by decide))
  · rfl
  · exact congrArg (load d a h o 4 · s) (extS_signExtend (by decide))
  · rfl
  · rfl

theorem exec_of_storeForm (hi : storeForm i = some (d, a, h, o, n)) (s : State) : exec i s = store i d a h o n s := by
  unfold storeForm at hi
  split at hi <;> cases hi <;> rfl

theorem size_of_loadForm {ext : Nat → Word} (hi : loadForm i = some (d, a, h, o, n, ext)) :
    n = 1 ∨ n = 2 ∨ n = 4 ∨ n = 8 := by
  unfold loadForm at hi
  split at hi <;> cases hi <;> decide

theorem size_of_storeForm (hi : storeForm i = some (d, a, h, o, n)) : n = 1 ∨ n = 2 ∨ n = 4 ∨ n = 8 := by
  unfold storeForm at hi
  split at hi <;> cases hi <;> decide

/-- The load of a doubleword extends nothing. -/
theorem ext_of_doubleword {ext : Nat → Word} (hi : loadForm i = some (d, a, h, o, 8, ext)) : ext = word := by
  unfold loadForm at hi
  split at hi <;> cases hi
  rfl

end

/-! ## The checks (R166, R167) -/

theorem hEval_off48 (off : Int) : hEval 0 (off48 off) = word (off % 2 ^ 48).toNat := by
  rw [hEval, off48, Nat.zero_mul, Nat.zero_add]
  rfl

section
variable {off : Int} {n : Nat}

theorem localCheck_outside (h : off < 0 ∨ 0x201000 < off + n) :
    localCheck off n = .error (Bad.of Cause.hBound (word (off % 2 ^ 48).toNat)) := by
  rw [← hEval_off48]
  exact if_pos (by simpa using h)

/-- Inside the local range the alignment comes first, then the size of an access of the event window, then the window. -/
theorem localCheck_inside (hlow : 0 ≤ off) (hhigh : off + n ≤ 0x201000) :
    localCheck off n =
      if off % n ≠ 0 then .error (Bad.of Cause.hAlign (word (off % 2 ^ 48).toNat))
      else if 0x200000 ≤ off then
        (if n = 8 then .ok () else .error (Bad.of Cause.hAlign (word (off % 2 ^ 48).toNat)))
      else if 0x40000 ≤ off then .error (Bad.of Cause.windowScalar (word (off % 2 ^ 48).toNat))
      else .ok () := by
  lift off to Nat using hlow
  have hin : ¬ (((off : Int) < 0 || 0x201000 < (off : Int) + n) = true) := by
    simp only [Bool.or_eq_true, decide_eq_true_eq]
    omega
  have halign : ((off : Int).toNat % n != 0) = true ↔ (off : Int) % n ≠ 0 := by
    rw [bne_iff_ne, Int.toNat_natCast]
    norm_cast
  simp only [localCheck, if_neg hin, halign, hEval_off48]

end

/-! ## What an access ends in -/

section
variable {s t : State} {i : Instr} {d a : BitVec 5} {h : BitVec 4} {o : BitVec 9} {n : Nat}

section
variable {ext : Nat → Word} (hi : loadForm i = some (d, a, h, o, n, ext))
include hi

/-- A load takes the value that it reads into its register and retires. -/
theorem load_takes {v : Nat} (hv : loadBytes h (effective s a o n) n s = .ok v t) : Answers i s (t.setX d (ext v)).retire :=
  (exec_of_loadForm hi s).trans (runInstr_ok (M.bind_ok hv))

theorem load_traps {cause p : Nat} {v : Word} (hv : loadBytes h (effective s a o n) n s = .error (.trap cause v 0 p) t) :
    Answers i s (t.takeTrap t.cur.1 t.cur.2 ⟨cause, v, 0, p, t.curCtx.pc⟩) :=
  (exec_of_loadForm hi s).trans (runInstr_trap (M.bind_error hv))

theorem load_waits {w : Wait} (hv : loadBytes h (effective s a o n) n s = .error (.wait w) t) :
    Answers i s (t.modCur (fun x => { x with wait := some w })) :=
  (exec_of_loadForm hi s).trans (runInstr_wait (M.bind_error hv))

end

section
variable (hi : storeForm i = some (d, a, h, o, n))
include hi

theorem store_ends (hv : storeBytes i h (effective s a o n) n (s.x d) s = .ok () t) : Answers i s t :=
  (exec_of_storeForm hi s).trans (runInstr_ok hv)

theorem store_traps {cause p : Nat} {v : Word}
    (hv : storeBytes i h (effective s a o n) n (s.x d) s = .error (.trap cause v 0 p) t) :
    Answers i s (t.takeTrap t.cur.1 t.cur.2 ⟨cause, v, 0, p, t.curCtx.pc⟩) :=
  (exec_of_storeForm hi s).trans (runInstr_trap hv)

end

end

/-! ## What an access through h0 raises -/

section
variable {α : Type} {s : State}

theorem ofCheck_ok {r : Except Bad α} {x : α} (h : r = .ok x) : ofCheck r s = .ok x s := by
  rw [h]
  rfl

theorem ofCheck_error {r : Except Bad α} {b : Bad} (h : r = .error b) : ofCheck r s = .error (.trap b.cause b.eval 0 b.preason) s := by
  rw [h]
  rfl

theorem loadBytes_local (off : Int) (n : Nat) : loadBytes 0 off n s = loadLocal off n s := rfl

theorem storeBytes_local (w : Instr) (off : Int) (n : Nat) (v : Word) : storeBytes w 0 off n v s = storeLocal w off n v s := rfl

/-- What the check of the offset finds, the instruction raises before anything else. -/
theorem localAccess_raises {i : Instr} {a : BitVec 5} {o : BitVec 9} {n : Nat} {b : Bad}
    (hi : (∃ d ext, loadForm i = some (d, a, 0, o, n, ext)) ∨ (∃ d, storeForm i = some (d, a, 0, o, n)))
    (hbad : localCheck (effective s a o n) n = .error b) :
    Answers i s (s.takeTrap s.cur.1 s.cur.2 ⟨b.cause, b.eval, 0, b.preason, s.curCtx.pc⟩) := by
  obtain ⟨d, ext, hload⟩ | ⟨d, hstore⟩ := hi
  · exact load_traps hload ((loadBytes_local _ n).trans (M.bind_error (ofCheck_error hbad)))
  · exact store_traps hstore ((storeBytes_local i _ n _).trans (M.bind_error (ofCheck_error hbad)))

end

/-- Settles O16: a load and a store raise what the check of the offset finds, and the check tries the bound, the alignment and
the window in this order. -/
theorem localAccessTraps : Obligations.LocalAccessTraps := by
  intro s i a o n hi off ev
  have hraise : ∀ {cause}, localCheck off n = .error (Bad.of cause ev) → Answers i s (raised s cause ev) :=
    localAccess_raises hi
  have hn : n ≤ 8 := by
    obtain ⟨d, ext, hload⟩ | ⟨d, hstore⟩ := hi
    · have := size_of_loadForm hload
      omega
    · have := size_of_storeForm hstore
      omega
  refine ⟨fun hout => hraise (localCheck_outside hout), fun hlow hhigh hmis => ?_, fun hevent hhigh hal hsize => ?_,
    fun hlow hhigh hal => ?_⟩
  · exact hraise ((localCheck_inside hlow hhigh).trans (if_pos hmis))
  · refine hraise ((localCheck_inside (by omega) hhigh).trans ?_)
    rw [if_neg (not_not.2 hal), if_pos hevent, if_neg hsize]
  · refine hraise ((localCheck_inside (by omega) (by omega)).trans ?_)
    rw [if_neg (not_not.2 hal), if_neg (by omega), if_pos hlow]

/-! ## Bytes of a number (R2) -/

theorem leNat_leBytes (n v : Nat) : leNat (leBytes n v) = v % 256 ^ n := by
  induction n generalizing v with
  | zero => simp [leBytes, leNat, Nat.mod_one]
  | succ n ih =>
    rw [leBytes, leNat, ih, Nat.pow_succ', Nat.mod_mul, BitVec.toNat_ofNat]

theorem drop_leBytes (n k v : Nat) : (leBytes n v).drop k = leBytes (n - k) (v / 256 ^ k) := by
  induction k generalizing n v with
  | zero => simp
  | succ k ih =>
    cases n with
    | zero => simp [leBytes]
    | succ n => rw [leBytes, List.drop_succ_cons, ih, Nat.add_sub_add_right, Nat.div_div_eq_div_mul, ← Nat.pow_succ']

theorem take_leBytes (n k v : Nat) : (leBytes n v).take k = leBytes (min k n) v := by
  induction k generalizing n v with
  | zero => simp [leBytes]
  | succ k ih =>
    cases n with
    | zero => simp [leBytes]
    | succ n => rw [leBytes, List.take_succ_cons, ih, Nat.add_min_add_right, leBytes]

/-- Some bytes of a number, read as a number. -/
theorem leNat_bytes_between {m k n : Nat} (h : k + n ≤ m) (v : Nat) :
    leNat (((leBytes m v).drop k).take n) = v / 2 ^ (8 * k) % 2 ^ (8 * n) := by
  rw [drop_leBytes, take_leBytes, leNat_leBytes, Nat.min_eq_left (by omega), Nat.pow_mul, Nat.pow_mul]

/-! ## Loads through h0 (R250) -/

section
variable {s : State} {off : Int} {n : Nat} (hcheck : localCheck off n = .ok ())
include hcheck

/-- A load through h0 that passes its check reads the event window or local memory, where it may find poison. -/
theorem loadLocal_checked :
    loadLocal off n s =
      if 0x200000 ≤ off.toNat then .ok (s.eventRead s.cur.1 (off.toNat - 0x200000)).toNat s
      else if off.toNat < frameBase ∧ s.lmem.poisoned (lkey s.cur.1 off.toNat) n = true then
        .error (.trap Cause.uncorrData (hEval 0 off.toNat) 0 0) s
      else .ok (leNat (s.localRead s.cur.1 off.toNat n)) s := by
  rw [loadLocal, M.bind_ok (ofCheck_ok hcheck), bind_get]
  simp only [Bool.and_eq_true, decide_eq_true_eq]
  split
  · rfl
  · split <;> rfl

theorem loadLocal_memory (hframe : off.toNat < 0x3F400)
    (hclean : s.lmem.poisoned (s.cur.1 * 2 ^ 18 + off.toNat) n = false) :
    loadLocal off n s = .ok (s.lmem.getLE (s.cur.1 * 2 ^ 18 + off.toNat) n) s := by
  have hread : s.localRead s.cur.1 off.toNat n = s.lmem.getRange (s.cur.1 * 2 ^ 18 + off.toNat) n := if_pos hframe
  rw [loadLocal_checked hcheck, if_neg (by omega), if_neg (fun hbad => Bool.eq_false_iff.1 hclean hbad.2), hread, Mem.getLE]

theorem loadLocal_frame (hframe : 0x3F400 ≤ off.toNat) (hhigh : off.toNat < 0x40000) (hfits : off.toNat % 8 + n ≤ 8) :
    loadLocal off n s = .ok (((s.core s.cur.1).frameReg ((off.toNat - 0x3F400) / 256) ((off.toNat - 0x3F400) % 256 / 8)).toNat /
      2 ^ (8 * (off.toNat % 8)) % 2 ^ (8 * n)) s := by
  have hnot : ¬ off.toNat < frameBase := Nat.not_lt.2 hframe
  rw [loadLocal_checked hcheck, if_neg (by omega), if_neg (fun hbad => hnot hbad.1), State.localRead, if_neg hnot,
    leNat_bytes_between hfits]
  rfl

theorem loadLocal_event (hevent : 0x200000 ≤ off.toNat) :
    loadLocal off n s = .ok (s.eventRead s.cur.1 (off.toNat - 0x200000)).toNat s :=
  (loadLocal_checked hcheck).trans (if_pos hevent)

end

/-- Settles O15: an aligned offset in each of the three places passes the check, and the load takes what is read there. -/
theorem localLoadResult : Obligations.LocalLoadResult := by
  intro s i d a o n ext hi off c hal
  have hsize := size_of_loadForm hi
  have hlocal : 0 ≤ off → off + n ≤ 0x40000 → localCheck off n = .ok () := fun hlow hhigh => by
    rw [localCheck_inside hlow (by omega), if_neg (not_not.2 hal), if_neg (by omega), if_neg (by omega)]
  refine ⟨fun hlow hhigh hclean => ?memory, fun hlow hhigh => ?frame, fun hn hlow hhigh => ?event⟩
  case memory => exact load_takes hi (loadLocal_memory (hlocal hlow (by omega)) (by omega) hclean)
  case frame =>
    have hfits : off.toNat % 8 + n ≤ 8 := by
      obtain rfl | rfl | rfl | rfl := hsize <;> omega
    exact load_takes hi (loadLocal_frame (hlocal (by omega) hhigh) (by omega) (by omega) hfits)
  case event =>
    subst hn
    have hcheck : localCheck off 8 = .ok () := by
      rw [localCheck_inside (by omega) (by exact_mod_cast hhigh), if_neg (not_not.2 hal), if_pos hlow, if_pos rfl]
    have hread := load_takes hi (loadLocal_event (s := s) hcheck (by omega))
    rwa [ext_of_doubleword hi, word, BitVec.ofNat_toNat, BitVec.setWidth_eq] at hread

end Sys2Proof.Proofs.LocalAccess
end

section
/-! PROOFS. Loads and stores of global objects: the gang window (R168, R183, R252), and what a refused handle raises (R166, R229,
R262, R265). -/

namespace Sys2Proof.Proofs.GlobalAccess

open Sys2Proof.Machine Sys2Proof.Spec Sys2Proof.Proofs.Sync Sys2Proof.Proofs.LocalAccess

/-! ## The check of an access, made once (R166, R269) -/

section
variable {s : State}

theorem pendingAccess_starts (h : starts s) : pendingAccess s = .ok none s := by
  rw [pendingAccess, bind_get]
  rcases hw : s.curCtx.wait with _ | w
  · rfl
  · cases w with
    | remote g => exact absurd hw (h g)
    | _ => rfl

theorem pendingAccess_waits {g : Nat} (h : s.curCtx.wait = some (.remote g)) : pendingAccess s = .ok s.curCtx.access s := by
  rw [pendingAccess, bind_get]
  simp only [h]
  rfl

/-- An instruction that begins makes its checks. -/
theorem checked_starts (h : starts s) (fresh : M Acc) : checked fresh s = fresh s := M.bind_ok (pendingAccess_starts h)

/-- An instruction that waits for its answer has made its checks. -/
theorem checked_waits {g : Nat} {acc : Acc} (h : s.curCtx.wait = some (.remote g)) (hacc : s.curCtx.access = some acc)
    (fresh : M Acc) : checked fresh s = .ok acc s :=
  M.bind_ok ((pendingAccess_waits h).trans (by rw [hacc]))

end

/-! ## A load and a store through another handle than h0 -/

/-- The access that a load checks when it begins: of a gang window no page is translated (R168). -/
def loadAccess (hd : Handle) (off : Int) (n : Nat) : M Acc := do
  let e ← checkEntry hd off (loadNeed n)
  if e.fmt = 15 then pure ⟨e, off.toNat, []⟩
  else
    let a ← checkPages e off.toNat (loadNeed n)
    trapIf (e.fmt != 0) Cause.windowScalar (hEval e.index (off48 off))
    pure a

/-- The load of a checked access. -/
def loadChecked (a : Acc) (n : Nat) : M Nat := if a.ent.fmt = 15 then loadGang a.ent a.off n else loadGlobal a n

section
variable {s u : State} {h : BitVec 4} (hh : h ≠ 0) {off : Int} {n : Nat}

theorem loadAccess_window {hd : Handle} {e : Ent} (hent : checkEntry hd off (loadNeed n) s = .ok e u) (hfmt : e.fmt = 15) :
    loadAccess hd off n s = .ok ⟨e, off.toNat, []⟩ u := by
  rw [loadAccess, M.bind_ok hent, if_pos hfmt]
  rfl

include hh

theorem loadBytes_checks : loadBytes h off n s = (checked (loadAccess (s.hreg h.toNat) off n) >>= (loadChecked · n)) s := by
  rw [loadBytes, if_neg hh]
  rfl

theorem loadBytes_window {a : Acc} (hacc : checked (loadAccess (s.hreg h.toNat) off n) s = .ok a u)
    (hfmt : a.ent.fmt = 15) : loadBytes h off n s = loadGang a.ent a.off n u := by
  rw [loadBytes_checks hh, M.bind_ok hacc, loadChecked, if_pos hfmt]

theorem loadBytes_refused {x : Stop} (hs : starts s) (hent : checkEntry (s.hreg h.toNat) off (loadNeed n) s = .error x u) :
    loadBytes h off n s = .error x u :=
  (loadBytes_checks hh).trans (M.bind_error ((checked_starts hs _).trans (M.bind_error hent)))

theorem storeBytes_window {w : Instr} {v : Word} {e : Ent} (hent : checkEntry (s.hreg h.toNat) off (storeNeed n) s = .ok e u)
    (hfmt : e.fmt = 15) : storeBytes w h off n v s = storeGang e off.toNat n 0x0B (word (v.toNat % 2 ^ (8 * n))) u := by
  rw [storeBytes, if_neg hh, bind_get]
  exact (M.bind_ok hent).trans (by rw [if_pos hfmt])

theorem storeBytes_refused {w : Instr} {v : Word} {x : Stop}
    (hent : checkEntry (s.hreg h.toNat) off (storeNeed n) s = .error x u) : storeBytes w h off n v s = .error x u := by
  rw [storeBytes, if_neg hh, bind_get]
  exact M.bind_error hent

end

/-! ## Gang windows (R168) -/

/-- The state in which the access of a gang window is kept. -/
abbrev windowKept (s : State) (e : Ent) (off : Nat) : State := s.modCur (fun x => { x with access := some ⟨e, off, []⟩ })

section
variable {s : State} {e : Ent} {off n m b : Nat} (htarget : s.gangTarget off = some (m, b))
include htarget

theorem loadGang_sends (hv : starts (windowKept s e off)) :
    let v := windowKept s e off
    let tag := (v.newTag v.cur.1).1
    loadGang e off n s = .error (.wait (.remote tag))
      ((v.newTag v.cur.1).2.sendLocal m 0x0C tag (sizeCode n) b e.index off true []) := by
  rw [loadGang, bind_get]
  simp only [htarget]
  rw [keepAccess, bind_modify]
  exact M.bind_error (request_sends _ hv)

theorem loadGang_answered {g : Nat} {r : Reply} (hw : (windowKept s e off).curCtx.wait = some (.remote g))
    (hr : (windowKept s e off).curCtx.replies.find? (fun q => q.tag == g) = some r) (hop : r.op ≠ 0x4F) (hclean : r.poison = 0) :
    loadGang e off n s = .ok ((r.words.getD 0 0).toNat % 2 ^ (8 * n)) (replyTaken (windowKept s e off) g) := by
  rw [loadGang, bind_get]
  simp only [htarget]
  rw [keepAccess, bind_modify, M.bind_ok (request_answered _ hw hr hop), hclean, bne_self_eq_false,
    M.bind_ok (trapIf_false _ _ _)]
  rfl

theorem storeGang_sends {op : Nat} {v : Word} (hblock : s.curCtx.sig.live = false) (hroom : s.curCore.rfcnt < 255) :
    storeGang e off n op v s = .ok () (((s.newTag s.cur.1).2.sendLocal m op (s.newTag s.cur.1).1 (sizeCode n) b e.index off false
      [v]).modCurCore (fun k => { k with rfcnt := k.rfcnt + 1 })).commit := by
  have hwait : waitIf (255 ≤ s.curCore.rfcnt) .remoteRoom s = .ok () s := by
    rw [decide_eq_false (Nat.not_le.2 hroom)]
    exact waitIf_false _ _
  rw [storeGang, bind_get]
  simp only [htarget]
  rw [M.bind_ok (endBlock_idle hblock), M.bind_ok hwait, bind_get, bind_set, bind_modify, commitInstr_ok]
  rfl

end

/-- Settles O22: a load of a window that begins sends its request, one that finds its answer takes it, and a store sends its message
and commits. -/
theorem gangWindowAccess : Obligations.GangWindowAccess := by
  refine ⟨?sends, ?answered, ?stores⟩
  case sends =>
    intro s u i d a h o n ext e m b hi hh hs _ hent hfmt htarget v hv
    refine load_waits hi ((loadBytes_window hh ((checked_starts hs _).trans (loadAccess_window hent hfmt)) hfmt).trans ?_)
    exact loadGang_sends htarget hv
  case answered =>
    intro s i d a h o n ext acc m b g r hi hh hwait hacc hfmt htarget v hw hr hop hclean t
    refine load_takes hi ((loadBytes_window hh (checked_waits hwait hacc _) hfmt).trans ?_)
    exact loadGang_answered htarget hw hr hop hclean
  case stores =>
    intro s u i d a h o n e m b hi hh hblock hent hfmt htarget hroom
    exact store_ends hi ((storeBytes_window hh hent hfmt).trans (storeGang_sends htarget hblock hroom))

/-! ## Atomics and reductions that are refused (R262, R265) -/

section
variable {s u : State} {i : Instr} {a : BitVec 5} {h : BitVec 4} {n : Nat}
  (hi : (∃ d b ord m, amoForm i = some (d, a, b, h, ord, m, n)) ∨ (∃ b r m, redForm i = some (a, b, h, r, m, n)))
include hi

/-- An atomic and a reduction end their block and check their access before they do anything else. -/
theorem exec_checksAccess : ∃ (ordered : Bool) (k : Acc → M Unit),
    exec i s = runInstr (do
      endBlock
      let acc ← atomicAccess h (s.x a).toInt n ordered
      k acc) s := by
  obtain ⟨d, b, ord, m, ham⟩ | ⟨b, r, m, hred⟩ := hi
  · unfold amoForm at ham
    split at ham <;> cases ham <;> exact ⟨_, _, rfl⟩
  · unfold redForm at hred
    split at hred <;> cases hred <;> exact ⟨_, _, rfl⟩

theorem atomic_traps {cause p : Nat} {v : Word} (hblock : BlockOk s)
    (hv : ∀ ordered, atomicAccess h (s.x a).toInt n ordered (closed s) = .error (.trap cause v 0 p) u) :
    Answers i s (u.takeTrap u.cur.1 u.cur.2 ⟨cause, v, 0, p, u.curCtx.pc⟩) := by
  obtain ⟨ordered, k, hexec⟩ := exec_checksAccess hi
  exact hexec.trans (runInstr_trap ((M.bind_ok (endBlock_ok hblock)).trans (M.bind_error (hv ordered))))

end

section
variable {s u : State} {off : Int} {n : Nat}

theorem atomicAccess_local (ordered : Bool) : atomicAccess 0 off n ordered s = .error (.trap Cause.hRightA 3 0 0) s := rfl

theorem atomicAccess_refused {h : BitVec 4} {x : Stop} (hh : h ≠ 0) (hs : starts s)
    (hcheck : checkHandle (s.hreg h.toNat) off (atomNeed n) s = .error x u) (ordered : Bool) :
    atomicAccess h off n ordered s = .error x u := by
  rw [atomicAccess, bind_get, if_neg hh]
  exact (checked_starts hs _).trans (M.bind_error hcheck)

end

/-- Settles O26: each of the four kinds checks its handle first, and ends in what the check ends in. -/
theorem handleCheckTraps : Obligations.HandleCheckTraps := by
  refine ⟨fun s u i a h o n need cause p v hi hh hent => ?_, fun s u i a h n cause p v hi hblock => ⟨fun hlocal => ?_,
    fun hh hs hcheck => atomic_traps hi hblock (atomicAccess_refused hh hs hcheck)⟩⟩
  · obtain ⟨d, ext, hload, rfl, hs⟩ | ⟨d, hstore, rfl⟩ := hi
    · exact load_traps hload (loadBytes_refused hh hs hent)
    · exact store_traps hstore (storeBytes_refused hh hent)
  · subst hlocal
    exact atomic_traps hi hblock atomicAccess_local

end Sys2Proof.Proofs.GlobalAccess
end

section
/-! PROOFS. Snapshots: markers, counts, seals, failures, rollbacks, and the copies of pages and units (R185, R186, R188 to
R192). -/

namespace Sys2Proof.Proofs.Snapshots

open Sys2Proof.Machine Sys2Proof.Spec Sys2Proof.Proofs.Package Sys2Proof.Proofs.Links Sys2Proof.Proofs.Requests
  Sys2Proof.Proofs.EventKept Sys2Proof.Proofs.Dispatching

section
variable (s : State)

theorem exec_marker : exec .marker s = execMarker s := rfl
theorem exec_creply : exec .creply s = execCreply s := rfl
theorem exec_cpoll : exec .cpoll s = execCpoll s := rfl
theorem exec_countPoll : exec .countPoll s = execCountPoll s := rfl
theorem exec_coreCut : exec .coreCut s = execCoreCut s := rfl
theorem exec_cowCopy : exec .cowCopy s = execCowCopy s := rfl
theorem exec_jobRollbackRequest : exec .jobRollbackRequest s = execJobRollbackRequest s := rfl
theorem exec_snapshotSeal : exec .snapshotSeal s = execSnapshotSeal s := rfl
theorem exec_snapshotFail : exec .snapshotFail s = execSnapshotFail s := rfl
theorem exec_backgroundCopy : exec .backgroundCopy s = execBackgroundCopy s := rfl

end

/-! ## Markers (R185, R186) -/

section
variable {s : State} {ep n gen : Nat}

theorem cutAt_noGeneration (h : (s.jobs.look n).bind (fun j => j.current) = none) : s.cutAt ep n gen = s := by
  rw [State.cutAt, h]

section
variable {g : Snap} (hg : (s.jobs.look n).bind (fun j => j.current) = some g)
include hg

theorem cutAt_otherGeneration (hgen : g.gen ≠ gen) : s.cutAt ep n gen = s := by
  simp only [State.cutAt, hg, if_pos hgen]

theorem cutAt_slice (hgen : g.gen = gen) (hep : isSlice ep = true) :
    s.cutAt ep n gen = (s.beginCut n gen).cutSlice n gen (epSlice ep) := by
  simp only [State.cutAt, hg, if_neg (not_not.2 hgen), if_pos hep]

theorem cutAt_cluster {cl : Nat} (hgen : g.gen = gen) (hep : isSlice ep = false) (hcl : niOf ep = some cl) :
    s.cutAt ep n gen = (s.beginCut n gen).cutCluster n gen cl := by
  simp only [State.cutAt, hg, if_neg (not_not.2 hgen), hep, hcl, Bool.false_eq_true, if_false]

end
end

/-- A marker has the endpoint that it reaches take its cut. -/
theorem marker_cuts {s t : State} (hp : passes s)
    (ht : (counted s).cutAt s.ev.at_ ((counted s).markerJob s.ev.msg) (s.ev.msg.payload.getD 0 0).toNat = t) :
    Answers .marker s t :=
  answers_takeMsgAt_passes (exec_marker s) hp ht

/-! ## Replies and polls (R189) -/

section
variable {s : State} (hp : passes s)
include hp

section
variable (hjob : (counted s).jobByHandle s.ev.msg = none)
include hjob

theorem creply_noJob : Answers .creply s (counted s) :=
  answers_takeMsgAt_passes (exec_creply s) hp (by simp only [hjob])

theorem cpoll_noJob : Answers .cpoll s (counted s) :=
  answers_takeMsgAt_passes (exec_cpoll s) hp (by simp only [hjob])

end

variable {n : Nat} {j : JobState} {g : Snap} (hjob : (counted s).jobByHandle s.ev.msg = some (n, j)) (hg : j.current = some g)
include hjob hg

theorem creply_ofChild
    (hchild : (s.ev.msg.sdev == (counted s).devId && ((counted s).treeChildren j s.ev.at_).contains s.ev.msg.sep) = true) :
    Answers .creply s ((counted s).noteChild n g.gen s.ev.at_ s.ev.msg.sep
      (bits (s.ev.msg.payload.getD 0 0) 63 32) (bits (s.ev.msg.payload.getD 0 0) 31 0)) :=
  answers_takeMsgAt_passes (exec_creply s) hp (by simp only [hjob, hg, if_pos hchild])

section
variable (hchild : (s.ev.msg.sdev == (counted s).devId && ((counted s).treeChildren j s.ev.at_).contains s.ev.msg.sep) = false)
include hchild

theorem creply_ofDevice (hinit : (counted s).initiates j = true) :
    Answers .creply s ((counted s).noteDevice n g.gen s.ev.msg.sdev
      (bits (s.ev.msg.payload.getD 0 0) 63 32) (bits (s.ev.msg.payload.getD 0 0) 31 0)) :=
  answers_takeMsgAt_passes (exec_creply s) hp (by
    simp only [hjob, hg, if_neg (Bool.eq_false_iff.1 hchild), if_pos hinit])

theorem creply_elsewhere (hinit : (counted s).initiates j = false) : Answers .creply s (counted s) :=
  answers_takeMsgAt_passes (exec_creply s) hp (by
    simp only [hjob, hg, if_neg (Bool.eq_false_iff.1 hchild), if_neg (Bool.eq_false_iff.1 hinit)])

end

theorem cpoll_passesOn (hgen : g.gen = bits (s.ev.msg.payload.getD 0 0) 31 0) :
    Answers .cpoll s ((counted s).pollAtEp n
      (if s.ev.msg.sdev = (counted s).devId then s.ev.at_ else niEndpoint ((counted s).jobCluster j))) :=
  answers_takeMsgAt_passes (exec_cpoll s) hp (by
    simp only [hjob, hg, hgen, Option.any_some, beq_self_eq_true, if_true])

theorem cpoll_otherGeneration (hgen : g.gen ≠ bits (s.ev.msg.payload.getD 0 0) 31 0) : Answers .cpoll s (counted s) :=
  answers_takeMsgAt_passes (exec_cpoll s) hp (by
    simp only [hjob, hg, Option.any_some, beq_eq_false_iff_ne.2 hgen, Bool.false_eq_true, if_false])

end

/-! ## The totals of the devices (R189) -/

/-- The state in which the totals of a device are recorded. -/
abbrev totalled (s : State) (n gen dev sent recv : Nat) : State :=
  s.modSnap n gen (fun m => { m with replies := m.replies.put dev (sent, recv) })

/-- What the devices have sent, by their replies. -/
abbrev sentTotal (g : Snap) : Nat := (g.replies.map (fun (r : Nat × Nat × Nat) => r.2.1)).sum % 2 ^ 32

/-- What they have received. -/
abbrev recvTotal (g : Snap) : Nat := (g.replies.map (fun (r : Nat × Nat × Nat) => r.2.2)).sum % 2 ^ 32

/-- Every device of the job has replied. -/
abbrev allReplied (j : JobState) (g : Snap) : Bool := (onesOf j.devmask 64).all (fun d => (g.replies.look d).isSome)

section
variable {s : State} {n gen dev a b : Nat} {j : JobState} {g : Snap} (hj : (totalled s n gen dev a b).jobs.look n = some j)
  (hg : j.current = some g)
include hj hg

theorem noteDevice_waits (hsome : allReplied j g = false) : s.noteDevice n gen dev a b = totalled s n gen dev a b := by
  simp only [State.noteDevice, hj, hg, hsome, Bool.not_false, or_true, if_true]

section
variable (hgen : g.gen = gen) (hall : allReplied j g = true)
include hgen hall

/-- Equal totals end the counting, and the generation is to be sealed. -/
theorem noteDevice_seals (heq : sentTotal g = recvTotal g) :
    s.noteDevice n gen dev a b =
      ((((((totalled s n gen dev a b).putPhase j 3 none).modJob n (fun j => { j with pollAt := 0 })).modSnap n gen
        (fun m => { m with sent := sentTotal g })).tellJob j (monWord 7 gen)).post .snapshotSeal
          { Ev.zero with at_ := n, x := gen }) := by
  have hgo : ¬ (g.gen ≠ gen ∨ (!allReplied j g) = true) := by simp [hgen, hall]
  simp only [State.noteDevice, hj, hg, if_neg hgo, if_pos heq]

/-- Unequal totals start the polls. -/
theorem noteDevice_polls (hne : sentTotal g ≠ recvTotal g) (hidle : j.pollAt = 0) :
    s.noteDevice n gen dev a b = ((totalled s n gen dev a b).putPhase j 2 none).modJob n
      (fun j => { j with pollAt := (totalled s n gen dev a b).clk + us8 }) := by
  have hgo : ¬ (g.gen ≠ gen ∨ (!allReplied j g) = true) := by simp [hgen, hall]
  simp only [State.noteDevice, hj, hg, if_neg hgo, if_neg hne, if_pos hidle]

end
end

/-! ## The initiator's polls (R189) -/

section
variable (s : State)

@[simp] theorem jobCluster_modJob (n : Nat) (f : JobState → JobState) (j : JobState) :
    (s.modJob n f).jobCluster j = s.jobCluster j := by
  unfold State.modJob
  split <;> rfl

/-! A poll leaves in place the event that runs, which names the job for the polls that follow it. -/

@[simp] theorem devWrite_ev (ctxid index off : Nat) (bs : List Byte) : (s.devWrite ctxid index off bs).ev = s.ev := by
  refine foldl_ev (fun t i => ?_) _ s
  dsimp only
  split
  · exact homePoke_ev t _ _ _
  · rfl

@[simp] theorem putPhase_ev (j : JobState) (phase : Nat) (mhead : Option Nat) : (s.putPhase j phase mhead).ev = s.ev :=
  devWrite_ev s _ _ _ _

@[simp] theorem tellJob_ev (j : JobState) (w : Word) : (s.tellJob j w).ev = s.ev := foldl_ev (fun t _ => inject_ev t _) _ s

@[simp] theorem noteDevice_ev (n gen dev sent recv : Nat) : (s.noteDevice n gen dev sent recv).ev = s.ev := by
  simp only [State.noteDevice]
  split
  · exact modSnap_ev s _ _ _
  · split
    · exact modSnap_ev s _ _ _
    · exact ite_ev (modSnap_ev s _ _ _) (ite_ev (by simp) (ite_ev (by simp) (modSnap_ev s _ _ _)))

@[simp] theorem noteChild_ev (n gen node child sent recv : Nat) : (s.noteChild n gen node child sent recv).ev = s.ev := by
  simp only [State.noteChild]
  split
  · exact modSnap_ev s _ _ _
  · split
    · exact modSnap_ev s _ _ _
    · exact ite_ev (modSnap_ev s _ _ _) (ite_ev (by simp) (ite_ev (by simp) (by simp)))

@[simp] theorem replyUnit_ev (n : Nat) (m : Snap) (ep : Nat) : (s.replyUnit n m ep).ev = s.ev := by
  unfold State.replyUnit
  split
  · rfl
  · exact ite_ev rfl (ite_ev (noteChild_ev s _ _ _ _ _ _) (inject_ev s _))

@[simp] theorem pollAtEp_ev (n ep : Nat) : (s.pollAtEp n ep).ev = s.ev := by
  unfold State.pollAtEp
  split
  · rfl
  · split
    · rfl
    · exact ite_ev (replyUnit_ev s _ _ _)
        ((foldl_ev (fun t c => ite_ev (replyUnit_ev t _ _ _) (inject_ev t _)) _ _).trans (modSnap_ev s _ _ _))

end

/-- A fold whose steps leave the event in place may take it from its first state. -/
theorem foldl_at_event {α : Type} {f : Ev → State → α → State} (h : ∀ e t a, (f e t a).ev = t.ev) (l : List α)
    (s : State) : l.foldl (fun t a => f t.ev t a) s = l.foldl (f s.ev) s := by
  induction l generalizing s with
  | nil => rfl
  | cons a l ih =>
    have hrest := ih (f s.ev s a)
    rwa [h] at hrest

/-- The initiator polls device `d` of job `n`: itself at its node, another by a message. -/
def pollDevice (j : JobState) (g : Snap) (node n : Nat) (s : State) (d : Nat) : State :=
  let ask := fun (dep : Nat) => s.inject (mkMsg d dep s.devId (j.home % 4096) 3 0x74 j.handle (j.partList.getD 0 0)
    (parity g.gen) [word g.gen])
  if d ≠ s.devId then ask 0x800 else if node = j.home % 4096 then s.pollAtEp n node else ask node

@[simp] theorem pollDevice_ev (j : JobState) (g : Snap) (node n : Nat) (s : State) (d : Nat) :
    (pollDevice j g node n s d).ev = s.ev :=
  ite_ev (inject_ev s _) (ite_ev (pollAtEp_ev s _ _) (inject_ev s _))

theorem countPoll_polls {s : State} {j : JobState} {g : Snap} (hj : s.jobs.look s.ev.at_ = some j) (hg : j.current = some g) :
    Answers .countPoll s ((onesOf j.devmask 64).foldl (pollDevice j g (niEndpoint (s.jobCluster j)) s.ev.at_)
      (s.modJob s.ev.at_ (fun j => { j with pollAt := s.clk + us8 }))) := by
  refine answers_runEvent (exec_countPoll s) ?_
  simp only [hj, hg, jobCluster_modJob]
  rfl

/-- Each poll may take the job from the event in its own state. -/
theorem polls_at_event (j : JobState) (g : Snap) (node : Nat) (l : List Nat) {s : State} {n : Nat} (hn : s.ev.at_ = n) :
    l.foldl (pollDevice j g node n) s = l.foldl (fun t d => pollDevice j g node t.ev.at_ t d) s := by
  subst hn
  exact (foldl_at_event (f := fun e => pollDevice j g node e.at_) (fun _ => pollDevice_ev j g node _) l s).symm

theorem snapshotMessages : SnapshotMessages := by
  refine ⟨fun s hp => ⟨fun hnone => marker_cuts hp (cutAt_noGeneration hnone), fun g hg => ?marker⟩, fun s hp => ?tree,
    fun s n gen dev a b j g hj hg hgen => ?totals, fun s j g hj hg => ?polls⟩
  case marker =>
    exact ⟨fun hgen => marker_cuts hp (cutAt_otherGeneration hg hgen), fun hgen hep => marker_cuts hp (cutAt_slice hg hgen hep),
      fun cl hgen hep hcl => marker_cuts hp (cutAt_cluster hg hgen hep hcl)⟩
  case tree =>
    have htop := bits_top (s.ev.msg.payload.getD 0 0) (lo := 32) (by decide)
    have hlow := bits_bottom (s.ev.msg.payload.getD 0 0) 31
    simp only [← htop, ← hlow]
    refine ⟨fun hjob => ⟨creply_noJob hp hjob, cpoll_noJob hp hjob⟩, fun n j g hjob hg => ⟨creply_ofChild hp hjob hg,
      creply_ofDevice hp hjob hg, creply_elsewhere hp hjob hg, fun hgen hdev => ?_, fun hgen hdev => ?_,
      cpoll_otherGeneration hp hjob hg⟩⟩
    · have hpoll := cpoll_passesOn hp hjob hg hgen
      rwa [if_pos hdev] at hpoll
    · have hpoll := cpoll_passesOn hp hjob hg hgen
      rwa [if_neg hdev] at hpoll
  case totals =>
    exact ⟨noteDevice_waits hj hg, noteDevice_seals hj hg hgen, noteDevice_polls hj hg hgen⟩
  case polls =>
    exact answers_of_eq (countPoll_polls hj hg) (polls_at_event j g _ _ (congrArg Ev.at_ (modJob_ev s _ _)))

/-! ## Cuts and copies of units (R186, R188, R189) -/

section
variable {s : State}

theorem coreCut_context (hslice : s.ev.x ≠ 12) (hni : s.ev.x ≠ 13) : Answers .coreCut s (s.cutCtx s.ev.at_ s.ev.x) := by
  refine answers_runEvent (exec_coreCut s) ?_
  dsimp only
  split
  next h => exact absurd h hslice
  next h => exact absurd h hni
  next => rfl

section
variable {k : Nat} {g : Snap} (hg : s.snapOfBlock (s.ev.at_ / 8) = some (k, g))
include hg

theorem coreCut_slice (hx : s.ev.x = 12) : Answers .coreCut s (s.replyUnit k g (sliceEndpoint s.ev.at_)) :=
  answers_runEvent (exec_coreCut s) (by simp only [hx, hg])

theorem coreCut_interface (hx : s.ev.x = 13) : Answers .coreCut s (s.replyUnit k g (niEndpoint s.ev.at_)) :=
  answers_runEvent (exec_coreCut s) (by simp only [hx, hg])

end

theorem cowCopy_page (hx : s.ev.x = 0) : Answers .cowCopy s ((s.cowPage s.ev.at_).storePage s.ev.at_) :=
  answers_runEvent (exec_cowCopy s) (if_pos hx)

theorem cowCopy_unit (hx : s.ev.x ≠ 0) : Answers .cowCopy s (s.storeUnit s.ev.y s.ev.z (s.ev.x - 1) s.ev.at_) :=
  answers_runEvent (exec_cowCopy s) (if_neg hx)

/-! ## The rollback of a job (R192, R346, R353) -/

/-- The state in which this device has performed its part of the rollback. -/
abbrev rolledBack (s : State) : State := (s.modJob s.ev.at_ (fun j => { j with goal := none })).rollbackJob s.ev.at_ s.ev.x

section
variable {j : JobState} (hj : s.jobs.look s.ev.at_ = some j)
include hj

theorem jobRollbackRequest_waits (hbusy : s.savesNow j = true ∨ s.handlersNow j = true) :
    Answers .jobRollbackRequest s (s.modJob s.ev.at_ (fun j => { j with goal := some (s.ev.x, s.ev.y) })) := by
  refine answers_runEvent (exec_jobRollbackRequest s) ?_
  simp only [hj, if_pos (Bool.or_eq_true_iff.2 hbusy)]

section
variable (hsaves : s.savesNow j = false) (hhandlers : s.handlersNow j = false)
include hsaves hhandlers

theorem jobRollbackRequest_own (hdev : s.ev.y = (rolledBack s).devId) :
    Answers .jobRollbackRequest s ((rolledBack s).noteRolled s.ev.at_ s.ev.y) := by
  refine answers_runEvent (exec_jobRollbackRequest s) ?_
  simp only [hj, hsaves, hhandlers, Bool.or_self, Bool.false_eq_true, if_false, if_pos hdev]

theorem jobRollbackRequest_other (hdev : s.ev.y ≠ (rolledBack s).devId) :
    Answers .jobRollbackRequest s ((rolledBack s).inject (mkMsg s.ev.y 0x800 (rolledBack s).devId
      (niEndpoint ((rolledBack s).jobCluster j)) 3 0x7A j.handle (j.partList.getD 0 0) false [monWord 10 s.ev.x])) := by
  refine answers_runEvent (exec_jobRollbackRequest s) ?_
  simp only [hj, hsaves, hhandlers, Bool.or_self, Bool.false_eq_true, if_false, if_neg hdev]

end
end

/-! ## Seals and failures (R189 to R191) -/

theorem sealSnap_noJob {n : Nat} (gen : Nat) (h : s.jobs.look n = none) : s.sealSnap n gen = s := by
  rw [State.sealSnap, h]

theorem sendPart_noJob {n : Nat} (gen : Nat) (h : s.jobs.look n = none) : s.sendPart n gen = s := by
  rw [State.sendPart, h, Option.bind_none]

theorem failGen_noJob {n : Nat} (gen cause : Nat) (h : s.jobs.look n = none) : s.failGen n gen cause = s := by
  rw [State.failGen, h]

theorem snapshotSeal_sendsPart (hy : s.ev.y = 1) : Answers .snapshotSeal s (s.sendPart s.ev.at_ s.ev.x) :=
  answers_runEvent (exec_snapshotSeal s) (if_pos hy)

section
variable (hy : s.ev.y ≠ 1) {j : JobState} (hj : (s.sealSnap s.ev.at_ s.ev.x).jobs.look s.ev.at_ = some j)
include hy hj

/-- The initiator tells the other devices of a generation that it has sealed. -/
theorem snapshotSeal_tells (hinit : (s.sealSnap s.ev.at_ s.ev.x).initiates j = true)
    (hsealed : j.snaps.any (fun m => m.gen == s.ev.x && m.sealed) = true) :
    Answers .snapshotSeal s ((s.sealSnap s.ev.at_ s.ev.x).tellJob j (monWord 3 s.ev.x)) := by
  refine answers_runEvent (exec_snapshotSeal s) ((if_neg hy).trans ?_)
  simp only [hj, hinit, hsealed, Bool.and_self, if_true]

theorem snapshotSeal_quiet (hinit : (s.sealSnap s.ev.at_ s.ev.x).initiates j = false) :
    Answers .snapshotSeal s (s.sealSnap s.ev.at_ s.ev.x) := by
  refine answers_runEvent (exec_snapshotSeal s) ((if_neg hy).trans ?_)
  simp only [hj, hinit, Bool.false_and, Bool.false_eq_true, if_false]

end

section
variable (hj : s.jobs.look s.ev.at_ = none)
include hj

theorem snapshotSeal_noJob : Answers .snapshotSeal s s := by
  by_cases hy : s.ev.y = 1
  · exact answers_of_eq (snapshotSeal_sendsPart hy) (sendPart_noJob _ hj)
  · refine answers_runEvent (exec_snapshotSeal s) ((if_neg hy).trans ?_)
    simp only [sealSnap_noJob _ hj, hj]

theorem snapshotFail_noJob : Answers .snapshotFail s s :=
  answers_runEvent (exec_snapshotFail s) (by simp only [failGen_noJob _ _ hj, hj])

end

theorem monWord_failed (x y : Nat) :
    monWord 4 (y % 256 * 2 ^ 32 + x % 2 ^ 32) = word (4 * 2 ^ 56 + y % 256 * 2 ^ 32 + x % 2 ^ 32) := by
  rw [monWord, Nat.mod_eq_of_lt (b := 2 ^ 56) (by omega), Nat.add_assoc]

theorem snapshotFail_tells {j : JobState} (hj : (s.failGen s.ev.at_ s.ev.x s.ev.y).jobs.look s.ev.at_ = some j)
    (hz : s.ev.z = 0) :
    Answers .snapshotFail s ((s.failGen s.ev.at_ s.ev.x s.ev.y).tellJob j
      (monWord 4 (s.ev.y % 256 * 2 ^ 32 + s.ev.x % 2 ^ 32))) :=
  answers_runEvent (exec_snapshotFail s) (by simp only [hj, if_pos hz])

/-- A failure that another device has told of is not told again. -/
theorem snapshotFail_told (hz : s.ev.z ≠ 0) : Answers .snapshotFail s (s.failGen s.ev.at_ s.ev.x s.ev.y) := by
  refine answers_runEvent (exec_snapshotFail s) ?_
  simp only [if_neg hz]
  split <;> rfl

/-! ## The background copy (R186, R188) -/

theorem backgroundCopy_saved (hy : s.ev.y ≠ 0) : Answers .backgroundCopy s (s.storeSaved s.ev.at_ s.ev.x s.ev.y) :=
  answers_runEvent (exec_backgroundCopy s) (if_pos hy)

/-- The pages of a generation that the store does not hold are copied. -/
theorem backgroundCopy_pages {j : JobState} {m : Snap} (hy : s.ev.y = 0) (hj : s.jobs.look s.ev.at_ = some j)
    (hm : j.snaps.find? (fun m => m.gen == s.ev.x) = some m) :
    Answers .backgroundCopy s ((m.pages.filter (fun p => !p.stored)).foldl (fun t p =>
      (t.cowPageIn (fun o => o.gen == s.ev.x) p.key).post .cowCopy { Ev.zero with at_ := p.key }) s) :=
  answers_runEvent (exec_backgroundCopy s) ((if_neg (not_not.2 hy)).trans (by simp only [hj, Option.bind_some, hm]))

end

/-! ## The first write to a page that a snapshot lists (R188) -/

section
variable (s : State) (pick : Snap → Bool) (page : Nat)

/-- A page that is listed and not yet copied. -/
def bare (p : PageCut) : Bool := p.key == page && p.bytes.isNone

/-- A generation in which a write to the page has it copied: it is picked, it has not failed, and it lists the page bare. -/
def listsBare (m : Snap) : Bool := m.failed == 0 && pick m && m.pages.any (bare page)

/-- A page as its copy leaves it in a generation of job `j`. -/
def copiedPage (j : JobState) (p : PageCut) : PageCut :=
  if bare page p then { p with bytes := some (Mem.empty.copyRange 0 s.mem page 65536), offset := some (p.offset.getD j.storeEnd) }
  else p

/-- A generation of job `j` as the copies leave it. -/
def copiedSnap (j : JobState) (m : Snap) : Snap :=
  if listsBare pick page m then { m with pages := m.pages.map (copiedPage s page j) } else m

/-- A job as the copies leave it. -/
def copiedJob (j : JobState) : JobState := { j with snaps := j.snaps.map (copiedSnap s pick page j) }

end

section
variable {s : State} {pick : Snap → Bool} {page : Nat} {j : JobState} {m : Snap} {p : PageCut}

theorem bare_iff : bare page p = true ↔ p.key = page ∧ p.bytes = none := by
  simp [bare]

theorem copiedPage_of_bare (h : bare page p = true) : copiedPage s page j p =
    { p with bytes := some (Mem.empty.copyRange 0 s.mem page 65536), offset := some (p.offset.getD j.storeEnd) } := if_pos h

theorem copiedSnap_of_listsBare (h : listsBare pick page m = true) :
    copiedSnap s pick page j m = { m with pages := m.pages.map (copiedPage s page j) } := if_pos h

/-- A write to a page that some generation lists bare copies it in every job. -/
theorem cowPageIn_jobs {key : Nat}
    (h : s.jobs.any (fun j => j.2.snaps.any (listsBare pick (key / 65536 * 65536))) = true) :
    (s.cowPageIn pick key).jobs = s.jobs.map (fun j => (j.1, copiedJob s pick (key / 65536 * 65536) j.2)) := by
  have hsome : ¬ s.jobs.isEmpty = true := fun hnone => by simp [List.isEmpty_iff.1 hnone] at h
  exact congrArg State.jobs ((if_neg hsome).trans (if_pos h))

end

theorem mem_of_look {α : Type} {m : NMap α} {k : Nat} {v : α} (h : m.look k = some v) : (k, v) ∈ m := by
  induction m with
  | nil => cases h
  | cons e m ih =>
    obtain ⟨i, w⟩ := e
    rw [NMap.look] at h
    split at h
    next hi =>
      cases h
      exact hi ▸ List.mem_cons_self
    next => exact List.mem_cons_of_mem _ (ih h)

/-- The first write to a listed page: its job, generation and entry are found again, with the copy. -/
theorem cowPage_copies {s : State} {key n : Nat} {j : JobState} {m : Snap} {p : PageCut} (hj : s.jobs.look n = some j)
    (hm : m ∈ j.snaps) (hlive : m.failed = 0) (hp : p ∈ m.pages) (hkey : p.key = key / 65536 * 65536)
    (hbytes : p.bytes = none) :
    ∃ k, (s.cowPage key).jobs.look n = some k ∧ ∃ m' ∈ k.snaps, m'.gen = m.gen ∧ ∃ p' ∈ m'.pages, p'.key = p.key ∧
      p'.bytes = some (Mem.empty.copyRange 0 s.mem p.key 65536) ∧ p'.offset = some (p.offset.getD j.storeEnd) := by
  have hbare : bare (key / 65536 * 65536) p = true := bare_iff.2 ⟨hkey, hbytes⟩
  have hlists : listsBare (fun _ => true) (key / 65536 * 65536) m = true := by
    simp only [listsBare, hlive, beq_self_eq_true, Bool.and_self, Bool.true_and]
    exact List.any_eq_true.2 ⟨p, hp, hbare⟩
  have hjobs := cowPageIn_jobs (List.any_eq_true.2 ⟨(n, j), mem_of_look hj, List.any_eq_true.2 ⟨m, hm, hlists⟩⟩)
  have hlook := look_map_if s.jobs (fun _ => true) (copiedJob s (fun _ => true) (key / 65536 * 65536)) n
  refine ⟨copiedJob s (fun _ => true) (key / 65536 * 65536) j, ?_, _, List.mem_map_of_mem hm, ?_⟩
  · rw [State.cowPage, hjobs]
    simpa [hj] using hlook
  · rw [copiedSnap_of_listsBare hlists]
    refine ⟨rfl, _, List.mem_map_of_mem hp, ?_⟩
    rw [copiedPage_of_bare hbare, hkey]
    exact ⟨rfl, rfl, rfl⟩

theorem snapshotSteps : SnapshotSteps := by
  refine ⟨fun s => ⟨coreCut_context, fun k g hg => ⟨coreCut_slice hg, coreCut_interface hg⟩, cowCopy_page, cowCopy_unit,
    fun j hj => jobRollbackRequest_waits hj,
    fun j hj hsaves hhandlers => ⟨jobRollbackRequest_own hj hsaves hhandlers, jobRollbackRequest_other hj hsaves hhandlers⟩,
    snapshotSeal_sendsPart, fun j hy hj => ⟨snapshotSeal_tells hy hj, snapshotSeal_quiet hy hj⟩,
    fun hj => ⟨snapshotSeal_noJob hj, snapshotFail_noJob hj⟩, fun j hj hz => ?told, snapshotFail_told,
    backgroundCopy_saved, fun j m p hy hj hm hpages => ?copies⟩,
    fun s key _ n j hj m hm hlive p hp hkey hbytes => cowPage_copies hj hm hlive hp hkey hbytes⟩
  case told =>
    rw [← monWord_failed]
    exact snapshotFail_tells hj hz
  case copies =>
    have hcopy := backgroundCopy_pages hy hj hm
    rw [hpages] at hcopy
    refine ⟨fun hstored => ?_, fun hstored => ?_⟩
    · rwa [List.filter_cons_of_neg (by simp [hstored])] at hcopy
    · rwa [List.filter_cons_of_pos (by simp [hstored])] at hcopy

/-- Settles O54: each message and each event of a snapshot takes the case of the generation, the node or the unit that it names, and
the first write to a listed page leaves its copy in every generation that lists it. -/
theorem snapshotEvents : Obligations.SnapshotEvents := ⟨snapshotMessages, snapshotSteps⟩

end Sys2Proof.Proofs.Snapshots
end

section
/-! PROOFS. The scalar floating-point instructions: what each writes, the flags that it leaves, and the trap of an enabled one (R206,
R238 to R241). -/

namespace Sys2Proof.Proofs.ScalarFloat

open Sys2Proof.Machine Sys2Proof.Spec Sys2Proof.Proofs.LocalAccess

/-! ## A result and its flags (R206, R241) -/

theorem enabled_eq_fcsrTen (s : State) : enabled s = fcsrTen s.curCtx.fcsr := rfl

/-- The model tries the flags in the order of R241. -/
theorem fpCause_eq_firstFpCause (f : Flags5) : fpCause f = firstFpCause f := rfl

section
variable {s : State} {d : BitVec 5} {v : Word} {f : Flags5}

theorem fpResult_retires (h : f &&& enabled s = 0) : fpResult d v f s = .next ((s.setX d v).orFlags f).retire := by
  rw [enabled_eq_fcsrTen] at h
  exact if_pos h

theorem fpResult_traps (h : f &&& enabled s ≠ 0) :
    fpResult d v f s = .next (raised s (firstFpCause (f &&& enabled s)) (word f.toNat)) := by
  rw [enabled_eq_fcsrTen] at h ⊢
  rw [← fpCause_eq_firstFpCause]
  exact if_neg h

end

/-! ## The instructions (R238 to R240) -/

/-- The integer that `fcvt.s.w` converts is the low half of its register, signed. -/
theorem exec_fcvtSW (d a : BitVec 5) (s : State) :
    exec (.fcvtSW d a) s = fpPut d (fOfInt .f32 s.rm ((s.x a).setWidth 32).toInt) s := by
  rw [← BitVec.ofNat_toNat, ← sextN_toInt (by decide)]
  rfl

/-- Every form ends in `fpResult`, with the destination, the value and the flags of its row. -/
theorem exec_of_fpValue {s : State} {i : Instr} {d : BitVec 5} {v : Word} {f : Flags5} (hi : fpValue s i = some (d, v, f)) :
    exec i s = fpResult d v f s := by
  unfold fpValue at hi
  split at hi <;> cases hi
  case h_25 => exact exec_fcvtSW _ _ s
  all_goals rfl

/-- Settles O12: the instruction ends in its result, which retires with its flags or raises the first of them that is enabled. -/
theorem floatResult : Obligations.FloatResult := fun _ _ _ _ _ hi =>
  ⟨fun hnone => (exec_of_fpValue hi).trans (fpResult_retires hnone),
   fun hsome => (exec_of_fpValue hi).trans (fpResult_traps hsome)⟩

end Sys2Proof.Proofs.ScalarFloat
end

section
/-! PROOFS. Words and steps: the decoder reads back what the encoder writes, every step goes on, and the state right after reset (R17,
R212, R213, R226, R227). -/

namespace Sys2Proof.Proofs.Words

open Sys2Proof.Machine Sys2Proof.Spec Sys2Proof.Laws

/-! ## Decoding (R212, R227) -/

/-- The lemma of each instruction that has a word reads it back, layout by layout; the remaining constructors are `seal`, which is
also a keyword and names no alternative here, and the events, whose encoding is 0. -/
theorem encoded (i : Instr) : Encoded.Statement i := by
  cases i with
  | add => apply Encoded.add | sub => apply Encoded.sub | and => apply Encoded.and | or => apply Encoded.or
  | xor => apply Encoded.xor | andn => apply Encoded.andn | sll => apply Encoded.sll | srl => apply Encoded.srl
  | sra => apply Encoded.sra | rol => apply Encoded.rol | mul => apply Encoded.mul | mulh => apply Encoded.mulh
  | mulhu => apply Encoded.mulhu | div => apply Encoded.div | divu => apply Encoded.divu | rem => apply Encoded.rem
  | remu => apply Encoded.remu | min => apply Encoded.min | max => apply Encoded.max | minu => apply Encoded.minu
  | maxu => apply Encoded.maxu | slt => apply Encoded.slt | sltu => apply Encoded.sltu | seq => apply Encoded.seq
  | clz => apply Encoded.clz | ctz => apply Encoded.ctz | popc => apply Encoded.popc | brev => apply Encoded.brev
  | bext => apply Encoded.bext | bdep => apply Encoded.bdep | cmov => apply Encoded.cmov | addw => apply Encoded.addw
  | addi => apply Encoded.addi | andi => apply Encoded.andi | ori => apply Encoded.ori | xori => apply Encoded.xori
  | slli => apply Encoded.slli | srli => apply Encoded.srli | srai => apply Encoded.srai | roli => apply Encoded.roli
  | slti => apply Encoded.slti | sltiu => apply Encoded.sltiu | lui => apply Encoded.lui | movk => apply Encoded.movk
  | faddS => apply Encoded.faddS | fsubS => apply Encoded.fsubS | fmulS => apply Encoded.fmulS | fdivS => apply Encoded.fdivS
  | fsqrtS => apply Encoded.fsqrtS | fminS => apply Encoded.fminS | fmaxS => apply Encoded.fmaxS
  | fmaddS => apply Encoded.fmaddS | feqS => apply Encoded.feqS | fltS => apply Encoded.fltS | fleS => apply Encoded.fleS
  | faddD => apply Encoded.faddD | fsubD => apply Encoded.fsubD | fmulD => apply Encoded.fmulD | fdivD => apply Encoded.fdivD
  | fsqrtD => apply Encoded.fsqrtD | fminD => apply Encoded.fminD | fmaxD => apply Encoded.fmaxD
  | fmaddD => apply Encoded.fmaddD | feqD => apply Encoded.feqD | fltD => apply Encoded.fltD | fleD => apply Encoded.fleD
  | fcvtSD => apply Encoded.fcvtSD | fcvtDS => apply Encoded.fcvtDS | fcvtSW => apply Encoded.fcvtSW
  | fcvtWS => apply Encoded.fcvtWS | fcvtDL => apply Encoded.fcvtDL | fcvtLD => apply Encoded.fcvtLD
  | fcvtBfS => apply Encoded.fcvtBfS | fcvtSBf => apply Encoded.fcvtSBf | ldb => apply Encoded.ldb
  | ldbu => apply Encoded.ldbu | ldh => apply Encoded.ldh | ldhu => apply Encoded.ldhu | ldw => apply Encoded.ldw
  | ldwu => apply Encoded.ldwu | ldd => apply Encoded.ldd | stb => apply Encoded.stb | sth => apply Encoded.sth
  | stw => apply Encoded.stw | std => apply Encoded.std | stn => apply Encoded.stn | hset => apply Encoded.hset
  | hget => apply Encoded.hget | hinfo => apply Encoded.hinfo | hlen => apply Encoded.hlen | hsub => apply Encoded.hsub
  | oalloc => apply Encoded.oalloc | ofree => apply Encoded.ofree | amoSwap => apply Encoded.amoSwap
  | amoCas => apply Encoded.amoCas | amoAdd => apply Encoded.amoAdd | amoAnd => apply Encoded.amoAnd
  | amoOr => apply Encoded.amoOr | amoXor => apply Encoded.amoXor | amoMin => apply Encoded.amoMin
  | amoMax => apply Encoded.amoMax | amoMinu => apply Encoded.amoMinu | amoMaxu => apply Encoded.amoMaxu
  | amoFaddS => apply Encoded.amoFaddS | redAdd => apply Encoded.redAdd | redAnd => apply Encoded.redAnd
  | redOr => apply Encoded.redOr | redXor => apply Encoded.redXor | redMin => apply Encoded.redMin
  | redMax => apply Encoded.redMax | redMinu => apply Encoded.redMinu | redMaxu => apply Encoded.redMaxu
  | redFaddS => apply Encoded.redFaddS | redFmaxS => apply Encoded.redFmaxS | rgn => apply Encoded.rgn
  | rgnx => apply Encoded.rgnx | beq => apply Encoded.beq | bne => apply Encoded.bne | blt => apply Encoded.blt
  | bge => apply Encoded.bge | bltu => apply Encoded.bltu | bgeu => apply Encoded.bgeu | bbs => apply Encoded.bbs
  | bbc => apply Encoded.bbc | j => apply Encoded.j | jal => apply Encoded.jal | jr => apply Encoded.jr
  | jalr => apply Encoded.jalr | fence => apply Encoded.fence | rfence => apply Encoded.rfence | wait => apply Encoded.wait
  | evsig => apply Encoded.evsig | barEvent => apply Encoded.barEvent | barObject => apply Encoded.barObject
  | lock => apply Encoded.lock | unlock => apply Encoded.unlock | pause => apply Encoded.pause | vcdef => apply Encoded.vcdef
  | vcsize => apply Encoded.vcsize | vcpar => apply Encoded.vcpar | vcbind => apply Encoded.vcbind
  | vcunb => apply Encoded.vcunb | vcwb => apply Encoded.vcwb | vcinv => apply Encoded.vcinv | vcq => apply Encoded.vcq
  | rpt => apply Encoded.rpt | start => apply Encoded.start | hexit => apply Encoded.hexit | yield => apply Encoded.yield
  | cp => apply Encoded.cp | mcast => apply Encoded.mcast | jwait => apply Encoded.jwait | jpoll => apply Encoded.jpoll
  | tmig => apply Encoded.tmig | cpjoin => apply Encoded.cpjoin | qpost => apply Encoded.qpost | send => apply Encoded.send
  | recv => apply Encoded.recv | qtry => apply Encoded.qtry | rdqAdd => apply Encoded.rdqAdd | rdqMax => apply Encoded.rdqMax
  | sstep => apply Encoded.sstep | snap => apply Encoded.snap | snapst => apply Encoded.snapst
  | rollbk => apply Encoded.rollbk | trap => apply Encoded.trap | eret => apply Encoded.eret | csrr => apply Encoded.csrr
  | csrw => apply Encoded.csrw | csrs => apply Encoded.csrs | halt => apply Encoded.halt | brk => apply Encoded.brk
  | nop => apply Encoded.nop | tld => apply Encoded.tld | tst => apply Encoded.tst
  | tzero => apply Encoded.tzero | tmov => apply Encoded.tmov | ttr => apply Encoded.ttr | tbc => apply Encoded.tbc
  | tgat => apply Encoded.tgat | vadd => apply Encoded.vadd | vsub => apply Encoded.vsub | vmul => apply Encoded.vmul
  | vfma => apply Encoded.vfma | vmin => apply Encoded.vmin | vmax => apply Encoded.vmax | vand => apply Encoded.vand
  | vor => apply Encoded.vor | vxor => apply Encoded.vxor | vshl => apply Encoded.vshl | vshr => apply Encoded.vshr
  | vexp2 => apply Encoded.vexp2 | vrcp => apply Encoded.vrcp | vrsqrt => apply Encoded.vrsqrt | vlog2 => apply Encoded.vlog2
  | vtanh => apply Encoded.vtanh | vabsF32 => apply Encoded.vabsF32 | vabsBf16 => apply Encoded.vabsBf16
  | vnegF32 => apply Encoded.vnegF32 | vnegBf16 => apply Encoded.vnegBf16 | vcvtBf16F32 => apply Encoded.vcvtBf16F32
  | vcvtF32Bf16 => apply Encoded.vcvtF32Bf16 | vcvtF16F32 => apply Encoded.vcvtF16F32
  | vcvtF32F16 => apply Encoded.vcvtF32F16 | vcvtE4m3F32 => apply Encoded.vcvtE4m3F32
  | vcvtF32E4m3 => apply Encoded.vcvtF32E4m3 | vcvtE5m2F32 => apply Encoded.vcvtE5m2F32
  | vcvtF32E5m2 => apply Encoded.vcvtF32E5m2 | vcvtI32F32 => apply Encoded.vcvtI32F32
  | vcvtF32I32 => apply Encoded.vcvtF32I32 | vcvtBf16Cb4 => apply Encoded.vcvtBf16Cb4 | vcmpEqF32 => apply Encoded.vcmpEqF32
  | vcmpEqBf16 => apply Encoded.vcmpEqBf16 | vcmpEqI32 => apply Encoded.vcmpEqI32 | vcmpNeF32 => apply Encoded.vcmpNeF32
  | vcmpNeBf16 => apply Encoded.vcmpNeBf16 | vcmpNeI32 => apply Encoded.vcmpNeI32 | vcmpLtF32 => apply Encoded.vcmpLtF32
  | vcmpLtBf16 => apply Encoded.vcmpLtBf16 | vcmpLtI32 => apply Encoded.vcmpLtI32 | vcmpLeF32 => apply Encoded.vcmpLeF32
  | vcmpLeBf16 => apply Encoded.vcmpLeBf16 | vcmpLeI32 => apply Encoded.vcmpLeI32 | vsel => apply Encoded.vsel
  | vsum => apply Encoded.vsum | vmaxr => apply Encoded.vmaxr | vperm => apply Encoded.vperm
  | fuseF32 => apply Encoded.fuseF32 | fuseBf16 => apply Encoded.fuseBf16 | mmaBf16 => apply Encoded.mmaBf16
  | mmaF16 => apply Encoded.mmaF16 | mmaE4m3 => apply Encoded.mmaE4m3 | mmaE5m2 => apply Encoded.mmaE5m2
  | mmaCb4 => apply Encoded.mmaCb4 | wbld => apply Encoded.wbld | lmode => apply Encoded.lmode
  | lfence => apply Encoded.lfence | ssm => apply Encoded.ssm | ssmC => apply Encoded.ssmC | ssmR => apply Encoded.ssmR
  | _ => ?_
  · apply Encoded.seal
  all_goals exact fun _ h => absurd rfl h

/-- Settles O1: every constructor has its lemma. -/
theorem decodeReadsEncodedInstruction : Obligations.DecodeReadsEncodedInstruction := encoded

theorem decode_of_encode_eq {i : Instr} {w : IWord} (h : encode i = w) (hw : i.wellFormed = true) (hne : w ≠ 0) :
    decode w = some i := by
  subst h
  exact encoded i hw hne

/-- Settles O3: each word is the encoding of its instruction. -/
theorem sampleWordsDecode : Obligations.SampleWordsDecode :=
  ⟨decode_of_encode_eq (i := .add 1 2 3) rfl rfl (by decide),
   decode_of_encode_eq (i := .addi 1 2 0xFFFF) rfl rfl (by decide),
   decode_of_encode_eq (i := .jr 31) rfl rfl (by decide),
   decode_of_encode_eq (i := .nop) rfl rfl (by decide),
   decode_of_encode_eq (i := .ldd 1 2 3 1) rfl rfl (by decide)⟩

/-! ## Every meaning answers a next state -/

theorem divide_total (d : BitVec 5) (a b v : Word) (s : State) : ∃ t, divide d a b v s = .next t := by
  unfold divide
  split
  · exact raiseAt_total _ _ s
  · exact alu_total d v s

theorem fpResult_total (d : BitVec 5) (v : Word) (f : Flags5) (s : State) : ∃ t, fpResult d v f s = .next t := by
  unfold fpResult
  dsimp only
  split
  · exact ⟨_, rfl⟩
  · exact raiseAt_total _ _ s

theorem lattice_total (m : M Unit) (s : State) : ∃ t, lattice m s = .next t := by
  unfold lattice
  split
  · exact ⟨_, rfl⟩
  · exact runInstr_total m s

theorem execRpt_total (a b : BitVec 5) (n : BitVec 4) (s : State) : ∃ t, execRpt a b n s = .next t := by
  unfold execRpt
  dsimp only
  split
  · exact raiseAt_total _ _ s
  · exact ⟨_, rfl⟩

theorem execPartReset_total (s : State) : ∃ t, execPartReset s = .next t := by
  unfold execPartReset
  split
  · exact runEvent_total _ s
  · exact runEvent_total _ s

/-- Each arm of `exec` is one of few shapes: a register result, a division, a floating-point result, the entry of the lattice queue, a
computation that may stop (`runInstr`), or a function of the event that is present. The alternative of `seal`, a keyword, is the
first of those left at the end; the events follow it. -/
theorem exec_total (i : Instr) (s : State) : ∃ t, exec i s = .next t := by
  cases i with
  | add | sub | and | or | xor | andn | sll | srl | sra | rol | mul | mulh | mulhu | min | max | minu | maxu | slt | sltu
  | seq | clz | ctz | popc | brev | bext | bdep | cmov | addw | addi | andi | ori | xori | slli | srli | srai | roli | slti
  | sltiu | lui | movk | hget => exact alu_total _ _ s
  | div | divu | rem | remu => exact divide_total _ _ _ _ s
  | faddS | fsubS | fmulS | fdivS | fsqrtS | fminS | fmaxS | fmaddS | feqS | fltS | fleS | faddD | fsubD | fmulD | fdivD
  | fsqrtD | fminD | fmaxD | fmaddD | feqD | fltD | fleD | fcvtSD | fcvtDS | fcvtSW | fcvtWS | fcvtDL | fcvtLD | fcvtBfS
  | fcvtSBf => exact fpResult_total _ _ _ s
  | tld | tst | tzero | tmov | ttr | tbc | tgat | vadd | vsub | vmul | vfma | vmin | vmax | vand | vor | vxor | vshl | vshr
  | vexp2 | vrcp | vrsqrt | vlog2 | vtanh | vabsF32 | vabsBf16 | vnegF32 | vnegBf16 | vcvtBf16F32 | vcvtF32Bf16 | vcvtF16F32
  | vcvtF32F16 | vcvtE4m3F32 | vcvtF32E4m3 | vcvtE5m2F32 | vcvtF32E5m2 | vcvtI32F32 | vcvtF32I32 | vcvtBf16Cb4 | vcmpEqF32
  | vcmpEqBf16 | vcmpEqI32 | vcmpNeF32 | vcmpNeBf16 | vcmpNeI32 | vcmpLtF32 | vcmpLtBf16 | vcmpLtI32 | vcmpLeF32 | vcmpLeBf16
  | vcmpLeI32 | vsel | vsum | vmaxr | vperm | fuseF32 | fuseBf16 | mmaBf16 | mmaF16 | mmaE4m3 | mmaE5m2 | mmaCb4 | wbld | ssm
  | ssmC | ssmR => exact lattice_total _ s
  | ldb | ldbu | ldh | ldhu | ldw | ldwu | ldd | stb | sth | stw | std | stn | hset | hinfo | hlen | hsub | oalloc | ofree
  | amoSwap | amoCas | amoAdd | amoAnd | amoOr | amoXor | amoMin | amoMax | amoMinu | amoMaxu | amoFaddS | redAdd | redAnd
  | redOr | redXor | redMin | redMax | redMinu | redMaxu | redFaddS | redFmaxS | beq | bne | blt | bge | bltu | bgeu | bbs
  | bbc | j | jal | jr | jalr | fence | rfence | wait | evsig | barEvent | barObject | lock | unlock | vcdef | vcsize | vcpar
  | vcbind | vcunb | vcwb | vcinv | vcq | start | hexit | cp | mcast | jwait | jpoll | tmig | cpjoin | qpost | send | recv
  | qtry | rdqAdd | rdqMax | sstep | snap | snapst | rollbk | trap | eret | csrr | csrw | csrs | halt | brk | lmode
  | lfence => exact runInstr_total _ s
  | rpt a b n => exact execRpt_total a b n s
  | partReset => exact execPartReset_total s
  | rgn | rgnx | pause | yield | nop => exact ⟨_, rfl⟩
  | _ => ?_
  · exact runInstr_total _ s
  all_goals exact ⟨_, rfl⟩

theorem step_total (s : State) : Safe s := by
  unfold Safe step
  split
  · exact exec_total _ _
  · exact ⟨_, rfl⟩

/-- Settles O5: a step is one arm of `exec`, or one of a unit of the device, and each answers a next state. -/
theorem everyStepGoesOn : Obligations.EveryStepGoesOn := ⟨step_total, exec_total⟩

/-! ## The state after reset -/

theorem idle_ctx {i : Nat} (hi : i < 11) : Core.idle.ctx i = Ctx.zero := by
  simp [Core.ctx, Core.idle, hi]

theorem reset_ctx (c : Nat) {i : Nat} (hi : i < 11) : State.reset.ctx c i = Ctx.zero := idle_ctx hi

theorem reset_x (c : Nat) (r : BitVec 5) : ({ State.reset with cur := (c, 0) } : State).x r = 0 := by
  have hctx : ({ State.reset with cur := (c, 0) } : State).curCtx = Ctx.zero := idle_ctx (i := 0) (by decide)
  simp [State.x, hctx, Ctx.zero, r.isLt]

/-- Settles O4: no unit has been touched, so each stands at its reset value. -/
theorem resetState : Obligations.ResetState := by
  refine ⟨rfl, rfl, rfl, rfl, rfl, rfl, fun _ => rfl, fun _ _ => rfl, fun _ _ => rfl, fun _ => rfl, fun _ _ => rfl,
    fun _ => ⟨rfl, rfl, rfl, rfl⟩, fun c i hi => ?_, fun _ => rfl, reset_x, rfl, rfl, rfl, rfl, rfl⟩
  rw [reset_ctx c hi]
  exact ⟨rfl, rfl, rfl, rfl⟩

end Sys2Proof.Proofs.Words
end

section
/-! PROOFS. The scalar registers, and the integer instructions: what each writes, and what division by zero raises (R214, R231 to R236). -/

namespace Sys2Proof.Proofs.ScalarInteger

open Sys2Proof.Machine Sys2Proof.Spec Sys2Proof.Proofs.Checks Sys2Proof.Proofs.Sync

/-! ## The register file (R214, R231) -/

/-- A register read looks at the level, the registers of the context and those of the supervisor frame alone. -/
theorem x_congr {s t : State} (r : BitVec 5) (hsup : t.curCtx.sup = s.curCtx.sup) (hregs : t.curCtx.regs = s.curCtx.regs)
    (hsregs : t.curCore.sregs = s.curCore.sregs) : t.x r = s.x r := by
  simp [State.x, hsup, hregs, hsregs]

theorem getD_setIfInBounds (l : Vector Word 32) (r q : BitVec 5) (v : Word) :
    ((l.setIfInBounds r.toNat v)[q.toNat]?).getD 0 = if q = r then v else (l[q.toNat]?).getD 0 := by
  by_cases h : q = r
  · subst h
    simp [q.isLt]
  · rw [if_neg h, Vector.getElem?_setIfInBounds_ne (fun hn => h (BitVec.eq_of_toNat_eq hn.symm))]

/-- The supervisor frame after a register write: it changes at supervisor level alone. -/
theorem sregs_setX {s : State} {r : BitVec 5} (hr : r ≠ 0) (v : Word) : (s.setX r v).curCore.sregs =
    if s.curCtx.sup = true then s.curCore.sregs.setIfInBounds r.toNat v else s.curCore.sregs := by
  have hmark : ∀ n, (s.modCurCore (fun k => { k with frames := markDirty k.frames n })).curCtx = s.curCtx :=
    fun n => s.curCtx_modCurCore _ (fun _ => rfl)
  simp only [State.setX, if_neg hr, hmark]
  split
  · rw [State.curCore_modCurCore, State.curCore_modCurCore]
  · rw [State.curCore_modCur, State.curCore_modCurCore]
    rfl

section
variable {s : State} (hcur : s.cur.2 < 11)
include hcur

theorem x_modCur {f : Ctx → Ctx} (hsup : (f s.curCtx).sup = s.curCtx.sup) (hregs : (f s.curCtx).regs = s.curCtx.regs)
    (r : BitVec 5) : (s.modCur f).x r = s.x r := by
  refine x_congr r ?_ ?_ ?_
  · rwa [s.curCtx_modCur f hcur]
  · rwa [s.curCtx_modCur f hcur]
  · rw [s.curCore_modCur]
    rfl

theorem x_retire (r : BitVec 5) : s.retire.x r = s.x r := x_modCur hcur (Ctx.retire_sup _) (Ctx.retire_regs _) r

/-- What is read after a write: the value at the register written, and every other register as it was. -/
theorem x_setX {r : BitVec 5} (hr : r ≠ 0) (q : BitVec 5) (v : Word) : (s.setX r v).x q = if q = r then v else s.x q := by
  by_cases hq : q = 0
  · subst hq
    rw [if_neg (Ne.symm hr)]
    exact (State.x_zero _).trans (s.x_zero).symm
  simp only [State.x, if_neg hq, sregs_setX hr, State.curCtx_setX s r v hcur, hr, false_or]
  by_cases hsup : s.curCtx.sup = true
  · simp only [hsup, if_true, getD_setIfInBounds]
  · simp only [hsup, if_false, Bool.false_eq_true, getD_setIfInBounds]

end

/-- Settles O6: the register read after a write, and retiring as a change of the context that issues. -/
theorem registerFile : Obligations.RegisterFile := by
  intro s r v hcur
  refine ⟨s.x_zero, s.setX_zero v, fun hr => ?same, fun q hq => ?other, ?instret, fun hrpt => ?pc, x_retire hcur, rfl,
    fun c i hci => State.ctx_setCtx_other s _ _ c i _ hci, fun c hc => State.core_modCore_other s _ c _ hc⟩
  case same => rw [x_setX hcur hr, if_pos rfl]
  case other =>
    by_cases hr : r = 0
    · subst hr
      exact congrArg (State.x · q) (s.setX_zero v)
    · rw [x_setX hcur hr, if_neg hq]
  case instret => rw [State.retire, State.curCtx_modCur s _ hcur, Ctx.retire_instret]
  case pc => rw [State.retire, State.curCtx_modCur s _ hcur, Ctx.retire_plain _ hrpt]

/-! ## Integer operations (R233, R235, R236) -/

/-- A shift amount is the number in the low 6 bits of its register. -/
theorem shiftAmt_eq (b : Word) : shiftAmt b = b.toNat % 64 := by simp [shiftAmt, bits]

theorem ite_slt {α : Type} (a b : Word) (x y : α) :
    (if a.slt b = true then x else y) = if a.toInt < b.toInt then x else y := by
  simp only [BitVec.slt_iff_toInt_lt]

theorem ite_ult {α : Type} (a b : Word) (x y : α) :
    (if a.ult b = true then x else y) = if a.toNat < b.toNat then x else y := by
  simp only [BitVec.ult_iff_lt, BitVec.lt_def]

theorem getLsbD_setBits (w : Word) {hi lo : Nat} (h : lo ≤ hi + 1) (v j : Nat) (hj : j < 64) :
    (setBits w hi lo v).getLsbD j = if j < lo then w.getLsbD j else if j ≤ hi then v.testBit (j - lo) else w.getLsbD j := by
  have hk : 2 ^ (hi + 1) = 2 ^ lo * 2 ^ (hi + 1 - lo) := by rw [← Nat.pow_add, Nat.add_sub_cancel' h]
  have hsum : w.toNat % 2 ^ lo + v % 2 ^ (hi + 1 - lo) * 2 ^ lo + w.toNat / 2 ^ (hi + 1) * 2 ^ (hi + 1) =
      2 ^ lo * (2 ^ (hi + 1 - lo) * (w.toNat / 2 ^ (hi + 1)) + v % 2 ^ (hi + 1 - lo)) + w.toNat % 2 ^ lo := by
    rw [hk]; ring
  have h1 : v % 2 ^ (hi + 1 - lo) < 2 ^ (hi + 1 - lo) := Nat.mod_lt _ (Nat.two_pow_pos _)
  have h0 : w.toNat % 2 ^ lo < 2 ^ lo := Nat.mod_lt _ (Nat.two_pow_pos _)
  rw [setBits, hsum, BitVec.getLsbD_ofNat, decide_eq_true hj, Bool.true_and, Nat.testBit_two_pow_mul_add _ h0,
    Nat.testBit_mod_two_pow, Nat.testBit_two_pow_mul_add _ h1, Nat.testBit_mod_two_pow, Nat.testBit_div_two_pow]
  split
  · simp [*, BitVec.testBit_toNat]
  · by_cases hh : j ≤ hi
    · rw [if_pos (by omega), if_pos hh, decide_eq_true (by omega), Bool.true_and]
    · rw [if_neg (by omega), if_neg hh, BitVec.testBit_toNat]
      congr 1
      omega

/-- R236 `movk`: 16 bits of a word replaced are those bits cleared, then set. -/
theorem setBits_movk (w : Word) (q : BitVec 2) (i : BitVec 16) :
    setBits w (16 * q.toNat + 15) (16 * q.toNat) i.toNat =
      (w &&& ~~~ (0xFFFF#64 <<< (16 * q.toNat))) ||| (i.setWidth 64 <<< (16 * q.toNat)) := by
  have hones : ∀ n, (0xFFFF#64).getLsbD n = decide (n < 16) := by
    intro n
    rw [show 0xFFFF#64 = BitVec.ofNat 64 (2 ^ 16 - 1) from rfl, BitVec.getLsbD_ofNat, Nat.testBit_two_pow_sub_one,
      ← Bool.decide_and]
    exact decide_eq_decide.2 (by omega)
  refine BitVec.eq_of_getLsbD_eq fun j hj => ?_
  rw [getLsbD_setBits w (by omega) _ _ hj]
  simp only [BitVec.getLsbD_or, BitVec.getLsbD_and, BitVec.getLsbD_not, BitVec.getLsbD_shiftLeft, hones, BitVec.getLsbD_setWidth, hj,
    BitVec.testBit_toNat]
  by_cases hlo : j < 16 * q.toNat
  · simp [hlo]
  · by_cases hhi : j ≤ 16 * q.toNat + 15
    · have : j - 16 * q.toNat < 16 := by omega
      simp [hlo, hhi, this]; omega
    · have : ¬ j - 16 * q.toNat < 16 := by omega
      simp [hlo, hhi, this, BitVec.getLsbD_of_ge i (j - 16 * q.toNat) (by omega)]

theorem exec_of_aluValue {s : State} {i : Instr} {d : BitVec 5} {v : Word} (hi : aluValue s i = some (d, v)) :
    exec i s = alu d v s := by
  unfold aluValue at hi
  split at hi <;> cases hi
  case h_7 => exact congrArg (fun n => alu d (_ <<< n) s) (shiftAmt_eq _)
  case h_8 => exact congrArg (fun n => alu d (_ >>> n) s) (shiftAmt_eq _)
  case h_9 => exact congrArg (fun n => alu d (BitVec.sshiftRight _ n) s) (shiftAmt_eq _)
  case h_10 => exact congrArg (fun n => alu d (BitVec.rotateLeft _ n) s) (shiftAmt_eq _)
  case h_14 | h_15 | h_18 => exact congrArg (alu d · s) (ite_slt _ _ _ _)
  case h_16 | h_17 | h_19 => exact congrArg (alu d · s) (ite_ult _ _ _ _)
  case h_20 => exact congrArg (alu d · s) (if_congr beq_iff_eq rfl rfl)
  case h_27 => exact congrArg (alu d · s) (ite_not _ _ _)
  all_goals rfl

/-- The compare of `slti` is with the immediate itself: sign extension keeps its value. -/
theorem exec_of_immValue {s : State} {i : Instr} {d : BitVec 5} {v : Word} (hi : immValue s i = some (d, v)) :
    exec i s = alu d v s := by
  unfold immValue at hi
  split at hi <;> cases hi
  case h_9 =>
    refine congrArg (alu d · s) ((ite_slt _ _ _ _).trans ?_)
    rw [sext64, BitVec.toInt_signExtend_of_le (by decide)]
  case h_10 => exact congrArg (alu d · s) (ite_ult _ _ _ _)
  case h_12 => exact congrArg (alu d · s) (setBits_movk _ _ _)
  all_goals rfl

/-- Settles O7: both tables give what `alu` writes. -/
theorem integerResult : Obligations.IntegerResult := by
  rintro s i d v (halu | himm)
  · exact exec_of_aluValue halu
  · exact exec_of_immValue himm

/-! ## Division (R234) -/

theorem exec_of_divValue {s : State} {i : Instr} {d : BitVec 5} {a b v : Word} (hi : divValue s i = some (d, a, b, v)) :
    exec i s = divide d a b v s := by
  unfold divValue at hi
  split at hi <;> cases hi <;> rfl

/-- Settles O8: a division tests its divisor first. -/
theorem divisionResult : Obligations.DivisionResult := fun _ _ _ _ _ _ hi =>
  ⟨fun hb => (exec_of_divValue hi).trans (if_neg hb), fun hb => (exec_of_divValue hi).trans (if_pos hb)⟩

/-! ## Branches and jumps (R242 to R245) -/

theorem exec_of_branch {s : State} {i : Instr} {taken : Bool} {target : Word} (hi : branchOf s i = some (taken, target)) :
    exec i s = branch taken target s := by
  unfold branchOf at hi
  split at hi <;> cases hi
  case h_2 a b o => exact congrArg (branch · _ s) (decide_not (p := s.x a = s.x b)).symm
  case h_4 a b o => exact congrArg (branch · _ s) (decide_not.symm.trans (decide_eq_decide.2 not_lt))
  case h_6 a b o => exact congrArg (branch · _ s) (decide_not.symm.trans (decide_eq_decide.2 not_lt))
  all_goals rfl

theorem exec_of_jump {s : State} {i : Instr} {link : BitVec 5} {target : Word} (hi : jumpOf s i = some (link, target)) :
    exec i s = jump link target s := by
  unfold jumpOf at hi
  split at hi <;> cases hi <;> rfl

/-- Settles O13: the block ends, and the branch or the jump retires to its target. -/
theorem branchResult : Obligations.BranchResult := by
  refine ⟨fun s i taken target hi hblock => ?_, fun s i link target hi hblock => ?_⟩
  · refine (exec_of_branch hi).trans (runInstr_ok ((M.bind_ok (endBlock_ok hblock)).trans ?_))
    cases taken <;> rfl
  · exact (exec_of_jump hi).trans (runInstr_ok (M.bind_ok (endBlock_ok hblock)))

end Sys2Proof.Proofs.ScalarInteger
end

section
/-! PROOFS. Counting zeros, gathering and scattering, bit by bit (R233, R235). -/

namespace Sys2Proof.Proofs.BitGather

open Sys2Proof.Machine Sys2Proof.Spec

/-! ## Counting zeros (R233) -/

theorem bitLen_of_highest {n i : Nat} (hi : n.testBit i = true) (habove : ∀ j, i < j → n.testBit j = false) :
    bitLen n = i + 1 := by
  have hlow : 2 ^ i ≤ n := Nat.ge_two_pow_of_testBit hi
  have hhigh : n < 2 ^ (i + 1) := Nat.lt_pow_two_of_testBit n (fun j hj => habove j hj)
  have hne : n ≠ 0 := (Nat.lt_of_lt_of_le (Nat.two_pow_pos i) hlow).ne'
  rw [bitLen, if_neg hne, (Nat.log2_eq_iff hne).2 ⟨hlow, hhigh⟩]

/-- A search upward stops at the first number that is accepted. -/
theorem searchUp_first {p : Nat → Bool} {m : Nat} (hm : p m = true) :
    ∀ {fuel n : Nat}, n ≤ m → m < n + fuel → (∀ j, n ≤ j → j < m → p j = false) → searchUp p fuel n = some m
  | 0, n, hn, hf, _ => absurd hf (Nat.not_lt.2 hn)
  | fuel + 1, n, hn, hf, hbelow => by
    rw [searchUp]
    obtain rfl | hlt := hn.eq_or_lt
    · rw [if_pos hm]
    · rw [if_neg (Bool.eq_false_iff.1 (hbelow n le_rfl hlt))]
      exact searchUp_first hm hlt (by omega) (fun j hj => hbelow j (by omega))

/-! ## Ones below a position -/

theorem popCount_succ (b i : Nat) : popCount b (i + 1) = popCount b i + if b.testBit i = true then 1 else 0 := by
  rw [popCount, onesOf, List.range_succ, List.filter_append, List.length_append]
  cases h : b.testBit i <;> simp [popCount, onesOf, h]

theorem popCount_start (b : Nat) : popCount b 0 = 0 := rfl

theorem popCount_one {b i : Nat} (h : b.testBit i = true) : popCount b (i + 1) = popCount b i + 1 := by
  rw [popCount_succ, if_pos h]

theorem popCount_zero {b i : Nat} (h : ¬ b.testBit i = true) : popCount b (i + 1) = popCount b i := by
  rw [popCount_succ, if_neg h, Nat.add_zero]

theorem popCount_mono (b : Nat) : Monotone (popCount b) :=
  monotone_nat_of_le_succ fun i => by rw [popCount_succ]; omega

theorem popCount_le (b i : Nat) : popCount b i ≤ i :=
  (List.length_filter_le _ _).trans_eq List.length_range

/-- Every number below the count is the count below some one bit. -/
theorem exists_one_of_lt_popCount {b m n : Nat} (h : m < popCount b n) : ∃ k, k < n ∧ b.testBit k = true ∧ popCount b k = m := by
  induction n with
  | zero => exact absurd h (Nat.not_lt_zero m)
  | succ n ih =>
    by_cases hm : m < popCount b n
    · obtain ⟨k, hk, hone, hcount⟩ := ih hm
      exact ⟨k, hk.trans (Nat.lt_succ_self n), hone, hcount⟩
    · rw [popCount_succ] at h
      by_cases hone : b.testBit n = true
      · rw [if_pos hone] at h
        exact ⟨n, Nat.lt_succ_self n, hone, by omega⟩
      · rw [if_neg hone] at h
        omega

/-! ## The recursions, bit by bit (R235) -/

/-- A bit put below a number whose lower bits are clear. -/
theorem testBit_bit_add {i r : Nat} (x : Bool) (h : 2 ^ (i + 1) ∣ r) (k : Nat) :
    (b2n x * 2 ^ i + r).testBit k = if k = i then x else r.testBit k := by
  obtain ⟨q, rfl⟩ := h
  have hlt : b2n x * 2 ^ i < 2 ^ (i + 1) := by
    rw [Nat.pow_succ']
    exact Nat.mul_lt_mul_of_pos_right (by cases x <;> decide) (Nat.two_pow_pos i)
  rw [Nat.add_comm, Nat.testBit_two_pow_mul_add _ hlt, Nat.testBit_two_pow_mul, Nat.mul_comm, Nat.testBit_two_pow_mul]
  by_cases hk : k = i
  · subst hk
    cases x <;> simp [b2n]
  · rw [if_neg hk]
    by_cases hlow : k < i + 1
    · simp [hlow, show ¬ i ≤ k by omega, show ¬ i + 1 ≤ k by omega]
    · simp [hlow]
      omega

theorem bextFrom_dvd (a b : Nat) : ∀ n i j, 2 ^ j ∣ bextFrom a b n i j
  | 0, _, _ => dvd_zero _
  | n + 1, i, j => by
    have hrest : 2 ^ j ∣ bextFrom a b n (i + 1) (j + 1) := (pow_dvd_pow 2 (Nat.le_succ j)).trans (bextFrom_dvd a b n (i + 1) (j + 1))
    rw [bextFrom]
    split
    · exact (Dvd.intro_left _ rfl).add hrest
    · exact bextFrom_dvd a b n (i + 1) j

theorem bdepFrom_dvd (a b : Nat) : ∀ n i j, 2 ^ i ∣ bdepFrom a b n i j
  | 0, _, _ => dvd_zero _
  | n + 1, i, j => by
    have hrest : ∀ j, 2 ^ i ∣ bdepFrom a b n (i + 1) j := fun j =>
      (pow_dvd_pow 2 (Nat.le_succ i)).trans (bdepFrom_dvd a b n (i + 1) j)
    rw [bdepFrom]
    split
    · exact (Dvd.intro_left _ rfl).add (hrest _)
    · exact hrest _

/-- `bdep` puts at a one of b the bit of a that has as many ones of b below it. -/
theorem testBit_bdepFrom (a b n i k : Nat) : (bdepFrom a b n i (popCount b i)).testBit k =
    (decide (i ≤ k ∧ k < i + n) && (b.testBit k && a.testBit (popCount b k))) := by
  induction n generalizing i with
  | zero => simp [bdepFrom, show ¬ (i ≤ k ∧ k < i) by omega]
  | succ n ih =>
    have hrange : k ≠ i → ((i + 1 ≤ k ∧ k < i + 1 + n) ↔ (i ≤ k ∧ k < i + (n + 1))) := by omega
    have ih := ih (i + 1)
    rw [bdepFrom]
    by_cases hone : b.testBit i = true
    · rw [popCount_one hone] at ih
      rw [if_pos hone, testBit_bit_add _ (bdepFrom_dvd _ _ _ _ _), ih]
      by_cases hk : k = i
      · subst hk
        simp [hone]
      · rw [if_neg hk, decide_eq_decide.2 (hrange hk)]
    · rw [popCount_zero hone] at ih
      rw [if_neg hone, ih]
      by_cases hk : k = i
      · subst hk
        simp [hone]
      · rw [decide_eq_decide.2 (hrange hk)]

theorem testBit_bdep (a b n k : Nat) : (bdepFrom a b n 0 0).testBit k =
    (decide (k < n) && (b.testBit k && a.testBit (popCount b k))) := by
  simpa [popCount_start] using testBit_bdepFrom a b n 0 k

/-- `bext` puts the bit of a under a one of b where the count of the ones below it says. -/
theorem testBit_bextFrom_one {a b k : Nat} (hone : b.testBit k = true) : ∀ {n i : Nat}, i ≤ k → k < i + n →
    (bextFrom a b n i (popCount b i)).testBit (popCount b k) = a.testBit k
  | 0, i, hi, hk => absurd hk (Nat.not_lt.2 hi)
  | n + 1, i, hi, hk => by
    rw [bextFrom]
    obtain rfl | hlt := hi.eq_or_lt
    · rw [if_pos hone, testBit_bit_add _ (bextFrom_dvd _ _ _ _ _), if_pos rfl]
    · have ih := testBit_bextFrom_one (a := a) hone (n := n) (i := i + 1) hlt (by omega)
      have hmono : popCount b (i + 1) ≤ popCount b k := popCount_mono b hlt
      split
      next h =>
        rw [popCount_one h] at ih hmono
        rw [testBit_bit_add _ (bextFrom_dvd _ _ _ _ _), if_neg (by omega), ih]
      next h => rwa [popCount_zero h] at ih

/-- Beyond the count of the ones of b nothing is gathered. -/
theorem testBit_bextFrom_beyond {a b m : Nat} : ∀ {n i : Nat}, popCount b (i + n) ≤ m →
    (bextFrom a b n i (popCount b i)).testBit m = false
  | 0, i, _ => Nat.zero_testBit m
  | n + 1, i, hm => by
    rw [← Nat.add_assoc, Nat.add_right_comm] at hm
    have ih := testBit_bextFrom_beyond (a := a) hm
    have hmono : popCount b (i + 1) ≤ popCount b (i + 1 + n) := popCount_mono b (Nat.le_add_right _ n)
    rw [bextFrom]
    split
    next h =>
      rw [popCount_one h] at ih hmono
      rw [testBit_bit_add _ (bextFrom_dvd _ _ _ _ _), if_neg (by omega), ih]
    next h => rwa [popCount_zero h] at ih

theorem bextFrom_bdepFrom (a b n : Nat) : bextFrom (bdepFrom a b n 0 0) b n 0 0 = a % 2 ^ popCount b n := by
  refine Nat.eq_of_testBit_eq fun m => ?_
  rw [Nat.testBit_mod_two_pow]
  by_cases hm : m < popCount b n
  · obtain ⟨k, hk, hone, rfl⟩ := exists_one_of_lt_popCount hm
    have hgather := testBit_bextFrom_one (a := bdepFrom a b n 0 0) hone (n := n) (Nat.zero_le k) (by omega)
    rw [testBit_bdep, hone, decide_eq_true hk, Bool.true_and, Bool.true_and] at hgather
    rw [decide_eq_true hm, Bool.true_and]
    exact hgather
  · rw [decide_eq_false hm, Bool.false_and]
    exact testBit_bextFrom_beyond (by rw [Nat.zero_add]; omega)

/-- Settles O9: the highest and the lowest one fix the counts, and the gathered bits are the low bits of what was scattered. -/
theorem bitOperations : Obligations.BitOperations := by
  refine ⟨rfl, by decide, fun a i hi hone habove => ?clz, fun a i hi hone hbelow => ?ctz, fun a b => bextFrom_bdepFrom _ _ _⟩
  case clz =>
    rw [clzW, bitLen_of_highest (n := a.toNat) hone habove]
    congr 1
    omega
  case ctz =>
    rw [ctzW, searchUp_first (p := a.toNat.testBit) hone (Nat.zero_le i) (by omega) (fun j _ hj => hbelow j hj)]
    rfl

theorem getLsbD_word (n : Nat) {j : Nat} (hj : j < 64) : (word n).getLsbD j = n.testBit j := by
  rw [word, BitVec.getLsbD_ofNat, decide_eq_true hj, Bool.true_and]

/-- Settles O10: both instructions write the result of their recursion. -/
theorem gatherScatter : Obligations.GatherScatter := by
  intro s d a b below
  refine ⟨⟨_, rfl, fun i hi hone => ?gather, fun j hj => ?beyond⟩, ⟨_, rfl, fun i hi hone => ?scatter, fun i hi hzero => ?outside⟩⟩
  case gather =>
    rw [getLsbD_word _ ((popCount_le _ i).trans_lt hi)]
    exact testBit_bextFrom_one hone (Nat.zero_le i) (by omega)
  case beyond =>
    by_cases h : j < 64
    · rw [getLsbD_word _ h]
      exact testBit_bextFrom_beyond hj
    · exact BitVec.getLsbD_of_ge _ j (Nat.not_lt.1 h)
  case scatter => rw [getLsbD_word _ hi, testBit_bdep, BitVec.testBit_toNat, hone, decide_eq_true hi]; rfl
  case outside => rw [getLsbD_word _ hi, testBit_bdep, BitVec.testBit_toNat, hzero, Bool.false_and, Bool.and_false]

end Sys2Proof.Proofs.BitGather
end

section
/-! PROOFS. The control registers: who may reach them, what they read, and what a write leaves in them (R222 to R224, R304). -/

namespace Sys2Proof.Proofs.ControlRegisters

open Sys2Proof.Machine Sys2Proof.Spec Sys2Proof.Proofs.Sync

/-! ## The checks (R222, R224) -/

theorem csrKnown_iff (n : Nat) : csrKnown n = true ↔ assigned n := by
  simp only [csrKnown, assigned, Bool.or_eq_true, Bool.and_eq_true, decide_eq_true_eq, beq_iff_eq, List.mem_cons, List.not_mem_nil, or_false]
  omega

theorem csrRo_iff (n : Nat) : csrRo n = true ↔ readOnly n := by
  simp only [csrRo, readOnly, Bool.or_eq_true, Bool.and_eq_true, decide_eq_true_eq, beq_iff_eq, List.mem_cons, List.not_mem_nil, or_false]
  omega

theorem csrSup_iff (n : Nat) : csrSup n = true ↔ 0x40 ≤ n ∧ n ≤ 0x47 := by
  simp only [csrSup, Bool.and_eq_true, decide_eq_true_eq]

/-- No register that is only read is a supervisor register. -/
theorem readOnly_reachable {n : Nat} (h : readOnly n) : assigned n ∧ ¬ (0x40 ≤ n ∧ n ≤ 0x47) := by
  simp only [readOnly, assigned, List.mem_cons, List.not_mem_nil, or_false] at h ⊢
  omega

theorem wordEval_zero (i : Instr) : wordEval i 0 = word (encode i).toNat := by
  rw [wordEval, Nat.zero_mul, Nat.zero_add]

section
variable {s : State} {i : Instr} {n : Nat} {write : Bool}

theorem csrCheck_unknown (h : ¬ assigned n) : csrCheck i n write s = .error (.trap Cause.csrUndef (word n) 0 0) s := by
  have hk : csrKnown n = false := Bool.eq_false_iff.2 (mt (csrKnown_iff n).1 h)
  rw [csrCheck, hk]
  rfl

variable (h : assigned n)
include h

theorem csrCheck_known : csrCheck i n write s = (trapIf (csrSup n && !s.curCtx.sup) Cause.illPriv (wordEval i 0) >>=
    fun _ => trapIf (write && csrRo n) Cause.csrRo (word n)) s := by
  rw [csrCheck, (csrKnown_iff n).2 h]
  rfl

theorem csrCheck_unprivileged (hhigh : 0x40 ≤ n ∧ n ≤ 0x47) (huser : s.curCtx.sup = false) :
    csrCheck i n write s = .error (.trap Cause.illPriv (word (encode i).toNat) 0 0) s := by
  rw [csrCheck_known h, (csrSup_iff n).2 hhigh, huser, wordEval_zero]
  rfl

theorem csrCheck_reachable (hreach : ¬ (0x40 ≤ n ∧ n ≤ 0x47) ∨ s.curCtx.sup = true) :
    csrCheck i n write s = trapIf (write && csrRo n) Cause.csrRo (word n) s := by
  have hpass : (csrSup n && !s.curCtx.sup) = false := by
    obtain hlow | hsup := hreach
    · rw [Bool.eq_false_iff.2 (mt (csrSup_iff n).1 hlow), Bool.false_and]
    · rw [hsup, Bool.not_true, Bool.and_false]
  rw [csrCheck_known h, hpass]
  rfl

theorem csrCheck_ok (hreach : ¬ (0x40 ≤ n ∧ n ≤ 0x47) ∨ s.curCtx.sup = true) (hro : write = true → ¬ readOnly n) :
    csrCheck i n write s = .ok () s := by
  have hpass : (write && csrRo n) = false := by
    cases write
    · rfl
    · exact Bool.eq_false_iff.2 (mt (csrRo_iff n).1 (hro rfl))
  rw [csrCheck_reachable h hreach, hpass]
  rfl

omit h in
theorem csrCheck_readOnly (h : readOnly n) : csrCheck i n true s = .error (.trap Cause.csrRo (word n) 0 0) s := by
  obtain ⟨hknown, hlow⟩ := readOnly_reachable h
  rw [csrCheck_reachable hknown (.inl hlow), (csrRo_iff n).2 h]
  rfl

end

section
variable {s : State} {a : BitVec 5} {c : BitVec 11}

/-- The three instructions of a control register, each with whether it writes. -/
def IsCsr (i : Instr) (c : BitVec 11) (write : Bool) : Prop :=
  (write = false ∧ ∃ d, i = .csrr d c) ∨ (write = true ∧ ∃ a, i = .csrw a c ∨ i = .csrs a c)

/-- What the checks raise, the instruction raises. -/
theorem csr_traps {i : Instr} {write : Bool} (hi : IsCsr i c write) {cause : Nat} {v : Word}
    (h : csrCheck i c.toNat write s = .error (.trap cause v 0 0) s) : Answers i s (raised s cause v) := by
  obtain ⟨rfl, d, rfl⟩ | ⟨rfl, a, rfl | rfl⟩ := hi <;> exact runInstr_trap (M.bind_error h)

theorem csrr_reads {d : BitVec 5} (h : csrCheck (.csrr d c) c.toNat false s = .ok () s) :
    Answers (.csrr d c) s (s.setX d (s.csr c.toNat)).retire := runInstr_ok (M.bind_ok h)

theorem csrw_writes (h : csrCheck (.csrw a c) c.toNat true s = .ok () s) :
    Answers (.csrw a c) s (s.setCsr c.toNat (s.x a) false).retire := runInstr_ok (M.bind_ok h)

theorem csrs_sets (h : csrCheck (.csrs a c) c.toNat true s = .ok () s) :
    Answers (.csrs a c) s (s.setCsr c.toNat (s.x a) true).retire := runInstr_ok (M.bind_ok h)

end

theorem controlRegisterAccess : ControlRegisterAccess := by
  intro s d c n high
  have hr : IsCsr (.csrr d c) c false := .inl ⟨rfl, d, rfl⟩
  have hw : IsCsr (.csrw d c) c true := .inr ⟨rfl, d, .inl rfl⟩
  have hs : IsCsr (.csrs d c) c true := .inr ⟨rfl, d, .inr rfl⟩
  refine ⟨fun h => ⟨csr_traps hr (csrCheck_unknown h), csr_traps hw (csrCheck_unknown h), csr_traps hs (csrCheck_unknown h)⟩,
    fun h hhigh huser => ⟨csr_traps hr (csrCheck_unprivileged h hhigh huser), csr_traps hw (csrCheck_unprivileged h hhigh huser),
      csr_traps hs (csrCheck_unprivileged h hhigh huser)⟩,
    fun h => ⟨?_, csr_traps hw (csrCheck_readOnly h), csr_traps hs (csrCheck_readOnly h)⟩,
    fun h hro hreach => ⟨?_, csrw_writes (csrCheck_ok h hreach fun _ => hro), csrs_sets (csrCheck_ok h hreach fun _ => hro)⟩⟩
  · obtain ⟨hknown, hlow⟩ := readOnly_reachable h
    exact csrr_reads (csrCheck_ok hknown (.inl hlow) nofun)
  · exact csrr_reads (csrCheck_ok h hreach nofun)

/-! ## The fields of a register (R223, R224) -/

/-- No bit at or above the n-th is set in a word below 2 ^ n. -/
theorem and_above_eq_zero_iff (v : Word) {n : Nat} (hn : n ≤ 64) : v.toNat &&& above n = 0 ↔ v.toNat < 2 ^ n := by
  have habove : ∀ j, (above n).testBit j = (decide (n ≤ j) && decide (j < 64)) := by
    intro j
    have hsplit : above n = 2 ^ n * (2 ^ (64 - n) - 1) := by
      rw [above, Nat.mul_sub, mul_one, ← pow_add, Nat.add_sub_cancel' hn]
    rw [hsplit, Nat.testBit_two_pow_mul, Nat.testBit_two_pow_sub_one]
    by_cases h : n ≤ j
    · rw [decide_eq_true h, Bool.true_and, Bool.true_and]
      exact decide_eq_decide.2 (by omega)
    · rw [decide_eq_false h, Bool.false_and, Bool.false_and]
  constructor
  · intro h
    refine Nat.lt_pow_two_of_testBit _ fun j hj => ?_
    by_cases hlt : j < 64
    · have hbit := congrArg (Nat.testBit · j) h
      simpa [habove, hj, hlt] using hbit
    · exact Nat.testBit_lt_two_pow (v.isLt.trans_le (Nat.pow_le_pow_right (by decide) (Nat.not_lt.1 hlt)))
  · intro h
    refine Nat.eq_of_testBit_eq fun j => ?_
    rw [Nat.testBit_and, habove, Nat.zero_testBit]
    by_cases hj : n ≤ j
    · rw [Nat.testBit_lt_two_pow (h.trans_le (Nat.pow_le_pow_right (by decide) hj)), Bool.false_and]
    · rw [decide_eq_false hj, Bool.false_and, Bool.and_false]

theorem field_eq (old v : Word) (rw rsv : Nat) : field old v rw rsv =
    if v.toNat &&& rsv = 0 then (old &&& ~~~(word rw)) ||| (v &&& word rw) else old := ite_not _ _ _

theorem field_writes {old v : Word} {rw rsv : Nat} (h : v.toNat &&& rsv = 0) :
    field old v rw rsv = (old &&& ~~~(word rw)) ||| (v &&& word rw) := (field_eq _ _ _ _).trans (if_pos h)

/-- A register of 64 bits that are written whole takes the value. -/
theorem field_whole (old v : Word) : field old v (2 ^ 64 - 1) 0 = v := by
  rw [field_writes (Nat.and_zero _)]
  show (old &&& ~~~(BitVec.allOnes 64)) ||| (v &&& BitVec.allOnes 64) = v
  rw [BitVec.and_allOnes, BitVec.not_allOnes, BitVec.and_zero, BitVec.zero_or]

theorem field_above (old v : Word) (rw : Nat) {n : Nat} (hn : n ≤ 64) : field old v rw (above n) =
    if v.toNat < 2 ^ n then (old &&& ~~~(word rw)) ||| (v &&& word rw) else old := by
  simp only [field_eq, and_above_eq_zero_iff v hn]

/-- A register of a context after `csrw`. -/
theorem curCtx_setCsr {s : State} (hcur : s.cur.2 < 11) {n : Nat} {v : Word} {set : Bool} {f : Ctx → Ctx}
    (h : s.setCsr n v set = s.modCur f) : (s.setCsr n v set).curCtx = f s.curCtx := by
  rw [h, s.curCtx_modCur f hcur]

theorem toNat_and_eq_zero_iff (v m : Word) : v.toNat &&& m.toNat = 0 ↔ v &&& m = 0 := by
  rw [← BitVec.toNat_and]
  exact BitVec.toNat_inj (y := 0)

theorem and_mask_of_lt {v : Word} {n : Nat} (h : v.toNat < 2 ^ n) (hn : n ≤ 64) : v &&& word (2 ^ n - 1) = v := by
  have hmask : (word (2 ^ n - 1)).toNat = 2 ^ n - 1 := by
    have hle : 2 ^ n ≤ 2 ^ 64 := Nat.pow_le_pow_right (by decide) hn
    have hpos : 0 < 2 ^ n := Nat.two_pow_pos n
    exact Nat.mod_eq_of_lt (by omega)
  refine BitVec.eq_of_toNat_eq ?_
  rw [BitVec.toNat_and, hmask, Nat.and_two_pow_sub_one_eq_mod, Nat.mod_eq_of_lt h]

/-- What `csrs` leaves in a field of n bits that is written whole. -/
theorem or_masked (old v m : Word) : (old &&& ~~~m) ||| (((old &&& m) ||| v) &&& m) = old ||| (v &&& m) := by
  ext j
  simp only [BitVec.getElem_or, BitVec.getElem_and, BitVec.getElem_not]
  cases old[j] <;> cases m[j] <;> simp

section
variable (s : State) (v : Word) (hcur : s.cur.2 < 11)
include hcur

theorem fcsr_csrw : (s.setCsr 0x10 v false).curCtx.fcsr =
    if v &&& 0xFFFFFFFFFFFFE080 = 0 then (s.curCtx.fcsr &&& ~~~0x1F7F) ||| (v &&& 0x1F7F) else s.curCtx.fcsr := by
  rw [curCtx_setCsr hcur rfl]
  exact (field_eq _ _ _ _).trans (if_congr (toNat_and_eq_zero_iff v 0xFFFFFFFFFFFFE080) rfl rfl)

theorem fcsr_csrs (h : v &&& 0xFFFFFFFFFFFFE080 = 0) :
    (s.setCsr 0x10 v true).curCtx.fcsr = s.curCtx.fcsr ||| (v &&& 0x1F7F) := by
  rw [curCtx_setCsr hcur rfl]
  have hclear : ((s.curCtx.fcsr &&& word 0x1F7F) ||| v) &&& 0xFFFFFFFFFFFFE080 = 0 := by
    rw [BitVec.and_or_distrib_right, h, BitVec.and_assoc]
    exact (BitVec.or_zero).trans BitVec.and_zero
  exact (field_writes ((toNat_and_eq_zero_iff _ 0xFFFFFFFFFFFFE080).2 hclear)).trans (or_masked _ _ _)

theorem cbsel_csrw : (s.setCsr 0x13 v false).curCtx.cbsel =
    if v.toNat < 2 ^ 12 then (s.curCtx.cbsel &&& ~~~0xFFF) ||| v else s.curCtx.cbsel := by
  rw [curCtx_setCsr hcur rfl]
  refine (field_above _ _ _ (by decide)).trans (ite_congr rfl (fun h => ?_) (fun _ => rfl))
  exact congrArg _ (and_mask_of_lt h (by decide))

theorem scope_csrw : (s.setCsr 0x15 v false).curCtx.scope = if isScope v.toNat = true then v else s.curCtx.scope := by
  have h : s.setCsr 0x15 v false = if isScope v.toNat = true then s.modCur (fun x => { x with scope := v }) else s := rfl
  rw [h]
  split
  · rw [s.curCtx_modCur _ hcur]
  · rfl

theorem epc_csrw : (s.setCsr 0x40 v false).curCtx.epc =
    if v.toNat < 2 ^ 48 then (s.curCtx.epc &&& ~~~0xFFFFFFFFFFFF) ||| v else s.curCtx.epc := by
  rw [curCtx_setCsr hcur rfl]
  refine (field_above _ _ _ (by decide)).trans (ite_congr rfl (fun h => ?_) (fun _ => rfl))
  exact congrArg _ (and_mask_of_lt h (by decide))

theorem tvec_csrw : (s.setCsr 0x46 v false).curCtx.tvec = (s.curCtx.tvec &&& 3) ||| (v &&& ~~~3) := by
  rw [curCtx_setCsr hcur rfl]
  exact field_writes (Nat.and_zero _)

theorem eval_csrw : (s.setCsr 0x42 v false).curCtx.eval = v := by
  rw [curCtx_setCsr hcur rfl]
  exact field_whole _ _

theorem scratch_csrw : (s.setCsr 0x47 v false).curCtx.scratch = v := by
  rw [curCtx_setCsr hcur rfl]
  exact field_whole _ _

theorem scratch_csrs : (s.setCsr 0x47 v true).curCtx.scratch = s.curCtx.scratch ||| v := by
  rw [curCtx_setCsr hcur rfl]
  refine (field_whole _ _).trans ?_
  exact congrArg (· ||| v) (BitVec.and_allOnes (x := s.curCtx.scratch))

end

/-! ## LQST (R155) -/

theorem lqst_written {old v : Word} {set : Bool} (hv : v.toNat < 2 ^ 21) : lqstWrite old v set =
    word ((if set = true then bits old 20 16 ||| bits v 20 16 else bits v 20 16) * 65536 +
      (bits old 12 8 &&& (31 - bits v 12 8)) * 256 + bits old 7 7 * 128) :=
  if_neg (not_not.2 ((and_above_eq_zero_iff v (by decide)).2 hv))

theorem testBit_bits (w : Word) (hi lo j : Nat) : (bits w hi lo).testBit j = (decide (j < hi + 1 - lo) && w.getLsbD (lo + j)) := by
  rw [bits, Nat.testBit_mod_two_pow, Nat.testBit_div_two_pow, Nat.add_comm j]
  rfl

theorem bits_lt (w : Word) (hi lo : Nat) : bits w hi lo < 2 ^ (hi + 1 - lo) := Nat.mod_lt _ (Nat.two_pow_pos _)

/-- Three fields of LQST laid side by side. -/
theorem testBit_lqst {fen flags low : Nat} (hflags : flags < 2 ^ 5) (hlow : low < 2) (k : Nat) :
    (fen * 65536 + flags * 256 + low * 128).testBit (8 + k) = if k < 8 then flags.testBit k else fen.testBit (k - 8) := by
  have hfields : fen * 65536 + flags * 256 + low * 128 = 2 ^ 8 * (2 ^ 8 * fen + flags) + low * 128 := by ring
  rw [hfields, Nat.testBit_two_pow_mul_add _ (by omega), if_neg (by omega), Nat.add_sub_cancel_left,
    Nat.testBit_two_pow_mul_add _ (by omega)]

theorem lqst_csr (s : State) (v : Word) (set : Bool) (k : Nat) (hv : v.toNat < 2 ^ 21) (hlow : 8 ≤ k) (hhigh : k < 13) :
    let q := (s.setCsr 0x11 v set).curCore.lqst
    q.getLsbD k = (s.curCore.lqst.getLsbD k && !v.getLsbD k) ∧
    q.getLsbD (k + 8) = (v.getLsbD (k + 8) || (set && s.curCore.lqst.getLsbD (k + 8))) := by
  obtain ⟨j, rfl⟩ := Nat.exists_eq_add_of_le hlow
  have hj : j < 5 := by omega
  intro q
  have hq : q = lqstWrite s.curCore.lqst v set := by
    show ((s.modCurCore _).curCore).lqst = _
    rw [State.curCore_modCurCore]
  have hflags : bits s.curCore.lqst 12 8 &&& (31 - bits v 12 8) < 2 ^ 5 := Nat.and_lt_two_pow _ (by omega)
  have hclear : (31 - bits v 12 8).testBit j = !v.getLsbD (8 + j) := by
    rw [show 31 - bits v 12 8 = 2 ^ 5 - (bits v 12 8 + 1) by omega, Nat.testBit_two_pow_sub_succ (bits_lt v 12 8), testBit_bits]
    simp [hj]
  rw [hq, lqst_written hv, word, BitVec.getLsbD_ofNat, BitVec.getLsbD_ofNat, decide_eq_true (by omega), decide_eq_true (by omega),
    Bool.true_and, Bool.true_and, Nat.add_assoc 8 j 8, testBit_lqst hflags (bits_lt s.curCore.lqst 7 7),
    testBit_lqst hflags (bits_lt s.curCore.lqst 7 7), if_pos (by omega), if_neg (by omega), Nat.add_sub_cancel, Nat.testBit_and,
    hclear, testBit_bits, decide_eq_true (by omega), Bool.true_and,
    show 8 + (j + 8) = 16 + j by omega]
  refine ⟨rfl, ?_⟩
  cases set
  · simp [testBit_bits, hj]
  · simp [testBit_bits, hj, Bool.or_comm]

theorem controlRegisterValue : ControlRegisterValue := by
  refine ⟨fun s => ⟨rfl, rfl, rfl, rfl, rfl, rfl, rfl, rfl, rfl, rfl, rfl, rfl, rfl, rfl, rfl, rfl, rfl, rfl, rfl⟩,
    fun s v hcur => ⟨fcsr_csrw s v hcur, fcsr_csrs s v hcur, cbsel_csrw s v hcur, scope_csrw s v hcur, tvec_csrw s v hcur,
      scratch_csrw s v hcur, eval_csrw s v hcur, scratch_csrs s v hcur, fun hv => (epc_csrw s v hcur).trans (if_pos hv),
      fun hv => (epc_csrw s v hcur).trans (if_neg (Nat.not_lt.2 hv))⟩, lqst_csr⟩

/-- Settles O42: the checks in their order, and the fields that a write reaches. -/
theorem controlRegisterResult : Obligations.ControlRegisterResult := ⟨controlRegisterAccess, controlRegisterValue⟩

end Sys2Proof.Proofs.ControlRegisters
end

section
/-! PROOFS. Steps that the instructions of objects, queues and jobs share: bit fields of an operand, and the tables of the device brought
up to date (R165, R216; log entry 11). -/

namespace Sys2Proof.Proofs.Operands

open Sys2Proof.Machine Sys2Proof.Spec Sys2Proof.Proofs.Sync

/-! ## Bit fields -/

theorem bits_of_lt {n : Nat} {v : BitVec n} {hi : Nat} (h : v.toNat < 2 ^ (hi + 1)) : bits v hi 0 = v.toNat := by
  rw [bits, pow_zero, Nat.div_one, Nat.sub_zero, Nat.mod_eq_of_lt h]

theorem bits_eq_zero {n : Nat} {v : BitVec n} {lo : Nat} (h : v.toNat < 2 ^ lo) (hi : Nat) : bits v hi lo = 0 := by
  rw [bits, Nat.div_eq_of_lt h, Nat.zero_mod]

theorem bits_bne_zero {n : Nat} {v : BitVec n} {lo : Nat} (h : v.toNat < 2 ^ lo) (hi : Nat) : (bits v hi lo != 0) = false := by
  rw [bits_eq_zero h]
  rfl

/-- The high part of a word is not zero once the word is beyond the low part. -/
theorem bits_ne_zero {v : Word} {lo : Nat} (h : 2 ^ lo ≤ v.toNat) : bits v 63 lo ≠ 0 := by
  have hpos : 0 < v.toNat / 2 ^ lo := Nat.div_pos h (Nat.two_pow_pos lo)
  have hlo : lo ≤ 64 := by
    by_contra hbig
    exact absurd (h.trans_lt v.isLt) (Nat.not_lt.2 (Nat.pow_le_pow_right (by decide) (by omega)))
  have hlt : v.toNat / 2 ^ lo < 2 ^ (64 - lo) := by
    rw [Nat.div_lt_iff_lt_mul (Nat.two_pow_pos lo), ← pow_add, Nat.sub_add_cancel hlo]
    exact v.isLt
  rw [bits, Nat.mod_eq_of_lt hlt]
  exact hpos.ne'

/-! ## Checks that pass or trap -/

section
variable {s : State} {b : Bool} {c : Nat} {v : Word}

theorem trapIf_pass (h : b = false) : trapIf b c v s = .ok () s := h ▸ rfl

theorem trapIf_traps (h : b = true) : trapIf b c v s = .error (.trap c v 0 0) s := h ▸ rfl

theorem waitIf_pass {w : Wait} (h : b = false) : waitIf b w s = .ok () s := h ▸ rfl

theorem waitIf_waits {w : Wait} (h : b = true) : waitIf b w s = .error (.wait w) s := h ▸ rfl

theorem bind_trapIf_pass {α : Type} {f : Unit → M α} (h : b = false) : (trapIf b c v >>= f) s = f () s := h ▸ rfl

theorem bind_waitIf_pass {α : Type} {w : Wait} {f : Unit → M α} (h : b = false) : (waitIf b w >>= f) s = f () s := h ▸ rfl

/-- A run is known by what it comes to. -/
theorem runInstr_congr {m m' : M Unit} {s t : State} (h : m s = m' t) : runInstr m s = runInstr m' t := by
  simp only [runInstr, h]

theorem runInstr_raises {m : M Unit} (h : m s = .error (.trap c v 0 0) s) : runInstr m s = .next (raised s c v) := runInstr_trap h

end

/-! ## Tables up to date (R165; log entry 11) -/

/-- With no store of supervisor code in the queue nothing has to leave it. -/
theorem current_idle {s : State} (h : s.curCore.wq.any (fun w => w.sup) = false) : current s = s := by
  have hnone : ∀ w ∈ (s.core s.cur.1).wq.reverse, (!w.sup) = true := by
    intro w hw
    have := List.any_eq_false.1 h w (List.mem_reverse.1 hw)
    simpa using this
  rw [current, State.drainTables, State.drainThrough, List.takeWhile_eq_self_iff.2 hnone, List.length_reverse, Nat.sub_self]
  rfl

theorem tablesCurrent_ok {s : State} (h : tablesOpen s) : tablesCurrent s = .ok () (current s) := by
  rw [tablesCurrent, bind_get]
  by_cases hsup : s.curCore.wq.any (fun w => w.sup) = true
  · rw [if_pos hsup, h hsup]
    rfl
  · rw [if_neg hsup, current_idle (Bool.eq_false_iff.2 hsup)]
    rfl

end Sys2Proof.Proofs.Operands
end

section
/-! PROOFS. Traps, the return from a handler, `halt`, `brk` and `seal` (R93, R225, R302, R303, R305, R345, R346). -/

namespace Sys2Proof.Proofs.Supervisor

open Sys2Proof.Machine Sys2Proof.Spec Sys2Proof.Proofs.Sync Sys2Proof.Proofs.Operands Sys2Proof.Proofs.ControlRegisters

/-! ## Supervisor level (R225) -/

section
variable {s : State} (i : Instr)

theorem privileged_ok (h : s.curCtx.sup = true) : privileged i s = .ok () s := by
  rw [privileged, bind_get, h]
  rfl

theorem privileged_traps (h : s.curCtx.sup = false) :
    privileged i s = .error (.trap Cause.illPriv (word (encode i).toNat) 0 0) s := by
  rw [privileged, bind_get, h, wordEval_zero]
  rfl

end

/-- The instructions of this group that check their level before anything else. -/
theorem exec_checksLevel {i : Instr} (s : State)
    (hi : i = .eret ∨ (∃ a, i = .halt a) ∨ (∃ d a, i = .seal d a) ∨ (∃ a h, i = .rollbk a h)) :
    ∃ k : Unit → M Unit, exec i s = runInstr (privileged i >>= k) s := by
  obtain rfl | ⟨a, rfl⟩ | ⟨d, a, rfl⟩ | ⟨a, h, rfl⟩ := hi <;> exact ⟨_, rfl⟩

/-! ## `trap` (R302) -/

section
variable {s : State} {d a : BitVec 5}

theorem trap_user (huser : s.curCtx.sup = false) (hd : d = 0) : Answers (.trap d a) s (raised s Cause.syscall (s.x a)) := by
  subst hd
  refine runInstr_raises ?_
  rw [huser]
  rfl

theorem trap_reserved (huser : s.curCtx.sup = false) (hd : d ≠ 0) :
    Answers (.trap d a) s (raised s Cause.illRsv (word (encode (.trap d a)).toNat)) := by
  rw [← wordEval_zero]
  refine runInstr_raises ?_
  rw [huser]
  exact M.bind_error (trapIf_traps (bne_iff_ne.2 hd))

theorem trap_forwards (hsup : s.curCtx.sup = true) {i : Instr} (hn : (s.x a).toNat < 2 ^ 16)
    (hi : monitorCall (s.x a).toNat = some i) :
    Answers (.trap d a) s (waiting (s.post i { Ev.zero with at_ := s.cur.1, x := s.cur.2, y := d.toNat, words := s.callArgs }) .monitor) := by
  refine runInstr_ok ?_
  simp only [hsup, Bool.not_true, Bool.false_eq_true, if_false, if_pos (show (s.x a).toNat < 65536 from hn), hi]
  rfl

theorem trap_unnamed (hsup : s.curCtx.sup = true) (hn : 2 ^ 16 ≤ (s.x a).toNat ∨ monitorCall (s.x a).toNat = none) :
    Answers (.trap d a) s (s.setX d 0xFF).retire := by
  have hcall : (if (s.x a).toNat < 65536 then monitorCall (s.x a).toNat else none) = none := by
    obtain hbig | hnone := hn
    · exact if_neg (Nat.not_lt.2 hbig)
    · rw [hnone, ite_self]
  refine runInstr_ok ?_
  simp only [hsup, Bool.not_true, Bool.false_eq_true, if_false, hcall]
  rfl

end

/-! ## `eret` (R140, R303, R346) -/

/-- The time of the handler since the later of its entry and a pre-emption request (R119). -/
def handlerTime (s : State) : Nat :=
  s.clk - match s.insts.look s.curCore.inst with
    | some j => max s.curCtx.supSince j.reqTime
    | none => s.curCtx.supSince

section
variable {s : State} (hsup : s.curCtx.sup = true)
include hsup

theorem eret_refuses (hbad : s.curCtx.eretBad = true) : Answers .eret s (raised s Cause.eretState s.curCtx.estat) :=
  runInstr_raises ((M.bind_ok (privileged_ok _ hsup)).trans (M.bind_error (trapIf_traps hbad)))

theorem eret_ends (hgood : s.curCtx.eretBad = false) (hkill : s.curCtx.poisonKill = true) :
    Answers .eret s (s.killTask s.curCore.task Cause.uncorrData) := by
  refine runInstr_ok ((M.bind_ok (privileged_ok _ hsup)).trans ((M.bind_ok (trapIf_pass hgood)).trans ?_))
  rw [hkill]
  rfl

/-- Otherwise the context returns, and the time at supervisor level is counted. -/
theorem eret_returns (hgood : s.curCtx.eretBad = false) (hkill : s.curCtx.poisonKill = false) :
    Answers .eret s (s.modCur (fun x => { x.returnFrom with supSpent := x.supSpent + handlerTime s })) := by
  refine runInstr_ok ((M.bind_ok (privileged_ok _ hsup)).trans ((M.bind_ok (trapIf_pass hgood)).trans ?_))
  rw [hkill]
  rfl

end

theorem frameAfter_replay {x : Ctx} {f : RptFrame} (hf : x.rpt = some f) (hfull : f.need ≤ f.words.length) :
    x.frameAfter = if x.estat.getLsbD 19 = true then
        some { f with pass := x.estat.toNat / 2 ^ 32, pos := x.estat.toNat / 2 ^ 20 % 16, active := true }
      else none := by
  have hpass : bits x.estat 63 32 = x.estat.toNat / 2 ^ 32 := Nat.mod_eq_of_lt (by have := x.estat.isLt; omega)
  simp only [Ctx.frameAfter, hf, if_neg (Nat.not_lt.2 hfull), hpass]
  rfl

theorem frameAfter_capture {x : Ctx} {f : RptFrame} (hf : x.rpt = some f) (hopen : f.words.length < f.need) :
    x.frameAfter = if x.epc = f.base + word (4 * f.words.length) then some { f with active := true } else none := by
  simp only [Ctx.frameAfter, hf, if_pos hopen]

/-! ## `halt` and `brk` (R305) -/

theorem halt_kills {s : State} (a : BitVec 5) (hsup : s.curCtx.sup = true) :
    Answers (.halt a) s (s.killTask s.curCore.task ((s.x a).toNat % 256)) := by
  have hcause : bits (s.x a) 7 0 = (s.x a).toNat % 256 := congrArg (· % 256) (Nat.div_one _)
  rw [← hcause]
  exact runInstr_ok (M.bind_ok (privileged_ok _ hsup))

theorem brk_traps {s : State} (b : BitVec 6) (h : ¬ (2 ≤ s.mon.debugOpen ∧ s.mon.debugArm = true)) :
    Answers (.brk b) s (raised s Cause.brk (word b.toNat)) := by
  refine runInstr_raises ?_
  rw [if_neg h]
  rfl

/-- The state after a `brk` that halts its core for the debugger. -/
def broken (s : State) (b : BitVec 6) : State :=
  let t := s.modCurCore (fun k => { k with debugHalt := true })
  { t with mon := { t.mon with debugOut := t.mon.debugOut ++ [word (Cause.debugHalt * 2 ^ 56 + t.cur.1 * 2 ^ 32 + b.toNat)] } }

theorem brk_halts {s : State} (b : BitVec 6) (hopen : 2 ≤ s.mon.debugOpen) (harm : s.mon.debugArm = true) :
    Answers (.brk b) s (broken s b) := by
  refine runInstr_ok ?_
  rw [if_pos ⟨hopen, harm⟩]
  rfl

theorem broken_curCore (s : State) (b : BitVec 6) : (broken s b).curCore = { s.curCore with debugHalt := true } :=
  s.curCore_modCurCore (fun k => { k with debugHalt := true })

theorem broken_curCtx (s : State) (b : BitVec 6) : (broken s b).curCtx = s.curCtx :=
  s.curCtx_modCurCore (fun k => { k with debugHalt := true }) (fun _ => rfl)

theorem trapAndReturn : TrapAndReturn := by
  refine ⟨fun s d a => ⟨fun huser => ⟨trap_user huser, trap_reserved huser⟩,
      fun hsup => ⟨fun i hn hi => trap_forwards hsup hn hi, trap_unnamed hsup⟩⟩,
    fun s hsup hcur => ⟨eret_refuses hsup, fun hgood hkill => ?returns, eret_ends hsup⟩,
    fun s a hsup => halt_kills a hsup, fun s b h => brk_traps b h, fun s b hopen harm => ⟨_, brk_halts b hopen harm, congrArg Core.debugHalt (broken_curCore s b), broken_curCtx s b, rfl⟩,
    fun s i huser hi => ?level⟩
  case returns =>
    refine ⟨_, eret_returns hsup hgood hkill, ?_⟩
    rw [s.curCtx_modCur _ hcur]
    refine ⟨rfl, rfl, rfl, rfl, rfl, rfl, fun hf => ?_, fun f hf hfull => frameAfter_replay hf hfull,
      fun f hf hopen => frameAfter_capture hf hopen, rfl, rfl, rfl⟩
    show s.curCtx.frameAfter = none
    simp only [Ctx.frameAfter, hf]
  case level =>
    obtain ⟨k, hexec⟩ := exec_checksLevel s hi
    exact hexec.trans (runInstr_raises (M.bind_error (privileged_traps i huser)))

/-! ## `seal` (R93) -/

/-- `seal` once its entry is found, and with it another entry that grants W to its bytes. -/
def sealEntry (d : BitVec 5) (ctxid index : Nat) (e : Ent) (writer : Option Nat) : M Unit := do
  trapIf (e.fmt == 15) Cause.hInvalid (detEval index 3)
  trapIf (e.rights.testBit rX) Cause.sealFail 1
  trapIf (0x400000 < e.len) Cause.sealFail 2
  match writer with
  | some o => trap Cause.sealFail (word (0x300 + o))
  | none => do
    releaseAt 2
    modify (fun s => s.sealObject ctxid e)
    let s ← get
    writeX d (match s.proc? ctxid with
      | some p => word (leNat (p.cmeas.take 8))
      | none => 0)
    commitInstr false

theorem seal_finds {s : State} {d a : BitVec 5} {e : Ent} (hsup : s.curCtx.sup = true) (hblock : BlockOk s)
    (hopen : tablesOpen (closed s)) (hlow : (s.x a).toNat < 2 ^ 16)
    (hlive : (current (closed s)).liveEnt ((current (closed s)).ctxidOf s.cur.1) (s.x a).toNat = some e) :
    let t := current (closed s)
    let ctxid := t.ctxidOf s.cur.1
    exec (.seal d a) s = runInstr (sealEntry d ctxid (s.x a).toNat e (t.writerOf ctxid e)) t := by
  refine runInstr_congr ?_
  rw [M.bind_ok (privileged_ok _ hsup), M.bind_ok (endBlock_ok hblock), bind_trapIf_pass (bits_bne_zero hlow 63),
    M.bind_ok (tablesCurrent_ok hopen), bind_get]
  simp only [bits_of_lt (hi := 15) hlow, hlive]
  rfl

/-- Settles the part of O43 on `seal`: the checks of the entry in their order, then the seal. -/
theorem sealResult : SealResult := by
  intro s d a e hsup hblock hopen hlow t ctxid hlive hfmt
  have hfound : exec (.seal d a) s = runInstr (sealEntry d ctxid (s.x a).toNat e (t.writerOf ctxid e)) t :=
    seal_finds hsup hblock hopen hlow hlive
  have hwindow : (e.fmt == 15) = false := beq_eq_false_iff_ne.2 hfmt
  refine ⟨fun hX => ?executable, fun hX hlen => ?large, fun hX hlen => ⟨fun o ho => ?writer, fun hnone hset => ?sealed⟩⟩
  case executable =>
    exact hfound.trans (runInstr_raises ((bind_trapIf_pass hwindow).trans (M.bind_error (trapIf_traps hX))))
  case large =>
    refine hfound.trans (runInstr_raises ((bind_trapIf_pass hwindow).trans ((bind_trapIf_pass hX).trans ?_)))
    exact M.bind_error (trapIf_traps (decide_eq_true hlen))
  case writer =>
    refine hfound.trans (runInstr_raises ((bind_trapIf_pass hwindow).trans ((bind_trapIf_pass hX).trans
      ((bind_trapIf_pass (decide_eq_false (Nat.not_lt.2 hlen))).trans ?_))))
    rw [ho]
    rfl
  case sealed =>
    refine hfound.trans (runInstr_ok ((bind_trapIf_pass hwindow).trans ((bind_trapIf_pass hX).trans
      ((bind_trapIf_pass (decide_eq_false (Nat.not_lt.2 hlen))).trans ?_))))
    rw [hnone]
    simp only
    rw [M.bind_ok (releaseAt_ok hset), bind_modify, bind_get]
    exact (M.bind_ok (writeX_ok _ _ _)).trans (commitInstr_ok _ _)

/-- Settles O43. -/
theorem supervisorResult : Obligations.SupervisorResult := ⟨trapAndReturn, sealResult⟩

end Sys2Proof.Proofs.Supervisor
end

section
/-! PROOFS. Taking an exception: the entry of a handler at user level, and the end of the task at supervisor level (R69, R113, R346,
R349). -/

namespace Sys2Proof.Proofs.Exceptions

open Sys2Proof.Machine Sys2Proof.Spec

/-! ## ESTAT (R345) -/

/-- The fields of ESTAT laid side by side. -/
def estatWord (pass drops pos inFrame cls reason : Nat) : Word :=
  word (pass * 2 ^ 32 + min drops 255 * 2 ^ 24 + pos * 2 ^ 20 + inFrame * 2 ^ 19 + cls * 2 ^ 17 + reason * 2 ^ 15)

section
variable {pass drops pos inFrame cls reason : Nat} (hcls : cls < 4) (hreason : reason < 4)
include hcls hreason

theorem estatWord_low : (estatWord pass drops pos inFrame cls reason).toNat / 2 ^ 17 % 4 = cls ∧
    (estatWord pass drops pos inFrame cls reason).toNat / 2 ^ 15 % 4 = reason ∧
    (estatWord pass drops pos inFrame cls reason).toNat % 2 ^ 15 = 0 := by
  rw [estatWord, word, BitVec.toNat_ofNat]
  omega

theorem estatWord_place (hpos : pos < 16) (hin : inFrame < 2) :
    (estatWord pass drops pos inFrame cls reason).toNat / 2 ^ 20 % 16 = pos ∧
    (estatWord pass drops pos inFrame cls reason).getLsbD 19 = decide (inFrame = 1) := by
  rw [← BitVec.testBit_toNat, Nat.testBit_eq_decide_div_mod_eq, estatWord, word, BitVec.toNat_ofNat]
  exact ⟨by omega, decide_eq_decide.2 (by omega)⟩

end

/-- ESTAT holds the place in a frame that is replayed, and zeros outside one. -/
theorem estatAt_eq (x : Ctx) (cls reason : Nat) : ∃ pass pos inFrame, x.estatAt cls reason = estatWord pass x.drops pos inFrame cls reason ∧
    (x.rpt = none → pos = 0 ∧ inFrame = 0) ∧
    (∀ f, x.rpt = some f → f.active = true → f.need ≤ f.words.length → pos = f.pos ∧ inFrame = 1) := by
  rcases hf : x.rpt with _ | f
  · exact ⟨0, 0, 0, by simp only [Ctx.estatAt, hf]; rfl, fun _ => ⟨rfl, rfl⟩, fun _ h => nomatch h⟩
  · by_cases hin : f.active = true ∧ f.need ≤ f.words.length
    · refine ⟨f.pass, f.pos, 1, by simp only [Ctx.estatAt, hf, if_pos hin]; rfl, fun h => (nomatch h), fun g hg _ _ => ?_⟩
      cases hg
      exact ⟨rfl, rfl⟩
    · refine ⟨0, 0, 0, by simp only [Ctx.estatAt, hf, if_neg hin]; rfl, fun h => (nomatch h), fun g hg hactive hfull => ?_⟩
      cases hg
      exact absurd ⟨hactive, hfull⟩ hin

/-! ## Entry at user level (R346) -/

theorem exceptionEntry : ExceptionEntry := by
  intro s c i r hi huser hother hcause hcls hreason x t y
  have ht : t = s.modCtx c i (fun x => x.enterTrap r s.clk) := s.takeTrap_user c i r hcause huser hother
  have hy : y = x.enterTrap r s.clk := by
    show t.ctx c i = _
    rw [ht]
    exact s.ctx_setCtx_same c i _ hi
  obtain ⟨pass, pos, inFrame, hestat, hnone, hframe⟩ := estatAt_eq x r.cls r.preason
  have hes : y.estat = estatWord pass x.drops pos inFrame r.cls r.preason := by rw [hy]; exact hestat
  obtain ⟨hc, hp, hz⟩ := estatWord_low (pass := pass) (drops := x.drops) (pos := pos) (inFrame := inFrame) hcls hreason
  have hkeeps : ∀ {β : Type} (g : Ctx → β), g (x.enterTrap r s.clk) = g x → g y = g x := fun g h => by rw [hy, h]
  refine ⟨by rw [hy]; rfl, by rw [hy]; rfl, by rw [hy]; rfl, by rw [hy]; rfl, by rw [hy]; rfl, by rw [hes]; exact hc,
    by rw [hes]; exact hp, by rw [hes]; exact hz, fun h => ?outside, fun f hf hactive hfull hlt => ?inside, hkeeps (·.regs) rfl,
    hkeeps (·.h) rfl, hkeeps (·.fcsr) rfl, hkeeps (·.tvec) rfl, hkeeps (·.scratch) rfl, hkeeps (·.rgnpc) rfl,
    hkeeps (·.rgnskip) rfl, hkeeps (·.instret) rfl, by rw [hy]; rfl, by rw [hy]; rfl, fun j hj => ?others, fun k hk => ?cores,
    by rw [ht]; rfl, by rw [ht]; rfl, by rw [ht]; rfl, by rw [ht]; rfl, by rw [ht]; rfl⟩
  case outside =>
    obtain ⟨rfl, rfl⟩ := hnone h
    rw [hes, (estatWord_place hcls hreason (by decide) (by decide)).2]
    rfl
  case inside =>
    obtain ⟨rfl, rfl⟩ := hframe f hf hactive hfull
    obtain ⟨hpos, hbit⟩ := estatWord_place (pass := pass) (drops := x.drops) (inFrame := 1) hcls hreason hlt (by decide)
    rw [hes]
    exact ⟨hbit, hpos⟩
  case others =>
    rw [ht]
    exact State.ctx_setCtx_other s c i c j _ (fun h => hj (congrArg Prod.snd h))
  case cores =>
    rw [ht]
    exact State.core_modCore_other s c k _ hk

/-! ## An exception at supervisor level (R113, R346) -/

/-- The state after some cores have stopped. -/
def stopAll (s : State) (cs : List Nat) : State := cs.foldl (fun s c => s.modCore c Core.stop) s

theorem stopAll_eq (cs : List Nat) (s : State) : stopAll s cs = { s with cores := (stopAll s cs).cores } := by
  induction cs generalizing s with
  | nil => rfl
  | cons c cs ih =>
    rw [stopAll, List.foldl_cons]
    exact ih (s.modCore c Core.stop)

theorem stop_stop (k : Core) : k.stop.stop = k.stop := by
  simp only [Core.stop, Vector.map_map]
  rfl

theorem core_stopAll (cs : List Nat) (s : State) (n : Nat) :
    (stopAll s cs).core n = if n ∈ cs then (s.core n).stop else s.core n := by
  induction cs generalizing s with
  | nil => rfl
  | cons c cs ih =>
    rw [stopAll, List.foldl_cons]
    refine (ih (s.modCore c Core.stop)).trans ?_
    by_cases hc : n = c
    · subst hc
      rw [State.core_modCore_same, stop_stop, ite_self, if_pos List.mem_cons_self]
    · rw [State.core_modCore_other _ _ _ _ hc]
      exact if_congr (by rw [List.mem_cons, or_iff_right hc]) rfl rfl

/-- No context of a stopped core is live. -/
theorem stop_not_live (k : Core) (j : Nat) : (k.stop.ctx j).live = false := by
  unfold Core.ctx Core.stop
  rcases h : k.ctxs[j]? with _ | x
  · simp [h, Ctx.zero]
  · simp [h]

/-- The cores of a task's instances that run. -/
def taskCores (s : State) (tid : Nat) : List Nat :=
  ((s.insts.filter (fun p => p.2.task = tid && p.2.st != .saved)).map (fun p => p.2)).flatMap (fun j => j.cores)

theorem mem_taskCores {s : State} {tid : Nat} {p : Nat × Inst} (hp : p ∈ s.insts) (htask : p.2.task = tid)
    (hst : p.2.st ≠ .saved) {n : Nat} (hn : n ∈ p.2.cores) : n ∈ taskCores s tid := by
  refine List.mem_flatMap.2 ⟨p.2, List.mem_map.2 ⟨p, List.mem_filter.2 ⟨hp, ?_⟩, rfl⟩, hn⟩
  rw [decide_eq_true htask, bne_iff_ne.2 hst]
  rfl

/-- The end of a task that stands: the first cause is kept, its cores stop, and the event that ends its graph is due. -/
theorem killTask_eq {s : State} {tid cause : Nat} {k : Task} (hk : s.tasks.look tid = some k) : s.killTask tid cause =
    (stopAll { s with tasks := s.tasks.put tid (k.kill cause) } (taskCores s tid)).post .instanceComplete
      { Ev.zero with at_ := tid, x := 1 } := by
  simp only [State.killTask, hk, stopAll, taskCores, List.foldl_flatMap]

theorem kill_dead (k : Task) (cause : Nat) : (k.kill cause).dead = some (k.dead.getD cause) := by
  rcases h : k.dead with _ | d
  · simp only [Task.kill, h]
    rfl
  · simp only [Task.kill, h]
    rfl

theorem exceptionInSupervisor : ExceptionInSupervisor := by
  intro s c i r k hsup hk t
  have ht : t = (s.logFault r.cause r.cls c (s.ctxidOf c) r.eval).killTask (s.core c).task r.cause := by
    show s.takeTrap c i r = _
    simp [State.takeTrap, hsup]
  rw [killTask_eq (s := s.logFault r.cause r.cls c (s.ctxidOf c) r.eval) hk, stopAll_eq] at ht
  have hcores : ∀ n, t.core n = if n ∈ taskCores s (s.core c).task then (s.core n).stop else s.core n := fun n => by
    rw [ht]
    exact core_stopAll (taskCores s (s.core c).task) _ n
  refine ⟨by rw [ht]; rfl, ⟨k.kill r.cause, ?_, kill_dead k r.cause⟩, fun p hp htask hst n hn => ?_, by rw [ht]; rfl, by rw [ht]; rfl⟩
  · rw [ht]
    exact NMap.look_put_same s.tasks _ _
  · rw [hcores, if_pos (mem_taskCores hp htask hst hn)]
    exact ⟨rfl, rfl, stop_not_live _⟩

/-- Settles O44. -/
theorem exceptionResult : Obligations.ExceptionResult := ⟨exceptionEntry, exceptionInSupervisor⟩

end Sys2Proof.Proofs.Exceptions
end

section
/-! PROOFS. How the instructions that move tiles enter the lattice queue (R136, R313 to R317). -/

namespace Sys2Proof.Proofs.TileEntry

open Sys2Proof.Machine Sys2Proof.Spec Sys2Proof.Proofs.Sync Sys2Proof.Proofs.Operands Sys2Proof.Proofs.LatticeEntry

/-! ## Entering (R136, R150) -/

section
variable {s t : State} {m : M Unit} {e : LEntry}

/-- The whole of a lattice instruction that enters an entry once its checks have passed. -/
theorem lattice_enters (hskip : s.curCtx.sup = true ∨ s.curCtx.rgnskip.toNat ≤ s.curCtx.lcount) (ht : latticeOpen t)
    (hm : m s = enterLattice e t) : lattice m s = .next (entered t e) := by
  obtain ⟨-, hroom, hcut⟩ := ht
  exact (lattice_runs hskip).trans (runInstr_ok (hm.trans (enterLattice_enters e hroom hcut)))

theorem lattice_raises {c : Nat} {v : Word} (hskip : s.curCtx.sup = true ∨ s.curCtx.rgnskip.toNat ≤ s.curCtx.lcount)
    (hm : m s = .error (.trap c v 0 0) s) : lattice m s = .next (raised s c v) :=
  (lattice_runs hskip).trans (runInstr_raises hm)

end

/-- R103: what a write to an object leaves of the superstep's rollability. -/
def noted (s : State) (x : Ent) : State :=
  if x.rights.testBit rJ = true then s else s.modCurCore (fun k => { k with rollable := false })

theorem noteWrite_ok (s : State) (x : Ent) : noteWrite x s = .ok () (noted s x) := by
  rw [noteWrite, noted]
  split <;> rfl

/-! ## Tile movement (R313 to R317) -/

section
variable {s : State} {p : BitVec 5}

theorem enterFill_queues (i : Instr) (hpass : operandOk (s.x p) 0x3FFFFF 128) :
    enterFill i p s = enterLattice (LEntry.new i s.cur.2 (s.x p) 0 (s.maskOf (s.x p) 128)) s := by
  obtain ⟨hbits, hwin, hmask⟩ := hpass
  rw [enterFill, bind_get]
  rw [M.bind_ok (owBits_ok i (ok := okWindow ||| okMask) hbits), M.bind_ok (owWindow_ok i hwin), M.bind_ok (owMaskBase_ok i hmask)]

variable {q : BitVec 5} (hpass : operandOk (s.x p) 0xFFFF 128)
include hpass

theorem enterTileMove_queues (i : Instr) {hi : Nat} (hq : (s.x q).toNat < 2 ^ (hi + 1)) :
    enterTileMove i p q hi s = enterLattice (LEntry.new i s.cur.2 (s.x p) (s.x q) 0) s := by
  obtain ⟨hbits, hwin, -⟩ := hpass
  have hlow : ((s.x q).toNat / 2 ^ (hi + 1) != 0) = false := by
    rw [Nat.div_eq_of_lt hq]
    rfl
  rw [enterTileMove, bind_get]
  rw [M.bind_ok (owBits_ok i hbits), bind_trapIf_pass hlow, M.bind_ok (owWindow_ok i hwin)]

/-! ## `tld` and `tst` -/

omit hpass in
theorem owRows_eq : owRows (s.x p) = windowRows (s.x p) := rfl

theorem enterMove_local (i : Instr) (store : Bool) : enterMove i 0 p q store s = enterLattice
    { LEntry.new i s.cur.2 (s.x p) (s.x q) 0 with
      sat := s.curCtx.wctl.getLsbD 0, off := (s.x q).toInt.toNat % 0x40000, fmt := (s.x q).toInt.toNat / 0x40000,
      cbslot := s.curCtx.cbsel.toNat % 2 ^ 12, fault := localMove (s.x q).toInt (windowRows (s.x p)) store } s := by
  obtain ⟨hbits, hwin, -⟩ := hpass
  rw [enterMove, bind_get]
  rw [M.bind_ok (owBits_ok i hbits), M.bind_ok (owWindow_ok i hwin), if_pos rfl, Links.bits_bottom]
  rfl

section
variable {h : BitVec 4} (hh : h ≠ 0) (htables : tablesOpen s)
include hh htables

theorem enterMove_refused (i : Instr) {store : Bool} {b : Bad}
    (hr : (current s).checkMove ((current s).ctxidOf (current s).cur.1) ((current s).hreg h.toNat) (s.x q).toInt
      (fun f => windowRows (s.x p) * winBytes f) 8 store = .error b) :
    enterMove i h p q store s = enterLattice
      { LEntry.new i s.cur.2 (s.x p) (s.x q) 0 with sat := s.curCtx.wctl.getLsbD 0, fault := some (b.cause, b.eval) } (current s) := by
  obtain ⟨hbits, hwin, -⟩ := hpass
  rw [enterMove, bind_get]
  rw [M.bind_ok (owBits_ok i hbits), M.bind_ok (owWindow_ok i hwin), if_neg hh, M.bind_ok (tablesCurrent_ok htables), bind_get]
  simp only [owRows_eq, hr]
  rfl

/-- The entry of a move of the global object `o`, whose bytes lie at `a`. -/
def moveEntry (s t : State) (i : Instr) (p q : BitVec 5) (o : Ent) (a : Acc) : LEntry :=
  { LEntry.new i s.cur.2 (s.x p) (s.x q) 0 with
    sat := s.curCtx.wctl.getLsbD 0, index := o.index, base := o.base, off := a.off, leaf := o.leaf t.cur.1, homes := a.homes,
    cbslot := o.cbslot, fmt := o.fmt }

theorem enterMove_queues (i : Instr) {store : Bool} {o : Ent} {a : Acc} {u : State}
    (hr : (current s).checkMove ((current s).ctxidOf (current s).cur.1) ((current s).hreg h.toNat) (s.x q).toInt
      (fun f => windowRows (s.x p) * winBytes f) 8 store = .ok o)
    (hpages : checkPages o (s.x q).toInt.toNat ⟨[], windowRows (s.x p) * winBytes o.fmt, store, 8, false,
      if store then .write else .read⟩ (current s) = .ok a u) :
    enterMove i h p q store s =
      (enterLattice (moveEntry s (current s) i p q o a) >>= fun _ => if store then noteWrite o else pure ()) u := by
  obtain ⟨hbits, hwin, -⟩ := hpass
  rw [enterMove, bind_get]
  rw [M.bind_ok (owBits_ok i hbits), M.bind_ok (owWindow_ok i hwin), if_neg hh, M.bind_ok (tablesCurrent_ok htables), bind_get]
  simp only [owRows_eq, hr]
  rw [M.bind_ok hpages]
  rfl

end
end

/-- R167, R314: a window of `tld` or `tst` that lies in local memory, before the frames for a store, and is aligned has no cause. -/
theorem localMove_none {off : Int} {rows : Nat} {store : Bool} (hlo : 0 ≤ off) (hhi : off < 0x200000) (halign : off % 8 = 0)
    (hfits : off % 0x40000 + rows * winBytes (off.toNat / 0x40000) ≤ (if store = true then 0x3F400 else 0x40000))
    (hwin : store = true → off.toNat / 0x40000 ≠ 5) : localMove off rows store = none := by
  have hin : (decide (off < 0) || decide (0x200000 ≤ off)) = false := by
    rw [decide_eq_false (not_lt.2 hlo), decide_eq_false (not_le.2 hhi)]
    rfl
  have hmod : off.toNat % 8 = 0 := by omega
  have hplace : off.toNat % 0x40000 + rows * winBytes (off.toNat / 0x40000) ≤ (if store = true then 0x3F400 else 0x40000) := by
    zify
    rw [Int.toNat_of_nonneg hlo]
    exact_mod_cast hfits
  simp only [localMove, hin, hmod]
  cases store
  · simp only [Bool.false_eq_true, if_false] at hplace
    simp [Nat.not_lt.2 hplace]
  · simp only [if_true] at hplace
    simp [Nat.not_lt.2 hplace, frameBase, hwin rfl, Nat.not_lt.2 (hplace.trans (by decide : 0x3F400 ≤ 0x40000))]

theorem exec_move {i : Instr} {d : BitVec 3} {h : BitVec 4} {p q : BitVec 5} {store : Bool}
    (hi : i = if store then .tst d h p q else .tld d h p q) (s : State) : exec i s = lattice (enterMove i h p q store) s := by
  cases store <;> subst hi <;> rfl

/-- Settles O45. -/
theorem movementEntry : Obligations.MovementEntry := by
  refine ⟨?_, ?_, ?_, ?_⟩
  · intro s d p hopen hpass
    exact ⟨lattice_enters hopen.1 hopen (enterFill_queues _ hpass), lattice_enters hopen.1 hopen (enterFill_queues _ hpass)⟩
  · intro s d p q hopen hpass e
    exact ⟨fun hq => ⟨lattice_enters hopen.1 hopen (enterTileMove_queues hpass _ hq),
        lattice_enters hopen.1 hopen (enterTileMove_queues hpass _ hq)⟩,
      fun hq => lattice_enters hopen.1 hopen (enterTileMove_queues hpass _ hq)⟩
  · intro s i d p q store hi hopen hpass off rows e
    exact ⟨(exec_move hi s).trans (lattice_enters hopen.1 hopen (enterMove_local hpass i store)), localMove_none⟩
  · intro s i d h p q store hh hi htables hopen hpass hskip t off rows e r
    have hrun := (exec_move hi s).trans (lattice_runs hskip)
    obtain ⟨-, hroom, hcut⟩ := hopen
    refine ⟨fun b hr => hrun.trans (runInstr_ok ((enterMove_refused hpass hh htables i hr).trans
      (enterLattice_enters _ hroom hcut))), ?_⟩
    intro o a u hr hpages hu z
    obtain ⟨-, huroom, hucut⟩ := hu
    refine hrun.trans (runInstr_ok ((enterMove_queues hpass hh htables i hr hpages).trans
      ((M.bind_ok (enterLattice_enters _ huroom hucut)).trans ?_)))
    cases store
    · rfl
    · rw [if_pos rfl, noteWrite_ok, noted]
      cases o.rights.testBit rJ <;> rfl

end Sys2Proof.Proofs.TileEntry
end

section
/-! PROOFS. Loads, stores and nibbles of global objects that pass their check (R166, R249 to R253, R255). -/

namespace Sys2Proof.Proofs.GlobalTransfer

open Sys2Proof.Machine Sys2Proof.Spec Sys2Proof.Proofs.Sync Sys2Proof.Proofs.Operands Sys2Proof.Proofs.LocalAccess
  Sys2Proof.Proofs.GlobalAccess Sys2Proof.Proofs.TileEntry

/-! ## A check that passes, taken apart (R166) -/

/-- A sequence that ends well has a first part that ended well. -/
theorem bind_ok_inv {α β : Type} {m : M α} {f : α → M β} {s u : State} {b : β} (h : (m >>= f) s = .ok b u) :
    ∃ a t, m s = .ok a t ∧ f a t = .ok b u := by
  change EStateM.bind m f s = _ at h
  unfold EStateM.bind at h
  split at h
  · next a t hm => exact ⟨a, t, hm, h⟩
  · cases h

section
variable {s u : State} {acc : Acc} {off : Int} {n : Need}

theorem checkPages_acc {e : Ent} {o : Nat} (h : checkPages e o n s = .ok acc u) : acc.ent = e ∧ acc.off = o := by
  rw [checkPages, bind_get] at h
  obtain ⟨-, t, -, h⟩ := bind_ok_inv h
  rw [bind_get] at h
  generalize translateAll _ _ _ _ _ _ _ _ = r at h
  obtain ⟨b | homes, v⟩ := r
  · cases h
  · cases h
    exact ⟨rfl, rfl⟩

/-- A check that passes is that of the entry and that of its pages. -/
theorem checkHandle_steps {hd : Handle} (h : checkHandle hd off n s = .ok acc u) :
    acc.off = off.toNat ∧ ∃ t, checkEntry hd off n s = .ok acc.ent t ∧ checkPages acc.ent off.toNat n t = .ok acc u := by
  obtain ⟨e, t, hent, hpages⟩ := bind_ok_inv h
  obtain ⟨rfl, hoff⟩ := checkPages_acc hpages
  exact ⟨hoff, t, hent, hpages⟩

end

/-! ## Loads -/

section
variable {s u : State} {a : Acc} {n : Nat}

theorem loadAccess_plain {hd : Handle} {off : Int} (hcheck : checkHandle hd off (loadNeed n) s = .ok a u) (hfmt : a.ent.fmt = 0) :
    loadAccess hd off n s = .ok a u := by
  obtain ⟨-, t, hent, hpages⟩ := checkHandle_steps hcheck
  rw [loadAccess, M.bind_ok hent, if_neg (by rw [hfmt]; decide), M.bind_ok hpages, bind_trapIf_pass (by rw [hfmt]; rfl)]
  rfl

theorem dropSpoiled_starts (h : starts s) : dropSpoiled s = .ok () s := by
  rw [dropSpoiled, bind_get]
  rcases hw : s.curCtx.wait with _ | w
  · cases s.curCtx.noFill <;> rfl
  · cases w with
    | remote g => exact absurd hw (h g)
    | _ => cases s.curCtx.noFill <;> rfl

theorem pathOpen_ok {ctxid leaf : Nat} (h : s.reshaping ctxid (s.path ctxid leaf) = none) : pathOpen ctxid leaf s = .ok () s := by
  rw [pathOpen, bind_get]
  simp only [h]
  rfl

theorem lineCurrent_ok {la : Nat} (h : s.curCore.wq.any (fun q => q.oaddr / 128 == la) = false) : lineCurrent la s = .ok () s := by
  rw [lineCurrent, bind_get, if_neg (Bool.eq_false_iff.1 h)]
  rfl

/-- Whether the line of an access must come from its home. -/
abbrev comesFromHome (s : State) (a : Acc) (n : Nat) : Bool :=
  (findLine s.curCore.l1 ((a.ent.base + a.off) / 128)).isNone &&
    s.reachesHome (s.ctxidOf s.cur.1) ((a.ent.base + a.off) / 128) (byteMask ((a.ent.base + a.off) % 128) n)
      (s.path (s.ctxidOf s.cur.1) (s.accLeaf a.ent))

variable (hs : starts s) (hshape : s.reshaping (s.ctxidOf s.cur.1) (s.path (s.ctxidOf s.cur.1) (s.accLeaf a.ent)) = none)
  (hwq : s.curCore.wq.any (fun q => q.oaddr / 128 == (a.ent.base + a.off) / 128) = false)
  (hnear : ∀ v x y p q, a.homeAt 0 ≠ .peer v x y p q)
include hs hshape hwq hnear

/-- A load of an object that is not another device's reads its line at once. -/
theorem loadGlobal_near : loadGlobal a n s = (if s.hostDenies (a.homeAt 0) && comesFromHome s a n then hostAbort else do
      let (l, t) := s.l1Line s.cur.1 (s.ctxidOf s.cur.1) (s.accLeaf a.ent) ((a.ent.base + a.off) / 128)
        ((a.homeAt 0).lineOf ((a.ent.base + a.off) % 128)) none (byteMask ((a.ent.base + a.off) % 128) n)
      set t
      if lineBad l.poison ((a.ent.base + a.off) % 128) n then trap Cause.uncorrData (hEval a.ent.index a.off)
      else pure (leNat ((l.data.drop ((a.ent.base + a.off) % 128)).take n)) : M Nat) s := by
  rw [loadGlobal, M.bind_ok (dropSpoiled_starts hs), bind_get, M.bind_ok (pendingTag_starts hs)]
  simp only [Option.isNone_none, if_true]
  rw [M.bind_ok (pathOpen_ok hshape), M.bind_ok (lineCurrent_ok hwq), bind_get]
  generalize a.homeAt 0 = home at hnear ⊢
  cases home with
  | peer v x y p q => exact absurd rfl (hnear v x y p q)
  | _ => rfl

theorem loadGlobal_reads {l : CLine} {w : State} (hgranted : (s.hostDenies (a.homeAt 0) && comesFromHome s a n) = false)
    (hline : s.l1Line s.cur.1 (s.ctxidOf s.cur.1) (s.accLeaf a.ent) ((a.ent.base + a.off) / 128)
      ((a.homeAt 0).lineOf ((a.ent.base + a.off) % 128)) none (byteMask ((a.ent.base + a.off) % 128) n) = (l, w))
    (hclean : lineBad l.poison ((a.ent.base + a.off) % 128) n = false) :
    loadGlobal a n s = .ok (leNat ((l.data.drop ((a.ent.base + a.off) % 128)).take n)) w := by
  rw [loadGlobal_near hs hshape hwq hnear, if_neg (Bool.eq_false_iff.1 hgranted), hline]
  simp only
  rw [bind_set, if_neg (Bool.eq_false_iff.1 hclean)]
  rfl

theorem loadGlobal_aborts (hdenied : (s.hostDenies (a.homeAt 0) && comesFromHome s a n) = true) :
    loadGlobal a n s = .error (.trap Cause.remoteFail s.abortEval.1 0 0) s.abortEval.2 := by
  rw [loadGlobal_near hs hshape hwq hnear, if_pos hdenied]
  rfl

end

/-- Settles O18. -/
theorem globalLoadResult : Obligations.GlobalLoadResult := by
  intro s u w i d a h o n ext acc l hi hh hs hu hcheck hfmt c ctxid leaf la k hshape hwq hnear far
  have hload : loadBytes h (effective s a o n) n s = loadGlobal acc n u := by
    rw [loadBytes_checks hh, M.bind_ok ((checked_starts hs _).trans (loadAccess_plain hcheck hfmt)), loadChecked,
      if_neg (by rw [hfmt]; decide)]
  exact ⟨fun hgranted hline hclean => load_takes hi (hload.trans (loadGlobal_reads hu hshape hwq hnear hgranted hline hclean)),
    fun hdenied => load_traps hi (hload.trans (loadGlobal_aborts hu hshape hwq hnear hdenied))⟩

/-! ## Stores (R252) -/

/-- The write queue of the core that issues with one more entry. -/
def queued (s : State) (w : WqEntry) : State := s.modCurCore (fun k => { k with wq := k.wq ++ [w] })

/-- The entry that an access puts in the write queue. -/
abbrev wqEntry (s : State) (a : Acc) (kind : WqKind) (bs : List Byte) : WqEntry :=
  ⟨s.cur.2, kind, a.ent.index, a.off, a.ent.base + a.off, a.homeAt 0, a.ent.leaf s.cur.1, bs, s.curCtx.sup⟩

section
variable {s : State} {a : Acc} {kind : WqKind} {bs : List Byte}

theorem exclusion_ok (h : s.wxBad (a.homeAt 0) bs = false) : exclusion a bs s = .ok () s := by
  rw [exclusion, bind_get]
  exact trapIf_pass h

theorem enqueue_ok (h : s.curCore.wq.length < 16) : enqueue a kind bs s = .ok () (queued s (wqEntry s a kind bs)) := by
  rw [enqueue, bind_get, bind_waitIf_pass (decide_eq_false (Nat.not_le.2 h))]
  rfl

theorem enqueue_waits (h : 16 ≤ s.curCore.wq.length) : enqueue a kind bs s = .error (.wait .writeRoom) s := by
  rw [enqueue, bind_get]
  exact M.bind_error (waitIf_waits (decide_eq_true h))

/-- The end of a store: the entry, the note of R103, and the next instruction. -/
theorem enqueue_retires {e : Ent} (h : s.curCore.wq.length < 16) :
    (do enqueue a kind bs; noteWrite e; retire : M Unit) s = .ok () (noted (queued s (wqEntry s a kind bs)) e).retire := by
  rw [M.bind_ok (enqueue_ok h), M.bind_ok (noteWrite_ok _ _), retire_ok]

end

section
variable {s u : State} {acc : Acc} {h : BitVec 4} {off : Int} {n : Nat} (hh : h ≠ 0)
include hh

theorem storeBytes_enqueues {w : Instr} {v : Word} (hcheck : checkHandle (s.hreg h.toNat) off (storeNeed n) s = .ok acc u)
    (hfmt : acc.ent.fmt = 0) (hwx : u.wxBad (acc.homeAt 0) (leBytes n v.toNat) = false) :
    storeBytes w h off n v s = (do enqueue acc .store (leBytes n v.toNat); noteWrite acc.ent; retire : M Unit) u := by
  obtain ⟨-, t, hent, hpages⟩ := checkHandle_steps hcheck
  rw [storeBytes, if_neg hh, bind_get]
  refine (M.bind_ok hent).trans ?_
  rw [if_neg (by rw [hfmt]; decide)]
  refine (M.bind_ok hpages).trans ?_
  rw [bind_trapIf_pass (by rw [hfmt]; rfl), M.bind_ok (exclusion_ok hwx)]

theorem storeNibble_enqueues {e : Int} {v : Nat} (hcheck : checkHandle (s.hreg h.toNat) (e / 2) (storeNeed 1) s = .ok acc u)
    (hfmt : acc.ent.fmt = 0 ∨ acc.ent.fmt = 5)
    (hwx : u.wxBad (acc.homeAt 0)
      [BitVec.ofNat 8 (putNibble ((u.homeRead (acc.homeAt 0) 1).1.getD 0 0).toNat (e % 2 == 1) v)] = false) :
    storeNibble h e v s = (do enqueue acc (.nib (e % 2 == 1) v) []; noteWrite acc.ent; retire : M Unit) u := by
  obtain ⟨-, t, hent, hpages⟩ := checkHandle_steps hcheck
  have hplain : (acc.ent.fmt != 0 && acc.ent.fmt != 5) = false := by
    obtain hf | hf := hfmt <;> rw [hf] <;> rfl
  rw [storeNibble, if_neg hh, bind_get]
  refine (M.bind_ok hent).trans ?_
  rw [if_neg (by obtain hf | hf := hfmt <;> rw [hf] <;> decide)]
  refine (M.bind_ok hpages).trans ?_
  rw [bind_trapIf_pass hplain, bind_get, M.bind_ok (exclusion_ok hwx)]

end

/-- Settles O19. -/
theorem globalStoreResult : Obligations.GlobalStoreResult := by
  intro s u i d a h o n acc hi hh hcheck hfmt bytes entry hwx v t
  have hstore := storeBytes_enqueues (w := i) hh hcheck hfmt hwx
  refine ⟨fun hroom => ⟨store_ends hi (hstore.trans (enqueue_retires hroom)), ?_⟩,
    fun hfull => (exec_of_storeForm hi s).trans (runInstr_wait (hstore.trans (M.bind_error (enqueue_waits hfull))))⟩
  cases hJ : acc.ent.rights.testBit rJ <;> simp [t, hJ, v]

/-! ## `stn` (R255) -/

theorem putNibble_eq (old v : Nat) (e : Int) :
    putNibble old (e % 2 == 1) v = if e % 2 = 1 then v * 16 + old % 16 else old / 16 * 16 + v := by
  simp only [putNibble, beq_iff_eq]

section
variable {s : State} {d a : BitVec 5} {o : BitVec 9}

theorem storeNibble_local {e : Int} {v : Nat} (h : nibbleCheck (e / 2) = .ok ()) :
    storeNibble 0 e v s = .ok () (s.localWrite s.cur.1 ((e / 2).toNat % 0x40000)
      [BitVec.ofNat 8 (putNibble ((s.localRead s.cur.1 ((e / 2).toNat % 0x40000) 1).getD 0 0).toNat (e % 2 == 1) v)]).retire := by
  rw [storeNibble, if_pos rfl, M.bind_ok (ofCheck_ok h), bind_modify, retire_ok]

theorem storeNibble_refused {e : Int} {v : Nat} {b : Bad} (h : nibbleCheck (e / 2) = .error b) :
    storeNibble 0 e v s = .error (.trap b.cause b.eval 0 b.preason) s := by
  rw [storeNibble, if_pos rfl]
  exact M.bind_error (ofCheck_error h)

/-- Below the event window only the window decides. -/
theorem nibbleCheck_window {b : Int} (hlo : 0 ≤ b) (hhi : b < 0x200000) : nibbleCheck b =
    if b.toNat / 0x40000 = 0 || b.toNat / 0x40000 = 5 then .ok () else .error (Bad.of Cause.windowScalar (word (b % 2 ^ 48).toNat)) := by
  have hin : ¬ ((b < 0 || 0x201000 < b + 1) = true) := by
    simp only [Bool.or_eq_true, decide_eq_true_eq]
    omega
  rw [nibbleCheck, if_neg hin, if_neg (by omega), hEval_off48]

theorem exec_stn (h : BitVec 4) :
    exec (.stn d a h o) s = runInstr (storeNibble h (effective s a o 1) ((s.x d).toNat % 16)) s := by
  show runInstr (storeNibble h _ (bits (s.x d) 3 0)) s = _
  rw [Links.bits_bottom]
  rfl

end

/-- Settles O20. -/
theorem nibbleStoreResult : Obligations.NibbleStoreResult := by
  refine ⟨fun s d a o => ?_, fun s u d a h o acc hh => ?_⟩
  · intro e b p old v new
    refine ⟨fun hlo hwin => ?_, fun hwin => ?_⟩
    · have hcheck : nibbleCheck b = .ok () := by
        rw [nibbleCheck_window hlo (by omega), if_pos]
        simp only [Bool.or_eq_true, decide_eq_true_eq]
        omega
      rw [show new = putNibble old (e % 2 == 1) v from (putNibble_eq old v e).symm]
      exact (exec_stn 0).trans (runInstr_ok (storeNibble_local hcheck))
    · have hcheck : nibbleCheck b = .error (Bad.of Cause.windowScalar (word (b % 2 ^ 48).toNat)) := by
        rw [nibbleCheck_window (by omega) (by omega), if_neg]
        simp only [Bool.or_eq_true, decide_eq_true_eq]
        omega
      exact (exec_stn 0).trans (runInstr_raises (storeNibble_refused hcheck))
  · intro e v hcheck hfmt old hwx hroom entry t
    rw [← putNibble_eq] at hwx
    exact (exec_stn h).trans (runInstr_ok ((storeNibble_enqueues hh hcheck hfmt hwx).trans (enqueue_retires hroom)))

end Sys2Proof.Proofs.GlobalTransfer
end

section
/-! PROOFS. Atomics and reductions that pass their checks (R183, R262 to R266, R363). -/

namespace Sys2Proof.Proofs.Atomics

open Sys2Proof.Machine Sys2Proof.Spec Sys2Proof.Proofs.Sync Sys2Proof.Proofs.Operands Sys2Proof.Proofs.LocalAccess
  Sys2Proof.Proofs.GlobalAccess Sys2Proof.Proofs.GlobalTransfer

/-! ## The operation at home (R262, R363) -/

theorem atomNew_eq_combine {m n : Nat} (hn : n = 4 ∨ n = 8) (hm : m ≤ 9 ∨ (m = 20 ∧ n = 4)) (old b expect : Nat) :
    atomNew m n old b expect = combine m n old b expect := by
  have hpos : 0 < 8 * n := by omega
  obtain hm | ⟨rfl, rfl⟩ := hm
  · rw [atomNew, if_neg (by omega)]
    interval_cases m <;> simp only [amoNew, combine, sextN_toInt hpos]
  · rfl

/-- Settles O24. -/
theorem atomicAtHome : Obligations.AtomicAtHome := by
  intro s c ctxid key m n ord b expect scope a hhome hn _ _ hm hservice hclean hsync hwx old t
  have hread : s.homeRead (.mem key) n = (s.mem.getRange key n, false) := by
    rw [State.homeRead, if_pos hservice, hclean]
  have hold : leNat (s.mem.getRange key n) = old := rfl
  have hnew := atomNew_eq_combine hn hm old b expect
  rw [State.atomHome]
  simp only [hhome, hread, Home.syncLine, hold, hnew, Bool.false_eq_true, if_false, hwx]
  rcases hr : s.sync.look (4 * (key / 128)) with _ | r
  · cases hc : combine m n old b expect <;> simp only [t, hc] <;> rfl
  · have hkept : ¬ ((ord = 1 ∨ ord = 3) ∧ ¬ s.includes c ctxid a.ent scope r = true) := fun h => h.2 (hsync h.1 r hr)
    simp only [if_neg hkept]
    cases hc : combine m n old b expect <;> simp only [t, hc] <;> rfl

/-! ## The checks that pass (R262) -/

section
variable {s u : State} {acc : Acc} {h : BitVec 4} {off : Int} {n : Nat}

theorem atomicAccess_ok (hh : h ≠ 0) (hs : starts s) (hcheck : checkHandle (s.hreg h.toNat) off (atomNeed n) s = .ok acc u)
    (hfmt : acc.ent.fmt = 0) {ordered : Bool}
    (hscope : ordered = true → u.scopeCheck (u.ctxidOf u.cur.1) (acc.ent.leaf u.cur.1) (u.curCtx.scope.toNat % 256) = .ok ()) :
    atomicAccess h off n ordered s = .ok acc u := by
  rw [atomicAccess, bind_get, if_neg hh]
  refine (checked_starts hs _).trans ((M.bind_ok hcheck).trans ?_)
  rw [bind_trapIf_pass (by rw [hfmt]; rfl), bind_get]
  cases ordered
  · rfl
  · rw [if_pos rfl, Links.bits_bottom]
    exact M.bind_ok (ofCheck_ok (hscope rfl))

theorem acquireOpen_ok {scope : Nat} (h : acquirable s scope) : acquireOpen scope s = .ok () s := by
  rw [acquireOpen, bind_get]
  simp only [acquirable] at h
  simp only [h]
  rfl

/-! ## Releases and acquires that the ordering asks for (R263) -/

section
variable {on : Prop} [Decidable on] {scope : Nat} {k : Unit → M Unit}

theorem releaseIf_ok (h : on → settled s scope) :
    (if on then releaseAt scope >>= k else k ()) s = k () (releasedIf s on scope) := by
  by_cases hon : on
  · rw [if_pos hon, releasedIf, if_pos hon, M.bind_ok (releaseAt_ok (h hon))]
  · rw [if_neg hon, releasedIf, if_neg hon]

theorem acquireIf_ok (h : on → acquirable s scope) :
    (if on then acquireAt scope >>= k else k ()) s = k () (acquiredIf s on scope) := by
  by_cases hon : on
  · rw [if_pos hon, acquiredIf, if_pos hon, M.bind_ok (acquireAt_ok (h hon))]
  · rw [if_neg hon, acquiredIf, if_neg hon]

theorem acquireOpenIf_ok (h : on → acquirable s scope) : (if on then acquireOpen scope >>= k else k ()) s = k () s := by
  by_cases hon : on
  · rw [if_pos hon, M.bind_ok (acquireOpen_ok (h hon))]
  · rw [if_neg hon]

end

end

/-! ## Reductions (R265) -/

theorem exec_of_redForm {i : Instr} {a b : BitVec 5} {h : BitVec 4} {rel : Bool} {m n : Nat}
    (hi : redForm i = some (a, b, h, rel, m, n)) (s : State) : exec i s = reduction a b h rel m n s := by
  unfold redForm at hi
  split at hi <;> cases hi <;> rfl

/-- Settles O27. -/
theorem reductionResult : Obligations.ReductionResult := by
  intro s u i a b h rel m n acc hi hh hblock hs hcheck hfmt scope hscope hsettled v operand hwx hroom entry
  refine (exec_of_redForm hi s).trans (runInstr_ok ?_)
  rw [M.bind_ok (endBlock_ok hblock), M.bind_ok (atomicAccess_ok hh hs hcheck hfmt hscope), bind_get, Links.bits_bottom]
  exact (releaseIf_ok hsettled).trans ((bind_get _ _).trans ((M.bind_ok (exclusion_ok hwx)).trans
    ((M.bind_ok (enqueue_ok hroom)).trans (commitInstr_ok _ _))))

/-! ## Atomics (R262 to R264) -/

theorem atomOld_eq (m n old : Nat) : atomOld m n old = oldValue m n old := by
  rw [atomOld, oldValue, show wordOfInt (sextN 32 old) = (BitVec.ofNat 32 old).signExtend 64 from
    congrFun (extS_signExtend (by decide : 0 < 32)) old]
  rfl

/-- What a home of another device asks for, and what one of this device or the host does. -/
def byHome (home : Home) (far : Nat → Nat → Nat → Nat → Nat → M Unit) (near : Home → M Unit) : M Unit :=
  match home with
  | .peer dev rctx rhnd page off => far dev rctx rhnd page off
  | home => near home

theorem byHome_near {home : Home} (h : ∀ v x y p q, home ≠ .peer v x y p q) (far : Nat → Nat → Nat → Nat → Nat → M Unit)
    (near : Home → M Unit) : byHome home far near = near home := by
  cases home with
  | peer v x y p q => exact absurd rfl (h v x y p q)
  | _ => rfl

/-- An atomic at a home of this device or in host memory, after its checks in state `u`; `s` is the state that it was issued in. -/
def atomicNear (d b : BitVec 5) (ord m n : Nat) (s u : State) (acc : Acc) (home : Home) : M Unit := do
  let c := u.cur.1
  let ctxid := u.ctxidOf c
  let scope := bits u.curCtx.scope 7 0
  let leaf := u.accLeaf acc.ent
  let la := (acc.ent.base + acc.off) / 128
  if u.hostDenies home then hostAbort else pure ()
  pathOpen ctxid leaf
  lineCurrent la
  if ord = 1 ∨ ord = 3 then acquireOpen scope else pure ()
  if ord = 2 ∨ ord = 3 then releaseAt scope else pure ()
  let v ← get
  let v := ((v.snoop ctxid c la).coloured c ctxid leaf la (fun s => s.pathClean c ctxid leaf la)).countOwn c (acc.homeAt 0)
  let r ← ofCheck (({ v with colour := some (parity (v.core c).snapGen) } : State).atomHome c ctxid acc m n ord
    ((s.x b).toNat % 2 ^ (8 * n)) ((s.x d).toNat % 2 ^ (8 * n)) scope)
  set { r.2 with colour := none }
  if ord = 1 ∨ ord = 3 then acquireAt scope else pure ()
  writeX d (atomOld m n r.1)
  commitInstr (acc.ent.rights.testBit rJ)

theorem exec_of_amoForm {i : Instr} {d a b : BitVec 5} {h : BitVec 4} {ord m n : Nat}
    (hi : amoForm i = some (d, a, b, h, ord, m, n)) (s : State) :
    ∃ far : State → Acc → Nat → Nat → Nat → Nat → Nat → M Unit, exec i s = runInstr (do
      endBlock
      let acc ← atomicAccess h (s.x a).toInt n (ord != 0)
      let u ← get
      byHome (acc.homeAt 0) (far u acc) (atomicNear d b ord m n s u acc)) s := by
  unfold amoForm at hi
  split at hi <;> cases hi <;> exact ⟨_, rfl⟩

section
variable {s u w : State} {d b : BitVec 5} {ord m n old : Nat} {acc : Acc}

/-- The state in which an atomic is performed: after its release the line has left the path of the core (R178, R183). -/
def lineAway (u : State) (acc : Acc) (ord scope : Nat) : State :=
  let c := u.cur.1
  let la := (acc.ent.base + acc.off) / 128
  (((releasedIf u (ord = 2 ∨ ord = 3) scope).snoop (u.ctxidOf c) c la).coloured c (u.ctxidOf c) (u.accLeaf acc.ent) la
    (fun s => s.pathClean c (u.ctxidOf c) (u.accLeaf acc.ent) la)).countOwn c (acc.homeAt 0)

theorem atomicNear_ends (hgranted : u.hostDenies (acc.homeAt 0) = false)
    (hacq : (ord = 1 ∨ ord = 3) → acquirable u (u.curCtx.scope.toNat % 256))
    (hshape : u.reshaping (u.ctxidOf u.cur.1) (u.path (u.ctxidOf u.cur.1) (u.accLeaf acc.ent)) = none)
    (hwq : u.curCore.wq.any (fun q => q.oaddr / 128 == (acc.ent.base + acc.off) / 128) = false)
    (hsettled : (ord = 2 ∨ ord = 3) → settled u (u.curCtx.scope.toNat % 256))
    (hperform : ({ lineAway u acc ord (u.curCtx.scope.toNat % 256) with
        colour := some (parity ((lineAway u acc ord (u.curCtx.scope.toNat % 256)).core u.cur.1).snapGen) } : State).atomHome
      u.cur.1 (u.ctxidOf u.cur.1) acc m n ord ((s.x b).toNat % 2 ^ (8 * n)) ((s.x d).toNat % 2 ^ (8 * n))
      (u.curCtx.scope.toNat % 256) = .ok (old, w))
    (hacq' : (ord = 1 ∨ ord = 3) → acquirable { w with colour := none } (u.curCtx.scope.toNat % 256)) :
    atomicNear d b ord m n s u acc (acc.homeAt 0) u = .ok () (committed
      ((acquiredIf { w with colour := none } (ord = 1 ∨ ord = 3) (u.curCtx.scope.toNat % 256)).setX d (oldValue m n old))
      (acc.ent.rights.testBit rJ)) := by
  rw [atomicNear, hgranted, Links.bits_bottom, ← atomOld_eq]
  refine (M.bind_ok (pathOpen_ok hshape)).trans ((M.bind_ok (lineCurrent_ok hwq)).trans ((acquireOpenIf_ok hacq).trans
    ((releaseIf_ok hsettled).trans ((bind_get _ _).trans ((M.bind_ok (ofCheck_ok hperform)).trans ((bind_set _ _ _).trans ?_))))))
  exact (acquireIf_ok hacq').trans ((M.bind_ok (writeX_ok _ _ _)).trans (commitInstr_ok _ _))

end

/-- Settles O25. -/
theorem atomicResult : Obligations.AtomicResult := by
  intro s u w i d a b h ord m n old acc hi hh hblock hs hcheck hfmt hnear hgranted c ctxid scope leaf la hscope hacq hshape hwq
    hsettled v hperform z hacq'
  obtain ⟨far, hexec⟩ := exec_of_amoForm hi s
  refine hexec.trans (runInstr_ok ?_)
  rw [M.bind_ok (endBlock_ok hblock), M.bind_ok (atomicAccess_ok hh hs hcheck hfmt fun h => hscope (bne_iff_ne.1 h)), bind_get,
    byHome_near hnear]
  exact atomicNear_ends hgranted hacq hshape hwq hsettled hperform hacq'

end Sys2Proof.Proofs.Atomics
end

section
/-! PROOFS. Handle registers, sub-objects, allocation and freeing (R55, R56, R93, R247, R256 to R260). -/

namespace Sys2Proof.Proofs.Objects

open Sys2Proof.Machine Sys2Proof.Spec Sys2Proof.Proofs.Sync Sys2Proof.Proofs.Operands Sys2Proof.Proofs.LocalAccess
  Sys2Proof.Proofs.Checks

/-! ## Tables and entries -/

theorem names_live {t : State} {h : Handle} {e : Ent} (hn : names t h e) (low : Nat) :
    t.checkLive (t.ctxidOf t.cur.1) h low = .ok e := by
  obtain ⟨hkept, hlive, hgen⟩ := hn
  exact checkLive_live hkept hlive hgen

theorem free_iff (e : Ent) : e.free = true ↔ e.len = 0 := beq_iff_eq

theorem free_false {e : Ent} (h : e.len ≠ 0) : e.free = false := beq_eq_false_iff_ne.2 h

theorem hword_index (w : Word) : (hword w).index = w.toNat % 65536 := Links.bits_bottom w 15

theorem detEval_zero (index : Nat) : detEval index 0 = word (index * 2 ^ 48) := by rw [detEval, Nat.zero_mul, Nat.add_zero]

/-- A handle word in form: an index that is not 0 and no bit above GV (R247). -/
theorem wordEnt_ok {t : State} {ctxid : Nat} {w : Word} {e : Ent} (hform : w.toNat / 2 ^ 33 = 0) (hindex : w.toNat % 65536 ≠ 0)
    (he : t.ent ctxid (w.toNat % 65536) = some e) : t.wordEnt ctxid (hword w) = .ok e := by
  have hrsv : (hword w).rsv = false := by
    show (bits w 63 33 != 0) = false
    rw [Links.bits_top w (by decide), hform]
    rfl
  simp only [State.wordEnt, hrsv, hword_index, beq_eq_false_iff_ne.2 hindex, Bool.or_self, Bool.false_eq_true, if_false, he]

/-- A handle word with GV set names one generation. -/
theorem staleWord_iff (w : Word) (gen : Nat) : ((hword w).gv && (hword w).gen != gen) = true ↔
    w.getLsbD 32 = true ∧ w.toNat / 65536 % 65536 ≠ gen := by
  rw [Bool.and_eq_true, bne_iff_ne]
  rfl

/-! ## `hset`, `hget`, `hinfo` and `hlen` (R256, R257) -/

section
variable {s : State} {d a : BitVec 5} {e : Ent} (htables : tablesOpen s) (hform : (s.x a).toNat / 2 ^ 33 = 0)
  (hindex : (s.x a).toNat % 65536 ≠ 0)
  (he : (current s).ent ((current s).ctxidOf (current s).cur.1) ((s.x a).toNat % 65536) = some e) (hused : e.len ≠ 0)
include hform hindex he hused

theorem hsetOf_names : (current s).hsetOf ((current s).ctxidOf (current s).cur.1) (hword (s.x a)) =
    if (s.x a).getLsbD 32 = true ∧ (s.x a).toNat / 65536 % 65536 ≠ e.gen then
      .error (Bad.of Cause.hStale (word ((s.x a).toNat % 65536 * 2 ^ 48)))
    else .ok ⟨BitVec.ofNat 16 ((s.x a).toNat % 65536), BitVec.ofNat 16 e.gen⟩ := by
  simp only [State.hsetOf, wordEnt_ok hform hindex he, free_false hused, Bool.false_eq_true, if_false, staleWord_iff, hword_index,
    detEval_zero]

include htables

theorem hset_loads (hgen : (s.x a).getLsbD 32 = true → (s.x a).toNat / 65536 % 65536 = e.gen) : Answers (.hset d a) s
    ((current s).setH d.toNat ⟨BitVec.ofNat 16 ((s.x a).toNat % 65536), BitVec.ofNat 16 e.gen⟩).retire := by
  refine runInstr_ok ((M.bind_ok (tablesCurrent_ok htables)).trans ((bind_get _ _).trans ((M.bind_ok (ofCheck_ok ?_)).trans rfl)))
  rw [hsetOf_names hform hindex he hused, if_neg fun h => h.2 (hgen h.1)]

theorem hset_stale (hgv : (s.x a).getLsbD 32 = true) (hgen : (s.x a).toNat / 65536 % 65536 ≠ e.gen) :
    Answers (.hset d a) s (raised (current s) Cause.hStale (word ((s.x a).toNat % 65536 * 2 ^ 48))) := by
  have hstale := (hsetOf_names hform hindex he hused).trans (if_pos ⟨hgv, hgen⟩)
  exact runInstr_trap ((M.bind_ok (tablesCurrent_ok htables)).trans ((bind_get _ _).trans (M.bind_error (ofCheck_error hstale))))

end

/-- `hinfo` and `hlen` of a valid handle register take the value of its entry. -/
theorem ofEntry_takes {s : State} {d a : BitVec 5} {local_ : Word} {f : State → Ent → Word} {e : Ent} (ha : a ≠ 0)
    (htables : tablesOpen s) (hn : names (current s) ((current s).hreg a.toNat) e) :
    ofEntry d a local_ f s = .next ((current s).setX d (f (current s) e)).retire := by
  refine runInstr_ok ?_
  rw [if_neg ha]
  exact (M.bind_ok (tablesCurrent_ok htables)).trans ((bind_get _ _).trans ((M.bind_ok (ofCheck_ok (names_live hn 0))).trans rfl))

/-- Settles O28. -/
theorem handleRegisterResult : Obligations.HandleRegisterResult := by
  refine ⟨?set, fun s d a => rfl, ?entry, fun s d => ⟨rfl, rfl⟩⟩
  case set =>
    intro s d a e t w index gen gv htables hform hindex he hused
    exact ⟨hset_loads htables hform hindex he hused, hset_stale htables hform hindex he hused⟩
  case entry =>
    intro s d a e ha htables hn
    refine ⟨ofEntry_takes ha htables hn, (ofEntry_takes ha htables hn).trans ?_⟩
    rw [apply_ite word]

/-! ## `hsub` (R258) -/

/-- The format code of `hsub` is that of an object, or 15 for that of the source, and no reserved bit is set. -/
theorem formatOk {a : Word} (hrsv : bits a 52 48 = 0) (hfmt : bits a 56 53 < 8 ∨ bits a 56 53 = 15) :
    (bits a 52 48 != 0 || (8 ≤ bits a 56 53 && bits a 56 53 ≤ 14)) = false := by
  simp only [hrsv, bne_self_eq_false, Bool.false_or, Bool.and_eq_false_iff, decide_eq_false_iff_not]
  omega

section
variable {t : State} {ctxid : Nat} {h : Handle} {a b : Word} {src : Ent} (hlive : t.checkLive ctxid h 0 = .ok src)
  (hwindow : src.fmt ≠ 15) (hrsv : bits a 52 48 = 0) (hfmt : bits a 56 53 < 8 ∨ bits a 56 53 = 15)
include hlive hwindow hrsv hfmt

theorem subOf_wx (hw : (bits a 63 57).testBit 1 = true) (hx : (bits a 63 57).testBit 2 = true) :
    t.subOf ctxid h false a b = .error (Bad.of Cause.hWx (hEval h.index.toNat 0)) := by
  simp only [State.subOf, hlive, if_neg hwindow, formatOk hrsv hfmt, hw, hx, Bool.false_eq_true, if_false, Bool.and_self, if_true]

variable (hwx : ((bits a 63 57).testBit 1 && (bits a 63 57).testBit 2) = false)
include hwx

theorem subOf_bound (hout : bits b 47 0 = 0 ∨ src.len < bits a 47 0 + bits b 47 0) :
    t.subOf ctxid h false a b = .error (Bad.of Cause.hBound (hEval h.index.toNat (bits a 47 0))) := by
  have hrange : (decide (bits b 47 0 = 0) || decide (src.len < bits a 47 0 + bits b 47 0)) = true := by
    simpa using hout
  simp only [State.subOf, hlive, if_neg hwindow, formatOk hrsv hfmt, hwx, hrange, Bool.false_eq_true, if_false, if_true]

theorem subOf_ok {n : Nat} {old : Ent} (hlen : bits b 47 0 ≠ 0) (hin : bits a 47 0 + bits b 47 0 ≤ src.len)
    (htarget : bits b 63 48 < t.otlen ctxid) (hn : (if bits b 63 48 = 0 then t.freeEntry ctxid else some (bits b 63 48)) = some n)
    (hold : t.ent ctxid n = some old) (hfree : old.len = 0) :
    t.subOf ctxid h false a b = .ok (subEnt src n old.key ((old.gen + 1) % 65536) ctxid (bits a 47 0) (bits b 47 0) (bits a 63 57)
      (bits a 56 53), true) := by
  have hrange : (decide (bits b 47 0 = 0) || decide (src.len < bits a 47 0 + bits b 47 0)) = false := by
    simp [hlen, Nat.not_lt.2 hin]
  have hplace : (bits b 63 48 != 0 && decide (t.otlen ctxid ≤ bits b 63 48)) = false := by
    rw [decide_eq_false (Nat.not_le.2 htarget), Bool.and_false]
  simp only [State.subOf, hlive, if_neg hwindow, formatOk hrsv hfmt, hwx, hrange, hplace, hn, hold, (free_iff old).2 hfree,
    Bool.false_eq_true, if_false, if_true]

end

/-- Settles O29. -/
theorem subObjectResult : Obligations.SubObjectResult := by
  intro s d a b h src hh htables t ctxid rmask fmt off target len hn hwindow hrsv hfmt
  have hlive := names_live hn 0
  have hmask : bits (s.x a) 63 57 = rmask := Links.bits_top _ (by decide)
  have hoff : bits (s.x a) 47 0 = off := Links.bits_bottom _ _
  have hlen : bits (s.x b) 47 0 = len := Links.bits_bottom _ _
  have htarget : bits (s.x b) 63 48 = target := Links.bits_top _ (by decide)
  have hlocal : (h == 0) = false := beq_eq_false_iff_ne.2 hh
  have hraise : ∀ {c v}, t.subOf ctxid (t.hreg h.toNat) false (s.x a) (s.x b) = .error (Bad.of c v) →
      Answers (.hsub d a b h) s (raised t c v) := fun {c v} hbad => by
    refine runInstr_trap ((M.bind_ok (tablesCurrent_ok htables)).trans ((bind_get _ _).trans ?_))
    rw [hlocal]
    exact M.bind_error (ofCheck_error hbad)
  have hwx : ∀ {x : Nat}, ¬ (x.testBit 1 = true ∧ x.testBit 2 = true) → (x.testBit 1 && x.testBit 2) = false := fun {x} h => by
    simpa using h
  refine ⟨fun hno hl hin ht n old hfind hold hfree => ?_, fun hno hout => ?_, fun hw hx => ?_⟩
  · have hok := subOf_ok (b := s.x b) hlive hwindow hrsv hfmt (by rw [hmask]; exact hwx hno) (by rwa [hlen]) (by rwa [hoff, hlen])
      (by rwa [htarget]) (by rwa [htarget]) hold hfree
    rw [hmask, hoff, hlen] at hok
    refine runInstr_ok ((M.bind_ok (tablesCurrent_ok htables)).trans ((bind_get _ _).trans ?_))
    rw [hlocal]
    exact (M.bind_ok (ofCheck_ok hok)).trans ((M.bind_ok (ofCheck_ok hlive)).trans rfl)
  · have hbad := subOf_bound (b := s.x b) hlive hwindow hrsv hfmt (by rw [hmask]; exact hwx hno) (by rwa [hoff, hlen])
    rw [hoff] at hbad
    exact hraise hbad
  · refine (hraise (subOf_wx hlive hwindow hrsv hfmt (by rwa [hmask]) (by rwa [hmask]))).trans ?_
    rw [hEval, Nat.add_zero]

end Sys2Proof.Proofs.Objects
end

section
/-! PROOFS. `oalloc` and `ofree` (R55, R56, R93, R259, R260). -/

namespace Sys2Proof.Proofs.ObjectLifetime

open Sys2Proof.Machine Sys2Proof.Spec Sys2Proof.Proofs.Sync Sys2Proof.Proofs.Operands Sys2Proof.Proofs.LocalAccess
  Sys2Proof.Proofs.Objects

/-! ## The charge (R56) -/

section
variable {t : State} {ctxid : Nat} {p : Proc} (hp : t.proc? ctxid = some p) {acct tier n : Nat}
  (hkept : t.tableLost (t.acctKey p acct tier) 8 = false)
include hp hkept

theorem charge_quota (hfull : t.mem.getLE (t.acctKey p acct tier + 4) 4 < t.mem.getLE (t.acctKey p acct tier) 4 + n) :
    t.charge ctxid acct tier n = .error (Bad.of Cause.quota (chargeEval n tier acct)) := by
  simp only [State.charge, hp, hkept, Bool.false_eq_true, if_false, if_pos hfull]

theorem charge_ok (hroom : t.mem.getLE (t.acctKey p acct tier) 4 + n ≤ t.mem.getLE (t.acctKey p acct tier + 4) 4)
    (hreserved : if tier = 0 then p.usedH + n ≤ p.resH else p.usedC + n ≤ p.resC) :
    t.charge ctxid acct tier n = .ok (t.addUsed ctxid acct tier n false) := by
  have hwithin : ¬ (if tier = 0 then p.resH < p.usedH + n else p.resC < p.usedC + n) := by
    split at hreserved <;> simp only [*, if_true, if_false] <;> omega
  simp only [State.charge, hp, hkept, Bool.false_eq_true, if_false, if_neg (Nat.not_lt.2 hroom), if_neg hwithin]

end

/-! ## `oalloc` (R259) -/

/-- What an `oalloc` whose checks have passed answers, by the charge to its account and by the entry `k` that it takes. -/
def afterCharge (t : State) (ctxid k len rights die tier fmt acct : Nat) : Except Bad State → Option Ent → Except Bad (Ent × State)
  | .error e, _ => .error e
  | .ok s, some old =>
    let r := s.makeObject ctxid k old.key ((old.gen + 1) % 65536) len rights die tier fmt acct
    .ok (r.1, r.2.putEnt r.1)
  | .ok _, none => .error (Bad.of Cause.objFull (word (t.otlen ctxid)))

section
variable {t : State} {ctxid : Nat} {a b : Word}

theorem allocOf_form (h : bits a 63 48 ≠ 0 ∨ bits a 47 0 = 0) :
    t.allocOf ctxid a b = .error (Bad.of Cause.hInvalid (word (2 ^ 32))) := by
  have hbad : (bits a 63 48 != 0 || decide (bits a 47 0 = 0)) = true := by simpa using h
  simp only [State.allocOf, hbad, if_true]
  rfl

variable (hrsv : bits a 63 48 = 0) (hlen : bits a 47 0 ≠ 0) (hb : bits b 63 21 = 0) (hfmt : bits b 9 6 < 8)
include hrsv hlen hb hfmt

theorem allocOf_formed : (bits a 63 48 != 0 || decide (bits a 47 0 = 0)) = false ∧
    (bits b 63 21 != 0 || decide (7 < bits b 9 6)) = false := by
  simp only [hrsv, hb, bne_self_eq_false, Bool.false_or, decide_eq_false_iff_not]
  omega

theorem allocOf_wx (hx : (bits b 20 14).testBit 2 = true) : t.allocOf ctxid a b = .error (Bad.of Cause.hWx 0) := by
  obtain ⟨ha, hb⟩ := allocOf_formed hrsv hlen hb hfmt
  simp only [State.allocOf, ha, hb, hx, Bool.false_eq_true, if_false, if_true]
  rfl

variable {p : Proc} {k : Nat} {old : Ent} (hx : (bits b 20 14).testBit 2 = false) (htier : bits b 11 10 < 2)
  (hp : t.proc? ctxid = some p) (hhome : bits b 11 10 = 0 → (t.part p.part).slices.get (bits b 13 12) [] ≠ [])
  (hk : t.freeEntry ctxid = some k)
include hx htier hp hhome hk

/-- With every check passed only the charge decides. -/
theorem allocOf_charges : t.allocOf ctxid a b =
    afterCharge t ctxid k (bits a 47 0) (bits b 20 14) (bits b 13 12) (bits b 11 10) (bits b 9 6) (bits b 5 0)
      (t.charge ctxid (bits b 5 0) (bits b 11 10) (ceilDiv (bits a 47 0) 65536)) (t.ent ctxid k) := by
  obtain ⟨ha, hb⟩ := allocOf_formed hrsv hlen hb hfmt
  have hplace : (decide (2 ≤ bits b 11 10) ||
      (decide (bits b 11 10 = 0) && !!((t.part p.part).slices.get (bits b 13 12) []).isEmpty)) = false := by
    simp only [Bool.or_eq_false_iff, Bool.and_eq_false_imp, decide_eq_false_iff_not, decide_eq_true_eq, Bool.not_not,
      List.isEmpty_eq_false_iff]
    exact ⟨Nat.not_le.2 htier, hhome⟩
  simp only [State.allocOf, ha, hb, hx, hp, hplace, hk, Bool.false_eq_true, if_false]
  rfl

end

/-- The run of `oalloc` up to its checks. -/
theorem exec_oalloc {s : State} {d a b : BitVec 5} (hblock : BlockOk s) (htables : tablesOpen (closed s)) :
    exec (.oalloc d a b) s = runInstr (do
      let r ← ofCheck ((current (closed s)).allocOf ((current (closed s)).ctxidOf (current (closed s)).cur.1) (s.x a) (s.x b))
      set r.2
      writeX d (handleWord r.1.index r.1.gen)
      commitInstr false) (current (closed s)) :=
  runInstr_congr ((M.bind_ok (endBlock_ok hblock)).trans ((M.bind_ok (tablesCurrent_ok htables)).trans (bind_get _ _)))

theorem allocateResult : AllocateResult := by
  intro s d a b hblock htables t ctxid len rights die tier fmt acct n
  have hrsv : bits (s.x a) 63 48 = (s.x a).toNat / 2 ^ 48 := Links.bits_top _ (by decide)
  have hlen : bits (s.x a) 47 0 = len := Links.bits_bottom _ _
  have hrsvb : bits (s.x b) 63 21 = (s.x b).toNat / 2 ^ 21 := Links.bits_top _ (by decide)
  have hacct : bits (s.x b) 5 0 = acct := Links.bits_bottom _ _
  have hpages : ceilDiv len 65536 = n := rfl
  have hrun := exec_oalloc (d := d) (a := a) (b := b) hblock htables
  have hraise : ∀ {c v}, t.allocOf ctxid (s.x a) (s.x b) = .error (Bad.of c v) → Answers (.oalloc d a b) s (raised t c v) :=
    fun hbad => hrun.trans (runInstr_trap (M.bind_error (ofCheck_error hbad)))
  refine ⟨fun hform => hraise (allocOf_form (by rwa [hrsv, hlen])), fun ha hlen0 hb hf => ?_⟩
  rw [← hrsv] at ha
  rw [← hlen] at hlen0
  rw [← hrsvb] at hb
  refine ⟨fun hx => hraise (allocOf_wx ha hlen0 hb hf hx), fun hx htier p hp hhome k old hk hold hkept => ?_⟩
  have hcharges := allocOf_charges ha hlen0 hb hf hx htier hp hhome hk
  rw [hlen, hacct, hpages, show bits (s.x b) 11 10 = tier from rfl, show bits (s.x b) 20 14 = rights from rfl,
    show bits (s.x b) 13 12 = die from rfl, show bits (s.x b) 9 6 = fmt from rfl] at hcharges
  refine ⟨fun hfull => hraise (hcharges.trans ?_), ?_⟩
  · rw [charge_quota hp hkept hfull]
    rfl
  · intro hroom hreserved r
    rw [charge_ok hp hkept hroom hreserved, hold] at hcharges
    have halloc : t.allocOf ctxid (s.x a) (s.x b) = .ok (r.1, r.2.putEnt r.1) := hcharges
    refine hrun.trans (runInstr_ok ?_)
    rw [M.bind_ok (ofCheck_ok halloc), bind_set, M.bind_ok (writeX_ok _ _ _), commitInstr_ok]
    rfl

/-! ## `ofree` (R260) -/

/-- What `ofree` does with the entry that its word names. -/
def freeEntryOf (w : HWord) (t : State) (e : Ent) : M Unit := do
  if e.free then
    if w.gv && e.gen == (w.gen + 1) % 65536 then pure () else trap Cause.hInvalid (detEval w.index 0)
  else do
    trapIf (w.gv && w.gen != e.gen) Cause.hStale (detEval w.index 0)
    trapIf (e.owner != t.ctxidOf t.cur.1) Cause.hInvalid (detEval w.index 4)
    let mkey := match t.proc? (t.ctxidOf t.cur.1) with
      | some p => t.tableKey p.part e.pmap
      | none => 0
    match t.maps.look mkey with
    | some r =>
      if r.alloc = w.index then
        match r.transit with
        | some _ => waitFor (.transit mkey)
        | none => modify (fun s => s.freeObject (t.ctxidOf t.cur.1) mkey r e.pmap)
      else modify (fun s => (s.unseal (t.ctxidOf t.cur.1) e).freeEnt e)
    | none => modify (fun s => (s.unseal (t.ctxidOf t.cur.1) e).freeEnt e)

theorem exec_ofree {s : State} {a : BitVec 5} {e : Ent} (htables : tablesOpen s) (hform : (s.x a).toNat / 2 ^ 33 = 0)
    (hindex : (s.x a).toNat % 65536 ≠ 0)
    (he : (current s).ent ((current s).ctxidOf (current s).cur.1) ((s.x a).toNat % 65536) = some e) :
    exec (.ofree a) s = runInstr (freeEntryOf (hword (s.x a)) (current s) e >>= fun _ => retire) (current s) := by
  have hword : freeWord (hword (s.x a)) s = freeEntryOf (hword (s.x a)) (current s) e (current s) :=
    (M.bind_ok (tablesCurrent_ok htables)).trans ((bind_get _ _).trans (M.bind_ok (ofCheck_ok (wordEnt_ok hform hindex he))))
  refine runInstr_congr ?_
  show EStateM.bind _ _ _ = EStateM.bind _ _ _
  simp only [EStateM.bind, hword]

section
variable {t : State} {e : Ent} {w : Word}

theorem freeEntryOf_again (hfree : e.len = 0) (hgv : w.getLsbD 32 = true) (hgen : e.gen = (w.toNat / 65536 % 65536 + 1) % 65536) :
    freeEntryOf (hword w) t e t = .ok () t := by
  have hnext : ((hword w).gv && e.gen == ((hword w).gen + 1) % 65536) = true := by
    rw [Bool.and_eq_true, beq_iff_eq]
    exact ⟨hgv, hgen⟩
  rw [freeEntryOf, if_pos ((free_iff e).2 hfree), if_pos hnext]
  rfl

variable (hused : e.len ≠ 0)
include hused

theorem freeEntryOf_stale (hgv : w.getLsbD 32 = true) (hgen : w.toNat / 65536 % 65536 ≠ e.gen) :
    freeEntryOf (hword w) t e t = .error (.trap Cause.hStale (word (w.toNat % 65536 * 2 ^ 48)) 0 0) t := by
  rw [freeEntryOf, if_neg (by rw [free_false hused]; decide), ← hword_index, ← detEval_zero]
  exact M.bind_error (trapIf_traps ((staleWord_iff w e.gen).2 ⟨hgv, hgen⟩))

variable (hgen : w.getLsbD 32 = true → w.toNat / 65536 % 65536 = e.gen)
include hgen

omit hused in
theorem notStale : ((hword w).gv && (hword w).gen != e.gen) = false := by
  rw [← Bool.not_eq_true, staleWord_iff]
  exact fun h => h.2 (hgen h.1)

theorem freeEntryOf_stranger (howner : e.owner ≠ t.ctxidOf t.cur.1) : freeEntryOf (hword w) t e t =
    .error (.trap Cause.hInvalid (word (w.toNat % 65536 * 2 ^ 48 + 4 * 2 ^ 32)) 0 0) t := by
  rw [freeEntryOf, if_neg (by rw [free_false hused]; decide), bind_trapIf_pass (notStale hgen), ← hword_index]
  exact M.bind_error (trapIf_traps (bne_iff_ne.2 howner))

variable {p : Proc} {r : MapRec} (howner : e.owner = t.ctxidOf t.cur.1) (hp : t.proc? (t.ctxidOf t.cur.1) = some p)
  (hr : t.maps.look (t.tableKey p.part e.pmap) = some r)
include howner hp hr

/-- An entry of the context's own: the allocation goes whole, another entry of its map alone. -/
theorem freeEntryOf_owned : freeEntryOf (hword w) t e t = (if r.alloc = w.toNat % 65536 then
      match r.transit with
      | some _ => waitFor (.transit (t.tableKey p.part e.pmap))
      | none => modify (fun s => s.freeObject (t.ctxidOf t.cur.1) (t.tableKey p.part e.pmap) r e.pmap)
    else modify (fun s => (s.unseal (t.ctxidOf t.cur.1) e).freeEnt e) : M Unit) t := by
  rw [freeEntryOf, if_neg (by rw [free_false hused]; decide), bind_trapIf_pass (notStale hgen),
    bind_trapIf_pass (bne_eq_false_iff_eq.2 howner), ← hword_index]
  simp only [hp, hr]

end

theorem freeResult : FreeResult := by
  intro s a e p t ctxid index gen gv mkey htables hform hindex he hp
  have hrun := exec_ofree htables hform hindex he
  refine ⟨fun hused hgen howner r hr => ?_, fun hfree hgv hgen => ?_, fun hused hgv hgen => ?_, fun hused hgen howner => ?_⟩
  · have hown := freeEntryOf_owned hused hgen howner hp hr
    refine ⟨fun halloc htransit => hrun.trans (runInstr_ok (M.bind_ok (a := ()) (t := t.freeObject ctxid mkey r e.pmap) (hown.trans ?_))),
      fun halloc => hrun.trans (runInstr_ok (M.bind_ok (a := ()) (t := (t.unseal ctxid e).freeEnt e) (hown.trans ?_)))⟩
    · rw [if_pos halloc, htransit]
      rfl
    · rw [if_neg halloc]
      rfl
  · exact hrun.trans (runInstr_ok (M.bind_ok (freeEntryOf_again hfree hgv hgen)))
  · exact hrun.trans (runInstr_trap (M.bind_error (freeEntryOf_stale hused hgv hgen)))
  · exact hrun.trans (runInstr_trap (M.bind_error (freeEntryOf_stranger hused hgen howner)))

/-- Settles O30. -/
theorem objectLifetime : Obligations.ObjectLifetime := ⟨allocateResult, freeResult⟩

end Sys2Proof.Proofs.ObjectLifetime
end

section
/-! PROOFS. The instructions of virtual caches (R277 to R279, R282). -/

namespace Sys2Proof.Proofs.VirtualCaches

open Sys2Proof.Machine Sys2Proof.Spec Sys2Proof.Proofs.Sync Sys2Proof.Proofs.Operands
  Sys2Proof.Proofs.ControlRegisters

/-! ## The VC word and the context (R277) -/

theorem vcV_eq (w : Word) : vcV w = w.toNat % 64 := Links.bits_bottom w 5

theorem vcBlocks_eq (w : Word) : vcBlocks w = w.toNat / 2 ^ 32 := Links.bits_top w (by decide)

section
variable {s : State} {p : Proc}

theorem vcUnused_ok (i : Instr) {w : Word} {used : Nat} (h : w.toNat &&& (2 ^ 64 - 1 - used) = 0) : vcUnused i w used s = .ok () s :=
  congrFun (if_pos h) s

theorem issuer_ok (hp : s.proc? (s.ctxidOf s.cur.1) = some p) : issuer s = .ok (s.ctxidOf s.cur.1, p) s := by
  rw [issuer, bind_get]
  simp only [hp]
  rfl

end

/-! ## `vcdef` (R278) -/

/-- Whether the context has a virtual cache of just this definition. -/
def sameVc (p : Proc) (v k blocks banks par : Nat) : Bool :=
  match p.vcs.look v with
  | some c => c.k == k && c.blocks == blocks && c.banks == banks && c.parent == par
  | none => false

/-- What `vcdef` does with a definition of size `k` (not 0) for the context `ctxid`, whose record is `p`. -/
def defineVc (ctxid : Nat) (p : Proc) (v k blocks banks par : Nat) : M Unit :=
  if sameVc p v k blocks banks par then retire
  else do
    trapIf (p.vcs.look v).isSome Cause.vcRange (vcEval 4 v)
    trapIf (22 < k) Cause.vcRange (vcEval 1 v)
    trapIf (!placeOk k blocks banks) Cause.vcRange (vcEval 2 v)
    let t ← get
    trapIf (!t.banksOk p v k blocks banks) Cause.vcRange (vcEval 3 v)
    trapIf (par != 0 && (p.vcs.look par).isNone) Cause.vcUndef (vcEval 0 v)
    trapIf (5 < vcDepth p.vcs par) Cause.vcDepth (vcEval 0 v)
    modify (fun s => s.modProc ctxid (fun p => { p with
      vcs := p.vcs.put v ⟨k, blocks, banks, par, [], none, none, [], []⟩ }))
    retire

/-- A parent is none, or one of the tree. -/
theorem parent_ok {m : NMap Vc} {par : Nat} (h : par ≠ 0 → (m.look par).isSome = true) : (par != 0 && (m.look par).isNone) = false := by
  by_cases hpar : par = 0
  · rw [hpar]
    rfl
  · rw [← Option.not_isSome, h hpar, Bool.not_true, Bool.and_false]

section
variable {s : State} {p : Proc} (hp : s.proc? (s.ctxidOf s.cur.1) = some p) {a b : BitVec 5}
include hp

theorem exec_vcdef (ha : (s.x a).toNat &&& (2 ^ 64 - 1 - (2 ^ 64 - 2 ^ 32 + 0x3F000000 + 0x3F0000 + 0x3F)) = 0)
    (hb : (s.x b).toNat < 2 ^ 48) (hv : (s.x a).toNat % 64 ≠ 0) (hk : (s.x a).toNat / 2 ^ 16 % 64 ≠ 0) :
    exec (.vcdef a b) s = runInstr (defineVc (s.ctxidOf s.cur.1) p ((s.x a).toNat % 64) ((s.x a).toNat / 2 ^ 16 % 64)
      ((s.x a).toNat / 2 ^ 32) (s.x b).toNat ((s.x a).toNat / 2 ^ 24 % 64)) s := by
  refine runInstr_congr ?_
  rw [M.bind_ok (vcUnused_ok _ ha), M.bind_ok (needZeroB_ok _ hb), M.bind_ok (issuer_ok hp), vcV_eq, vcBlocks_eq, bits_of_lt hb]
  exact (bind_trapIf_pass (beq_eq_false_iff_ne.2 hv)).trans (congrFun (if_neg hk) s)

end

section
variable {s : State} {ctxid : Nat} {p : Proc} {v k blocks banks par : Nat}

theorem defineVc_same {c : Vc} (hc : p.vcs.look v = some c) (hk : c.k = k) (hblocks : c.blocks = blocks) (hbanks : c.banks = banks)
    (hpar : c.parent = par) : defineVc ctxid p v k blocks banks par s = .ok () s.retire := by
  have hsame : sameVc p v k blocks banks par = true := by
    simp only [sameVc, hc, hk, hblocks, hbanks, hpar, beq_self_eq_true, Bool.and_self]
  rw [defineVc, if_pos hsame, retire_ok]

theorem defineVc_new (hnew : p.vcs.look v = none) (hk : k ≤ 22) (hplace : placeOk k blocks banks = true)
    (hbanks : s.banksOk p v k blocks banks = true) (hpar : par ≠ 0 → (p.vcs.look par).isSome = true)
    (hdepth : vcDepth p.vcs par ≤ 5) : defineVc ctxid p v k blocks banks par s = .ok () (s.modProc ctxid (fun p => { p with
      vcs := p.vcs.put v ⟨k, blocks, banks, par, [], none, none, [], []⟩ })).retire := by
  have hsame : ¬ (sameVc p v k blocks banks par = true) := by
    simp only [sameVc, hnew, Bool.false_eq_true, not_false_eq_true]
  rw [defineVc, if_neg hsame, bind_trapIf_pass (by rw [hnew]; rfl), bind_trapIf_pass (decide_eq_false (Nat.not_lt.2 hk)),
    bind_trapIf_pass (congrArg (!·) hplace), bind_get, bind_trapIf_pass (congrArg (!·) hbanks), bind_trapIf_pass (parent_ok hpar),
    bind_trapIf_pass (decide_eq_false (Nat.not_lt.2 hdepth)), bind_modify, retire_ok]

end

/-! ## `vcsize` and `vcpar` (R279) -/

/-- A legal new size or parent is handed to the controller, unless it is that of now. -/
def handOver (ctxid v : Nat) (c : Vc) (op : VcOp) (unchanged : Prop) [Decidable unchanged] : M Unit :=
  if unchanged then retire
  else do
    trapIf (c.op.isSome && c.queued.isSome) Cause.vcBusy (vcEval 0 v)
    modify (fun s => s.acceptOp ctxid v c op)
    retire

section
variable {s : State} {p : Proc} (hp : s.proc? (s.ctxidOf s.cur.1) = some p) {a : BitVec 5} {c : Vc}
  (hc : p.vcs.look ((s.x a).toNat % 64) = some c)
include hp hc

theorem exec_vcsize (ha : (s.x a).toNat &&& (2 ^ 64 - 1 - (0x3F0000 + 0x3F)) = 0) (hk : (s.x a).toNat / 2 ^ 16 % 64 ≠ 0)
    (hk' : (s.x a).toNat / 2 ^ 16 % 64 ≤ 22) (hplace : placeOk ((s.x a).toNat / 2 ^ 16 % 64) c.blocks c.banks = true)
    (hbanks : s.banksOk p ((s.x a).toNat % 64) ((s.x a).toNat / 2 ^ 16 % 64) c.blocks c.banks = true) :
    exec (.vcsize a) s = runInstr (handOver (s.ctxidOf s.cur.1) ((s.x a).toNat % 64) c (.size ((s.x a).toNat / 2 ^ 16 % 64))
      ((s.x a).toNat / 2 ^ 16 % 64 = c.sizeAfter)) s := by
  refine runInstr_congr ?_
  have hrange : ((s.x a).toNat / 2 ^ 16 % 64 == 0 || decide (22 < (s.x a).toNat / 2 ^ 16 % 64)) = false := by
    rw [beq_eq_false_iff_ne.2 hk, decide_eq_false (Nat.not_lt.2 hk')]
    rfl
  rw [M.bind_ok (vcUnused_ok _ ha), M.bind_ok (issuer_ok hp), vcV_eq]
  refine (bind_trapIf_pass hrange).trans ?_
  simp only [hc]
  rw [bind_get]
  exact (bind_trapIf_pass (congrArg (!·) hplace)).trans (bind_trapIf_pass (congrArg (!·) hbanks))

theorem exec_vcpar (ha : (s.x a).toNat &&& (2 ^ 64 - 1 - (0x3F000000 + 0x3F)) = 0)
    (hpar : (s.x a).toNat / 2 ^ 24 % 64 ≠ 0 →
      ((treeAfter p.vcs ((s.x a).toNat % 64)).look ((s.x a).toNat / 2 ^ 24 % 64)).isSome = true)
    (hself : (s.x a).toNat / 2 ^ 24 % 64 ≠ (s.x a).toNat % 64)
    (hunder : vcUnder (treeAfter p.vcs ((s.x a).toNat % 64)) ((s.x a).toNat % 64) ((s.x a).toNat / 2 ^ 24 % 64) = false)
    (hdepth : vcDepth (treeAfter p.vcs ((s.x a).toNat % 64)) ((s.x a).toNat / 2 ^ 24 % 64) + 1 +
      ((treeAfter p.vcs ((s.x a).toNat % 64)).filter
          (fun u => vcUnder (treeAfter p.vcs ((s.x a).toNat % 64)) ((s.x a).toNat % 64) u.1)).foldl
        (fun n u => max n (vcDepth (treeAfter p.vcs ((s.x a).toNat % 64)) u.1 -
          vcDepth (treeAfter p.vcs ((s.x a).toNat % 64)) ((s.x a).toNat % 64))) 0 ≤ 6) :
    exec (.vcpar a) s = runInstr (handOver (s.ctxidOf s.cur.1) ((s.x a).toNat % 64) c (.parent ((s.x a).toNat / 2 ^ 24 % 64))
      ((s.x a).toNat / 2 ^ 24 % 64 = c.parentAfter)) s := by
  refine runInstr_congr ?_
  have hcycle : ((s.x a).toNat / 2 ^ 24 % 64 == (s.x a).toNat % 64 ||
      vcUnder (treeAfter p.vcs ((s.x a).toNat % 64)) ((s.x a).toNat % 64) ((s.x a).toNat / 2 ^ 24 % 64)) = false := by
    rw [beq_eq_false_iff_ne.2 hself, hunder]
    rfl
  rw [M.bind_ok (vcUnused_ok _ ha), M.bind_ok (issuer_ok hp), vcV_eq]
  simp only [hc]
  exact (bind_trapIf_pass (parent_ok hpar)).trans ((bind_trapIf_pass hcycle).trans
    (bind_trapIf_pass (decide_eq_false (Nat.not_lt.2 hdepth))))

end

section
variable {s : State} {ctxid v : Nat} {c : Vc} {op : VcOp} {unchanged : Prop} [Decidable unchanged]

theorem handOver_unchanged (h : unchanged) : runInstr (handOver ctxid v c op unchanged) s = .next s.retire := by
  rw [handOver, if_pos h]
  exact runInstr_ok (retire_ok s)

variable (h : ¬ unchanged)
include h

theorem handOver_starts (hop : c.op = none) :
    runInstr (handOver ctxid v c op unchanged) s = .next (s.enterPhase ctxid v op .cut).retire := by
  refine runInstr_ok ?_
  rw [handOver, if_neg h, bind_trapIf_pass (by rw [hop]; rfl), bind_modify, retire_ok, State.acceptOp, hop]
  rfl

theorem handOver_queues (hop : c.op.isSome = true) (hfree : c.queued = none) : runInstr (handOver ctxid v c op unchanged) s =
    .next (s.modVc ctxid v (fun c => { c with queued := some op })).retire := by
  have hsome : ¬ (c.op.isNone = true) := by
    rw [← Option.not_isSome, hop]
    decide
  refine runInstr_ok ?_
  rw [handOver, if_neg h, bind_trapIf_pass (by rw [hfree, Option.isSome_none, Bool.and_false]), bind_modify, retire_ok,
    State.acceptOp, if_neg hsome]

theorem handOver_busy (hop : c.op.isSome = true) (hqueued : c.queued.isSome = true) :
    runInstr (handOver ctxid v c op unchanged) s = .next (raised s Cause.vcBusy (word (v * 256))) := by
  refine runInstr_raises ?_
  rw [handOver, if_neg h, show word (v * 256) = vcEval 0 v from by rw [vcEval, Nat.add_zero]]
  exact M.bind_error (trapIf_traps (by rw [hop, hqueued]; rfl))

end

/-! ## `vcq` (R282) -/

theorem b2n_mul (b : Bool) (n : Nat) : b2n b * n = if b then n else 0 := by
  cases b
  · exact Nat.zero_mul n
  · exact Nat.one_mul n

theorem exec_vcq {s : State} {p : Proc} (hp : s.proc? (s.ctxidOf s.cur.1) = some p) {d a : BitVec 5} (ha : (s.x a).toNat < 64) :
    exec (.vcq d a) s = .next (s.setX d (vcqWord p.vcs (s.x a).toNat)).retire := by
  have hunused : (s.x a).toNat &&& (2 ^ 64 - 1 - 0x3F) = 0 := (and_above_eq_zero_iff _ (n := 6) (by decide)).2 ha
  refine runInstr_ok ?_
  rw [M.bind_ok (vcUnused_ok _ hunused), M.bind_ok (issuer_ok hp), vcV_eq, Nat.mod_eq_of_lt ha]
  rfl

/-- Settles O33. -/
theorem virtualCacheResult : Obligations.VirtualCacheResult := by
  intro s p hp ctxid
  refine ⟨?new, ?same, ?size, ?par, fun d a ha => ?read⟩
  case new =>
    intro a b v k par blocks banks hunused hbanks hv hk hk22 hnew hplace hok hpar hdepth
    exact (exec_vcdef hp hunused hbanks hv hk).trans (runInstr_ok (defineVc_new hnew hk22 hplace hok hpar hdepth))
  case same =>
    intro a b c v k hunused hbanks hv hk hc hck hcb hcn hcp
    exact (exec_vcdef hp hunused hbanks hv hk).trans (runInstr_ok (defineVc_same hc hck hcb hcn hcp))
  case size =>
    intro a c v k hunused hk hk22 hc hplace hok
    have hrun := exec_vcsize hp hc hunused hk hk22 hplace hok
    exact ⟨fun h => hrun.trans (handOver_unchanged h), fun h hop => hrun.trans (handOver_starts h hop),
      fun h hop hfree => hrun.trans (handOver_queues h hop hfree), fun h hop hqueued => hrun.trans (handOver_busy h hop hqueued)⟩
  case par =>
    intro a c v par tree below hunused hc hpar hself hunder hdepth
    have hrun := exec_vcpar hp hc hunused hpar hself hunder hdepth
    exact ⟨fun h => hrun.trans (handOver_unchanged h), fun h hop => hrun.trans (handOver_starts h hop),
      fun h hop hfree => hrun.trans (handOver_queues h hop hfree)⟩
  case read =>
    refine (exec_vcq hp ha).trans ?_
    rcases hv : (s.x a).toNat with _ | v
    · rfl
    · simp only [vcqWord, if_neg (Nat.succ_ne_zero v), b2n_mul]
      cases p.vcs.look (v + 1) <;> rfl

end Sys2Proof.Proofs.VirtualCaches
end

section
/-! PROOFS. `fence` and `rfence` (R270, R271, R349, R359, R360). -/

namespace Sys2Proof.Proofs.Fences

open Sys2Proof.Machine Sys2Proof.Spec Sys2Proof.Proofs.Sync Sys2Proof.Proofs.Operands

/-! ## `fence` (R270) -/

section
variable {s : State}

theorem needZeroA_ok (i : Instr) {v : Word} {hi : Nat} (h : v.toNat < 2 ^ (hi + 1)) : needZeroA i v hi s = .ok () s :=
  congrFun (if_pos (Nat.div_eq_of_lt h)) s

theorem needZeroA_reserved (i : Instr) {v : Word} {hi : Nat} (h : 2 ^ (hi + 1) ≤ v.toNat) :
    needZeroA i v hi s = .error (.trap Cause.illRsv (word (2 ^ 32 + (encode i).toNat)) 0 0) s := by
  rw [← LatticeEntry.wordEval_one]
  exact congrFun (if_neg (Nat.div_pos h (Nat.two_pow_pos _)).ne') s

theorem isScope_iff (v : Nat) : isScope v = true ↔ v < 4 ∨ (0x41 ≤ v ∧ v ≤ 0x7F) := by
  simp only [isScope, Bool.or_eq_true, Bool.and_eq_true, decide_eq_true_eq]

end

section
variable {s : State} {a : BitVec 5} (hbyte : (s.x a).toNat < 256)
include hbyte

/-- `fence` with a byte checks the scope and its virtual cache, and then releases and acquires. -/
theorem exec_fence : exec (.fence a) s = runInstr (do
    trapIf (!isScope (s.x a).toNat) Cause.vcRange (vcEval 6 0)
    trapIf (0x41 ≤ (s.x a).toNat && (s.vc (s.ctxidOf s.cur.1) ((s.x a).toNat - 0x40)).isNone) Cause.vcUndef
      (vcEval 0 ((s.x a).toNat - 0x40))
    releaseAt (s.x a).toNat
    acquireAt (s.x a).toNat
    retire) s := by
  refine runInstr_congr ?_
  rw [M.bind_ok (needZeroA_ok _ hbyte), bits_of_lt hbyte]

theorem fence_ends (hscope : (s.x a).toNat < 4 ∨ (0x41 ≤ (s.x a).toNat ∧ (s.x a).toNat ≤ 0x7F ∧
      (s.vc (s.ctxidOf s.cur.1) ((s.x a).toNat - 0x40)).isSome = true)) (hrel : settled s (s.x a).toNat)
    (hacq : acquirable (s.release s.cur.1 (s.x a).toNat) (s.x a).toNat) :
    Answers (.fence a) s ((s.release s.cur.1 (s.x a).toNat).acquire (s.release s.cur.1 (s.x a).toNat).cur.1 (s.x a).toNat).retire := by
  have hbyteOk : isScope (s.x a).toNat = true := (isScope_iff _).2 (by omega)
  have hdefined : (decide (0x41 ≤ (s.x a).toNat) && (s.vc (s.ctxidOf s.cur.1) ((s.x a).toNat - 0x40)).isNone) = false := by
    obtain hlow | ⟨-, -, hvc⟩ := hscope
    · rw [decide_eq_false (by omega), Bool.false_and]
    · rw [← Option.not_isSome, hvc, Bool.not_true, Bool.and_false]
  refine (exec_fence hbyte).trans (runInstr_ok ?_)
  rw [bind_trapIf_pass (congrArg (!·) hbyteOk), bind_trapIf_pass hdefined, M.bind_ok (releaseAt_ok hrel), M.bind_ok (acquireAt_ok hacq),
    retire_ok]

theorem fence_noScope (h : isScope (s.x a).toNat = false) : Answers (.fence a) s (raised s Cause.vcRange 6) :=
  (exec_fence hbyte).trans (runInstr_raises (M.bind_error (trapIf_traps (congrArg (!·) h))))

theorem fence_undefined (hlo : 0x41 ≤ (s.x a).toNat) (hhi : (s.x a).toNat ≤ 0x7F)
    (hvc : s.vc (s.ctxidOf s.cur.1) ((s.x a).toNat - 0x40) = none) :
    Answers (.fence a) s (raised s Cause.vcUndef (word (((s.x a).toNat - 0x40) * 256))) := by
  have hbyteOk : isScope (s.x a).toNat = true := (isScope_iff _).2 (.inr ⟨hlo, hhi⟩)
  have hnone : (decide (0x41 ≤ (s.x a).toNat) && (s.vc (s.ctxidOf s.cur.1) ((s.x a).toNat - 0x40)).isNone) = true := by
    rw [decide_eq_true hlo, hvc]
    rfl
  refine (exec_fence hbyte).trans (runInstr_raises ?_)
  rw [bind_trapIf_pass (congrArg (!·) hbyteOk), show word (((s.x a).toNat - 0x40) * 256) = vcEval 0 ((s.x a).toNat - 0x40) from by
    rw [vcEval, Nat.add_zero]]
  exact M.bind_error (trapIf_traps hnone)

end

theorem fenceResult : FenceResult := by
  intro s a sc t
  refine ⟨fence_ends, fun hbig => runInstr_raises (M.bind_error (needZeroA_reserved _ hbig)),
    fun hno => fence_noScope (by omega) ?_, fun hlo hhi => fence_undefined (by omega) hlo hhi⟩
  rw [← Bool.not_eq_true, isScope_iff]
  omega

/-! ## The oldest deferred cause (R349) -/

section
variable {s : State} {p : DPoint}

theorem deliver_none (h : s.curCtx.deferred.find? (fun d => d.point == p) = none) : deliver p s = .ok () s := by
  rw [deliver, bind_get]
  simp only [h]
  rfl

theorem deliver_oldest {d : Deferred} (h : s.curCtx.deferred.find? (fun d => d.point == p) = some d) :
    deliver p s = .error (.trap d.cause d.eval 1 d.preason) (s.modCur (fun x => { x with deferred := x.deferred.erase d })) := by
  rw [deliver, bind_get]
  simp only [h]
  rfl

theorem queueOpen_ok (h : s.queueShut s.cur.1 (fun _ => true) = none) : queueOpen s = .ok () s := by
  rw [queueOpen, bind_get]
  simp only [h]
  rfl

/-- What remains of `rfence` and `lfence` when nothing is outstanding: a deferred cause of theirs, or the next instruction. -/
theorem deliver_retires (hnone : s.curCtx.deferred.find? (fun d => d.point == p) = none) :
    (deliver p >>= fun _ => retire) s = .ok () s.retire := (M.bind_ok (deliver_none hnone)).trans (retire_ok s)

theorem deliver_raises {d : Deferred} (h : s.curCtx.deferred.find? (fun d => d.point == p) = some d) :
    runInstr (deliver p >>= fun _ => retire) s = .next (delivered s d) := runInstr_trap (M.bind_error (deliver_oldest h))

/-- A fence that waits for remote operations goes on when none is open. -/
theorem remoteIdle_iff (s : State) : (s.curCore.rfcnt != 0 || s.remoteBusy) = true ↔ s.curCore.rfcnt ≠ 0 ∨ s.remoteBusy = true := by
  rw [Bool.or_eq_true, bne_iff_ne]

theorem remoteIdle_none (hcount : s.curCore.rfcnt = 0) (hidle : s.remoteBusy = false) :
    (s.curCore.rfcnt != 0 || s.remoteBusy) = false := by
  rw [hcount, hidle]
  rfl

/-! ## `rfence` (R271) -/

/-- The state of `rfence` once the queue has drained and the stores to tiers 2 and 3 have left the virtual caches. -/
def remoteClean (s : State) : State := (s.drain s.cur.1).cleanRemote (s.ctxidOf s.cur.1)

variable (hqueue : s.queueShut s.cur.1 (fun _ => true) = none)
  (hshape : s.reshaping (s.ctxidOf s.cur.1)
    ((s.proc? (s.ctxidOf s.cur.1)).map (fun p => p.vcs.map (fun v => v.1)) |>.getD []) = none)
include hqueue hshape

theorem remoteSettled_waitsFor : remoteSettled s =
    waitIf ((remoteClean s).curCore.rfcnt != 0 || (remoteClean s).remoteBusy) .remoteIdle (remoteClean s) := by
  rw [remoteSettled, M.bind_ok (queueOpen_ok hqueue), bind_get]
  simp only [hshape]
  rw [bind_modify, bind_get]
  rfl

theorem remoteSettled_ok (hcount : (remoteClean s).curCore.rfcnt = 0) (hidle : (remoteClean s).remoteBusy = false) :
    remoteSettled s = .ok () (remoteClean s) := by
  rw [remoteSettled_waitsFor hqueue hshape]
  exact waitIf_pass (remoteIdle_none hcount hidle)

end

theorem remoteFenceResult : RemoteFenceResult := by
  intro s ctxid t hqueue hshape
  have hsettled : t.curCore.rfcnt = 0 → t.remoteBusy = false → exec .rfence s = runInstr (deliver .rfence >>= fun _ => retire) t :=
    fun hcount hidle => runInstr_congr (M.bind_ok (remoteSettled_ok hqueue hshape hcount hidle))
  refine ⟨fun hcount hidle hnone => (hsettled hcount hidle).trans (runInstr_ok (deliver_retires hnone)),
    fun d hcount hidle hd => (hsettled hcount hidle).trans (deliver_raises hd),
    fun hopen => runInstr_wait (M.bind_error ((remoteSettled_waitsFor hqueue hshape).trans ?_))⟩
  exact waitIf_waits ((remoteIdle_iff t).2 hopen)

/-- Settles O35. -/
theorem fenceResults : Obligations.FenceResults := ⟨fenceResult, remoteFenceResult⟩

end Sys2Proof.Proofs.Fences
end

section
/-! PROOFS. Engine jobs: `cp`, `mcast` and their records (R162, R288, R289, R403). -/

namespace Sys2Proof.Proofs.CopyIssue

open Sys2Proof.Machine Sys2Proof.Spec Sys2Proof.Proofs.Sync Sys2Proof.Proofs.Operands Sys2Proof.Proofs.Fences
  Sys2Proof.Proofs.EventUnit

/-! ## The issue of a job (R162, R288) -/

theorem issueJob_ok {s : State} {q : Nat} (h : jobOpen s s.cur.1 q) (d : BitVec 5) (mk : State → Nat → Job) :
    issueJob d q mk s = .ok () (issued s q d mk) := by
  obtain ⟨hroom, hqueue⟩ := h
  rw [issueJob, bind_get, bind_waitIf_pass (congrArg (!·) hroom), M.bind_ok (queueOpen_ok hqueue), bind_modify, bind_get, bind_set]
  rfl

/-! ## Bit fields and records (R288) -/

theorem leNat_lt (bs : List Byte) : leNat bs < 256 ^ bs.length := by
  induction bs with
  | nil => exact Nat.one_pos
  | cons b bs ih =>
    have hb := b.isLt
    rw [leNat, List.length_cons, Nat.pow_succ]
    omega

theorem length_localRead_le (s : State) (c off n : Nat) : (s.localRead c off n).length ≤ n := by
  unfold State.localRead
  split
  · simp [Mem.getRange]
  · exact (List.length_take_le _ _)

theorem recordWord_lt (s : State) (off i : Nat) : recordWord s off i < 2 ^ 64 :=
  (leNat_lt _).trans_le ((Nat.pow_le_pow_right (by decide) (length_localRead_le _ _ _ 8)).trans (by decide))

/-- A word of the record, as the instruction takes it. -/
theorem record_getD (s : State) (off : Nat) {i : Nat} (hi : i < 4) :
    (s.record s.cur.1 off).getD i 0 = word (recordWord s off i) := by
  rw [State.record, List.getD_eq_getElem?_getD, List.getElem?_map, List.getElem?_range hi]
  rfl

theorem recordWord_toNat (s : State) (off i : Nat) : (word (recordWord s off i)).toNat = recordWord s off i := by
  rw [word, BitVec.toNat_ofNat, Nat.mod_eq_of_lt (recordWord_lt s off i)]

theorem bit_iff (v : Word) (i : Nat) : bit v i = true ↔ v.toNat / 2 ^ i % 2 = 1 := by
  rw [bit, ← BitVec.testBit_toNat, Nat.testBit_eq_decide_div_mod_eq, decide_eq_true_iff]

theorem b2n_bit (v : Word) (i : Nat) : b2n (bit v i) = v.toNat / 2 ^ i % 2 := by
  have hcases := Nat.mod_two_eq_zero_or_one (v.toNat / 2 ^ i)
  by_cases h : bit v i = true
  · rw [h, (bit_iff v i).1 h]
    rfl
  · have hzero := hcases.resolve_right fun h1 => h ((bit_iff v i).2 h1)
    rw [Bool.eq_false_iff.2 h, hzero]
    rfl

theorem recordAt_iff (v : Word) : recordAt v = true ↔ v.toNat % 8 = 0 ∧ v.toNat + 32 ≤ 0x40000 := by
  rw [recordAt, Bool.and_eq_true, beq_iff_eq, decide_eq_true_iff]

/-! ## `cp` (R288) -/

/-- The job of a `cp` whose record has the words `g`. -/
def copyJob (ctxid c : Nat) (g : Nat → Nat) (s : State) (seq : Nat) : Job :=
  { Job.new seq ctxid c .copy (g 2 / 2 ^ 55 % 256) with
    srch := s.indexHandle ctxid (g 0 / 2 ^ 48), srcoff := g 0 % 2 ^ 48, dsth := s.indexHandle ctxid (g 1 / 2 ^ 48),
    dstoff := g 1 % 2 ^ 48, rows := max (g 2 / 2 ^ 40 % 2 ^ 15) 1, len := g 2 % 2 ^ 40, sstride := g 3 / 2 ^ 32,
    dstride := g 3 % 2 ^ 32 }

/-- What `cp` does with a record that has the words `g`; `s` is the state that it was issued in. -/
def issueCopy (s : State) (d : BitVec 5) (g : Nat → Nat) : M Unit := do
  trapIf (!s.scopeOk (s.ctxidOf s.cur.1) (g 2 / 2 ^ 55 % 256)) Cause.cpRecord 2
  trapIf (2 ≤ g 2 / 2 ^ 40 % 2 ^ 15 && g 3 % 2 ^ 32 < g 2 % 2 ^ 40) Cause.cpRecord 3
  issueJob d (g 2 / 2 ^ 63 % 2) (copyJob (s.ctxidOf s.cur.1) s.cur.1 g)
  commitInstr (s.copyRollable (s.ctxidOf s.cur.1) (g 1 / 2 ^ 48))

section
variable {s : State} {d a : BitVec 5} (hblock : BlockOk s)
include hblock

theorem cp_misplaced (h : ¬ ((s.x a).toNat % 8 = 0 ∧ (s.x a).toNat + 32 ≤ 0x40000)) :
    Answers (.cp d a) s (raised (closed s) Cause.cpRecord 1) ∧ Answers (.mcast d a) s (raised (closed s) Cause.cpRecord 1) := by
  have hbad : (!recordAt (s.x a)) = true := congrArg (!·) (Bool.eq_false_iff.2 (mt (recordAt_iff _).1 h))
  exact ⟨runInstr_trap ((M.bind_ok (endBlock_ok hblock)).trans (M.bind_error (trapIf_traps hbad))),
    runInstr_trap ((M.bind_ok (endBlock_ok hblock)).trans (M.bind_error (trapIf_traps hbad)))⟩

variable (hal : (s.x a).toNat % 8 = 0) (hfits : (s.x a).toNat + 32 ≤ 0x40000)
include hal hfits

theorem exec_cp : exec (.cp d a) s = runInstr (issueCopy s d (recordWord s (s.x a).toNat)) (closed s) := by
  have hgood : (!recordAt (s.x a)) = false := congrArg (!·) ((recordAt_iff _).2 ⟨hal, hfits⟩)
  refine runInstr_congr ?_
  rw [M.bind_ok (endBlock_ok hblock)]
  refine (bind_trapIf_pass hgood).trans ?_
  simp only [Links.bits_bottom, fun v => Links.bits_top v (lo := 48) (by decide), fun v => Links.bits_top v (lo := 32) (by decide)]
  simp only [bits, b2n_bit, record_getD s (s.x a).toNat (show 0 < 4 by decide), record_getD s (s.x a).toNat (show 1 < 4 by decide),
    record_getD s (s.x a).toNat (show 2 < 4 by decide), record_getD s (s.x a).toNat (show 3 < 4 by decide), recordWord_toNat]
  rfl

theorem cp_noScope (h : s.scopeOk (s.ctxidOf s.cur.1) (recordWord s (s.x a).toNat 2 / 2 ^ 55 % 256) = false) :
    Answers (.cp d a) s (raised (closed s) Cause.cpRecord 2) :=
  (exec_cp hblock hal hfits).trans (runInstr_raises (M.bind_error (trapIf_traps (congrArg (!·) h))))

variable (hscope : s.scopeOk (s.ctxidOf s.cur.1) (recordWord s (s.x a).toNat 2 / 2 ^ 55 % 256) = true)
include hscope

theorem cp_overlaps (hrows : 2 ≤ recordWord s (s.x a).toNat 2 / 2 ^ 40 % 2 ^ 15)
    (hover : recordWord s (s.x a).toNat 3 % 2 ^ 32 < recordWord s (s.x a).toNat 2 % 2 ^ 40) :
    Answers (.cp d a) s (raised (closed s) Cause.cpRecord 3) := by
  refine (exec_cp hblock hal hfits).trans (runInstr_raises ?_)
  rw [issueCopy, bind_trapIf_pass (congrArg (!·) hscope)]
  exact M.bind_error (trapIf_traps (by rw [decide_eq_true hrows, decide_eq_true hover]; rfl))

theorem cp_issues (hapart : ¬ (2 ≤ recordWord s (s.x a).toNat 2 / 2 ^ 40 % 2 ^ 15 ∧
      recordWord s (s.x a).toNat 3 % 2 ^ 32 < recordWord s (s.x a).toNat 2 % 2 ^ 40))
    (hopen : jobOpen (closed s) s.cur.1 (recordWord s (s.x a).toNat 2 / 2 ^ 63 % 2)) :
    Answers (.cp d a) s (committed (issued (closed s) (recordWord s (s.x a).toNat 2 / 2 ^ 63 % 2) d
      (copyJob (s.ctxidOf s.cur.1) s.cur.1 (recordWord s (s.x a).toNat)))
      (s.copyRollable (s.ctxidOf s.cur.1) (recordWord s (s.x a).toNat 1 / 2 ^ 48))) := by
  rw [← cur_closed s] at hopen
  refine (exec_cp hblock hal hfits).trans (runInstr_ok ?_)
  rw [issueCopy, bind_trapIf_pass (congrArg (!·) hscope), bind_trapIf_pass (by simpa using hapart), M.bind_ok (issueJob_ok hopen _ _)]
  exact commitInstr_ok _ _

end

/-! ## `mcast` (R289, R403) -/

/-- The job of an `mcast` whose record has the words `g` and that holds an id slot. -/
def mcastJob (ctxid c : Nat) (g : Nat → Nat) (slot : Nat) (s : State) (seq : Nat) : Job :=
  { Job.new seq ctxid c (.mcast (g 1)) (g 2 / 2 ^ 55 % 256) with
    srch := s.indexHandle ctxid (g 0 / 2 ^ 48), srcoff := g 0 % 2 ^ 48, dstoff := g 3 % 2 ^ 18, len := g 2 % 2 ^ 40, rows := slot }

/-- Whether the destination mask names a core of another cluster without the bit for it, or one that is not of the gang. -/
def maskBad (s : State) (g : Nat → Nat) : Bool :=
  (!decide (g 2 / 2 ^ 54 % 2 = 1) && (onesOf (g 1) 64).any (fun i => i / 8 != s.cur.1 / 8 % 8)) ||
    (onesOf (g 1) 64).any (fun i => !(s.gang s.cur.1).contains (s.cur.1 / 64 * 64 + i))

/-- What `mcast` does with a record that has the words `g`; `s` is the state that it was issued in. -/
def issueMcast (s : State) (d : BitVec 5) (g : Nat → Nat) : M Unit := do
  trapIf (g 0 % 2 ^ 48 % 128 != 0 || g 2 % 2 ^ 40 % 128 != 0 || g 3 % 2 ^ 18 % 128 != 0 || g 2 % 2 ^ 40 == 0) Cause.cpRecord 1
  trapIf (g 2 / 2 ^ 40 % 2 ^ 14 != 0 || g 3 / 2 ^ 18 != 0 || !s.scopeOk (s.ctxidOf s.cur.1) (g 2 / 2 ^ 55 % 256) ||
    0x3F400 < g 3 % 2 ^ 18 + g 2 % 2 ^ 40) Cause.cpRecord 2
  trapIf (g 1 == 0 || maskBad s g) Cause.mcastMask (word (g 1))
  match searchUp (fun i => !(s.mcastSlots (s.cur.1 / 8)).contains i) 4 0 with
  | none => waitFor (.jobRoom (jobQueue s.cur.1 (g 2 / 2 ^ 63 % 2)))
  | some slot => do
    issueJob d (g 2 / 2 ^ 63 % 2) (mcastJob (s.ctxidOf s.cur.1) s.cur.1 g slot)
    commitInstr false

theorem maskBad_false {s : State} {g : Nat → Nat} (h : ∀ i ∈ onesOf (g 1) 64,
    (s.gang s.cur.1).contains (s.cur.1 / 64 * 64 + i) = true ∧ (g 2 / 2 ^ 54 % 2 = 1 ∨ i / 8 = s.cur.1 / 8 % 8)) :
    maskBad s g = false := by
  have hgang : (onesOf (g 1) 64).any (fun i => !(s.gang s.cur.1).contains (s.cur.1 / 64 * 64 + i)) = false :=
    List.any_eq_false.2 fun i hi => by rw [(h i hi).1]; decide
  have hcluster : (!decide (g 2 / 2 ^ 54 % 2 = 1) && (onesOf (g 1) 64).any (fun i => i / 8 != s.cur.1 / 8 % 8)) = false := by
    by_cases hone : g 2 / 2 ^ 54 % 2 = 1
    · rw [decide_eq_true hone]
      rfl
    · rw [List.any_eq_false.2 fun i hi => by rw [(h i hi).2.resolve_left hone, bne_self_eq_false]; decide, Bool.and_false]
  rw [maskBad, hgang, hcluster]
  rfl

theorem bit_eq_decide (v : Word) (i : Nat) : bit v i = decide (v.toNat / 2 ^ i % 2 = 1) := by
  rw [Bool.eq_iff_iff, decide_eq_true_iff]
  exact bit_iff v i

section
variable {s : State} {d a : BitVec 5} (hblock : BlockOk s) (hal : (s.x a).toNat % 8 = 0) (hfits : (s.x a).toNat + 32 ≤ 0x40000)
include hblock hal hfits

theorem exec_mcast : exec (.mcast d a) s = runInstr (issueMcast s d (recordWord s (s.x a).toNat)) (closed s) := by
  have hgood : (!recordAt (s.x a)) = false := congrArg (!·) ((recordAt_iff _).2 ⟨hal, hfits⟩)
  refine runInstr_congr ?_
  rw [M.bind_ok (endBlock_ok hblock)]
  refine (bind_trapIf_pass hgood).trans ?_
  simp only [Links.bits_bottom, fun v => Links.bits_top v (lo := 48) (by decide), fun v => Links.bits_top v (lo := 18) (by decide), b2n_bit]
  simp only [bits, bit_eq_decide, record_getD s (s.x a).toNat (show 0 < 4 by decide),
    record_getD s (s.x a).toNat (show 1 < 4 by decide), record_getD s (s.x a).toNat (show 2 < 4 by decide),
    record_getD s (s.x a).toNat (show 3 < 4 by decide), recordWord_toNat]
  simp only [issueMcast, maskBad, Bool.or_assoc]
  rfl

section
variable {g : Nat → Nat} (hg : g = recordWord s (s.x a).toNat) (hsrc : g 0 % 2 ^ 48 % 128 = 0) (hlen : g 2 % 2 ^ 40 % 128 = 0)
  (hdst : g 3 % 2 ^ 18 % 128 = 0) (hlen0 : g 2 % 2 ^ 40 ≠ 0) (hrsv : g 2 / 2 ^ 40 % 2 ^ 14 = 0) (hrsv' : g 3 / 2 ^ 18 = 0)
  (hscope : s.scopeOk (s.ctxidOf s.cur.1) (g 2 / 2 ^ 55 % 256) = true) (hin : g 3 % 2 ^ 18 + g 2 % 2 ^ 40 ≤ 0x3F400)
include hg hsrc hlen hdst hlen0 hrsv hrsv' hscope hin

/-- With a record in form only the mask and the room remain to be checked. -/
theorem mcast_formed : exec (.mcast d a) s = runInstr (do
    trapIf (g 1 == 0 || maskBad s g) Cause.mcastMask (word (g 1))
    match searchUp (fun i => !(s.mcastSlots (s.cur.1 / 8)).contains i) 4 0 with
    | none => waitFor (.jobRoom (jobQueue s.cur.1 (g 2 / 2 ^ 63 % 2)))
    | some slot => do
      issueJob d (g 2 / 2 ^ 63 % 2) (mcastJob (s.ctxidOf s.cur.1) s.cur.1 g slot)
      commitInstr false) (closed s) := by
  refine (exec_mcast hblock hal hfits).trans (runInstr_congr ?_)
  rw [← hg, issueMcast, bind_trapIf_pass (by rw [hsrc, hlen, hdst, beq_eq_false_iff_ne.2 hlen0]; rfl),
    bind_trapIf_pass (by rw [hrsv, hrsv', hscope, decide_eq_false (Nat.not_lt.2 hin)]; rfl)]

theorem mcast_noCore (hcores : g 1 = 0) : Answers (.mcast d a) s (raised (closed s) Cause.mcastMask 0) := by
  refine (mcast_formed hblock hal hfits hg hsrc hlen hdst hlen0 hrsv hrsv' hscope hin).trans (runInstr_raises (M.bind_error ?_))
  rw [hcores]
  rfl

theorem mcast_issues (hcores : g 1 ≠ 0) (hmask : ∀ i ∈ onesOf (g 1) 64, (s.gang s.cur.1).contains (s.cur.1 / 64 * 64 + i) = true ∧
      (g 2 / 2 ^ 54 % 2 = 1 ∨ i / 8 = s.cur.1 / 8 % 8)) (hopen : jobOpen (closed s) s.cur.1 (g 2 / 2 ^ 63 % 2)) {slot : Nat}
    (hslot : searchUp (fun i => !(s.mcastSlots (s.cur.1 / 8)).contains i) 4 0 = some slot) :
    Answers (.mcast d a) s (committed (issued (closed s) (g 2 / 2 ^ 63 % 2) d (mcastJob (s.ctxidOf s.cur.1) s.cur.1 g slot)) false) := by
  rw [← cur_closed s] at hopen
  have hgood := maskBad_false hmask
  refine (mcast_formed hblock hal hfits hg hsrc hlen hdst hlen0 hrsv hrsv' hscope hin).trans (runInstr_ok ?_)
  rw [bind_trapIf_pass (by rw [hgood, beq_eq_false_iff_ne.2 hcores]; rfl)]
  simp only [hslot]
  rw [M.bind_ok (issueJob_ok hopen _ _)]
  exact commitInstr_ok _ _

end

end

/-- Settles O38. -/
theorem copyIssueResult : Obligations.CopyIssueResult := by
  intro s d a hblock off t ctxid g scope q len
  refine ⟨fun hbad => cp_misplaced hblock hbad, ?_, ?_⟩
  · intro hal hfits rows
    exact ⟨cp_noScope hblock hal hfits, fun hscope hrows hover => cp_overlaps hblock hal hfits hscope hrows hover,
      fun hscope hapart hopen => cp_issues hblock hal hfits hscope hapart hopen⟩
  · intro hal hfits src dst cores hsrc hlen hdst hlen0 hrsv hrsv' hscope hin
    exact ⟨mcast_noCore hblock hal hfits rfl hsrc hlen hdst hlen0 hrsv hrsv' hscope hin,
      fun hcores hmask hopen slot hslot =>
        mcast_issues hblock hal hfits rfl hsrc hlen hdst hlen0 hrsv hrsv' hscope hin hcores hmask hopen hslot⟩

end Sys2Proof.Proofs.CopyIssue
end

section
/-! PROOFS. Waiting for jobs, joins, and migrations (R57, R290 to R292, R365). -/

namespace Sys2Proof.Proofs.Jobs

open Sys2Proof.Machine Sys2Proof.Spec Sys2Proof.Proofs.Sync Sys2Proof.Proofs.Operands Sys2Proof.Proofs.Fences
  Sys2Proof.Proofs.CopyIssue Sys2Proof.Proofs.LocalAccess

/-! ## Job ids (R162, R290) -/

/-- A job id names a queue of this core and a sequence number that it has issued, within half of the numbers. -/
theorem jobId_eq_some_iff (s : State) (c v q seq : Nat) : s.jobId c v = some (q, seq) ↔
    (v / 2 ^ 29 = c % 8 ∧ q = v / 2 ^ 28 % 2 ∧ seq = v % 2 ^ 28 ∧ seq ≠ 0 ∧
      ((s.core c).jobSeq q + 2 ^ 28 - seq) % 2 ^ 28 ≠ 0 ∧ ((s.core c).jobSeq q + 2 ^ 28 - seq) % 2 ^ 28 ≤ 2 ^ 27) := by
  rw [State.jobId]
  simp only [Bool.or_eq_true, bne_iff_ne, beq_iff_eq, decide_eq_true_eq]
  constructor
  · intro h
    split at h
    · cases h
    · next hno =>
      cases h
      simp only [not_or, not_not, Nat.not_lt] at hno
      obtain ⟨⟨⟨hcore, hseq⟩, hage⟩, hhalf⟩ := hno
      exact ⟨hcore, rfl, rfl, hseq, hage, hhalf⟩
  · rintro ⟨hcore, rfl, rfl, hseq, hage, hhalf⟩
    refine if_neg ?_
    simp only [not_or, not_not, Nat.not_lt]
    exact ⟨⟨⟨hcore, hseq⟩, hage⟩, hhalf⟩

section
variable {s : State} {v : Word} (hv : v.toNat < 2 ^ 32) (i : Instr)
include hv

theorem jobArg_names {r : Nat × Nat} (h : s.jobId s.cur.1 v.toNat = some r) : jobArg i v s = .ok r s := by
  rw [jobArg, M.bind_ok (needZeroA_ok i hv), bind_get]
  simp only [h]
  rfl

theorem jobArg_unknown (h : s.jobId s.cur.1 v.toNat = none) : jobArg i v s = .error (.trap Cause.jobId v 0 0) s := by
  rw [jobArg, M.bind_ok (needZeroA_ok i hv), bind_get]
  simp only [h]
  rfl

end

/-! ## `jwait` and `jpoll` (R290, R365) -/

theorem settleAt_ok {s : State} {scope : Nat} (h : acquiresNow s scope) : settleAt scope s = .ok () (s.acquire s.cur.1 scope) := by
  obtain ⟨hacq, hacked⟩ := h
  have hcleans : ((scope == 2 || scope == 3) && (s.acquire s.cur.1 scope).storesBusy) = false := by
    by_cases hs : scope = 2 ∨ scope = 3
    · rw [hacked hs, Bool.and_false]
    · simp [not_or.1 hs]
  rw [settleAt, M.bind_ok (acquireAt_ok hacq), cleansAcked, bind_get]
  exact waitIf_pass hcleans

section
variable {s : State} {d a : BitVec 5} (hv : (s.x a).toNat < 2 ^ 32)
include hv

theorem job_unknown (hid : s.jobId s.cur.1 (s.x a).toNat = none) :
    Answers (.jwait d a) s (raised s Cause.jobId (s.x a)) ∧ Answers (.jpoll d a) s (raised s Cause.jobId (s.x a)) :=
  ⟨runInstr_raises (M.bind_error (jobArg_unknown hv _ hid)), runInstr_raises (M.bind_error (jobArg_unknown hv _ hid))⟩

section
variable {q seq : Nat} (hid : s.jobId s.cur.1 (s.x a).toNat = some (q, seq))
include hid

/-- A job that its queue keeps no longer has completed. -/
theorem job_gone (hfind : s.findJob s.cur.1 q seq = none) (hnow : acquiresNow s 3) :
    Answers (.jwait d a) s ((s.acquire s.cur.1 3).setX d 0).retire ∧
      Answers (.jpoll d a) s ((s.acquire s.cur.1 3).setX d 1).retire := by
  constructor <;> refine runInstr_ok ((M.bind_ok (jobArg_names hv _ hid)).trans ?_) <;> simp only [hfind]
  · exact M.bind_ok (settleAt_ok hnow)
  · exact M.bind_ok (settleAt_ok hnow)

variable {j : Job} (hfind : s.findJob s.cur.1 q seq = some j)
include hfind

theorem job_running (hdone : j.done = false) : Answers (.jwait d a) s (waiting s (.job (jobQueue s.cur.1 q) seq)) ∧
    Answers (.jpoll d a) s (s.setX d 0).retire := by
  refine ⟨runInstr_wait ((M.bind_ok (jobArg_names hv _ hid)).trans ?_), runInstr_ok ((M.bind_ok (jobArg_names hv _ hid)).trans ?_)⟩
  · simp only [hfind, hdone]
    rfl
  · simp only [hfind, hdone]
    rfl

variable (hdone : j.done = true)
include hdone

theorem job_faults (hfault : j.fault ≠ 0) (hnew : j.reported = false) : Answers (.jwait d a) s
    (raised (s.reportJob s.cur.1 q seq) Cause.jobFault (word ((s.x a).toNat * 2 ^ 32 + j.faultH * 256 + j.fault))) := by
  have hreports : (j.fault != 0 && !j.reported) = true := by
    rw [bne_iff_ne.2 hfault, hnew]
    rfl
  refine runInstr_trap ((M.bind_ok (jobArg_names hv _ hid)).trans ?_)
  simp only [hfind, hdone]
  refine (bind_waitIf_pass rfl).trans ?_
  rw [if_pos hreports, bind_modify, bits_of_lt hv]
  rfl

theorem jwait_ends (hnow : acquiresNow s j.scope) (hquiet : j.fault = 0 ∨ j.reported = true) :
    Answers (.jwait d a) s ((s.acquire s.cur.1 j.scope).setX d (if j.fault = 0 then 0 else 1)).retire := by
  have hreports : ¬ ((j.fault != 0 && !j.reported) = true) := by
    rw [Bool.and_eq_true, bne_iff_ne, Bool.not_eq_true']
    rintro ⟨hfault, hnew⟩
    exact hquiet.elim hfault fun h => by rw [h] at hnew; cases hnew
  refine runInstr_ok ((M.bind_ok (jobArg_names hv _ hid)).trans ?_)
  simp only [hfind, hdone]
  refine (bind_waitIf_pass rfl).trans ?_
  rw [if_neg hreports]
  exact M.bind_ok (settleAt_ok hnow)

theorem jpoll_ends (hnow : acquiresNow s j.scope) :
    Answers (.jpoll d a) s ((s.acquire s.cur.1 j.scope).setX d (if j.fault = 0 then 1 else 2)).retire := by
  refine runInstr_ok ((M.bind_ok (jobArg_names hv _ hid)).trans ?_)
  simp only [hfind, hdone, if_true]
  exact M.bind_ok (settleAt_ok hnow)

end
end

/-! ## `cpjoin` (R292) -/

/-- The job of a join of the queues in `mask`. -/
def joinJob (c mask : Nat) (u : State) (seq : Nat) : Job :=
  let named := (onesOf mask 16).flatMap (fun n => u.jobsOf (c / 8) n)
  let upto := (List.range 16).map (fun n => match (u.jobsOf (c / 8) n).getLast? with
    | some j => j.seq + 1
    | none => 0)
  Job.new seq (u.ctxidOf c) c (.join mask upto) (joinScope (named.map (fun j => j.scope)))

section
variable {s : State} {d a : BitVec 5} (hv : (s.x a).toNat < 2 ^ 17)
include hv

theorem exec_cpjoin : exec (.cpjoin d a) s = runInstr (do
    trapIf ((s.x a).toNat % 2 ^ 16 == 0) Cause.cpJoin 0
    issueJob d ((s.x a).toNat / 2 ^ 16) (joinJob s.cur.1 ((s.x a).toNat % 2 ^ 16))
    retire) s := by
  have hq : bits (s.x a) 16 16 = (s.x a).toNat / 2 ^ 16 := Nat.mod_eq_of_lt (by omega)
  refine runInstr_congr ?_
  rw [M.bind_ok (needZeroA_ok _ hv), Links.bits_bottom, hq]
  rfl

theorem cpjoin_none (hmask : (s.x a).toNat % 2 ^ 16 = 0) : Answers (.cpjoin d a) s (raised s Cause.cpJoin 0) :=
  (exec_cpjoin hv).trans (runInstr_raises (M.bind_error (trapIf_traps (by rw [hmask]; rfl))))

theorem cpjoin_issues (hmask : (s.x a).toNat % 2 ^ 16 ≠ 0) (hopen : jobOpen s s.cur.1 ((s.x a).toNat / 2 ^ 16)) :
    Answers (.cpjoin d a) s (issued s ((s.x a).toNat / 2 ^ 16) d (joinJob s.cur.1 ((s.x a).toNat % 2 ^ 16))).retire := by
  refine (exec_cpjoin hv).trans (runInstr_ok ?_)
  rw [bind_trapIf_pass (beq_eq_false_iff_ne.2 hmask), M.bind_ok (issueJob_ok hopen _ _), retire_ok]

end

theorem jobWaitResult : JobWaitResult := by
  refine ⟨?_, jobId_eq_some_iff, ?_⟩
  · intro s d a hv c v
    refine ⟨job_unknown hv, fun q seq hid => ⟨job_gone hv hid, fun j hfind => ⟨job_running hv hid hfind, job_faults hv hid hfind,
      fun hdone hnow => ⟨jwait_ends hv hid hfind hdone hnow, jpoll_ends hv hid hfind hdone hnow⟩⟩⟩⟩
  · intro s d a hv mask q
    exact ⟨cpjoin_none hv, cpjoin_issues hv⟩

/-! ## `tmig` (R57, R291) -/

/-- The job of a migration of the map that `e` names. -/
def migrateJob (ctxid c : Nat) (e : Ent) (done : Bool) (_ : State) (seq : Nat) : Job :=
  { Job.new seq ctxid c (.migrate e.pmap) 0 with done := done }

/-- What a request for a move does at once, as `tmig` asks for it from state `v`; `s` is the state that it was issued in. -/
abbrev moveAsked (s v : State) (a : BitVec 5) (e : Ent) : Except Bad (Bool × State) :=
  v.requestMove (s.ctxidOf s.cur.1) e (decide ((s.x a).toNat % 2 = 1))
    (s.cur.1 / 8, jobQueue s.cur.1 ((s.x a).toNat / 2), v.curCore.jobSeq ((s.x a).toNat / 2))

section
variable {s u v : State} {d a : BitVec 5} {h : BitVec 4} {e0 e : Ent} (hh : h ≠ 0) (hv : (s.x a).toNat < 4)
  (hlive : checkEntry (s.hreg h.toNat) 0 ⟨[], 0, false, 0, false, .write⟩ s = .ok e0 u) (hwindow : e0.fmt ≠ 15)
  (hwrite : checkEntry (s.hreg h.toNat) 0 ⟨[rW], 0, false, 0, false, .write⟩ u = .ok e v) (htier : e.tier < 2)
  (hopen : jobOpen v s.cur.1 ((s.x a).toNat / 2))
include hh hv hlive hwindow hwrite htier hopen

/-- With its checks passed and room for its job, `tmig` makes its request. -/
theorem exec_tmig : exec (.tmig d a h) s = runInstr (do
    let r ← ofCheck (moveAsked s v a e)
    set r.2
    issueJob d ((s.x a).toNat / 2) (migrateJob (s.ctxidOf s.cur.1) s.cur.1 e r.1)
    retire) v := by
  obtain ⟨hroom, hqueue⟩ := hopen
  have hslow : bit (s.x a) 0 = decide ((s.x a).toNat % 2 = 1) := by
    rw [bit_eq_decide, pow_zero, Nat.div_one]
  have hq : bits (s.x a) 1 1 = (s.x a).toNat / 2 := Nat.mod_eq_of_lt (by omega)
  refine runInstr_congr ?_
  rw [M.bind_ok (needZeroA_ok _ hv), hslow, hq]
  refine (bind_trapIf_pass (beq_eq_false_iff_ne.2 hh)).trans ((M.bind_ok hlive).trans ?_)
  refine (bind_trapIf_pass (beq_eq_false_iff_ne.2 hwindow)).trans ((M.bind_ok hwrite).trans ?_)
  refine (bind_trapIf_pass (decide_eq_false (Nat.not_le.2 htier))).trans ((bind_get _ _).trans ?_)
  exact (bind_waitIf_pass (congrArg (!·) hroom)).trans (M.bind_ok (queueOpen_ok hqueue))

theorem tmig_issues {done : Bool} {t : State} (hr : moveAsked s v a e = .ok (done, t))
    (hopen' : jobOpen t t.cur.1 ((s.x a).toNat / 2)) : Answers (.tmig d a h) s
      (issued t ((s.x a).toNat / 2) d (migrateJob (s.ctxidOf s.cur.1) s.cur.1 e done)).retire := by
  refine (exec_tmig hh hv hlive hwindow hwrite htier hopen).trans (runInstr_ok ?_)
  rw [M.bind_ok (ofCheck_ok hr), bind_set, M.bind_ok (issueJob_ok hopen' _ _), retire_ok]

theorem tmig_unpaid {b : Bad} (hr : moveAsked s v a e = .error b) : Answers (.tmig d a h) s
    (v.takeTrap v.cur.1 v.cur.2 ⟨b.cause, b.eval, 0, b.preason, v.curCtx.pc⟩) :=
  (exec_tmig hh hv hlive hwindow hwrite htier hopen).trans (runInstr_trap (M.bind_error (ofCheck_error hr)))

end

/-- Pages that lie where they are asked for and do not move need no move. -/
theorem requestMove_there {v : State} {ctxid : Nat} {e : Ent} {toSlow : Bool} {job : Nat × Nat × Nat}
    (hrest : (v.mapRec ctxid e).transit = none) (htier : e.tier = if toSlow then 1 else 0) :
    v.requestMove ctxid e toSlow job = .ok (true, { v with maps := v.maps.put (v.mapKey ctxid e) (v.mapRec ctxid e) }) := by
  simp only [State.requestMove, hrest, htier, if_true]

theorem migrateResult : MigrateResult := by
  intro s u v d a h e0 e hh hv hlive hwindow hwrite htier toSlow q ctxid hopen r job
  refine ⟨fun done t hr hopen' => tmig_issues hh hv hlive hwindow hwrite htier hopen hr hopen',
    fun b hr => tmig_unpaid hh hv hlive hwindow hwrite htier hopen hr, ?_⟩
  rintro m rfl hrest hthere
  exact requestMove_there hrest (hthere.trans (by simp only [decide_eq_true_eq]))

/-- Settles O39. -/
theorem jobResult : Obligations.JobResult := ⟨jobWaitResult, migrateResult⟩

end Sys2Proof.Proofs.Jobs
end

section
/-! PROOFS. Queue objects of this device: `qpost`, `send`, `recv`, `qtry` and `rdq` (R137, R293 to R297). -/

namespace Sys2Proof.Proofs.QueueObjects

open Sys2Proof.Machine Sys2Proof.Spec Sys2Proof.Proofs.Sync Sys2Proof.Proofs.Operands Sys2Proof.Proofs.Fences
  Sys2Proof.Proofs.Atomics

/-! ## The shared checks (R293) -/

/-- The descriptor of the queue that an access names. -/
abbrev descOf (u : State) (acc : Acc) : QDesc := u.qdescAt (acc.homeAt 0) acc.ent.len

section
variable {s u : State} {acc : Acc}

theorem slotOffset_ok {v : Word} (hal : v.toNat % 64 = 0) (hfits : v.toNat + 64 ≤ 0x3F400) : slotOffset v s = .ok v.toNat s := by
  rw [slotOffset, bind_trapIf_pass (by rw [hal]; rfl), bind_trapIf_pass (decide_eq_false (Nat.not_lt.2 hfits))]
  rfl

theorem queueDesc_ok {kind : Nat} (hgood : (descOf u acc).bad = false) (helem : (descOf u acc).elem ≠ 3 ∨ kind = 3)
    (hkind : (descOf u acc).kind = if kind = 1 then 1 else 2) : queueDesc acc kind u = .ok (descOf u acc) u := by
  have htype : ((descOf u acc).bad || ((descOf u acc).elem == 3 && kind != 3)) = false := by
    rw [hgood, Bool.false_or]
    obtain h | rfl := helem
    · rw [beq_eq_false_iff_ne.2 h, Bool.false_and]
    · exact Bool.and_false _
  rw [queueDesc, bind_get]
  exact (bind_trapIf_pass htype).trans (bind_trapIf_pass (bne_eq_false_iff_eq.2 hkind))

theorem full_iff (q : QDesc) : q.full = true ↔ 2 ^ q.log2 ≤ q.count := decide_eq_true_iff

theorem full_false {q : QDesc} (h : q.count < 2 ^ q.log2) : q.full = false := decide_eq_false (Nat.not_le.2 h)

theorem qEval_eq (index : Nat) : qEval index = word (index * 2 ^ 48) := rfl

end

/-! ## The count of a message (R183)

A message that is counted changes what the core and its slices have sent and received, and nothing that the message is made of. -/

section
variable {β : Type} (g : State → β) (hjobs : ∀ (s : State) m, g { s with jobs := m } = g s)
  (hslices : ∀ (s : State) m, g { s with slices := m } = g s) (hpost : ∀ (s : State) i e, g (s.post i e) = g s)
include hjobs

theorem modJob_same (s : State) (n : Nat) (f : JobState → JobState) : g (s.modJob n f) = g s := by
  unfold State.modJob
  split
  · exact hjobs s _
  · rfl

include hslices hpost

theorem cutSlice_same (s : State) (n gen sl : Nat) : g (s.cutSlice n gen sl) = g s := by
  simp only [State.cutSlice]
  split
  · rfl
  · exact (hpost _ _ _).trans ((hslices _ _).trans (modJob_same g hjobs s n _))

theorem sliceRecv_same (s : State) (sl : Nat) (col : Bool) : g (s.sliceRecv sl col) = g s := by
  simp only [State.sliceRecv]
  split
  · exact hslices _ _
  · split
    · exact hslices _ _
    · split
      · exact (hslices _ _).trans (cutSlice_same g hjobs hslices hpost s _ _ _)
      · split
        · exact modJob_same g hjobs s _ _
        · exact hslices _ _

theorem countOwn_same (hsent : ∀ (s : State) c, g (s.countSent c) = g s) (s : State) (c : Nat) (h : Home) :
    g (s.countOwn c h) = g s := by
  unfold State.countOwn
  split
  · split
    · rfl
    · exact (sliceRecv_same g hjobs hslices hpost _ _ _).trans (hsent s c)
  · rfl

end

section
variable (s : State) (c : Nat) (h : Home)

/-- A core that counts a message keeps its registers and its generation. -/
theorem core_countSent (i : Nat) : ((s.countSent c).core i).snapGen = (s.core i).snapGen ∧
    ∀ f r, ((s.countSent c).core i).frameReg f r = (s.core i).frameReg f r := by
  by_cases hi : i = c
  · subst hi
    rw [State.countSent, State.core_modCore_same]
    exact ⟨rfl, fun _ _ => rfl⟩
  · rw [State.countSent, State.core_modCore_other _ _ _ _ hi]
    exact ⟨rfl, fun _ _ => rfl⟩

theorem countOwn_lmem : (s.countOwn c h).lmem = s.lmem :=
  countOwn_same (·.lmem) (fun _ _ => rfl) (fun _ _ => rfl) (fun _ _ _ => rfl) (fun _ _ => rfl) s c h

theorem countOwn_mySender : (s.countOwn c h).mySender = s.mySender :=
  countOwn_same (·.mySender) (fun _ _ => rfl) (fun _ _ => rfl) (fun _ _ _ => rfl) (fun _ _ => rfl) s c h

theorem countOwn_snapGen : (s.countOwn c h).curCore.snapGen = s.curCore.snapGen :=
  countOwn_same (·.curCore.snapGen) (fun _ _ => rfl) (fun _ _ => rfl) (fun _ _ _ => rfl)
    (fun s c => (core_countSent s c s.cur.1).1) s c h

theorem countOwn_localRead (i off n : Nat) : (s.countOwn c h).localRead i off n = s.localRead i off n := by
  have hregs : ∀ f r, ((s.countOwn c h).core i).frameReg f r = (s.core i).frameReg f r := fun f r =>
    countOwn_same (fun s => (s.core i).frameReg f r) (fun _ _ => rfl) (fun _ _ => rfl) (fun _ _ _ => rfl)
      (fun s c => (core_countSent s c i).2 f r) s c h
  simp only [State.localRead, countOwn_lmem, hregs]

end

/-! ## `qpost` (R294) -/

/-- The state of a `qpost` once its packet stands in its slot, is counted and is with the dispatcher. -/
def posted (s w : State) (acc : Acc) (q : QDesc) (off : Nat) : State :=
  let t := sent w s.cur.1 (s.ctxidOf s.cur.1) acc q off
  let task := s.curCore.task
  let v := { t with tasks := match t.tasks.look task with
    | some k => t.tasks.put task { k with children := k.children + 1 }
    | none => t.tasks }
  v.handPacket (s.ctxidOf s.cur.1) acc.ent.index q.prio
    ⟨q.tail, (w.countOwn s.cur.1 (acc.homeAt 0)).localWords s.cur.1 off, task, false⟩

section
variable {s u w : State} {d a : BitVec 5} {h : BitVec 4} {acc : Acc} (hblock : BlockOk s)
include hblock

section
variable (hready : queueReady s u a h [rS, rW] .write 1 acc)
include hready

theorem exec_qpost : exec (.qpost d a h) s = runInstr (do
    trapIf (descOf u acc).closed Cause.qClosed (qEval acc.ent.index)
    waitIf (descOf u acc).full (.queueRoom acc.ent.index)
    waitIf (4096 ≤ s.children s.curCore.task) .children
    slotPage acc ((descOf u acc).slot (descOf u acc).tail) .write
    modify (fun w => posted s w acc (descOf u acc) (s.x a).toNat)
    writeX d (word (descOf u acc).tail)
    commitInstr false) u := by
  obtain ⟨hhandle, hpeer, hal, hfits, hgood, helem, hkind⟩ := hready
  refine runInstr_congr ?_
  rw [M.bind_ok (endBlock_ok hblock), M.bind_ok hhandle, M.bind_ok (slotOffset_ok hal hfits)]
  simp only [hpeer]
  exact M.bind_ok (queueDesc_ok (kind := 1) hgood (.inl helem) hkind)

theorem qpost_closed (hclosed : (descOf u acc).closed = true) :
    Answers (.qpost d a h) s (raised u Cause.qClosed (word (acc.ent.index * 2 ^ 48))) :=
  (exec_qpost hblock hready).trans (runInstr_raises (M.bind_error (trapIf_traps hclosed)))

variable (hlive : (descOf u acc).closed = false)
include hlive

theorem qpost_full (hfull : 2 ^ (descOf u acc).log2 ≤ (descOf u acc).count) :
    Answers (.qpost d a h) s (waiting u (.queueRoom acc.ent.index)) := by
  refine (exec_qpost hblock hready).trans (runInstr_wait ?_)
  rw [bind_trapIf_pass hlive]
  exact M.bind_error (waitIf_waits ((full_iff _).2 hfull))

theorem qpost_posts (hroom : (descOf u acc).count < 2 ^ (descOf u acc).log2) (hchildren : s.children s.curCore.task < 4096)
    (hpage : slotPage acc ((descOf u acc).slot (descOf u acc).tail) .write u = .ok () w) :
    Answers (.qpost d a h) s
      (committed ((posted s w acc (descOf u acc) (s.x a).toNat).setX d (word (descOf u acc).tail)) false) := by
  refine (exec_qpost hblock hready).trans (runInstr_ok ?_)
  rw [bind_trapIf_pass hlive, bind_waitIf_pass (full_false hroom), bind_waitIf_pass (decide_eq_false (Nat.not_le.2 hchildren)),
    M.bind_ok hpage, bind_modify]
  exact (M.bind_ok (writeX_ok _ _ _)).trans (commitInstr_ok _ _)

end

/-! ## `send` (R295) -/

section
variable (hready : queueReady s u a h [rS, rW] .write 2 acc)
include hready

theorem exec_send : exec (.send a h) s = runInstr (do
    trapIf (descOf u acc).closed Cause.qClosed (qEval acc.ent.index)
    waitIf (descOf u acc).full (.queueRoom acc.ent.index)
    slotPage acc ((descOf u acc).slot (descOf u acc).tail) .write
    releaseAt 3
    modify (fun w => sent w s.cur.1 (s.ctxidOf s.cur.1) acc (descOf u acc) (s.x a).toNat)
    commitInstr false) u := by
  obtain ⟨hhandle, hpeer, hal, hfits, hgood, helem, hkind⟩ := hready
  refine runInstr_congr ?_
  rw [M.bind_ok (endBlock_ok hblock), M.bind_ok hhandle, M.bind_ok (slotOffset_ok hal hfits)]
  simp only [hpeer, sent, countOwn_localRead, countOwn_lmem, countOwn_mySender, countOwn_snapGen]
  exact M.bind_ok (queueDesc_ok (kind := 2) hgood (.inl helem) hkind)

theorem send_closed (hclosed : (descOf u acc).closed = true) :
    Answers (.send a h) s (raised u Cause.qClosed (word (acc.ent.index * 2 ^ 48))) :=
  (exec_send hblock hready).trans (runInstr_raises (M.bind_error (trapIf_traps hclosed)))

variable (hlive : (descOf u acc).closed = false)
include hlive

theorem send_full (hfull : 2 ^ (descOf u acc).log2 ≤ (descOf u acc).count) :
    Answers (.send a h) s (waiting u (.queueRoom acc.ent.index)) := by
  refine (exec_send hblock hready).trans (runInstr_wait ?_)
  rw [bind_trapIf_pass hlive]
  exact M.bind_error (waitIf_waits ((full_iff _).2 hfull))

theorem send_sends (hroom : (descOf u acc).count < 2 ^ (descOf u acc).log2)
    (hpage : slotPage acc ((descOf u acc).slot (descOf u acc).tail) .write u = .ok () w) (hrel : settled w 3) :
    Answers (.send a h) s
      (committed (sent (w.release w.cur.1 3) s.cur.1 (s.ctxidOf s.cur.1) acc (descOf u acc) (s.x a).toNat) false) := by
  refine (exec_send hblock hready).trans (runInstr_ok ?_)
  rw [bind_trapIf_pass hlive, bind_waitIf_pass (full_false hroom), M.bind_ok hpage, M.bind_ok (releaseAt_ok hrel), bind_modify]
  exact commitInstr_ok _ _

end
end

theorem queuePostResult : QueuePostResult := by
  refine ⟨?_, ?_⟩
  · intro s u w d a h acc hblock hready q task
    exact ⟨qpost_closed hblock hready, qpost_full hblock hready, qpost_posts hblock hready⟩
  · intro s u w a h acc hblock hready q
    exact ⟨send_closed hblock hready, send_full hblock hready, send_sends hblock hready⟩

/-! ## `recv` and `qtry` (R296) -/

/-- The message at the head of a queue of this device, and the state once it is taken. -/
abbrev headTaken (s w : State) (acc : Acc) (q : QDesc) : (Nat × List Byte × Nat) × State :=
  w.take64 (s.ctxidOf s.cur.1) acc.ent.index q (acc.homeAt 0) (parity w.curCore.snapGen)

/-- The state of `recv` once the message stands in local memory. -/
abbrev received (s w : State) (acc : Acc) (q : QDesc) (off : Nat) : State :=
  (headTaken s w acc q).2.putMsg s.cur.1 off (headTaken s w acc q).1.2.1 (headTaken s w acc q).1.2.2

section
variable {s u w : State} {d a : BitVec 5} {h : BitVec 4} {acc : Acc} (hblock : BlockOk s)
  (hready : queueReady s u a h [rS, rR] .read 2 acc) (try_ : Bool)
include hblock hready

theorem takeMsg_empty (hcount : (descOf u acc).count = 0) : takeMsg d a h try_ s = runInstr (do
    trapIf (descOf u acc).closed Cause.qClosed (qEval acc.ent.index)
    if try_ then writeX d 0 else waitFor (.queueMsg acc.ent.index)
    commitInstr false) u := by
  obtain ⟨hhandle, hpeer, hal, hfits, hgood, helem, hkind⟩ := hready
  refine runInstr_congr ?_
  rw [M.bind_ok (endBlock_ok hblock), M.bind_ok hhandle, M.bind_ok (slotOffset_ok hal hfits)]
  simp only [hpeer]
  refine (M.bind_ok (queueDesc_ok (kind := 2) hgood (.inl helem) hkind)).trans ?_
  exact congrFun (if_pos hcount) u

theorem takeMsg_takes (hcount : (descOf u acc).count ≠ 0)
    (hpage : slotPage acc ((descOf u acc).slot (descOf u acc).head) .read u = .ok () w) (hacq : acquirable w 3)
    (hacq' : acquirable (received s w acc (descOf u acc) (s.x a).toNat) 3) :
    takeMsg d a h try_ s = .next (committed (((received s w acc (descOf u acc) (s.x a).toNat).acquire
      (received s w acc (descOf u acc) (s.x a).toNat).cur.1 3).setX d
        (word ((if try_ then 2 ^ 63 else 0) + (headTaken s w acc (descOf u acc)).1.1))) false) := by
  obtain ⟨hhandle, hpeer, hal, hfits, hgood, helem, hkind⟩ := hready
  refine runInstr_ok ?_
  rw [M.bind_ok (endBlock_ok hblock), M.bind_ok hhandle, M.bind_ok (slotOffset_ok hal hfits)]
  simp only [hpeer]
  refine (M.bind_ok (queueDesc_ok (kind := 2) hgood (.inl helem) hkind)).trans ((congrFun (if_neg hcount) u).trans ?_)
  refine (M.bind_ok hpage).trans ((M.bind_ok (acquireOpen_ok hacq)).trans ((bind_get _ _).trans ((bind_set _ _ _).trans ?_)))
  exact (M.bind_ok (acquireAt_ok hacq')).trans ((M.bind_ok (writeX_ok _ _ _)).trans (commitInstr_ok _ _))

end

/-! ## `rdq` (R137, R297) -/

/-- The state of an `rdq` once it has reduced the message into its row. -/
def reduced (isMax isF32 : Bool) (d : BitVec 5) (xb : Nat) (index slot : Nat) (m : (Nat × List Byte × Nat) × State) : State :=
  let t := m.2
  let c := t.cur.1
  let tile := xb % 8
  let row := xb / 8 % 128
  let at_ := 64 * (xb / 2 ^ 10)
  let r := rdqRow isMax isF32 (t.rowBytes c tile row at_ 64) m.1.2.1
  let u := (t.putRow c tile row at_ r.1).latticeFlags c t.cur.2 r.2
  let v := if m.1.2.2 ≠ 0 then u.defer c t.cur.2 Cause.uncorrData (word (index * 2 ^ 48 + slot)) .lfence
    else if t.rowPoisoned c tile row at_ 64 = true then u.defer c t.cur.2 Cause.uncorrData 0 .lfence else u
  (v.setX d (v.x d + 1)).modCur Ctx.atRdq

theorem exec_rdq {i : Instr} {isMax : Bool} {d a b : BitVec 5} {h : BitVec 4}
    (hi : i = if isMax then .rdqMax d a b h else .rdqAdd d a b h) (s : State) : exec i s = rdq i isMax d a b h s := by
  cases isMax <;> subst hi <;> rfl

theorem putRow_cur (s : State) (c t row b : Nat) (bs : List Byte) : (s.putRow c t row b bs).cur = s.cur := by
  show (s.cowUnit c (256 + t)).cur = s.cur
  unfold State.cowUnit
  split
  · rfl
  · split
    · rfl
    · exact modJob_same (·.cur) (fun _ _ => rfl) s _ _

theorem latticeFlags_cur (s : State) (c i : Nat) (f : Flags5) : (s.latticeFlags c i f).cur = s.cur := by
  simp only [State.latticeFlags]
  split
  · rfl
  · split <;> rfl

theorem rdqCommit_ok (isMax isF32 : Bool) (d : BitVec 5) {xb : Word} (hxb : xb.toNat < 2 ^ 13) (index slot : Nat)
    (m : (Nat × List Byte × Nat) × State) : rdqCommit isMax isF32 d xb m.1.2.1 m.1.2.2 (hEval index slot) m.2 =
      .ok () (reduced isMax isF32 d xb.toNat index slot m) := by
  have hat : bits xb 12 10 = xb.toNat / 2 ^ 10 := Nat.mod_eq_of_lt (by omega)
  simp only [rdqCommit, hat, Links.bits_bottom, bne_iff_ne, latticeFlags_cur, putRow_cur]
  rfl

section
variable {s u w : State} {i : Instr} {isMax : Bool} {d a b : BitVec 5} {h : BitVec 4} {acc : Acc}
  (hi : i = if isMax then .rdqMax d a b h else .rdqAdd d a b h) (hblock : BlockOk s)
  (hhandle : queueHandle (s.hreg h.toNat) (h == 0) [rS, rR] .read (closed s) = .ok acc u) (hpeer : acc.peer? = none)
  (ha : (s.x a).toNat < 2 ^ 32) (hb : (s.x b).toNat < 2 ^ 13) (hgood : (descOf u acc).bad = false)
  (hkind : (descOf u acc).kind = 2) (helem : (descOf u acc).elem = 1 ∨ (descOf u acc).elem = 2)
include hi hblock hhandle hpeer ha hb hgood hkind helem

/-- With its checks passed an `rdq` compares its count with its target, and then looks at the queue. -/
theorem rdq_checked : exec i s = runInstr (do
    if (s.x a).toNat ≤ (s.x d).toNat then commitInstr false
    else if (descOf u acc).count = 0 then do
      trapIf (descOf u acc).closed Cause.qClosed (qEval acc.ent.index)
      rdqWait acc.ent.index
    else do
      waitIf (!s.curCore.latticeIdle) .lrow
      slotPage acc ((descOf u acc).slot (descOf u acc).head) .read
      let t ← get
      let m := headTaken s t acc (descOf u acc)
      set m.2
      rdqCommit isMax ((descOf u acc).elem == 1) d (s.x b) m.1.2.1 m.1.2.2
        (hEval acc.ent.index ((descOf u acc).slot (descOf u acc).head))) u := by
  have htype : ((descOf u acc).elem == 0 || (descOf u acc).elem == 3) = false := by
    obtain h | h := helem <;> rw [h] <;> rfl
  refine (exec_rdq hi s).trans (runInstr_congr ?_)
  rw [M.bind_ok (endBlock_ok hblock), M.bind_ok hhandle, M.bind_ok (needZeroA_ok _ ha), M.bind_ok (needZeroB_ok _ hb)]
  simp only [hpeer]
  exact (M.bind_ok (queueDesc_ok (kind := 3) hgood (.inr rfl) hkind)).trans (bind_trapIf_pass htype)

theorem rdq_complete (hdone : (s.x a).toNat ≤ (s.x d).toNat) : Answers i s (committed u false) := by
  refine (rdq_checked hi hblock hhandle hpeer ha hb hgood hkind helem).trans (runInstr_ok ?_)
  rw [if_pos hdone]
  exact commitInstr_ok _ _

variable (hmore : (s.x d).toNat < (s.x a).toNat)
include hmore

theorem rdq_waits (hcount : (descOf u acc).count = 0) (hlive : (descOf u acc).closed = false) :
    Answers i s (waiting (u.modCur Ctx.atRdq) (.queueMsg acc.ent.index)) := by
  refine (rdq_checked hi hblock hhandle hpeer ha hb hgood hkind helem).trans (runInstr_wait ?_)
  rw [if_neg (Nat.not_le.2 hmore), if_pos hcount, bind_trapIf_pass hlive]
  rfl

theorem rdq_reduces (hcount : (descOf u acc).count ≠ 0) (hidle : s.curCore.latticeIdle = true)
    (hpage : slotPage acc ((descOf u acc).slot (descOf u acc).head) .read u = .ok () w) :
    Answers i s (reduced isMax ((descOf u acc).elem == 1) d (s.x b).toNat acc.ent.index ((descOf u acc).slot (descOf u acc).head)
      (headTaken s w acc (descOf u acc))) := by
  refine (rdq_checked hi hblock hhandle hpeer ha hb hgood hkind helem).trans (runInstr_ok ?_)
  rw [if_neg (Nat.not_le.2 hmore), if_neg hcount, bind_waitIf_pass (congrArg (!·) hidle), M.bind_ok hpage, bind_get, bind_set]
  exact rdqCommit_ok _ _ _ hb _ _ _

end

theorem queueTakeResult : QueueTakeResult := by
  refine ⟨?_, ?_⟩
  · intro s u w d a h acc hblock hready q
    refine ⟨?takes, fun hcount hlive => ⟨(takeMsg_empty hblock hready false hcount).trans (runInstr_wait ?recvWaits),
        (takeMsg_empty hblock hready true hcount).trans (runInstr_ok ?qtryNone)⟩,
      fun hcount hclosed => (takeMsg_empty hblock hready false hcount).trans
        (runInstr_raises (M.bind_error (trapIf_traps hclosed)))⟩
    case takes =>
      intro hcount hpage m t hacq hacq'
      have hrecv := takeMsg_takes (d := d) hblock hready false hcount hpage hacq hacq'
      rw [if_neg (by decide), Nat.zero_add] at hrecv
      exact ⟨hrecv, takeMsg_takes hblock hready true hcount hpage hacq hacq'⟩
    case recvWaits => exact (bind_trapIf_pass hlive).trans rfl
    case qtryNone => exact (bind_trapIf_pass hlive).trans ((M.bind_ok (writeX_ok _ _ _)).trans (commitInstr_ok _ _))
  · intro s u w i isMax d a b h acc hi hblock hhandle hpeer ha hb q hgood hkind helem
    refine ⟨rdq_complete hi hblock hhandle hpeer ha hb hgood hkind helem,
      rdq_waits hi hblock hhandle hpeer ha hb hgood hkind helem, ?_⟩
    intro hmore hcount hidle hpage
    exact rdq_reduces hi hblock hhandle hpeer ha hb hgood hkind helem hmore hcount hidle hpage

/-- Settles O40. -/
theorem queueResult : Obligations.QueueResult := ⟨queuePostResult, queueTakeResult⟩

end Sys2Proof.Proofs.QueueObjects
end

section
/-! PROOFS. Supersteps, snapshots and rollbacks (R298 to R301). -/

namespace Sys2Proof.Proofs.SnapRecovery

open Sys2Proof.Machine Sys2Proof.Spec Sys2Proof.Proofs.Sync Sys2Proof.Proofs.Barriers Sys2Proof.Proofs.Supervisor
open Sys2Proof.Proofs.Operands hiding runInstr_congr
open Sys2Proof.Proofs.Fences hiding remoteSettled_ok

theorem detEval_comm (index detail : Nat) : word (detail * 2 ^ 32 + index * 2 ^ 48) = detEval index detail := by
  rw [detEval, Nat.add_comm]

/-! ## `sstep` (R298, R299) -/

/-- The context that issues waits for the superstep's generation of its gang barrier; no register is written when it is over. -/
def stepAwaiting (s : State) (index g : Nat) : State :=
  s.modCur (fun x => { x.setBar (some ⟨false, index, g, 0, true⟩) with wait := some (.barObject index g) })

/-- An arrival for a superstep at the barrier's generation counts and waits; a release of the barrier arms the gangs. -/
theorem arriveObject_steps {s : State} {e : Ent} {home : Home} {g : Nat} (h : g = (s.obar home).gen) :
    arriveObject e home g 0 true true s =
      .ok () (armed (stepAwaiting (committed (arrival s home) true) e.index g) home e.index g) := by
  rw [arriveObject, bind_get]
  simp only [if_true, objArrive_counts h, Bool.not_true]
  rw [M.bind_ok (trapIf_false _ _ _), bind_set, M.bind_ok (commitInstr_ok _ true)]
  simp only [armed, ← bne_iff_ne]
  rfl

theorem gangBarrier_missing {s : State} (h : s.curCore.gbar = 0) :
    gangBarrier s = .error (.trap Cause.hInvalid (word (6 * 2 ^ 32)) 0 0) s := by
  have heval : detEval 0 6 = word (6 * 2 ^ 32) := by rw [detEval, Nat.zero_mul, Nat.zero_add]
  rw [← heval]
  exact (bind_get _ _).trans (M.bind_error (trapIf_traps (beq_iff_eq.2 h)))

theorem deliverAny_none {s : State} (h : s.curCtx.deferred = []) : deliverAny s = .ok () s := by
  rw [deliverAny, bind_get, h]
  rfl

/-- The state in which an `sstep` arrives at its barrier: released and written back, with the record of the superstep still to
come. -/
def stepReady (u : State) (scope : Nat) : State :=
  ((u.release u.cur.1 scope).writeBackAll (u.release u.cur.1 scope).cur.1).modCurCore (fun k => { k with stepNew := true })

section
variable {s u : State} {e : Ent} {home : Home} (hblock : BlockOk s)
include hblock

theorem sstep_withoutBarrier (h : s.curCore.gbar = 0) :
    Answers .sstep s (raised (closed s) Cause.hInvalid (word (6 * 2 ^ 32))) := by
  have hgbar : (closed s).curCore.gbar = s.curCore.gbar := by
    unfold closed
    split
    · rw [State.curCore_modCur]
      rfl
    · rfl
  exact runInstr_trap ((M.bind_ok (endBlock_ok hblock)).trans (M.bind_error (gangBarrier_missing (hgbar.trans h))))

theorem sstep_arrives (hgang : gangBarrier (closed s) = .ok (e, home) (closed s)) (hremote : remoteSettled (closed s) = .ok () u)
    (hidle : u.curCore.latticeIdle = true) (hnone : u.curCtx.deferred = []) (hset : settled u (u.obar home).scope)
    (hg : (stepReady u (u.obar home).scope).curCore.sstepG = ((stepReady u (u.obar home).scope).obar home).gen) :
    let v := stepReady u (u.obar home).scope
    Answers .sstep s (armed (stepAwaiting (committed (arrival v home) true) e.index v.curCore.sstepG) home e.index v.curCore.sstepG) := by
  refine runInstr_ok ((M.bind_ok (endBlock_ok hblock)).trans ((M.bind_ok hgang).trans ((M.bind_ok hremote).trans
    ((bind_get _ _).trans ((bind_waitIf_pass (congrArg (!·) hidle)).trans ((M.bind_ok (deliverAny_none hnone)).trans
    ((M.bind_ok (releaseAt_ok hset)).trans ((bind_modify _ _ _).trans ((bind_get _ _).trans (arriveObject_steps hg))))))))))

end

/-! ## `snap` (R300, R414) -/

/-- The core that executes a `snap` is cut as it retires. -/
def cutNow (s : State) (c : Nat) : State := match s.pendingCut c with
  | some (n, m) => s.cutAt (niEndpoint (c / 8)) n m.gen
  | none => s

section
variable {s u : State} {d : BitVec 5} {h : BitVec 4} {a : Acc} {j : JobState} {n : Nat} (hblock : BlockOk s)
  (hacc : jobAccess h (closed s) = .ok (a, j, n) u)
include hblock hacc

theorem snap_otherJob (hdev : j.devmask.testBit s.devId = false) :
    Answers (.snap d h) s (raised u Cause.hInvalid (word (8 * 2 ^ 32 + a.ent.index * 2 ^ 48))) := by
  rw [detEval_comm]
  exact runInstr_trap ((M.bind_ok (endBlock_ok hblock)).trans ((M.bind_ok hacc).trans
    (M.bind_error (trapIf_traps (congrArg (!·) hdev)))))

variable (hdev : j.devmask.testBit s.devId = true)
include hdev

theorem snap_underway (hphase : (u.jobWord j 1).toNat % 4 ≠ 0) :
    Answers (.snap d h) s (committed (u.setX d (word ((u.jobWord j 0).toNat % 2 ^ 32))) false) := by
  have hbits : bits (u.jobWord j 1) 1 0 ≠ 0 := (Links.bits_bottom _ 1).trans_ne hphase
  rw [← Links.bits_bottom _ 31]
  exact runInstr_ok ((M.bind_ok (endBlock_ok hblock)).trans ((M.bind_ok hacc).trans
    ((bind_trapIf_pass (congrArg (!·) hdev)).trans ((bind_get _ _).trans ((congrFun (if_neg hbits) u).trans
    ((M.bind_ok (writeX_ok _ _ _)).trans (commitInstr_ok _ false)))))))

theorem snap_starts (hphase : (u.jobWord j 1).toNat % 4 = 0) :
    Answers (.snap d h) s (committed (cutNow ((u.startSnap n j.ctxid j.handle a.ent u.cur.1).setX d
      (word (2 ^ 32 + ((u.jobWord j 0).toNat % 2 ^ 32 + 1) % 2 ^ 32))) u.cur.1) false) := by
  have hbits : bits (u.jobWord j 1) 1 0 = 0 := (Links.bits_bottom _ 1).trans hphase
  rw [← Links.bits_bottom _ 31]
  exact runInstr_ok ((M.bind_ok (endBlock_ok hblock)).trans ((M.bind_ok hacc).trans
    ((bind_trapIf_pass (congrArg (!·) hdev)).trans ((bind_get _ _).trans ((congrFun (if_pos hbits) u).trans
    ((bind_modify _ _ _).trans ((M.bind_ok (writeX_ok _ _ _)).trans ((bind_modify _ _ _).trans (commitInstr_ok _ false)))))))))

end

/-! ## `snapst` (R300) -/

/-- The last failure of a job, as `snapst` reads it. -/
def lastFailOf (u : State) (n : Nat) : Nat := match u.jobs.look n with
  | some k => k.lastFail
  | none => 0

section
variable {s u : State} {d : BitVec 5} {h : BitVec 4} {a : Acc} {j : JobState} {n : Nat} (hacc : jobAccess h s = .ok (a, j, n) u)
include hacc

theorem snapst_writes (q : BitVec 2) (hq : q.toNat < 2) :
    Answers (.snapst d q h) s (u.setX d (if q = 0 then u.jobWord j 0 else
      word (bits (u.jobWord j 1) 47 32 * 2 ^ 48 + lastFailOf u n * 16 + bits (u.jobWord j 1) 1 0))).retire :=
  runInstr_ok ((bind_trapIf_pass (decide_eq_false (Nat.not_le.2 hq))).trans ((M.bind_ok hacc).trans
    ((bind_get _ _).trans ((M.bind_ok (writeX_ok _ _ _)).trans (retire_ok _)))))

theorem snapst_generation : Answers (.snapst d 0 h) s (u.setX d (u.jobWord j 0)).retire :=
  snapst_writes hacc 0 (by decide)

theorem snapst_manifest : Answers (.snapst d 1 h) s (u.setX d
    (word ((u.jobWord j 1).toNat / 2 ^ 32 % 2 ^ 16 * 2 ^ 48 + lastFailOf u n * 16 + (u.jobWord j 1).toNat % 4))).retire := by
  have hphase : bits (u.jobWord j 1) 1 0 = (u.jobWord j 1).toNat % 4 := Links.bits_bottom _ 1
  rw [← hphase]
  exact snapst_writes hacc 1 (by decide)

end

theorem snapst_reserved (s : State) (d : BitVec 5) (q : BitVec 2) (h : BitVec 4) (hq : 2 ≤ q.toNat) :
    Answers (.snapst d q h) s (raised s Cause.illRsv (word (encode (.snapst d q h)).toNat)) := by
  rw [← ControlRegisters.wordEval_zero]
  exact runInstr_raises (M.bind_error (trapIf_traps (decide_eq_true hq)))

/-! ## `rollbk` (R301) -/

/-- Who asks for a rollback: the context that issues. -/
abbrev asker (u : State) : Nat := u.cur.1 * 16 + u.cur.2

/-- The record of the job that `rollbk` looks at. -/
abbrev jobNow (u : State) (n : Nat) (j : JobState) : JobState := (u.jobs.look n).getD j

/-- No rollback is open when the one that is noted, if any, waits for no device. -/
theorem noneOpen {roll : Option (Nat × Nat × Nat)} (hover : ∀ r, roll = some r → r.2.2 = 0) :
    roll.any (fun r => r.2.2 != 0) = false := by
  rcases roll with _ | r
  · rfl
  · exact bne_eq_false_iff_eq.2 (hover r rfl)

section
variable {s u : State} {a : BitVec 5} {h : BitVec 4} {acc : Acc} {j : JobState} {n : Nat} (hsup : s.curCtx.sup = true)
  (ha : (s.x a).toNat < 2 ^ 32) (hacc : jobAccess h s = .ok (acc, j, n) u)
include hsup ha hacc

theorem rollbk_done (hroll : (jobNow u n j).roll = some (asker u, (s.x a).toNat, 0)) :
    Answers (.rollbk a h) s (u.modJob n (fun j => { j with roll := none })).retire := by
  rw [← bits_of_lt (hi := 31) ha] at hroll
  exact runInstr_ok ((M.bind_ok (privileged_ok _ hsup)).trans ((M.bind_ok (needZeroA_ok _ ha)).trans ((M.bind_ok hacc).trans
    ((bind_get _ _).trans ((congrFun (if_pos hroll) u).trans ((bind_modify _ _ _).trans (retire_ok _)))))))

/-- A `rollbk` that is not over goes on with its waits and checks. -/
theorem exec_rollbk (hroll : (jobNow u n j).roll ≠ some (asker u, (s.x a).toNat, 0)) :
    exec (.rollbk a h) s = runInstr (do
      waitIf ((jobNow u n j).roll.any (fun r => r.2.2 != 0)) .restart
      trapIf (!u.onChain (jobNow u n j) (s.x a).toNat) Cause.hInvalid (detEval acc.ent.index 7)
      modify (fun t => t.startRollback n j (asker u) (s.x a).toNat)
      waitFor .restart) u := by
  have hbits := bits_of_lt (hi := 31) ha
  rw [← hbits] at hroll ⊢
  exact runInstr_congr ((M.bind_ok (privileged_ok _ hsup)).trans ((M.bind_ok (needZeroA_ok _ ha)).trans ((M.bind_ok hacc).trans
    ((bind_get _ _).trans (congrFun (if_neg hroll) u)))))

theorem rollbk_waits {r : Nat × Nat × Nat} (hr : (jobNow u n j).roll = some r) (hleft : r.2.2 ≠ 0) :
    Answers (.rollbk a h) s (waiting u .restart) := by
  have hroll : (jobNow u n j).roll ≠ some (asker u, (s.x a).toNat, 0) := by
    rw [hr]
    rintro ⟨rfl⟩
    exact hleft rfl
  have hopen : (jobNow u n j).roll.any (fun r => r.2.2 != 0) = true := by
    rw [hr]
    exact bne_iff_ne.2 hleft
  exact (exec_rollbk hsup ha hacc hroll).trans (runInstr_wait (M.bind_error (waitIf_waits hopen)))

variable (hroll : (jobNow u n j).roll ≠ some (asker u, (s.x a).toNat, 0)) (hover : ∀ r, (jobNow u n j).roll = some r → r.2.2 = 0)
include hroll hover

theorem rollbk_offChain (hchain : u.onChain (jobNow u n j) (s.x a).toNat = false) :
    Answers (.rollbk a h) s (raised u Cause.hInvalid (word (7 * 2 ^ 32 + acc.ent.index * 2 ^ 48))) := by
  rw [detEval_comm]
  exact (exec_rollbk hsup ha hacc hroll).trans (runInstr_trap ((bind_waitIf_pass (noneOpen hover)).trans
    (M.bind_error (trapIf_traps (congrArg (!·) hchain)))))

theorem rollbk_begins (hchain : u.onChain (jobNow u n j) (s.x a).toNat = true) :
    Answers (.rollbk a h) s (waiting (u.startRollback n j (asker u) (s.x a).toNat) .restart) :=
  (exec_rollbk hsup ha hacc hroll).trans (runInstr_wait ((bind_waitIf_pass (noneOpen hover)).trans
    ((bind_trapIf_pass (congrArg (!·) hchain)).trans (bind_modify _ _ _))))

end

/-- Settles O41: `sstep` is an arrival at the gang barrier, and `snap`, `snapst` and `rollbk` act on the job that their handle names. -/
theorem recoveryResult : Obligations.RecoveryResult :=
  ⟨fun _ hblock => ⟨sstep_withoutBarrier hblock, fun _ _ _ hgang hremote hidle hnone hset hg =>
      sstep_arrives hblock hgang hremote hidle hnone hset hg⟩,
    fun _ _ _ _ _ _ _ hblock hacc => ⟨snap_otherJob hblock hacc, snap_underway hblock hacc, snap_starts hblock hacc⟩,
    fun _ _ _ _ _ _ _ hacc => ⟨snapst_generation hacc, snapst_manifest hacc⟩,
    snapst_reserved,
    fun _ _ _ _ _ _ _ hsup ha hacc => ⟨rollbk_done hsup ha hacc, fun _ => rollbk_waits hsup ha hacc,
      fun hroll hover => ⟨rollbk_offChain hsup ha hacc hroll hover, rollbk_begins hsup ha hacc hroll hover⟩⟩⟩

end Sys2Proof.Proofs.SnapRecovery
end

section
/-! PROOFS. The drain of a write queue leaves the context that issues in place. -/

namespace Sys2Proof.Proofs.IssuerKept

open Sys2Proof.Machine Sys2Proof.Proofs.QueueObjects

/-- What leaves the issuing context alone at every element of a list does so over the list. -/
theorem foldl_cur {α : Type} {f : State → α → State} (h : ∀ s a, (f s a).cur = s.cur) (l : List α) (s : State) :
    (l.foldl f s).cur = s.cur := by
  induction l generalizing s with
  | nil => rfl
  | cons a l ih => exact (ih _).trans (h s a)

/-- A change that is made or left out leaves the issuing context alone when both branches do. -/
theorem ite_cur {c : Prop} [Decidable c] {s t u : State} (ht : t.cur = s.cur) (hu : u.cur = s.cur) :
    (if c then t else u).cur = s.cur := by
  split
  · exact ht
  · exact hu

section
variable (s : State)

/-! ## L1 copies and the lines of a virtual cache (R169, R171) -/

@[simp] theorem spoilFills_cur (who : Nat → Bool) (sel : CLine → Bool) : (s.spoilFills who sel).cur = s.cur := ite_cur rfl rfl

@[simp] theorem spoilCtx_cur (ctxid : Nat) (sel : CLine → Bool) : (s.spoilCtx ctxid sel).cur = s.cur := spoilFills_cur s _ _

@[simp] theorem wakeCtx_cur (c i : Nat) : (s.wakeCtx c i).cur = s.cur := ite_cur (ite_cur rfl rfl) rfl

@[simp] theorem wakeCore_cur (c : Nat) : (s.wakeCore c).cur = s.cur := ite_cur (foldl_cur (fun t => wakeCtx_cur t c) _ s) rfl

@[simp] theorem l1Drop_cur (c la : Nat) : (s.l1Drop c la).cur = s.cur := by
  simp only [State.l1Drop]
  exact ite_cur (by simp) (by simp)

@[simp] theorem l1DropClusters_cur (ctxid la holders except_ : Nat) :
    (s.l1DropClusters ctxid la holders except_).cur = s.cur :=
  foldl_cur (fun t _ => ite_cur rfl (foldl_cur (fun u c => ite_cur (l1Drop_cur u c la) rfl) _ t)) _ s

@[simp] theorem modProc_cur (ctxid : Nat) (f : Proc → Proc) : (s.modProc ctxid f).cur = s.cur := by
  unfold State.modProc
  split <;> rfl

@[simp] theorem modVc_cur (ctxid v : Nat) (f : Vc → Vc) : (s.modVc ctxid v f).cur = s.cur := modProc_cur s ctxid _

@[simp] theorem evicted_cur (ctxid v : Nat) (w : CLine) : (s.evicted ctxid v w).cur = s.cur := by
  simp [State.evicted]

/-! ## What a write does to the snapshots (R184, R187, R188) -/

@[simp] theorem modJob_cur (n : Nat) (f : JobState → JobState) : (s.modJob n f).cur = s.cur :=
  modJob_same (·.cur) (fun _ _ => rfl) s n f

@[simp] theorem modSnap_cur (n gen : Nat) (f : Snap → Snap) : (s.modSnap n gen f).cur = s.cur := modJob_cur s n _

@[simp] theorem cutSlice_cur (n gen sl : Nat) : (s.cutSlice n gen sl).cur = s.cur :=
  cutSlice_same (·.cur) (fun _ _ => rfl) (fun _ _ => rfl) (fun _ _ _ => rfl) s n gen sl

@[simp] theorem cowPageIn_cur (pick : Snap → Bool) (key : Nat) : (s.cowPageIn pick key).cur = s.cur :=
  ite_cur rfl (ite_cur rfl rfl)

@[simp] theorem cowPage_cur (key : Nat) : (s.cowPage key).cur = s.cur := cowPageIn_cur s _ key

@[simp] theorem crossPage_cur (key : Nat) (bs : List Byte) (mask : Nat) : (s.crossPage key bs mask).cur = s.cur :=
  ite_cur rfl rfl

@[simp] theorem markPage_cur (key : Nat) : (s.markPage key).cur = s.cur := ite_cur rfl rfl

@[simp] theorem listPage_cur (n gen key : Nat) : (s.listPage n gen key).cur = s.cur := by
  simp only [State.listPage]
  split
  · rfl
  · exact modSnap_cur s _ _ _

@[simp] theorem listCrossed_cur (n gen key : Nat) : (s.listCrossed n gen key).cur = s.cur := by
  simp only [State.listCrossed]
  split
  · rfl
  · split
    · rfl
    · exact ite_cur rfl (modSnap_cur s _ _ _)

@[simp] theorem noteWrite_cur (sl : Option Nat) (key : Nat) (bs : List Byte) (mask : Nat) :
    (s.noteWrite sl key bs mask).cur = s.cur := by
  unfold State.noteWrite
  refine ite_cur rfl ?_
  split
  · simp
  · next k n m _ =>
    have hcut : (if s.colour = some (parity m.gen) then s.cutSlice n m.gen k else s).cur = s.cur :=
      ite_cur (cutSlice_cur s _ _ _) rfl
    exact ite_cur (by simp) (ite_cur (by simpa using hcut) (ite_cur (by simpa using hcut) (by simpa using hcut)))

/-! ## Messages that a write sends (R27, R37, R52) -/

@[simp] theorem audit_cur (kind src at_ : Nat) (addr : Word) : (s.audit kind src at_ addr).cur = s.cur :=
  ite_cur rfl (ite_cur rfl rfl)

@[simp] theorem stamp_cur (m : Msg) : (s.stamp m).2.cur = s.cur := ite_cur rfl rfl

@[simp] theorem inject_cur (m : Msg) : (s.inject m).cur = s.cur := ite_cur (audit_cur s _ _ _ _) (stamp_cur s m)

@[simp] theorem newTag_cur (c : Nat) : (s.newTag c).2.cur = s.cur := rfl

@[simp] theorem sendRemote_cur (dev core ctx : Nat) (load atomic : Bool) (handle off : Nat) (m : Msg) :
    (s.sendRemote dev core ctx load atomic handle off m).cur = s.cur := by
  unfold State.sendRemote
  extract_lets p m1 held r t u
  have hcounted : u.cur = s.cur := ite_cur (t := s.countSent core) rfl rfl
  exact ite_cur hcounted ((inject_cur u m1).trans hcounted)

@[simp] theorem sendPeerWrite_cur (ctxid sep dev rctx rhnd page off : Nat) (bs : List Byte) (mask pz : Nat) :
    (s.sendPeerWrite ctxid sep dev rctx rhnd page off bs mask pz).cur = s.cur :=
  foldl_cur (fun t _ => ite_cur rfl (by simp)) _ s

/-! ## A write that reaches home (R52, R58, R179) -/

@[simp] theorem homePoke_cur (h : Home) (bs : List Byte) (mask : Nat) : (s.homePoke h bs mask).cur = s.cur := by
  cases h with
  | mem key =>
    simp only [State.homePoke]
    refine (foldl_cur (fun t k => ?_) _ _).trans (ite_cur (noteWrite_cur s _ key bs mask) rfl)
    exact ite_cur rfl rfl
  | host a => exact ite_cur rfl rfl
  | peer dev rctx rhnd page off => exact sendPeerWrite_cur s _ _ _ _ _ _ _ _ _ _
  | gone => rfl

@[simp] theorem homeStore_cur (h : Home) (bs : List Byte) (mask : Nat) : (s.homeStore h bs mask).cur = s.cur := by
  unfold State.homeStore
  split <;> exact homePoke_cur s _ _ _

@[simp] theorem markHome_cur (h : Home) (pz : Nat) : (s.markHome h pz).cur = s.cur := by
  cases h with
  | mem key =>
    refine foldl_cur (fun t i => ?_) _ s
    rfl
  | host a => rfl
  | peer dev rctx rhnd page off => rfl
  | gone => rfl

/-- An access that the host aborts only defers its cause. -/
theorem unlessDenied_cur (who : Nat × Nat) (h : Home) {f : State → State} (hf : ∀ t, (f t).cur = t.cur) :
    (s.unlessDenied who h f).cur = s.cur :=
  ite_cur rfl (hf s)

@[simp] theorem homeStoreBy_cur (ctxid sep : Nat) (h : Home) (bs : List Byte) (mask pz : Nat) :
    (s.homeStoreBy ctxid sep h bs mask pz).cur = s.cur := by
  unfold State.homeStoreBy
  split
  · exact sendPeerWrite_cur s _ _ _ _ _ _ _ _ _ _
  · exact unlessDenied_cur s _ _ fun t => (markHome_cur _ h pz).trans (homeStore_cur t h bs mask)

/-! ## A path: stores, cleans and invalidations (R171, R178, R359) -/

@[simp] theorem storeAt_cur (ctxid cl src la : Nat) (home : Home) (bs : List Byte) (mask pz : Nat) (path : List Nat) :
    (storeAt ctxid cl src la home bs mask pz path s).cur = s.cur := by
  induction path generalizing cl src la home bs mask pz s with
  | nil => exact homeStoreBy_cur s _ _ _ _ _ _
  | cons v up ih =>
    unfold storeAt
    split
    · exact ih s _ _ _ _ _ _ _
    · simp only
      split
      · simp
      · rw [modVc_cur, evicted_cur]
        exact ite_cur (by simp) ((ih _ _ _ _ _ _ _ _).trans (by simp))

@[simp] theorem cleanVcTo_cur (ctxid v : Nat) (up : List Nat) (sel : CLine → Bool) :
    (s.cleanVcTo ctxid v up sel).cur = s.cur := by
  unfold State.cleanVcTo
  split
  · rfl
  · rw [modVc_cur]
    exact (foldl_cur (fun t l => storeAt_cur t _ _ _ _ _ _ _ _ _) _ _).trans (ite_cur rfl (spoilCtx_cur s _ _))

@[simp] theorem cleanVc_cur (ctxid v : Nat) (sel : CLine → Bool) : (s.cleanVc ctxid v sel).cur = s.cur := by
  unfold State.cleanVc
  split
  · rfl
  · exact cleanVcTo_cur s _ _ _ _

/-! ## The write queue (R183, R252) -/

theorem coloured_cur (c ctxid leaf la : Nat) {f : State → State} (hf : ∀ t, (f t).cur = t.cur) :
    (s.coloured c ctxid leaf la f).cur = s.cur := by
  unfold State.coloured
  split
  · exact hf s
  · exact (foldl_cur (fun t v => cleanVc_cur t ctxid v _) _ _).trans (hf _)

/-- An entry is performed for its own context, and the context that issues is put back. -/
@[simp] theorem performWq_cur (c : Nat) (w : WqEntry) : (s.performWq c w).cur = s.cur :=
  coloured_cur s _ _ _ _ fun _ => rfl

@[simp] theorem drainOne_cur (c : Nat) : (s.drainOne c).cur = s.cur := by
  unfold State.drainOne
  split
  · rfl
  · exact performWq_cur _ _ _

@[simp] theorem drainN_cur (c n : Nat) : (drainN c n s).cur = s.cur := by
  induction n generalizing s with
  | zero => rfl
  | succ n ih => exact (ih _).trans (drainOne_cur s c)

@[simp] theorem drainThrough_cur (c : Nat) (p : WqEntry → Bool) : (s.drainThrough c p).cur = s.cur := drainN_cur s c _

end

/-- The tables are brought up to date for the context that issues, which goes on issuing. -/
theorem current_cur (s : State) : (Sys2Proof.Spec.current s).cur = s.cur := drainThrough_cur s _ _

end Sys2Proof.Proofs.IssuerKept
end

section
/-! PROOFS. How matrix work and weight loads enter the lattice queue, and `lmode` and `lfence` (R227, R330 to R337). -/

namespace Sys2Proof.Proofs.MatrixEntry

open Sys2Proof.Machine Sys2Proof.Spec Sys2Proof.Proofs.Sync Sys2Proof.Proofs.Operands Sys2Proof.Proofs.LatticeEntry
  Sys2Proof.Proofs.TileEntry Sys2Proof.Proofs.ScalarInteger Sys2Proof.Proofs.IssuerKept
open Sys2Proof.Proofs.Fences hiding needZeroA_ok

/-! ## `mma` (R330, R331) -/

theorem exec_mma {i : Instr} {d a : BitVec 3} {p q : BitVec 5} {f : Nat}
    (hi : (i = .mmaBf16 d a p q ∧ f = 0) ∨ (i = .mmaF16 d a p q ∧ f = 1) ∨ (i = .mmaE4m3 d a p q ∧ f = 2) ∨
      (i = .mmaE5m2 d a p q ∧ f = 3) ∨ (i = .mmaCb4 d a p q ∧ f = 4)) (s : State) :
    exec i s = lattice (enterMma i d a p q f) s := by
  obtain ⟨rfl, rfl⟩ | ⟨rfl, rfl⟩ | ⟨rfl, rfl⟩ | ⟨rfl, rfl⟩ | ⟨rfl, rfl⟩ := hi <;> rfl

theorem fp8Form_iff (f : Nat) : fp8Form f = true ↔ f = 2 ∨ f = 3 := by
  simp [fp8Form]

/-- R330: K of an FP8 form is 1 to 512; K of a 16-bit form is refused when it is 0 or above 256. -/
theorem mmaK_refused (f : Nat) (v : Word) : (mmaK f v == 0 || (!fp8Form f && decide (256 < mmaK f v))) = true ↔
    ¬ (f = 2 ∨ f = 3) ∧ (v.toNat / 16 % 512 = 0 ∨ 256 < v.toNat / 16 % 512) := by
  have hk : bits v 12 4 = v.toNat / 16 % 512 := rfl
  rw [← fp8Form_iff, mmaK, hk]
  cases fp8Form f <;> by_cases h0 : v.toNat / 16 % 512 = 0 <;> simp [h0]

section
variable {s : State} (i : Instr) {d a : BitVec 3} {p q : BitVec 5} {f : Nat}

theorem enterMma_wrongMode (h : matrixMode s = false) :
    enterMma i d a p q f s = .error (.trap Cause.illMode (word (encode i).toNat) 0 0) s :=
  M.bind_error (needMode_wrong i h)

variable (hmode : matrixMode s = true)
include hmode

theorem enterMma_sameTile : enterMma i d d p q f s = .error (.trap Cause.mmaShape (word (5 * 2 ^ 32 + (encode i).toNat)) 0 0) s := by
  rw [enterMma, M.bind_ok (needMode_ok i hmode)]
  exact M.bind_error (trapIf_traps (beq_self_eq_true d))

variable (hda : d ≠ a) (hbits : (s.x p).toNat % 2 ^ 32 &&& (2 ^ 32 - 1 - 0x7000000) = 0) (hq : (s.x q).toNat < 2 ^ 13)
include hda hbits hq

theorem enterMma_checksK : enterMma i d a p q f s =
    (trapIf (mmaK f (s.x q) == 0 || (!fp8Form f && decide (256 < mmaK f (s.x q)))) Cause.mmaShape (wordEval i 2) >>= fun _ =>
      enterLattice { LEntry.new i s.cur.2 (s.x p) (s.x q) 0 with fmt := f }) s := by
  rw [enterMma, M.bind_ok (needMode_ok i hmode), bind_trapIf_pass (beq_eq_false_iff_ne.2 hda), bind_get]
  rw [M.bind_ok (owBits_ok i hbits), bind_trapIf_pass (bits_bne_zero hq 63)]

theorem enterMma_queues (hk : (f = 2 ∨ f = 3) ∨ ((s.x q).toNat / 16 % 512 ≠ 0 ∧ (s.x q).toNat / 16 % 512 ≤ 256)) :
    enterMma i d a p q f s = enterLattice { LEntry.new i s.cur.2 (s.x p) (s.x q) 0 with fmt := f } s := by
  rw [enterMma_checksK i hmode hda hbits hq, bind_trapIf_pass]
  rw [← Bool.not_eq_true, mmaK_refused]
  omega

theorem enterMma_wrongK (hform : ¬ (f = 2 ∨ f = 3)) (hk : (s.x q).toNat / 16 % 512 = 0 ∨ 256 < (s.x q).toNat / 16 % 512) :
    enterMma i d a p q f s = .error (.trap Cause.mmaShape (word (2 * 2 ^ 32 + (encode i).toNat)) 0 0) s := by
  rw [enterMma_checksK i hmode hda hbits hq]
  exact M.bind_error (trapIf_traps ((mmaK_refused f _).2 ⟨hform, hk⟩))

end

/-! ## The `ssm` forms (R337) -/

theorem exec_ssm {i : Instr} {d : BitVec 3} {q : BitVec 5} (hi : i = .ssm d q ∨ i = .ssmC d q ∨ i = .ssmR d q) (s : State) :
    exec i s = lattice (enterSsm i q) s := by
  obtain rfl | rfl | rfl := hi <;> rfl

theorem enterSsm_wrongMode {s : State} (i : Instr) {q : BitVec 5} (h : matrixMode s = false) :
    enterSsm i q s = .error (.trap Cause.illMode (word (encode i).toNat) 0 0) s :=
  M.bind_error (needMode_wrong i h)

/-- What an `ssm` notes of the control block that its index names. -/
def noteBlock : Option Ent → M Unit
  | some x => noteWrite x
  | none => pure ()

/-- The entry into the queue, and the note of a control block that has no J. -/
theorem enterSsm_queues {s : State} (i : Instr) {q : BitVec 5} (hmode : matrixMode s = true) (hq : (s.x q).toNat < 2 ^ 16) :
    enterSsm i q s =
      (enterLattice { LEntry.new i s.cur.2 0 (s.x q) 0 with index := (s.x q).toNat } >>= fun _ =>
        noteBlock (s.liveEnt (s.ctxidOf s.cur.1) (s.x q).toNat)) s := by
  rw [enterSsm, M.bind_ok (needMode_ok i hmode), bind_get, bind_trapIf_pass (bits_bne_zero hq 63), bits_of_lt hq]
  rfl

/-! ## `wbld` (R332) -/

/-- The check of the source of a `wbld`. -/
abbrev wbldSource (s : State) (o : BitVec 3) (q : BitVec 5) : Except Bad Ent :=
  (current s).checkMove ((current s).ctxidOf (current s).cur.1)
    ((current s).indexHandle ((current s).ctxidOf (current s).cur.1) ((s.x q).toNat / 2 ^ 13)) (s.x (o.setWidth 5)).toInt
    (wbldBytes (s.x q)) 0 false

/-- The access of a `wbld` to the pages of its source `x`. -/
abbrev wbldPages (s : State) (o : BitVec 3) (q : BitVec 5) (x : Ent) : M Acc :=
  checkPages x (s.x (o.setWidth 5)).toInt.toNat ⟨[], wbldBytes (s.x q) x.fmt, false, 0, false, .read⟩

/-- The entry of a `wbld` before its source is known. -/
abbrev wbldNew (s : State) (o : BitVec 3) (q : BitVec 5) : LEntry := LEntry.new (.wbld o q) s.cur.2 0 (s.x q) 0

/-- The entry of a `wbld` whose source is `x`, with the homes of its bytes. -/
def wbldEntry (s : State) (o : BitVec 3) (q : BitVec 5) (x : Ent) (homes : List (Nat × Home)) : LEntry :=
  { wbldNew s o q with
    index := x.index, base := x.base, off := (s.x (o.setWidth 5)).toInt.toNat, leaf := x.leaf (current s).cur.1, homes := homes,
    cbslot := x.cbslot, fmt := x.fmt, params := [word x.gen] }

/-- What a `wbld` on a word in form does with what the check of its source finds; a format that is no source has no pages. -/
def wbldTakes (s : State) (o : BitVec 3) (q : BitVec 5) : Except Bad Ent → M Unit
  | .error b => enterLattice { wbldNew s o q with fault := some (b.cause, b.eval) }
  | .ok x => if wbldBytes (s.x q) x.fmt = 0 then enterLattice (wbldEntry s o q x [])
    else wbldPages s o q x >>= fun a => enterLattice (wbldEntry s o q x a.homes)

section
variable {s u : State} {o : BitVec 3} {q : BitVec 5} {x : Ent}

theorem enterWbld_takes (hq : (s.x q).toNat < 2 ^ 29) (htables : tablesOpen s) :
    enterWbld (.wbld o q) o q s = wbldTakes s o q (wbldSource s o q) (current s) := by
  have hindex : bits (s.x q) 28 13 = (s.x q).toNat / 2 ^ 13 := by
    rw [bits, Nat.mod_eq_of_lt]
    omega
  rw [enterWbld, bind_get, bind_trapIf_pass (bits_bne_zero hq 63), M.bind_ok (tablesCurrent_ok htables), bind_get, hindex]
  simp only [current_cur, wbldSource, wbldTakes, wbldEntry]
  rfl

theorem wbldTakes_pages {a : Acc} {t : State} (hn : wbldBytes (s.x q) x.fmt ≠ 0) (hpages : wbldPages s o q x t = .ok a u) :
    wbldTakes s o q (.ok x) t = enterLattice (wbldEntry s o q x a.homes) u :=
  (congrFun (if_neg hn) t).trans (M.bind_ok hpages)

theorem wbldTakes_noPages {t : State} (hn : wbldBytes (s.x q) x.fmt = 0) :
    wbldTakes s o q (.ok x) t = enterLattice (wbldEntry s o q x []) t := congrFun (if_pos hn) t

end

theorem matrixEntry : MatrixEntry := by
  refine ⟨?_, ?_, ?_⟩
  · intro s i d a p q f hi hopen w k code
    have hrun := exec_mma hi s
    refine ⟨fun hmode => hrun.trans (lattice_raises hopen.1 (enterMma_wrongMode i hmode)),
      fun hmode hda => hrun.trans (lattice_raises hopen.1 (hda ▸ enterMma_sameTile i hmode)),
      fun hmode hda hbits hq => ⟨fun hk => hrun.trans (lattice_enters hopen.1 hopen (enterMma_queues i hmode hda hbits hq hk)),
        fun hform hk => hrun.trans (lattice_raises hopen.1 (enterMma_wrongK i hmode hda hbits hq hform hk))⟩⟩
  · intro s i d q hi hopen
    have hrun := exec_ssm hi s
    refine ⟨fun hmode => hrun.trans (lattice_raises hopen.1 (enterSsm_wrongMode i hmode)), ?_⟩
    intro hmode hq z
    obtain ⟨hskip, hroom, hcut⟩ := hopen
    refine hrun.trans ((lattice_runs hskip).trans (runInstr_ok ((enterSsm_queues i hmode hq).trans
      ((M.bind_ok (enterLattice_enters _ hroom hcut)).trans ?_))))
    rcases s.liveEnt (s.ctxidOf s.cur.1) (s.x q).toNat with _ | x
    · rfl
    · exact noteWrite_ok _ x
  · intro s o q hskip hq htables v off t ctxid h e r z
    have hrun : ∀ {m : Except Bad Ent}, r = m →
        exec (.wbld o q) s = runInstr (wbldTakes s o q m) t := fun hr =>
      (lattice_runs hskip).trans (runInstr_congr ((enterWbld_takes hq htables).trans (by rw [← hr])))
    refine ⟨fun b hr ht => (hrun hr).trans (runInstr_ok (enterLattice_enters _ ht.2.1 ht.2.2)),
      fun x a u hr hn hpages hu => (hrun hr).trans (runInstr_ok ((wbldTakes_pages hn hpages).trans
        (enterLattice_enters _ hu.2.1 hu.2.2))),
      fun x hr hn ht => (hrun hr).trans (runInstr_ok ((wbldTakes_noPages hn).trans (enterLattice_enters _ ht.2.1 ht.2.2)))⟩

/-! ## `lmode` and `lfence` (R333, R334) -/

section
variable {s : State}

theorem latticeDone_passes (h : s.curCore.latticeIdle = true) : latticeDone s = .ok () s :=
  waitIf_pass (congrArg (!·) h)

theorem latticeDone_waits (h : s.curCore.latticeIdle = false) : latticeDone s = .error (.wait .latticeEmpty) s :=
  waitIf_waits (congrArg (!·) h)

/-- The state in which the lattice of the core that issues has another mode. -/
def modeSet (s : State) (m : BitVec 3) : State := s.modCurCore (fun k => { k with lqst := setBits k.lqst 7 7 m.toNat })

theorem lmode_retires (m : BitVec 3) (h : s.curCore.latticeIdle = true) : Answers (.lmode m) s (modeSet s m).retire :=
  runInstr_ok ((M.bind_ok (latticeDone_passes h)).trans ((bind_modify _ _ _).trans (retire_ok _)))

theorem modeSet_lqst (m : BitVec 3) : (modeSet s m).retire.curCore.lqst = setBits s.curCore.lqst 7 7 m.toNat := by
  rw [State.retire, State.curCore_modCur, modeSet, State.curCore_modCurCore]
  rfl

theorem modeSet_mode {m : BitVec 3} (hm : m.toNat < 2) : matrixMode (modeSet s m).retire = decide (m = 1) := by
  rw [matrixMode, modeSet_lqst, getLsbD_setBits _ (by decide) _ _ (by decide)]
  have : m = 0 ∨ m = 1 := by bv_omega
  rcases this with rfl | rfl <;> rfl

theorem modeSet_otherBits (m : BitVec 3) {k : Nat} (hk : k < 64) (h7 : k ≠ 7) :
    (modeSet s m).retire.curCore.lqst.getLsbD k = s.curCore.lqst.getLsbD k := by
  rw [modeSet_lqst, getLsbD_setBits _ (by decide) _ _ hk]
  split
  · rfl
  · rw [if_neg (by omega)]

theorem modeSet_curCtx (m : BitVec 3) (hcur : s.cur.2 < 11) : (modeSet s m).retire.curCtx = s.curCtx.retire := by
  have hkept : (modeSet s m).curCtx = s.curCtx := State.curCtx_modCurCore _ _ fun _ => rfl
  rw [State.retire, State.curCtx_modCur (s := modeSet s m) (h := hcur), hkept]

end

theorem latticeModeAndFence : LatticeModeAndFence := by
  refine ⟨fun s m hm => ⟨fun hidle hcur => ⟨_, lmode_retires m hidle, modeSet_mode hm, fun k => modeSet_otherBits m, ?_, ?_, rfl, rfl⟩,
    fun hbusy => runInstr_wait (M.bind_error (latticeDone_waits hbusy))⟩, ?_⟩
  · rw [modeSet_curCtx m hcur, Ctx.retire_regs]
  · rw [modeSet_curCtx m hcur, Ctx.retire_instret]
  · intro s hqueue t
    have hdrained : exec .lfence s = runInstr (do
        latticeDone
        let s ← get
        waitIf (s.curCore.rfcnt != 0 || s.remoteBusy) .remoteIdle
        deliver .lfence
        retire) t := runInstr_congr ((M.bind_ok (queueOpen_ok hqueue)).trans (bind_modify _ _ _))
    refine ⟨fun hbusy => hdrained.trans (runInstr_wait (M.bind_error (latticeDone_waits hbusy))), fun hidle => ?_, fun hidle => ?_⟩
    · refine fun hremote => hdrained.trans (runInstr_wait ((M.bind_ok (latticeDone_passes hidle)).trans ((bind_get _ _).trans
        (M.bind_error (waitIf_waits ((remoteIdle_iff t).2 hremote))))))
    · intro hcount hnone
      have hdelivers : exec .lfence s = runInstr (deliver .lfence >>= fun _ => retire) t :=
        hdrained.trans (runInstr_congr ((M.bind_ok (latticeDone_passes hidle)).trans ((bind_get _ _).trans
          (bind_waitIf_pass (remoteIdle_none hcount hnone)))))
      exact ⟨fun hd => hdelivers.trans (runInstr_ok (deliver_retires hd)), fun d hd => hdelivers.trans (deliver_raises hd)⟩

/-- Settles O47: matrix work and weight loads pass their checks and enter the queue, and the mode changes on an idle lattice only. -/
theorem matrixAndFence : Obligations.MatrixAndFence := ⟨matrixEntry, latticeModeAndFence⟩

end Sys2Proof.Proofs.MatrixEntry
end
